-- ==== Sys2Proof/Word.lean ====
section
/-!
DEFINITION. The word types of the OV-5220: bytes, 64-bit general registers, 512-bit vector registers (R3, R8, R20).
-/
namespace Sys2Proof

/-- One byte (R3). -/
abbrev Byte := BitVec 8

/-- A 64-bit general register, address or control register (R217). -/
abbrev Word := BitVec 64

/-- A 512-bit vector register (R20). -/
abbrev VReg := BitVec 512

/-- One 32-bit instruction word (R223) or one word of a tile command word (R230). -/
abbrev IWord := BitVec 32

end Sys2Proof
end

