-- ==== Sys2Proof/Syntax.lean ====
section
/-!
DEFINITION. The instructions of the OV-5220: one constructor for each row of the opcode table. The 32-bit words of
R223 to R228 carry exactly their encoded fields; the steps without an encoding (tile commands, events, monitor
calls, link control words) carry what the event itself brings.
-/
namespace Sys2Proof

/-- The three writing forms of a CSR instruction (R247). -/
inductive CsrOp where
  /-- CSRW: the operand becomes the value. -/
  | write
  /-- CSRS: the operand's ones are set. -/
  | set
  /-- CSRC: the operand's ones are cleared. -/
  | clear
  deriving DecidableEq, Repr

/-- The common fields of w0 and the completion-record address of a tile command word (R230, R336). -/
structure CmdHead where
  /-- raise a KIND 2 event on completion -/
  irq : Bool
  /-- count delivered bytes on channel chan -/
  bar : Bool
  /-- write a completion record at crec -/
  wantsRecord : Bool
  chan : BitVec 5
  tag : BitVec 16
  crec : BitVec 48
  deriving DecidableEq, Repr

/-- COPY (R339, R341). -/
structure CopyCmd where
  qch : BitVec 6
  len : BitVec 26
  src : BitVec 48
  dst : BitVec 48
  pkg : BitVec 14
  rp : Bool
  deriving DecidableEq, Repr

/-- COPYND (R339, R342). -/
structure CopyndCmd where
  qch : BitVec 6
  desc : BitVec 48
  deriving DecidableEq, Repr

/-- GATHR (R339, R343). -/
structure GathrCmd where
  qch : BitVec 6
  n : BitVec 26
  parm : BitVec 48
  deriving DecidableEq, Repr

/-- SCATR (R339, R203). -/
structure ScatrCmd where
  qch : BitVec 6
  ntok : BitVec 25
  parm : BitVec 48
  ne : BitVec 16
  deriving DecidableEq, Repr

/-- FILL (R339, R344). -/
structure FillCmd where
  qch : BitVec 6
  len : BitVec 26
  dst : BitVec 48
  pat : BitVec 64
  deriving DecidableEq, Repr

/-- FEEDA and FEEDB (R339, R344). -/
structure FeedCmd where
  qch : BitVec 6
  len : BitVec 26
  src : BitVec 48
  deriving DecidableEq, Repr

/-- DRAIN (R339, R345). -/
structure DrainCmd where
  qch : BitVec 6
  rows : BitVec 9
  words : BitVec 10
  abase : BitVec 16
  apitch : BitVec 16
  dst : BitVec 48
  dpitch : BitVec 16
  deriving DecidableEq, Repr

/-- COPYG (R339, R346). -/
structure CopygCmd where
  qch : BitVec 6
  len : BitVec 26
  parm : BitVec 48
  deriving DecidableEq, Repr

/-- XSCHED (R339, R347). -/
structure XschedCmd where
  qch : BitVec 6
  jig : BitVec 48
  deriving DecidableEq, Repr

/-- MMA and MMAT (R348). -/
structure MmaCmd where
  m : BitVec 9
  n : BitVec 9
  rcnt : BitVec 9
  gsplit : Bool
  rm : BitVec 3
  isat : Bool
  k : BitVec 17
  fzi : Bool
  fzo : Bool
  abase : BitVec 16
  apitch : BitVec 16
  deriving DecidableEq, Repr

/-- MZERO (R348, R190). -/
structure MzeroCmd where
  m : BitVec 9
  n : BitVec 9
  gsplit : Bool
  ew2 : Bool
  abase : BitVec 16
  apitch : BitVec 16
  deriving DecidableEq, Repr

/-- HIST (R349, R201). -/
structure HistCmd where
  ntok : BitVec 25
  ids : BitVec 48
  ne : BitVec 16
  cnt : BitVec 48
  deriving DecidableEq, Repr

/-- PSUM (R349, R202). -/
structure PsumCmd where
  ne : BitVec 11
  cnt : BitVec 48
  offs : BitVec 48
  deriving DecidableEq, Repr

/-- TOPK (R349, R205). -/
structure TopkCmd where
  nr : BitVec 17
  nc : BitVec 11
  kfmt : BitVec 2
  parm : BitVec 48
  k : BitVec 16
  deriving DecidableEq, Repr

/-- AUCT (R349, R211). -/
structure AuctCmd where
  nt : BitVec 17
  ne : BitVec 11
  dom : BitVec 4
  parm : BitVec 48
  eps : BitVec 16
  lim : BitVec 12
  dcol : Bool
  auto : Bool
  deriving DecidableEq, Repr

/-- APPORT (R349, R207). -/
structure ApportCmd where
  nb : BitVec 10
  ne : BitVec 11
  cnt : BitVec 48
  bays : BitVec 48
  deriving DecidableEq, Repr

/-- RSORT (R349, R204). -/
structure RsortCmd where
  np : BitVec 21
  src : BitVec 48
  dst : BitVec 48
  deriving DecidableEq, Repr

/-- PRICE (R349, R210); the operation is the constructor's. -/
structure PriceCmd where
  dom : BitVec 4
  first : BitVec 10
  num : BitVec 11
  addr : BitVec 48
  numer : BitVec 16
  shift : BitVec 5
  deriving DecidableEq, Repr

/-- CPLAN (R350, R165). -/
structure CplanCmd where
  desc : BitVec 48
  deriving DecidableEq, Repr

/-- CFREE (R350, R174). -/
structure CfreeCmd where
  handle : BitVec 12
  deriving DecidableEq, Repr

/-- LAUNCH (R351, R352). -/
structure LaunchCmd where
  nsucc : BitVec 3
  pkt : BitVec 48
  succ0 : BitVec 16
  succ1 : BitVec 16
  succ2 : BitVec 16
  succ3 : BitVec 16
  deriving DecidableEq, Repr

/-- RANGEINIT (R351, R353). -/
structure RangeinitCmd where
  ru : BitVec 4
  div : BitVec 16
  start : BitVec 64
  length : BitVec 32
  minc : BitVec 32
  deriving DecidableEq, Repr

/-- CANCEL (R351, R354). -/
structure CancelCmd where
  level : BitVec 3
  key : BitVec 32
  index : BitVec 16
  deriving DecidableEq, Repr

/-- CNTWAIT (R351, R355). -/
structure CntwaitCmd where
  level : BitVec 3
  sealIt : Bool
  nowait : Bool
  key : BitVec 32
  index : BitVec 16
  deriving DecidableEq, Repr

/-- QFENCE (R356). -/
structure QfenceCmd where
  qch : BitVec 6
  qset : BitVec 4
  cset : BitVec 63
  deriving DecidableEq, Repr

/-- One tile command (R231, R337); PRICE is split by its operation (R210). -/
inductive Cmd where
  | copy (c : CopyCmd)
  | copynd (c : CopyndCmd)
  | gathr (c : GathrCmd)
  | scatr (c : ScatrCmd)
  | fill (c : FillCmd)
  | feeda (c : FeedCmd)
  | feedb (c : FeedCmd)
  | drain (c : DrainCmd)
  | copyg (c : CopygCmd)
  | xsched (c : XschedCmd)
  | mma (c : MmaCmd)
  | mmat (c : MmaCmd)
  | mzero (c : MzeroCmd)
  | hist (c : HistCmd)
  | psum (c : PsumCmd)
  | topk (c : TopkCmd)
  | auct (c : AuctCmd)
  | apport (c : ApportCmd)
  | rsort (c : RsortCmd)
  | priceRead (c : PriceCmd)
  | priceWrite (c : PriceCmd)
  | priceScale (c : PriceCmd)
  | priceReset (c : PriceCmd)
  | cplan (c : CplanCmd)
  | cfree (c : CfreeCmd)
  | launch (c : LaunchCmd)
  | rangeinit (c : RangeinitCmd)
  | cancel (c : CancelCmd)
  | cntwait (c : CntwaitCmd)
  | qfence (c : QfenceCmd)
  deriving DecidableEq, Repr

/-- The common part of a plan descriptor, bytes 0 to 31 (R165). -/
structure PlanCommon where
  kind : Nat
  op : Nat
  fanout : Nat
  inst : Nat
  gen : Nat
  nmem : Nat
  group : Nat
  count : Nat
  membersAddr : Nat
  deriving DecidableEq, Repr

/-- A CPLAN reaching its coordinator: the common part, the member list as (package, core), and the sender (R166). -/
structure PlanArrival where
  common : PlanCommon
  members : List (Nat × Nat)
  pkg : Nat
  core : Nat
  deriving DecidableEq, Repr

/-- A round of CPLANs open at a coordinator (R166). -/
structure PlanRound where
  group : Nat
  first : PlanArrival
  counted : Nat
  arrived : List PlanArrival
  differed : Bool
  deriving DecidableEq, Repr

/-- What a coordinator holds of a plan it coordinates: its common part, its members, the hub and number of the round that
made it, whether it is live, and the ranks whose CFREE has completed (R166, R169, R174). -/
structure RolePlan where
  common : PlanCommon
  memberList : List (Nat × Nat)
  round : Nat × Nat
  live : Bool
  freedRanks : List Nat
  deriving DecidableEq, Repr

/-- A posting of instance inst of the plan of a group by a member's rank (R167, R169). -/
structure Posting where
  group : Nat
  inst : Nat
  rank : Nat
  deriving DecidableEq, Repr

/-- A start ticket with its global rank, and the packages whose members it names (R170). -/
structure Ticket where
  group : Nat
  inst : Nat
  grank : Word
  pkgs : List Nat
  deriving DecidableEq, Repr

/-- The level of a PAM4 symbol, -3, -1, +1 or +3 (R157). -/
inductive Level where
  | n3
  | n1
  | p1
  | p3
  deriving DecidableEq, Repr

/-- What the four lanes of a port bring in a training phase, in order of arrival; gap is how many symbols each has brought
before, since its descrambler stood as it stands (R158, R159). -/
structure LaneRun where
  gap : Nat
  lanes : List (List Level)
  deriving DecidableEq, Repr

/-- The lanes of one port. -/
structure PortRun where
  port : Nat
  run : LaneRun
  deriving DecidableEq, Repr

/-- A graph of a context (R74). -/
structure CtxGraph where
  ctx : Nat
  graph : Nat
  deriving DecidableEq, Repr

/-- What phase 2 of training learned of one lane: the number of the lane that feeds it, its polarity, and by how many
symbols it lags the earliest lane (R157, R159). -/
structure TrainedLane where
  number : Nat
  inverted : Bool
  skew : Nat
  deriving DecidableEq, Repr

/-- What one hub tells another (R160, R162, R164, R166, R169, R170, R341); dst is the package it goes to. -/
inductive OutMsg where
  /-- bytes of a remote copy for an address of the peer context; id names the entry that sent them -/
  | copyWrite (dst ctx id addr : Nat) (bytes : List Byte)
  /-- the answer: so many bytes written, or the cause and address of the fault met -/
  | copyAnswer (dst id n : Nat) (fault : Option (Nat × Nat))
  | planArrival (dst : Nat) (a : PlanArrival)
  /-- the coordinator asks a member's hub for its part of a plan's reservations; id names the round -/
  | planReserve (dst id : Nat) (common : PlanCommon) (members : List (Nat × Nat))
  | planReserved (dst id : Nat) (ok : Bool)
  /-- the plan of a round is live (status 0), or every member's CPLAN ends with the status -/
  | planVerdict (dst id status : Nat)
  /-- one member's CPLAN of a group ends -/
  | planEnd (dst core group status : Nat)
  /-- CFREE has completed at a member -/
  | planFreed (dst group rank : Nat)
  /-- CFREE has completed at every member -/
  | planDrop (dst group : Nat)
  /-- the plan's instances end as after a failure -/
  | planKill (dst group : Nat)
  | posting (dst : Nat) (p : Posting)
  /-- the coordinator's reply: 0 accepted, 1 to be retried, 2 there is no such plan -/
  | postingAnswer (dst : Nat) (p : Posting) (code : Nat)
  | rootTicket (dst : Nat) (t : Ticket)
  | ticket (dst : Nat) (t : Ticket)
  /-- a member's data of an instance; none when its read failed -/
  | contribution (dst group inst rank : Nat) (bytes : Option (List Byte))
  /-- the instance ends with cause 20 at its members -/
  | instFail (dst group inst : Nat)
  /-- a partial value, or the result, of a group's wave over an edge of the tree -/
  | wave (dst group : Nat) (value : Word)
  /-- a coordinator role passes to the hub, with what it holds: tickets counted, plans, postings accepted, open rounds -/
  | roleState (dst : Nat) (root : Bool) (count : Nat) (plans : List RolePlan) (table : List (Nat × Nat × List Nat)) (rounds : List PlanRound)
  deriving DecidableEq, Repr

/-- A packet: the hub that sent it, its class, its end-to-end sequence number, and what it tells (R162). -/
structure HubPacket where
  src : Nat
  cls : Nat
  seq : Nat
  msg : OutMsg
  deriving DecidableEq, Repr

/-- What firmware policy names for one partition, with its supervisor image (R379 stages 5 and 6, R381, R382). -/
structure PartPolicy where
  trusses : List Nat
  pages : List Nat
  banks : List (Nat × Nat)
  channels : List Nat
  groups : List Nat
  lpddr : List Nat
  /-- ranges of the stacked tier, of 1 GiB each -/
  stacked : List Nat
  /-- Fihorn ports and the share of each, in hundredths -/
  ports : List (Nat × Nat)
  supImage : List Byte
  supSig : List Byte
  /-- where the supervisor image's bytes are loaded: physical address in the stacked tier, bytes -/
  supLoad : List (Nat × List Byte)
  supPtroot : Word
  recordAddr : Word
  deriving DecidableEq, Repr

/-- A firmware image: the signed body, its signature, the hash of the key that signed it, its security version and
what its firmware sets and the partition policy it carries (R379, R380). -/
structure FwImage where
  body : List Byte
  sig : List Byte
  keyHash : BitVec 256
  version : Nat
  parts : List PartPolicy
  /-- the package id and the hub's route table (R162) -/
  pkgId : Nat
  routes : List (Nat × List Nat)
  /-- the package that each Fihorn port is cabled to (R159) -/
  cables : List (Nat × Nat)
  /-- the package power cap in watts (R387) -/
  cap : Nat
  /-- coordination domains: of this package, of others, and the hubs named as coordinators (R169) -/
  domain : Nat
  domains : List (Nat × Nat)
  domainHub : Nat
  rootHub : Nat
  deriving DecidableEq, Repr

/-- A place of the frozen package that the scan chains reach (R385); a core's by its number. -/
inductive ScanPlace where
  /-- a byte of a memory, by its place there -/
  | mem (key : Nat)
  | gpr (core n : Nat)
  /-- g16 to g23 of the bank that is not active, counted from 0 -/
  | shadow (core n : Nat)
  | vec (core n : Nat)
  | pred (core n : Nat)
  | pc (core : Nat)
  /-- the privilege: 1 at supervisor level -/
  | level (core : Nat)
  /-- a control register by its number -/
  | csr (core num : Nat)
  | accum (core word : Nat)
  /-- a byte of a core's operand FIFO -/
  | fifo (core : Nat) (isB : Bool) (i : Nat)
  /-- a word of a port register's receive queue -/
  | portWord (core queue i : Nat)
  /-- an entry of a core's queues: 0 bytes done, 1 bytes moved, 2 status, 3 cause, 4 count, 5 to 7 the addresses -/
  | entry (core i part : Nat)
  /-- a barrier channel: 0 the episode, 1 the count, 2 the bytes counted for the next episode -/
  | channel (num part : Nat)
  | price (die bank i : Nat)
  /-- a range unit: 0 the next index, 1 how many are left -/
  | range (truss unit part : Nat)
  | tree (node group : Nat)
  /-- the hub's counts: 0 of root tickets, 1 of domain tickets -/
  | tickets (part : Nat)
  /-- a Fihorn port: 0 the next SEQ to send, 1 the SEQ expected -/
  | port (num part : Nat)
  /-- a versioned scalar register of a partition: its current or its previous value (R90) -/
  | versioned (part n : Nat) (previous : Bool)
  /-- an event of a core's event queue, or one held at an engine: 0 bytes remaining, 1 kind, 2 cause, 3 queue, 4 tag -/
  | event (core : Nat) (held : Bool) (i part : Nat)
  /-- a notice of a core's notice queue: 0 the page, 1 the status -/
  | notice (core i part : Nat)
  /-- a wave slot that is not idle: 0 posted, 1 ready or 2 failed; or, as part 1, its value -/
  | wave (core group part : Nat)
  /-- a byte of the head of a core's kerf stack, and its levels: 0 RB, 1 BB -/
  | kerfHead (core i : Nat)
  | kerfLevel (core part : Nat)
  /-- a translation of a core's D-TLB or I-TLB, or of the second-level TLBs: 0 the context, 1 the page in 64 KiB, 2 whether
  it is one of 2 MiB, 3 the descriptor -/
  | tlb (core : Nat) (data : Bool) (i part : Nat)
  | l2tlb (i part : Nat)
  /-- a line of a core's L1 data or instruction cache: 0 its location, n + 1 byte n -/
  | line (core : Nat) (data : Bool) (i part : Nat)
  /-- a launch entry of a partition, by its parts (see Launch.scanPart) -/
  | launch (part i field : Nat)
  /-- a graph (0), phase (1) or job (2) entry: 0 id, 1 context, 2 parent, 3 sealed, 4 cancelled, 5 status, 6 outstanding -/
  | counter (part level i field : Nat)
  /-- a context: 0 its id, 1 its partition, 2 its state, 3 its page-table root -/
  | context (i field : Nat)
  /-- an open eviction set of a context: 0 its number, 1 its state -/
  | evictSet (i n field : Nat)
  /-- a place in a saved image of a context; its core number is the one the image was saved from -/
  | image (i n : Nat) (p : ScanPlace)
  /-- a plan: 0 group, 1 kind, 2 operation, 3 fanout, 4 instances, 5 members, 6 count, 7 whether it is live -/
  | plan (i field : Nat)
  /-- a plan's member: 0 rank, 1 core, 2 context, 3 handle, 4 triggers posted, 5 buffers, 6 freed, 7 source, 8
  destination, 9 record address -/
  | member (i n field : Nat)
  deriving DecidableEq, Repr

/-- An access through the scan chains (R385). -/
inductive ScanAccess where
  | read (p : ScanPlace)
  | write (p : ScanPlace) (value : Nat)
  deriving DecidableEq, Repr

/-- The instructions and steps of the opcode table, one constructor a row. -/
inductive Instr where
  /-- ADD (R234): ALU: writes the 64-bit wrapping sum of ga and gb to gd. -/
  | add (rd : BitVec 5) (ra : BitVec 5) (rb : BitVec 5)
  /-- SUB (R234): ALU: writes the 64-bit wrapping difference ga - gb to gd. -/
  | sub (rd : BitVec 5) (ra : BitVec 5) (rb : BitVec 5)
  /-- AND (R234): ALU: writes the bitwise AND of ga and gb to gd. -/
  | and (rd : BitVec 5) (ra : BitVec 5) (rb : BitVec 5)
  /-- OR (R234): ALU: writes the bitwise OR of ga and gb to gd. -/
  | or (rd : BitVec 5) (ra : BitVec 5) (rb : BitVec 5)
  /-- XOR (R234): ALU: writes the bitwise XOR of ga and gb to gd. -/
  | xor (rd : BitVec 5) (ra : BitVec 5) (rb : BitVec 5)
  /-- ANDN (R234): ALU: writes ga AND NOT gb to gd. -/
  | andn (rd : BitVec 5) (ra : BitVec 5) (rb : BitVec 5)
  /-- SLL (R234): ALU: shifts ga left by gb[5:0]. -/
  | sll (rd : BitVec 5) (ra : BitVec 5) (rb : BitVec 5)
  /-- SRL (R234): ALU: shifts ga right logically by gb[5:0]. -/
  | srl (rd : BitVec 5) (ra : BitVec 5) (rb : BitVec 5)
  /-- SRA (R234): ALU: shifts ga right arithmetically by gb[5:0]. -/
  | sra (rd : BitVec 5) (ra : BitVec 5) (rb : BitVec 5)
  /-- ROR (R234): ALU: rotates ga right by gb[5:0]. -/
  | ror (rd : BitVec 5) (ra : BitVec 5) (rb : BitVec 5)
  /-- SLT (R234): ALU: writes 1 if ga < gb signed, else 0. -/
  | slt (rd : BitVec 5) (ra : BitVec 5) (rb : BitVec 5)
  /-- SLTU (R234): ALU: writes 1 if ga < gb unsigned, else 0. -/
  | sltu (rd : BitVec 5) (ra : BitVec 5) (rb : BitVec 5)
  /-- MIN (R234): ALU: writes the signed lesser of ga and gb. -/
  | min (rd : BitVec 5) (ra : BitVec 5) (rb : BitVec 5)
  /-- MAX (R234): ALU: writes the signed greater of ga and gb. -/
  | max (rd : BitVec 5) (ra : BitVec 5) (rb : BitVec 5)
  /-- MINU (R234): ALU: writes the unsigned lesser of ga and gb. -/
  | minu (rd : BitVec 5) (ra : BitVec 5) (rb : BitVec 5)
  /-- MAXU (R234): ALU: writes the unsigned greater of ga and gb. -/
  | maxu (rd : BitVec 5) (ra : BitVec 5) (rb : BitVec 5)
  /-- MUL (R234): ALU: writes the low 64 bits of ga times gb. -/
  | mul (rd : BitVec 5) (ra : BitVec 5) (rb : BitVec 5)
  /-- MULH (R234): ALU: writes the high 64 bits of the signed 128-bit product. -/
  | mulh (rd : BitVec 5) (ra : BitVec 5) (rb : BitVec 5)
  /-- MULHU (R234): ALU: writes the high 64 bits of the unsigned 128-bit product. -/
  | mulhu (rd : BitVec 5) (ra : BitVec 5) (rb : BitVec 5)
  /-- DIV (R235): ALU: signed quotient truncated toward zero, never trapping. -/
  | div (rd : BitVec 5) (ra : BitVec 5) (rb : BitVec 5)
  /-- DIVU (R235): ALU: unsigned quotient, all ones on division by zero. -/
  | divu (rd : BitVec 5) (ra : BitVec 5) (rb : BitVec 5)
  /-- REM (R235): ALU: signed remainder with the sign of the dividend. -/
  | rem (rd : BitVec 5) (ra : BitVec 5) (rb : BitVec 5)
  /-- REMU (R235): ALU: unsigned remainder, the dividend on division by zero. -/
  | remu (rd : BitVec 5) (ra : BitVec 5) (rb : BitVec 5)
  /-- CLZ (R234): ALU: counts leading zero bits of ga. -/
  | clz (rd : BitVec 5) (ra : BitVec 5)
  /-- CTZ (R234): ALU: counts trailing zero bits of ga. -/
  | ctz (rd : BitVec 5) (ra : BitVec 5)
  /-- POPC (R234): ALU: counts one bits of ga. -/
  | popc (rd : BitVec 5) (ra : BitVec 5)
  /-- SEXT (R233): ALU: sign-extends the low byte, halfword or word of ga, size in the rb field. -/
  | sext (rd : BitVec 5) (ra : BitVec 5) (size : BitVec 5)
  /-- ZEXT (R233): ALU: zero-extends the low byte, halfword or word of ga, size in the rb field. -/
  | zext (rd : BitVec 5) (ra : BitVec 5) (size : BitVec 5)
  /-- BSWAP (R234): ALU: reverses the bytes of ga. -/
  | bswap (rd : BitVec 5) (ra : BitVec 5)
  /-- SEL (R234): ALU: writes ga if the old gd is non-zero, else gb. -/
  | sel (rd : BitVec 5) (ra : BitVec 5) (rb : BitVec 5)
  /-- ADDI (R236): Adds the sign-extended immediate to ga. -/
  | addi (rd : BitVec 5) (ra : BitVec 5) (imm : BitVec 16)
  /-- ANDI (R236): ANDs ga with the zero-extended immediate. -/
  | andi (rd : BitVec 5) (ra : BitVec 5) (imm : BitVec 16)
  /-- ORI (R236): ORs ga with the zero-extended immediate. -/
  | ori (rd : BitVec 5) (ra : BitVec 5) (imm : BitVec 16)
  /-- XORI (R236): XORs ga with the zero-extended immediate. -/
  | xori (rd : BitVec 5) (ra : BitVec 5) (imm : BitVec 16)
  /-- SLLI (R237): Shifts ga left by an immediate amount. -/
  | slli (rd : BitVec 5) (ra : BitVec 5) (amt : BitVec 6)
  /-- SRLI (R237): Shifts ga right logically by an immediate amount. -/
  | srli (rd : BitVec 5) (ra : BitVec 5) (amt : BitVec 6)
  /-- SRAI (R237): Shifts ga right arithmetically by an immediate amount. -/
  | srai (rd : BitVec 5) (ra : BitVec 5) (amt : BitVec 6)
  /-- RORI (R237): Rotates ga right by an immediate amount. -/
  | rori (rd : BitVec 5) (ra : BitVec 5) (amt : BitVec 6)
  /-- SLTI (R236): Writes 1 if ga is below the sign-extended immediate, signed. -/
  | slti (rd : BitVec 5) (ra : BitVec 5) (imm : BitVec 16)
  /-- SLTUI (R236): Writes 1 if ga is below the sign-extended immediate, unsigned. -/
  | sltui (rd : BitVec 5) (ra : BitVec 5) (imm : BitVec 16)
  /-- LUI (R238): Sets gd to the sign-extended immediate shifted left by 16. -/
  | lui (rd : BitVec 5) (imm : BitVec 16)
  /-- INSH (R238): Replaces halfword h of gd with the immediate. -/
  | insh (rd : BitVec 5) (hw : BitVec 2) (imm : BitVec 16)
  /-- LB (R239): Loads a sign-extended byte after the checks of R241. -/
  | lb (rd : BitVec 5) (ra : BitVec 5) (off : BitVec 13)
  /-- LH (R239): Loads a sign-extended halfword. -/
  | lh (rd : BitVec 5) (ra : BitVec 5) (off : BitVec 13)
  /-- LW (R239): Loads a sign-extended word. -/
  | lw (rd : BitVec 5) (ra : BitVec 5) (off : BitVec 13)
  /-- LD (R239): Loads a doubleword. -/
  | ld (rd : BitVec 5) (ra : BitVec 5) (off : BitVec 13)
  /-- LBU (R239): Loads a zero-extended byte. -/
  | lbu (rd : BitVec 5) (ra : BitVec 5) (off : BitVec 13)
  /-- LHU (R239): Loads a zero-extended halfword. -/
  | lhu (rd : BitVec 5) (ra : BitVec 5) (off : BitVec 13)
  /-- LWU (R239): Loads a zero-extended word. -/
  | lwu (rd : BitVec 5) (ra : BitVec 5) (off : BitVec 13)
  /-- SB (R240): Stores the low byte of gs after the checks of R241. -/
  | sb (rs : BitVec 5) (ra : BitVec 5) (off : BitVec 13)
  /-- SH (R240): Stores the low halfword of gs. -/
  | sh (rs : BitVec 5) (ra : BitVec 5) (off : BitVec 13)
  /-- SW (R240): Stores the low word of gs. -/
  | sw (rs : BitVec 5) (ra : BitVec 5) (off : BitVec 13)
  /-- SD (R240): Stores the doubleword gs; the only access the trigger window accepts. -/
  | sd (rs : BitVec 5) (ra : BitVec 5) (off : BitVec 13)
  /-- LDA_W (R265): Loads a sign-extended word as an acquire at its scope. -/
  | ldaW (rd : BitVec 5) (ra : BitVec 5) (scope : BitVec 3)
  /-- LDA_D (R265): Loads a doubleword as an acquire at its scope. -/
  | ldaD (rd : BitVec 5) (ra : BitVec 5) (scope : BitVec 3)
  /-- STL_W (R265): Stores a word as a release at its scope. -/
  | stlW (ra : BitVec 5) (rb : BitVec 5) (scope : BitVec 3)
  /-- STL_D (R265): Stores a doubleword as a release at its scope. -/
  | stlD (ra : BitVec 5) (rb : BitVec 5) (scope : BitVec 3)
  /-- FENCE (R138): Orders the named classes of earlier accesses before the named later ones at its scope. -/
  | fence (scope : BitVec 3) (rbit : BitVec 1) (wbit : BitVec 1) (rabit : BitVec 1) (wabit : BitVec 1)
  /-- AMO_ADD (R269): Atomic wrapping add at the location's home, returning the old value. -/
  | amoAdd (rd : BitVec 5) (ra : BitVec 5) (rb : BitVec 5) (size : BitVec 1) (order : BitVec 2) (scope : BitVec 3)
  /-- AMO_AND (R269): Atomic AND, returning the old value. -/
  | amoAnd (rd : BitVec 5) (ra : BitVec 5) (rb : BitVec 5) (size : BitVec 1) (order : BitVec 2) (scope : BitVec 3)
  /-- AMO_OR (R269): Atomic OR, returning the old value. -/
  | amoOr (rd : BitVec 5) (ra : BitVec 5) (rb : BitVec 5) (size : BitVec 1) (order : BitVec 2) (scope : BitVec 3)
  /-- AMO_XOR (R269): Atomic XOR, returning the old value. -/
  | amoXor (rd : BitVec 5) (ra : BitVec 5) (rb : BitVec 5) (size : BitVec 1) (order : BitVec 2) (scope : BitVec 3)
  /-- AMO_MIN (R269): Atomic signed minimum, returning the old value. -/
  | amoMin (rd : BitVec 5) (ra : BitVec 5) (rb : BitVec 5) (size : BitVec 1) (order : BitVec 2) (scope : BitVec 3)
  /-- AMO_MAX (R269): Atomic signed maximum, returning the old value. -/
  | amoMax (rd : BitVec 5) (ra : BitVec 5) (rb : BitVec 5) (size : BitVec 1) (order : BitVec 2) (scope : BitVec 3)
  /-- AMO_MINU (R269): Atomic unsigned minimum, returning the old value. -/
  | amoMinu (rd : BitVec 5) (ra : BitVec 5) (rb : BitVec 5) (size : BitVec 1) (order : BitVec 2) (scope : BitVec 3)
  /-- AMO_MAXU (R269): Atomic unsigned maximum, returning the old value. -/
  | amoMaxu (rd : BitVec 5) (ra : BitVec 5) (rb : BitVec 5) (size : BitVec 1) (order : BitVec 2) (scope : BitVec 3)
  /-- AMO_SWAP (R269): Atomic swap, returning the old value. -/
  | amoSwap (rd : BitVec 5) (ra : BitVec 5) (rb : BitVec 5) (size : BitVec 1) (order : BitVec 2) (scope : BitVec 3)
  /-- AMO_CAS (R269): Atomic compare-and-swap against the old rd, writing only on a match. -/
  | amoCas (rd : BitVec 5) (ra : BitVec 5) (rb : BitVec 5) (size : BitVec 1) (order : BitVec 2) (scope : BitVec 3)
  /-- AMO_INCB (R269): Atomic bounded increment that declines at or above the bound. -/
  | amoIncb (rd : BitVec 5) (ra : BitVec 5) (rb : BitVec 5) (size : BitVec 1) (order : BitVec 2) (scope : BitVec 3)
  /-- AMO_ADDT (R269): Atomic add that wakes the word's waiters when it crosses the threshold in rd. -/
  | amoAddt (rd : BitVec 5) (ra : BitVec 5) (rb : BitVec 5) (size : BitVec 1) (order : BitVec 2) (scope : BitVec 3)
  /-- AMO_FADD (R269): Floating-point add at a shared-memory bank in RNE, setting no flag. -/
  | amoFadd (rd : BitVec 5) (ra : BitVec 5) (rb : BitVec 5) (size : BitVec 1) (order : BitVec 2) (scope : BitVec 3)
  /-- AMO_WAITW (R126): Registers a waiter on a shared-memory word until it reaches the target, or returns a status. -/
  | amoWaitw (rd : BitVec 5) (ra : BitVec 5) (rb : BitVec 5) (size : BitVec 1) (order : BitVec 2) (scope : BitVec 3)
  /-- BEQ (R243): Branches when ga equals gb. -/
  | beq (ra : BitVec 5) (rb : BitVec 5) (off : BitVec 13)
  /-- BNE (R243): Branches when ga differs from gb. -/
  | bne (ra : BitVec 5) (rb : BitVec 5) (off : BitVec 13)
  /-- BLT (R243): Branches when ga < gb signed. -/
  | blt (ra : BitVec 5) (rb : BitVec 5) (off : BitVec 13)
  /-- BGE (R243): Branches when ga >= gb signed. -/
  | bge (ra : BitVec 5) (rb : BitVec 5) (off : BitVec 13)
  /-- BLTU (R243): Branches when ga < gb unsigned. -/
  | bltu (ra : BitVec 5) (rb : BitVec 5) (off : BitVec 13)
  /-- BGEU (R243): Branches when ga >= gb unsigned. -/
  | bgeu (ra : BitVec 5) (rb : BitVec 5) (off : BitVec 13)
  /-- J (R244): Jumps pc-relative by a 26-bit word offset. -/
  | j (off : BitVec 26)
  /-- JAL (R244): Jumps pc-relative and writes pc + 4 to g1. -/
  | jal (off : BitVec 26)
  /-- JALR (R245): Jumps to ga plus immediate, linking pc + 4, trapping on a misaligned target. -/
  | jalr (rd : BitVec 5) (ra : BitVec 5) (imm : BitVec 16)
  /-- CSRR (R248): Reads a control register into gd. -/
  | csrr (rd : BitVec 5) (csr : BitVec 12)
  /-- CSRW (R248): Writes ga to a control register that has no row of its own, by its access codes. -/
  | csrw (ra : BitVec 5) (csr : BitVec 12)
  /-- CSRS (R248): Sets the bits of ga in a control register. -/
  | csrs (ra : BitVec 5) (csr : BitVec 12)
  /-- CSRC (R248): Clears the bits of ga in a control register. -/
  | csrc (ra : BitVec 5) (csr : BitVec 12)
  /-- ECALL (R255): At user level traps with cause 17 to the supervisor; at supervisor level makes the monitor call named in g4. -/
  | ecall
  /-- EBREAK (R256): Takes breakpoint cause 18, delegable to the user-interrupt context. -/
  | ebreak
  /-- SRET (R257): Returns from a supervisor trap, restoring privilege and SIE. -/
  | sret
  /-- UIRET (R258): Returns from the user-interrupt context to UIPC and the thread's register bank. -/
  | uiret
  /-- YIELD (R44): Saves the core when PREQ is set, otherwise does nothing. -/
  | yield
  /-- IDLE (R260): Parks the core until an enabled event or notice or a supervisor event is pending. -/
  | idle
  /-- MARK (R259): A watchdog progress event with no other effect. -/
  | mark
  /-- SPLIT (R93): Splits a fused gang so that each member fetches for itself. -/
  | split
  /-- FUSE (R93): Waits until every gang member reaches a FUSE, then re-fuses the gang at the leader's FUSE + 4. -/
  | fuse
  /-- EXIT (R262): Releases, then waits for held batched AMOs and for the core's queues to drain before the unit ends. -/
  | exit
  /-- IFENCE (R263): Waits for earlier stores, then invalidates the L1 instruction cache and I-TLB. -/
  | ifence
  /-- ARRIVE (R121): Releases and marks the core as arrived in the channel's open episode, stalling on a second arrival. -/
  | arrive (ch : BitVec 5)
  /-- ARRIVE_G (R33): Arrives as ARRIVE and contributes the core's event counters to the gathered record. -/
  | arriveG (ch : BitVec 5)
  /-- WAIT (R124): Stalls until the awaited episode completes or WAITTO expires, then writes a status word. -/
  | wait (rd : BitVec 5) (ch : BitVec 5)
  /-- BTEST (R124): Writes the awaited episode's status word without stalling. -/
  | btest (rd : BitVec 5) (ch : BitVec 5)
  /-- EXPECT (R121): Adds a byte count to the channel's counter or to the next episode's expectation. -/
  | expect (ra : BitVec 5) (ch : BitVec 5)
  /-- BCANCEL (R121): Completes the open episode as failed. -/
  | bcancel (ch : BitVec 5)
  /-- RTAKE (R276): Takes the next chunk from a range unit of the truss, writing its start and length. -/
  | rtake (rd : BitVec 5) (ra : BitVec 5)
  /-- VSRR (R277): Reads the current or previous value of a versioned scalar register as an acquire. -/
  | vsrr (rd : BitVec 5) (reg : BitVec 4) (ver : BitVec 4)
  /-- VSRW (R277): Writes a versioned scalar register as a release, moving the old value to previous. -/
  | vsrw (ra : BitVec 5) (reg : BitVec 4)
  /-- ENQ (R278): Checks a command word from four registers and pushes it into the issue queue of a queue field. -/
  | enq (ra : BitVec 5) (q : BitVec 3)
  /-- ENQM (R278): Reads a 32-byte command word from memory, checks it and pushes it. -/
  | enqm (ra : BitVec 5) (q : BitVec 3)
  /-- QSTAT (R114): Writes a queue's status word or a copy channel's remainder word without stalling. -/
  | qstat (rd : BitVec 5) (ra : BitVec 5) (rb : BitVec 5) (q : BitVec 3)
  /-- QWAIT (R114): Stalls until the queue's earlier entries complete or its head is suspended or pending, then acquires. -/
  | qwait (rd : BitVec 5) (ra : BitVec 5) (q : BitVec 3)
  /-- CPUT (R164): Contributes a value to a wave of a group, as a release. -/
  | cput (ra : BitVec 5) (rb : BitVec 5)
  /-- CGET (R164): Stalls until the group's wave is ready, then writes its result as an acquire. -/
  | cget (rd : BitVec 5) (rb : BitVec 5)
  /-- CTEST (R164): Writes the state of the group's wave slot without stalling. -/
  | ctest (rd : BitVec 5) (rb : BitVec 5)
  /-- VFADD (R287): Vector FP add with one rounding. -/
  | vfadd (vd : BitVec 5) (va : BitVec 5) (vb : BitVec 5) (pg : BitVec 2) (ty : BitVec 2) (fzi : BitVec 1) (fzo : BitVec 1) (rm : BitVec 2)
  /-- VFSUB (R287): Vector FP subtract. -/
  | vfsub (vd : BitVec 5) (va : BitVec 5) (vb : BitVec 5) (pg : BitVec 2) (ty : BitVec 2) (fzi : BitVec 1) (fzo : BitVec 1) (rm : BitVec 2)
  /-- VFMUL (R287): Vector FP multiply. -/
  | vfmul (vd : BitVec 5) (va : BitVec 5) (vb : BitVec 5) (pg : BitVec 2) (ty : BitVec 2) (fzi : BitVec 1) (fzo : BitVec 1) (rm : BitVec 2)
  /-- VFDIV (R287): Vector FP divide. -/
  | vfdiv (vd : BitVec 5) (va : BitVec 5) (vb : BitVec 5) (pg : BitVec 2) (ty : BitVec 2) (fzi : BitVec 1) (fzo : BitVec 1) (rm : BitVec 2)
  /-- VFMIN (R288): Vector FP minimum returning an operand unchanged. -/
  | vfmin (vd : BitVec 5) (va : BitVec 5) (vb : BitVec 5) (pg : BitVec 2) (ty : BitVec 2) (fzi : BitVec 1) (fzo : BitVec 1)
  /-- VFMAX (R288): Vector FP maximum returning an operand unchanged. -/
  | vfmax (vd : BitVec 5) (va : BitVec 5) (vb : BitVec 5) (pg : BitVec 2) (ty : BitVec 2) (fzi : BitVec 1) (fzo : BitVec 1)
  /-- VFSQRT (R287): Vector FP square root. -/
  | vfsqrt (vd : BitVec 5) (va : BitVec 5) (pg : BitVec 2) (ty : BitVec 2) (fzi : BitVec 1) (fzo : BitVec 1) (rm : BitVec 2)
  /-- VFSGN (R289): Vector sign injection: copy, negate, XOR or clear the sign. -/
  | vfsgn (vd : BitVec 5) (va : BitVec 5) (vb : BitVec 5) (pg : BitVec 2) (ty : BitVec 2) (rm : BitVec 2)
  /-- VFMA (R291): Fused a*b + d with one rounding. -/
  | vfma (vd : BitVec 5) (va : BitVec 5) (vb : BitVec 5) (pg : BitVec 2) (ty : BitVec 2) (fzi : BitVec 1) (fzo : BitVec 1) (rm : BitVec 2)
  /-- VFMS (R291): Fused a*b - d with one rounding. -/
  | vfms (vd : BitVec 5) (va : BitVec 5) (vb : BitVec 5) (pg : BitVec 2) (ty : BitVec 2) (fzi : BitVec 1) (fzo : BitVec 1) (rm : BitVec 2)
  /-- VFNMA (R291): Fused d - a*b with one rounding. -/
  | vfnma (vd : BitVec 5) (va : BitVec 5) (vb : BitVec 5) (pg : BitVec 2) (ty : BitVec 2) (fzi : BitVec 1) (fzo : BitVec 1) (rm : BitVec 2)
  /-- VFDOT2 (R292): Two-element 16-bit dot product accumulated into FP32 lanes with one rounding. -/
  | vfdot2 (vd : BitVec 5) (va : BitVec 5) (vb : BitVec 5) (pg : BitVec 2) (ty : BitVec 1) (fzi : BitVec 1) (fzo : BitVec 1) (rm : BitVec 2)
  /-- VFRCP (R293): Correctly rounded reciprocal in RNE. -/
  | vfrcp (vd : BitVec 5) (va : BitVec 5) (pg : BitVec 2) (ty : BitVec 2) (fzi : BitVec 1) (fzo : BitVec 1) (rm : BitVec 2)
  /-- VFRSQ (R293): Correctly rounded reciprocal square root in RNE. -/
  | vfrsq (vd : BitVec 5) (va : BitVec 5) (pg : BitVec 2) (ty : BitVec 2) (fzi : BitVec 1) (fzo : BitVec 1) (rm : BitVec 2)
  /-- VFEXP2 (R293): Correctly rounded 2^a in RNE. -/
  | vfexp2 (vd : BitVec 5) (va : BitVec 5) (pg : BitVec 2) (ty : BitVec 2) (fzi : BitVec 1) (fzo : BitVec 1) (rm : BitVec 2)
  /-- VFLOG2 (R293): Correctly rounded log2 a in RNE. -/
  | vflog2 (vd : BitVec 5) (va : BitVec 5) (pg : BitVec 2) (ty : BitVec 2) (fzi : BitVec 1) (fzo : BitVec 1) (rm : BitVec 2)
  /-- VFEQ (R295): Vector FP equality compare into a predicate. -/
  | vfeq (pd : BitVec 3) (va : BitVec 5) (vb : BitVec 5) (pg : BitVec 2) (ty : BitVec 2) (fzi : BitVec 1)
  /-- VFLT (R295): Vector FP less-than compare into a predicate. -/
  | vflt (pd : BitVec 3) (va : BitVec 5) (vb : BitVec 5) (pg : BitVec 2) (ty : BitVec 2) (fzi : BitVec 1)
  /-- VFLE (R295): Vector FP less-or-equal compare into a predicate. -/
  | vfle (pd : BitVec 3) (va : BitVec 5) (vb : BitVec 5) (pg : BitVec 2) (ty : BitVec 2) (fzi : BitVec 1)
  /-- VFUN (R295): Vector FP unordered compare into a predicate. -/
  | vfun (pd : BitVec 3) (va : BitVec 5) (vb : BitVec 5) (pg : BitVec 2) (ty : BitVec 2) (fzi : BitVec 1)
  /-- VFNE (R295): Vector FP not-equal compare into a predicate. -/
  | vfne (pd : BitVec 3) (va : BitVec 5) (vb : BitVec 5) (pg : BitVec 2) (ty : BitVec 2) (fzi : BitVec 1)
  /-- VFCLASS (R296): Writes a one-hot class mask for each active element. -/
  | vfclass (vd : BitVec 5) (va : BitVec 5) (pg : BitVec 2) (ty : BitVec 2)
  /-- VCVT_F32_F64 (R298): Converts eight FP64 elements to FP32. -/
  | vcvtF32F64 (vd : BitVec 5) (va : BitVec 5) (pg : BitVec 2) (fzi : BitVec 1) (fzo : BitVec 1) (rm : BitVec 2)
  /-- VCVT_F64_F32 (R298): Converts eight FP32 elements to FP64 exactly. -/
  | vcvtF64F32 (vd : BitVec 5) (va : BitVec 5) (pg : BitVec 2) (fzi : BitVec 1) (fzo : BitVec 1) (rm : BitVec 2)
  /-- VCVT_F16_F32 (R298): Converts FP32 elements to FP16. -/
  | vcvtF16F32 (vd : BitVec 5) (va : BitVec 5) (pg : BitVec 2) (fzi : BitVec 1) (fzo : BitVec 1) (rm : BitVec 2)
  /-- VCVT_F32_F16 (R298): Converts FP16 elements to FP32 exactly. -/
  | vcvtF32F16 (vd : BitVec 5) (va : BitVec 5) (pg : BitVec 2) (fzi : BitVec 1) (fzo : BitVec 1) (rm : BitVec 2)
  /-- VCVT_BF16_F32 (R298): Converts FP32 elements to BF16 under the mode. -/
  | vcvtBf16F32 (vd : BitVec 5) (va : BitVec 5) (pg : BitVec 2) (fzi : BitVec 1) (fzo : BitVec 1) (rm : BitVec 2)
  /-- VCVT_F32_BF16 (R298): Converts BF16 elements to FP32 exactly. -/
  | vcvtF32Bf16 (vd : BitVec 5) (va : BitVec 5) (pg : BitVec 2) (fzi : BitVec 1) (fzo : BitVec 1) (rm : BitVec 2)
  /-- VCVT_E4M3_F32 (R299): Converts FP32 elements to E4M3, saturating. -/
  | vcvtE4m3F32 (vd : BitVec 5) (va : BitVec 5) (pg : BitVec 2) (fzi : BitVec 1) (fzo : BitVec 1) (rm : BitVec 2)
  /-- VCVT_E5M2_F32 (R298): Converts FP32 elements to E5M2. -/
  | vcvtE5m2F32 (vd : BitVec 5) (va : BitVec 5) (pg : BitVec 2) (fzi : BitVec 1) (fzo : BitVec 1) (rm : BitVec 2)
  /-- VCVT_F32_E4M3 (R298): Converts E4M3 bytes to FP32 exactly. -/
  | vcvtF32E4m3 (vd : BitVec 5) (va : BitVec 5) (pg : BitVec 2) (fzi : BitVec 1) (fzo : BitVec 1) (rm : BitVec 2)
  /-- VCVT_F32_E5M2 (R298): Converts E5M2 bytes to FP32 exactly. -/
  | vcvtF32E5m2 (vd : BitVec 5) (va : BitVec 5) (pg : BitVec 2) (fzi : BitVec 1) (fzo : BitVec 1) (rm : BitVec 2)
  /-- VCVT_E2M1_F32 (R302): Scales 32 FP32 elements by an E8 scale and rounds them to packed E2M1. -/
  | vcvtE2m1F32 (vd : BitVec 5) (va : BitVec 5) (vb : BitVec 5) (fzi : BitVec 1) (fzo : BitVec 1) (rm : BitVec 2)
  /-- VCVT_F32_E2M1 (R302): Decodes 32 E2M1 codes times an E8 scale into FP32. -/
  | vcvtF32E2m1 (vd : BitVec 5) (va : BitVec 5) (vb : BitVec 5) (fzi : BitVec 1) (fzo : BitVec 1) (rm : BitVec 2)
  /-- VCVT_I32_F32 (R300): Converts FP32 elements to saturated INT32. -/
  | vcvtI32F32 (vd : BitVec 5) (va : BitVec 5) (pg : BitVec 2) (fzi : BitVec 1) (fzo : BitVec 1) (rm : BitVec 2)
  /-- VCVT_F32_I32 (R300): Converts INT32 elements to FP32. -/
  | vcvtF32I32 (vd : BitVec 5) (va : BitVec 5) (pg : BitVec 2) (fzi : BitVec 1) (fzo : BitVec 1) (rm : BitVec 2)
  /-- VCVT_I64_F64 (R300): Converts FP64 elements to saturated INT64. -/
  | vcvtI64F64 (vd : BitVec 5) (va : BitVec 5) (pg : BitVec 2) (fzi : BitVec 1) (fzo : BitVec 1) (rm : BitVec 2)
  /-- VCVT_F64_I64 (R300): Converts INT64 elements to FP64. -/
  | vcvtF64I64 (vd : BitVec 5) (va : BitVec 5) (pg : BitVec 2) (fzi : BitVec 1) (fzo : BitVec 1) (rm : BitVec 2)
  /-- VCVT_I8_I32 (R300): Narrows INT32 elements to INT8 with saturation. -/
  | vcvtI8I32 (vd : BitVec 5) (va : BitVec 5) (pg : BitVec 2)
  /-- VCVT_I16_I32 (R300): Narrows INT32 elements to INT16 with saturation. -/
  | vcvtI16I32 (vd : BitVec 5) (va : BitVec 5) (pg : BitVec 2)
  /-- VCVT_E8_F32 (R301): Computes the E8 block scale of 32 FP32 elements for a target format. -/
  | vcvtE8F32 (vd : BitVec 5) (va : BitVec 5) (vb : BitVec 5) (fzi : BitVec 1) (fzo : BitVec 1) (rm : BitVec 2)
  /-- VCVT_E4M3_F32_BS (R302): Scales 32 FP32 elements by an E8 scale and rounds them to E4M3. -/
  | vcvtE4m3F32Bs (vd : BitVec 5) (va : BitVec 5) (vb : BitVec 5) (fzi : BitVec 1) (fzo : BitVec 1) (rm : BitVec 2)
  /-- VCVT_F32_E4M3_BS (R302): Decodes 32 E4M3 elements times an E8 scale into FP32. -/
  | vcvtF32E4m3Bs (vd : BitVec 5) (va : BitVec 5) (vb : BitVec 5) (fzi : BitVec 1) (fzo : BitVec 1) (rm : BitVec 2)
  /-- VADD (R306): Vector integer wrapping add. -/
  | vadd (vd : BitVec 5) (va : BitVec 5) (vb : BitVec 5) (pg : BitVec 2) (ty : BitVec 2) (aux : BitVec 2)
  /-- VSUB (R306): Vector integer wrapping subtract. -/
  | vsub (vd : BitVec 5) (va : BitVec 5) (vb : BitVec 5) (pg : BitVec 2) (ty : BitVec 2) (aux : BitVec 2)
  /-- VMUL (R306): Vector integer low product. -/
  | vmul (vd : BitVec 5) (va : BitVec 5) (vb : BitVec 5) (pg : BitVec 2) (ty : BitVec 2) (aux : BitVec 2)
  /-- VMULH (R306): Vector integer high signed product. -/
  | vmulh (vd : BitVec 5) (va : BitVec 5) (vb : BitVec 5) (pg : BitVec 2) (ty : BitVec 2) (aux : BitVec 2)
  /-- VMIN (R306): Vector signed minimum. -/
  | vmin (vd : BitVec 5) (va : BitVec 5) (vb : BitVec 5) (pg : BitVec 2) (ty : BitVec 2) (aux : BitVec 2)
  /-- VMAX (R306): Vector signed maximum. -/
  | vmax (vd : BitVec 5) (va : BitVec 5) (vb : BitVec 5) (pg : BitVec 2) (ty : BitVec 2) (aux : BitVec 2)
  /-- VMINU (R306): Vector unsigned minimum. -/
  | vminu (vd : BitVec 5) (va : BitVec 5) (vb : BitVec 5) (pg : BitVec 2) (ty : BitVec 2) (aux : BitVec 2)
  /-- VMAXU (R306): Vector unsigned maximum. -/
  | vmaxu (vd : BitVec 5) (va : BitVec 5) (vb : BitVec 5) (pg : BitVec 2) (ty : BitVec 2) (aux : BitVec 2)
  /-- VAND (R306): Vector bitwise AND. -/
  | vand (vd : BitVec 5) (va : BitVec 5) (vb : BitVec 5) (pg : BitVec 2) (ty : BitVec 2) (aux : BitVec 2)
  /-- VOR (R306): Vector bitwise OR. -/
  | vor (vd : BitVec 5) (va : BitVec 5) (vb : BitVec 5) (pg : BitVec 2) (ty : BitVec 2) (aux : BitVec 2)
  /-- VXOR (R306): Vector bitwise XOR. -/
  | vxor (vd : BitVec 5) (va : BitVec 5) (vb : BitVec 5) (pg : BitVec 2) (ty : BitVec 2) (aux : BitVec 2)
  /-- VSLL (R306): Vector shift left. -/
  | vsll (vd : BitVec 5) (va : BitVec 5) (vb : BitVec 5) (pg : BitVec 2) (ty : BitVec 2) (aux : BitVec 2)
  /-- VSRL (R306): Vector logical shift right. -/
  | vsrl (vd : BitVec 5) (va : BitVec 5) (vb : BitVec 5) (pg : BitVec 2) (ty : BitVec 2) (aux : BitVec 2)
  /-- VSRA (R306): Vector arithmetic shift right. -/
  | vsra (vd : BitVec 5) (va : BitVec 5) (vb : BitVec 5) (pg : BitVec 2) (ty : BitVec 2) (aux : BitVec 2)
  /-- VSADD (R306): Vector signed saturating add, accruing SAT. -/
  | vsadd (vd : BitVec 5) (va : BitVec 5) (vb : BitVec 5) (pg : BitVec 2) (ty : BitVec 2) (aux : BitVec 2)
  /-- VSSUB (R306): Vector signed saturating subtract, accruing SAT. -/
  | vssub (vd : BitVec 5) (va : BitVec 5) (vb : BitVec 5) (pg : BitVec 2) (ty : BitVec 2) (aux : BitVec 2)
  /-- VABSD (R306): Vector absolute difference as unsigned. -/
  | vabsd (vd : BitVec 5) (va : BitVec 5) (vb : BitVec 5) (pg : BitVec 2) (ty : BitVec 2) (aux : BitVec 2)
  /-- VCMPEQ (R306): Vector integer equality compare into a predicate. -/
  | vcmpeq (pd : BitVec 3) (va : BitVec 5) (vb : BitVec 5) (pg : BitVec 2) (ty : BitVec 2) (aux : BitVec 2)
  /-- VCMPLT (R306): Vector signed less-than compare into a predicate. -/
  | vcmplt (pd : BitVec 3) (va : BitVec 5) (vb : BitVec 5) (pg : BitVec 2) (ty : BitVec 2) (aux : BitVec 2)
  /-- VCMPLTU (R306): Vector unsigned less-than compare into a predicate. -/
  | vcmpltu (pd : BitVec 3) (va : BitVec 5) (vb : BitVec 5) (pg : BitVec 2) (ty : BitVec 2) (aux : BitVec 2)
  /-- VBCAST (R309): Broadcasts a value to every active element. -/
  | vbcast (vd : BitVec 5) (vb : BitVec 5) (pg : BitVec 2) (ty : BitVec 2) (aux : BitVec 2)
  /-- VEXT (R309): Extracts one element into a g register, sign-extended. -/
  | vext (rd : BitVec 5) (va : BitVec 5) (vb : BitVec 5) (ty : BitVec 2) (aux : BitVec 2)
  /-- VINS (R309): Inserts a g register value into one element. -/
  | vins (vd : BitVec 5) (va : BitVec 5) (vb : BitVec 5) (pg : BitVec 2) (ty : BitVec 2) (aux : BitVec 2)
  /-- VPERM (R309): Permutes elements by indices in vb. -/
  | vperm (vd : BitVec 5) (va : BitVec 5) (vb : BitVec 5) (pg : BitVec 2) (ty : BitVec 2)
  /-- VSLDN (R309): Slides elements down by an amount, filling zeros. -/
  | vsldn (vd : BitVec 5) (va : BitVec 5) (vb : BitVec 5) (pg : BitVec 2) (ty : BitVec 2) (aux : BitVec 2)
  /-- VSLUP (R309): Slides elements up by an amount, filling zeros. -/
  | vslup (vd : BitVec 5) (va : BitVec 5) (vb : BitVec 5) (pg : BitVec 2) (ty : BitVec 2) (aux : BitVec 2)
  /-- VREDSUM (R310): Reduces active elements by wrapping sum into element 0. -/
  | vredsum (vd : BitVec 5) (va : BitVec 5) (pg : BitVec 2) (ty : BitVec 2)
  /-- VREDFSUM (R36): Reduces FP elements by the fixed pairwise tree into element 0. -/
  | vredfsum (vd : BitVec 5) (va : BitVec 5) (pg : BitVec 2) (ty : BitVec 2) (aux : BitVec 2)
  /-- VREDMAX (R310): Reduces active elements by signed maximum. -/
  | vredmax (vd : BitVec 5) (va : BitVec 5) (pg : BitVec 2) (ty : BitVec 2)
  /-- VREDMIN (R310): Reduces active elements by signed minimum. -/
  | vredmin (vd : BitVec 5) (va : BitVec 5) (pg : BitVec 2) (ty : BitVec 2)
  /-- VSCAN (R309): Inclusive wrapping prefix sum over active elements. -/
  | vscan (vd : BitVec 5) (va : BitVec 5) (pg : BitVec 2) (ty : BitVec 2)
  /-- VCMPR (R309): Packs active elements low and zeroes the rest. -/
  | vcmpr (vd : BitVec 5) (va : BitVec 5) (pg : BitVec 2) (ty : BitVec 2)
  /-- VSEL (R309): Selects va for active elements and b otherwise. -/
  | vsel (vd : BitVec 5) (va : BitVec 5) (vb : BitVec 5) (pg : BitVec 2) (ty : BitVec 2) (aux : BitVec 2)
  /-- VIOTA (R309): Writes to each element the count of active elements below it. -/
  | viota (vd : BitVec 5) (pg : BitVec 2) (ty : BitVec 2)
  /-- PAND (R312): Predicate AND of active elements. -/
  | pand (pd : BitVec 3) (pa : BitVec 3) (pb : BitVec 3) (pg : BitVec 2) (ty : BitVec 2)
  /-- POR (R312): Predicate OR of active elements. -/
  | por (pd : BitVec 3) (pa : BitVec 3) (pb : BitVec 3) (pg : BitVec 2) (ty : BitVec 2)
  /-- PXOR (R312): Predicate XOR of active elements. -/
  | pxor (pd : BitVec 3) (pa : BitVec 3) (pb : BitVec 3) (pg : BitVec 2) (ty : BitVec 2)
  /-- PNOT (R312): Predicate NOT of active elements. -/
  | pnot (pd : BitVec 3) (pa : BitVec 3) (pg : BitVec 2) (ty : BitVec 2)
  /-- PCNT (R312): Counts set, active predicate elements into a g register. -/
  | pcnt (rd : BitVec 5) (pa : BitVec 3) (pg : BitVec 2) (ty : BitVec 2)
  /-- PFIRST (R312): Writes the lowest set, active predicate element index. -/
  | pfirst (rd : BitVec 5) (pa : BitVec 3) (pg : BitVec 2) (ty : BitVec 2)
  /-- PSET (R312): Sets the first k elements of a predicate and clears the rest. -/
  | pset (pd : BitVec 3) (vb : BitVec 5) (ty : BitVec 2) (aux : BitVec 2)
  /-- PGET (R312): Copies the 64 bits of a predicate to a g register. -/
  | pget (rd : BitVec 5) (pa : BitVec 3)
  /-- VLD (R314): Loads consecutive elements after checking every active element. -/
  | vld (vd : BitVec 5) (ra : BitVec 5) (pg : BitVec 2) (esize : BitVec 2) (off : BitVec 4)
  /-- VST (R314): Stores consecutive active elements. -/
  | vst (vd : BitVec 5) (ra : BitVec 5) (pg : BitVec 2) (esize : BitVec 2) (off : BitVec 4)
  /-- VLDS (R314): Loads elements at a stride. -/
  | vlds (vd : BitVec 5) (ra : BitVec 5) (rb : BitVec 5) (pg : BitVec 2) (esize : BitVec 2)
  /-- VSTS (R314): Stores active elements at a stride. -/
  | vsts (vd : BitVec 5) (ra : BitVec 5) (rb : BitVec 5) (pg : BitVec 2) (esize : BitVec 2)
  /-- VGATH (R314): Gathers elements from base plus per-element offsets. -/
  | vgath (vd : BitVec 5) (ra : BitVec 5) (vb : BitVec 5) (pg : BitVec 2) (esize : BitVec 1)
  /-- VSCAT (R314): Scatters active elements to base plus per-element offsets. -/
  | vscat (vd : BitVec 5) (ra : BitVec 5) (vb : BitVec 5) (pg : BitVec 2) (esize : BitVec 1)
  /-- VLDB (R314): Loads one element and broadcasts it to every active element. -/
  | vldb (vd : BitVec 5) (ra : BitVec 5) (pg : BitVec 2) (esize : BitVec 2) (off : BitVec 4)
  /-- VSTA_ADD (R315): Sends each active element as a non-returning integer add to a shared-memory bank. -/
  | vstaAdd (vd : BitVec 5) (ra : BitVec 5) (pg : BitVec 2) (esize : BitVec 2)
  /-- VSTA_FADD (R315): Sends each active element as an RNE FP add to a shared-memory bank. -/
  | vstaFadd (vd : BitVec 5) (ra : BitVec 5) (pg : BitVec 2) (esize : BitVec 1)
  /-- VSTA_MAX (R315): Sends each active element as a signed maximum to a shared-memory bank. -/
  | vstaMax (vd : BitVec 5) (ra : BitVec 5) (pg : BitVec 2) (esize : BitVec 2)
  /-- VSTA_MIN (R315): Sends each active element as a signed minimum to a shared-memory bank. -/
  | vstaMin (vd : BitVec 5) (ra : BitVec 5) (pg : BitVec 2) (esize : BitVec 2)
  /-- RMULF (R330): FP32 multiply that pushes the exact rounding tail onto the kerf stack. -/
  | rmulf (vd : BitVec 5) (va : BitVec 5) (vb : BitVec 5) (pg : BitVec 2)
  /-- UMULF (R330): Pops an RMULF record and rebuilds the input exactly. -/
  | umulf (vd : BitVec 5) (va : BitVec 5) (vb : BitVec 5) (pg : BitVec 2)
  /-- RMULQ (R330): Fixed-point multiply and shift that pushes the dropped product bits. -/
  | rmulq (vd : BitVec 5) (va : BitVec 5) (vb : BitVec 5) (pg : BitVec 2) (k : BitVec 4)
  /-- UMULQ (R330): Pops an RMULQ record and rebuilds the input. -/
  | umulq (vd : BitVec 5) (va : BitVec 5) (vb : BitVec 5) (pg : BitVec 2) (k : BitVec 4)
  /-- RSHRA (R330): Arithmetic shift right that pushes the dropped bits. -/
  | rshra (vd : BitVec 5) (va : BitVec 5) (pg : BitVec 2) (k : BitVec 4)
  /-- USHRA (R330): Pops an RSHRA record and rebuilds the input. -/
  | ushra (vd : BitVec 5) (va : BitVec 5) (pg : BitVec 2) (k : BitVec 4)
  /-- RNRW (R330): Truncates FP32 lanes to BF16 and pushes the low 16 bits. -/
  | rnrw (vd : BitVec 5) (va : BitVec 5) (pg : BitVec 2)
  /-- UNRW (R330): Pops an RNRW record and rebuilds the FP32 lanes. -/
  | unrw (vd : BitVec 5) (va : BitVec 5) (pg : BitVec 2)
  /-- RSELZ (R330): Zeroes negative lanes and pushes their old values. -/
  | rselz (vd : BitVec 5) (va : BitVec 5) (pg : BitVec 2)
  /-- USELZ (R330): Pops an RSELZ record and restores the zeroed lanes. -/
  | uselz (vd : BitVec 5) (va : BitVec 5) (pg : BitVec 2)
  /-- RADDF (R330): FP32 add that pushes the exact rounding error. -/
  | raddf (vd : BitVec 5) (va : BitVec 5) (vb : BitVec 5) (pg : BitVec 2)
  /-- UADDF (R330): Pops an RADDF record and rebuilds the input. -/
  | uaddf (vd : BitVec 5) (va : BitVec 5) (vb : BitVec 5) (pg : BitVec 2)
  /-- KMARK (R332): Pushes a marker record with an id. -/
  | kmark (ra : BitVec 5)
  /-- KDROP (R332): Pops every record down to and including the newest marker with the id. -/
  | kdrop (ra : BitVec 5)
  /-- KCHK (R332): Writes the top kerf header without popping. -/
  | kchk (rd : BitVec 5)
  /-- FCTL_WRITE (R26): A CSR write of FCTL waits for earlier vector instructions, then sets rounding mode and trap enables, rejecting RM 5-7. -/
  | fctlWrite (op : CsrOp) (ra : BitVec 5)
  /-- FFLAGS_WRITE (R29): A CSR write of FFLAGS waits for earlier vector instructions, then replaces the sticky flags indivisibly. -/
  | fflagsWrite (op : CsrOp) (ra : BitVec 5)
  /-- PORTMAP_WRITE (R97): A CSR write of PORTMAP waits for earlier instructions and maps port registers and spill areas, or is illegal. -/
  | portmapWrite (op : CsrOp) (ra : BitVec 5)
  /-- BMASK_WRITE (R119): A CSR write of BMASK joins channels or leaves them, a cleared bit counting as an arrival. -/
  | bmaskWrite (op : CsrOp) (ra : BitVec 5)
  /-- MFMT_WRITE (R185): A CSR write of MFMT sets the matrix operand formats, rejecting reserved codes. -/
  | mfmtWrite (op : CsrOp) (ra : BitVec 5)
  /-- KBACK_WRITE (R321): A CSR write of KBACK sets the kerf backing, illegal when the backing is occupied or leaves the paged window. -/
  | kbackWrite (op : CsrOp) (ra : BitVec 5)
  /-- INSTRET_WRITE (R250): A CSR write of INSTRET stores the value in place of the instruction's own increment. -/
  | instretWrite (op : CsrOp) (ra : BitVec 5)
  /-- CORESTAT_READ (R43): A CSR read of CORESTAT returns it and clears RESTORED in the same step. -/
  | corestatRead (rd : BitVec 5)
  /-- TLBINV_PAGE (R69): Drains writes as a release, drops the translations of one page in the scope, waits for walks and re-translates waiting writes. -/
  | tlbinvPage (ra : BitVec 5)
  /-- TLBINV_REGION (R69): As TLBINV for every translation of the 8 MiB region. -/
  | tlbinvRegion (ra : BitVec 5)
  /-- TLBINV_CONTEXT (R69): As TLBINV for every translation tagged with CTXID. -/
  | tlbinvContext (ra : BitVec 5)
  /-- UINOTE (R72): A write of UINOTE sends a page-fault completion notice, as a release, to a target core's notice queue or saved image. -/
  | uinote (ra : BitVec 5)
  /-- UINOTE_STALL_RELEASE (R72): A UINOTE write stalled on a full notice queue completes once an entry frees. -/
  | uinoteStallRelease
  /-- IDLE_WAKE (R260): A parked IDLE completes when a deliverable event or notice arrives. -/
  | idleWake
  /-- UNIT_END (R262): Once EXIT's waits finish, the unit discards its held state, ends and leaves its barrier channels. -/
  | unitEnd
  /-- BOUND_BYTES_LAND (R121): Bytes bound to a channel land and decrement its counter in the open episode. -/
  | boundBytesLand (channel bytes : Nat)
  /-- EPISODE_COMPLETE (R121): When every member is marked and the counter is zero, the episode completes, toggles PHASE and releases waiters. -/
  | episodeComplete (channel : Nat)
  /-- WAITTO_EXPIRY (R125): A WAIT or WAITW whose WAITTO period passes returns with a timeout status. -/
  | waittoExpiry
  /-- WAVE_COMPLETE (R164): When every member has contributed, the combined result reaches every member's slot. -/
  | waveComplete (group : Nat) (remote : Bool)
  /-- TREE_NODE_FAILURE (R164): A failed tree node returns every posted slot of the group to idle, so the next CGET takes cause 20. -/
  | treeNodeFailure (group : Nat)
  /-- KERF_SPILL_COMPLETE (R325): A 4 KiB spill from the kerf region to the backing on channel 63 completes and the levels move. -/
  | kerfSpillComplete
  /-- KERF_REFILL_COMPLETE (R326): A refill read from the backing into the region completes and the levels move. -/
  | kerfRefillComplete
  /-- ENTRY_ACCEPTED (R108): An issue queue passes its head to the engine once the target queue has room. -/
  | entryAccepted (field : Nat)
  /-- ENTRY_COMPLETE (R111): An entry's writes, completion record, barrier bytes and KIND 2 event are performed in order. -/
  | entryComplete (qid : Nat)
  /-- SUSPENDED_RETRANSLATE (R108): A suspended copy channel is re-translated every 4,096 cycles and resumes or faults. -/
  | suspendedRetranslate (channel : Nat)
  /-- ENGINE_RESEND (R388): A refused engine access is resent every 4,096 cycles until accepted or refused for good. -/
  | engineResend (qid : Nat)
  /-- COPY_ENGINE_SERVICE (R88): The copy engine serves its next channel round-robin and moves one 64-byte packet. -/
  | copyEngineService
  /-- QFENCE_RELEASE (R115): When every queue of the set reaches the QFENCE, all copies are released and complete together. -/
  | qfenceRelease (tag : BitVec 16)
  /-- ASYNC_EVENT_DELIVERY (R113): At an instruction boundary the oldest deliverable event or notice enters the user-interrupt context or supervisor. -/
  | asyncEventDelivery
  /-- HELD_EVENT_ENQUEUE (R113): An event held at its engine enters the core's event queue when room appears. -/
  | heldEventEnqueue
  /-- COPY (R341): Copies LEN bytes from SRC to DST, optionally to another package. -/
  | copy (h : CmdHead) (c : CopyCmd)
  /-- COPYND (R342): Copies a block of up to three dimensions by a descriptor. -/
  | copynd (h : CmdHead) (c : CopyndCmd)
  /-- GATHR (R343): Gathers rows by an index array. -/
  | gathr (h : CmdHead) (c : GathrCmd)
  /-- SCATR (R203): Permutes token rows into expert order using ids and offsets. -/
  | scatr (h : CmdHead) (c : ScatrCmd)
  /-- FILL (R344): Fills LEN bytes with an address-aligned 64-bit pattern. -/
  | fill (h : CmdHead) (c : FillCmd)
  /-- FEEDA (R182): Appends bytes to the core's A operand FIFO. -/
  | feeda (h : CmdHead) (c : FeedCmd)
  /-- FEEDB (R182): Appends bytes to the core's B operand FIFO. -/
  | feedb (h : CmdHead) (c : FeedCmd)
  /-- FEED_SPACE_RELEASED (R182): A feed holding its channel continues once FIFO space is released. -/
  | feedSpaceReleased (channel : Nat)
  /-- DRAIN (R345): Copies accumulator words of the core's allotment to its local store. -/
  | drain (h : CmdHead) (c : DrainCmd)
  /-- COPYG (R346): Copies a shard between two acquire reads of its generation word, ending stale on mismatch. -/
  | copyg (h : CmdHead) (c : CopygCmd)
  /-- XSCHED (R105): Reads and checks a jig and begins the exchange stretch bound to a barrier channel. -/
  | xsched (h : CmdHead) (c : XschedCmd)
  /-- JIG_ENTRY_ISSUE (R105): A jig entry is issued at its slot after the previous entry completes. -/
  | jigEntryIssue (channel : Nat)
  /-- MMA (R191): Matrix multiply-accumulate over tiles from the operand FIFOs into accumulators. -/
  | mma (h : CmdHead) (c : MmaCmd)
  /-- MMAT (R192): INT8 by ternary multiply-accumulate on the sign-select path. -/
  | mmat (h : CmdHead) (c : MmaCmd)
  /-- MZERO (R190): Zeroes a block of accumulator words, in tiles. -/
  | mzero (h : CmdHead) (c : MzeroCmd)
  /-- MATRIX_TILE_ISSUE (R87): The bay arbiter's deficit round robin issues a head tile of a core's matrix queue. -/
  | matrixTileIssue
  /-- MATRIX_TILE_COMPLETE (R191): A tile ends, writing accumulators and ORing its flags and counts into the issuing core. -/
  | matrixTileComplete
  /-- HIST (R201): Counts expert ids into per-expert counts. -/
  | hist (h : CmdHead) (c : HistCmd)
  /-- PSUM (R202): Turns counts into exclusive prefix offsets and a total. -/
  | psum (h : CmdHead) (c : PsumCmd)
  /-- TOPK (R206): Selects the k largest keys of each row bit-serially. -/
  | topk (h : CmdHead) (c : TopkCmd)
  /-- AUCT (R212): Runs Jacobi auction rounds per domain and writes assignments, status and prices. -/
  | auct (h : CmdHead) (c : AuctCmd)
  /-- APPORT (R207): Divides bays among experts by largest remainders. -/
  | apport (h : CmdHead) (c : ApportCmd)
  /-- RSORT (R204): Sorts expert-token pairs stably by expert. -/
  | rsort (h : CmdHead) (c : RsortCmd)
  /-- PRICE_READ (R210): Writes a range of price registers to memory. -/
  | priceRead (h : CmdHead) (c : PriceCmd)
  /-- PRICE_WRITE (R210): Loads a range of price registers from memory. -/
  | priceWrite (h : CmdHead) (c : PriceCmd)
  /-- PRICE_SCALE (R210): Scales a range of price registers with saturation. -/
  | priceScale (h : CmdHead) (c : PriceCmd)
  /-- PRICE_RESET (R210): Sets a range of price registers to zero. -/
  | priceReset (h : CmdHead) (c : PriceCmd)
  /-- CPLAN (R166): Sends a member's plan descriptor to the group's coordinator and waits for the plan to go live. -/
  | cplan (h : CmdHead) (c : CplanCmd)
  /-- CPLAN_ARRIVAL (R166): The coordinator counts an arriving CPLAN into the GROUP's round, compares it and reserves when the round agrees. -/
  | cplanArrival (a : PlanArrival)
  /-- CFREE (R174): Makes a plan handle not live and completes after its outstanding instances. -/
  | cfree (h : CmdHead) (c : CfreeCmd)
  /-- POSTING_ARRIVAL (R169): A coordinator accepts a posting and issues the instance's ticket when all NMEM postings are present. -/
  | postingArrival (p : Posting)
  /-- POSTING_RESEND (R169): A refused posting is resent every 4,096 cycles with later postings held behind it. -/
  | postingResend (coordinator : Nat)
  /-- ROOT_TICKET_ARRIVAL (R170): A root ticket reaches a domain coordinator and is appended to its stream. -/
  | rootTicketArrival (t : Ticket)
  /-- TICKET_ARRIVAL (R170): A member's hub receives a ticket and starts the instance in stream order. -/
  | ticketArrival (t : Ticket)
  /-- INSTANCE_END (R168): An instance ends at a member: results to DST, then the record and any failure event. -/
  | instanceEnd (group inst : Nat) (failed : Bool)
  /-- HUB_FAILURE (R173): A failed hosting hub or coordinator ends the affected plans' instances with cause 20. -/
  | hubFailure (pkg : Nat)
  /-- LAUNCH (R352): Hands a launch packet to the launch unit, which checks it and creates the launch or rejects it. -/
  | launch (h : CmdHead) (c : LaunchCmd)
  /-- LAUNCH_AGING (R85): A launch ready for 2^20 cycles takes effective priority 15. -/
  | launchAging (part : Nat)
  /-- PLACE_LAUNCH (R86): The placer places units of the head launch on free bay-aligned cores and starts them. -/
  | placeLaunch (part : Nat)
  /-- RANGEINIT (R353): Sets a range unit's start, length, divisor and minimum chunk. -/
  | rangeinit (h : CmdHead) (c : RangeinitCmd)
  /-- CANCEL (R354): Cancels a unit, launch, graph, phase or job of the context. -/
  | cancel (h : CmdHead) (c : CancelCmd)
  /-- CNTWAIT (R355): Optionally seals a counter and waits for its completion. -/
  | cntwait (h : CmdHead) (c : CntwaitCmd)
  /-- QFENCE (R115): Holds its queue until every queue of its set reaches a QFENCE with the same tag. -/
  | qfence (h : CmdHead) (c : QfenceCmd)
  /-- PDEADLINE_EXPIRY (R45): PDEADLINE cycles after PREQ the core is stopped at the next boundary and saved. -/
  | pdeadlineExpiry
  /-- CORE_SAVE_COMPLETE (R41): A core finishes streaming out its image; the last one makes its set evicted and the cores are zeroed. -/
  | coreSaveComplete
  /-- RESTORE_COMPLETE (R41): The last image of a set is loaded; the set closes and restored cores resume with RESTORED set. -/
  | restoreComplete (ctx set : Nat)
  /-- BUFFER_ZEROING_COMPLETE (R42): Zeroing of a buffer on change of owner completes and waiting accesses proceed. -/
  | bufferZeroingComplete
  /-- CONTEXT_UNITS_STOPPED (R41): All units of a destroying context have stopped; the context enters zeroed. -/
  | contextUnitsStopped (ctx : Nat)
  /-- CONTEXT_ZEROING_COMPLETE (R41): Zeroing of a context's buffers completes and its id is released. -/
  | contextZeroingComplete (ctx : Nat)
  /-- WATCHDOG_EXPIRY (R55): A core's progress count reaches WDLIMIT or WDPARK; the unit is saved or held and a record made. -/
  | watchdogExpiry
  /-- WATCHDOG_RING_POLL (R55): Every 4,096 cycles the hub re-reads CONS and writes held watchdog records. -/
  | watchdogRingPoll (part : Nat)
  /-- RETRY_RESEND (R49): A load, store or atomic refused by a non-resident core is resent 256 cycles later, trapping at RETRYMAX. -/
  | retryResend
  /-- PORT_WRITE_RESEND (R49): A refused port-register write is resent every 256 cycles until accepted. -/
  | portWriteResend
  /-- MIG_WRITE_RETRANSLATE (R70): A write stalled on a migrating page is re-translated every 4,096 cycles. -/
  | migWriteRetranslate
  /-- PORT_WORD_ARRIVAL (R100): A port word arrives at a receive queue, going to the hardware queue or the spill area. -/
  | portWordArrival (queue : Nat) (w : Word)
  /-- PORT_WRITE_UNSTALL (R101): A port write stalled on a full receiver sends its word when room appears. -/
  | portWriteUnstall
  /-- PORTWAIT_EXPIRY (R101): A port write stalled for PORTWAIT cycles takes cause 7. -/
  | portwaitExpiry
  /-- DATA_FLIT (R154): A data flit is received, CRC-checked and accepted in sequence, or discarded with a NAK. -/
  | dataFlit (port cls : Nat) (rx : List (List Level))
  /-- ACK (R155): An ACK control word acknowledges a data flit and every earlier one. -/
  | ack (port : Nat) (rx : List (List Level))
  /-- NAK (R155): A NAK control word makes the sender replay from the named flit, retraining after 16 replays. -/
  | nak (port : Nat) (rx : List (List Level))
  /-- FLOW (R155): A FLOW control word carries the on/off state of the four classes. -/
  | flow (port : Nat) (rx : List (List Level))
  /-- FLOW_REFRESH (R155): FLOW is resent every 64 flit times while a class is off, else every 1,024. -/
  | flowRefresh (port : Nat)
  /-- PROBE (R155): A PROBE control word is answered with an ECHO. -/
  | probe (port : Nat) (rx : List (List Level))
  /-- ECHO (R159): An ECHO returns a PROBE stamp for round-trip measurement. -/
  | echo (port : Nat) (rx : List (List Level))
  /-- IDLE_FLIT (R155): An IDLE control word is received and discarded. -/
  | idleFlit (port : Nat) (rx : List (List Level))
  /-- PORT_ENABLE (R161): Firmware enables a port, which begins training. -/
  | portEnable (port : Nat)
  /-- PORT_DISABLE (R161): Firmware disables a failed port, which goes down. -/
  | portDisable (port : Nat)
  /-- LOCK_PHASE_END (R159): Every lane's descrambler has loaded and predicted 4,096 bits; training enters Align. -/
  | lockPhaseEnd (port : Nat) (rx : List (List Level))
  /-- ALIGN_PHASE_END (R159): Markers are found 16 times, lanes numbered, deskewed; READY is sent. -/
  | alignPhaseEnd (port : Nat) (rx : LaneRun)
  /-- START_PHASE_END (R159): Both sides exchanged READY for 64 blocks; flits begin. -/
  | startPhaseEnd (rx : PortRun)
  /-- MEASURE_PHASE_END (R161): All four ECHOs return; the round trip decides up or failed. -/
  | measurePhaseEnd (port : Nat)
  /-- TRAINING_PHASE_TIMEOUT (R159): A training phase not finished within 1 ms is a training failure. -/
  | trainingPhaseTimeout (port : Nat)
  /-- LOCK_LOSS (R161): Loss of lock sends an up port to retraining from phase 1. -/
  | lockLoss (port : Nat)
  /-- PACKAGE_RESET (R379): Package reset runs the boot stages from ROM through supervisor boot. -/
  | packageReset
  /-- RECOVERY_IMAGE (R380): A replacement image written to the recovery mailbox is verified, booted and flashed, or discarded. -/
  | recoveryImage (img : FwImage)
  /-- ROLLBACK_ADVANCE (R380): Firmware from a verified image requests that the rollback counter advance. -/
  | rollbackAdvance (version : Nat)
  /-- HOST_MAILBOX (R381): The host hands work to a partition's supervisor through its virtual function mailbox. -/
  | hostMailbox (part : Nat) (msg : List Byte)
  /-- INFO (R383): Monitor call writing the partition record. -/
  | info (addr : Word)
  /-- SHMPAGE (R383): Monitor call assigning or releasing a shared-memory page. -/
  | shmpage (page ctx : Word)
  /-- PRICEBANK (R383): Monitor call assigning a price bank to a context. -/
  | pricebank (die bank ctx : Word)
  /-- TREE (R383): Monitor call writing a spanning-tree entry. -/
  | tree (group node entry : Word)
  /-- SLICE (R48): Monitor call writing SLICELEN, clamped to 24,000 cycles. -/
  | slice (len : Word)
  /-- PEER (R383): Monitor call pairing a peer context on another package. -/
  | peer (pkg remote loc : Word)
  /-- ATTEST (R384): Monitor call writing a signed attestation report. -/
  | attest (nonce report : Word)
  /-- PREEMPT_SET (R41): Monitor call setting PREQ on a core and its gang under an eviction set, saving parked cores at once. -/
  | preemptSet (core set : Word)
  /-- PREEMPT_CLEAR (R41): Monitor call clearing PREQ, removing cores from their set or resuming a held core. -/
  | preemptClear (core set : Word)
  /-- CTXNEW (R41): Monitor call creating a context in state loading. -/
  | ctxnew (root : Word)
  /-- CTXFREE (R41): Monitor call destroying a context and cancelling its units. -/
  | ctxfree (ctx : Word)
  /-- RESTORE (R41): Monitor call restoring an evicted set onto a list of zeroed cores. -/
  | restore (ctx set list : Word)
  /-- CTXSTATE (R383): Monitor call writing a context's and its sets' states. -/
  | ctxstate (ctx addr : Word)
  /-- WDRING (R383): Monitor call registering the partition's watchdog ring. -/
  | wdring (base entries tier : Word)
  /-- SCRUB_REPORT (R386): A scrubber reports an uncorrectable DRAM line and the monitor poisons its page. -/
  | scrubReport (base len : Nat)
  /-- FREEZE (R385): A freeze request from FRZ_N or the monitor stops every clock in one cycle. -/
  | freeze
  /-- RESUME (R385): A resume restarts every clock in one cycle. -/
  | resume
  /-- POWER_CAP_EXCEEDED (R387): Package power above the cap throttles arithmetic issue. -/
  | powerCapExceeded (watts : Nat)
  /-- JUNCTION_THROTTLE (R387): A die junction at 105 C throttles arithmetic issue. -/
  | junctionThrottle (die celsius : Nat)
  /-- JUNCTION_FREEZE (R387): A die junction at 115 C freezes the package. -/
  | junctionFreeze (die celsius : Nat)
  /-- ILLEGAL_INSTRUCTION (R229): A fetched word that fails the fetch checks or decodes to no assigned instruction traps precisely with the cause of the first failing check. -/
  | illegalInstruction (cause : BitVec 5) (word : Word)
  /-- DEPENDENCE_COUNT_WRITE (R82): Firmware writes a blocked successor launch's dependence count through the monitor, which can make it ready. -/
  | dependenceCountWrite (part : Nat) (graph : CtxGraph) (index count : Nat)
  /-- COORDINATOR_ROLE_MOVE (R169): Firmware moves a coordinator role to another hub, during which the coordinator refuses postings with retry replies. -/
  | coordinatorRoleMove (root : Bool) (domain hub : Nat)
  /-- SCAN_CHAIN_ACCESS (R385): An access through the IEEE 1149.1 port reads out frozen state, and a write through scan is refused unless debug-enable is fused. -/
  | scanChainAccess (a : ScanAccess)
  /-- THROTTLE_END (R387): Package power falls back to the cap or every junction falls below 105 C, and the throttle of arithmetic issue is lifted. -/
  | throttleEnd (watts : Nat) (celsius : List Nat)
  /-- PROBE_INTERVAL (R159): During the Measure phase each side sends its next PROBE 1,024 flit times after the previous one, four in all. -/
  | probeInterval (port : Nat)
  deriving DecidableEq, Repr

end Sys2Proof
end

