-- ==== Sys2Proof/Config.lean ====
section
/-!
DEFINITION. What the spec leaves open: values no definition fixes (opaque constants, no body), and the
functions of the security engine that the manual names but does not give.
-/
namespace Sys2Proof.Config

open Sys2Proof

/-- A free value: what the machine holds where the manual states no value.
DESIGN CHOICE (log 3): read at the counter State.fresh, so two draws are unrelated. -/
opaque freeValue : Nat → BitVec 64

/-- A free choice between the outcomes the manual allows (a stale or a fresh copy, R68, R129, R136).
DESIGN CHOICE (log 3). -/
opaque freeChoice : Nat → Nat

/-- SHA3-256 of a byte string (R379, R382, R384); the manual names the function, its body is not in it (log 4). -/
opaque sha3 : List (BitVec 8) → BitVec 256

/-- ML-DSA-44 verification: key hash, digest, signature (R379); log 4. -/
opaque mlDsaVerify : BitVec 256 → BitVec 256 → List (BitVec 8) → Bool

/-- ML-DSA-44 signature with the device identity key, 2,420 bytes, by byte index (R384); log 4. -/
opaque mlDsaSign : BitVec 256 → Nat → BitVec 8

/-- The entry of a supervisor image: a part of the image, whose layout the manual does not give (R382); log 31. -/
opaque imageEntry : List (BitVec 8) → BitVec 64

/-- What the host link answers to a read of a host-tier byte that no access of the device has written
(R65: what the host does is up to the host system); log 5. -/
opaque hostByte : Nat → BitVec 8

/-- The packet data, 28 bytes a flit, that carries a packet: the manual gives no packet format (R153, R162); log 30. -/
opaque packetFlits : HubPacket → List (BitVec 224)

/-- The first packet that is whole in the packet data a hub has received of a class, and the data that is left; log 30. -/
opaque packetIn : List (BitVec 224) → Option (HubPacket × List (BitVec 224))

end Sys2Proof.Config
end

