-- ==== Sys2Proof/Machine/Bits.lean ====
section
/-!
DEFINITION. Bit, byte and list helpers: little-endian bytes (R3), sign and zero extension (R217), elements (R20).
-/
namespace Sys2Proof.Machine

open Sys2Proof

/-- The value of bytes, lowest address first (R3). -/
def leVal : List Byte → Nat
  | [] => 0
  | b :: bs => b.toNat + 256 * leVal bs

/-- The n low bytes of a value, lowest first (R3). -/
def leBytes : Nat → Nat → List Byte
  | 0, _ => []
  | n + 1, v => BitVec.ofNat 8 v :: leBytes n (v / 256)

/-- Put an element behind those of an ordered list that must stand before it. -/
def insertBy {α : Type} (le : α → α → Bool) (a : α) (l : List α) : List α :=
  let ahead := fun b => !le a b
  l.takeWhile ahead ++ a :: l.dropWhile ahead

/-- A list in order; elements that may stand either way keep their order. -/
def sortBy {α : Type} (le : α → α → Bool) (l : List α) : List α := l.foldr (insertBy le) []

/-- Bits hi down to lo of a number. -/
def natBits (x hi lo : Nat) : Nat := (x >>> lo) % 2 ^ (hi + 1 - lo)

/-- Bits hi down to lo of a word, as a number (R3). -/
def bitsOf {n : Nat} (x : BitVec n) (hi lo : Nat) : Nat := (x.extractLsb' lo (hi + 1 - lo)).toNat

/-- Sign-extension of the low n bits to 64 (R217). -/
def sextN (n : Nat) (x : Nat) : Word := (BitVec.ofNat n x).signExtend 64

/-- Zero-extension of the low n bits to 64 (R217). -/
def zextN (n : Nat) (x : Nat) : Word := BitVec.ofNat 64 (x % 2 ^ n)

/-- The low n bits read as two's complement. -/
def sintN (n : Nat) (x : Nat) : Int := (BitVec.ofNat n x).toInt

/-- x with bits hi..lo replaced. -/
def putBits (x : Word) (hi lo v : Nat) : Word :=
  BitVec.ofNat 64 (x.toNat - (natBits x.toNat hi lo) * 2 ^ lo + (v % 2 ^ (hi + 1 - lo)) * 2 ^ lo)

/-- The word with the given bit set or clear. -/
def bitWord (b : Bool) : Word := if b then 1 else 0

/-- ⌈a / b⌉. -/
def ceilDiv (a b : Nat) : Nat := (a + b - 1) / b

/-- a rounded up to a multiple of b. -/
def roundUp (a b : Nat) : Nat := ceilDiv a b * b

/-- Element i of width w bits of a vector (R20). -/
def elem (v : VReg) (i w : Nat) : Nat := (v.extractLsb' (i * w) w).toNat

/-- A vector from its elements of width w, element 0 first (R20). -/
def packElems (w : Nat) : List Nat → Nat
  | [] => 0
  | x :: xs => x % 2 ^ w + 2 ^ w * packElems w xs

/-- A vector register from elements of width w; missing elements are zero. -/
def vecOf (w : Nat) (xs : List Nat) : VReg := BitVec.ofNat 512 (packElems w xs)

/-- The elements of a vector, element 0 first. -/
def elems (v : VReg) (w : Nat) : List Nat := (List.range (512 / w)).map (elem v · w)

/-- Look up a key in an association list. -/
def assoc {α : Type} (n : Nat) : List (Nat × α) → Option α
  | [] => none
  | (k, a) :: t => if k = n then some a else assoc n t

/-- Set a key of a list kept in rising key order. -/
def setAssoc {α : Type} (n : Nat) (a : α) (l : List (Nat × α)) : List (Nat × α) :=
  l.takeWhile (fun x => x.1 < n) ++ (n, a) :: (l.dropWhile (fun x => x.1 < n)).filter (fun x => x.1 != n)

/-- Remove a key. -/
def delAssoc {α : Type} (n : Nat) (l : List (Nat × α)) : List (Nat × α) := l.filter (fun x => x.1 != n)

/-- Replace the first element that satisfies p. -/
def replaceFirst {α : Type} (p : α → Bool) (f : α → α) (l : List α) : List α := l.modify (l.findIdx p) f

/-- Remove the first element that satisfies p. -/
def removeFirst {α : Type} (p : α → Bool) (l : List α) : List α := l.eraseP p

/-- Element i of a list, or a default. -/
def nth {α : Type} (d : α) (l : List α) (i : Nat) : α := (l[i]?).getD d

/-- Set element i of a list. -/
def setNth {α : Type} (i : Nat) (a : α) (l : List α) : List α := l.set i a

/-- The sum of a list of numbers. -/
def sumNat (l : List Nat) : Nat := l.foldl (· + ·) 0

/-- The least of two integers, the greater, and a clamp (R217: sat). -/
def clampInt (x lo hi : Int) : Int := if x < lo then lo else if hi < x then hi else x

/-- Two ranges of addresses share a byte. -/
def overlaps (a la b lb : Nat) : Bool := a < b + lb && b < a + la && 0 < la && 0 < lb

end Sys2Proof.Machine
end

