-- ==== Sys2Proof/Machine/State.lean ====
section
/-!
DEFINITION. The whole state of the package as plain data: the cores, their queues and engines, the memories, the
partitions, contexts, launches, barrier channels, collectives, link ports, boot and power; the faults and refusals;
and the state right after package reset.
-/
namespace Sys2Proof.Machine

open Sys2Proof

/-- How a step stops the machine. -/
inductive Fault where
  /-- Raised by Sys2Proof.Machine.step alone: the boot stopped at stage 4 (R379: "boot halted, error code in the
  host-visible status register"); safe, the manual gives the package no further action before a reset. -/
  | bootHalted (code : Nat)
  deriving DecidableEq, Repr

/-- Why a step is refused. -/
inductive Refusal where
  /-- Raised by an arm of exec whose instruction has no meaning yet; safe. -/
  | notModelled (mnemonic : String)
  deriving DecidableEq, Repr

/-! ## Core -/

/-- What a core is doing (R41, R42, R80). -/
inductive RunState where
  /-- no unit and no supervisor runs here -/
  | free
  /-- a unit or the supervisor runs -/
  | running
  /-- its image is streaming out -/
  | saving
  /-- it is being zeroed for its next owner -/
  | zeroing
  /-- an image is streaming in -/
  | restoring
  deriving DecidableEq, Repr

/-- The receive queue of one port register: 16 hardware words and the ring in the spill area (R100). -/
structure PortQueue where
  hw : List Word
  spillHead : Nat
  spillCount : Nat
  deriving DecidableEq, Repr

/-- What a core waits for. -/
inductive WaitKind where
  /-- WAIT on a channel for an episode (R124) -/
  | barrier (channel epoch : Nat)
  /-- a second ARRIVE or ARRIVE.G in one episode (R121) -/
  | arrive (channel : Nat) (gather : Bool)
  /-- WAITW on a word, with the fields of the instruction that waits (R126) -/
  | word (key : Nat) (ra rb : BitVec 5) (size : BitVec 1) (order : BitVec 2) (scope : BitVec 3)
  /-- IDLE (R260) -/
  | idle
  /-- a read of an empty port register (R99) -/
  | portRead (reg : Nat)
  /-- a write to a port whose receiver is full (R101) -/
  | portWrite (reg : Nat)
  /-- a port write answered by retry replies (R49) -/
  | portRetry (reg : Nat)
  /-- a write to a migrating page (R70) -/
  | migWrite (va : Word)
  /-- a load, store or atomic answered by retry replies (R49) -/
  | retry (addr : Word)
  /-- FUSE in a split gang (R93) -/
  | fuse
  /-- ENQ on a full issue queue (R278) -/
  | enq (field : Nat)
  /-- QWAIT (R114) -/
  | qwait (qid : Nat)
  /-- CGET (R164) -/
  | cget (group : Nat)
  /-- a read of a pending batched destination (R151) -/
  | pendingReg (reg : Nat)
  /-- a kerf push waiting for its spill, or a pop for its refill (R325, R326) -/
  | kerf
  /-- UINOTE on a full notice queue (R72) -/
  | uinote (core : Nat)
  /-- EXIT waiting for batched requests and queues (R262) -/
  | exit
  deriving DecidableEq, Repr

/-- A stalled or parked instruction: what for, since which cycle, how many replies, the WAITTO value at issue, the
destination register, whether an event has ended the wait, and the episode a WAIT has awaited since its issue (R124). -/
structure WaitRec where
  kind : WaitKind
  since : Nat
  count : Nat
  limit : Nat
  rd : BitVec 5
  ready : Bool
  awaits : Option (Nat × Nat)
  deriving DecidableEq, Repr

/-- A cached translation: context id, the page's base in units of 64 KiB, page size, descriptor (R68). -/
structure TlbEntry where
  ctx : BitVec 16
  page : Nat
  big : Bool
  desc : Word
  deriving DecidableEq, Repr

/-- A cached 64-byte line by its physical location (R140). -/
structure CacheLine where
  key : Nat
  bytes : List Byte
  deriving DecidableEq, Repr

/-- The key of a launch: partition, context, graph id, launch index (R81). -/
structure LaunchKey where
  part : Nat
  ctx : Nat
  graph : Nat
  index : Nat
  deriving DecidableEq, Repr

/-- What a launch gives a unit (R74 to R80, R91). -/
structure UnitCfg where
  launch : LaunchKey
  ctx : Nat
  unit : Nat
  nunits : Nat
  gangSize : Nat
  gangPos : Nat
  /-- the cores of the gang by position -/
  gang : List Nat
  det : Bool
  tilerec : Word
  tileslice : Word
  privKiB : Nat
  sharedKiB : Nat
  accKiB : Nat
  kerfKiB : Nat
  weight : Nat
  ports : Nat
  channels : List Nat
  deriving DecidableEq, Repr

/-- The user control registers (R228); each word keeps its reserved bits zero. -/
structure UserRegs where
  fctl : Word
  fflags : Word
  portmap : Word
  chancfg : Vector Word 4
  bmask : Word
  mfmt : Word
  ascale : Word
  bscale : Word
  kseq : BitVec 16
  kback : Word
  uivec : Word
  uipc : Word
  uicause : Word
  uival : Word
  uienable : Word
  evcnt : Vector Word 8
  gatherptr : Word
  instret : Word
  restored : Bool
  diverge : Bool
  cancelPending : Bool
  merrstat : Word
  merrlog0 : Word
  merrlog1 : Word
  waitto : Word
  portwait : Word
  deriving DecidableEq, Repr

/-- The supervisor control registers (R228, R252, R253). -/
structure SupRegs where
  spp : Bool
  spie : Bool
  sie : Bool
  /-- UIA: the core is in the user-interrupt context -/
  uia : Bool
  stvec : Word
  sepc : Word
  scause : Word
  sval : Word
  sscratch : Word
  sdeleg : Word
  ptroot : Word
  ctxid : Word
  pdeadline : Word
  wdlimit : Word
  wdpark : Word
  retrymax : Word
  deriving DecidableEq, Repr

/-- The states of a queue entry (R108, R114). -/
inductive EState where
  | issued
  | accepted
  | active
  | suspended
  | pending
  /-- held at a QFENCE -/
  | fenced
  /-- its work is over; its report is due (R111) -/
  | finishing
  deriving DecidableEq, Repr

/-- A COPYND descriptor (R342). -/
structure NdDesc where
  src : Nat
  dst : Nat
  e0 : Nat
  e1 : Nat
  e2 : Nat
  ss1 : Int
  ss2 : Int
  ds1 : Int
  ds2 : Int
  deriving DecidableEq, Repr

/-- A row-moving parameter block: GATHR's or SCATR's (R343). -/
structure RowParm where
  idx : Nat
  offs : Nat
  src : Nat
  dst : Nat
  imap : Nat
  rowb : Nat
  nsrc : Nat
  deriving DecidableEq, Repr

/-- One entry of a jig (R104). -/
structure JigEntry where
  slot : Nat
  target : Nat
  bytes : Nat
  soff : Nat
  doff : Nat
  deriving DecidableEq, Repr

/-- The local part of a plan descriptor (R165). -/
structure PlanLocal where
  src : Nat
  dst : Nat
  crec : Nat
  cring : Nat
  barch : Option Nat
  deriving DecidableEq, Repr

/-- What an engine keeps for an entry it has taken up. -/
inductive Job where
  | none
  | nd (d : NdDesc)
  /-- GATHR: the block, and the source row of the row in progress -/
  | rows (p : RowParm) (row : Option Nat)
  /-- SCATR: the block, the engine's own copy of the offsets, the row the current token goes to -/
  | scatter (p : RowParm) (next : List Nat) (row : Option Nat)
  /-- COPYG: source, destination, generation address and word -/
  | gen (src dst gaddr : Nat) (word : Word)
  /-- XSCHED: the jig, the start episode awaited, the start cycle, the entry in progress (if any) and how far -/
  | jig (entries : List JigEntry) (await : Option (Nat × Nat)) (start : Option Nat) (cur : Nat) (issued : Bool)
  /-- the blocks and records read so far, in the order of their reading (R338, R388) -/
  | blocks (read : List (List Byte))
  /-- a routing command that waits: what it has read, and the outputs it has written (R200, R388) -/
  | routing (read : List (List Byte)) (written : Nat)
  /-- a matrix command at its head: the formats of its first tile (R188) -/
  | matrix (afmt bfmt : Nat)
  /-- CPLAN that waits for its plan: the descriptor's local part, the core that issued it, and its GROUP -/
  | plan (loc : PlanLocal) (core group : Nat)
  /-- COPY to another package: the number of the copy, and the bytes of the packet that the other package has not yet
  answered, 0 when none is on its way (R341) -/
  | remote (id out : Nat)
  /-- CFREE that waits for the instances outstanding at its member: the plan's round and the rank (R174) -/
  | freeing (round : Nat × Nat) (rank : Nat)
  /-- CANCEL that waits until the cores it stopped have been released (R354) -/
  | cancel (cores : List Nat)
  /-- LAUNCH whose packet was rejected and whose record of status 2 is still to be written: its address, the field's
  offset, the invalid record's index (R75, R388) -/
  | rejected (crec off index : Nat)
  deriving DecidableEq, Repr

/-- One entry of a core's queues (R106, R108). -/
structure Entry where
  qid : Nat
  field : Nat
  head : CmdHead
  cmd : Cmd
  state : EState
  /-- bytes, rows or tiles done, in the order of the command's loop -/
  pos : Nat
  /-- bytes or rows moved, for the record -/
  moved : Nat
  status : Nat
  cause : Nat
  count : Nat
  faultAddr : Word
  srcAddr : Word
  dstAddr : Word
  /-- cycle of the first refusal or of the suspension -/
  since : Nat
  /-- its completion record was refused and is resent (R110) -/
  recordPending : Bool
  /-- the KIND 0 event of its fault has been raised (R108) -/
  told : Bool
  /-- its completion record is written or lost (R111) -/
  recordDone : Bool
  /-- its record was lost with this cause, and the KIND 0 event for it is still to be raised (R110) -/
  lost : Option Nat
  /-- a QFENCE that another with its tag and a different set has met (R115) -/
  mismatch : Bool
  /-- a TLBINV or a UINOTE asks for its re-translation now (R108) -/
  kick : Bool
  job : Job
  deriving DecidableEq, Repr

/-- An engine event in a core's event queue (R112), with its arrival number. -/
structure EngineEvent where
  stamp : Nat
  remaining : Nat
  kind : Nat
  cause : Nat
  qid : Nat
  tag : BitVec 16
  deriving DecidableEq, Repr

/-- A page-fault completion notice (R72), with its arrival number. -/
structure Notice where
  stamp : Nat
  page : Nat
  status : Nat
  deriving DecidableEq, Repr

/-- The fault words of a copy channel, kept until its next entry becomes active (R109, R114). -/
structure FaultWords where
  qid : Nat
  src : Word
  dst : Word
  addr : Word
  deriving DecidableEq, Repr

/-- A batched atomic (R151). -/
structure Batched where
  key : Nat
  va : Word
  size : Nat
  op : Nat
  operand : Word
  rd : BitVec 5
  /-- issued in the user-interrupt context, so that g16 to g23 are that context's -/
  ui : Bool
  deriving DecidableEq, Repr

/-- The state of a wave slot that is not idle (R164). -/
inductive WaveState where
  | posted (value : Word)
  | ready (value : Word)
  | failed
  deriving DecidableEq, Repr

/-- A spill or a refill of the kerf stack in flight (R325 to R327). -/
structure KerfOp where
  spill : Bool
  /-- bytes moved by the services of channel 63 so far (R88, R327) -/
  moved : Nat
  done : Bool
  /-- a refill for KDROP, whose search leaves the levels as they are until it is over: what it has read of the backing,
  the newest block last (R326, R332) -/
  search : Option (List Byte)
  /-- the cause met and the backing address -/
  failed : Option (Nat × Word)
  deriving DecidableEq, Repr

/-- An operand FIFO: its bytes, and the positions with an uncorrectable error (R181, R193). -/
structure Fifo where
  bytes : List Byte
  bad : List Nat
  deriving DecidableEq, Repr

/-- The samples a tile in the array was started with (R188). -/
structure RunTile where
  tile : Nat
  afmt : Nat
  bfmt : Nat
  aoff : Nat
  boff : Nat
  rm : Nat
  /-- FCTL.UFE -/
  ufe : Bool
  deriving DecidableEq, Repr

/-- The error registers at the end of a tile that replaced elements: its cycle, MERRSTAT, MERRLOG0 and MERRLOG1 as they
were, the log of its first replacement, and whether there were more (R194, R197). -/
structure TileLog where
  cycle : Nat
  stat : Word
  log0 : Word
  log1 : Word
  new0 : Word
  new1 : Word
  many : Bool
  deriving DecidableEq, Repr

/-- An instruction the leader of a fused gang forwards: the word, its address and where the leader goes (R92). -/
structure Forwarded where
  word : IWord
  pc : Word
  next : Word
  deriving DecidableEq, Repr

/-- One core and all that is private to it (R8, R44, R251). -/
structure Core where
  id : Nat
  run : RunState
  /-- stopped by the watchdog and not saved (R55) -/
  held : Bool
  /-- its watchdog's count has reached the limit, and its record is not made yet: the eviction set it is saved in, or
  0xFF where it is to be held, and whether the limit was WDPARK (R55) -/
  expired : Option (Nat × Bool)
  /-- privilege: true at supervisor level -/
  super : Bool
  pc : Word
  g : Vector Word 32
  shadow : Vector Word 8
  v : Vector VReg 32
  p : Vector Word 8
  user : UserRegs
  sup : SupRegs
  unit : Option UnitCfg
  /-- the launch whose unit last left its store here (R42, R76) -/
  lastLaunch : Option LaunchKey
  /-- the context whose buffers here are being set to zero (R41, R42) -/
  zeroCtx : Option Nat
  ports : Vector PortQueue 8
  wait : Option WaitRec
  fwd : List Forwarded
  /-- where the leader of this member's gang went with the instruction now executed (R92) -/
  lead : Option Word
  entries : List Entry
  events : List EngineEvent
  /-- events held at an engine until the queue has room (R113) -/
  heldEvents : List EngineEvent
  notices : List Notice
  /-- an overflow notice is to follow the queue (R72) -/
  noticeOverflow : Bool
  /-- the watchdog notice for the supervisor: arrival number and PROD count (R55) -/
  wdNotice : Option (Nat × Word)
  staleTags : List (Nat × BitVec 16)
  faultWords : List FaultWords
  copyTurn : Nat
  kerfHead : List Byte
  /-- the positions in the HEAD with an uncorrectable error (R327) -/
  kerfBad : List Nat
  kerfRB : Nat
  kerfBB : Nat
  kerfOp : Option KerfOp
  waves : List (Nat × WaveState)
  fifoA : Fifo
  fifoB : Fifo
  accum : List (Nat × BitVec 32)
  accumBad : List Nat
  deficit : Nat
  runTile : Option RunTile
  /-- the last tile that logged a replacement (R197) -/
  tileLog : Option TileLog
  /-- the exchange stretches that have begun and not ended: bound channel and its episode (R103) -/
  exchange : List (Nat × Nat)
  batch : List Batched
  /-- destinations pending; g16 to g23 of the user-interrupt context count as 48 to 55 -/
  pendingRegs : List Nat
  /-- results of batched atomics whose destination is a port, to be sent in order (R99, R151) -/
  portResults : List (BitVec 5 × Word)
  /-- since when the oldest of them has found its receiver full (R101) -/
  portSince : Nat
  /-- its receiver's router answers retry, and it is resent every 256 cycles (R49) -/
  portRefused : Bool
  /-- the core has arrived in the batch channel's open episode (R150) -/
  batchArrived : Bool
  /-- the latest mark on each channel (R124) -/
  awaited : List (Nat × Nat)
  /-- PREQ: the cycle it was set and the eviction set (R41) -/
  preq : Option (Nat × Nat)
  /-- the watchdog has stopped a member of the gang: the core is saved at its next boundary (R55) -/
  forced : Bool
  saveFrom : Nat
  wdBase : Nat
  itlb : List TlbEntry
  dtlb : List TlbEntry
  l1d : List CacheLine
  l1i : List CacheLine
  deriving DecidableEq, Repr

/-! ## Contexts, launches and partitions -/

/-- The states of a context (R41). -/
inductive CtxState where
  | loading
  | resident
  | destroying
  | zeroed
  deriving DecidableEq, Repr

/-- The states of an open eviction set (R41). -/
inductive SetState where
  | requested
  | saving
  | evicted
  | restoring
  deriving DecidableEq, Repr

/-- An open eviction set: its number, state, cores still to save or saving, and restore targets (R41). -/
structure EvictionSet where
  num : Nat
  state : SetState
  cores : List Nat
  /-- while restoring: the core each image was saved from, and the core it goes to -/
  targets : List (Nat × Nat)
  deriving DecidableEq, Repr

/-- A saved image: its set, the core it was saved from, the core's state and its local store (R44). -/
structure Image where
  set : Nat
  fromCore : Nat
  core : Core
  store : List Host.Cell
  deriving DecidableEq, Repr

/-- A context that is not free (R41). -/
structure Context where
  id : Nat
  part : Nat
  state : CtxState
  ptroot : Word
  sets : List EvictionSet
  images : List Image
  /-- peer contexts: package id, remote context id (R341, R383) -/
  peers : List (Nat × Nat)
  deriving DecidableEq, Repr

/-- Where a unit of a launch stands (R80, R84). -/
inductive UnitPlace where
  | unplaced
  | on (core : Nat)
  | saved
  | exited
  | cancelled
  deriving DecidableEq, Repr

/-- A tile record of a ragged launch (R77). -/
structure TileRec where
  expert : Nat
  rows : Nat
  rowStart : Nat
  slice : Nat
  deriving DecidableEq, Repr

/-- The states of a launch entry (R82, R85). -/
inductive LaunchState where
  /-- only decrements have arrived -/
  | early
  | blocked
  | ready
  | placing
  /-- every unit has been placed -/
  | placed
  | complete
  deriving DecidableEq, Repr

/-- A launch entry of the hierarchy table (R74, R81 to R85). -/
structure Launch where
  key : LaunchKey
  ctx : Nat
  phase : Nat
  job : Nat
  state : LaunchState
  pushedBy : Nat
  /-- the unit that pushed it, if a unit did -/
  pusher : Option (LaunchKey × Nat)
  tag : BitVec 16
  irq : Bool
  det : Bool
  ragged : Bool
  persistent : Bool
  startPc : Word
  args : Word
  unitCount : Nat
  gangSize : Nat
  privKiB : Nat
  sharedKiB : Nat
  accKiB : Nat
  kerfKiB : Nat
  weight : Nat
  prio : Nat
  ports : Nat
  channels : List Nat
  kback : Nat
  records : List TileRec
  crec : Word
  depCount : Int
  succ : List Nat
  /-- decrements for successors without an entry (R82) -/
  kept : List Nat
  readyAt : Nat
  readySeq : Nat
  aged : Bool
  nunits : Nat
  units : List (Nat × UnitPlace)
  status : Nat
  /-- its completion record was refused or met a migrating page (true): the cycle of the next try (R70, R83, R388) -/
  recordDue : Option (Nat × Bool)
  /-- its completion record is written or lost, and its interrupt waits for room in the event queue (R83, R113) -/
  recorded : Bool
  deriving DecidableEq, Repr

/-- A graph, phase or job entry: id, context, parent id, sealed, whether a CANCEL has named it, status, outstanding
children (R81, R84). -/
structure Counter where
  id : Nat
  ctx : Nat
  parent : Nat
  sealed : Bool
  cancelled : Bool
  status : Nat
  outstanding : Nat
  deriving DecidableEq, Repr

/-- A partition (R381) with its hub registers, hierarchy table and watchdog ring. -/
structure Partition where
  id : Nat
  trusses : List Nat
  pages : List Nat
  banks : List (Nat × Nat)
  channels : List Nat
  groups : List Nat
  lpddr : List Nat
  /-- the partition's ranges of the stacked tier, of 1 GiB each (R383; log 12) -/
  stacked : List Nat
  /-- Fihorn ports and the share of each, in hundredths (R381) -/
  ports : List (Nat × Nat)
  sliceLen : BitVec 32
  sliceClamped : Bool
  /-- versioned scalar registers: current, previous (R90) -/
  versioned : Vector (Word × Word) 16
  measurement : BitVec 256
  supCore : Nat
  supBooted : Bool
  launches : List Launch
  /-- the launch at the head of the queues, until every one of its units has been placed (R85) -/
  head : Option LaunchKey
  graphs : List Counter
  phases : List Counter
  jobs : List Counter
  readyNext : Nat
  /-- the watchdog ring: its location, entries and PROD (R55) -/
  wdRing : Option (Nat × Nat × Nat)
  wdHeld : List (List Byte)
  /-- when CONS was last read -/
  wdPoll : Nat
  wdLost : Nat
  /-- messages of the host's mailbox (R381) -/
  mailbox : List (List Byte)
  deriving DecidableEq, Repr

/-! ## Shared units -/

/-- A range unit (R89). -/
structure RangeUnit where
  truss : Nat
  unit : Nat
  ctx : Nat
  next : Word
  left : Nat
  div : Nat
  chunk : Nat
  deriving DecidableEq, Repr

/-- A member's contribution to a gather record (R33). -/
structure Gathered where
  core : Nat
  unit : Nat
  ptr : Word
  counts : List Word
  deriving DecidableEq, Repr

/-- A held barrier channel (R118, R121). -/
structure Channel where
  num : Nat
  holder : LaunchKey
  ctx : Nat
  epoch : Nat
  count : Int
  nextCount : Int
  /-- unit numbers of the marked members -/
  marks : List Nat
  /-- unit numbers whose second arrival stalls -/
  stalled : List Nat
  gathered : List Gathered
  phase : Bool
  failed : Bool
  /-- the episodes that completed as failed -/
  failedEpochs : List Nat
  /-- the episode must complete as failed -/
  failing : Bool
  /-- the cycle of the last BCANCEL (R122) -/
  cancelAt : Option Nat
  /-- the gather record was refused or met a migrating page (true): the cycle of its next try (R70, R388) -/
  gatherDue : Option (Nat × Bool)
  /-- the cycle of the last arrival or of the last bytes, and the units marked and the bytes counted in it (R122) -/
  recentAt : Nat
  recentMarks : List Nat
  recentBytes : Nat
  deriving DecidableEq, Repr

/-- A waiter registered on a word of die shared memory, by the WAITW it belongs to: core, address and level of the
instruction (0 user, 1 user-interrupt context, 2 supervisor) (R126). -/
structure Waiter where
  core : Nat
  pc : Word
  level : Nat
  key : Nat
  size : Nat
  target : Word
  woken : Bool
  deriving DecidableEq, Repr

/-- A price bank: die, number, owner, prices that are not zero (R208). -/
structure PriceBank where
  die : Nat
  num : Nat
  owner : Option Nat
  /-- the core whose AUCT or PRICE has started on it and waits for an access (R209) -/
  user : Option Nat
  prices : List (Nat × BitVec 32)
  deriving DecidableEq, Repr

/-- A plan's local part at a member of this package (R165, R167). -/
structure PlanMember where
  rank : Nat
  core : Nat
  ctx : Nat
  /-- the unit that issued the CPLAN, if a unit did -/
  owner : Option (LaunchKey × Nat)
  handle : Nat
  loc : PlanLocal
  /-- triggers posted so far -/
  triggered : Nat
  /-- arguments of the instances outstanding: (instance, argument) -/
  outstanding : List (Nat × Word)
  /-- instance buffers reserved for the member and not claimed by a started instance (R166, R171) -/
  buffers : Nat
  freed : Bool
  deriving DecidableEq, Repr

/-- A plan, reserved for or live (R165 to R175): the coordinator and the number of the round that made it, its members
in this package, and at the coordinator the ranks whose CFREE has completed. -/
structure Plan where
  common : PlanCommon
  memberList : List (Nat × Nat)
  round : Nat × Nat
  live : Bool
  members : List PlanMember
  freedRanks : List Nat
  deriving DecidableEq, Repr

/-- A round that is complete and agreed, while the packages it names reserve: those still to answer, and whether every
answer so far is yes (R166). -/
structure Reserving where
  id : Nat
  common : PlanCommon
  members : List (Nat × Nat)
  waiting : List Nat
  ok : Bool
  deriving DecidableEq, Repr

/-- A posting in the local hub's table: whether it is on its way to a coordinator elsewhere, and since when it is refused
(R169). -/
structure LocalPosting where
  posting : Posting
  sent : Bool
  refusedAt : Option Nat
  deriving DecidableEq, Repr

/-- An instance started at a member of this package (R170, R171). -/
structure StartedInst where
  group : Nat
  inst : Nat
  rank : Nat
  grank : Word
  deriving DecidableEq, Repr

/-- A failed instance whose record at a member is still to be written: the group and the round of its plan, the member,
the instance, its global rank, the cycle of the next try, and whether a migrating page holds it up (R70, R113, R168,
R173, R175). -/
structure EndWait where
  group : Nat
  round : Nat × Nat
  member : PlanMember
  inst : Nat
  grank : Word
  due : Nat
  mig : Bool
  deriving DecidableEq, Repr

/-- The collective state of the hub (R163 to R174). -/
structure Collective where
  /-- spanning-tree entries by (node, group) (R163) -/
  tree : List ((Nat × Nat) × BitVec 32)
  /-- contributions to open waves: group, node, value (R164) -/
  contribs : List (Nat × Nat × Word)
  /-- what has arrived over the tree from other packages: group, package, value (R164) -/
  waveIn : List (Nat × Nat × Word)
  /-- the groups whose part of this package has gone up to the root's package (R164) -/
  waveSent : List Nat
  plans : List Plan
  rounds : List PlanRound
  reserving : List Reserving
  localPostings : List LocalPosting
  /-- the coordinator's table: group, instance, ranks present (R169) -/
  coordTable : List (Nat × Nat × List Nat)
  rootCount : Nat
  domainCount : Nat
  /-- the domain coordinator's stream, in order (R170) -/
  stream : List Ticket
  started : List StartedInst
  /-- what members have contributed, here and elsewhere: group, instance, rank; none where the read failed (R168, R171) -/
  arrived : List (Nat × Nat × Nat × Option (List Byte))
  ends : List EndWait
  isDomain : Bool
  isRoot : Bool
  /-- hubs named as coordinators: of this domain, of the root -/
  domainHub : Nat
  rootHub : Nat
  /-- the package's domain, and the domains of other packages -/
  domain : Nat
  domains : List (Nat × Nat)
  /-- the coordinators of other domains, by domain -/
  domainHubs : List (Nat × Nat)
  deriving DecidableEq, Repr

/-! ## Link -/

/-- The states of a port (R161). -/
inductive PortState where
  | down
  | training
  | up
  | retraining
  | failed
  deriving DecidableEq, Repr

/-- A data flit sent and not yet acknowledged: with its class, its destination package and its replays (R154). -/
structure Unacked where
  flit : BitVec 256
  cls : Nat
  dst : Nat
  part : Option Nat
  replays : Nat
  deriving DecidableEq, Repr

/-- A message for another package, with the partition whose ports carry it; none where it belongs to none (R381). -/
structure OutItem where
  part : Option Nat
  msg : OutMsg
  deriving DecidableEq, Repr

/-- Packet data that waits for a port: destination package, partition, class, 28 bytes (R153, R162, R381). -/
structure LinkPacket where
  dst : Nat
  part : Option Nat
  cls : Nat
  body : BitVec 224
  deriving DecidableEq, Repr

/-- One Fihorn port (R153 to R161). -/
structure LinkPort where
  num : Nat
  state : PortState
  /-- training phase 1 to 4 -/
  phase : Nat
  phaseSince : Nat
  failures : Nat
  tooLong : Bool
  sendSeq : Nat
  expectSeq : Nat
  nakSent : Bool
  /-- data flits not yet acknowledged, oldest first -/
  replay : List Unacked
  /-- data packets accepted, by class, waiting in the receive buffers -/
  buffers : List (Nat × BitVec 224)
  /-- classes that the far side has turned off -/
  farOff : List Nat
  /-- classes that this side has turned off -/
  nearOff : List Nat
  /-- cycle at which the first flit began: the flit count counts from here -/
  flitsFrom : Nat
  lastFlow : Nat
  probesSent : Nat
  lastProbe : Nat
  /-- round trips measured, in hundredths of a nanosecond -/
  echoes : List Nat
  /-- the port's round trip, in hundredths of a nanosecond -/
  roundTrip : Nat
  /-- the lanes' generators, as they stand after the flit time scrAt (R158) -/
  sendScr : List (BitVec 31)
  scrAt : Nat
  /-- the lanes' descramblers, by lane as cabled, as they stand after the flit time rxAt; none while lock is lost -/
  recvScr : List (BitVec 31)
  rxAt : Nat
  lanes : List TrainedLane
  ready : Bool
  /-- blocks of 64 bits on each lane sent in phases 1 to 3, counted in each phase from its start (R159) -/
  blocks : Nat
  /-- flits sent other than IDLE, oldest first, and the number of IDLE flits sent -/
  sent : List (BitVec 256)
  idles : Nat
  /-- the symbols each lane put on the line last: of a flit, a training block or all-zero data (R157 to R159) -/
  line : List (List Level)
  deriving DecidableEq, Repr

/-- The end-to-end sequence numbers with one hub of one class: the next to send, the next to come, and the packets that
came early (R162). -/
structure EndToEnd where
  hub : Nat
  cls : Nat
  next : Nat
  expect : Nat
  early : List (Nat × OutMsg)
  deriving DecidableEq, Repr

/-- What has arrived at the hub and meets a page that migrates, or retry replies: the cycle of the next try, and whether
a migrating page holds it up (R70, R341). -/
structure InWait where
  src : Nat
  msg : OutMsg
  due : Nat
  mig : Bool
  deriving DecidableEq, Repr

/-! ## Platform -/

/-- Boot (R379, R380). -/
structure Boot where
  /-- the next stage to run, 1 to 6; 7 when the boot is over -/
  stage : Nat
  halted : Option Nat
  recovery : Bool
  flash : Option FwImage
  running : Option FwImage
  rollback : Nat
  vendorKey : BitVec 256
  hostStatus : Nat
  /-- host-link requests answered with configuration-retry status (R385) -/
  hostRetries : Nat
  /-- the image booted from the recovery mailbox is written to flash when it has booted (R380) -/
  toFlash : Bool
  /-- the recovery mailbox, 64 KiB: the part of a replacement image that the host wrote last (R380) -/
  mailbox : List Byte
  /-- what the hardware reports to stages 1 and 4 -/
  selfTestOk : Bool
  trainOk : Bool
  deriving DecidableEq, Repr

/-- Power and heat (R387). -/
structure Power where
  cap : Nat
  watts : Nat
  celsius : List Nat
  /-- arithmetic issue withheld, in sixteenths -/
  throttle : Nat
  frozeHot : Bool
  /-- how often the monitor has been told, on resume, of a freeze at 115 °C (R387) -/
  toldHot : Nat
  deriving DecidableEq, Repr

/-- A page of DRAM that a context holds: where it begins, its size, the context, the address it is mapped at (R42, R67). -/
structure Frame where
  key : Nat
  size : Nat
  ctx : Nat
  va : Nat
  deriving DecidableEq, Repr

/-- The whole package. -/
structure State where
  /-- the core whose turn it is -/
  me : Core
  /-- the other cores that are not in their reset state, by number, ascending -/
  others : List (Nat × Core)
  /-- memory: rising addresses, no entry equal to what an unlisted address reads as -/
  mem : List Host.Cell
  /-- cycles since package reset (R250) -/
  cycle : Nat
  /-- steps of other agents and outside inputs that come next: (core they act for, step) -/
  agenda : List (Nat × Instr)
  /-- whether an engine has the next turn -/
  engineTurn : Bool
  /-- free values and choices drawn so far -/
  fresh : Nat
  /-- arrival number of the next event or notice -/
  stamp : Nat
  frozen : Bool
  boot : Boot
  power : Power
  /-- disabled bay of each truss: (truss, bay) (R15) -/
  harvest : List (Nat × Nat)
  debugEnable : Bool
  pkgId : Nat
  /-- route table: (destination package, ports in order) (R162) -/
  routes : List (Nat × List Nat)
  /-- the package that each Fihorn port is cabled to: (port, package) (R159) -/
  cables : List (Nat × Nat)
  /-- memory with an uncorrectable error: (base, length) of each ECC word (R386) -/
  eccBad : List (Nat × Nat)
  parts : List Partition
  contexts : List Context
  /-- eviction tags: (router's core, context, launch, unit) (R49) -/
  tags : List (Nat × Nat × LaunchKey × Nat)
  /-- owner of each shared-memory page that has one (R60) -/
  pageOwner : List (Nat × Nat)
  /-- the pages of DRAM that contexts have used and still hold (R42, R67) -/
  frames : List Frame
  banks : List PriceBank
  ranges : List RangeUnit
  channels : List Channel
  waiters : List Waiter
  l2tlb : List (Nat × TlbEntry)
  /-- the round position of each bay's matrix arbiter (R87): (bay, core) -/
  arbiter : List (Nat × Nat)
  coll : Collective
  ports : List LinkPort
  /-- messages handed to the link and not yet cut into packets -/
  outbox : List OutItem
  /-- messages cut into packets, oldest first -/
  departed : List OutMsg
  /-- packets that wait for a port (R162) -/
  linkQueue : List LinkPacket
  pairs : List EndToEnd
  /-- packet data taken out of the receive buffers and not yet a whole packet: class, 28 bytes (R160, R162) -/
  inFlits : List (Nat × BitVec 224)
  inbox : List InWait
  deriving DecidableEq, Repr

/-! ## Reset -/

/-- The user registers at reset and at a unit's start (R26 to R32, R113, R185, R251). -/
def UserRegs.reset : UserRegs where
  fctl := 0
  fflags := 0
  portmap := 0
  chancfg := Vector.replicate 4 0
  bmask := 0
  mfmt := 0x33
  ascale := 0
  bscale := 0
  kseq := 0
  kback := 0
  uivec := 0
  uipc := 0
  uicause := 0
  uival := 0
  uienable := 0
  evcnt := Vector.replicate 8 0
  gatherptr := 0
  instret := 0
  restored := false
  diverge := false
  cancelPending := false
  merrstat := 0
  merrlog0 := 0
  merrlog1 := 0
  waitto := 0
  portwait := 65536

/-- The supervisor registers at reset (R46, R252, R253); PTROOT, CTXID and SSCRATCH: DESIGN CHOICE 0 (log 2). -/
def SupRegs.reset : SupRegs where
  spp := false
  spie := false
  sie := false
  uia := false
  stvec := 0
  sepc := 0
  scause := 0
  sval := 0
  sscratch := 0
  sdeleg := 0
  ptroot := 0
  ctxid := 0
  pdeadline := 0x10000
  wdlimit := 0
  wdpark := 0
  retrymax := 64

/-- A core at reset: zeroed, no unit (R42, R251); pc DESIGN CHOICE 0 (log 2). -/
def Core.fresh (id : Nat) : Core where
  id := id
  run := .free
  held := false
  expired := none
  super := false
  pc := 0
  g := Vector.replicate 32 0
  shadow := Vector.replicate 8 0
  v := Vector.replicate 32 0
  p := Vector.replicate 8 0
  user := UserRegs.reset
  sup := SupRegs.reset
  unit := none
  lastLaunch := none
  zeroCtx := none
  ports := Vector.replicate 8 ⟨[], 0, 0⟩
  wait := none
  fwd := []
  lead := none
  entries := []
  events := []
  heldEvents := []
  notices := []
  noticeOverflow := false
  wdNotice := none
  staleTags := []
  faultWords := []
  copyTurn := 0
  kerfHead := []
  kerfBad := []
  kerfRB := 0
  kerfBB := 0
  kerfOp := none
  waves := []
  fifoA := ⟨[], []⟩
  fifoB := ⟨[], []⟩
  accum := []
  accumBad := []
  deficit := 0
  runTile := none
  tileLog := none
  exchange := []
  batch := []
  pendingRegs := []
  portResults := []
  portSince := 0
  portRefused := false
  batchArrived := false
  awaited := []
  preq := none
  forced := false
  saveFrom := 0
  wdBase := 0
  itlb := []
  dtlb := []
  l1d := []
  l1i := []

/-- A port at reset (R161): down; its generators at their seeds (R158). -/
def LinkPort.reset (num : Nat) : LinkPort where
  num := num
  state := .down
  phase := 0
  phaseSince := 0
  failures := 0
  tooLong := false
  sendSeq := 0
  expectSeq := 0
  nakSent := false
  replay := []
  buffers := []
  farOff := []
  nearOff := []
  flitsFrom := 0
  lastFlow := 0
  probesSent := 0
  lastProbe := 0
  echoes := []
  roundTrip := 0
  sendScr := [0x7FFFFFFF, 0x7FFFFFFE, 0x7FFFFFFD, 0x7FFFFFFC]
  scrAt := 0
  recvScr := []
  rxAt := 0
  lanes := []
  ready := false
  blocks := 0
  sent := []
  idles := 0
  line := []

/-- The state right after package reset: the boot at stage 1, no partition, memory with nothing listed. What the
spec gives no reset value is DESIGN CHOICE (log 2): the fuses (no disabled bay, debug off, rollback 0, vendor key 0),
an empty boot flash, package id 0, a power cap of 1,800 W. -/
def State.reset : State where
  me := Core.fresh 0
  others := []
  mem := []
  cycle := 0
  agenda := []
  engineTurn := false
  fresh := 0
  stamp := 0
  frozen := false
  boot := { stage := 1, halted := none, recovery := false, flash := none, running := none, rollback := 0,
            vendorKey := 0, hostStatus := 0, hostRetries := 0, toFlash := false, mailbox := [], selfTestOk := true, trainOk := true }
  power := { cap := 1800, watts := 0, celsius := [0, 0, 0, 0, 0], throttle := 0, frozeHot := false, toldHot := 0 }
  harvest := []
  debugEnable := false
  pkgId := 0
  routes := []
  cables := []
  eccBad := []
  parts := []
  contexts := []
  tags := []
  pageOwner := []
  frames := []
  banks := []
  ranges := []
  channels := []
  waiters := []
  l2tlb := []
  arbiter := []
  coll := { tree := [], contribs := [], waveIn := [], waveSent := [], plans := [], rounds := [], reserving := [],
            localPostings := [], coordTable := [], rootCount := 0,
            domainCount := 0, stream := [], started := [], arrived := [], ends := [], isDomain := true, isRoot := true, domainHub := 0,
            rootHub := 0, domain := 0, domains := [], domainHubs := [] }
  ports := (List.range 12).map LinkPort.reset
  outbox := []
  departed := []
  linkQueue := []
  pairs := []
  inFlits := []
  inbox := []

end Sys2Proof.Machine
end

