-- ==== Sys2Proof/Machine/Memory.lean ====
section
/-!
DEFINITION. Physical storage (R13, R65, R143): where each store's bytes lie in the one memory list, and reading and
writing it in its canonical form.
-/
namespace Sys2Proof.Machine

open Sys2Proof

/-- The location of a byte of stacked DRAM by its physical address (R65). -/
def stackedKey (pa : Nat) : Nat := pa
/-- The location of a byte of the LPDDR tier (R65). -/
def lpddrKey (pa : Nat) : Nat := 2 ^ 46 + pa
/-- The location of a byte of the host tier (R65). -/
def hostKey (pa : Nat) : Nat := 2 * 2 ^ 46 + pa
/-- The location of a byte of a core's local store (R57, R143). -/
def localKey (core off : Nat) : Nat := 3 * 2 ^ 46 + core * 2 ^ 18 + off
/-- The location of a byte of a die's shared memory (R60, R143). -/
def sharedKey (die off : Nat) : Nat := 4 * 2 ^ 46 + die * 2 ^ 27 + off

/-- A location of the host tier. -/
def isHostKey (k : Nat) : Bool := 2 * 2 ^ 46 ≤ k && k < 3 * 2 ^ 46

/-- What a byte that nothing has written reads as: zero, since stage 4 of the boot zeroes every buffer (R379, R42);
in the host tier what the host answers (R65; log 5). -/
def Memory.unlisted (k : Nat) : Byte := if isHostKey k then Config.hostByte k else 0

/-- The byte at a location. -/
def Memory.read (k : Nat) : List Host.Cell → Byte
  | [] => Memory.unlisted k
  | (a, b) :: t => if a = k then b else if k < a then Memory.unlisted k else Memory.read k t

/-- Write one byte, keeping the canonical form. -/
def Memory.write (k : Nat) (x : Byte) : List Host.Cell → List Host.Cell
  | [] => if x = Memory.unlisted k then [] else [(k, x)]
  | (a, b) :: t =>
    if k < a then (if x = Memory.unlisted k then (a, b) :: t else (k, x) :: (a, b) :: t)
    else if a = k then (if x = Memory.unlisted k then t else (k, x) :: t)
    else (a, b) :: Memory.write k x t

/-- The canonical form: rising addresses, no entry equal to what an unlisted address reads as. -/
def Memory.wf : List Host.Cell → Bool
  | [] => true
  | (a, b) :: t => decide (b ≠ Memory.unlisted a) && (match t with | [] => true | (a', _) :: _ => decide (a < a')) && Memory.wf t

/-- n bytes from a location upward. -/
def Memory.readBytes (m : List Host.Cell) (k : Nat) : Nat → List Byte
  | 0 => []
  | n + 1 => Memory.read k m :: Memory.readBytes m (k + 1) n

/-- Write bytes from a location upward. -/
def Memory.writeBytes (m : List Host.Cell) (k : Nat) : List Byte → List Host.Cell
  | [] => m
  | b :: bs => Memory.writeBytes (Memory.write k b m) (k + 1) bs

/-- Every listed byte from lo below hi becomes what an unlisted one reads as (R42). -/
def Memory.clear (m : List Host.Cell) (lo hi : Nat) : List Host.Cell := m.filter (fun c => c.1 < lo || hi ≤ c.1)

/-- The stacked tier's populated range: bits 45:39 zero, offset below 72 GiB in its die (R65). -/
def stackedPopulated (pa : Nat) : Bool := pa < 2 ^ 39 && pa % 2 ^ 37 < 72 * 2 ^ 30

/-- The LPDDR tier's populated range (R65). -/
def lpddrPopulated (pa : Nat) : Bool := pa < 2 ^ 40

/-- A little-endian number of n bytes at a location. -/
def State.peek (s : State) (k n : Nat) : Nat := leVal (Memory.readBytes s.mem k n)

/-- The signed value a waiter compares (R126). -/
def waiterMet (m : List Host.Cell) (w : Waiter) : Bool :=
  sintN (8 * w.size) w.target.toNat ≤ sintN (8 * w.size) (leVal (Memory.readBytes m w.key w.size))

/-- A write reaches its location: the bytes change, an ECC word covered whole loses its error (R241), and a waiter
whose word is now at its target is woken (R126). -/
def State.writeMem (s : State) (k : Nat) (bs : List Byte) : State :=
  let m := Memory.writeBytes s.mem k bs
  { s with
    mem := m
    eccBad := s.eccBad.filter (fun e => !(k ≤ e.1 && e.1 + e.2 ≤ k + bs.length))
    waiters := s.waiters.map (fun w => if overlaps w.key w.size k bs.length && waiterMet m w then { w with woken := true } else w) }

/-- A location range has an uncorrectable error (R241). -/
def State.eccError (s : State) (k n : Nat) : Bool := s.eccBad.any (fun e => overlaps e.1 e.2 k n)

/-- A range of locations is zeroed on change of owner, with its errors (R42). -/
def State.zeroRange (s : State) (lo hi : Nat) : State :=
  { s with mem := Memory.clear s.mem lo hi, eccBad := s.eccBad.filter (fun e => e.1 < lo || hi ≤ e.1) }

end Sys2Proof.Machine
end

