-- ==== Sys2Proof/Decode.lean ====
section
/-!
DEFINITION. The decoder of the 32-bit instruction words, total, refusing by name (R223 to R229), and after it the
encoder, both written from the same formats and codes.
-/
namespace Sys2Proof

/-- Why a word is no instruction: the first of the steps 1 to 3 of R229 that fails; each is cause 0. -/
inductive DecodeError where
  /-- step 1: the major opcode is not assigned -/
  | unassignedOp
  /-- step 2: the operation code is not assigned -/
  | unassignedCode
  /-- step 3: a reserved or must-be-zero field is not zero -/
  | reservedField
  deriving DecidableEq, Repr

/-- Bits lo+len-1 down to lo of a word (R3). -/
abbrev fld {n : Nat} (w : BitVec n) (lo len : Nat) : BitVec len := w.extractLsb' lo len

/-- Major 0x01 (R224): the operation is bits 10:0 (R225). -/
def decodeAlu (w : IWord) : Except DecodeError Instr :=
  match (fld w 0 11).toNat with
  | 0 => .ok (.add (fld w 21 5) (fld w 16 5) (fld w 11 5))
  | 1 => .ok (.sub (fld w 21 5) (fld w 16 5) (fld w 11 5))
  | 2 => .ok (.and (fld w 21 5) (fld w 16 5) (fld w 11 5))
  | 3 => .ok (.or (fld w 21 5) (fld w 16 5) (fld w 11 5))
  | 4 => .ok (.xor (fld w 21 5) (fld w 16 5) (fld w 11 5))
  | 5 => .ok (.andn (fld w 21 5) (fld w 16 5) (fld w 11 5))
  | 6 => .ok (.sll (fld w 21 5) (fld w 16 5) (fld w 11 5))
  | 7 => .ok (.srl (fld w 21 5) (fld w 16 5) (fld w 11 5))
  | 8 => .ok (.sra (fld w 21 5) (fld w 16 5) (fld w 11 5))
  | 9 => .ok (.ror (fld w 21 5) (fld w 16 5) (fld w 11 5))
  | 10 => .ok (.slt (fld w 21 5) (fld w 16 5) (fld w 11 5))
  | 11 => .ok (.sltu (fld w 21 5) (fld w 16 5) (fld w 11 5))
  | 12 => .ok (.min (fld w 21 5) (fld w 16 5) (fld w 11 5))
  | 13 => .ok (.max (fld w 21 5) (fld w 16 5) (fld w 11 5))
  | 14 => .ok (.minu (fld w 21 5) (fld w 16 5) (fld w 11 5))
  | 15 => .ok (.maxu (fld w 21 5) (fld w 16 5) (fld w 11 5))
  | 16 => .ok (.mul (fld w 21 5) (fld w 16 5) (fld w 11 5))
  | 17 => .ok (.mulh (fld w 21 5) (fld w 16 5) (fld w 11 5))
  | 18 => .ok (.mulhu (fld w 21 5) (fld w 16 5) (fld w 11 5))
  | 19 => .ok (.div (fld w 21 5) (fld w 16 5) (fld w 11 5))
  | 20 => .ok (.divu (fld w 21 5) (fld w 16 5) (fld w 11 5))
  | 21 => .ok (.rem (fld w 21 5) (fld w 16 5) (fld w 11 5))
  | 22 => .ok (.remu (fld w 21 5) (fld w 16 5) (fld w 11 5))
  | 23 => if fld w 11 5 = 0#5 then .ok (.clz (fld w 21 5) (fld w 16 5)) else .error .reservedField
  | 24 => if fld w 11 5 = 0#5 then .ok (.ctz (fld w 21 5) (fld w 16 5)) else .error .reservedField
  | 25 => if fld w 11 5 = 0#5 then .ok (.popc (fld w 21 5) (fld w 16 5)) else .error .reservedField
  | 26 => .ok (.sext (fld w 21 5) (fld w 16 5) (fld w 11 5))
  | 27 => .ok (.zext (fld w 21 5) (fld w 16 5) (fld w 11 5))
  | 28 => if fld w 11 5 = 0#5 then .ok (.bswap (fld w 21 5) (fld w 16 5)) else .error .reservedField
  | 29 => .ok (.sel (fld w 21 5) (fld w 16 5) (fld w 11 5))
  | _ => .error .unassignedCode

/-- Major 0x06 (R224): the operation is bits 15:14 (R225). -/
def decodeShiftImm (w : IWord) : Except DecodeError Instr :=
  match (fld w 14 2).toNat with
  | 0 => if fld w 6 8 = 0#8 then .ok (.slli (fld w 21 5) (fld w 16 5) (fld w 0 6)) else .error .reservedField
  | 1 => if fld w 6 8 = 0#8 then .ok (.srli (fld w 21 5) (fld w 16 5) (fld w 0 6)) else .error .reservedField
  | 2 => if fld w 6 8 = 0#8 then .ok (.srai (fld w 21 5) (fld w 16 5) (fld w 0 6)) else .error .reservedField
  | 3 => if fld w 6 8 = 0#8 then .ok (.rori (fld w 21 5) (fld w 16 5) (fld w 0 6)) else .error .reservedField
  | _ => .error .unassignedCode

/-- Major 0x0B (R224): the operation is bits 15:13 (R225). -/
def decodeLoad (w : IWord) : Except DecodeError Instr :=
  match (fld w 13 3).toNat with
  | 0 => .ok (.lb (fld w 21 5) (fld w 16 5) (fld w 0 13))
  | 1 => .ok (.lh (fld w 21 5) (fld w 16 5) (fld w 0 13))
  | 2 => .ok (.lw (fld w 21 5) (fld w 16 5) (fld w 0 13))
  | 3 => .ok (.ld (fld w 21 5) (fld w 16 5) (fld w 0 13))
  | 4 => .ok (.lbu (fld w 21 5) (fld w 16 5) (fld w 0 13))
  | 5 => .ok (.lhu (fld w 21 5) (fld w 16 5) (fld w 0 13))
  | 6 => .ok (.lwu (fld w 21 5) (fld w 16 5) (fld w 0 13))
  | _ => .error .unassignedCode

/-- Major 0x0C (R224): the operation is bits 15:13 (R225). -/
def decodeStore (w : IWord) : Except DecodeError Instr :=
  match (fld w 13 3).toNat with
  | 0 => .ok (.sb (fld w 21 5) (fld w 16 5) (fld w 0 13))
  | 1 => .ok (.sh (fld w 21 5) (fld w 16 5) (fld w 0 13))
  | 2 => .ok (.sw (fld w 21 5) (fld w 16 5) (fld w 0 13))
  | 3 => .ok (.sd (fld w 21 5) (fld w 16 5) (fld w 0 13))
  | _ => .error .unassignedCode

/-- Major 0x0D (R224): the operation is bits 10:7 (R225). -/
def decodeOrdm (w : IWord) : Except DecodeError Instr :=
  match (fld w 7 4).toNat with
  | 0 => if fld w 11 5 = 0#5 ∧ fld w 0 4 = 0#4 then .ok (.ldaW (fld w 21 5) (fld w 16 5) (fld w 4 3)) else .error .reservedField
  | 1 => if fld w 11 5 = 0#5 ∧ fld w 0 4 = 0#4 then .ok (.ldaD (fld w 21 5) (fld w 16 5) (fld w 4 3)) else .error .reservedField
  | 2 => if fld w 21 5 = 0#5 ∧ fld w 0 4 = 0#4 then .ok (.stlW (fld w 16 5) (fld w 11 5) (fld w 4 3)) else .error .reservedField
  | 3 => if fld w 21 5 = 0#5 ∧ fld w 0 4 = 0#4 then .ok (.stlD (fld w 16 5) (fld w 11 5) (fld w 4 3)) else .error .reservedField
  | 4 => if fld w 11 15 = 0#15 then .ok (.fence (fld w 4 3) (fld w 3 1) (fld w 2 1) (fld w 1 1) (fld w 0 1)) else .error .reservedField
  | _ => .error .unassignedCode

/-- Major 0x0E (R224): the operation is bits 10:6 (R225). -/
def decodeAmo (w : IWord) : Except DecodeError Instr :=
  match (fld w 6 5).toNat with
  | 0 => .ok (.amoAdd (fld w 21 5) (fld w 16 5) (fld w 11 5) (fld w 5 1) (fld w 3 2) (fld w 0 3))
  | 1 => .ok (.amoAnd (fld w 21 5) (fld w 16 5) (fld w 11 5) (fld w 5 1) (fld w 3 2) (fld w 0 3))
  | 2 => .ok (.amoOr (fld w 21 5) (fld w 16 5) (fld w 11 5) (fld w 5 1) (fld w 3 2) (fld w 0 3))
  | 3 => .ok (.amoXor (fld w 21 5) (fld w 16 5) (fld w 11 5) (fld w 5 1) (fld w 3 2) (fld w 0 3))
  | 4 => .ok (.amoMin (fld w 21 5) (fld w 16 5) (fld w 11 5) (fld w 5 1) (fld w 3 2) (fld w 0 3))
  | 5 => .ok (.amoMax (fld w 21 5) (fld w 16 5) (fld w 11 5) (fld w 5 1) (fld w 3 2) (fld w 0 3))
  | 6 => .ok (.amoMinu (fld w 21 5) (fld w 16 5) (fld w 11 5) (fld w 5 1) (fld w 3 2) (fld w 0 3))
  | 7 => .ok (.amoMaxu (fld w 21 5) (fld w 16 5) (fld w 11 5) (fld w 5 1) (fld w 3 2) (fld w 0 3))
  | 8 => .ok (.amoSwap (fld w 21 5) (fld w 16 5) (fld w 11 5) (fld w 5 1) (fld w 3 2) (fld w 0 3))
  | 9 => .ok (.amoCas (fld w 21 5) (fld w 16 5) (fld w 11 5) (fld w 5 1) (fld w 3 2) (fld w 0 3))
  | 10 => .ok (.amoIncb (fld w 21 5) (fld w 16 5) (fld w 11 5) (fld w 5 1) (fld w 3 2) (fld w 0 3))
  | 11 => .ok (.amoAddt (fld w 21 5) (fld w 16 5) (fld w 11 5) (fld w 5 1) (fld w 3 2) (fld w 0 3))
  | 12 => .ok (.amoFadd (fld w 21 5) (fld w 16 5) (fld w 11 5) (fld w 5 1) (fld w 3 2) (fld w 0 3))
  | 13 => .ok (.amoWaitw (fld w 21 5) (fld w 16 5) (fld w 11 5) (fld w 5 1) (fld w 3 2) (fld w 0 3))
  | _ => .error .unassignedCode

/-- Major 0x0F (R224): the operation is bits 15:13 (R225). -/
def decodeBranch (w : IWord) : Except DecodeError Instr :=
  match (fld w 13 3).toNat with
  | 0 => .ok (.beq (fld w 21 5) (fld w 16 5) (fld w 0 13))
  | 1 => .ok (.bne (fld w 21 5) (fld w 16 5) (fld w 0 13))
  | 2 => .ok (.blt (fld w 21 5) (fld w 16 5) (fld w 0 13))
  | 3 => .ok (.bge (fld w 21 5) (fld w 16 5) (fld w 0 13))
  | 4 => .ok (.bltu (fld w 21 5) (fld w 16 5) (fld w 0 13))
  | 5 => .ok (.bgeu (fld w 21 5) (fld w 16 5) (fld w 0 13))
  | _ => .error .unassignedCode

/-- Major 0x13 (R224): the operation is bits 3:0 (R225). -/
def decodeCsr (w : IWord) : Except DecodeError Instr :=
  match (fld w 0 4).toNat with
  | 0 => if fld w 16 5 = 0#5 then .ok (.csrr (fld w 21 5) (fld w 4 12)) else .error .reservedField
  | 1 => if fld w 21 5 = 0#5 then .ok (.csrw (fld w 16 5) (fld w 4 12)) else .error .reservedField
  | 2 => if fld w 21 5 = 0#5 then .ok (.csrs (fld w 16 5) (fld w 4 12)) else .error .reservedField
  | 3 => if fld w 21 5 = 0#5 then .ok (.csrc (fld w 16 5) (fld w 4 12)) else .error .reservedField
  | _ => .error .unassignedCode

/-- Major 0x14 (R224): the operation is bits 10:0 (R225). -/
def decodeSys (w : IWord) : Except DecodeError Instr :=
  match (fld w 0 11).toNat with
  | 0 => if fld w 11 15 = 0#15 then .ok (.ecall) else .error .reservedField
  | 1 => if fld w 11 15 = 0#15 then .ok (.ebreak) else .error .reservedField
  | 2 => if fld w 11 15 = 0#15 then .ok (.sret) else .error .reservedField
  | 3 => if fld w 11 15 = 0#15 then .ok (.uiret) else .error .reservedField
  | 4 => if fld w 11 15 = 0#15 then .ok (.yield) else .error .reservedField
  | 5 => if fld w 11 15 = 0#15 then .ok (.idle) else .error .reservedField
  | 6 => if fld w 11 15 = 0#15 then .ok (.mark) else .error .reservedField
  | 7 => if fld w 11 15 = 0#15 then .ok (.split) else .error .reservedField
  | 8 => if fld w 11 15 = 0#15 then .ok (.fuse) else .error .reservedField
  | 9 => if fld w 11 15 = 0#15 then .ok (.exit) else .error .reservedField
  | 10 => if fld w 11 15 = 0#15 then .ok (.ifence) else .error .reservedField
  | _ => .error .unassignedCode

/-- Major 0x15 (R224): the operation is bits 10:8 (R225). -/
def decodeBar (w : IWord) : Except DecodeError Instr :=
  match (fld w 8 3).toNat with
  | 0 => if fld w 11 15 = 0#15 ∧ fld w 5 3 = 0#3 then .ok (.arrive (fld w 0 5)) else .error .reservedField
  | 1 => if fld w 11 15 = 0#15 ∧ fld w 5 3 = 0#3 then .ok (.arriveG (fld w 0 5)) else .error .reservedField
  | 2 => if fld w 11 10 = 0#10 ∧ fld w 5 3 = 0#3 then .ok (.wait (fld w 21 5) (fld w 0 5)) else .error .reservedField
  | 3 => if fld w 11 10 = 0#10 ∧ fld w 5 3 = 0#3 then .ok (.btest (fld w 21 5) (fld w 0 5)) else .error .reservedField
  | 4 => if fld w 21 5 = 0#5 ∧ fld w 11 5 = 0#5 ∧ fld w 5 3 = 0#3 then .ok (.expect (fld w 16 5) (fld w 0 5)) else .error .reservedField
  | 5 => if fld w 11 15 = 0#15 ∧ fld w 5 3 = 0#3 then .ok (.bcancel (fld w 0 5)) else .error .reservedField
  | _ => .error .unassignedCode

/-- Major 0x16 (R224): the operation is bits 10:8 (R225). -/
def decodeSched (w : IWord) : Except DecodeError Instr :=
  match (fld w 8 3).toNat with
  | 0 => if fld w 11 5 = 0#5 ∧ fld w 0 8 = 0#8 then .ok (.rtake (fld w 21 5) (fld w 16 5)) else .error .reservedField
  | 1 => if fld w 11 10 = 0#10 then .ok (.vsrr (fld w 21 5) (fld w 4 4) (fld w 0 4)) else .error .reservedField
  | 2 => if fld w 21 5 = 0#5 ∧ fld w 11 5 = 0#5 ∧ fld w 0 4 = 0#4 then .ok (.vsrw (fld w 16 5) (fld w 4 4)) else .error .reservedField
  | _ => .error .unassignedCode

/-- Major 0x17 (R224): the operation is bits 10:8 (R225). -/
def decodeEnqMajor (w : IWord) : Except DecodeError Instr :=
  match (fld w 8 3).toNat with
  | 0 => if fld w 21 5 = 0#5 ∧ fld w 11 5 = 0#5 ∧ fld w 3 5 = 0#5 then .ok (.enq (fld w 16 5) (fld w 0 3)) else .error .reservedField
  | 1 => if fld w 21 5 = 0#5 ∧ fld w 11 5 = 0#5 ∧ fld w 3 5 = 0#5 then .ok (.enqm (fld w 16 5) (fld w 0 3)) else .error .reservedField
  | 2 => if fld w 3 5 = 0#5 then .ok (.qstat (fld w 21 5) (fld w 16 5) (fld w 11 5) (fld w 0 3)) else .error .reservedField
  | 3 => if fld w 11 5 = 0#5 ∧ fld w 3 5 = 0#5 then .ok (.qwait (fld w 21 5) (fld w 16 5) (fld w 0 3)) else .error .reservedField
  | _ => .error .unassignedCode

/-- Major 0x18 (R224): the operation is bits 10:8 (R225). -/
def decodeColl (w : IWord) : Except DecodeError Instr :=
  match (fld w 8 3).toNat with
  | 0 => if fld w 21 5 = 0#5 ∧ fld w 0 8 = 0#8 then .ok (.cput (fld w 16 5) (fld w 11 5)) else .error .reservedField
  | 1 => if fld w 16 5 = 0#5 ∧ fld w 0 8 = 0#8 then .ok (.cget (fld w 21 5) (fld w 11 5)) else .error .reservedField
  | 2 => if fld w 16 5 = 0#5 ∧ fld w 0 8 = 0#8 then .ok (.ctest (fld w 21 5) (fld w 11 5)) else .error .reservedField
  | _ => .error .unassignedCode

/-- Major 0x20 (R224): the operation is bits 10:8 (R225). -/
def decodeVfa (w : IWord) : Except DecodeError Instr :=
  match (fld w 8 3).toNat with
  | 0 => .ok (.vfadd (fld w 21 5) (fld w 16 5) (fld w 11 5) (fld w 6 2) (fld w 4 2) (fld w 3 1) (fld w 2 1) (fld w 0 2))
  | 1 => .ok (.vfsub (fld w 21 5) (fld w 16 5) (fld w 11 5) (fld w 6 2) (fld w 4 2) (fld w 3 1) (fld w 2 1) (fld w 0 2))
  | 2 => .ok (.vfmul (fld w 21 5) (fld w 16 5) (fld w 11 5) (fld w 6 2) (fld w 4 2) (fld w 3 1) (fld w 2 1) (fld w 0 2))
  | 3 => .ok (.vfdiv (fld w 21 5) (fld w 16 5) (fld w 11 5) (fld w 6 2) (fld w 4 2) (fld w 3 1) (fld w 2 1) (fld w 0 2))
  | 4 => if fld w 0 2 = 0#2 then .ok (.vfmin (fld w 21 5) (fld w 16 5) (fld w 11 5) (fld w 6 2) (fld w 4 2) (fld w 3 1) (fld w 2 1)) else .error .reservedField
  | 5 => if fld w 0 2 = 0#2 then .ok (.vfmax (fld w 21 5) (fld w 16 5) (fld w 11 5) (fld w 6 2) (fld w 4 2) (fld w 3 1) (fld w 2 1)) else .error .reservedField
  | 6 => if fld w 11 5 = 0#5 then .ok (.vfsqrt (fld w 21 5) (fld w 16 5) (fld w 6 2) (fld w 4 2) (fld w 3 1) (fld w 2 1) (fld w 0 2)) else .error .reservedField
  | 7 => if fld w 2 2 = 0#2 then .ok (.vfsgn (fld w 21 5) (fld w 16 5) (fld w 11 5) (fld w 6 2) (fld w 4 2) (fld w 0 2)) else .error .reservedField
  | _ => .error .unassignedCode

/-- Major 0x21 (R224): the operation is bits 10:8 (R225). -/
def decodeVfm (w : IWord) : Except DecodeError Instr :=
  match (fld w 8 3).toNat with
  | 0 => .ok (.vfma (fld w 21 5) (fld w 16 5) (fld w 11 5) (fld w 6 2) (fld w 4 2) (fld w 3 1) (fld w 2 1) (fld w 0 2))
  | 1 => .ok (.vfms (fld w 21 5) (fld w 16 5) (fld w 11 5) (fld w 6 2) (fld w 4 2) (fld w 3 1) (fld w 2 1) (fld w 0 2))
  | 2 => .ok (.vfnma (fld w 21 5) (fld w 16 5) (fld w 11 5) (fld w 6 2) (fld w 4 2) (fld w 3 1) (fld w 2 1) (fld w 0 2))
  | 3 => if fld w 5 1 = 1#1 then .ok (.vfdot2 (fld w 21 5) (fld w 16 5) (fld w 11 5) (fld w 6 2) (fld w 4 1) (fld w 3 1) (fld w 2 1) (fld w 0 2)) else .error .reservedField
  | 4 => if fld w 11 5 = 0#5 then .ok (.vfrcp (fld w 21 5) (fld w 16 5) (fld w 6 2) (fld w 4 2) (fld w 3 1) (fld w 2 1) (fld w 0 2)) else .error .reservedField
  | 5 => if fld w 11 5 = 0#5 then .ok (.vfrsq (fld w 21 5) (fld w 16 5) (fld w 6 2) (fld w 4 2) (fld w 3 1) (fld w 2 1) (fld w 0 2)) else .error .reservedField
  | 6 => if fld w 11 5 = 0#5 then .ok (.vfexp2 (fld w 21 5) (fld w 16 5) (fld w 6 2) (fld w 4 2) (fld w 3 1) (fld w 2 1) (fld w 0 2)) else .error .reservedField
  | 7 => if fld w 11 5 = 0#5 then .ok (.vflog2 (fld w 21 5) (fld w 16 5) (fld w 6 2) (fld w 4 2) (fld w 3 1) (fld w 2 1) (fld w 0 2)) else .error .reservedField
  | _ => .error .unassignedCode

/-- Major 0x22 (R224): the operation is bits 10:8 (R225). -/
def decodeVfc (w : IWord) : Except DecodeError Instr :=
  match (fld w 8 3).toNat with
  | 0 => if fld w 24 2 = 0#2 ∧ fld w 0 3 = 0#3 then .ok (.vfeq (fld w 21 3) (fld w 16 5) (fld w 11 5) (fld w 6 2) (fld w 4 2) (fld w 3 1)) else .error .reservedField
  | 1 => if fld w 24 2 = 0#2 ∧ fld w 0 3 = 0#3 then .ok (.vflt (fld w 21 3) (fld w 16 5) (fld w 11 5) (fld w 6 2) (fld w 4 2) (fld w 3 1)) else .error .reservedField
  | 2 => if fld w 24 2 = 0#2 ∧ fld w 0 3 = 0#3 then .ok (.vfle (fld w 21 3) (fld w 16 5) (fld w 11 5) (fld w 6 2) (fld w 4 2) (fld w 3 1)) else .error .reservedField
  | 3 => if fld w 24 2 = 0#2 ∧ fld w 0 3 = 0#3 then .ok (.vfun (fld w 21 3) (fld w 16 5) (fld w 11 5) (fld w 6 2) (fld w 4 2) (fld w 3 1)) else .error .reservedField
  | 4 => if fld w 24 2 = 0#2 ∧ fld w 0 3 = 0#3 then .ok (.vfne (fld w 21 3) (fld w 16 5) (fld w 11 5) (fld w 6 2) (fld w 4 2) (fld w 3 1)) else .error .reservedField
  | 5 => if fld w 11 5 = 0#5 ∧ fld w 0 4 = 0#4 then .ok (.vfclass (fld w 21 5) (fld w 16 5) (fld w 6 2) (fld w 4 2)) else .error .reservedField
  | _ => .error .unassignedCode

/-- Major 0x23 (R224): the operation is bits 10:6 (R225). -/
def decodeVcvt (w : IWord) : Except DecodeError Instr :=
  match (fld w 6 5).toNat with
  | 0 => if fld w 11 5 = 0#5 then .ok (.vcvtF32F64 (fld w 21 5) (fld w 16 5) (fld w 4 2) (fld w 3 1) (fld w 2 1) (fld w 0 2)) else .error .reservedField
  | 1 => if fld w 11 5 = 0#5 then .ok (.vcvtF64F32 (fld w 21 5) (fld w 16 5) (fld w 4 2) (fld w 3 1) (fld w 2 1) (fld w 0 2)) else .error .reservedField
  | 2 => if fld w 11 5 = 0#5 then .ok (.vcvtF16F32 (fld w 21 5) (fld w 16 5) (fld w 4 2) (fld w 3 1) (fld w 2 1) (fld w 0 2)) else .error .reservedField
  | 3 => if fld w 11 5 = 0#5 then .ok (.vcvtF32F16 (fld w 21 5) (fld w 16 5) (fld w 4 2) (fld w 3 1) (fld w 2 1) (fld w 0 2)) else .error .reservedField
  | 4 => if fld w 11 5 = 0#5 then .ok (.vcvtBf16F32 (fld w 21 5) (fld w 16 5) (fld w 4 2) (fld w 3 1) (fld w 2 1) (fld w 0 2)) else .error .reservedField
  | 5 => if fld w 11 5 = 0#5 then .ok (.vcvtF32Bf16 (fld w 21 5) (fld w 16 5) (fld w 4 2) (fld w 3 1) (fld w 2 1) (fld w 0 2)) else .error .reservedField
  | 6 => if fld w 11 5 = 0#5 then .ok (.vcvtE4m3F32 (fld w 21 5) (fld w 16 5) (fld w 4 2) (fld w 3 1) (fld w 2 1) (fld w 0 2)) else .error .reservedField
  | 7 => if fld w 11 5 = 0#5 then .ok (.vcvtE5m2F32 (fld w 21 5) (fld w 16 5) (fld w 4 2) (fld w 3 1) (fld w 2 1) (fld w 0 2)) else .error .reservedField
  | 8 => if fld w 11 5 = 0#5 then .ok (.vcvtF32E4m3 (fld w 21 5) (fld w 16 5) (fld w 4 2) (fld w 3 1) (fld w 2 1) (fld w 0 2)) else .error .reservedField
  | 9 => if fld w 11 5 = 0#5 then .ok (.vcvtF32E5m2 (fld w 21 5) (fld w 16 5) (fld w 4 2) (fld w 3 1) (fld w 2 1) (fld w 0 2)) else .error .reservedField
  | 10 => if fld w 4 2 = 0#2 then .ok (.vcvtE2m1F32 (fld w 21 5) (fld w 16 5) (fld w 11 5) (fld w 3 1) (fld w 2 1) (fld w 0 2)) else .error .reservedField
  | 11 => if fld w 4 2 = 0#2 then .ok (.vcvtF32E2m1 (fld w 21 5) (fld w 16 5) (fld w 11 5) (fld w 3 1) (fld w 2 1) (fld w 0 2)) else .error .reservedField
  | 12 => if fld w 11 5 = 0#5 then .ok (.vcvtI32F32 (fld w 21 5) (fld w 16 5) (fld w 4 2) (fld w 3 1) (fld w 2 1) (fld w 0 2)) else .error .reservedField
  | 13 => if fld w 11 5 = 0#5 then .ok (.vcvtF32I32 (fld w 21 5) (fld w 16 5) (fld w 4 2) (fld w 3 1) (fld w 2 1) (fld w 0 2)) else .error .reservedField
  | 14 => if fld w 11 5 = 0#5 then .ok (.vcvtI64F64 (fld w 21 5) (fld w 16 5) (fld w 4 2) (fld w 3 1) (fld w 2 1) (fld w 0 2)) else .error .reservedField
  | 15 => if fld w 11 5 = 0#5 then .ok (.vcvtF64I64 (fld w 21 5) (fld w 16 5) (fld w 4 2) (fld w 3 1) (fld w 2 1) (fld w 0 2)) else .error .reservedField
  | 16 => if fld w 11 5 = 0#5 ∧ fld w 0 4 = 0#4 then .ok (.vcvtI8I32 (fld w 21 5) (fld w 16 5) (fld w 4 2)) else .error .reservedField
  | 17 => if fld w 11 5 = 0#5 ∧ fld w 0 4 = 0#4 then .ok (.vcvtI16I32 (fld w 21 5) (fld w 16 5) (fld w 4 2)) else .error .reservedField
  | 18 => if fld w 4 2 = 0#2 then .ok (.vcvtE8F32 (fld w 21 5) (fld w 16 5) (fld w 11 5) (fld w 3 1) (fld w 2 1) (fld w 0 2)) else .error .reservedField
  | 19 => if fld w 4 2 = 0#2 then .ok (.vcvtE4m3F32Bs (fld w 21 5) (fld w 16 5) (fld w 11 5) (fld w 3 1) (fld w 2 1) (fld w 0 2)) else .error .reservedField
  | 20 => if fld w 4 2 = 0#2 then .ok (.vcvtF32E4m3Bs (fld w 21 5) (fld w 16 5) (fld w 11 5) (fld w 3 1) (fld w 2 1) (fld w 0 2)) else .error .reservedField
  | _ => .error .unassignedCode

/-- Major 0x24 (R224): the operation is bits 10:6 (R225). -/
def decodeVi (w : IWord) : Except DecodeError Instr :=
  match (fld w 6 5).toNat with
  | 0 => .ok (.vadd (fld w 21 5) (fld w 16 5) (fld w 11 5) (fld w 4 2) (fld w 2 2) (fld w 0 2))
  | 1 => .ok (.vsub (fld w 21 5) (fld w 16 5) (fld w 11 5) (fld w 4 2) (fld w 2 2) (fld w 0 2))
  | 2 => .ok (.vmul (fld w 21 5) (fld w 16 5) (fld w 11 5) (fld w 4 2) (fld w 2 2) (fld w 0 2))
  | 3 => .ok (.vmulh (fld w 21 5) (fld w 16 5) (fld w 11 5) (fld w 4 2) (fld w 2 2) (fld w 0 2))
  | 4 => .ok (.vmin (fld w 21 5) (fld w 16 5) (fld w 11 5) (fld w 4 2) (fld w 2 2) (fld w 0 2))
  | 5 => .ok (.vmax (fld w 21 5) (fld w 16 5) (fld w 11 5) (fld w 4 2) (fld w 2 2) (fld w 0 2))
  | 6 => .ok (.vminu (fld w 21 5) (fld w 16 5) (fld w 11 5) (fld w 4 2) (fld w 2 2) (fld w 0 2))
  | 7 => .ok (.vmaxu (fld w 21 5) (fld w 16 5) (fld w 11 5) (fld w 4 2) (fld w 2 2) (fld w 0 2))
  | 8 => .ok (.vand (fld w 21 5) (fld w 16 5) (fld w 11 5) (fld w 4 2) (fld w 2 2) (fld w 0 2))
  | 9 => .ok (.vor (fld w 21 5) (fld w 16 5) (fld w 11 5) (fld w 4 2) (fld w 2 2) (fld w 0 2))
  | 10 => .ok (.vxor (fld w 21 5) (fld w 16 5) (fld w 11 5) (fld w 4 2) (fld w 2 2) (fld w 0 2))
  | 11 => .ok (.vsll (fld w 21 5) (fld w 16 5) (fld w 11 5) (fld w 4 2) (fld w 2 2) (fld w 0 2))
  | 12 => .ok (.vsrl (fld w 21 5) (fld w 16 5) (fld w 11 5) (fld w 4 2) (fld w 2 2) (fld w 0 2))
  | 13 => .ok (.vsra (fld w 21 5) (fld w 16 5) (fld w 11 5) (fld w 4 2) (fld w 2 2) (fld w 0 2))
  | 14 => .ok (.vsadd (fld w 21 5) (fld w 16 5) (fld w 11 5) (fld w 4 2) (fld w 2 2) (fld w 0 2))
  | 15 => .ok (.vssub (fld w 21 5) (fld w 16 5) (fld w 11 5) (fld w 4 2) (fld w 2 2) (fld w 0 2))
  | 16 => .ok (.vabsd (fld w 21 5) (fld w 16 5) (fld w 11 5) (fld w 4 2) (fld w 2 2) (fld w 0 2))
  | 17 => if fld w 24 2 = 0#2 then .ok (.vcmpeq (fld w 21 3) (fld w 16 5) (fld w 11 5) (fld w 4 2) (fld w 2 2) (fld w 0 2)) else .error .reservedField
  | 18 => if fld w 24 2 = 0#2 then .ok (.vcmplt (fld w 21 3) (fld w 16 5) (fld w 11 5) (fld w 4 2) (fld w 2 2) (fld w 0 2)) else .error .reservedField
  | 19 => if fld w 24 2 = 0#2 then .ok (.vcmpltu (fld w 21 3) (fld w 16 5) (fld w 11 5) (fld w 4 2) (fld w 2 2) (fld w 0 2)) else .error .reservedField
  | _ => .error .unassignedCode

/-- Major 0x25 (R224): the operation is bits 10:6 (R225). -/
def decodeVp (w : IWord) : Except DecodeError Instr :=
  match (fld w 6 5).toNat with
  | 0 => if fld w 16 5 = 0#5 then .ok (.vbcast (fld w 21 5) (fld w 11 5) (fld w 4 2) (fld w 2 2) (fld w 0 2)) else .error .reservedField
  | 1 => if fld w 4 2 = 0#2 then .ok (.vext (fld w 21 5) (fld w 16 5) (fld w 11 5) (fld w 2 2) (fld w 0 2)) else .error .reservedField
  | 2 => .ok (.vins (fld w 21 5) (fld w 16 5) (fld w 11 5) (fld w 4 2) (fld w 2 2) (fld w 0 2))
  | 3 => if fld w 0 2 = 0#2 then .ok (.vperm (fld w 21 5) (fld w 16 5) (fld w 11 5) (fld w 4 2) (fld w 2 2)) else .error .reservedField
  | 4 => .ok (.vsldn (fld w 21 5) (fld w 16 5) (fld w 11 5) (fld w 4 2) (fld w 2 2) (fld w 0 2))
  | 5 => .ok (.vslup (fld w 21 5) (fld w 16 5) (fld w 11 5) (fld w 4 2) (fld w 2 2) (fld w 0 2))
  | 6 => if fld w 11 5 = 0#5 ∧ fld w 0 2 = 0#2 then .ok (.vredsum (fld w 21 5) (fld w 16 5) (fld w 4 2) (fld w 2 2)) else .error .reservedField
  | 7 => if fld w 11 5 = 0#5 then .ok (.vredfsum (fld w 21 5) (fld w 16 5) (fld w 4 2) (fld w 2 2) (fld w 0 2)) else .error .reservedField
  | 8 => if fld w 11 5 = 0#5 ∧ fld w 0 2 = 0#2 then .ok (.vredmax (fld w 21 5) (fld w 16 5) (fld w 4 2) (fld w 2 2)) else .error .reservedField
  | 9 => if fld w 11 5 = 0#5 ∧ fld w 0 2 = 0#2 then .ok (.vredmin (fld w 21 5) (fld w 16 5) (fld w 4 2) (fld w 2 2)) else .error .reservedField
  | 10 => if fld w 11 5 = 0#5 ∧ fld w 0 2 = 0#2 then .ok (.vscan (fld w 21 5) (fld w 16 5) (fld w 4 2) (fld w 2 2)) else .error .reservedField
  | 11 => if fld w 11 5 = 0#5 ∧ fld w 0 2 = 0#2 then .ok (.vcmpr (fld w 21 5) (fld w 16 5) (fld w 4 2) (fld w 2 2)) else .error .reservedField
  | 12 => .ok (.vsel (fld w 21 5) (fld w 16 5) (fld w 11 5) (fld w 4 2) (fld w 2 2) (fld w 0 2))
  | 13 => if fld w 11 10 = 0#10 ∧ fld w 0 2 = 0#2 then .ok (.viota (fld w 21 5) (fld w 4 2) (fld w 2 2)) else .error .reservedField
  | _ => .error .unassignedCode

/-- Major 0x26 (R224): the operation is bits 10:6 (R225). -/
def decodePrd (w : IWord) : Except DecodeError Instr :=
  match (fld w 6 5).toNat with
  | 0 => if fld w 24 2 = 0#2 ∧ fld w 19 2 = 0#2 ∧ fld w 14 2 = 0#2 ∧ fld w 0 2 = 0#2 then .ok (.pand (fld w 21 3) (fld w 16 3) (fld w 11 3) (fld w 4 2) (fld w 2 2)) else .error .reservedField
  | 1 => if fld w 24 2 = 0#2 ∧ fld w 19 2 = 0#2 ∧ fld w 14 2 = 0#2 ∧ fld w 0 2 = 0#2 then .ok (.por (fld w 21 3) (fld w 16 3) (fld w 11 3) (fld w 4 2) (fld w 2 2)) else .error .reservedField
  | 2 => if fld w 24 2 = 0#2 ∧ fld w 19 2 = 0#2 ∧ fld w 14 2 = 0#2 ∧ fld w 0 2 = 0#2 then .ok (.pxor (fld w 21 3) (fld w 16 3) (fld w 11 3) (fld w 4 2) (fld w 2 2)) else .error .reservedField
  | 3 => if fld w 24 2 = 0#2 ∧ fld w 19 2 = 0#2 ∧ fld w 11 5 = 0#5 ∧ fld w 0 2 = 0#2 then .ok (.pnot (fld w 21 3) (fld w 16 3) (fld w 4 2) (fld w 2 2)) else .error .reservedField
  | 4 => if fld w 19 2 = 0#2 ∧ fld w 11 5 = 0#5 ∧ fld w 0 2 = 0#2 then .ok (.pcnt (fld w 21 5) (fld w 16 3) (fld w 4 2) (fld w 2 2)) else .error .reservedField
  | 5 => if fld w 19 2 = 0#2 ∧ fld w 11 5 = 0#5 ∧ fld w 0 2 = 0#2 then .ok (.pfirst (fld w 21 5) (fld w 16 3) (fld w 4 2) (fld w 2 2)) else .error .reservedField
  | 6 => if fld w 24 2 = 0#2 ∧ fld w 16 5 = 0#5 ∧ fld w 4 2 = 0#2 then .ok (.pset (fld w 21 3) (fld w 11 5) (fld w 2 2) (fld w 0 2)) else .error .reservedField
  | 7 => if fld w 19 2 = 0#2 ∧ fld w 11 5 = 0#5 ∧ fld w 0 6 = 0#6 then .ok (.pget (fld w 21 5) (fld w 16 3)) else .error .reservedField
  | _ => .error .unassignedCode

/-- Major 0x27 (R224): the operation is bits 10:8 (R225). -/
def decodeVmem (w : IWord) : Except DecodeError Instr :=
  match (fld w 8 3).toNat with
  | 0 => if fld w 11 5 = 0#5 then .ok (.vld (fld w 21 5) (fld w 16 5) (fld w 6 2) (fld w 4 2) (fld w 0 4)) else .error .reservedField
  | 1 => if fld w 11 5 = 0#5 then .ok (.vst (fld w 21 5) (fld w 16 5) (fld w 6 2) (fld w 4 2) (fld w 0 4)) else .error .reservedField
  | 2 => if fld w 0 4 = 0#4 then .ok (.vlds (fld w 21 5) (fld w 16 5) (fld w 11 5) (fld w 6 2) (fld w 4 2)) else .error .reservedField
  | 3 => if fld w 0 4 = 0#4 then .ok (.vsts (fld w 21 5) (fld w 16 5) (fld w 11 5) (fld w 6 2) (fld w 4 2)) else .error .reservedField
  | 4 => if fld w 5 1 = 1#1 ∧ fld w 0 4 = 0#4 then .ok (.vgath (fld w 21 5) (fld w 16 5) (fld w 11 5) (fld w 6 2) (fld w 4 1)) else .error .reservedField
  | 5 => if fld w 5 1 = 1#1 ∧ fld w 0 4 = 0#4 then .ok (.vscat (fld w 21 5) (fld w 16 5) (fld w 11 5) (fld w 6 2) (fld w 4 1)) else .error .reservedField
  | 6 => if fld w 11 5 = 0#5 then .ok (.vldb (fld w 21 5) (fld w 16 5) (fld w 6 2) (fld w 4 2) (fld w 0 4)) else .error .reservedField
  | 7 =>
    if fld w 11 5 = 0#5 ∧ fld w 0 4 = 0#4 then .ok (.vstaAdd (fld w 21 5) (fld w 16 5) (fld w 6 2) (fld w 4 2))
    else if fld w 11 5 = 0#5 ∧ fld w 5 1 = 1#1 ∧ fld w 0 4 = 1#4 then .ok (.vstaFadd (fld w 21 5) (fld w 16 5) (fld w 6 2) (fld w 4 1))
    else if fld w 11 5 = 0#5 ∧ fld w 0 4 = 2#4 then .ok (.vstaMax (fld w 21 5) (fld w 16 5) (fld w 6 2) (fld w 4 2))
    else if fld w 11 5 = 0#5 ∧ fld w 0 4 = 3#4 then .ok (.vstaMin (fld w 21 5) (fld w 16 5) (fld w 6 2) (fld w 4 2))
    else .error .reservedField
  | _ => .error .unassignedCode

/-- Major 0x28 (R224): the operation is bits 10:6 (R225). -/
def decodeRev (w : IWord) : Except DecodeError Instr :=
  match (fld w 6 5).toNat with
  | 0 => if fld w 0 4 = 0#4 then .ok (.rmulf (fld w 21 5) (fld w 16 5) (fld w 11 5) (fld w 4 2)) else .error .reservedField
  | 1 => if fld w 0 4 = 0#4 then .ok (.umulf (fld w 21 5) (fld w 16 5) (fld w 11 5) (fld w 4 2)) else .error .reservedField
  | 2 => .ok (.rmulq (fld w 21 5) (fld w 16 5) (fld w 11 5) (fld w 4 2) (fld w 0 4))
  | 3 => .ok (.umulq (fld w 21 5) (fld w 16 5) (fld w 11 5) (fld w 4 2) (fld w 0 4))
  | 4 => if fld w 11 5 = 0#5 then .ok (.rshra (fld w 21 5) (fld w 16 5) (fld w 4 2) (fld w 0 4)) else .error .reservedField
  | 5 => if fld w 11 5 = 0#5 then .ok (.ushra (fld w 21 5) (fld w 16 5) (fld w 4 2) (fld w 0 4)) else .error .reservedField
  | 6 => if fld w 11 5 = 0#5 ∧ fld w 0 4 = 0#4 then .ok (.rnrw (fld w 21 5) (fld w 16 5) (fld w 4 2)) else .error .reservedField
  | 7 => if fld w 11 5 = 0#5 ∧ fld w 0 4 = 0#4 then .ok (.unrw (fld w 21 5) (fld w 16 5) (fld w 4 2)) else .error .reservedField
  | 8 => if fld w 11 5 = 0#5 ∧ fld w 0 4 = 0#4 then .ok (.rselz (fld w 21 5) (fld w 16 5) (fld w 4 2)) else .error .reservedField
  | 9 => if fld w 11 5 = 0#5 ∧ fld w 0 4 = 0#4 then .ok (.uselz (fld w 21 5) (fld w 16 5) (fld w 4 2)) else .error .reservedField
  | 10 => if fld w 0 4 = 0#4 then .ok (.raddf (fld w 21 5) (fld w 16 5) (fld w 11 5) (fld w 4 2)) else .error .reservedField
  | 11 => if fld w 0 4 = 0#4 then .ok (.uaddf (fld w 21 5) (fld w 16 5) (fld w 11 5) (fld w 4 2)) else .error .reservedField
  | 12 => if fld w 21 5 = 0#5 ∧ fld w 11 5 = 0#5 ∧ fld w 0 6 = 0#6 then .ok (.kmark (fld w 16 5)) else .error .reservedField
  | 13 => if fld w 21 5 = 0#5 ∧ fld w 11 5 = 0#5 ∧ fld w 0 6 = 0#6 then .ok (.kdrop (fld w 16 5)) else .error .reservedField
  | 14 => if fld w 11 10 = 0#10 ∧ fld w 0 6 = 0#6 then .ok (.kchk (fld w 21 5)) else .error .reservedField
  | _ => .error .unassignedCode

/-- The instruction a 32-bit word stands for, in the order of the steps 1 to 3 of R229; total. The checks of its
steps 4 to 6 (coded fields, privilege, operand checks) are WellFormed and the meanings. -/
def decode (w : IWord) : Except DecodeError Instr :=
  match (fld w 26 6).toNat with
  | 1 => decodeAlu w
  | 2 => .ok (.addi (fld w 21 5) (fld w 16 5) (fld w 0 16))
  | 3 => .ok (.andi (fld w 21 5) (fld w 16 5) (fld w 0 16))
  | 4 => .ok (.ori (fld w 21 5) (fld w 16 5) (fld w 0 16))
  | 5 => .ok (.xori (fld w 21 5) (fld w 16 5) (fld w 0 16))
  | 6 => decodeShiftImm w
  | 7 => .ok (.slti (fld w 21 5) (fld w 16 5) (fld w 0 16))
  | 8 => .ok (.sltui (fld w 21 5) (fld w 16 5) (fld w 0 16))
  | 9 => if fld w 16 5 = 0#5 then .ok (.lui (fld w 21 5) (fld w 0 16)) else .error .reservedField
  | 10 => if fld w 18 3 = 0#3 then .ok (.insh (fld w 21 5) (fld w 16 2) (fld w 0 16)) else .error .reservedField
  | 11 => decodeLoad w
  | 12 => decodeStore w
  | 13 => decodeOrdm w
  | 14 => decodeAmo w
  | 15 => decodeBranch w
  | 16 => .ok (.j (fld w 0 26))
  | 17 => .ok (.jal (fld w 0 26))
  | 18 => .ok (.jalr (fld w 21 5) (fld w 16 5) (fld w 0 16))
  | 19 => decodeCsr w
  | 20 => decodeSys w
  | 21 => decodeBar w
  | 22 => decodeSched w
  | 23 => decodeEnqMajor w
  | 24 => decodeColl w
  | 32 => decodeVfa w
  | 33 => decodeVfm w
  | 34 => decodeVfc w
  | 35 => decodeVcvt w
  | 36 => decodeVi w
  | 37 => decodeVp w
  | 38 => decodePrd w
  | 39 => decodeVmem w
  | 40 => decodeRev w
  | _ => .error .unassignedOp

/-- The four bytes of an instruction word as memory holds them, lowest address first (R3, R223). -/
def decodeBytes (b0 b1 b2 b3 : Byte) : Except DecodeError Instr := decode (b3 ++ b2 ++ b1 ++ b0)

/-- The instruction read from a table row's bits: every instruction word is 32 bits (R223). -/
def decodeTableWord (nbits w : Nat) : Option Instr :=
  if 0 < nbits ∧ nbits ≤ 32 then
    match decodeBytes (BitVec.ofNat 8 w) (BitVec.ofNat 8 (w >>> 8)) (BitVec.ofNat 8 (w >>> 16)) (BitVec.ofNat 8 (w >>> 24)) with
    | .ok i => some i
    | .error _ => none
  else none

/-- The word of an instruction (R223 to R226), and none for the steps that have no encoding. -/
def encode (i : Instr) : Option IWord :=
  match i with
  | .add rd ra rb => some (1#6 ++ rd ++ ra ++ rb ++ 0#11)
  | .sub rd ra rb => some (1#6 ++ rd ++ ra ++ rb ++ 1#11)
  | .and rd ra rb => some (1#6 ++ rd ++ ra ++ rb ++ 2#11)
  | .or rd ra rb => some (1#6 ++ rd ++ ra ++ rb ++ 3#11)
  | .xor rd ra rb => some (1#6 ++ rd ++ ra ++ rb ++ 4#11)
  | .andn rd ra rb => some (1#6 ++ rd ++ ra ++ rb ++ 5#11)
  | .sll rd ra rb => some (1#6 ++ rd ++ ra ++ rb ++ 6#11)
  | .srl rd ra rb => some (1#6 ++ rd ++ ra ++ rb ++ 7#11)
  | .sra rd ra rb => some (1#6 ++ rd ++ ra ++ rb ++ 8#11)
  | .ror rd ra rb => some (1#6 ++ rd ++ ra ++ rb ++ 9#11)
  | .slt rd ra rb => some (1#6 ++ rd ++ ra ++ rb ++ 10#11)
  | .sltu rd ra rb => some (1#6 ++ rd ++ ra ++ rb ++ 11#11)
  | .min rd ra rb => some (1#6 ++ rd ++ ra ++ rb ++ 12#11)
  | .max rd ra rb => some (1#6 ++ rd ++ ra ++ rb ++ 13#11)
  | .minu rd ra rb => some (1#6 ++ rd ++ ra ++ rb ++ 14#11)
  | .maxu rd ra rb => some (1#6 ++ rd ++ ra ++ rb ++ 15#11)
  | .mul rd ra rb => some (1#6 ++ rd ++ ra ++ rb ++ 16#11)
  | .mulh rd ra rb => some (1#6 ++ rd ++ ra ++ rb ++ 17#11)
  | .mulhu rd ra rb => some (1#6 ++ rd ++ ra ++ rb ++ 18#11)
  | .div rd ra rb => some (1#6 ++ rd ++ ra ++ rb ++ 19#11)
  | .divu rd ra rb => some (1#6 ++ rd ++ ra ++ rb ++ 20#11)
  | .rem rd ra rb => some (1#6 ++ rd ++ ra ++ rb ++ 21#11)
  | .remu rd ra rb => some (1#6 ++ rd ++ ra ++ rb ++ 22#11)
  | .clz rd ra => some (1#6 ++ rd ++ ra ++ 0#5 ++ 23#11)
  | .ctz rd ra => some (1#6 ++ rd ++ ra ++ 0#5 ++ 24#11)
  | .popc rd ra => some (1#6 ++ rd ++ ra ++ 0#5 ++ 25#11)
  | .sext rd ra size => some (1#6 ++ rd ++ ra ++ size ++ 26#11)
  | .zext rd ra size => some (1#6 ++ rd ++ ra ++ size ++ 27#11)
  | .bswap rd ra => some (1#6 ++ rd ++ ra ++ 0#5 ++ 28#11)
  | .sel rd ra rb => some (1#6 ++ rd ++ ra ++ rb ++ 29#11)
  | .addi rd ra imm => some (2#6 ++ rd ++ ra ++ imm)
  | .andi rd ra imm => some (3#6 ++ rd ++ ra ++ imm)
  | .ori rd ra imm => some (4#6 ++ rd ++ ra ++ imm)
  | .xori rd ra imm => some (5#6 ++ rd ++ ra ++ imm)
  | .slli rd ra amt => some (6#6 ++ rd ++ ra ++ 0#2 ++ 0#8 ++ amt)
  | .srli rd ra amt => some (6#6 ++ rd ++ ra ++ 1#2 ++ 0#8 ++ amt)
  | .srai rd ra amt => some (6#6 ++ rd ++ ra ++ 2#2 ++ 0#8 ++ amt)
  | .rori rd ra amt => some (6#6 ++ rd ++ ra ++ 3#2 ++ 0#8 ++ amt)
  | .slti rd ra imm => some (7#6 ++ rd ++ ra ++ imm)
  | .sltui rd ra imm => some (8#6 ++ rd ++ ra ++ imm)
  | .lui rd imm => some (9#6 ++ rd ++ 0#5 ++ imm)
  | .insh rd hw imm => some (10#6 ++ rd ++ 0#3 ++ hw ++ imm)
  | .lb rd ra off => some (11#6 ++ rd ++ ra ++ 0#3 ++ off)
  | .lh rd ra off => some (11#6 ++ rd ++ ra ++ 1#3 ++ off)
  | .lw rd ra off => some (11#6 ++ rd ++ ra ++ 2#3 ++ off)
  | .ld rd ra off => some (11#6 ++ rd ++ ra ++ 3#3 ++ off)
  | .lbu rd ra off => some (11#6 ++ rd ++ ra ++ 4#3 ++ off)
  | .lhu rd ra off => some (11#6 ++ rd ++ ra ++ 5#3 ++ off)
  | .lwu rd ra off => some (11#6 ++ rd ++ ra ++ 6#3 ++ off)
  | .sb rs ra off => some (12#6 ++ rs ++ ra ++ 0#3 ++ off)
  | .sh rs ra off => some (12#6 ++ rs ++ ra ++ 1#3 ++ off)
  | .sw rs ra off => some (12#6 ++ rs ++ ra ++ 2#3 ++ off)
  | .sd rs ra off => some (12#6 ++ rs ++ ra ++ 3#3 ++ off)
  | .ldaW rd ra scope => some (13#6 ++ rd ++ ra ++ 0#5 ++ 0#4 ++ scope ++ 0#4)
  | .ldaD rd ra scope => some (13#6 ++ rd ++ ra ++ 0#5 ++ 1#4 ++ scope ++ 0#4)
  | .stlW ra rb scope => some (13#6 ++ 0#5 ++ ra ++ rb ++ 2#4 ++ scope ++ 0#4)
  | .stlD ra rb scope => some (13#6 ++ 0#5 ++ ra ++ rb ++ 3#4 ++ scope ++ 0#4)
  | .fence scope rbit wbit rabit wabit => some (13#6 ++ 0#15 ++ 4#4 ++ scope ++ rbit ++ wbit ++ rabit ++ wabit)
  | .amoAdd rd ra rb size order scope => some (14#6 ++ rd ++ ra ++ rb ++ 0#5 ++ size ++ order ++ scope)
  | .amoAnd rd ra rb size order scope => some (14#6 ++ rd ++ ra ++ rb ++ 1#5 ++ size ++ order ++ scope)
  | .amoOr rd ra rb size order scope => some (14#6 ++ rd ++ ra ++ rb ++ 2#5 ++ size ++ order ++ scope)
  | .amoXor rd ra rb size order scope => some (14#6 ++ rd ++ ra ++ rb ++ 3#5 ++ size ++ order ++ scope)
  | .amoMin rd ra rb size order scope => some (14#6 ++ rd ++ ra ++ rb ++ 4#5 ++ size ++ order ++ scope)
  | .amoMax rd ra rb size order scope => some (14#6 ++ rd ++ ra ++ rb ++ 5#5 ++ size ++ order ++ scope)
  | .amoMinu rd ra rb size order scope => some (14#6 ++ rd ++ ra ++ rb ++ 6#5 ++ size ++ order ++ scope)
  | .amoMaxu rd ra rb size order scope => some (14#6 ++ rd ++ ra ++ rb ++ 7#5 ++ size ++ order ++ scope)
  | .amoSwap rd ra rb size order scope => some (14#6 ++ rd ++ ra ++ rb ++ 8#5 ++ size ++ order ++ scope)
  | .amoCas rd ra rb size order scope => some (14#6 ++ rd ++ ra ++ rb ++ 9#5 ++ size ++ order ++ scope)
  | .amoIncb rd ra rb size order scope => some (14#6 ++ rd ++ ra ++ rb ++ 10#5 ++ size ++ order ++ scope)
  | .amoAddt rd ra rb size order scope => some (14#6 ++ rd ++ ra ++ rb ++ 11#5 ++ size ++ order ++ scope)
  | .amoFadd rd ra rb size order scope => some (14#6 ++ rd ++ ra ++ rb ++ 12#5 ++ size ++ order ++ scope)
  | .amoWaitw rd ra rb size order scope => some (14#6 ++ rd ++ ra ++ rb ++ 13#5 ++ size ++ order ++ scope)
  | .beq ra rb off => some (15#6 ++ ra ++ rb ++ 0#3 ++ off)
  | .bne ra rb off => some (15#6 ++ ra ++ rb ++ 1#3 ++ off)
  | .blt ra rb off => some (15#6 ++ ra ++ rb ++ 2#3 ++ off)
  | .bge ra rb off => some (15#6 ++ ra ++ rb ++ 3#3 ++ off)
  | .bltu ra rb off => some (15#6 ++ ra ++ rb ++ 4#3 ++ off)
  | .bgeu ra rb off => some (15#6 ++ ra ++ rb ++ 5#3 ++ off)
  | .j off => some (16#6 ++ off)
  | .jal off => some (17#6 ++ off)
  | .jalr rd ra imm => some (18#6 ++ rd ++ ra ++ imm)
  | .csrr rd csr => some (19#6 ++ rd ++ 0#5 ++ csr ++ 0#4)
  | .csrw ra csr => some (19#6 ++ 0#5 ++ ra ++ csr ++ 1#4)
  | .csrs ra csr => some (19#6 ++ 0#5 ++ ra ++ csr ++ 2#4)
  | .csrc ra csr => some (19#6 ++ 0#5 ++ ra ++ csr ++ 3#4)
  | .ecall => some (20#6 ++ 0#15 ++ 0#11)
  | .ebreak => some (20#6 ++ 0#15 ++ 1#11)
  | .sret => some (20#6 ++ 0#15 ++ 2#11)
  | .uiret => some (20#6 ++ 0#15 ++ 3#11)
  | .yield => some (20#6 ++ 0#15 ++ 4#11)
  | .idle => some (20#6 ++ 0#15 ++ 5#11)
  | .mark => some (20#6 ++ 0#15 ++ 6#11)
  | .split => some (20#6 ++ 0#15 ++ 7#11)
  | .fuse => some (20#6 ++ 0#15 ++ 8#11)
  | .exit => some (20#6 ++ 0#15 ++ 9#11)
  | .ifence => some (20#6 ++ 0#15 ++ 10#11)
  | .arrive ch => some (21#6 ++ 0#15 ++ 0#3 ++ 0#3 ++ ch)
  | .arriveG ch => some (21#6 ++ 0#15 ++ 1#3 ++ 0#3 ++ ch)
  | .wait rd ch => some (21#6 ++ rd ++ 0#10 ++ 2#3 ++ 0#3 ++ ch)
  | .btest rd ch => some (21#6 ++ rd ++ 0#10 ++ 3#3 ++ 0#3 ++ ch)
  | .expect ra ch => some (21#6 ++ 0#5 ++ ra ++ 0#5 ++ 4#3 ++ 0#3 ++ ch)
  | .bcancel ch => some (21#6 ++ 0#15 ++ 5#3 ++ 0#3 ++ ch)
  | .rtake rd ra => some (22#6 ++ rd ++ ra ++ 0#5 ++ 0#3 ++ 0#8)
  | .vsrr rd reg ver => some (22#6 ++ rd ++ 0#10 ++ 1#3 ++ reg ++ ver)
  | .vsrw ra reg => some (22#6 ++ 0#5 ++ ra ++ 0#5 ++ 2#3 ++ reg ++ 0#4)
  | .enq ra q => some (23#6 ++ 0#5 ++ ra ++ 0#5 ++ 0#3 ++ 0#5 ++ q)
  | .enqm ra q => some (23#6 ++ 0#5 ++ ra ++ 0#5 ++ 1#3 ++ 0#5 ++ q)
  | .qstat rd ra rb q => some (23#6 ++ rd ++ ra ++ rb ++ 2#3 ++ 0#5 ++ q)
  | .qwait rd ra q => some (23#6 ++ rd ++ ra ++ 0#5 ++ 3#3 ++ 0#5 ++ q)
  | .cput ra rb => some (24#6 ++ 0#5 ++ ra ++ rb ++ 0#3 ++ 0#8)
  | .cget rd rb => some (24#6 ++ rd ++ 0#5 ++ rb ++ 1#3 ++ 0#8)
  | .ctest rd rb => some (24#6 ++ rd ++ 0#5 ++ rb ++ 2#3 ++ 0#8)
  | .vfadd vd va vb pg ty fzi fzo rm => some (32#6 ++ vd ++ va ++ vb ++ 0#3 ++ pg ++ ty ++ fzi ++ fzo ++ rm)
  | .vfsub vd va vb pg ty fzi fzo rm => some (32#6 ++ vd ++ va ++ vb ++ 1#3 ++ pg ++ ty ++ fzi ++ fzo ++ rm)
  | .vfmul vd va vb pg ty fzi fzo rm => some (32#6 ++ vd ++ va ++ vb ++ 2#3 ++ pg ++ ty ++ fzi ++ fzo ++ rm)
  | .vfdiv vd va vb pg ty fzi fzo rm => some (32#6 ++ vd ++ va ++ vb ++ 3#3 ++ pg ++ ty ++ fzi ++ fzo ++ rm)
  | .vfmin vd va vb pg ty fzi fzo => some (32#6 ++ vd ++ va ++ vb ++ 4#3 ++ pg ++ ty ++ fzi ++ fzo ++ 0#2)
  | .vfmax vd va vb pg ty fzi fzo => some (32#6 ++ vd ++ va ++ vb ++ 5#3 ++ pg ++ ty ++ fzi ++ fzo ++ 0#2)
  | .vfsqrt vd va pg ty fzi fzo rm => some (32#6 ++ vd ++ va ++ 0#5 ++ 6#3 ++ pg ++ ty ++ fzi ++ fzo ++ rm)
  | .vfsgn vd va vb pg ty rm => some (32#6 ++ vd ++ va ++ vb ++ 7#3 ++ pg ++ ty ++ 0#2 ++ rm)
  | .vfma vd va vb pg ty fzi fzo rm => some (33#6 ++ vd ++ va ++ vb ++ 0#3 ++ pg ++ ty ++ fzi ++ fzo ++ rm)
  | .vfms vd va vb pg ty fzi fzo rm => some (33#6 ++ vd ++ va ++ vb ++ 1#3 ++ pg ++ ty ++ fzi ++ fzo ++ rm)
  | .vfnma vd va vb pg ty fzi fzo rm => some (33#6 ++ vd ++ va ++ vb ++ 2#3 ++ pg ++ ty ++ fzi ++ fzo ++ rm)
  | .vfdot2 vd va vb pg ty fzi fzo rm => some (33#6 ++ vd ++ va ++ vb ++ 3#3 ++ pg ++ 1#1 ++ ty ++ fzi ++ fzo ++ rm)
  | .vfrcp vd va pg ty fzi fzo rm => some (33#6 ++ vd ++ va ++ 0#5 ++ 4#3 ++ pg ++ ty ++ fzi ++ fzo ++ rm)
  | .vfrsq vd va pg ty fzi fzo rm => some (33#6 ++ vd ++ va ++ 0#5 ++ 5#3 ++ pg ++ ty ++ fzi ++ fzo ++ rm)
  | .vfexp2 vd va pg ty fzi fzo rm => some (33#6 ++ vd ++ va ++ 0#5 ++ 6#3 ++ pg ++ ty ++ fzi ++ fzo ++ rm)
  | .vflog2 vd va pg ty fzi fzo rm => some (33#6 ++ vd ++ va ++ 0#5 ++ 7#3 ++ pg ++ ty ++ fzi ++ fzo ++ rm)
  | .vfeq pd va vb pg ty fzi => some (34#6 ++ 0#2 ++ pd ++ va ++ vb ++ 0#3 ++ pg ++ ty ++ fzi ++ 0#3)
  | .vflt pd va vb pg ty fzi => some (34#6 ++ 0#2 ++ pd ++ va ++ vb ++ 1#3 ++ pg ++ ty ++ fzi ++ 0#3)
  | .vfle pd va vb pg ty fzi => some (34#6 ++ 0#2 ++ pd ++ va ++ vb ++ 2#3 ++ pg ++ ty ++ fzi ++ 0#3)
  | .vfun pd va vb pg ty fzi => some (34#6 ++ 0#2 ++ pd ++ va ++ vb ++ 3#3 ++ pg ++ ty ++ fzi ++ 0#3)
  | .vfne pd va vb pg ty fzi => some (34#6 ++ 0#2 ++ pd ++ va ++ vb ++ 4#3 ++ pg ++ ty ++ fzi ++ 0#3)
  | .vfclass vd va pg ty => some (34#6 ++ vd ++ va ++ 0#5 ++ 5#3 ++ pg ++ ty ++ 0#4)
  | .vcvtF32F64 vd va pg fzi fzo rm => some (35#6 ++ vd ++ va ++ 0#5 ++ 0#5 ++ pg ++ fzi ++ fzo ++ rm)
  | .vcvtF64F32 vd va pg fzi fzo rm => some (35#6 ++ vd ++ va ++ 0#5 ++ 1#5 ++ pg ++ fzi ++ fzo ++ rm)
  | .vcvtF16F32 vd va pg fzi fzo rm => some (35#6 ++ vd ++ va ++ 0#5 ++ 2#5 ++ pg ++ fzi ++ fzo ++ rm)
  | .vcvtF32F16 vd va pg fzi fzo rm => some (35#6 ++ vd ++ va ++ 0#5 ++ 3#5 ++ pg ++ fzi ++ fzo ++ rm)
  | .vcvtBf16F32 vd va pg fzi fzo rm => some (35#6 ++ vd ++ va ++ 0#5 ++ 4#5 ++ pg ++ fzi ++ fzo ++ rm)
  | .vcvtF32Bf16 vd va pg fzi fzo rm => some (35#6 ++ vd ++ va ++ 0#5 ++ 5#5 ++ pg ++ fzi ++ fzo ++ rm)
  | .vcvtE4m3F32 vd va pg fzi fzo rm => some (35#6 ++ vd ++ va ++ 0#5 ++ 6#5 ++ pg ++ fzi ++ fzo ++ rm)
  | .vcvtE5m2F32 vd va pg fzi fzo rm => some (35#6 ++ vd ++ va ++ 0#5 ++ 7#5 ++ pg ++ fzi ++ fzo ++ rm)
  | .vcvtF32E4m3 vd va pg fzi fzo rm => some (35#6 ++ vd ++ va ++ 0#5 ++ 8#5 ++ pg ++ fzi ++ fzo ++ rm)
  | .vcvtF32E5m2 vd va pg fzi fzo rm => some (35#6 ++ vd ++ va ++ 0#5 ++ 9#5 ++ pg ++ fzi ++ fzo ++ rm)
  | .vcvtE2m1F32 vd va vb fzi fzo rm => some (35#6 ++ vd ++ va ++ vb ++ 10#5 ++ 0#2 ++ fzi ++ fzo ++ rm)
  | .vcvtF32E2m1 vd va vb fzi fzo rm => some (35#6 ++ vd ++ va ++ vb ++ 11#5 ++ 0#2 ++ fzi ++ fzo ++ rm)
  | .vcvtI32F32 vd va pg fzi fzo rm => some (35#6 ++ vd ++ va ++ 0#5 ++ 12#5 ++ pg ++ fzi ++ fzo ++ rm)
  | .vcvtF32I32 vd va pg fzi fzo rm => some (35#6 ++ vd ++ va ++ 0#5 ++ 13#5 ++ pg ++ fzi ++ fzo ++ rm)
  | .vcvtI64F64 vd va pg fzi fzo rm => some (35#6 ++ vd ++ va ++ 0#5 ++ 14#5 ++ pg ++ fzi ++ fzo ++ rm)
  | .vcvtF64I64 vd va pg fzi fzo rm => some (35#6 ++ vd ++ va ++ 0#5 ++ 15#5 ++ pg ++ fzi ++ fzo ++ rm)
  | .vcvtI8I32 vd va pg => some (35#6 ++ vd ++ va ++ 0#5 ++ 16#5 ++ pg ++ 0#4)
  | .vcvtI16I32 vd va pg => some (35#6 ++ vd ++ va ++ 0#5 ++ 17#5 ++ pg ++ 0#4)
  | .vcvtE8F32 vd va vb fzi fzo rm => some (35#6 ++ vd ++ va ++ vb ++ 18#5 ++ 0#2 ++ fzi ++ fzo ++ rm)
  | .vcvtE4m3F32Bs vd va vb fzi fzo rm => some (35#6 ++ vd ++ va ++ vb ++ 19#5 ++ 0#2 ++ fzi ++ fzo ++ rm)
  | .vcvtF32E4m3Bs vd va vb fzi fzo rm => some (35#6 ++ vd ++ va ++ vb ++ 20#5 ++ 0#2 ++ fzi ++ fzo ++ rm)
  | .vadd vd va vb pg ty aux => some (36#6 ++ vd ++ va ++ vb ++ 0#5 ++ pg ++ ty ++ aux)
  | .vsub vd va vb pg ty aux => some (36#6 ++ vd ++ va ++ vb ++ 1#5 ++ pg ++ ty ++ aux)
  | .vmul vd va vb pg ty aux => some (36#6 ++ vd ++ va ++ vb ++ 2#5 ++ pg ++ ty ++ aux)
  | .vmulh vd va vb pg ty aux => some (36#6 ++ vd ++ va ++ vb ++ 3#5 ++ pg ++ ty ++ aux)
  | .vmin vd va vb pg ty aux => some (36#6 ++ vd ++ va ++ vb ++ 4#5 ++ pg ++ ty ++ aux)
  | .vmax vd va vb pg ty aux => some (36#6 ++ vd ++ va ++ vb ++ 5#5 ++ pg ++ ty ++ aux)
  | .vminu vd va vb pg ty aux => some (36#6 ++ vd ++ va ++ vb ++ 6#5 ++ pg ++ ty ++ aux)
  | .vmaxu vd va vb pg ty aux => some (36#6 ++ vd ++ va ++ vb ++ 7#5 ++ pg ++ ty ++ aux)
  | .vand vd va vb pg ty aux => some (36#6 ++ vd ++ va ++ vb ++ 8#5 ++ pg ++ ty ++ aux)
  | .vor vd va vb pg ty aux => some (36#6 ++ vd ++ va ++ vb ++ 9#5 ++ pg ++ ty ++ aux)
  | .vxor vd va vb pg ty aux => some (36#6 ++ vd ++ va ++ vb ++ 10#5 ++ pg ++ ty ++ aux)
  | .vsll vd va vb pg ty aux => some (36#6 ++ vd ++ va ++ vb ++ 11#5 ++ pg ++ ty ++ aux)
  | .vsrl vd va vb pg ty aux => some (36#6 ++ vd ++ va ++ vb ++ 12#5 ++ pg ++ ty ++ aux)
  | .vsra vd va vb pg ty aux => some (36#6 ++ vd ++ va ++ vb ++ 13#5 ++ pg ++ ty ++ aux)
  | .vsadd vd va vb pg ty aux => some (36#6 ++ vd ++ va ++ vb ++ 14#5 ++ pg ++ ty ++ aux)
  | .vssub vd va vb pg ty aux => some (36#6 ++ vd ++ va ++ vb ++ 15#5 ++ pg ++ ty ++ aux)
  | .vabsd vd va vb pg ty aux => some (36#6 ++ vd ++ va ++ vb ++ 16#5 ++ pg ++ ty ++ aux)
  | .vcmpeq pd va vb pg ty aux => some (36#6 ++ 0#2 ++ pd ++ va ++ vb ++ 17#5 ++ pg ++ ty ++ aux)
  | .vcmplt pd va vb pg ty aux => some (36#6 ++ 0#2 ++ pd ++ va ++ vb ++ 18#5 ++ pg ++ ty ++ aux)
  | .vcmpltu pd va vb pg ty aux => some (36#6 ++ 0#2 ++ pd ++ va ++ vb ++ 19#5 ++ pg ++ ty ++ aux)
  | .vbcast vd vb pg ty aux => some (37#6 ++ vd ++ 0#5 ++ vb ++ 0#5 ++ pg ++ ty ++ aux)
  | .vext rd va vb ty aux => some (37#6 ++ rd ++ va ++ vb ++ 1#5 ++ 0#2 ++ ty ++ aux)
  | .vins vd va vb pg ty aux => some (37#6 ++ vd ++ va ++ vb ++ 2#5 ++ pg ++ ty ++ aux)
  | .vperm vd va vb pg ty => some (37#6 ++ vd ++ va ++ vb ++ 3#5 ++ pg ++ ty ++ 0#2)
  | .vsldn vd va vb pg ty aux => some (37#6 ++ vd ++ va ++ vb ++ 4#5 ++ pg ++ ty ++ aux)
  | .vslup vd va vb pg ty aux => some (37#6 ++ vd ++ va ++ vb ++ 5#5 ++ pg ++ ty ++ aux)
  | .vredsum vd va pg ty => some (37#6 ++ vd ++ va ++ 0#5 ++ 6#5 ++ pg ++ ty ++ 0#2)
  | .vredfsum vd va pg ty aux => some (37#6 ++ vd ++ va ++ 0#5 ++ 7#5 ++ pg ++ ty ++ aux)
  | .vredmax vd va pg ty => some (37#6 ++ vd ++ va ++ 0#5 ++ 8#5 ++ pg ++ ty ++ 0#2)
  | .vredmin vd va pg ty => some (37#6 ++ vd ++ va ++ 0#5 ++ 9#5 ++ pg ++ ty ++ 0#2)
  | .vscan vd va pg ty => some (37#6 ++ vd ++ va ++ 0#5 ++ 10#5 ++ pg ++ ty ++ 0#2)
  | .vcmpr vd va pg ty => some (37#6 ++ vd ++ va ++ 0#5 ++ 11#5 ++ pg ++ ty ++ 0#2)
  | .vsel vd va vb pg ty aux => some (37#6 ++ vd ++ va ++ vb ++ 12#5 ++ pg ++ ty ++ aux)
  | .viota vd pg ty => some (37#6 ++ vd ++ 0#10 ++ 13#5 ++ pg ++ ty ++ 0#2)
  | .pand pd pa pb pg ty => some (38#6 ++ 0#2 ++ pd ++ 0#2 ++ pa ++ 0#2 ++ pb ++ 0#5 ++ pg ++ ty ++ 0#2)
  | .por pd pa pb pg ty => some (38#6 ++ 0#2 ++ pd ++ 0#2 ++ pa ++ 0#2 ++ pb ++ 1#5 ++ pg ++ ty ++ 0#2)
  | .pxor pd pa pb pg ty => some (38#6 ++ 0#2 ++ pd ++ 0#2 ++ pa ++ 0#2 ++ pb ++ 2#5 ++ pg ++ ty ++ 0#2)
  | .pnot pd pa pg ty => some (38#6 ++ 0#2 ++ pd ++ 0#2 ++ pa ++ 0#5 ++ 3#5 ++ pg ++ ty ++ 0#2)
  | .pcnt rd pa pg ty => some (38#6 ++ rd ++ 0#2 ++ pa ++ 0#5 ++ 4#5 ++ pg ++ ty ++ 0#2)
  | .pfirst rd pa pg ty => some (38#6 ++ rd ++ 0#2 ++ pa ++ 0#5 ++ 5#5 ++ pg ++ ty ++ 0#2)
  | .pset pd vb ty aux => some (38#6 ++ 0#2 ++ pd ++ 0#5 ++ vb ++ 6#5 ++ 0#2 ++ ty ++ aux)
  | .pget rd pa => some (38#6 ++ rd ++ 0#2 ++ pa ++ 0#5 ++ 7#5 ++ 0#6)
  | .vld vd ra pg esize off => some (39#6 ++ vd ++ ra ++ 0#5 ++ 0#3 ++ pg ++ esize ++ off)
  | .vst vd ra pg esize off => some (39#6 ++ vd ++ ra ++ 0#5 ++ 1#3 ++ pg ++ esize ++ off)
  | .vlds vd ra rb pg esize => some (39#6 ++ vd ++ ra ++ rb ++ 2#3 ++ pg ++ esize ++ 0#4)
  | .vsts vd ra rb pg esize => some (39#6 ++ vd ++ ra ++ rb ++ 3#3 ++ pg ++ esize ++ 0#4)
  | .vgath vd ra vb pg esize => some (39#6 ++ vd ++ ra ++ vb ++ 4#3 ++ pg ++ 1#1 ++ esize ++ 0#4)
  | .vscat vd ra vb pg esize => some (39#6 ++ vd ++ ra ++ vb ++ 5#3 ++ pg ++ 1#1 ++ esize ++ 0#4)
  | .vldb vd ra pg esize off => some (39#6 ++ vd ++ ra ++ 0#5 ++ 6#3 ++ pg ++ esize ++ off)
  | .vstaAdd vd ra pg esize => some (39#6 ++ vd ++ ra ++ 0#5 ++ 7#3 ++ pg ++ esize ++ 0#4)
  | .vstaFadd vd ra pg esize => some (39#6 ++ vd ++ ra ++ 0#5 ++ 7#3 ++ pg ++ 1#1 ++ esize ++ 1#4)
  | .vstaMax vd ra pg esize => some (39#6 ++ vd ++ ra ++ 0#5 ++ 7#3 ++ pg ++ esize ++ 2#4)
  | .vstaMin vd ra pg esize => some (39#6 ++ vd ++ ra ++ 0#5 ++ 7#3 ++ pg ++ esize ++ 3#4)
  | .rmulf vd va vb pg => some (40#6 ++ vd ++ va ++ vb ++ 0#5 ++ pg ++ 0#4)
  | .umulf vd va vb pg => some (40#6 ++ vd ++ va ++ vb ++ 1#5 ++ pg ++ 0#4)
  | .rmulq vd va vb pg k => some (40#6 ++ vd ++ va ++ vb ++ 2#5 ++ pg ++ k)
  | .umulq vd va vb pg k => some (40#6 ++ vd ++ va ++ vb ++ 3#5 ++ pg ++ k)
  | .rshra vd va pg k => some (40#6 ++ vd ++ va ++ 0#5 ++ 4#5 ++ pg ++ k)
  | .ushra vd va pg k => some (40#6 ++ vd ++ va ++ 0#5 ++ 5#5 ++ pg ++ k)
  | .rnrw vd va pg => some (40#6 ++ vd ++ va ++ 0#5 ++ 6#5 ++ pg ++ 0#4)
  | .unrw vd va pg => some (40#6 ++ vd ++ va ++ 0#5 ++ 7#5 ++ pg ++ 0#4)
  | .rselz vd va pg => some (40#6 ++ vd ++ va ++ 0#5 ++ 8#5 ++ pg ++ 0#4)
  | .uselz vd va pg => some (40#6 ++ vd ++ va ++ 0#5 ++ 9#5 ++ pg ++ 0#4)
  | .raddf vd va vb pg => some (40#6 ++ vd ++ va ++ vb ++ 10#5 ++ pg ++ 0#4)
  | .uaddf vd va vb pg => some (40#6 ++ vd ++ va ++ vb ++ 11#5 ++ pg ++ 0#4)
  | .kmark ra => some (40#6 ++ 0#5 ++ ra ++ 0#5 ++ 12#5 ++ 0#6)
  | .kdrop ra => some (40#6 ++ 0#5 ++ ra ++ 0#5 ++ 13#5 ++ 0#6)
  | .kchk rd => some (40#6 ++ rd ++ 0#10 ++ 14#5 ++ 0#6)  | .fctlWrite _ _ => none
  | .fflagsWrite _ _ => none
  | .portmapWrite _ _ => none
  | .bmaskWrite _ _ => none
  | .mfmtWrite _ _ => none
  | .kbackWrite _ _ => none
  | .instretWrite _ _ => none
  | .corestatRead _ => none
  | .tlbinvPage _ => none
  | .tlbinvRegion _ => none
  | .tlbinvContext _ => none
  | .uinote _ => none
  | .uinoteStallRelease => none
  | .idleWake => none
  | .unitEnd => none
  | .boundBytesLand _ _ => none
  | .episodeComplete _ => none
  | .waittoExpiry => none
  | .waveComplete _ _ => none
  | .treeNodeFailure _ => none
  | .kerfSpillComplete => none
  | .kerfRefillComplete => none
  | .entryAccepted _ => none
  | .entryComplete _ => none
  | .suspendedRetranslate _ => none
  | .engineResend _ => none
  | .copyEngineService => none
  | .qfenceRelease _ => none
  | .asyncEventDelivery => none
  | .heldEventEnqueue => none
  | .copy _ _ => none
  | .copynd _ _ => none
  | .gathr _ _ => none
  | .scatr _ _ => none
  | .fill _ _ => none
  | .feeda _ _ => none
  | .feedb _ _ => none
  | .feedSpaceReleased _ => none
  | .drain _ _ => none
  | .copyg _ _ => none
  | .xsched _ _ => none
  | .jigEntryIssue _ => none
  | .mma _ _ => none
  | .mmat _ _ => none
  | .mzero _ _ => none
  | .matrixTileIssue => none
  | .matrixTileComplete => none
  | .hist _ _ => none
  | .psum _ _ => none
  | .topk _ _ => none
  | .auct _ _ => none
  | .apport _ _ => none
  | .rsort _ _ => none
  | .priceRead _ _ => none
  | .priceWrite _ _ => none
  | .priceScale _ _ => none
  | .priceReset _ _ => none
  | .cplan _ _ => none
  | .cplanArrival _ => none
  | .cfree _ _ => none
  | .postingArrival _ => none
  | .postingResend _ => none
  | .rootTicketArrival _ => none
  | .ticketArrival _ => none
  | .instanceEnd _ _ _ => none
  | .hubFailure _ => none
  | .launch _ _ => none
  | .launchAging _ => none
  | .placeLaunch _ => none
  | .rangeinit _ _ => none
  | .cancel _ _ => none
  | .cntwait _ _ => none
  | .qfence _ _ => none
  | .pdeadlineExpiry => none
  | .coreSaveComplete => none
  | .restoreComplete _ _ => none
  | .bufferZeroingComplete => none
  | .contextUnitsStopped _ => none
  | .contextZeroingComplete _ => none
  | .watchdogExpiry => none
  | .watchdogRingPoll _ => none
  | .retryResend => none
  | .portWriteResend => none
  | .migWriteRetranslate => none
  | .portWordArrival _ _ => none
  | .portWriteUnstall => none
  | .portwaitExpiry => none
  | .dataFlit _ _ _ => none
  | .ack _ _ => none
  | .nak _ _ => none
  | .flow _ _ => none
  | .flowRefresh _ => none
  | .probe _ _ => none
  | .echo _ _ => none
  | .idleFlit _ _ => none
  | .portEnable _ => none
  | .portDisable _ => none
  | .lockPhaseEnd _ _ => none
  | .alignPhaseEnd _ _ => none
  | .startPhaseEnd _ => none
  | .measurePhaseEnd _ => none
  | .trainingPhaseTimeout _ => none
  | .lockLoss _ => none
  | .packageReset => none
  | .recoveryImage _ => none
  | .rollbackAdvance _ => none
  | .hostMailbox _ _ => none
  | .info _ => none
  | .shmpage _ _ => none
  | .pricebank _ _ _ => none
  | .tree _ _ _ => none
  | .slice _ => none
  | .peer _ _ _ => none
  | .attest _ _ => none
  | .preemptSet _ _ => none
  | .preemptClear _ _ => none
  | .ctxnew _ => none
  | .ctxfree _ => none
  | .restore _ _ _ => none
  | .ctxstate _ _ => none
  | .wdring _ _ _ => none
  | .scrubReport _ _ => none
  | .freeze => none
  | .resume => none
  | .powerCapExceeded _ => none
  | .junctionThrottle _ _ => none
  | .junctionFreeze _ _ => none
  | .illegalInstruction _ _ => none
  | .dependenceCountWrite _ _ _ _ => none
  | .coordinatorRoleMove _ _ _ => none
  | .scanChainAccess _ => none
  | .throttleEnd _ _ => none
  | .probeInterval _ => none

end Sys2Proof
end

