-- ==== Sys2Proof/WellFormed.lean ====
section
/-!
DEFINITION. The checks of step 4 and 6 of R229 that need nothing but the word: coded fields in their tables, operand
fields in the range their entry states. Each failure is cause 0 with the word.
-/
namespace Sys2Proof

/-- Scope 0 to 5 (R135), aux 0 to 2 and the aux an entry names (R304, R308, R311), SEXT and ZEXT size 0 to 2 (R233),
RTAKE destination 1 to 30 (R275), VSRR version 0 or 1 (R90), ENQ register a multiple of 4 from 4 (R230), queue 0 to 4
and the channel register zero unless the queue is copy (R278), register pairs and format codes of VCVT (R297, R301),
VFSGN abs with vb zero (R285), RSHRA and USHRA k 1 to 15 (R328). -/
def Instr.wellFormed (i : Instr) : Bool :=
  match i with
  | .add _ _ _ => true
  | .sub _ _ _ => true
  | .and _ _ _ => true
  | .or _ _ _ => true
  | .xor _ _ _ => true
  | .andn _ _ _ => true
  | .sll _ _ _ => true
  | .srl _ _ _ => true
  | .sra _ _ _ => true
  | .ror _ _ _ => true
  | .slt _ _ _ => true
  | .sltu _ _ _ => true
  | .min _ _ _ => true
  | .max _ _ _ => true
  | .minu _ _ _ => true
  | .maxu _ _ _ => true
  | .mul _ _ _ => true
  | .mulh _ _ _ => true
  | .mulhu _ _ _ => true
  | .div _ _ _ => true
  | .divu _ _ _ => true
  | .rem _ _ _ => true
  | .remu _ _ _ => true
  | .clz _ _ => true
  | .ctz _ _ => true
  | .popc _ _ => true
  | .sext _ _ size => decide (size.toNat ≤ 2)
  | .zext _ _ size => decide (size.toNat ≤ 2)
  | .bswap _ _ => true
  | .sel _ _ _ => true
  | .addi _ _ _ => true
  | .andi _ _ _ => true
  | .ori _ _ _ => true
  | .xori _ _ _ => true
  | .slli _ _ _ => true
  | .srli _ _ _ => true
  | .srai _ _ _ => true
  | .rori _ _ _ => true
  | .slti _ _ _ => true
  | .sltui _ _ _ => true
  | .lui _ _ => true
  | .insh _ _ _ => true
  | .lb _ _ _ => true
  | .lh _ _ _ => true
  | .lw _ _ _ => true
  | .ld _ _ _ => true
  | .lbu _ _ _ => true
  | .lhu _ _ _ => true
  | .lwu _ _ _ => true
  | .sb _ _ _ => true
  | .sh _ _ _ => true
  | .sw _ _ _ => true
  | .sd _ _ _ => true
  | .ldaW _ _ scope => decide (scope.toNat ≤ 5)
  | .ldaD _ _ scope => decide (scope.toNat ≤ 5)
  | .stlW _ _ scope => decide (scope.toNat ≤ 5)
  | .stlD _ _ scope => decide (scope.toNat ≤ 5)
  | .fence scope _ _ _ _ => decide (scope.toNat ≤ 5)
  | .amoAdd _ _ _ _ _ scope => decide (scope.toNat ≤ 5)
  | .amoAnd _ _ _ _ _ scope => decide (scope.toNat ≤ 5)
  | .amoOr _ _ _ _ _ scope => decide (scope.toNat ≤ 5)
  | .amoXor _ _ _ _ _ scope => decide (scope.toNat ≤ 5)
  | .amoMin _ _ _ _ _ scope => decide (scope.toNat ≤ 5)
  | .amoMax _ _ _ _ _ scope => decide (scope.toNat ≤ 5)
  | .amoMinu _ _ _ _ _ scope => decide (scope.toNat ≤ 5)
  | .amoMaxu _ _ _ _ _ scope => decide (scope.toNat ≤ 5)
  | .amoSwap _ _ _ _ _ scope => decide (scope.toNat ≤ 5)
  | .amoCas _ _ _ _ _ scope => decide (scope.toNat ≤ 5)
  | .amoIncb _ _ _ _ _ scope => decide (scope.toNat ≤ 5)
  | .amoAddt _ _ _ _ _ scope => decide (scope.toNat ≤ 5)
  | .amoFadd _ _ _ _ _ scope => decide (scope.toNat ≤ 5)
  | .amoWaitw _ _ _ _ _ scope => decide (scope.toNat ≤ 5)
  | .beq _ _ _ => true
  | .bne _ _ _ => true
  | .blt _ _ _ => true
  | .bge _ _ _ => true
  | .bltu _ _ _ => true
  | .bgeu _ _ _ => true
  | .j _ => true
  | .jal _ => true
  | .jalr _ _ _ => true
  | .csrr _ _ => true
  | .csrw _ _ => true
  | .csrs _ _ => true
  | .csrc _ _ => true
  | .ecall => true
  | .ebreak => true
  | .sret => true
  | .uiret => true
  | .yield => true
  | .idle => true
  | .mark => true
  | .split => true
  | .fuse => true
  | .exit => true
  | .ifence => true
  | .arrive _ => true
  | .arriveG _ => true
  | .wait _ _ => true
  | .btest _ _ => true
  | .expect _ _ => true
  | .bcancel _ => true
  | .rtake rd _ => rd != 0 && rd != 31
  | .vsrr _ _ ver => decide (ver.toNat ≤ 1)
  | .vsrw _ _ => true
  | .enq ra q => ra.extractLsb' 0 2 == 0#2 && ra != 0 && decide (q.toNat ≤ 4)
  | .enqm _ q => decide (q.toNat ≤ 4)
  | .qstat _ ra _ q => decide (q.toNat ≤ 4) && (q == 0 || ra == 0)
  | .qwait _ ra q => decide (q.toNat ≤ 4) && (q == 0 || ra == 0)
  | .cput _ _ => true
  | .cget _ _ => true
  | .ctest _ _ => true
  | .vfadd _ _ _ _ _ _ _ _ => true
  | .vfsub _ _ _ _ _ _ _ _ => true
  | .vfmul _ _ _ _ _ _ _ _ => true
  | .vfdiv _ _ _ _ _ _ _ _ => true
  | .vfmin _ _ _ _ _ _ _ => true
  | .vfmax _ _ _ _ _ _ _ => true
  | .vfsqrt _ _ _ _ _ _ _ => true
  | .vfsgn _ _ vb _ _ rm => rm != 3 || vb == 0
  | .vfma _ _ _ _ _ _ _ _ => true
  | .vfms _ _ _ _ _ _ _ _ => true
  | .vfnma _ _ _ _ _ _ _ _ => true
  | .vfdot2 _ _ _ _ _ _ _ _ => true
  | .vfrcp _ _ _ _ _ _ _ => true
  | .vfrsq _ _ _ _ _ _ _ => true
  | .vfexp2 _ _ _ _ _ _ _ => true
  | .vflog2 _ _ _ _ _ _ _ => true
  | .vfeq _ _ _ _ _ _ => true
  | .vflt _ _ _ _ _ _ => true
  | .vfle _ _ _ _ _ _ => true
  | .vfun _ _ _ _ _ _ => true
  | .vfne _ _ _ _ _ _ => true
  | .vfclass _ _ _ _ => true
  | .vcvtF32F64 _ _ _ _ _ _ => true
  | .vcvtF64F32 _ _ _ _ _ _ => true
  | .vcvtF16F32 _ _ _ _ _ _ => true
  | .vcvtF32F16 _ _ _ _ _ _ => true
  | .vcvtBf16F32 _ _ _ _ _ _ => true
  | .vcvtF32Bf16 _ _ _ _ _ _ => true
  | .vcvtE4m3F32 _ _ _ _ _ _ => true
  | .vcvtE5m2F32 _ _ _ _ _ _ => true
  | .vcvtF32E4m3 _ _ _ _ _ _ => true
  | .vcvtF32E5m2 _ _ _ _ _ _ => true
  | .vcvtE2m1F32 _ va _ _ _ _ => decide (va.toNat ≤ 30)
  | .vcvtF32E2m1 vd _ _ _ _ _ => decide (vd.toNat ≤ 30)
  | .vcvtI32F32 _ _ _ _ _ _ => true
  | .vcvtF32I32 _ _ _ _ _ _ => true
  | .vcvtI64F64 _ _ _ _ _ _ => true
  | .vcvtF64I64 _ _ _ _ _ _ => true
  | .vcvtI8I32 _ _ _ => true
  | .vcvtI16I32 _ _ _ => true
  | .vcvtE8F32 _ va vb _ _ _ => decide (va.toNat ≤ 30) && (vb == 4 || vb == 5 || vb == 6)
  | .vcvtE4m3F32Bs _ va _ _ _ _ => decide (va.toNat ≤ 30)
  | .vcvtF32E4m3Bs vd _ _ _ _ _ => decide (vd.toNat ≤ 30)
  | .vadd _ _ _ _ _ aux => aux != 3
  | .vsub _ _ _ _ _ aux => aux != 3
  | .vmul _ _ _ _ _ aux => aux != 3
  | .vmulh _ _ _ _ _ aux => aux != 3
  | .vmin _ _ _ _ _ aux => aux != 3
  | .vmax _ _ _ _ _ aux => aux != 3
  | .vminu _ _ _ _ _ aux => aux != 3
  | .vmaxu _ _ _ _ _ aux => aux != 3
  | .vand _ _ _ _ _ aux => aux != 3
  | .vor _ _ _ _ _ aux => aux != 3
  | .vxor _ _ _ _ _ aux => aux != 3
  | .vsll _ _ _ _ _ aux => aux != 3
  | .vsrl _ _ _ _ _ aux => aux != 3
  | .vsra _ _ _ _ _ aux => aux != 3
  | .vsadd _ _ _ _ _ aux => aux != 3
  | .vssub _ _ _ _ _ aux => aux != 3
  | .vabsd _ _ _ _ _ aux => aux != 3
  | .vcmpeq _ _ _ _ _ aux => aux != 3
  | .vcmplt _ _ _ _ _ aux => aux != 3
  | .vcmpltu _ _ _ _ _ aux => aux != 3
  | .vbcast _ _ _ _ aux => aux != 3
  | .vext _ _ _ _ aux => aux == 1 || aux == 2
  | .vins _ _ _ _ _ aux => aux == 1 || aux == 2
  | .vperm _ _ _ _ _ => true
  | .vsldn _ _ _ _ _ aux => aux == 1 || aux == 2
  | .vslup _ _ _ _ _ aux => aux == 1 || aux == 2
  | .vredsum _ _ _ _ => true
  | .vredfsum _ _ _ _ aux => aux != 3
  | .vredmax _ _ _ _ => true
  | .vredmin _ _ _ _ => true
  | .vscan _ _ _ _ => true
  | .vcmpr _ _ _ _ => true
  | .vsel _ _ _ _ _ aux => aux != 3
  | .viota _ _ _ => true
  | .pand _ _ _ _ _ => true
  | .por _ _ _ _ _ => true
  | .pxor _ _ _ _ _ => true
  | .pnot _ _ _ _ => true
  | .pcnt _ _ _ _ => true
  | .pfirst _ _ _ _ => true
  | .pset _ _ _ aux => aux == 1 || aux == 2
  | .pget _ _ => true
  | .vld _ _ _ _ _ => true
  | .vst _ _ _ _ _ => true
  | .vlds _ _ _ _ _ => true
  | .vsts _ _ _ _ _ => true
  | .vgath _ _ _ _ _ => true
  | .vscat _ _ _ _ _ => true
  | .vldb _ _ _ _ _ => true
  | .vstaAdd _ _ _ _ => true
  | .vstaFadd _ _ _ _ => true
  | .vstaMax _ _ _ _ => true
  | .vstaMin _ _ _ _ => true
  | .rmulf _ _ _ _ => true
  | .umulf _ _ _ _ => true
  | .rmulq _ _ _ _ _ => true
  | .umulq _ _ _ _ _ => true
  | .rshra _ _ _ k => k != 0
  | .ushra _ _ _ k => k != 0
  | .rnrw _ _ _ => true
  | .unrw _ _ _ => true
  | .rselz _ _ _ => true
  | .uselz _ _ _ => true
  | .raddf _ _ _ _ => true
  | .uaddf _ _ _ _ => true
  | .kmark _ => true
  | .kdrop _ => true
  | .kchk _ => true
  | .fctlWrite _ _ => true
  | .fflagsWrite _ _ => true
  | .portmapWrite _ _ => true
  | .bmaskWrite _ _ => true
  | .mfmtWrite _ _ => true
  | .kbackWrite _ _ => true
  | .instretWrite _ _ => true
  | .corestatRead _ => true
  | .tlbinvPage _ => true
  | .tlbinvRegion _ => true
  | .tlbinvContext _ => true
  | .uinote _ => true
  | .uinoteStallRelease => true
  | .idleWake => true
  | .unitEnd => true
  | .boundBytesLand _ _ => true
  | .episodeComplete _ => true
  | .waittoExpiry => true
  | .waveComplete _ _ => true
  | .treeNodeFailure _ => true
  | .kerfSpillComplete => true
  | .kerfRefillComplete => true
  | .entryAccepted _ => true
  | .entryComplete _ => true
  | .suspendedRetranslate _ => true
  | .engineResend _ => true
  | .copyEngineService => true
  | .qfenceRelease _ => true
  | .asyncEventDelivery => true
  | .heldEventEnqueue => true
  | .copy _ _ => true
  | .copynd _ _ => true
  | .gathr _ _ => true
  | .scatr _ _ => true
  | .fill _ _ => true
  | .feeda _ _ => true
  | .feedb _ _ => true
  | .feedSpaceReleased _ => true
  | .drain _ _ => true
  | .copyg _ _ => true
  | .xsched _ _ => true
  | .jigEntryIssue _ => true
  | .mma _ _ => true
  | .mmat _ _ => true
  | .mzero _ _ => true
  | .matrixTileIssue => true
  | .matrixTileComplete => true
  | .hist _ _ => true
  | .psum _ _ => true
  | .topk _ _ => true
  | .auct _ _ => true
  | .apport _ _ => true
  | .rsort _ _ => true
  | .priceRead _ _ => true
  | .priceWrite _ _ => true
  | .priceScale _ _ => true
  | .priceReset _ _ => true
  | .cplan _ _ => true
  | .cplanArrival _ => true
  | .cfree _ _ => true
  | .postingArrival _ => true
  | .postingResend _ => true
  | .rootTicketArrival _ => true
  | .ticketArrival _ => true
  | .instanceEnd _ _ _ => true
  | .hubFailure _ => true
  | .launch _ _ => true
  | .launchAging _ => true
  | .placeLaunch _ => true
  | .rangeinit _ _ => true
  | .cancel _ _ => true
  | .cntwait _ _ => true
  | .qfence _ _ => true
  | .pdeadlineExpiry => true
  | .coreSaveComplete => true
  | .restoreComplete _ _ => true
  | .bufferZeroingComplete => true
  | .contextUnitsStopped _ => true
  | .contextZeroingComplete _ => true
  | .watchdogExpiry => true
  | .watchdogRingPoll _ => true
  | .retryResend => true
  | .portWriteResend => true
  | .migWriteRetranslate => true
  | .portWordArrival _ _ => true
  | .portWriteUnstall => true
  | .portwaitExpiry => true
  | .dataFlit _ _ _ => true
  | .ack _ _ => true
  | .nak _ _ => true
  | .flow _ _ => true
  | .flowRefresh _ => true
  | .probe _ _ => true
  | .echo _ _ => true
  | .idleFlit _ _ => true
  | .portEnable _ => true
  | .portDisable _ => true
  | .lockPhaseEnd _ _ => true
  | .alignPhaseEnd _ _ => true
  | .startPhaseEnd _ => true
  | .measurePhaseEnd _ => true
  | .trainingPhaseTimeout _ => true
  | .lockLoss _ => true
  | .packageReset => true
  | .recoveryImage _ => true
  | .rollbackAdvance _ => true
  | .hostMailbox _ _ => true
  | .info _ => true
  | .shmpage _ _ => true
  | .pricebank _ _ _ => true
  | .tree _ _ _ => true
  | .slice _ => true
  | .peer _ _ _ => true
  | .attest _ _ => true
  | .preemptSet _ _ => true
  | .preemptClear _ _ => true
  | .ctxnew _ => true
  | .ctxfree _ => true
  | .restore _ _ _ => true
  | .ctxstate _ _ => true
  | .wdring _ _ _ => true
  | .scrubReport _ _ => true
  | .freeze => true
  | .resume => true
  | .powerCapExceeded _ => true
  | .junctionThrottle _ _ => true
  | .junctionFreeze _ _ => true
  | .illegalInstruction _ _ => true
  | .dependenceCountWrite _ _ _ _ => true
  | .coordinatorRoleMove _ _ _ => true
  | .scanChainAccess _ => true
  | .throttleEnd _ _ => true
  | .probeInterval _ => true

end Sys2Proof
end

