-- ==== Sys2Proof/Machine/Ops.lean ====
section
/-!
DEFINITION. The named operations every meaning is written over: cores by number, the registers and ports, taking a
trap and returning from one, waiting, and the frame in which an instruction completes, traps or waits.
-/
namespace Sys2Proof.Machine

open Sys2Proof

/-! ## Cores by number -/

/-- The core of a number (R9); a core that is not listed is in its reset state. -/
def State.core (s : State) (n : Nat) : Core :=
  if n = s.me.id then s.me else (assoc n s.others).getD (Core.fresh n)

/-- Put a core back. -/
def State.setCore (s : State) (n : Nat) (c : Core) : State :=
  if n = s.me.id then { s with me := c } else { s with others := setAssoc n c s.others }

/-- Change one core. -/
def State.updCore (s : State) (n : Nat) (f : Core → Core) : State := s.setCore n (f (s.core n))

/-- Change several cores. -/
def State.updCores (s : State) (ns : List Nat) (f : Core → Core) : State :=
  ns.foldl (fun s n => s.updCore n f) s

/-- Change the current core. -/
def State.updMe (s : State) (f : Core → Core) : State := { s with me := f s.me }

/-- Give another core the turn. -/
def State.switchTo (s : State) (n : Nat) : State :=
  if n = s.me.id then s
  else { s with me := s.core n, others := setAssoc s.me.id s.me (delAssoc n s.others) }

/-- Run an action as another core. -/
def State.asCore (s : State) (n : Nat) (f : State → State) : State := (f (s.switchTo n)).switchTo s.me.id

/-- Every core that is not in its reset state. -/
def State.allCores (s : State) : List Core := s.me :: s.others.map (·.2)

/-- The die, truss of the package and bay of the package of a core number (R9). -/
def dieOf (n : Nat) : Nat := n / 1024
def trussOf (n : Nat) : Nat := n / 64
def bayOf (n : Nat) : Nat := n / 8

/-- A core number that exists and whose bay is not disabled (R15). -/
def State.coreEnabled (s : State) (n : Nat) : Bool :=
  n < 4096 && !(s.harvest.contains (trussOf n, (n / 8) % 8))

/-- The partition a core's truss belongs to (R381). -/
def State.partOf (s : State) (n : Nat) : Option Partition := s.parts.find? (fun p => p.trusses.contains (trussOf n))

/-- A partition by id. -/
def State.part? (s : State) (id : Nat) : Option Partition := s.parts.find? (fun p => p.id == id)

/-- Change a partition. -/
def State.updPart (s : State) (id : Nat) (f : Partition → Partition) : State :=
  { s with parts := s.parts.map (fun p => if p.id == id then f p else p) }

/-- A context by id. -/
def State.ctx? (s : State) (id : Nat) : Option Context := s.contexts.find? (fun c => c.id == id)

/-- Change a context. -/
def State.updCtx (s : State) (id : Nat) (f : Context → Context) : State :=
  { s with contexts := s.contexts.map (fun c => if c.id == id then f c else c) }

/-- A launch entry by key. -/
def State.launch? (s : State) (k : LaunchKey) : Option Launch :=
  (s.part? k.part).bind (fun p => p.launches.find? (fun l => l.key == k))

/-- Change a launch entry. -/
def State.updLaunch (s : State) (k : LaunchKey) (f : Launch → Launch) : State :=
  s.updPart k.part (fun p => { p with launches := p.launches.map (fun l => if l.key == k then f l else l) })

/-- A held channel by number. -/
def State.channel? (s : State) (n : Nat) : Option Channel := s.channels.find? (fun c => c.num == n)

/-- Change a channel. -/
def State.updChannel (s : State) (n : Nat) (f : Channel → Channel) : State :=
  { s with channels := s.channels.map (fun c => if c.num == n then f c else c) }

/-- The context id under which a core issues its accesses (R68). -/
def Core.ctx (c : Core) : Nat := c.sup.ctxid.toNat % 2 ^ 16

/-- The core runs a unit of a context (R58). -/
def Core.runsCtx (c : Core) (ctx : Nat) : Bool :=
  (c.run == .running) && (match c.unit with | some u => u.ctx == ctx | none => false)

/-- The unit is in deterministic mode (R79). -/
def Core.det (c : Core) : Bool := match c.unit with | some u => u.det | none => false

/-- The launch holds a channel (R118). -/
def Core.holds (c : Core) (ch : Nat) : Bool := match c.unit with | some u => u.channels.contains ch | none => false

/-- The batch channel of a deterministic launch: the lowest-numbered channel it holds (R150). -/
def Core.batchChannel (c : Core) : Option Nat :=
  match c.unit with
  | some u => if u.det then u.channels.foldl (fun m ch => match m with | some x => some (min x ch) | none => some ch) none else none
  | none => none

/-- The number of the core's unit. -/
def Core.unitNum (c : Core) : Nat := match c.unit with | some u => u.unit | none => 0

/-- An event has ended what the core's instruction waits for. -/
def Core.waitReady (c : Core) : Bool := match c.wait with | some w => w.ready | none => false

/-- The core is a member of a channel (R119). -/
def Core.member (c : Core) (ch : Nat) : Bool := ch < 32 && c.user.bmask.getLsbD ch

/-- An exchange stretch is open (R103). -/
def Core.inExchange (c : Core) : Bool := !c.exchange.isEmpty

/-- A number not drawn before, and the counter behind it. -/
def State.draw (s : State) : State := { s with fresh := s.fresh + 1 }

/-! ## The frame of an instruction -/

/-- Why the body of an instruction does not complete. -/
inductive Stop where
  /-- a precise trap with its cause and value (R217) -/
  | trap (cause : Nat) (val : Word)
  /-- a precise trap whose value is the instruction word -/
  | trapWord (cause : Nat)
  /-- the instruction waits -/
  | stall (k : WaitKind) (rd : BitVec 5)
  deriving DecidableEq, Repr

/-- The body of an instruction: it reads and changes the state, or stops with no effect (R232). -/
abbrev M (α : Type) := StateT State (Except Stop) α

/-- Trap with a value. -/
def trap {α : Type} (cause : Nat) (val : Word) : M α := fun _ => .error (.trap cause val)
/-- Trap with the instruction word as value. -/
def trapWord {α : Type} (cause : Nat) : M α := fun _ => .error (.trapWord cause)
/-- Wait. -/
def stall {α : Type} (k : WaitKind) (rd : BitVec 5 := 0) : M α := fun _ => .error (.stall k rd)
/-- Apply a change of state. -/
def change (f : State → State) : M Unit := fun s => .ok ((), f s)
/-- The state as it is. -/
def look : M State := fun s => .ok (s, s)
/-- The current core. -/
def meM : M Core := fun s => .ok (s.me, s)
/-- Change the current core. -/
def changeMe (f : Core → Core) : M Unit := change (fun s => s.updMe f)

/-! ## Taking a trap and returning from one -/

/-- Two units are of one gang: of one launch, with consecutive numbers (R80). -/
def sameGang (u v : UnitCfg) : Bool := u.launch == v.launch && decide (u.unit / u.gangSize = v.unit / v.gangSize)

/-- The cores of a core's gang whose units have not ended, itself included, by position. -/
def State.gangCores (s : State) (c : Core) : List Nat :=
  match c.unit with
  | none => [c.id]
  | some u => if u.gang.isEmpty then [c.id] else u.gang.filter (fun n => match (s.core n).unit with
      | some v => sameGang u v
      | none => false)

/-- Change every core, those of saved images among them. -/
def State.mapUnits (s : State) (f : Core → Core) : State :=
  { s with
    me := f s.me
    others := s.others.map (fun x => (x.1, f x.2))
    contexts := s.contexts.map (fun x => { x with images := x.images.map (fun im => { im with core := f im.core }) }) }

/-- The members of the current core's gang, itself included. -/
def State.gangOf (s : State) : List Nat := s.gangCores s.me

/-- The current core belongs to a fused gang of more than one (R91, R92). -/
def State.fused (s : State) : Bool :=
  match s.me.unit with
  | some u => decide (1 < u.gangSize) && !s.me.user.diverge
  | none => false

/-- The core goes on by itself: it receives no forwarded instruction, and DIVERGE is 1 (R93, R94). -/
def Core.diverged (c : Core) : Core := { c with fwd := [], lead := none, user := { c.user with diverge := true } }

/-- The core runs, or its image holds, a unit of the given unit's gang. -/
def Core.inGangOf (c : Core) (u : UnitCfg) : Bool := match c.unit with | some v => sameGang u v | none => false

/-- Every member of a gang but its leader that has not diverged receives a forwarded instruction, saved members among
them (R92, R95). -/
def State.forward (s : State) (u : UnitCfg) (f : Forwarded) : State :=
  s.mapUnits (fun c => match c.unit with
    | some v => if sameGang u v && decide (0 < v.gangPos) && !c.user.diverge then { c with fwd := c.fwd ++ [f] } else c
    | none => c)

/-- A trap in a fused gang splits it, its saved members included (R94). -/
def State.splitGang (s : State) : State :=
  match s.me.unit with
  | some u => if s.fused then s.mapUnits (fun c => if c.inGangOf u then c.diverged else c) else s
  | none => s

/-- The layout of SCAUSE and UICAUSE (R53). -/
def causeWord (async : Bool) (code : Nat) : Word :=
  (if async then 0x8000000000000000 else 0) ||| BitVec.ofNat 64 (code % 32)

/-- A saved program counter: bits 63:2 (R253). -/
def epcWord (pc : Word) : Word := pc &&& 0xFFFFFFFFFFFFFFFC

/-- The banks of g16 to g23 exchange places (R54, R258). -/
def Core.switchBank (c : Core) : Core :=
  { c with
    g := (List.range 8).foldl (fun g i => g.setIfInBounds (16 + i) (c.shadow[i]?.getD 0)) c.g
    shadow := (List.range 8).foldl (fun sh i => sh.setIfInBounds i (c.g[16 + i]?.getD 0)) c.shadow }

/-- Entry to the user-interrupt context (R54). -/
def Core.enterUi (c : Core) (async : Bool) (cause : Nat) (val pc : Word) : Core :=
  { c.switchBank with
    user := { c.user with uipc := epcWord pc, uicause := causeWord async cause, uival := val }
    sup := { c.sup with uia := true }
    pc := c.user.uivec
    wait := none }

/-- Entry to the supervisor (R54): SEPC, SCAUSE, SVAL, SPP, SPIE written, SIE cleared, privilege supervisor, pc STVEC. -/
def Core.enterSup (c : Core) (async : Bool) (cause : Nat) (val pc : Word) : Core :=
  { c with
    sup := { c.sup with sepc := epcWord pc, scause := causeWord async cause, sval := val,
                        spp := c.super, spie := c.sup.sie, sie := false }
    super := true
    pc := c.sup.stvec
    wait := none }

/-- A synchronous cause goes to the user-interrupt context: delegated, at user level, TRAP set, not already there
(R54, R113). -/
def Core.delegates (c : Core) (cause : Nat) : Bool :=
  c.sup.sdeleg.getLsbD cause && !c.super && c.user.uienable.getLsbD 4 && !c.sup.uia

/-- Taking a synchronous trap at a given saved pc (R52 to R54, R94). -/
def State.takeTrapAt (s : State) (cause : Nat) (val pc : Word) : State :=
  let s := s.splitGang
  if s.me.delegates cause then { s with me := s.me.enterUi false cause val pc }
  else { s with me := s.me.enterSup false cause val pc }

/-- Taking a synchronous trap of the instruction at pc. -/
def State.takeTrap (s : State) (cause : Nat) (val : Word) : State := s.takeTrapAt cause val s.me.pc

/-- SRET at supervisor level (R257). -/
def Core.sret (c : Core) : Core :=
  { c with
    super := c.sup.spp
    sup := { c.sup with sie := c.sup.spie, spie := true, spp := false }
    pc := c.sup.sepc
    wait := none }

/-- UIRET inside the user-interrupt context (R258). -/
def Core.uiret (c : Core) : Core :=
  { c.switchBank with sup := { c.sup with uia := false }, pc := c.user.uipc, wait := none }

/-! ## Completing, going on, waiting -/

/-- INSTRET counts one completed instruction (R232). -/
def Core.count (c : Core) : Core := { c with user := { c.user with instret := c.user.instret + 1 } }

/-- The instruction completes and goes on at pc + 4 (R232). -/
def State.retire (s : State) : State :=
  { s with me := { s.me.count with pc := s.me.pc + 4, wait := none } }

/-- The instruction completes and goes on at a target; a follower of a fused gang goes where its leader went (R92). -/
def State.retireTo (s : State) (target : Word) : State :=
  { s with me := { s.me.count with pc := s.me.lead.getD target, wait := none } }

/-- The kinds of wait that a timed resend ends (R49, R70). -/
def WaitKind.timed : WaitKind → Bool
  | .retry _ => true
  | .portRetry _ => true
  | .migWrite _ => true
  | _ => false

/-- The episode an instruction that stalls awaits: a WAIT keeps it whatever it stalls for next (R124). -/
def WaitKind.awaits (k : WaitKind) (old : Option WaitRec) : Option (Nat × Nat) :=
  match k with
  | .barrier n e => some (n, e)
  | _ => old.bind (·.awaits)

/-- The retry replies that one try of an instruction brings: what it then waits for is told by the first of them (R49). -/
def WaitKind.replies : WaitKind → Nat
  | .retry _ => 1
  | _ => 0

/-- The wait record after an instruction has (again) not been able to go on. The replies of all its tries count, whatever
address they were for and whatever it waited for between (R49, R318). -/
def nextWait (s : State) (k : WaitKind) (rd : BitVec 5) : WaitRec :=
  let first : WaitRec := { kind := k, since := s.cycle, count := k.replies, limit := s.me.user.waitto.toNat, rd := rd,
                           ready := false, awaits := k.awaits s.me.wait }
  match s.me.wait with
  | some w =>
    if w.kind = k then { w with count := w.count + k.replies, ready := false, since := if k.timed then s.cycle else w.since }
    else { first with count := w.count + k.replies }
  | none => first

/-- The instruction waits: nothing else changes. The retry reply that brings the count to RETRYMAX traps with cause 23
(R46, R49). -/
def State.park (s : State) (k : WaitKind) (rd : BitVec 5) : State :=
  let w := nextWait s k rd
  match k with
  | .retry a => if s.me.sup.retrymax.toNat ≤ w.count then s.takeTrap 23 a else { s with me := { s.me with wait := some w } }
  | _ => { s with me := { s.me with wait := some w } }

/-- The instruction word, as traps report it (R52). -/
def wordOf (i : Instr) : Word := match encode i with | some w => w.zeroExtend 64 | none => 0

/-- The frame of an instruction (R229, R232): the checks of step 4 to 6 that need only the word; then the body; it
completes with what goes on, or traps, or waits, and then nothing of the body has happened. -/
def run {α : Type} (i : Instr) (body : M α) (finish : α → State → State) (s : State) : Host.Outcome State Fault Refusal :=
  if i.wellFormed then
    match body s with
    | .ok (a, s') => .next (finish a s')
    | .error (.trap c v) => .next (s.takeTrap c v)
    | .error (.trapWord c) => .next (s.takeTrap c (wordOf i))
    | .error (.stall k rd) => .next (s.park k rd)
  else .next (s.takeTrap 0 (wordOf i))

/-- An instruction that goes on at pc + 4. -/
def runI (i : Instr) (body : M Unit) (s : State) : Host.Outcome State Fault Refusal :=
  run i body (fun _ s => s.retire) s

/-- An instruction whose body gives the next pc. -/
def runJ (i : Instr) (body : M Word) (s : State) : Host.Outcome State Fault Refusal :=
  run i body (fun t s => s.retireTo t) s

/-- A step that changes the state alone. -/
def event (f : State → State) (s : State) : Host.Outcome State Fault Refusal := .next (f s)

/-! ## Registers and ports -/

/-- A register of g24 to g31 is mapped as a port (R96, R97). -/
def Core.isPort (c : Core) (n : Nat) : Bool := decide (24 ≤ n) && decide (n < 32) && c.user.portmap.getLsbD (n - 24)

/-- The self-window offset of the spill area of port j (R97). The manual does not say what becomes of the words a port
has spilled when a lower MAP bit is set and its area moves up: its ring is then read where the area now lies.
DESIGN CHOICE (log 40). -/
def Core.spillBase (c : Core) (j : Nat) : Nat :=
  (bitsOf c.user.portmap 16 8 + ((List.range j).filter (fun i => c.user.portmap.getLsbD i)).length) * 512

/-- The mesh position of a core in its die (R10). -/
def meshX (n : Nat) : Nat := 8 * ((n / 64) % 4) + 4 * ((n / 8) % 2) + n % 4
def meshY (n : Nat) : Nat := 8 * ((n / 256) % 4) + 2 * ((n / 16) % 4) + (n / 4) % 2

/-- The core at a mesh position of a die (R10). -/
def coreAt (die x y : Nat) : Nat :=
  die * 1024 + (y / 8) * 256 + (x / 8) * 64 + ((y / 2) % 4) * 16 + ((x / 4) % 2) * 8 + (y % 2) * 4 + x % 4

/-- The neighbour of a core in direction j: 0 north, 1 east, 2 south, 3 west (R10, R96). -/
def neighbour (n j : Nat) : Option Nat :=
  let d := dieOf n; let x := meshX n; let y := meshY n
  match j with
  | 0 => if y = 0 then none else some (coreAt d x (y - 1))
  | 1 => if x = 31 then none else some (coreAt d (x + 1) y)
  | 2 => if y = 31 then none else some (coreAt d x (y + 1))
  | _ => if x = 0 then none else some (coreAt d (x - 1) y)

/-- Where a word written to port j goes: core and receive queue (R96, R98). -/
def Core.portTarget (c : Core) (j : Nat) : Option (Nat × Nat) :=
  if j < 4 then (neighbour c.id j).map (fun n => (n, (j + 2) % 4))
  else
    let w := c.user.chancfg[j - 4]?.getD 0
    if w.getLsbD 15 then some (bitsOf w 11 0, 4 + bitsOf w 13 12) else none

/-- The router of a core holds an eviction tag for a context (R49). -/
def State.tagged (s : State) (core ctx : Nat) : Bool := s.tags.any (fun t => t.1 == core && t.2.1 == ctx)

/-- An access from a context to a core is answered by retry replies (R49). -/
def State.retries (s : State) (core ctx : Nat) : Bool := s.tagged core ctx && !((s.core core).runsCtx ctx)

/-- Two cores run units of one launch (R102). -/
def sameLaunch (a b : Core) : Bool :=
  match a.unit, b.unit with
  | some u, some v => u.launch == v.launch && (b.run == .running)
  | _, _ => false

/-- The partner of a port exists (R102): present, enabled, and, when resident, of the same launch. -/
def State.partnerOk (s : State) (n : Nat) : Bool :=
  s.coreEnabled n && (s.retries n s.me.ctx || sameLaunch s.me (s.core n))

/-- A receive queue has room for one more word (R100, R101). -/
def Core.portRoom (c : Core) (q : Nat) : Bool :=
  match c.ports[q]? with
  | some pq => decide (pq.hw.length < 16) || (c.user.portmap.getLsbD q && decide (pq.spillCount < 64))
  | none => false

/-- A word arrives at a receive queue with room: the hardware queue, or the tail of the spill area (R100). Where in the
area's 64 words it lies the manual does not say: the area is a ring. DESIGN CHOICE (log 40). -/
def State.portDeliver (s : State) (core q : Nat) (w : Word) : State :=
  let c := s.core core
  match c.ports[q]? with
  | none => s
  | some pq =>
    if pq.hw.length < 16 ∧ pq.spillCount = 0 then
      s.setCore core { c with ports := c.ports.setIfInBounds q { pq with hw := pq.hw ++ [w] } }
    else
      let slot := (pq.spillHead + pq.spillCount) % 64
      let s := s.setCore core { c with ports := c.ports.setIfInBounds q { pq with spillCount := pq.spillCount + 1 } }
      s.writeMem (localKey core (c.spillBase q + 8 * slot)) (leBytes 8 w.toNat)

/-- Take the head of a receive queue; the hardware queue refills from the spill area (R100). -/
def State.portTake (s : State) (q : Nat) : Option (Word × State) :=
  match s.me.ports[q]? with
  | some pq =>
    match pq.hw with
    | [] => none
    | w :: rest =>
      let pq' : PortQueue :=
        if pq.spillCount = 0 then { pq with hw := rest }
        else
          let k := localKey s.me.id (s.me.spillBase q + 8 * pq.spillHead)
          { hw := rest ++ [BitVec.ofNat 64 (s.peek k 8)], spillHead := (pq.spillHead + 1) % 64, spillCount := pq.spillCount - 1 }
      some (w, { s with me := { s.me with ports := s.me.ports.setIfInBounds q pq' } })
  | none => none

/-- Reading a port register as an operand (R99, R102). -/
def portRead (n : Nat) : M Word := do
  let s ← look
  if n < 28 then
    match neighbour s.me.id (n - 24) with
    | none => trap 3 (BitVec.ofNat 64 n)
    | some m => if s.partnerOk m then pure () else trap 3 (BitVec.ofNat 64 n)
  match s.portTake (n - 24) with
  | none => stall (.portRead n)
  | some (w, s') => do change (fun _ => s'); pure w

/-- The partner of a port as a destination: where its words go, or cause 3 (R98, R102). -/
def portPartner (n : Nat) : M (Nat × Nat) := do
  let s ← look
  match s.me.portTarget (n - 24) with
  | none => trap 3 (BitVec.ofNat 64 n)
  | some t => if s.partnerOk t.1 then pure t else trap 3 (BitVec.ofNat 64 n)

/-- Writing a port register as a destination: one word is sent (R99, R101, R102). -/
def portWrite (n : Nat) (w : Word) : M Unit := do
  let (core, q) ← portPartner n
  let s ← look
  if s.retries core s.me.ctx then stall (.portRetry n)
  else if !(s.core core).portRoom q then stall (.portWrite n)
  else change (fun s => s.portDeliver core q w)

/-- A general register as it is stored: g0 reads 0 (R217). -/
def Core.gpr (c : Core) (n : Nat) : Word := if n = 0 then 0 else c.g[n]?.getD 0

/-- Write a general register: a write to g0 is discarded (R217). -/
def Core.setGpr (c : Core) (n : Nat) (w : Word) : Core := if n = 0 then c else { c with g := c.g.setIfInBounds n w }

/-- A general register as the bank in use has it: g16 to g23 of the user-interrupt context are registers of their own
(R54), here 48 to 55. -/
def Core.bankReg (c : Core) (n : Nat) : Nat := if 16 ≤ n ∧ n < 24 ∧ c.sup.uia = true then n + 32 else n

/-- A register that is the destination of a batched atomic still held (R151): before the core's arrival cause 13,
after it the access waits for the episode's completion. -/
def pendingCheck (n : Nat) : M Unit := do
  let c ← meM
  if c.pendingRegs.contains (c.bankReg n) then
    if c.batchArrived then stall (.pendingReg n) else trapWord 13
  else pure ()

/-- The level an instruction runs at: 0 user, 1 user-interrupt context, 2 supervisor. -/
def Core.level (c : Core) : Nat := if c.super then 2 else if c.sup.uia then 1 else 0

/-- Reading a register as an operand (R99, R151, R217). -/
def readReg (r : BitVec 5) : M Word := do
  let c ← meM
  if c.isPort r.toNat then portRead r.toNat
  else do pendingCheck r.toNat; pure (c.gpr r.toNat)

/-- Writing a register as a destination (R99, R151, R217). -/
def writeReg (r : BitVec 5) (w : Word) : M Unit := do
  let c ← meM
  if c.isPort r.toNat then portWrite r.toNat w
  else do pendingCheck r.toNat; changeMe (fun c => c.setGpr r.toNat w)

/-- A vector register. -/
def Core.vr (c : Core) (n : Nat) : VReg := c.v[n]?.getD 0
/-- Write a vector register. -/
def Core.setVr (c : Core) (n : Nat) (x : VReg) : Core := { c with v := c.v.setIfInBounds n x }
/-- A predicate register; p0 reads all ones (R217). -/
def Core.pr (c : Core) (n : Nat) : Word := if n = 0 then 0xFFFFFFFFFFFFFFFF else c.p[n]?.getD 0
/-- Write a predicate register; a write to p0 is discarded. -/
def Core.setPr (c : Core) (n : Nat) (x : Word) : Core := if n = 0 then c else { c with p := c.p.setIfInBounds n x }

/-- A free value of a given width: nothing is known of it; the counter moves on (log 3). -/
def freeWord : M Word := do
  let s ← look
  change State.draw
  pure (Config.freeValue s.fresh)

/-- The watchdog's count restarts at a progress event (R55). -/
def Core.progress (c : Core) (cycle : Nat) : Core := { c with wdBase := cycle }

end Sys2Proof.Machine
end

