-- ==== Sys2Proof/Machine/Access.lean ====
section
/-!
DEFINITION. The address decoder: windows (R57 to R61), the translation tree and its checks in order (R62 to R68),
the checks of an access (R241, R272), the L1 caches (R129, R140), and the accesses of a core and of an engine.
-/
namespace Sys2Proof.Machine

open Sys2Proof

/-- The kinds of access the checks distinguish (R57, R66). -/
inductive Acc where
  | load
  | store
  | amo
  | fetch
  deriving DecidableEq, Repr

/-- The access writes. -/
def Acc.writes : Acc → Bool
  | .store => true
  | .amo => true
  | _ => false

/-- The window of an address with the offset in it (R57). -/
inductive Window where
  | paged
  | global (core off : Nat)
  | self (off : Nat)
  | shared (die off : Nat)
  | trigger (handle : Nat)
  | outside
  deriving DecidableEq, Repr

/-- Bits 63:44 select the window; an offset at or above its limit lies outside (R57). -/
def windowOf (va : Nat) : Window :=
  if va < 2 ^ 47 then .paged
  else
    let off := va % 2 ^ 44
    match va / 2 ^ 44 with
    | 8 => if off < 2 ^ 32 ∧ off % 2 ^ 20 < 0x40000 then .global (off / 2 ^ 20) (off % 2 ^ 20) else .outside
    | 9 => if off < 0x40000 then .self off else .outside
    | 10 => if off < 2 ^ 30 ∧ off % 2 ^ 28 < 0x8000000 then .shared (off / 2 ^ 28) (off % 2 ^ 28) else .outside
    | 11 => if off < 4096 * 8 then .trigger (off / 8) else .outside
    | _ => .outside

/-! ## The walk -/

/-- What a translation finds. -/
inductive Xlat where
  /-- the location of the byte -/
  | ok (key : Nat)
  | fault (cause : Nat)
  /-- a write met MIG = 1 (R70) -/
  | migrating
  deriving DecidableEq, Repr

/-- The page descriptor a walk reaches, and whether its page is one of 2 MiB, or the cause of the first failing check
on the way (R62, R63, R66). -/
def State.descriptor (s : State) (ptroot : Nat) (va : Nat) : Except Nat (Bool × Nat) :=
  let base := ptroot % 2 ^ 46 / 2 ^ 15 * 2 ^ 15
  if !stackedPopulated base then .error 3
  else
    let l0 := s.peek (stackedKey (base + 8 * natBits va 46 35)) 8
    let next := natBits l0 45 15 * 2 ^ 15
    if natBits l0 0 0 = 0 ∨ natBits l0 63 46 ≠ 0 ∨ natBits l0 14 1 ≠ 0 ∨ !stackedPopulated next then .error 3
    else
      let rd := s.peek (stackedKey (next + 8 * natBits va 34 23)) 8
      let leaf := natBits rd 45 10 * 2 ^ 10
      let sel := natBits rd 1 0
      if natBits rd 63 46 ≠ 0 ∨ natBits rd 9 2 ≠ 0 ∨ sel = 3 ∨ !stackedPopulated leaf then .error 3
      else if sel = 0 then .error 4
      else .ok (sel == 2, s.peek (stackedKey (leaf + 8 * (if sel = 2 then natBits va 22 21 else natBits va 22 16))) 8)

/-- A walk's page descriptor, or the cause of its first failing check: steps 1 and 2 of R66 (R62 to R64). -/
def State.walk (s : State) (ptroot : Nat) (va : Nat) : Except Nat TlbEntry :=
  match s.descriptor ptroot va with
  | .error c => .error c
  | .ok (big, d) =>
    if natBits d 0 0 = 0 ∨ natBits d 15 9 ≠ 0 ∨ natBits d 6 5 = 3 ∨ (big ∧ natBits d 20 16 ≠ 0) then .error 3
    else if natBits d 1 1 = 0 then .error 4
    else .ok { ctx := 0, page := if big then va / 2 ^ 21 * 32 else va / 2 ^ 16, big := big, desc := BitVec.ofNat 64 d }

/-- Steps 3 to 7 of R66 on a present page's descriptor. -/
def checkDesc (e : TlbEntry) (va : Nat) (acc : Acc) : Xlat :=
  let d := e.desc.toNat
  let frame := natBits d 45 16 * 2 ^ 16
  let tier := natBits d 6 5
  let off := if e.big then va % 2 ^ 21 else va % 2 ^ 16
  if (tier = 0 ∧ !stackedPopulated frame) ∨ (tier = 1 ∧ !lpddrPopulated frame) then .fault 3
  else if natBits d 8 8 = 1 then .fault 6
  else
    let rd := natBits d 2 2 = 1
    let w := natBits d 3 3 = 1
    let x := natBits d 4 4 = 1
    let allowed : Bool := match acc with
      | .load => decide rd
      | .store => decide w
      | .amo => decide rd && decide w && decide (tier = 0)
      | .fetch => decide x && decide (tier ≠ 2)
    if !allowed then .fault 5
    else if natBits d 7 7 = 1 ∧ acc.writes then .migrating
    else .ok (match tier with
      | 0 => stackedKey (frame + off)
      | 1 => lpddrKey (frame + off)
      | _ => hostKey (frame + off))

/-- A cached translation covers an address under a context (R68). -/
def TlbEntry.covers (e : TlbEntry) (ctx : BitVec 16) (va : Nat) : Bool :=
  e.ctx == ctx && (if e.big then decide (va / 2 ^ 21 * 32 = e.page) else decide (va / 2 ^ 16 = e.page))

/-- Remove later duplicates. -/
def dedup {α : Type} [BEq α] : List α → List α
  | [] => []
  | a :: t => a :: (dedup t).filter (fun b => !(b == a))

/-- Choose among what the manual allows: the first when there is one, otherwise a free choice (log 3). -/
def pick {α : Type} (d : α) (cands : List α) (fresh : Nat) : α :=
  match cands with
  | [] => d
  | [a] => a
  | a :: t => nth a (a :: t) (Config.freeChoice fresh % (t.length + 1))

/-- A translation under a core's context: the walk now, or a translation still cached, which R68 allows to be used
until a TLBINV covers it. The candidates are told apart by what the access does. -/
def State.translate (s : State) (c : Core) (tlb : List TlbEntry) (va : Nat) (acc : Acc) : List (Xlat × Option TlbEntry) :=
  let ctx := BitVec.ofNat 16 c.ctx
  let now : Xlat × Option TlbEntry := match s.walk c.sup.ptroot.toNat va with
    | .error cause => (.fault cause, none)
    | .ok e =>
      let e := { e with ctx := ctx }
      let r := checkDesc e va acc
      (r, match r with | .fault _ => none | _ => some e)
  let old := (tlb.filter (fun e => e.covers ctx va)).map (fun e => (checkDesc e va acc, some e))
  now :: old.filter (fun x => !(x.1 == now.1))

/-- A core's second-level TLB (R68). -/
def State.l2 (s : State) (core : Nat) : List TlbEntry := (s.l2tlb.filter (fun x => x.1 == trussOf core)).map (·.2)

/-- Remember a translation: at most cap entries, the oldest goes (R68: the order is not architectural). -/
def cacheEntry (cap : Nat) (e : TlbEntry) (l : List TlbEntry) : List TlbEntry :=
  if l.contains e then l else (e :: l.filter (fun x => !(x.ctx == e.ctx && x.page == e.page && x.big == e.big))).take cap

/-- The second-level TLB of a core's truss remembers a translation. -/
def State.cacheL2 (s : State) (core : Nat) (e : TlbEntry) : State :=
  let t := trussOf core
  if (s.l2 core).contains e then s
  else { s with l2tlb := (cacheEntry 4096 e (s.l2 core)).map (fun x => (t, x)) ++ s.l2tlb.filter (fun x => x.1 != t) }

/-! ## The pages of DRAM that a context holds (R42, R67) -/

/-- Where the page of a descriptor begins in DRAM; none in the host tier (R64, R65). -/
def dramPage (d : Nat) : Option Nat :=
  let frame := natBits d 45 16 * 2 ^ 16
  match natBits d 6 5 with
  | 0 => some (stackedKey frame)
  | 1 => some (lpddrKey frame)
  | _ => none

/-- The size of a page (R62). -/
def pageSize (big : Bool) : Nat := if big then 2 ^ 21 else 2 ^ 16

/-- The leaf descriptors of a translation tree: location, and whether the page is one of 2 MiB (R62 to R64). -/
def State.leaves (s : State) (ptroot : Nat) : List (Nat × Bool) :=
  let base := ptroot % 2 ^ 46 / 2 ^ 15 * 2 ^ 15
  if !stackedPopulated base then []
  else (List.range 4096).flatMap (fun i =>
    let l0 := s.peek (stackedKey (base + 8 * i)) 8
    let next := natBits l0 45 15 * 2 ^ 15
    if natBits l0 0 0 = 0 ∨ !stackedPopulated next then []
    else (List.range 4096).flatMap (fun j =>
      let rd := s.peek (stackedKey (next + 8 * j)) 8
      let leaf := natBits rd 45 10 * 2 ^ 10
      let n := match natBits rd 1 0 with
        | 1 => 128
        | 2 => 4
        | _ => 0
      if n = 0 ∨ !stackedPopulated leaf then []
      else (List.range n).map (fun q => (stackedKey (leaf + 8 * q), natBits rd 1 0 == 2))))

/-- A descriptor maps a page that is there: V = 1 and P = 1 (R64, R67). -/
def descPresent (d : Nat) : Bool := natBits d 0 0 == 1 && natBits d 1 1 == 1

/-- A page descriptor maps a location of the stacked or the LPDDR tier (R64, R65). -/
def mapsKey (d : Nat) (big : Bool) (k : Nat) : Bool :=
  match dramPage d with
  | some lo => decide (lo ≤ k) && decide (k < lo + pageSize big)
  | none => false

/-- The DRAM pages that a tree maps: where each begins, and its size. -/
def State.dramPages (s : State) (ptroot : Nat) : List (Nat × Nat) :=
  (s.leaves ptroot).filterMap (fun l =>
    let d := s.peek l.1 8
    if descPresent d then (dramPage d).map (fun k => (k, pageSize l.2)) else none)

/-- A page that a translation of a context leads to is the context's from now on; only contexts hold pages (log 24). -/
def State.own (s : State) (ctx va : Nat) (e : TlbEntry) : State :=
  match dramPage e.desc.toNat with
  | none => s
  | some k =>
    let f : Frame := { key := k, size := pageSize e.big, ctx := ctx, va := va / 2 ^ 16 * 2 ^ 16 }
    if (s.ctx? ctx).isSome && !s.frames.any (fun x => x.key == k && x.size == f.size && x.ctx == ctx) then { s with frames := f :: s.frames } else s

/-- The pages of n bytes at va, as a core's context has them mapped, are the context's (fuel: one per page). -/
def State.touchPages (s : State) (c : Core) : Nat → Nat → Nat → State
  | 0, _, _ => s
  | f + 1, va, n =>
    if n = 0 ∨ 2 ^ 47 ≤ va then s
    else
      let m := min n (65536 - va % 65536)
      let t := match s.walk c.sup.ptroot.toNat va with | .ok e => s.own c.ctx va e | .error _ => s
      t.touchPages c f (va + m) (n - m)

/-- An engine has reached n bytes at va under a core's context. -/
def State.touch (s : State) (c : Core) (va n : Nat) : State :=
  if (s.ctx? c.ctx).isSome then s.touchPages c (n / 65536 + 2) va n else s

/-! ## Caches -/

/-- The line of a location. -/
def lineOf (k : Nat) : Nat := k / 64 * 64

/-- The bytes a cached copy holds at a location range, when one line covers it. -/
def cachedBytes (l : List CacheLine) (k n : Nat) : Option (List Byte) :=
  match l.find? (fun c => c.key == lineOf k) with
  | some c => if k % 64 + n ≤ 64 then some ((c.bytes.drop (k % 64)).take n) else none
  | none => none

/-- Put bytes into the cached copies they fall into (write-through, R140). -/
def updateLines (l : List CacheLine) (k : Nat) (bs : List Byte) : List CacheLine :=
  l.map (fun c => { c with bytes := (List.range c.bytes.length).map (fun i =>
    let a := c.key + i
    if k ≤ a ∧ a < k + bs.length then nth 0 bs (a - k) else nth 0 c.bytes i) })

/-- Drop the cached copies a range falls into (R133). -/
def dropLines (l : List CacheLine) (k n : Nat) : List CacheLine := l.filter (fun c => !(overlaps c.key 64 k n))

/-- A line is filled from memory; 512 lines of 64 bytes make 32 KiB. -/
def fillLine (m : List Host.Cell) (l : List CacheLine) (k : Nat) : List CacheLine :=
  if l.any (fun c => c.key == lineOf k) then l else ({ key := lineOf k, bytes := Memory.readBytes m (lineOf k) 64 } :: l).take 512

/-! ## A core's accesses -/

/-- Where an access of a core lands. -/
structure Place where
  key : Nat
  paged : Bool
  deriving DecidableEq, Repr

/-- The shared part of a core's local store, as its unit's launch reserved it (R58, R97). -/
def Core.inShared (c : Core) (off n : Nat) : Bool :=
  match c.unit with
  | some u => decide (u.privKiB * 1024 ≤ off) && decide (off + n ≤ (u.privKiB + u.sharedKiB) * 1024)
  | none => false

/-- The answer of a core's router to a global-window access (R49, R58). -/
inductive RouterReply where
  | ok
  | fault
  | retry
  deriving DecidableEq, Repr

/-- The checks at the owner's router (R58), after the retry replies of R49. -/
def State.router (s : State) (ctx core off n : Nat) : RouterReply :=
  if !s.coreEnabled core then .fault
  else if s.retries core ctx then .retry
  else
    let c := s.core core
    if c.runsCtx ctx && c.inShared off n then .ok else .fault

/-- The context that owns the shared-memory page of an offset (R60). -/
def State.ownsPage (s : State) (ctx die off : Nat) : Bool := s.pageOwner.any (fun p => p.1 == die * 1024 + off / 2 ^ 17 && p.2 == ctx)

/-- Translate a paged address of the current core, remembering the translation (R66, R68, R70). -/
def xlatM (va : Nat) (acc : Acc) : M Nat := do
  let s ← look
  let tlb := (if acc = .fetch then s.me.itlb else s.me.dtlb) ++ s.l2 s.me.id
  let cands := s.translate s.me tlb va acc
  let r := pick (.fault 3, none) cands s.fresh
  if 1 < cands.length then change State.draw
  match r.1 with
  | .fault c => trap c (BitVec.ofNat 64 va)
  | .migrating => stall (.migWrite (BitVec.ofNat 64 va))
  | .ok k => do
    match r.2 with
    | some e =>
      if acc = .fetch then changeMe (fun c => { c with itlb := cacheEntry 16 e c.itlb })
      else changeMe (fun c => { c with dtlb := cacheEntry 32 e c.dtlb })
      change (fun s => (s.cacheL2 s.me.id e).own s.me.ctx va e)
    | none => pure ()
    pure k

/-- In deterministic mode outside an exchange stretch no access reaches another core's store or die shared memory
(R79, R241 step 3). -/
def detForbids (s : State) (w : Window) : Bool :=
  s.me.det && !s.me.inExchange && (match w with
    | .global core _ => core != s.me.id
    | .shared _ _ => true
    | _ => false)

/-- The checks of R241 (and 1, 2, 4 of R272) in their order, for n bytes at va; det says whether step 3 applies. -/
def place (va : Word) (n : Nat) (acc : Acc) (det : Bool := true) : M Place := do
  let s ← look
  let a := va.toNat
  let w := windowOf a
  if a % n ≠ 0 then trap 2 va
  else if w = .outside then trap 3 va
  else if (match w with | .trigger _ => true | _ => false) then trap 3 va
  else if det && detForbids s w then trapWord 13
  else match w with
    | .paged => do let k ← xlatM a acc; pure ⟨k, true⟩
    | .global core off =>
      match s.router s.me.ctx core off n with
      | .fault => trap 3 va
      | .retry => stall (.retry va)
      | .ok => pure ⟨localKey core off, false⟩
    | .self off => pure ⟨localKey s.me.id off, false⟩
    | .shared die off => if s.ownsPage s.me.ctx die off then pure ⟨sharedKey die off, false⟩ else trap 3 va
    | _ => trap 3 va

/-- The cached lines after a read of bytes at a location: a stale line is refilled once memory's own value has been
read, so that no later read goes back behind it (R128, R136); a miss fills the line (R140). -/
def readLine (m : List Host.Cell) (l : List CacheLine) (k : Nat) (bs : List Byte) : List CacheLine :=
  if cachedBytes l k bs.length = some bs then l else fillLine m (dropLines l (lineOf k) 64) k

/-- The bytes a load of a place returns: from memory, or from the core's L1 line where the page is cached (R136,
R140). -/
def loadAt (p : Place) (n : Nat) : M (List Byte) := do
  let s ← look
  let fresh := Memory.readBytes s.mem p.key n
  if p.paged then
    let cands := dedup (fresh :: (match cachedBytes s.me.l1d p.key n with | some b => [b] | none => []))
    if 1 < cands.length then change State.draw
    let bs := pick fresh cands s.fresh
    changeMe (fun c => { c with l1d := readLine s.mem c.l1d p.key bs })
    pure bs
  else pure fresh

/-- A store reaches its place; the core's own cached copy is written too (R128, R140). -/
def storeAt (p : Place) (bs : List Byte) : M Unit := do
  change (fun s => s.writeMem p.key bs)
  if p.paged then changeMe (fun c => { c with l1d := updateLines c.l1d p.key bs })
  else pure ()

/-- load(a, n) of R217, with the uncorrectable error of R241 step 6. -/
def loadM (va : Word) (n : Nat) : M Nat := do
  let p ← place va n .load
  let s ← look
  if s.eccError p.key n then trap 22 va
  else do let bs ← loadAt p n; pure (leVal bs)

/-- store(a, n, x) of R217. -/
def storeM (va : Word) (n : Nat) (x : Nat) : M Unit := do
  let p ← place va n .store
  storeAt p (leBytes n x)

/-- An acquire, or a FENCE with RA, at a scope wider than CORE invalidates the L1 data cache (R140). -/
def acquireM (scope : Nat) : M Unit :=
  if scope = 0 then pure () else changeMe (fun c => { c with l1d := [] })

/-! ## An engine's accesses -/

/-- What an engine's access meets. -/
inductive EngRes where
  | ok (key : Nat)
  | fault (cause : Nat)
  | migrating
  | retry
  deriving DecidableEq, Repr

/-- An engine's access of n bytes at va for a core, under its context, by the rules of the window (R108, R199, R340). -/
def State.engPlace (s : State) (c : Core) (va n : Nat) (acc : Acc) : EngRes :=
  match windowOf va with
  | .paged =>
    match (pick (.fault 3, none) (s.translate c (s.l2 c.id) va acc) s.fresh).1 with
    | .ok k => .ok k
    | .fault cause => .fault cause
    | .migrating => .migrating
  | .global core off =>
    match s.router c.ctx core off n with
    | .ok => .ok (localKey core off)
    | .fault => .fault 3
    | .retry => .retry
  | .self off => if off + n ≤ 0x40000 then .ok (localKey c.id off) else .fault 3
  | .shared die off => if s.ownsPage c.ctx die off then .ok (sharedKey die off) else .fault 3
  | _ => .fault 3

/-- How far the bytes from va lie in one page of 64 KiB, at most n. -/
def chunkLen (va n : Nat) : Nat := min n (65536 - va % 65536)

/-- An engine reads n bytes, page by page (fuel: one per page). -/
def State.engRead (s : State) (c : Core) : Nat → Nat → Nat → Except EngRes (List Byte)
  | 0, _, n => if n = 0 then .ok [] else .error (.fault 3)
  | f + 1, va, n =>
    if n = 0 then .ok []
    else
      let m := chunkLen va n
      match s.engPlace c va m .load with
      | .ok k =>
        if s.eccError k m then .error (.fault 22)
        else match s.engRead c f (va + m) (n - m) with
          | .ok bs => .ok (Memory.readBytes s.mem k m ++ bs)
          | .error e => .error e
      | r => .error r

/-- An engine read of any length. -/
def State.engLoad (s : State) (c : Core) (va n : Nat) : Except EngRes (List Byte) := s.engRead c (n / 65536 + 2) va n

/-- An engine writes bytes for a core, page by page; the issuing core's L1 copies of what it writes are dropped (R133). -/
def State.engWrite (s : State) (c : Core) : Nat → Nat → List Byte → Except (EngRes × State) State
  | 0, _, bs => if bs.isEmpty then .ok s else .error (.fault 3, s)
  | f + 1, va, bs =>
    if bs.isEmpty then .ok s
    else
      let m := chunkLen va bs.length
      match s.engPlace c va m .store with
      | .ok k =>
        let s := s.writeMem k (bs.take m)
        let s := (s.updCore c.id (fun c => { c with l1d := dropLines c.l1d k m })).touch c va m
        s.engWrite c f (va + m) (bs.drop m)
      | r => .error (r, s)

/-- An engine write of any length under a core's context. -/
def State.engStoreAs (s : State) (c : Core) (va : Nat) (bs : List Byte) : Except (EngRes × State) State :=
  s.engWrite c (bs.length / 65536 + 2) va bs

/-- An engine write of any length for a core. -/
def State.engStore (s : State) (core va : Nat) (bs : List Byte) : Except (EngRes × State) State :=
  s.engStoreAs (s.core core) va bs

/-- The hub's agent for a context: it translates under the context, from a given core's place. -/
def State.hubAgent (s : State) (ctx core : Nat) : Core :=
  let c := s.core core
  { c with sup := { c.sup with
      ctxid := BitVec.ofNat 64 ctx
      ptroot := match s.ctx? ctx with | some x => x.ptroot | none => 0 } }

/-! ## Instruction fetch -/

/-- Fetch at pc: an address that is no multiple of 4 is misaligned, another window is cause 3, the page is checked
for execution (R57, R66, R246); without an IFENCE the word may come from the L1 instruction cache (R129). -/
def fetchM : M IWord := do
  let s ← look
  let a := s.me.pc.toNat
  if a % 4 ≠ 0 then trap 2 s.me.pc
  else if windowOf a ≠ .paged then trap 3 s.me.pc
  else do
    let k ← xlatM a .fetch
    let s ← look
    if s.eccError k 4 then trap 22 s.me.pc
    else do
      let fresh := Memory.readBytes s.mem k 4
      let cands := dedup (fresh :: (match cachedBytes s.me.l1i k 4 with | some b => [b] | none => []))
      if 1 < cands.length then change State.draw
      let bs := pick fresh cands s.fresh
      changeMe (fun c => { c with l1i := readLine s.mem c.l1i k bs })
      pure (BitVec.ofNat 32 (leVal bs))

end Sys2Proof.Machine
end

