-- ==== Sys2Proof/Machine/Alu.lean ====
section
/-!
DEFINITION. The ALU and the immediate instructions (R233 to R238).
-/
namespace Sys2Proof.Machine

open Sys2Proof

/-- The high half of the signed 128-bit product (R234). -/
def mulhWord (a b : Word) : Word := BitVec.ofInt 64 (a.toInt * b.toInt / 2 ^ 64)

/-- The high half of the unsigned 128-bit product (R234). -/
def mulhuWord (a b : Word) : Word := BitVec.ofNat 64 (a.toNat * b.toNat / 2 ^ 64)

/-- DIV (R235): truncates toward zero; by zero all ones; −2^63 / −1 is −2^63. -/
def divWord (a b : Word) : Word :=
  if b = 0 then 0xFFFFFFFFFFFFFFFF
  else if a = 0x8000000000000000 ∧ b = 0xFFFFFFFFFFFFFFFF then 0x8000000000000000
  else BitVec.ofInt 64 (a.toInt.tdiv b.toInt)

/-- REM (R235): the sign of a; by zero a; −2^63 by −1 is 0. -/
def remWord (a b : Word) : Word :=
  if b = 0 then a
  else if a = 0x8000000000000000 ∧ b = 0xFFFFFFFFFFFFFFFF then 0
  else BitVec.ofInt 64 (a.toInt - b.toInt * a.toInt.tdiv b.toInt)

/-- DIVU (R235). -/
def divuWord (a b : Word) : Word := if b = 0 then 0xFFFFFFFFFFFFFFFF else BitVec.ofNat 64 (a.toNat / b.toNat)

/-- REMU (R235). -/
def remuWord (a b : Word) : Word := if b = 0 then a else BitVec.ofNat 64 (a.toNat - b.toNat * (a.toNat / b.toNat))

/-- Leading zero bits of an n-bit number (R234). -/
def clzNat : Nat → Nat → Nat
  | 0, _ => 0
  | n + 1, x => if x.testBit n then 0 else 1 + clzNat n x

/-- Trailing zero bits of an n-bit number (R234). -/
def ctzNat : Nat → Nat → Nat
  | 0, _ => 0
  | n + 1, x => if x % 2 = 1 then 0 else 1 + ctzNat n (x / 2)

/-- One bits of an n-bit number (R234). -/
def popNat : Nat → Nat → Nat
  | 0, _ => 0
  | n + 1, x => x % 2 + popNat n (x / 2)

/-- BSWAP (R234): byte i of the result is byte 7 − i of a. -/
def bswapWord (a : Word) : Word := BitVec.ofNat 64 (leVal (leBytes 8 a.toNat).reverse)

/-- The shape of a three-register ALU instruction: ra, then rb, are read before rd is written (R232, R234). -/
def aluBody (rd ra rb : BitVec 5) (f : Word → Word → Word) : M Unit := do
  let a ← readReg ra
  let b ← readReg rb
  writeReg rd (f a b)

/-- The shape of an instruction with one register source. -/
def unaryBody (rd ra : BitVec 5) (f : Word → Word) : M Unit := do
  let a ← readReg ra
  writeReg rd (f a)

/-- SEXT and ZEXT: the low 8 << size bits (R234). -/
def extBody (rd ra size : BitVec 5) (f : Nat → Nat → Word) : M Unit := unaryBody rd ra (fun a => f (8 * 2 ^ size.toNat) a.toNat)

/-- SEL (R234): rd is read as a third operand, after ra and rb. -/
def selBody (rd ra rb : BitVec 5) : M Unit := do
  let a ← readReg ra
  let b ← readReg rb
  let d ← readReg rd
  writeReg rd (if d ≠ 0 then a else b)

/-- INSH (R238): reads rd and replaces halfword hw. -/
def inshBody (rd : BitVec 5) (hw : BitVec 2) (imm : BitVec 16) : M Unit := do
  let d ← readReg rd
  writeReg rd (putBits d (16 * hw.toNat + 15) (16 * hw.toNat) imm.toNat)

/-- ADD (R234): a + b. -/
def execAdd (rd ra rb : BitVec 5) (s : State) : Host.Outcome State Fault Refusal :=
  runI (.add rd ra rb) (aluBody rd ra rb (fun a b => a + b)) s

/-- SUB (R234): a − b. -/
def execSub (rd ra rb : BitVec 5) (s : State) : Host.Outcome State Fault Refusal :=
  runI (.sub rd ra rb) (aluBody rd ra rb (fun a b => a - b)) s

/-- AND (R234): a & b. -/
def execAnd (rd ra rb : BitVec 5) (s : State) : Host.Outcome State Fault Refusal :=
  runI (.and rd ra rb) (aluBody rd ra rb (fun a b => a &&& b)) s

/-- OR (R234): a | b. -/
def execOr (rd ra rb : BitVec 5) (s : State) : Host.Outcome State Fault Refusal :=
  runI (.or rd ra rb) (aluBody rd ra rb (fun a b => a ||| b)) s

/-- XOR (R234): a ^ b. -/
def execXor (rd ra rb : BitVec 5) (s : State) : Host.Outcome State Fault Refusal :=
  runI (.xor rd ra rb) (aluBody rd ra rb (fun a b => a ^^^ b)) s

/-- ANDN (R234): a & ~b. -/
def execAndn (rd ra rb : BitVec 5) (s : State) : Host.Outcome State Fault Refusal :=
  runI (.andn rd ra rb) (aluBody rd ra rb (fun a b => a &&& ~~~b)) s

/-- SLL (R234): a << b[5:0]. -/
def execSll (rd ra rb : BitVec 5) (s : State) : Host.Outcome State Fault Refusal :=
  runI (.sll rd ra rb) (aluBody rd ra rb (fun a b => a <<< (b.toNat % 64))) s

/-- SRL (R234): a >> b[5:0], zeros in. -/
def execSrl (rd ra rb : BitVec 5) (s : State) : Host.Outcome State Fault Refusal :=
  runI (.srl rd ra rb) (aluBody rd ra rb (fun a b => a >>> (b.toNat % 64))) s

/-- SRA (R234): a >> b[5:0], copies of a[63] in. -/
def execSra (rd ra rb : BitVec 5) (s : State) : Host.Outcome State Fault Refusal :=
  runI (.sra rd ra rb) (aluBody rd ra rb (fun a b => a.sshiftRight (b.toNat % 64))) s

/-- ROR (R234): a rotated right by b[5:0]. -/
def execRor (rd ra rb : BitVec 5) (s : State) : Host.Outcome State Fault Refusal :=
  runI (.ror rd ra rb) (aluBody rd ra rb (fun a b => a.rotateRight (b.toNat % 64))) s

/-- SLT (R234): 1 if a < b signed. -/
def execSlt (rd ra rb : BitVec 5) (s : State) : Host.Outcome State Fault Refusal :=
  runI (.slt rd ra rb) (aluBody rd ra rb (fun a b => bitWord (a.slt b))) s

/-- SLTU (R234): 1 if a < b unsigned. -/
def execSltu (rd ra rb : BitVec 5) (s : State) : Host.Outcome State Fault Refusal :=
  runI (.sltu rd ra rb) (aluBody rd ra rb (fun a b => bitWord (a.ult b))) s

/-- MIN (R234): the lesser, signed. -/
def execMin (rd ra rb : BitVec 5) (s : State) : Host.Outcome State Fault Refusal :=
  runI (.min rd ra rb) (aluBody rd ra rb (fun a b => if a.slt b then a else b)) s

/-- MAX (R234): the greater, signed. -/
def execMax (rd ra rb : BitVec 5) (s : State) : Host.Outcome State Fault Refusal :=
  runI (.max rd ra rb) (aluBody rd ra rb (fun a b => if a.slt b then b else a)) s

/-- MINU (R234): the lesser, unsigned. -/
def execMinu (rd ra rb : BitVec 5) (s : State) : Host.Outcome State Fault Refusal :=
  runI (.minu rd ra rb) (aluBody rd ra rb (fun a b => if a.ult b then a else b)) s

/-- MAXU (R234): the greater, unsigned. -/
def execMaxu (rd ra rb : BitVec 5) (s : State) : Host.Outcome State Fault Refusal :=
  runI (.maxu rd ra rb) (aluBody rd ra rb (fun a b => if a.ult b then b else a)) s

/-- MUL (R234): (a × b)[63:0]. -/
def execMul (rd ra rb : BitVec 5) (s : State) : Host.Outcome State Fault Refusal :=
  runI (.mul rd ra rb) (aluBody rd ra rb (fun a b => a * b)) s

/-- MULH (R234): the high half of the signed product. -/
def execMulh (rd ra rb : BitVec 5) (s : State) : Host.Outcome State Fault Refusal :=
  runI (.mulh rd ra rb) (aluBody rd ra rb (fun a b => mulhWord a b)) s

/-- MULHU (R234): the high half of the unsigned product. -/
def execMulhu (rd ra rb : BitVec 5) (s : State) : Host.Outcome State Fault Refusal :=
  runI (.mulhu rd ra rb) (aluBody rd ra rb (fun a b => mulhuWord a b)) s

/-- DIV (R234): signed quotient (R235). -/
def execDiv (rd ra rb : BitVec 5) (s : State) : Host.Outcome State Fault Refusal :=
  runI (.div rd ra rb) (aluBody rd ra rb (fun a b => divWord a b)) s

/-- DIVU (R234): unsigned quotient (R235). -/
def execDivu (rd ra rb : BitVec 5) (s : State) : Host.Outcome State Fault Refusal :=
  runI (.divu rd ra rb) (aluBody rd ra rb (fun a b => divuWord a b)) s

/-- REM (R234): signed remainder (R235). -/
def execRem (rd ra rb : BitVec 5) (s : State) : Host.Outcome State Fault Refusal :=
  runI (.rem rd ra rb) (aluBody rd ra rb (fun a b => remWord a b)) s

/-- REMU (R234): unsigned remainder (R235). -/
def execRemu (rd ra rb : BitVec 5) (s : State) : Host.Outcome State Fault Refusal :=
  runI (.remu rd ra rb) (aluBody rd ra rb (fun a b => remuWord a b)) s

/-- CLZ (R234): number of leading zero bits; 64 when a = 0. -/
def execClz (rd ra : BitVec 5) (s : State) : Host.Outcome State Fault Refusal :=
  runI (.clz rd ra) (unaryBody rd ra (fun a => BitVec.ofNat 64 (clzNat 64 a.toNat))) s

/-- CTZ (R234): number of trailing zero bits; 64 when a = 0. -/
def execCtz (rd ra : BitVec 5) (s : State) : Host.Outcome State Fault Refusal :=
  runI (.ctz rd ra) (unaryBody rd ra (fun a => BitVec.ofNat 64 (ctzNat 64 a.toNat))) s

/-- POPC (R234): number of one bits. -/
def execPopc (rd ra : BitVec 5) (s : State) : Host.Outcome State Fault Refusal :=
  runI (.popc rd ra) (unaryBody rd ra (fun a => BitVec.ofNat 64 (popNat 64 a.toNat))) s

/-- BSWAP (R234): the bytes in reverse order. -/
def execBswap (rd ra : BitVec 5) (s : State) : Host.Outcome State Fault Refusal :=
  runI (.bswap rd ra) (unaryBody rd ra (fun a => bswapWord a)) s

/-- SEXT (R234): the low 8 << size bits, extended. -/
def execSext (rd ra size : BitVec 5) (s : State) : Host.Outcome State Fault Refusal :=
  runI (.sext rd ra size) (extBody rd ra size sextN) s

/-- ZEXT (R234): the low 8 << size bits, extended. -/
def execZext (rd ra size : BitVec 5) (s : State) : Host.Outcome State Fault Refusal :=
  runI (.zext rd ra size) (extBody rd ra size zextN) s

/-- SEL (R234). -/
def execSel (rd ra rb : BitVec 5) (s : State) : Host.Outcome State Fault Refusal :=
  runI (.sel rd ra rb) (selBody rd ra rb) s

/-- ADDI (R236): g[ra] + sext(imm16). -/
def execAddi (rd ra : BitVec 5) (imm : BitVec 16) (s : State) : Host.Outcome State Fault Refusal :=
  runI (.addi rd ra imm) (unaryBody rd ra (fun a => a + imm.signExtend 64)) s

/-- ANDI (R236): g[ra] & zext(imm16). -/
def execAndi (rd ra : BitVec 5) (imm : BitVec 16) (s : State) : Host.Outcome State Fault Refusal :=
  runI (.andi rd ra imm) (unaryBody rd ra (fun a => a &&& imm.zeroExtend 64)) s

/-- ORI (R236): g[ra] | zext(imm16). -/
def execOri (rd ra : BitVec 5) (imm : BitVec 16) (s : State) : Host.Outcome State Fault Refusal :=
  runI (.ori rd ra imm) (unaryBody rd ra (fun a => a ||| imm.zeroExtend 64)) s

/-- XORI (R236): g[ra] ^ zext(imm16). -/
def execXori (rd ra : BitVec 5) (imm : BitVec 16) (s : State) : Host.Outcome State Fault Refusal :=
  runI (.xori rd ra imm) (unaryBody rd ra (fun a => a ^^^ imm.zeroExtend 64)) s

/-- SLTI (R236): 1 if g[ra] < sext(imm16) signed. -/
def execSlti (rd ra : BitVec 5) (imm : BitVec 16) (s : State) : Host.Outcome State Fault Refusal :=
  runI (.slti rd ra imm) (unaryBody rd ra (fun a => bitWord (a.slt (imm.signExtend 64)))) s

/-- SLTUI (R236): 1 if g[ra] < sext(imm16) taken unsigned. -/
def execSltui (rd ra : BitVec 5) (imm : BitVec 16) (s : State) : Host.Outcome State Fault Refusal :=
  runI (.sltui rd ra imm) (unaryBody rd ra (fun a => bitWord (a.ult (imm.signExtend 64)))) s

/-- SLLI (R237): g[ra] shifted by n: left. -/
def execSlli (rd ra : BitVec 5) (amt : BitVec 6) (s : State) : Host.Outcome State Fault Refusal :=
  runI (.slli rd ra amt) (unaryBody rd ra (fun a => a <<< amt.toNat)) s

/-- SRLI (R237): g[ra] shifted by n: right, zeros in. -/
def execSrli (rd ra : BitVec 5) (amt : BitVec 6) (s : State) : Host.Outcome State Fault Refusal :=
  runI (.srli rd ra amt) (unaryBody rd ra (fun a => a >>> amt.toNat)) s

/-- SRAI (R237): g[ra] shifted by n: right, copies of bit 63 in. -/
def execSrai (rd ra : BitVec 5) (amt : BitVec 6) (s : State) : Host.Outcome State Fault Refusal :=
  runI (.srai rd ra amt) (unaryBody rd ra (fun a => a.sshiftRight amt.toNat)) s

/-- RORI (R237): g[ra] shifted by n: rotated right. -/
def execRori (rd ra : BitVec 5) (amt : BitVec 6) (s : State) : Host.Outcome State Fault Refusal :=
  runI (.rori rd ra amt) (unaryBody rd ra (fun a => a.rotateRight amt.toNat)) s

/-- LUI (R238): sext(imm16 << 16, 32). -/
def execLui (rd : BitVec 5) (imm : BitVec 16) (s : State) : Host.Outcome State Fault Refusal :=
  runI (.lui rd imm) (writeReg rd ((imm ++ 0#16).signExtend 64)) s

/-- INSH (R238). -/
def execInsh (rd : BitVec 5) (hw : BitVec 2) (imm : BitVec 16) (s : State) : Host.Outcome State Fault Refusal :=
  runI (.insh rd hw imm) (inshBody rd hw imm) s

end Sys2Proof.Machine
end

