-- ==== Sys2Proof/Machine/Queue.lean ====
section
/-!
DEFINITION. The queues of a core (R106 to R117): pushing, the states of an entry, events, the completion report.
-/
namespace Sys2Proof.Machine

open Sys2Proof

/-- A transfer of channel 63 has ended, or met what stops it. -/
def KerfOp.over (k : KerfOp) : Bool := k.done || k.failed.isSome

/-- The queue id of an ENQ queue field and, for copy, a channel (R106). -/
def qidOf (field channel : Nat) : Nat := if field = 0 then channel else 63 + field

/-- The entries a queue holds at its engine (R106). -/
def qidCap (qid : Nat) : Nat := if qid < 64 then 4 else if qid = 64 then 8 else 4

/-- The oldest entry of a queue that is not complete (R114). -/
def Core.headEntry (c : Core) (qid : Nat) : Option Entry := c.entries.find? (fun e => e.qid == qid)

/-- Change the oldest entry of a queue. -/
def Core.updHead (c : Core) (qid : Nat) (f : Entry → Entry) : Core := { c with entries := replaceFirst (fun e => e.qid == qid) f c.entries }

/-- Remove the oldest entry of a queue: it is complete. -/
def Core.dropHead (c : Core) (qid : Nat) : Core := { c with entries := removeFirst (fun e => e.qid == qid) c.entries }

/-- The entries in the issue queue of a field (R107). -/
def Core.issueCount (c : Core) (field : Nat) : Nat := (c.entries.filter (fun e => e.field == field && e.state == .issued)).length

/-- The address a command's word gives as its source (R339); 0 where it gives none. -/
def sourceOf : Cmd → Word
  | .copy c => c.src.zeroExtend 64
  | .feeda c => c.src.zeroExtend 64
  | .feedb c => c.src.zeroExtend 64
  | _ => 0

/-- The address a command's word gives as its destination (R339); 0 where it gives none. -/
def destOf : Cmd → Word
  | .copy c => c.dst.zeroExtend 64
  | .fill c => c.dst.zeroExtend 64
  | .drain c => c.dst.zeroExtend 64
  | _ => 0

/-- A command word as it enters its issue queue. -/
def newEntry (field channel : Nat) (h : CmdHead) (cmd : Cmd) : Entry where
  qid := qidOf field channel
  field := field
  head := h
  cmd := cmd
  state := .issued
  pos := 0
  moved := 0
  status := 0
  cause := 0
  count := 0
  faultAddr := 0
  srcAddr := sourceOf cmd
  dstAddr := destOf cmd
  since := 0
  recordPending := false
  told := false
  recordDone := false
  lost := none
  mismatch := false
  kick := false
  job := .none

/-- The bytes a copy-class command moves in all, once its block has been read (R339). -/
def Entry.total (e : Entry) : Nat :=
  match e.cmd, e.job with
  | .copy c, _ => c.len.toNat
  | .fill c, _ => c.len.toNat
  | .feeda c, _ => c.len.toNat
  | .feedb c, _ => c.len.toNat
  | .copyg c, _ => c.len.toNat
  | .drain c, _ => c.rows.toNat * c.words.toNat * 4
  | .copynd _, .nd d => d.e0 * d.e1 * d.e2
  | .gathr c, .rows p _ => c.n.toNat * p.rowb
  | .scatr c, .scatter p _ _ => c.ntok.toNat * p.rowb
  | .scatr c, .blocks bs => c.ntok.toNat * leVal ((bs.flatten.drop 40).take 4)
  | .xsched _, .jig es _ _ _ _ => sumNat (es.map (·.bytes))
  | _, _ => 0

/-- The bytes that remain (R110, R114). -/
def Entry.remaining (e : Entry) : Nat := e.total - e.pos

/-- The manual says how many bytes the entry has left: a copy-class command has its length or, once it is read, its
block's; a QFENCE moves none; of every other command the manual names no bytes (log 3). -/
def Entry.remKnown (e : Entry) : Bool :=
  match e.cmd, e.job with
  | .copynd _, .none => false
  | .gathr _, .none => false
  | .scatr _, .none => false
  | .xsched _, .none => false
  | .qfence _, _ => true
  | _, _ => decide (e.qid < 64)

/-- The bytes remaining as a status, a record or an event gives them: a free value where the manual names none. -/
def Entry.remAt (e : Entry) (fresh : Nat) : Nat :=
  if e.remKnown then e.remaining else (Config.freeValue fresh).toNat % 2 ^ 32

/-- The counter of free values after the bytes of an entry have been told. -/
def State.drawFor (s : State) (e : Entry) : State := if e.remKnown then s else s.draw

/-- The value UIVAL or SVAL holds for an engine event (R112). -/
def EngineEvent.value (e : EngineEvent) : Word :=
  BitVec.ofNat 64 (min e.remaining 0xFFFFFFFF * 2 ^ 32 + e.kind * 2 ^ 29 + e.cause * 2 ^ 24 + e.qid * 2 ^ 16 + e.tag.toNat)

/-- The event queue has room (R113). -/
def Core.eventRoom (c : Core) : Bool := decide (c.events.length < 16) && c.heldEvents.isEmpty

/-- An event reaches a core's event queue, or waits at its engine while the queue is full (R113). -/
def Core.addEvent (c : Core) (e : EngineEvent) : Core :=
  if c.eventRoom then { c with events := c.events ++ [e] } else { c with heldEvents := c.heldEvents ++ [e] }

/-- Raise an engine event on a core (R112). -/
def State.raise (s : State) (core kind cause qid : Nat) (tag : BitVec 16) (rem : Nat) : State :=
  let ev : EngineEvent := { stamp := s.stamp, remaining := rem, kind := kind, cause := cause, qid := qid, tag := tag }
  let t := s.updCore core (fun c => c.addEvent ev)
  { t with stamp := s.stamp + 1 }

/-- The core runs a unit of a launch, or its image holds it. -/
def Core.isUnit (c : Core) (k : LaunchKey) (unit : Nat) : Bool :=
  match c.unit with | some u => u.launch == k && u.unit == unit | none => false

/-- The core a unit of a launch is on. -/
def State.unitOn (s : State) (k : LaunchKey) (unit : Nat) : Option Core :=
  s.allCores.find? (fun c => c.isUnit k unit && (c.run == .running || c.run == .saving))

/-- A unit of a launch where it is: on its core, or in its saved image; none once it has ended (R44, R83). -/
def State.findUnit (s : State) (k : LaunchKey) (unit : Nat) : Option Core :=
  match s.unitOn k unit with
  | some c => some c
  | none => ((s.contexts.flatMap (·.images)).find? (fun im => im.core.isUnit k unit)).map (·.core)

/-- Change the unit of a launch where it is (R44, R72, R83). -/
def State.atUnit (s : State) (k : LaunchKey) (unit : Nat) (f : Core → Core) : State :=
  match s.unitOn k unit with
  | some c => s.updCore c.id f
  | none => { s with contexts := s.contexts.map (fun x =>
      { x with images := x.images.map (fun im => if im.core.isUnit k unit then { im with core := f im.core } else im) }) }

/-! ## Members and marks -/

/-- A unit's core record, on its core or in its image. -/
def State.unitCore (s : State) (l : Launch) (u : Nat) : Option Core :=
  match assoc u l.units with
  | some (.on n) => some (s.core n)
  | some .saved =>
    (s.ctx? l.ctx).bind (fun x => (x.images.find? (fun i => match i.core.unit with
      | some v => v.launch == l.key && v.unit == u
      | none => false)).map (·.core))
  | _ => none

/-- The members of a channel (R120): units not ended with the MEMBER bit set; one not yet placed is a member. -/
def State.channelMembers (s : State) (ch : Channel) : List Nat :=
  match s.launch? ch.holder with
  | none => []
  | some l => (l.units.filter (fun x => match x.2 with
      | .unplaced => true
      | .exited => false
      | .cancelled => false
      | _ => (match s.unitCore l x.1 with | some c => c.user.bmask.getLsbD ch.num | none => false))).map (·.1)

/-- The channel is the batch channel of a deterministic launch (R150). -/
def State.isBatchChannel (s : State) (ch : Channel) : Bool :=
  match s.launch? ch.holder with
  | some l => l.det && l.channels.all (fun c => decide (ch.num ≤ c))
  | none => false

/-- Some member, or a unit that has arrived, is saved or saving (R50, R152). -/
def State.someEvicted (s : State) (ch : Channel) : Bool :=
  match s.launch? ch.holder with
  | none => false
  | some l => (s.channelMembers ch ++ ch.marks).any (fun u => match assoc u l.units with
      | some (.on n) => (s.core n).run != .running
      | some .saved => true
      | _ => false)

/-- The episode of a batch channel is held open by a member that is evicted (R152). -/
def State.evictionHolds (s : State) (ch : Channel) : Bool := s.isBatchChannel ch && s.someEvicted ch

/-- The condition under which the open episode completes with success (R121): there is an arrival, every member is
marked, the counter is zero; on a batch channel no member is evicted (R152). -/
def State.episodeReady (s : State) (ch : Channel) : Bool :=
  !ch.marks.isEmpty && decide (ch.count = 0) && (s.channelMembers ch).all ch.marks.contains &&
  !s.evictionHolds ch

/-- The channel in a cycle: the arrivals and bytes of an earlier cycle coincide with nothing any more (R122). -/
def Channel.inCycle (c : Channel) (cycle : Nat) : Channel :=
  if c.recentAt = cycle then c else { c with recentAt := cycle, recentMarks := [], recentBytes := 0 }

/-- Bytes bound to a channel land (R121, R122, R358): in the open episode, or in the next one when the open episode
completes in this cycle; nowhere when the channel is free. -/
def State.landBytes (s : State) (ch n : Nat) : State :=
  s.updChannel ch (fun c =>
    if s.episodeReady c && c.gatherDue.isNone then { c with nextCount := c.nextCount - n }
    else
      let d := c.inCycle s.cycle
      let v := c.count - n
      { d with count := v, failing := c.failing || decide (v < -(2 ^ 39)), recentBytes := d.recentBytes + n })

/-- Bytes written at an address count for a bound entry (R105, R337): at a core's store only where the receiving core's
launch holds the channel. -/
def State.counts (s : State) (e : Entry) (dst : Nat) : Bool :=
  match windowOf dst with
  | .global core _ => (s.core core).holds e.head.chan.toNat
  | _ => true

/-- n bytes of a bound entry that count land. -/
def State.landCounted (s : State) (e : Entry) (n : Nat) : State :=
  if e.head.bar ∧ 0 < n then s.landBytes e.head.chan.toNat n else s

/-- The delivered bytes of a bound entry count: at a core's store, on the channel its launch holds (R105, R337). -/
def State.landFor (s : State) (e : Entry) (dst n : Nat) : State := if s.counts e dst then s.landCounted e n else s

/-- An entry's work is over with a status; its report is due (R108, R111). -/
def Entry.finish (e : Entry) (status count : Nat) : Entry := { e with state := .finishing, status := status, count := count, since := 0 }

/-- An entry meets a fault: status 3 with its cause (R108). -/
def Entry.fail (e : Entry) (cause : Nat) (addr : Word) : Entry :=
  { e with state := .finishing, status := 3, cause := cause, faultAddr := addr, count := e.moved, since := 0 }

/-- The end of a queue's head entry with a status and a count. -/
def State.finishHead (s : State) (qid status count : Nat) : State := s.updMe (fun c => c.updHead qid (fun e => e.finish status count))

/-- A head entry begins to wait, suspended or pending, and its event is raised; one that waits so already raises none
(R108, R112, R388). -/
def State.entryWaits (s : State) (qid : Nat) (e : Entry) (st : EState) (addr : Word) (kind cause : Nat) : State :=
  let e' : Entry := { e with
    state := st
    since := if st = .pending ∧ e.state = .pending then e.since + 4096 else s.cycle
    faultAddr := addr
    kick := false }
  let t := s.updMe (fun c => c.updHead qid (fun _ => e'))
  if e.state = st then t else (t.raise s.me.id kind cause qid e.head.tag (e.remAt s.fresh)).drawFor e

/-- An engine's access met something: pending on a retry reply; on a copy channel suspended on a page that is not
present or migrating; else faulted (R108, R112, R388). Engines other than the copy engine do not suspend: cause 4 ends
them, and a migrating page lets them try again (R70). -/
def State.engineMet (s : State) (qid : Nat) (r : EngRes) (va : Nat) : State :=
  match s.me.headEntry qid with
  | none => s
  | some e =>
    let addr := BitVec.ofNat 64 va
    match r with
    | .ok _ => s
    | .retry => s.entryWaits qid e .pending addr 3 0
    | .migrating =>
      if qid < 64 then s.entryWaits qid e .suspended addr 1 0
      else s.updMe (fun c => c.updHead qid (fun e => { e with state := .active, since := max s.cycle 1, kick := false }))
    | .fault cause =>
      if qid < 64 ∧ cause = 4 then s.entryWaits qid e .suspended addr 1 4
      else s.updMe (fun c => c.updHead qid (fun e => e.fail cause addr))

/-- The completion record (R110). -/
def recordBytes (status qid cause : Nat) (tag : BitVec 16) (count cycle rem : Nat) : List Byte :=
  leBytes 2 status ++ leBytes 1 qid ++ leBytes 1 cause ++ leBytes 2 tag.toNat ++ leBytes 2 0 ++ leBytes 8 count ++ leBytes 8 cycle ++ leBytes 8 rem

/-- The fault words of a copy channel, in place of earlier ones (R109). -/
def Core.keepFaultWords (c : Core) (w : FaultWords) : Core :=
  { c with faultWords := w :: c.faultWords.filter (fun f => f.qid != w.qid) }

/-- A fault of the entry is reported by a KIND 0 event (R108, R115). -/
def Entry.faults (e : Entry) : Bool := e.status == 3 || e.status == 4 || e.mismatch

/-- What is left of an entry's report raises an event, so that it waits for room in the event queue (R113). -/
def Entry.reports (e : Entry) : Bool := e.head.irq || (e.faults && !e.told) || e.lost.isSome

/-- The KIND 0 event of a fault, or of a lost record (R108, R110, R112). -/
def State.raiseFault (s : State) (qid cause : Nat) (e : Entry) : State :=
  (s.raise s.me.id 0 cause qid e.head.tag (e.remAt s.fresh)).drawFor e

/-- The fault of a finishing head entry is reported, once (R108). -/
def State.reportFault (s : State) (qid : Nat) (e : Entry) : State :=
  if e.faults && !e.told then
    (s.raiseFault qid e.cause e).updMe (fun c => c.updHead qid (fun e => { e with told := true }))
  else s

/-- The completion record of a finishing head entry (R110): written, lost with its cause, refused and pending, or to be
tried again. -/
def State.reportRecord (s : State) (qid : Nat) (e : Entry) : State :=
  let done := fun (s : State) (lost : Option Nat) =>
    s.updMe (fun c => c.updHead qid (fun e => { e with state := .finishing, recordDone := true, lost := lost }))
  if e.recordDone then s
  else if e.head.wantsRecord then
    let failed := e.status = 3 ∨ e.status = 4
    let rem := if failed then e.remAt s.fresh else 0
    let bs := recordBytes e.status qid (if e.status = 3 then e.cause else 0) e.head.tag e.count s.cycle rem
    match s.engStore s.me.id e.head.crec.toNat bs with
    | .ok t => done (if failed then t.drawFor e else t) none
    | .error (.retry, _) =>
      s.entryWaits qid { e with recordPending := true, state := if e.recordPending then .pending else e.state } .pending e.faultAddr 3 0
    | .error (.migrating, _) => s.updMe (fun c => c.updHead qid (fun e => { e with since := max s.cycle 1, kick := false }))
    | .error (.fault c, t) => done t (some c)
    | .error (.ok _, t) => t
  else done s none

/-- The end of a finishing head entry whose record is written or lost: the KIND 0 event of a lost record, the barrier
bytes of a routing command, the KIND 2 event (R111); its queue moves on, a status 4 is remembered for QWAIT (R114), the
fault words of a copy channel stay (R109). An event that finds no room delays it (R113). -/
def State.reportEnd (s : State) (qid : Nat) (e : Entry) : State :=
  if !e.recordDone || (e.lost.isSome && !s.me.eventRoom) then s
  else
    let s := match e.lost with
      | some c => (s.raiseFault qid c e).updMe (fun c => c.updHead qid (fun e => { e with lost := none }))
      | none => s
    if e.head.irq && !s.me.eventRoom then s
    else
      let late := if qid = 65 ∧ (e.status = 0 ∨ e.status = 17) then e.pos else 0
      let failed := e.status = 3 ∨ e.status = 4
      let s := (s.landCounted e late).updMe (fun c => c.dropHead qid)
      let s := if e.status = 4 then s.updMe (fun c => { c with staleTags := c.staleTags ++ [(qid, e.head.tag)] }) else s
      let s := if failed ∧ qid < 64 then
          s.updMe (fun c => c.keepFaultWords { qid := qid, src := e.srcAddr, dst := e.dstAddr, addr := e.faultAddr }) else s
      if e.head.irq then s.raise s.me.id 2 0 qid e.head.tag 0 else s

/-- What is done with the head entry of a queue. -/
def State.withHead (s : State) (qid : Nat) (f : State → Entry → State) : State :=
  match s.me.headEntry qid with
  | some e => f s e
  | none => s

/-- The report of a finishing head entry in the order of R108 and R111: its fault, its record, its end. -/
def State.reportHead (s : State) (qid : Nat) : State :=
  let s := s.withHead qid (fun s e => s.reportFault qid e)
  let s := s.withHead qid (fun s e => s.reportRecord qid e)
  s.withHead qid (fun s e => s.reportEnd qid e)

/-! ## Events at an instruction boundary -/

/-- Where an engine event goes: to the user-interrupt context (true) or the supervisor (R112). -/
def Core.eventToUi (c : Core) (e : EngineEvent) : Bool := e.kind == 2 || e.kind == 3 || c.sup.sdeleg.getLsbD 14

/-- The UIENABLE bit of an event is set (R113). -/
def Core.eventEnabled (c : Core) (e : EngineEvent) : Bool :=
  match e.kind with
  | 2 => c.user.uienable.getLsbD 0
  | 3 => c.user.uienable.getLsbD 3
  | _ => c.user.uienable.getLsbD 1

/-- Asynchronous events bound for the supervisor may be taken now (R252): at user level outside the user-interrupt
context whatever SIE holds, at supervisor level while SIE is 1. -/
def Core.supOpen (c : Core) : Bool := if c.super then c.sup.sie else !c.sup.uia

/-- The user-interrupt context may be entered at this boundary (R54, R113). -/
def Core.uiOpen (c : Core) : Bool := !c.super && !c.sup.uia

/-- An event is deliverable at this boundary. -/
def Core.deliverable (c : Core) (e : EngineEvent) : Bool :=
  if c.eventToUi e then c.uiOpen && c.eventEnabled e else c.supOpen

/-- The oldest deliverable event, notice and watchdog notice, by arrival (R113). -/
def Core.oldestEvent (c : Core) : Option EngineEvent := c.events.find? c.deliverable

/-- The oldest notice, when notices may be delivered (R72, R113). -/
def Core.oldestNotice (c : Core) : Option Notice :=
  if c.uiOpen ∧ c.user.uienable.getLsbD 2 then
    c.notices.head?
  else none

/-- The watchdog notice, when the supervisor takes events (R55, R252). -/
def Core.oldestWd (c : Core) : Option (Nat × Word) := if c.supOpen then c.wdNotice else none

/-- Some event or notice is deliverable. -/
def Core.anyDeliverable (c : Core) : Bool := c.oldestEvent.isSome || c.oldestNotice.isSome || c.oldestWd.isSome

/-- IDLE ends: the queue holds an event or notice whose UIENABLE bit is set, or an event bound for the supervisor is
pending (R260). -/
def Core.idleEnds (c : Core) : Bool :=
  c.events.any (fun e => if c.eventToUi e then c.eventEnabled e else true) ||
  (!c.notices.isEmpty && c.user.uienable.getLsbD 2) || c.wdNotice.isSome

end Sys2Proof.Machine
end

