-- ==== Sys2Proof/Machine/Saving.lean ====
section
/-!
DEFINITION. Saving and restoring a core (R41, R44, R45, R49, R50, R95), zeroing (R42), the watchdog's records and ring
(R55).
-/
namespace Sys2Proof.Machine

open Sys2Proof

/-! ## Eviction sets -/

/-- An open eviction set of a context (R41). -/
def Context.set? (x : Context) (n : Nat) : Option EvictionSet := x.sets.find? (fun e => e.num == n)

/-- Change an open set. -/
def Context.updSet (x : Context) (n : Nat) (f : EvictionSet → EvictionSet) : Context :=
  { x with sets := x.sets.map (fun e => if e.num == n then f e else e) }

/-- Close a set. -/
def Context.closeSet (x : Context) (n : Nat) : Context := { x with sets := x.sets.filter (fun e => e.num != n) }

/-- The lowest set number the context has free (R55). -/
def Context.freeSet (x : Context) : Option Nat := (List.range 64).find? (fun n => (x.set? n).isNone)

/-- The eviction tags a core's router holds (R49). -/
def State.tagCount (s : State) (n : Nat) : Nat := (s.tags.filter (fun t => t.1 == n)).length

/-- A parked point of R45: WAIT, WAITW, IDLE, an empty port register, a write to a migrating page (R70), QWAIT (R114),
CGET (R164), and a core held by the watchdog (R55). -/
def Core.parked (c : Core) : Bool :=
  c.held || (match c.wait with
    | some w => (match w.kind with
      | .barrier _ _ => true
      | .word _ _ _ _ _ _ => true
      | .idle => true
      | .portRead _ => true
      | .migWrite _ => true
      | .qwait _ => true
      | .cget _ => true
      | _ => false)
    | none => false)

/-- The core stands at an instruction boundary (R45): every stall can be left there, the instruction not having been
performed, but for an access or a kerf transfer in flight and an ARRIVE whose episode has completed, which complete
first (R45, R274, R333). -/
def Core.atBoundary (c : Core) : Bool :=
  match c.wait with
  | none => true
  | some w => (match w.kind with
    | .retry _ => false
    | .kerf => false
    | .arrive _ _ => !w.ready
    | _ => true)

/-- A stalled second arrival of a core is withdrawn: it has marked no episode (R274). -/
def State.withdrawArrival (s : State) (c : Core) : State :=
  match c.unit with
  | none => s
  | some u =>
    { s with channels := s.channels.map (fun ch =>
        if ch.holder == u.launch then { ch with stalled := ch.stalled.filter (· != u.unit) } else ch) }

/-- A waiting WAITW or second arrival of a core is withdrawn (R122, R126, R274). -/
def State.withdraw (s : State) (c : Core) : State :=
  match c.unit with
  | none => s
  | some _ => { s.withdrawArrival c with waiters := s.waiters.filter (fun w => w.core != c.id) }

/-- A class-2 command that has begun is abandoned: it is accepted again, and runs from its start after the restore; one
whose work is over keeps its report (R116, R200). -/
def Entry.abandoned (e : Entry) : Entry :=
  let begun := match e.state with
    | .active => true
    | .pending => !e.recordPending
    | _ => false
  if e.qid = 65 ∧ begun = true then { e with state := .accepted, job := .none, since := 0 } else e

/-! ## The watchdog's records (R55) -/

/-- While parked in WAIT, WAITW or IDLE the count is compared with WDPARK. -/
def Core.wdParked (c : Core) : Bool :=
  match c.wait with
  | some w => (match w.kind with
    | .barrier _ _ => true
    | .word _ _ _ _ _ _ => true
    | .idle => true
    | _ => false)
  | none => false

/-- The limit that is active. -/
def Core.wdActive (c : Core) : Nat := if c.wdParked then c.sup.wdpark.toNat else c.sup.wdlimit.toNat

/-- The count of a core that runs a unit has reached its active non-zero limit. -/
def Core.wdExpired (c : Core) (cycle : Nat) : Bool :=
  (c.run == .running) && c.unit.isSome && !c.held && c.expired.isNone && decide (c.wdActive ≠ 0) && decide (c.wdActive ≤ cycle - c.wdBase)

/-- The 16-byte watchdog record of a core that is saved in a set, or held with 0xFF in the set's place, its pc as it now
stands: at the save or hold. -/
def wdRecord (c : Core) (set : Nat) (park : Bool) : List Byte :=
  leBytes 2 c.id ++ leBytes 2 16 ++ leBytes 1 (if park then 1 else 0) ++ leBytes 1 (if set = 0xFF then 1 else 0) ++
  leBytes 1 set ++ leBytes 1 0 ++ leBytes 8 c.pc.toNat

/-- The hub writes held records as the ring has room, then PROD and LOST, and raises or updates the notice. -/
def State.wdFlush (s : State) (part : Nat) : State :=
  match s.part? part with
  | none => s
  | some p =>
    match p.wdRing with
    | none => s
    | some (base, n, prod) =>
      let cons := s.peek (base + 8) 8
      let room := n - min n (prod - cons)
      let now := p.wdHeld.take room
      let s := s.updPart part (fun p => { p with wdPoll := s.cycle })
      if now.isEmpty then s
      else
        let s := now.zipIdx.foldl (fun s x => s.writeMem (base + 64 + 16 * ((prod + x.2) % n)) x.1) s
        let prod := prod + now.length
        let s := (s.writeMem base (leBytes 8 prod)).writeMem (base + 16) (leBytes 8 p.wdLost)
        let s := s.updPart part (fun p => { p with wdHeld := p.wdHeld.drop room, wdRing := some (base, n, prod) })
        let stamp := s.stamp
        let s := s.updCore p.supCore (fun c => { c with wdNotice := some ((match c.wdNotice with | some x => x.1 | none => stamp), BitVec.ofNat 64 prod) })
        { s with stamp := stamp + 1 }

/-- A record is made: written, held (64 at most) or lost. -/
def State.wdPost (s : State) (core : Nat) (rec : List Byte) : State :=
  match s.partOf core with
  | none => s
  | some p =>
    if p.wdHeld.length < 64 then (s.updPart p.id (fun p => { p with wdHeld := p.wdHeld ++ [rec] })).wdFlush p.id
    else
      let s := s.wdFlush p.id
      match s.part? p.id with
      | some q => if q.wdHeld.length < 64 then (s.updPart p.id (fun p => { p with wdHeld := p.wdHeld ++ [rec] })).wdFlush p.id
                  else s.updPart p.id (fun p => { p with wdLost := p.wdLost + 1 })
      | none => s

/-- The record of an expired core that is saved or held now; cause 16 stands in SCAUSE of a core that is saved. -/
def State.wdTell (s : State) (n : Nat) : State :=
  let c := s.core n
  match c.expired with
  | none => s
  | some (set, park) =>
    let s := s.updCore n (fun c =>
      let d : Core := { c with expired := none }
      if set = 0xFF then d else { d with sup := { d.sup with scause := causeWord true 16 } })
    s.wdPost n (wdRecord c set park)

/-! ## Saving -/

/-- A core's AUCT or PRICE uses no price bank any more (R200, R209). -/
def State.leaveBanks (s : State) (n : Nat) : State :=
  { s with banks := s.banks.map (fun b => if b.user == some n then { b with user := none } else b) }

/-- A core begins to save: it stops issuing, its router takes an eviction tag and answers retry, its set is saving; the
instruction it was stalled in re-executes on restore (R41, R44, R45, R49). A save by the watchdog makes its record now
(R55). -/
def State.beginSave (s : State) (n : Nat) : State :=
  let s := s.wdTell n
  let c := s.core n
  match c.unit, c.preq with
  | some u, some (_, set) =>
    let s := (s.withdraw c).leaveBanks n
    let s := s.updCore n (fun c => { c with
      run := .saving, saveFrom := s.cycle, wait := none, held := false, forced := false, entries := c.entries.map Entry.abandoned })
    let s := { s with tags := s.tags ++ [(n, u.ctx, u.launch, u.unit)] }
    s.updCtx u.ctx (fun x => x.updSet set (fun e => { e with state := .saving }))
  | _, _ => s

/-- Several cores begin to save. -/
def State.beginSaves (s : State) (ns : List Nat) : State := ns.foldl State.beginSave s

/-- Set PREQ on cores under a set number, opening the set (R41, R43). -/
def State.joinSet (s : State) (ctx set : Nat) (ns : List Nat) : State :=
  let s := s.updCores ns (fun c => { c with preq := some (s.cycle, set) })
  s.updCtx ctx (fun x => match x.set? set with
    | some _ => x.updSet set (fun e => { e with cores := e.cores ++ ns })
    | none => { x with sets := x.sets ++ [{ num := set, state := .requested, cores := ns, targets := [] }] })

/-! ## Zeroing (R42) -/

/-- A core is released from its unit: its state is cleared, the supervisor's registers stay (R251), and its stores are
being zeroed (R42). -/
def Core.release (c : Core) : Core :=
  { Core.fresh c.id with run := .zeroing, sup := c.sup, zeroCtx := c.unit.map (·.ctx) }

/-- The local store of a core as cells by offset. -/
def State.storeCells (s : State) (n : Nat) : List Host.Cell :=
  (s.mem.filter (fun c => localKey n 0 ≤ c.1 && c.1 < localKey (n + 1) 0)).map (fun c => (c.1 - localKey n 0, c.2))

/-- Put a saved local store into a core. -/
def State.loadStore (s : State) (n : Nat) (cells : List Host.Cell) : State :=
  let s := s.zeroRange (localKey n 0) (localKey (n + 1) 0)
  cells.foldl (fun s c => { s with mem := Memory.write (localKey n c.1) c.2 s.mem }) s

/-- The place of a unit in its launch's entry. -/
def State.setPlace (s : State) (k : LaunchKey) (unit : Nat) (p : UnitPlace) : State :=
  s.updLaunch k (fun l => { l with units := l.units.map (fun x => if x.1 == unit then (unit, p) else x) })

/-- A core has streamed out: its image is held, it is released and zeroed; the set is evicted with its last core
(R41, R44). -/
def State.saveComplete (s : State) (n : Nat) : State :=
  let c := s.core n
  match c.unit, c.preq with
  | some u, some (_, set) =>
    if c.run == .saving then
      let im : Image := { set := set, fromCore := n, core := c, store := s.storeCells n }
      let s := s.updCtx u.ctx (fun x =>
        let x := x.updSet set (fun e =>
          let rest := e.cores.filter (· != n)
          { e with cores := rest, state := if rest.isEmpty then .evicted else e.state })
        { x with images := x.images ++ [im] })
      (s.setPlace u.launch u.unit .saved).updCore n Core.release
    else s
  | _, _ => s

/-- A released core's stores are zero: it is free for its next owner (R42). -/
def State.zeroingDone (s : State) (n : Nat) : State :=
  if (s.core n).run == .zeroing then
    (s.zeroRange (localKey n 0) (localKey (n + 1) 0)).updCore n (fun c => { c with run := .free, zeroCtx := none })
  else s

/-! ## Restoring -/

/-- The images of a set in ascending order of the cores they were saved from (R383). -/
def Context.imagesOf (x : Context) (set : Nat) : List Image :=
  sortBy (fun (a b : Image) => a.fromCore ≤ b.fromCore) (x.images.filter (fun i => i.set == set))

/-- The notices of a restored core: those held, then one overflow notice if some were lost, with PAGE 0 and STATUS 3
(R72). -/
def Core.overflowNotice (c : Core) (stamp : Nat) : Core :=
  if c.noticeOverflow then { c with notices := c.notices ++ [{ stamp := stamp, page := 0, status := 3 }], noticeOverflow := false } else c

/-- A core as its image is loaded: resumed, RESTORED set, the watchdog's count from zero, retry timers afresh, suspended
entries to be re-translated, caches cold (R41, R55, R116, R117); its held atomics on its own store name the store it has
now (R57, R152). -/
def Core.restored (c : Core) (n : Nat) (moved : List (Nat × Nat)) (cycle : Nat) : Core :=
  { c with
    id := n
    run := .running
    preq := none
    wait := none
    held := false
    wdBase := cycle
    portSince := cycle
    portRefused := false
    batch := c.batch.map (fun b => match windowOf b.va.toNat with
      | .self off => { b with key := localKey n off }
      | _ => b)
    user := { c.user with restored := true }
    unit := c.unit.map (fun u => { u with gang := u.gang.map (fun g => (assoc g moved).getD g) })
    entries := c.entries.map (fun (e : Entry) => { e with since := if e.since = 0 then 0 else max cycle 1, kick := e.state == .suspended })
    itlb := []
    dtlb := []
    l1d := []
    l1i := [] }

/-- The core that a unit was on is another now: what the hub keeps of it by its core follows it (R133). -/
def State.followUnit (s : State) (u : UnitCfg) (core : Nat) : State :=
  let it := fun (o : Option (LaunchKey × Nat)) => o == some (u.launch, u.unit)
  { s with
    coll := { s.coll with
      plans := s.coll.plans.map (fun p => { p with
        members := p.members.map (fun m => if it m.owner then { m with core := core } else m) })
      ends := s.coll.ends.map (fun e => if it e.member.owner then { e with member := { e.member with core := core } } else e) }
    parts := s.parts.map (fun p => { p with
      launches := p.launches.map (fun l => if it l.pusher then { l with pushedBy := core } else l) }) }

/-- The last image of a set has been loaded: its units resume and the set closes (R41, R49). -/
def State.restoreDone (s : State) (ctx set : Nat) : State :=
  match s.ctx? ctx with
  | none => s
  | some x =>
    match x.set? set with
    | none => s
    | some e =>
      if e.state = .restoring then
        let pairs := (x.imagesOf set).filterMap (fun im => (assoc im.fromCore e.targets).map (fun n => (im, n)))
        let moved := e.targets
        let s := pairs.foldl (fun s p =>
          let s := s.loadStore p.2 p.1.store
          let s := s.setCore p.2 ((p.1.core.restored p.2 moved s.cycle).overflowNotice s.stamp)
          let s := { s with stamp := s.stamp + 1 }
          match p.1.core.unit with
          | some u =>
            let s := { s with tags := s.tags.filter (fun t => !(t.2.2.1 == u.launch && t.2.2.2 == u.unit)) }
            (s.setPlace u.launch u.unit (.on p.2)).followUnit u p.2
          | none => s) s
        s.updCtx ctx (fun x => { x.closeSet set with images := x.images.filter (fun i => i.set != set) })
      else s

/-! ## The watchdog (R55) -/

/-- PDEADLINE cycles have passed since PREQ was set, or the watchdog forces the save, and the core is at a boundary: it is
saved. A YIELD in the cycle of the deadline is the save point (R45, R46, R55). -/
def Core.saveDue (c : Core) (cycle : Nat) : Bool :=
  match c.preq with
  | some (t, _) =>
    (c.run == .running) && c.atBoundary && (c.forced || decide (t + c.sup.pdeadline.toNat % 2 ^ 20 < cycle))
  | none => false

/-- The gang of a core is saved as at a deadline: each member that is at a boundary now, and every other at its next
(R45, R55). -/
def State.forceSave (s : State) (gang : List Nat) : State :=
  let t := s.updCores (gang.filter (fun n => (s.core n).run == .running)) (fun c => { c with forced := true })
  t.beginSaves (gang.filter (fun n => (t.core n).saveDue s.cycle))

/-- An expired core with no set to be saved in is held at its next instruction boundary, which a core that is parked, or
stalled where R45 lets the stall be left, has reached (R55). -/
def Core.holdDue (c : Core) : Bool :=
  (c.run == .running) && !c.held && c.atBoundary && (match c.expired with | some (set, _) => set == 0xFF | none => false)

/-- The current core is held, and its record is made (R55). -/
def State.hold (s : State) : State := if s.me.holdDue then (s.wdTell s.me.id).updMe (fun c => { c with held := true }) else s

/-- The core is to be stopped at the boundary it stands at, and issues nothing more (R45, R55). -/
def Core.stopDue (c : Core) (cycle : Nat) : Bool := c.saveDue cycle || c.holdDue

/-- The watchdog's limit is reached on the current core (R55): its gang is saved in a set of its own, which is saving at
once, or in the open set it belongs to; with no set number free, or where the router of a member of the gang has no
eviction tag free, the core is held. R55 names the core's own router alone, and what becomes of a gang in which another
member's has none it does not say: the core is held then too, and no member is saved. DESIGN CHOICE (log 24). -/
def State.wdExpire (s : State) : State :=
  let c := s.me
  let mark := fun (s : State) (set : Nat) => s.updMe (fun d => { d with expired := some (set, c.wdParked) })
  match c.unit with
  | none => s
  | some u =>
    let gang := s.gangCores c
    match c.preq with
    | some (_, set) => (mark s set).forceSave gang
    | none =>
      match (s.ctx? u.ctx).bind Context.freeSet with
      | some set =>
        if gang.all (fun n => decide (s.tagCount n < 8)) then
          (((mark s set).joinSet u.ctx set gang).updCtx u.ctx (fun x => x.updSet set (fun e => { e with state := .saving }))).forceSave gang
        else (mark s 0xFF).hold
      | none => (mark s 0xFF).hold

end Sys2Proof.Machine
end

