-- ==== Sys2Proof/Machine/Flags.lean ====
section
/-!
DEFINITION. The exceptions an operation raises (R22 to R25), their way into FFLAGS and the event counters (R28, R29,
R31), and the IEEE trap of the vector floating-point majors (R30).
-/
namespace Sys2Proof.Machine

open Sys2Proof

/-- The exceptions of one lane, one reduction or one tile, in the FFLAGS order (R28). -/
structure Exc where
  nx : Bool := false
  uf : Bool := false
  of : Bool := false
  dz : Bool := false
  nv : Bool := false
  fl : Bool := false
  tr : Bool := false
  sat : Bool := false
  deriving DecidableEq, Repr

/-- No exception. -/
def Exc.none : Exc := {}

/-- Either's exceptions. -/
def Exc.or (a b : Exc) : Exc where
  nx := a.nx || b.nx
  uf := a.uf || b.uf
  of := a.of || b.of
  dz := a.dz || b.dz
  nv := a.nv || b.nv
  fl := a.fl || b.fl
  tr := a.tr || b.tr
  sat := a.sat || b.sat

/-- The FFLAGS bits of exceptions (R28). -/
def Exc.bits (e : Exc) : Word :=
  bitWord e.nx ||| (bitWord e.uf <<< 1) ||| (bitWord e.of <<< 2) ||| (bitWord e.dz <<< 3) ||| (bitWord e.nv <<< 4) |||
  (bitWord e.fl <<< 5) ||| (bitWord e.tr <<< 6) ||| (bitWord e.sat <<< 7)

/-- The exceptions of several lanes together. -/
def excAll (es : List Exc) : Exc := es.foldl Exc.or Exc.none

/-- FFLAGS only ever gains bits from the device (R28). -/
def Core.orFlags (c : Core) (e : Exc) : Core := { c with user := { c.user with fflags := c.user.fflags ||| e.bits } }

/-- A saturating 32-bit event count (R31). -/
def satCount (w : Word) (n : Nat) : Word := BitVec.ofNat 64 (min (w.toNat + n) 0xFFFFFFFF)

/-- An event counter gains n (R31). -/
def Core.countEvent (c : Core) (i n : Nat) : Core :=
  { c with user := { c.user with evcnt := c.user.evcnt.setIfInBounds i (satCount (c.user.evcnt[i]?.getD 0) n) } }

/-- How many of the exceptions satisfy a test. -/
def countExc (es : List Exc) (f : Exc → Bool) : Nat := (es.filter f).length

/-- One count for each lane, reduction or tile that raised the event: EVCNT0 to EVCNT5 (R31). -/
def Core.countExcs (c : Core) (es : List Exc) : Core :=
  ((((((c.countEvent 0 (countExc es (·.nv))).countEvent 1 (countExc es (·.dz))).countEvent 2 (countExc es (·.of))).countEvent 3
    (countExc es (·.uf))).countEvent 4 (countExc es (·.nx))).countEvent 5 (countExc es (·.fl)))

/-- Flags and counters together, in one step (R31). -/
def Core.accrue (c : Core) (es : List Exc) : Core := (c.orFlags (excAll es)).countExcs es

/-- The trap enables of FCTL for an exception: NXE, UFE, OFE, DZE, NVE (R26). -/
def Exc.enabled (e : Exc) (fctl : Word) : Bool :=
  (e.nx && fctl.getLsbD 4) || (e.uf && fctl.getLsbD 5) || (e.of && fctl.getLsbD 6) || (e.dz && fctl.getLsbD 7) || (e.nv && fctl.getLsbD 8)

/-- The value of a cause 12 trap (R30): the lanes that raised an enabled exception, whether a flush occurred, every
exception raised. -/
def ieeeValue (lanes : List (Nat × Exc)) (fctl : Word) : Word :=
  let mask := sumNat ((lanes.filter (fun l => l.2.enabled fctl)).map (fun l => 2 ^ l.1))
  let all := excAll (lanes.map (·.2))
  BitVec.ofNat 64 (mask * 2 ^ 32) ||| (bitWord all.fl <<< 5) ||| (all.bits &&& 0x1F)

/-- A vector floating-point or conversion instruction ends (R29, R30): when an active lane raised an enabled exception
it traps with cause 12 and nothing changes; otherwise flags and counters accrue. -/
def finishFp (lanes : List (Nat × Exc)) : M Unit := do
  let c ← meM
  if lanes.any (fun l => l.2.enabled c.user.fctl) then trap 12 (ieeeValue lanes c.user.fctl)
  else changeMe (fun c => c.accrue (lanes.map (·.2)))

/-- An integer instruction that clamped sets SAT (R28). -/
def setSat (b : Bool) : M Unit := if b then changeMe (fun c => c.orFlags { sat := true }) else pure ()

end Sys2Proof.Machine
end

