-- ==== Sys2Proof/Machine/Float.lean ====
section
/-!
DEFINITION. Floating-point values and their one rounding (R17 to R26, R299, R300): unpacking, rounding an exact value
under the six modes, and the exact operations of the vector and matrix units.
-/
namespace Sys2Proof.Machine

open Sys2Proof

/-- The floating-point formats (R17). -/
inductive Fmt where
  | f64
  | f32
  | f16
  | bf16
  | e4m3
  | e5m2
  | e2m1
  deriving DecidableEq, Repr

/-- Exponent bits (R17). -/
def Fmt.ebits : Fmt → Nat
  | .f64 => 11
  | .f32 => 8
  | .f16 => 5
  | .bf16 => 8
  | .e4m3 => 4
  | .e5m2 => 5
  | .e2m1 => 2

/-- Fraction bits (R17). -/
def Fmt.fbits : Fmt → Nat
  | .f64 => 52
  | .f32 => 23
  | .f16 => 10
  | .bf16 => 7
  | .e4m3 => 3
  | .e5m2 => 2
  | .e2m1 => 1

/-- Width in bits. -/
def Fmt.width (f : Fmt) : Nat := f.ebits + f.fbits + 1

/-- Exponent bias (R17). -/
def Fmt.bias (f : Fmt) : Nat := 2 ^ (f.ebits - 1) - 1

/-- The format has infinities (R17). -/
def Fmt.hasInf : Fmt → Bool
  | .e4m3 => false
  | .e2m1 => false
  | _ => true

/-- The canonical NaN (R21); E2M1 has none and its conversions give +0 (R299). -/
def Fmt.nan : Fmt → Nat
  | .f64 => 0x7FF8000000000000
  | .f32 => 0x7FC00000
  | .f16 => 0x7E00
  | .bf16 => 0x7FC0
  | .e5m2 => 0x7E
  | .e4m3 => 0x7F
  | .e2m1 => 0

/-- The largest finite magnitude's code (R17). -/
def Fmt.maxCode (f : Fmt) : Nat :=
  match f with
  | .e4m3 => 0x7E
  | .e2m1 => 7
  | _ => (2 ^ f.ebits - 1) * 2 ^ f.fbits - 1

/-- The code of an infinity, for the formats that have one. -/
def Fmt.infCode (f : Fmt) : Nat := (2 ^ f.ebits - 1) * 2 ^ f.fbits

/-- The sign bit. -/
def Fmt.sign (f : Fmt) (neg : Bool) : Nat := if neg then 2 ^ (f.width - 1) else 0

/-- Exponent of the smallest normal. -/
def Fmt.emin (f : Fmt) : Int := 1 - (f.bias : Int)

/-- The rounding modes (R25). -/
inductive Mode where
  | rne
  | rtz
  | rdn
  | rup
  | rmm
  | odd
  deriving DecidableEq, Repr

/-- FCTL.RM (R26). -/
def modeOfRm (n : Nat) : Mode :=
  match n with
  | 1 => .rtz
  | 2 => .rdn
  | 3 => .rup
  | 4 => .rmm
  | _ => .rne

/-- FCTL.UFE: the underflow trap is enabled (R23, R26). -/
def Core.ufTrap (c : Core) : Bool := c.user.fctl.getLsbD 5

/-- The dynamic mode (R26, R27). -/
def Core.dynMode (c : Core) : Mode := modeOfRm (bitsOf c.user.fctl 2 0)

/-- The mode of a vector instruction's rm field (R27, R285). -/
def Core.vecMode (c : Core) (rm : BitVec 2) : Mode :=
  match rm.toNat with
  | 0 => c.dynMode
  | 1 => .rne
  | 2 => .rtz
  | _ => .odd

/-- A value: a NaN (signalling or quiet), an infinity, or a sign with m·2^e. -/
inductive FVal where
  | nan (sig : Bool)
  | inf (neg : Bool)
  | fin (neg : Bool) (m : Nat) (e : Int)
  deriving DecidableEq, Repr

/-- Unpack a code (R17); an E4M3 or E5M2 NaN signals nothing (R22). -/
def unpack (f : Fmt) (x : Nat) : FVal :=
  let neg := x.testBit (f.width - 1)
  let ex := x / 2 ^ f.fbits % 2 ^ f.ebits
  let fr := x % 2 ^ f.fbits
  let fin := FVal.fin neg (if ex = 0 then fr else fr + 2 ^ f.fbits) ((max ex 1 : Int) - f.bias - f.fbits)
  match f with
  | .e2m1 => fin
  | .e4m3 => if ex = 15 ∧ fr = 7 then .nan false else fin
  | _ =>
    if ex = 2 ^ f.ebits - 1 then
      if fr = 0 then .inf neg else .nan (!fr.testBit (f.fbits - 1) && f != .e5m2)
    else fin

/-- A code is a subnormal. -/
def isSub (f : Fmt) (x : Nat) : Bool := x / 2 ^ f.fbits % 2 ^ f.ebits == 0 && x % 2 ^ f.fbits != 0

/-- fzin of R217, R24: a subnormal input becomes a zero of its sign and FL is raised; E2M1 is never flushed. -/
def flushIn (f : Fmt) (fzi : Bool) (x : Nat) : Nat × Exc :=
  if fzi && isSub f x && f != .e2m1 then (x / 2 ^ (f.width - 1) * 2 ^ (f.width - 1), { fl := true }) else (x, .none)

/-- fzout of R217, R24: a subnormal result becomes a zero of its sign; FL, UF and NX are raised. -/
def flushOut (f : Fmt) (fzo : Bool) (x : Nat × Exc) : Nat × Exc :=
  if fzo && isSub f x.1 && f != .e2m1 then
    (x.1 / 2 ^ (f.width - 1) * 2 ^ (f.width - 1), x.2.or { fl := true, uf := true, nx := true })
  else x

/-- Drop the low sh bits of a magnitude under a mode (R25); the value lies above m by a fraction when sticky is set.
The second result says whether it is inexact. -/
def shiftRound (mode : Mode) (neg : Bool) (m : Nat) (sh : Int) (sticky : Bool) : Nat × Bool :=
  if sh ≤ 0 then
    let q := m * 2 ^ (-sh).toNat
    if !sticky then (q, false)
    else match mode with
      | .odd => (if q % 2 = 0 then q + 1 else q, true)
      | .rdn => (if neg then q + 1 else q, true)
      | .rup => (if neg then q else q + 1, true)
      | _ => (q, true)
  else
    let d := 2 ^ sh.toNat
    let q := m / d
    let r := m % d
    if r = 0 ∧ !sticky then (q, false)
    else
      let half := d / 2
      let up := match mode with
        | .rne => decide (half < r) || (decide (r = half) && (sticky || q % 2 == 1))
        | .rmm => decide (half ≤ r)
        | .rdn => neg
        | .rup => !neg
        | .rtz => false
        | .odd => q % 2 == 0
      (if up then q + 1 else q, true)

/-- Overflow (R25; R299 for the formats without infinities). -/
def overflowCode (f : Fmt) (mode : Mode) (neg : Bool) : Nat :=
  let toInf := match mode with
    | .rne => true
    | .rmm => true
    | .rtz => false
    | .odd => false
    | .rdn => neg
    | .rup => !neg
  f.sign neg + (if f.hasInf && toInf then f.infCode else f.maxCode)

/-- round(x, fmt, mode) of R217 for the non-zero value (m + fraction)·2^e: one rounding; tininess is detected after
rounding (R23); formats without infinities saturate (R299). -/
def roundTo (f : Fmt) (mode : Mode) (ufTrap neg : Bool) (m : Nat) (e : Int) (sticky : Bool) : Nat × Exc :=
  if m = 0 ∧ !sticky then (f.sign neg, .none)
  else
    let p : Int := f.fbits
    let big : Int := if m = 0 then f.emin - p - 2 else e + m.log2
    let tiny := decide (big < f.emin) &&
      decide ((((shiftRound mode neg m (big - p - e) sticky).1 : Nat) : Int) < 2 ^ (f.emin - big + p).toNat)
    let lsb := max big f.emin - p
    let (q, inexact) := shiftRound mode neg m (lsb - e) sticky
    let q' := if 2 ^ (f.fbits + 1) ≤ q then q / 2 else q
    let lsb' := if 2 ^ (f.fbits + 1) ≤ q then lsb + 1 else lsb
    let ex : Int := if q' < 2 ^ f.fbits then 0 else lsb' + p + f.bias
    let code : Int := if q' < 2 ^ f.fbits then q' else ex * 2 ^ f.fbits + (q' - 2 ^ f.fbits)
    if (f.maxCode : Int) < code then (overflowCode f mode neg, { of := true, nx := true })
    else (f.sign neg + code.toNat, { nx := inexact, uf := tiny && (inexact || ufTrap) })

/-- The canonical NaN, with NV when the operation is invalid (R21, R22). -/
def nanRes (f : Fmt) (nv : Bool) : Nat × Exc := (f.nan, { nv := nv })

/-- An infinity. -/
def infRes (f : Fmt) (neg : Bool) : Nat × Exc := (f.sign neg + f.infCode, .none)

/-- A value is a signalling NaN. -/
def FVal.isSnan : FVal → Bool
  | .nan s => s
  | _ => false
/-- A value is a NaN. -/
def FVal.isNan : FVal → Bool
  | .nan _ => true
  | _ => false
/-- A value is an infinity. -/
def FVal.isInf : FVal → Bool
  | .inf _ => true
  | _ => false
/-- A value is a zero. -/
def FVal.isZero : FVal → Bool
  | .fin _ m _ => m == 0
  | _ => false
/-- The sign of a value that is not a NaN. -/
def FVal.neg : FVal → Bool
  | .nan _ => false
  | .inf n => n
  | .fin n _ _ => n
/-- The value with the other sign. -/
def FVal.negate : FVal → FVal
  | .nan s => .nan s
  | .inf n => .inf !n
  | .fin n m e => .fin (!n) m e

/-- The sign of an exact zero sum of terms that are not all zeros of one sign (R25, R287). -/
def zeroNeg (mode : Mode) : Bool := mode == .rdn

/-- A signed integer times 2^e, from sign and magnitude. -/
def signedInt (neg : Bool) (m : Nat) : Int := if neg then -(m : Int) else m

/-- The exact sum of two finite values as an integer times a power of two. -/
def dyadicAdd (x y : Int × Int) : Int × Int :=
  let e := min x.2 y.2
  (x.1 * 2 ^ (x.2 - e).toNat + y.1 * 2 ^ (y.2 - e).toNat, e)

/-- The exact sum of finite terms. -/
def dyadicSum (xs : List (Int × Int)) : Int × Int := xs.foldl dyadicAdd (0, 0)

/-- Round an exact dyadic that is not zero. -/
def roundDyadic (f : Fmt) (mode : Mode) (ut : Bool) (x : Int × Int) : Nat × Exc :=
  roundTo f mode ut (decide (x.1 < 0)) x.1.natAbs x.2 false

/-- x + y, exact, rounded once (R287): signed zeros as IEEE 754 gives them. -/
def addVals (f : Fmt) (mode : Mode) (ut : Bool) (x y : FVal) : Nat × Exc :=
  match x, y with
  | .nan s, y => nanRes f (s || y.isSnan)
  | _, .nan s => nanRes f s
  | .inf a, .inf b => if a = b then infRes f a else nanRes f true
  | .inf a, _ => infRes f a
  | _, .inf b => infRes f b
  | .fin a m e, .fin b n d =>
    if m = 0 ∧ n = 0 then (f.sign (if a = b then a else zeroNeg mode), .none)
    else
      let s := dyadicAdd (signedInt a m, e) (signedInt b n, d)
      if s.1 = 0 then (f.sign (zeroNeg mode), .none) else roundDyadic f mode ut s

/-- The exact product of two values; none when it is invalid (0 × ∞). -/
def mulVals (x y : FVal) : Option FVal :=
  match x, y with
  | .nan s, y => some (.nan (s || y.isSnan))
  | _, .nan s => some (.nan s)
  | .inf a, y => if y.isZero then none else some (.inf (a != y.neg))
  | x, .inf b => if x.isZero then none else some (.inf (x.neg != b))
  | .fin a m e, .fin b n d => some (.fin (a != b) (m * n) (e + d))

/-- Round a value that is exact in the model (R217). -/
def roundVal (f : Fmt) (mode : Mode) (ut : Bool) : FVal → Nat × Exc
  | .nan s => nanRes f s
  | .inf n => infRes f n
  | .fin n m e => roundTo f mode ut n m e false

/-- a × b (R287). -/
def mulOp (f : Fmt) (mode : Mode) (ut : Bool) (x y : FVal) : Nat × Exc :=
  match mulVals x y with
  | none => nanRes f true
  | some v => roundVal f mode ut v

/-- a / b (R287): 0 / 0 and ∞ / ∞ are invalid, a finite non-zero value over zero raises DZ. -/
def divOp (f : Fmt) (mode : Mode) (ut : Bool) (x y : FVal) : Nat × Exc :=
  match x, y with
  | .nan s, y => nanRes f (s || y.isSnan)
  | _, .nan s => nanRes f s
  | .inf _, .inf _ => nanRes f true
  | .inf a, y => infRes f (a != y.neg)
  | x, .inf b => (f.sign (x.neg != b), .none)
  | .fin a m e, .fin b n d =>
    if n = 0 then
      if m = 0 then nanRes f true else (f.sign (a != b) + f.infCode, { dz := true })
    else if m = 0 then (f.sign (a != b), .none)
    else
      let k := f.fbits + 4 + n.log2 - m.log2
      let num := m * 2 ^ k
      roundTo f mode ut (a != b) (num / n) (e - d - k) (decide (num % n ≠ 0))

/-- The integer square root, bit by bit from bit k down. -/
def isqrtFrom (n : Nat) : Nat → Nat → Nat
  | 0, r => if (r + 1) * (r + 1) ≤ n then r + 1 else r
  | k + 1, r => isqrtFrom n k (if (r + 2 ^ (k + 1)) * (r + 2 ^ (k + 1)) ≤ n then r + 2 ^ (k + 1) else r)

/-- ⌊√n⌋. -/
def isqrt (n : Nat) : Nat := isqrtFrom n (n.log2 / 2 + 1) 0

/-- √a (R287). -/
def sqrtOp (f : Fmt) (mode : Mode) (ut : Bool) (x : FVal) : Nat × Exc :=
  match x with
  | .nan s => nanRes f s
  | .inf n => if n then nanRes f true else infRes f false
  | .fin n m e =>
    if m = 0 then (f.sign n, .none)
    else if n then nanRes f true
    else
      let k := 2 * (f.fbits + 4)
      let sh := if (e - k) % 2 = 0 then k else k + 1
      let v := m * 2 ^ sh
      let r := isqrt v
      roundTo f mode ut false r ((e - sh) / 2) (decide (r * r ≠ v))

/-- a·b + d, one rounding (R291); negated products and addends come negated. -/
def fmaOp (f : Fmt) (mode : Mode) (ut : Bool) (prod : Option FVal) (sig : Bool) (d : FVal) : Nat × Exc :=
  match prod with
  | none => nanRes f true
  | some p =>
    let r := addVals f mode ut p d
    if sig then (r.1, r.2.or { nv := true }) else r

/-! ## Exact group sums (R34, R292) -/

/-- A zero of a sign. -/
def zeroVal (neg : Bool) : FVal := .fin neg 0 0

/-- The exact sum S of a group of products scaled by 2^scale, each given as its exact value or none for 0 × ∞; the
Bool says whether NV is raised (R34). -/
def groupSum (mode : Mode) (prods : List (Option FVal)) (sig : Bool) (scale : Int) : FVal × Bool :=
  let vals := prods.filterMap id
  let invalid := prods.any Option.isNone
  let clash := vals.any (· == .inf false) && vals.any (· == .inf true)
  if invalid || clash || vals.any FVal.isNan then (.nan false, invalid || clash || sig)
  else match vals.find? FVal.isInf with
    | some v => (v, false)
    | none =>
      if vals.all FVal.isZero then (zeroVal (vals.all FVal.neg && !vals.isEmpty), false)
      else
        let s := dyadicSum (vals.filterMap (fun v => match v with | .fin n m e => some (signedInt n m, e) | _ => none))
        if s.1 = 0 then (zeroVal (zeroNeg mode), false)
        else (.fin (decide (s.1 < 0)) s.1.natAbs (s.2 + scale), false)

/-- acc + S, rounded once (R34). -/
def accumulate (f : Fmt) (mode : Mode) (ut : Bool) (acc : FVal) (s : FVal × Bool) : Nat × Exc :=
  let r := addVals f mode ut acc s.1
  if s.2 then (r.1, r.2.or { nv := true }) else r

/-! ## Conversions to and from integers (R300) -/

/-- Float to a signed integer of w bits, as w bits. -/
def toIntOp (w : Nat) (mode : Mode) (x : FVal) : Nat × Exc :=
  let lo : Int := -(2 ^ (w - 1))
  let hi : Int := 2 ^ (w - 1) - 1
  let code := fun (v : Int) => (v % 2 ^ w).toNat
  match x with
  | .nan _ => (0, { nv := true })
  | .inf n => (code (if n then lo else hi), { nv := true })
  | .fin n m e =>
    let (q, inexact) := shiftRound mode n m (-e) false
    let v := signedInt n q
    if v < lo then (code lo, { nv := true })
    else if hi < v then (code hi, { nv := true })
    else (code v, { nx := inexact })

/-- A signed integer to float. -/
def fromIntOp (f : Fmt) (mode : Mode) (x : Int) : Nat × Exc := roundTo f mode false (decide (x < 0)) x.natAbs 0 false

/-! ## Reciprocals, exponential and logarithm (R293) -/

/-- 1 / a. -/
def rcpOp (f : Fmt) (ut : Bool) (x : FVal) : Nat × Exc := divOp f .rne ut (.fin false 1 0) x

/-- 1 / √a. -/
def rsqOp (f : Fmt) (ut : Bool) (x : FVal) : Nat × Exc :=
  match x with
  | .nan s => nanRes f s
  | .inf n => if n then nanRes f true else (0, .none)
  | .fin n m e =>
    if m = 0 then (f.sign n + f.infCode, { dz := true })
    else if n then nanRes f true
    else
      let m' := if e % 2 = 0 then m else 2 * m
      let e' := if e % 2 = 0 then e else e - 1
      let k := f.fbits + 4 + m'.log2
      let q := 2 ^ (2 * k) / m'
      let r := isqrt q
      roundTo f .rne ut false r (-(e' / 2) - k) (decide (r * r * m' ≠ 2 ^ (2 * k)))

/-- The fixed-point precision of the series. -/
def seriesBits : Nat := 320

/-- atanh z for z = a / b ≤ 1/3, scaled by 2^seriesBits, from below: the sum of z^(2k+1)/(2k+1). -/
def atanhSeries (num den : Nat) : Nat → Nat → Nat → Nat → Nat
  | 0, _, _, acc => acc
  | t + 1, pow, k, acc => atanhSeries num den t (pow * num * num / (den * den)) (k + 2) (acc + pow / k)

/-- atanh (a / b), scaled, from below; off by less than 2^16 units. -/
def atanhFix (a b : Nat) : Nat := atanhSeries a b 110 (a * 2 ^ seriesBits / b) 1 0

/-- ln 2, scaled, from below. -/
def ln2Fix : Nat := 2 * atanhFix 1 3

/-- exp x for a scaled x < 1, scaled, from below: the sum of x^k/k!. -/
def expSeries (x : Nat) : Nat → Nat → Nat → Nat → Nat
  | 0, _, _, acc => acc
  | t + 1, term, k, acc => expSeries x t (term * x / (2 ^ seriesBits * k)) (k + 1) (acc + term)

/-- exp x, scaled, from below; off by less than 2^16 units. -/
def expFix (x : Nat) : Nat := expSeries x 90 (2 ^ seriesBits) 1 0

/-- x·2^a as a multiple of 2^b, rounded down. -/
def toGrid (x : Nat) (a b : Int) : Nat := if b ≤ a then x * 2 ^ (a - b).toNat else x / 2 ^ (b - a).toNat

/-- The greatest g from lo to hi that does not exceed a value, by halving: below g says that the value is less than g. -/
def greatestBelow (below : Nat → Bool) : Nat → Nat → Nat → Nat
  | 0, lo, _ => lo
  | t + 1, lo, hi =>
    if hi ≤ lo then lo
    else
      let mid := (lo + hi + 1) / 2
      if below mid then greatestBelow below t lo (mid - 1) else greatestBelow below t mid hi

/-- Round once a value that no format represents, known to lie between lo·2^e and hi·2^e: it is cut down to a grid that
holds every point where a rounding turns, and where the bounds leave two grid points, below g q decides exactly whether
the value is less than g·2^q (R27, R293). -/
def roundBetween (f : Fmt) (ut neg : Bool) (lo hi : Nat) (e : Int) (below : Nat → Int → Bool) : Nat × Exc :=
  let q : Int := e + lo.log2 - f.fbits - 2
  let a := toGrid lo e q
  let b := toGrid hi e q
  roundTo f .rne ut neg (greatestBelow (fun g => below g q) ((b - a).log2 + 2) a b) q true

/-- 2^(v·2^(−d)) < g·2^q, exactly: both sides raised to the power 2^d. -/
def exp2Below (v : Int) (d g : Nat) (q : Int) : Bool :=
  let n := v - q * 2 ^ d
  if n < 0 then decide (1 ≤ g) else decide (2 ^ n.toNat < g ^ 2 ^ d)

/-- |log2 (m·2^e)| < g·2^q for a value on the side of 1 that neg names, exactly. -/
def log2Below (neg : Bool) (m : Nat) (e : Int) (g : Nat) (q : Int) : Bool :=
  let d : Nat := 2 ^ (-q).toNat
  let bound : Int := g * 2 ^ q.toNat
  if neg then
    let n := -bound - e * d
    if n < 0 then decide (1 ≤ m) else decide (2 ^ n.toNat < m ^ d)
  else
    let n := bound - e * d
    if n < 0 then false else decide (m ^ d < 2 ^ n.toNat)

/-- 2^a, rounded once (R293). -/
def exp2Op (f : Fmt) (ut : Bool) (x : FVal) : Nat × Exc :=
  match x with
  | .nan s => nanRes f s
  | .inf n => if n then (0, .none) else infRes f false
  | .fin n m e =>
    if m = 0 then roundTo f .rne ut false 1 0 false
    else
      let hi : Int := e + m.log2
      if 12 ≤ hi then (if n then roundTo f .rne ut false 1 (-5000) true else roundTo f .rne ut false 1 5000 true)
      else
        let v := signedInt n m
        -- the integer part and the fraction, the latter scaled by 2^seriesBits from below
        let ip : Int := if 0 ≤ e then v * 2 ^ e.toNat else v / 2 ^ (-e).toNat
        let fr : Nat := if 0 ≤ e then 0 else ((v % 2 ^ (-e).toNat).toNat * 2 ^ seriesBits) / 2 ^ (-e).toNat
        let exact := decide (0 ≤ e) || decide (v % 2 ^ (-e).toNat = 0)
        if exact then roundTo f .rne ut false 1 ip false
        else
          let lo := expFix (fr * ln2Fix / 2 ^ seriesBits)
          roundBetween f ut false lo (lo + 2 ^ 24) (ip - seriesBits) (exp2Below v (-e).toNat)

/-- log2 a, rounded once (R293). -/
def log2Op (f : Fmt) (ut : Bool) (x : FVal) : Nat × Exc :=
  match x with
  | .nan s => nanRes f s
  | .inf n => if n then nanRes f true else infRes f false
  | .fin n m e =>
    if m = 0 then (f.sign true + f.infCode, { dz := true })
    else if n then nanRes f true
    else
      let k := m.log2
      let ip : Int := e + k
      if m = 2 ^ k then roundTo f .rne ut (decide (ip < 0)) ip.natAbs 0 false
      else
        -- log2 y for y = m / 2^k between 1 and 2, scaled
        let t := 2 * atanhFix (m - 2 ^ k) (m + 2 ^ k)
        let lo : Nat := t * 2 ^ seriesBits / (ln2Fix + 2 ^ 17)
        let hi : Nat := (t + 2 ^ 17) * 2 ^ seriesBits / ln2Fix + 1
        let slo : Int := ip * 2 ^ seriesBits + (lo : Int)
        let shi : Int := ip * 2 ^ seriesBits + (hi : Int)
        if 0 ≤ ip then roundBetween f ut false slo.toNat shi.toNat (-seriesBits) (log2Below false m e)
        else roundBetween f ut true (-shi).toNat (-slo).toNat (-seriesBits) (log2Below true m e)

/-! ## Comparisons (R288, R294) -/

/-- a < b for values that are not NaNs, with −0 equal to +0. -/
def ltVals (x y : FVal) : Bool :=
  match x, y with
  | .nan _, _ => false
  | _, .nan _ => false
  | .inf a, .inf b => a && !b
  | .inf a, _ => a
  | _, .inf b => !b
  | .fin a m e, .fin b n d => decide ((dyadicAdd (signedInt a m, e) (-(signedInt b n), d)).1 < 0)

/-- a = b for values that are not NaNs. -/
def eqVals (x y : FVal) : Bool := !x.isNan && !y.isNan && !ltVals x y && !ltVals y x

/-- The sum of two codes in RNE, without flags: the adds of banks, collectives and splits (R27, R37 to R39). -/
def addRne (f : Fmt) (x y : Nat) : Nat := (addVals f .rne false (unpack f x) (unpack f y)).1

end Sys2Proof.Machine
end

