-- ==== Sys2Proof/Machine/Sync.lean ====
section
/-!
DEFINITION. Acquire loads, release stores, FENCE and the atomics (R265 to R273), the batching of deterministic atomics
(R150, R151) and WAITW (R126).
-/
namespace Sys2Proof.Machine

open Sys2Proof

/-! ## LDA, STL, FENCE -/

/-- LDA (R265, R266): a load, then the acquire of R140. -/
def ldaBody (rd ra : BitVec 5) (scope : BitVec 3) (n : Nat) (ext : Nat → Word) : M Unit := do
  let a ← readReg ra
  let x ← loadM a n
  acquireM scope.toNat
  writeReg rd (ext x)

/-- STL (R265, R266): ra, then rb; the model's stores are performed in order, so the release has nothing to wait for. -/
def stlBody (ra rb : BitVec 5) (n : Nat) : M Unit := do
  let a ← readReg ra
  let x ← readReg rb
  storeM a n x.toNat

/-- LDA.W (R265). -/
def execLdaW (rd ra : BitVec 5) (scope : BitVec 3) (s : State) : Host.Outcome State Fault Refusal :=
  runI (.ldaW rd ra scope) (ldaBody rd ra scope 4 (sextN 32)) s

/-- LDA.D (R265). -/
def execLdaD (rd ra : BitVec 5) (scope : BitVec 3) (s : State) : Host.Outcome State Fault Refusal :=
  runI (.ldaD rd ra scope) (ldaBody rd ra scope 8 (zextN 64)) s

/-- STL.W (R265). -/
def execStlW (ra rb : BitVec 5) (scope : BitVec 3) (s : State) : Host.Outcome State Fault Refusal :=
  runI (.stlW ra rb scope) (stlBody ra rb 4) s

/-- STL.D (R265). -/
def execStlD (ra rb : BitVec 5) (scope : BitVec 3) (s : State) : Host.Outcome State Fault Refusal :=
  runI (.stlD ra rb scope) (stlBody ra rb 8) s

/-- FENCE (R138, R267): with RA set, the acquire side of R140. -/
def execFence (scope : BitVec 3) (rbit wbit rabit wabit : BitVec 1) (s : State) : Host.Outcome State Fault Refusal :=
  runI (.fence scope rbit wbit rabit wabit) (if rabit = 1 then acquireM scope.toNat else pure ()) s

/-! ## Atomics -/

/-- The function f of R269: the new value, whether it is written, and the result, from the operation, the size in
bytes, the old value, g[rb] and g[rd] on entry. -/
def amoFun (op n old : Nat) (xw ew : Word) : Nat × Bool × Word :=
  let w := 8 * n
  let x := xw.toNat % 2 ^ w
  let e := ew.toNat % 2 ^ w
  let lt := decide (sintN w old < sintN w x)
  let sx := sextN w old
  let zx := zextN w old
  match op with
  | 0 => ((old + x) % 2 ^ w, true, sx)
  | 1 => (old &&& x, true, sx)
  | 2 => (old ||| x, true, sx)
  | 3 => (old ^^^ x, true, sx)
  | 4 => (if lt then old else x, true, sx)
  | 5 => (if lt then x else old, true, sx)
  | 6 => (min old x, true, sx)
  | 7 => (max old x, true, sx)
  | 8 => (x, true, sx)
  | 9 => (x, old == e, sx)
  | 10 =>
    let b := if n = 4 then x else min x (2 ^ 63)
    if old < b then (old + 1, true, zx) else (old, false, zx ||| 0x8000000000000000)
  | 11 => ((old + x) % 2 ^ w, true, sx)
  | _ => (addRne (if n = 4 then .f32 else .f64) old x, true, zx)

/-- An ADDT crosses its threshold (R126). -/
def addtCrosses (n old new : Nat) (t : Word) : Bool :=
  let w := 8 * n
  let o := sintN w old
  let v := sintN w new
  let th := sintN w t.toNat
  (decide (o < th) && decide (th ≤ v)) || (decide (th < o) && decide (v ≤ th))

/-- Wake every waiter registered on a word (R126). -/
def State.wakeAll (s : State) (k : Nat) : State :=
  { s with waiters := s.waiters.map (fun w => if w.key == k then { w with woken := true } else w) }

/-- An atomic is batched (R150, R273). -/
def Core.batches (c : Core) (op : Nat) (rd : BitVec 5) : Bool := c.det && decide (op ≤ 7) && (rd != 0 || c.inExchange)

/-- Steps 1 to 4 of R272 in order: where the atomic is performed. -/
def amoPlace (va : Word) (n op : Nat) (rd : BitVec 5) : M Place := do
  let s ← look
  let c := s.me
  let w := windowOf va.toNat
  let shared := match w with | .shared _ _ => true | _ => false
  let bad := match w with | .outside => true | .trigger _ => true | _ => false
  if va.toNat % n ≠ 0 then trap 2 va
  else if bad || ((op == 12 || op == 13) && !shared) then trap 3 va
  else if c.det && (if op ≤ 7 then (if c.batches op rd then c.batchChannel.isNone else detForbids s w)
                    else if op = 13 then !c.inExchange else true) then trapWord 13
  else place va n .amo false

/-- The atomic operations other than WAITW (R269 to R273). -/
def amoBody (op : Nat) (rd ra rb : BitVec 5) (size : BitVec 1) (order : BitVec 2) (scope : BitVec 3) : M Unit := do
  let n := if size = 0 then 4 else 8
  let a ← readReg ra
  let x ← readReg rb
  let e ← if op = 9 ∨ op = 11 then readReg rd else pure 0
  let p ← amoPlace a n op rd
  let s ← look
  if s.eccError p.key n then trap 22 a
  else if s.me.batches op rd then do
    if s.me.isPort rd.toNat then do let _ ← portPartner rd.toNat
    else pendingCheck rd.toNat
    changeMe (fun c => { c with
      batch := c.batch ++ [{ key := p.key, va := a, size := n, op := op, operand := x, rd := rd, ui := c.sup.uia }]
      pendingRegs := if rd = 0 ∨ c.isPort rd.toNat then c.pendingRegs else c.bankReg rd.toNat :: c.pendingRegs })
  else do
    let old := s.peek p.key n
    let r := amoFun op n old x e
    if p.paged then changeMe (fun c => { c with l1d := dropLines c.l1d p.key n })
    if r.2.1 then change (fun s => s.writeMem p.key (leBytes n r.1))
    if op = 11 ∧ addtCrosses n old r.1 e then change (fun s => s.wakeAll p.key)
    if order.getLsbD 0 then acquireM scope.toNat
    if rd ≠ 0 then writeReg rd r.2.2

/-- A waiter is the one of the WAITW at a core's pc and level (R126). -/
def Waiter.isOf (w : Waiter) (c : Core) : Bool := w.core == c.id && w.pc == c.pc && w.level == c.level

/-- The waiter the current core's WAITW has registered on a word. -/
def State.waiterOf (s : State) (key : Nat) : Option Waiter := s.waiters.find? (fun w => w.isOf s.me && w.key == key)

/-- The waiters registered at the bank of a word of die shared memory (R60, R126). -/
def State.bankWaiters (s : State) (key : Nat) : Nat :=
  (s.waiters.filter (fun w => (w.key - sharedKey 0 0) / 2 ^ 27 == (key - sharedKey 0 0) / 2 ^ 27 && w.key / 256 % 512 == key / 256 % 512)).length

/-- The current core's WAITW returns: its slot is free (R126). -/
def State.dropWaiter (s : State) : State := { s with waiters := s.waiters.filter (fun w => !w.isOf s.me) }

/-- The current core's WAITW is registered. -/
def State.addWaiter (s : State) (w : Waiter) : State := { s.dropWaiter with waiters := s.dropWaiter.waiters ++ [w] }

/-- WAITW (R126, R269): the status, or the word to wait on with the waiter to register. -/
def waitwBody (rd ra rb : BitVec 5) (size : BitVec 1) (order : BitVec 2) (scope : BitVec 3) : M (Option Waiter) := do
  let n := if size = 0 then 4 else 8
  let a ← readReg ra
  let x ← readReg rb
  let p ← amoPlace a n 13 rd
  let s ← look
  let done := fun (st : Word) => do
    change State.dropWaiter
    if order.getLsbD 0 then acquireM scope.toNat
    if rd ≠ 0 then writeReg rd st
    pure none
  if s.eccError p.key n then trap 22 a
  else
    let w : Waiter := { core := s.me.id, pc := s.me.pc, level := s.me.level, key := p.key, size := n, target := x, woken := false }
    match s.waiterOf p.key with
    | some v => if v.woken then done 1 else if s.me.waitReady then done 3 else pure (some v)
    | none =>
      if waiterMet s.mem w then done 0
      else if 64 ≤ s.bankWaiters p.key then done 2
      else pure (some w)

/-- The outcome of WAITW: it completes, or its waiter is registered and the core parks; nothing else happens then. -/
def waitwRun (rd ra rb : BitVec 5) (size : BitVec 1) (order : BitVec 2) (scope : BitVec 3) (s : State) :
    Host.Outcome State Fault Refusal :=
  run (.amoWaitw rd ra rb size order scope) (waitwBody rd ra rb size order scope) (fun r s' => match r with
    | none => s'.retire
    | some w =>
      (if (s.waiterOf w.key).isSome then s else s.addWaiter w).park (.word w.key ra rb size order scope) rd) s

/-- AMO ADD (R269). -/
def execAmoAdd (rd ra rb : BitVec 5) (size : BitVec 1) (order : BitVec 2) (scope : BitVec 3) (s : State) : Host.Outcome State Fault Refusal :=
  runI (.amoAdd rd ra rb size order scope) (amoBody 0 rd ra rb size order scope) s

/-- AMO AND (R269). -/
def execAmoAnd (rd ra rb : BitVec 5) (size : BitVec 1) (order : BitVec 2) (scope : BitVec 3) (s : State) : Host.Outcome State Fault Refusal :=
  runI (.amoAnd rd ra rb size order scope) (amoBody 1 rd ra rb size order scope) s

/-- AMO OR (R269). -/
def execAmoOr (rd ra rb : BitVec 5) (size : BitVec 1) (order : BitVec 2) (scope : BitVec 3) (s : State) : Host.Outcome State Fault Refusal :=
  runI (.amoOr rd ra rb size order scope) (amoBody 2 rd ra rb size order scope) s

/-- AMO XOR (R269). -/
def execAmoXor (rd ra rb : BitVec 5) (size : BitVec 1) (order : BitVec 2) (scope : BitVec 3) (s : State) : Host.Outcome State Fault Refusal :=
  runI (.amoXor rd ra rb size order scope) (amoBody 3 rd ra rb size order scope) s

/-- AMO MIN (R269). -/
def execAmoMin (rd ra rb : BitVec 5) (size : BitVec 1) (order : BitVec 2) (scope : BitVec 3) (s : State) : Host.Outcome State Fault Refusal :=
  runI (.amoMin rd ra rb size order scope) (amoBody 4 rd ra rb size order scope) s

/-- AMO MAX (R269). -/
def execAmoMax (rd ra rb : BitVec 5) (size : BitVec 1) (order : BitVec 2) (scope : BitVec 3) (s : State) : Host.Outcome State Fault Refusal :=
  runI (.amoMax rd ra rb size order scope) (amoBody 5 rd ra rb size order scope) s

/-- AMO MINU (R269). -/
def execAmoMinu (rd ra rb : BitVec 5) (size : BitVec 1) (order : BitVec 2) (scope : BitVec 3) (s : State) : Host.Outcome State Fault Refusal :=
  runI (.amoMinu rd ra rb size order scope) (amoBody 6 rd ra rb size order scope) s

/-- AMO MAXU (R269). -/
def execAmoMaxu (rd ra rb : BitVec 5) (size : BitVec 1) (order : BitVec 2) (scope : BitVec 3) (s : State) : Host.Outcome State Fault Refusal :=
  runI (.amoMaxu rd ra rb size order scope) (amoBody 7 rd ra rb size order scope) s

/-- AMO SWAP (R269). -/
def execAmoSwap (rd ra rb : BitVec 5) (size : BitVec 1) (order : BitVec 2) (scope : BitVec 3) (s : State) : Host.Outcome State Fault Refusal :=
  runI (.amoSwap rd ra rb size order scope) (amoBody 8 rd ra rb size order scope) s

/-- AMO CAS (R269). -/
def execAmoCas (rd ra rb : BitVec 5) (size : BitVec 1) (order : BitVec 2) (scope : BitVec 3) (s : State) : Host.Outcome State Fault Refusal :=
  runI (.amoCas rd ra rb size order scope) (amoBody 9 rd ra rb size order scope) s

/-- AMO INCB (R269). -/
def execAmoIncb (rd ra rb : BitVec 5) (size : BitVec 1) (order : BitVec 2) (scope : BitVec 3) (s : State) : Host.Outcome State Fault Refusal :=
  runI (.amoIncb rd ra rb size order scope) (amoBody 10 rd ra rb size order scope) s

/-- AMO ADDT (R269). -/
def execAmoAddt (rd ra rb : BitVec 5) (size : BitVec 1) (order : BitVec 2) (scope : BitVec 3) (s : State) : Host.Outcome State Fault Refusal :=
  runI (.amoAddt rd ra rb size order scope) (amoBody 11 rd ra rb size order scope) s

/-- AMO FADD (R269). -/
def execAmoFadd (rd ra rb : BitVec 5) (size : BitVec 1) (order : BitVec 2) (scope : BitVec 3) (s : State) : Host.Outcome State Fault Refusal :=
  runI (.amoFadd rd ra rb size order scope) (amoBody 12 rd ra rb size order scope) s

/-- AMO WAITW (R126, R269). -/
def execAmoWaitw (rd ra rb : BitVec 5) (size : BitVec 1) (order : BitVec 2) (scope : BitVec 3) (s : State) : Host.Outcome State Fault Refusal :=
  waitwRun rd ra rb size order scope s

end Sys2Proof.Machine
end

