-- ==== Sys2Proof/Machine/Barrier.lean ====
section
/-!
DEFINITION. The barrier channels (R118 to R125, R274): arrivals, expectations, bytes, the completion of an episode with
its gather record (R33) and its batched atomics (R150 to R152), and the instructions that wait.
-/
namespace Sys2Proof.Machine

open Sys2Proof

/-! ## A parked instruction that an event ends -/

/-- An event ends the wait of the current core's instruction: it is performed now, as one whose wait is over. A member
of a fused gang performs it at its own next turn, where it is forwarded in its slot (R92). -/
def State.endWait (s : State) (perform : State → Host.Outcome State Fault Refusal) : Host.Outcome State Fault Refusal :=
  let t : State := { s with me := { s.me with wait := s.me.wait.map (fun w => { w with ready := true }) } }
  if s.fused then .next t else perform t

/-! ## Marks -/

/-- The event counters as ARRIVE.G contributes them, with GATHERPTR as it is now (R33). -/
def Core.gathered (c : Core) : Gathered where
  core := c.id
  unit := c.unitNum
  ptr := c.user.gatherptr
  counts := c.user.evcnt.toList

/-- A core's mark in the open episode of a channel (R121, R124, R150). -/
def State.markIn (s : State) (core ch : Nat) (gather : Bool) : State :=
  let c := s.core core
  match s.channel? ch with
  | none => s
  | some x =>
    let s := s.updChannel ch (fun y => { y with
      marks := y.marks ++ [c.unitNum]
      gathered := if gather then y.gathered ++ [c.gathered] else y.gathered })
    s.updCore core (fun c => { c with
      awaited := setAssoc ch x.epoch c.awaited
      batchArrived := c.batchArrived || (c.batchChannel == some ch) })

/-! ## The completion of an episode -/

/-- The sum of the gathered counters, doubleword by doubleword (R33). -/
def gatherSum (gs : List Gathered) : List Byte :=
  ((List.range 8).map (fun i => leBytes 8 (sumNat (gs.map (fun g => (nth 0 g.counts i).toNat))))).flatten

/-- The gather record's write: the address of the lowest-numbered core that arrived by ARRIVE.G, under its context. -/
def State.gatherWrite (s : State) (ch : Channel) : Except (EngRes × State) State :=
  match (sortBy (fun (a b : Gathered) => a.core ≤ b.core) ch.gathered) with
  | [] => .ok s
  | g :: _ => s.engStoreAs (s.hubAgent ch.ctx g.core) g.ptr.toNat (gatherSum ch.gathered)

/-- Write a general register of either bank, by its number of Core.bankReg. -/
def Core.setBank (c : Core) (n : Nat) (w : Word) : Core :=
  if c.bankReg (n % 32) = n then c.setGpr (n % 32) w else { c with shadow := c.shadow.setIfInBounds (n % 32 - 16) w }

/-- The register a batched atomic returns to. -/
def Batched.reg (b : Batched) : Nat := if 16 ≤ b.rd.toNat ∧ b.rd.toNat < 24 ∧ b.ui = true then b.rd.toNat + 32 else b.rd.toNat

/-- A word a batched atomic returns: to its register, or, if that is a port, to be sent (R99, R151). -/
def Core.batchResult (c : Core) (b : Batched) (cycle : Nat) (w : Word) : Core :=
  if b.rd = 0 then c
  else if c.isPort b.rd.toNat then
    { c with portResults := c.portResults ++ [(b.rd, w)], portSince := if c.portResults.isEmpty then cycle else c.portSince }
  else c.setBank b.reg w

/-- One batched request is performed (R151). -/
def State.batchOne (s : State) (core : Nat) (b : Batched) : State :=
  let old := s.peek b.key b.size
  let r := amoFun b.op b.size old b.operand 0
  let s := s.writeMem b.key (leBytes b.size r.1)
  s.updCore core (fun c => ({ c with l1d := dropLines c.l1d b.key b.size } : Core).batchResult b s.cycle r.2.2)

/-- The held requests of the marked units, by unit index and program order, with their cores. What becomes of the requests
of a unit that is cancelled after its arrival, before its episode completes, the manual does not say: they go with the
unit, which stands on no core any more. DESIGN CHOICE (log 29). -/
def State.batchRequests (s : State) (ch : Channel) : List (Nat × Batched) :=
  match s.launch? ch.holder with
  | none => []
  | some l => ((sortBy (fun (a b : Nat) => a ≤ b) ch.marks).map (fun u => match assoc u l.units with
      | some (.on n) => (s.core n).batch.map (fun b => (n, b))
      | _ => [])).flatten

/-- A unit's batch is over; in a failed episode each of its atomics writes 0 (R151). -/
def Core.closeBatch (c : Core) (cycle : Nat) (failed : Bool) : Core :=
  let c := if failed then c.batch.foldl (fun c b => c.batchResult b cycle 0) c else c
  { c with batch := [], pendingRegs := [], batchArrived := false }

/-- The batched atomics of an episode: performed when it succeeds, dropped with rd = 0 when it fails (R151). -/
def State.batchPerform (s : State) (ch : Channel) (failed : Bool) : State :=
  if !s.isBatchChannel ch then s
  else
    let s := if failed then s else (s.batchRequests ch).foldl (fun (s : State) (x : Nat × Batched) => s.batchOne x.1 x.2) s
    let cycle := s.cycle
    ch.marks.foldl (fun s u => s.atUnit ch.holder u (fun c => c.closeBatch cycle failed)) s

/-- The next try of a write that was refused or met a migrating page: 4,096 cycles after this one, or, of one that waits
already, after the time this one was due (R70, R388). -/
def nextTry (due : Option (Nat × Bool)) (cycle : Nat) : Nat :=
  match due with
  | some (t, _) => t + 4096
  | none => cycle + 4096

/-- C has left its range (R121). -/
def countOut (c : Int) : Bool := decide (c < -(2 ^ 39)) || decide (2 ^ 39 ≤ c)

/-- The open episode completes (R121): PHASE toggles, waiters find it over, exchange stretches on the channel end
(R103), arrivals count as progress (R55); then the next episode opens and stalled arrivals are marked in it. -/
def State.finishEpisode (s : State) (ch : Channel) (failed : Bool) : State :=
  let s := s.batchPerform ch failed
  let cycle := s.cycle
  let s := ch.marks.foldl (fun s u => s.atUnit ch.holder u (fun c => c.progress cycle)) s
  let s := s.mapUnits (fun c => { c with exchange := c.exchange.filter (fun x => x.1 != ch.num) })
  let s := s.updChannel ch.num (fun x => { x with
    epoch := ch.epoch + 1, count := ch.nextCount, nextCount := 0, marks := [], stalled := [], gathered := [],
    phase := !ch.phase, failed := failed,
    failedEpochs := if failed then ch.epoch :: ch.failedEpochs else ch.failedEpochs,
    failing := countOut ch.nextCount, gatherDue := none, recentMarks := [], recentBytes := 0 })
  -- the stalled second arrivals
  match s.launch? ch.holder with
  | none => s
  | some l => ch.stalled.foldl (fun s u => match assoc u l.units with
      | some (.on n) =>
        (match (s.core n).wait with
         | some w => (match w.kind with
           | .arrive c g =>
             if c = ch.num then
               (s.markIn n c g).updCore n (fun c => { c with wait := some { w with ready := true } })
             else s
           | _ => s)
         | none => s)
      | _ => s) s

/-- The episode must complete as failed, and no evicted member holds it (R121, R152). -/
def State.mustFail (s : State) (ch : Channel) : Bool := ch.failing && !s.evictionHolds ch

/-- EPISODE_COMPLETE: when the condition holds, the gather record is written and the episode completes; a gather write
that faults fails it, one that is refused or meets a migrating page waits (R33, R121). -/
def State.episodeComplete (s : State) (n : Nat) : State :=
  match s.channel? n with
  | none => s
  | some ch =>
    if ch.failing then (if s.mustFail ch then s.finishEpisode ch true else s)
    else if s.episodeReady ch then
      match s.gatherWrite ch with
      | .ok s => s.finishEpisode ch false
      | .error (.retry, _) => s.updChannel n (fun c => { c with gatherDue := some (nextTry c.gatherDue s.cycle, false) })
      | .error (.migrating, _) => s.updChannel n (fun c => { c with gatherDue := some (nextTry c.gatherDue s.cycle, true) })
      | .error (_, s) => s.finishEpisode ch true
    else s

/-! ## The instructions -/

/-- A barrier instruction names a channel its launch holds and, but for BCANCEL, one it is a member of (R118, R123). -/
def channelCheck (ch : BitVec 5) (member : Bool) : M Channel := do
  let s ← look
  let v := BitVec.ofNat 64 ch.toNat
  if !s.me.holds ch.toNat || (member && !s.me.member ch.toNat) then trap 3 v
  else match s.channel? ch.toNat with
    | some x => pure x
    | none => trap 3 v

/-- ARRIVE and ARRIVE.G: none when it is done, or the channel of a second arrival (R121). -/
def arriveBody (ch : BitVec 5) (gather : Bool) : M Bool := do
  let x ← channelCheck ch true
  let c ← meM
  if c.waitReady then pure false
  else if x.marks.contains c.unitNum then pure true
  else do
    change (fun s => (s.markIn s.me.id ch.toNat gather).updChannel ch.toNat (fun y =>
      let z := y.inCycle s.cycle
      { z with recentMarks := z.recentMarks ++ [c.unitNum] }))
    pure false

/-- The outcome of an ARRIVE: done, or stalled until the episode completes (R121, R274). -/
def arriveRun (i : Instr) (ch : BitVec 5) (gather : Bool) (s : State) : Host.Outcome State Fault Refusal :=
  run i (arriveBody ch gather) (fun stalls s' =>
    if stalls then
      (s.updChannel ch.toNat (fun x => { x with
        stalled := if x.stalled.contains s.me.unitNum then x.stalled else x.stalled ++ [s.me.unitNum] })).park (.arrive ch.toNat gather) 0
    else s'.retire) s

/-- The status word of WAIT and BTEST (R124). -/
def barrierStatus (ch : Channel) (epoch : Nat) (timeout : Bool) : Word :=
  let done := decide (epoch < ch.epoch)
  (bitWord done <<< 63) ||| (bitWord (done && ch.failedEpochs.contains epoch) <<< 62) ||| (bitWord timeout <<< 61) |||
  BitVec.ofNat 64 (epoch % 2 ^ 32)

/-- The awaited episode: of the latest mark, else the one open (at the issue of a WAIT that is waiting) (R124). -/
def Core.awaitedOn (c : Core) (ch : Channel) : Nat :=
  match assoc ch.num c.awaited, c.wait.bind (·.awaits) with
  | some e, _ => e
  | none, some (n, e) => if n = ch.num then e else ch.epoch
  | none, none => ch.epoch

/-- WAIT (R124, R125); the result says that cause 15 follows. -/
def waitBody (rd ch : BitVec 5) : M Bool := do
  let x ← channelCheck ch true
  let c ← meM
  let e := c.awaitedOn x
  if e < x.epoch then do
    acquireM 4
    writeReg rd (barrierStatus x e false)
    pure (x.failedEpochs.contains e && c.user.bmask.getLsbD 32)
  else if c.waitReady then do
    writeReg rd (barrierStatus x e true)
    pure false
  else stall (.barrier ch.toNat e) rd

/-- WAIT completes; with FTRAP set a failed episode then traps with cause 15, the pc saved past the WAIT (R53, R124). -/
def waitFinish (ch : BitVec 5) (traps : Bool) (s : State) : State :=
  let t := s.retire
  if traps then t.takeTrapAt 15 (BitVec.ofNat 64 ch.toNat) t.me.pc else t

/-- BTEST (R124, R125). -/
def btestBody (rd ch : BitVec 5) : M Unit := do
  let x ← channelCheck ch true
  let c ← meM
  let e := c.awaitedOn x
  if e < x.epoch then acquireM 4
  writeReg rd (barrierStatus x e false)

/-- EXPECT (R121, R124). -/
def expectBody (ra ch : BitVec 5) : M Unit := do
  let n ← readReg ra
  let x ← channelCheck ch true
  let c ← meM
  if 2 ^ 39 ≤ n.toNat then trapWord 0
  else if x.marks.contains c.unitNum then
    change (fun s => s.updChannel ch.toNat (fun x => { x with nextCount := x.nextCount + n.toNat }))
  else
    change (fun s => s.updChannel ch.toNat (fun x => { x with
      count := x.count + n.toNat, failing := x.failing || countOut (x.count + n.toNat) }))

/-- Units whose arrival coincides with a BCANCEL are marked in the episode that is open after it (R122). -/
def State.markAfter (s : State) (n : Nat) (us : List Nat) (gs : List Gathered) : State :=
  match s.channel? n with
  | none => s
  | some x =>
    us.foldl (fun s u => s.atUnit x.holder u (fun c => { c with awaited := setAssoc n x.epoch c.awaited }))
      (s.updChannel n (fun y => { y with marks := y.marks ++ us, gathered := y.gathered ++ gs }))

/-- A BCANCEL ends the open episode as failed, at once or when no evicted member holds it (R121, R152): the arrivals and
the bytes of its own cycle count in the next episode (R122). -/
def State.failEpisode (s : State) (x : Channel) : State :=
  let now := x.inCycle s.cycle
  let late := fun (u : Nat) => now.recentMarks.contains u
  let y : Channel := { now with failing := true, cancelAt := some s.cycle }
  let t := s.updChannel x.num (fun _ => y)
  if t.mustFail y then
    let z : Channel := { y with
      marks := y.marks.filter (fun u => !late u)
      gathered := y.gathered.filter (fun g => !late g.unit)
      nextCount := y.nextCount - now.recentBytes }
    (t.finishEpisode z true).markAfter x.num now.recentMarks (y.gathered.filter (fun g => late g.unit))
  else t

/-- BCANCEL (R121, R122, R124): an episode whose conditions held before this cycle has completed first, and the next one
fails; a second BCANCEL of the same cycle has failed it already. -/
def State.bcancel (s : State) (x : Channel) : State :=
  let now := x.inCycle s.cycle
  if x.cancelAt = some s.cycle then s
  else if now.recentMarks.isEmpty && now.recentBytes == 0 && s.episodeReady x && x.gatherDue.isNone && !x.failing then
    let t := s.episodeComplete x.num
    match t.channel? x.num with
    | some y => t.failEpisode y
    | none => t
  else s.failEpisode x

/-- BCANCEL (R121, R124). -/
def bcancelBody (ch : BitVec 5) : M Unit := do
  let x ← channelCheck ch false
  change (fun s => s.bcancel x)

/-- ARRIVE (R121, R123). -/
def execArrive (ch : BitVec 5) (s : State) : Host.Outcome State Fault Refusal := arriveRun (.arrive ch) ch false s

/-- ARRIVE.G (R33, R121, R123). -/
def execArriveG (ch : BitVec 5) (s : State) : Host.Outcome State Fault Refusal := arriveRun (.arriveG ch) ch true s

/-- WAIT (R124). -/
def execWait (rd ch : BitVec 5) (s : State) : Host.Outcome State Fault Refusal :=
  run (.wait rd ch) (waitBody rd ch) (waitFinish ch) s

/-- BTEST (R124). -/
def execBtest (rd ch : BitVec 5) (s : State) : Host.Outcome State Fault Refusal := runI (.btest rd ch) (btestBody rd ch) s

/-- EXPECT (R121, R124). -/
def execExpect (ra ch : BitVec 5) (s : State) : Host.Outcome State Fault Refusal := runI (.expect ra ch) (expectBody ra ch) s

/-- BCANCEL (R121, R124). -/
def execBcancel (ch : BitVec 5) (s : State) : Host.Outcome State Fault Refusal := runI (.bcancel ch) (bcancelBody ch) s

/-! ## The events -/

/-- BOUND_BYTES_LAND (R121, R358): in the open episode, or nowhere when the channel is free. -/
def execBoundBytesLand (channel bytes : Nat) (s : State) : Host.Outcome State Fault Refusal :=
  event (fun s => s.landBytes channel bytes) s

/-- EPISODE_COMPLETE (R121, R33, R151). -/
def execEpisodeComplete (channel : Nat) (s : State) : Host.Outcome State Fault Refusal :=
  event (fun s => s.episodeComplete channel) s

/-- The WAITTO period of the instruction the core is parked in has passed (R124). -/
def Core.waittoDue (c : Core) (cycle : Nat) : Bool :=
  match c.wait with
  | some w => (match w.kind with
    | .barrier _ _ => decide (w.limit ≠ 0) && decide (w.limit ≤ cycle - w.since)
    | .word _ _ _ _ _ _ => decide (w.limit ≠ 0) && decide (w.limit ≤ cycle - w.since)
    | _ => false) && !w.ready
  | none => false

/-- WAITTO_EXPIRY (R124, R126): the parked WAIT or WAITW returns as it now stands: an awaited episode that has completed
by then is returned as such, with its acquire and its cause 15, and a woken waiter as woken; else WAIT returns DONE = 0
and TIMEOUT = 1, WAITW status 3. -/
def execWaittoExpiry (s : State) : Host.Outcome State Fault Refusal :=
  match s.me.wait with
  | some { kind := .barrier n _, rd := rd, .. } =>
    if s.me.waittoDue s.cycle then s.endWait (execWait rd (BitVec.ofNat 5 n)) else .next s
  | some { kind := .word _ ra rb size order scope, rd := rd, .. } =>
    if s.me.waittoDue s.cycle then s.endWait (execAmoWaitw rd ra rb size order scope) else .next s
  | _ => .next s

/-! ## Results of batched atomics that go to a port (R99, R101, R102, R151) -/

/-- The oldest such result: its register, its word, and where it goes. -/
def State.headResult (s : State) : Option (BitVec 5 × Word × Option (Nat × Nat)) :=
  match s.me.portResults with
  | [] => none
  | (r, w) :: _ => some (r, w, match s.me.portTarget (r.toNat - 24) with
    | some t => if s.partnerOk t.1 then some t else none
    | none => none)

/-- The oldest result need not wait: it goes to a receiver with room, or nowhere (cause 3). -/
def State.portResultReady (s : State) : Bool :=
  match s.headResult with
  | none => false
  | some (_, _, none) => true
  | some (_, _, some (n, q)) => !s.me.portRefused && !s.retries n s.me.ctx && (s.core n).portRoom q

/-- The oldest result is no longer to be sent; the next one's stall is counted from now. -/
def Core.dropResult (c : Core) (cycle : Nat) : Core :=
  { c with portResults := c.portResults.drop 1, portSince := cycle, portRefused := false }

/-- The oldest result is sent; with no partner the core takes cause 3 at its boundary, and nothing is sent. -/
def State.sendResult (s : State) : State :=
  match s.headResult with
  | none => s
  | some (r, w, t) =>
    let d := s.updMe (fun c => c.dropResult s.cycle)
    match t with
    | none => d.takeTrap 3 (r.zeroExtend 64)
    | some (n, q) => d.portDeliver n q w

/-- The router of the oldest result's receiver answers retry. -/
def State.resultRetries (s : State) : Bool :=
  match s.headResult with
  | some (_, _, some (n, _)) => s.retries n s.me.ctx
  | _ => false

/-- The oldest result meets its receiver's router: for the first time, or 256 cycles after its last retry reply (R49). -/
def State.resultTries (s : State) : Bool :=
  if s.me.portRefused then decide (s.me.portSince + 256 ≤ s.cycle) else s.resultRetries

/-- The oldest result is resent (R49): another retry reply lets it wait on; else it may go, and a stall at a full receiver
is counted from now (R101). -/
def State.retryResult (s : State) : State :=
  let again := s.resultRetries
  s.updMe (fun c => { c with portRefused := again, portSince := s.cycle })

/-- PORTWAIT cycles have passed since the oldest result found its receiver full; the cycles in which a router answers
retry do not count (R101). -/
def State.resultExpired (s : State) : Option (BitVec 5) :=
  match s.headResult with
  | some (r, _, some (n, _)) =>
    let limit := s.me.user.portwait.toNat
    if !s.portResultReady && !s.me.portRefused && !s.retries n s.me.ctx && decide (limit ≠ 0) && decide (s.me.portSince + limit ≤ s.cycle) then
      some r
    else none
  | _ => none

end Sys2Proof.Machine
end

