-- ==== Sys2Proof/Machine/Link.lean ====
section
/-!
DEFINITION. The Fihorn ports: flits and their CRC, striping and scrambling, go-back-N, on/off flow control, training and
the port states, and the choice of a port for what leaves the package (R153 to R162).
-/
namespace Sys2Proof.Machine

open Sys2Proof

/-! ## Flits -/

/-- One step of the CRC (R156). -/
def crcStep (crc : BitVec 24) (bit : Bool) : BitVec 24 :=
  let shifted := crc <<< 1
  if xor (crc.getLsbD 23) bit then shifted ^^^ 0x5D6DCB#24 else shifted

/-- The CRC of a flit: over bits 255 to 24, most significant first, from all ones (R156). -/
def flitCrc (flit : BitVec 256) : BitVec 24 :=
  (List.range 232).foldl (fun c i => crcStep c (flit.getLsbD (255 - i))) 0xFFFFFF#24

/-- The received CRC is right (R156). -/
def crcOk (flit : BitVec 256) : Bool := flit.extractLsb' 0 24 == flitCrc flit

/-- A flit from BODY, CTL and SEQ, with its CRC (R153). -/
def mkFlit (body : BitVec 224) (ctl : Bool) (seq : Nat) : BitVec 256 :=
  let top : BitVec 256 := (body ++ (BitVec.ofBool ctl) ++ BitVec.ofNat 7 seq) ++ (0 : BitVec 24)
  top ||| (flitCrc top).zeroExtend 256

/-- A data flit (R153). -/
def dataFlitOf (body : BitVec 224) (seq : Nat) : BitVec 256 := mkFlit body false (seq % 128)

/-- A control flit: TYPE in BODY[255:248] and a field below it (R155). -/
def ctlFlit (type : Nat) (field width : Nat) : BitVec 256 :=
  mkFlit (BitVec.ofNat 224 (type * 2 ^ 216 + (field % 2 ^ width) * 2 ^ (216 - width))) true 0

/-- The TYPE of a control flit. -/
def flitType (flit : BitVec 256) : Nat := (flit.extractLsb' 248 8).toNat

/-- SEQ of an ACK or NAK (R155). -/
def ctlSeq (flit : BitVec 256) : Nat := (flit.extractLsb' 241 7).toNat

/-- The stamp of a PROBE or ECHO (R155). -/
def ctlStamp (flit : BitVec 256) : Nat := (flit.extractLsb' 216 32).toNat

/-- A control flit of a type with a right CRC; any other control flit is not acted on (R154, R155). -/
def isCtl (flit : BitVec 256) (type : Nat) : Bool := crcOk flit && flit.getLsbD 31 && (flitType flit == type)

/-- FLOW: the ON bits of classes 3 to 0 (R155). -/
def flowFlit (off : List Nat) : BitVec 256 :=
  ctlFlit 0x03 (((List.range 4).filter (fun c => !off.contains c)).foldl (fun n c => n + 2 ^ c) 0) 4

/-- IDLE, which fills every flit time that nothing else takes (R155). -/
def idleFlitOf : BitVec 256 := ctlFlit 0x00 0 0

/-! ## Lanes (R157, R158) -/

/-- The level of a pair of bits, the first sent the more significant (R157). -/
def grayLevel (first second : Bool) : Level :=
  match first, second with
  | false, false => .n3
  | false, true => .n1
  | true, true => .p1
  | true, false => .p3

/-- The pair of bits that a level carries (R157). -/
def levelPair : Level → List Bool
  | .n3 => [false, false]
  | .n1 => [false, true]
  | .p1 => [true, true]
  | .p3 => [true, false]

/-- A level on a lane whose polarity is inverted. -/
def negLevel : Level → Level
  | .n3 => .p3
  | .n1 => .p1
  | .p1 => .n1
  | .p3 => .n3

/-- Line bits as PAM4 symbols, and symbols as line bits (R157). -/
def symbolsOf : List Bool → List Level
  | a :: b :: rest => grayLevel a b :: symbolsOf rest
  | _ => []
def lineBits (ls : List Level) : List Bool := ls.flatMap levelPair

/-- The j-th bit sent of a run of bytes stands in byte j / 8 at this place: the order 1, 0, 3, 2, 5, 4, 7, 6 (R157). -/
def sentPlace (j : Nat) : Nat := 8 * (j / 8) + (if j % 2 = 0 then j % 8 + 1 else j % 8 - 1)

/-- The bits of a flit on one lane, in sending order (R157). -/
def laneBits (flit : BitVec 256) (l : Nat) : List Bool :=
  (List.range 64).map (fun j => flit.getLsbD (8 * (4 * (j / 8) + l) + sentPlace j % 8))

/-- A list of bits as a number, the first the least significant. -/
def bitsVal : List Bool → Nat
  | [] => 0
  | b :: bs => (if b then 1 else 0) + 2 * bitsVal bs

/-- The flit that four lanes carry, from the bits of each in sending order (R157). -/
def flitOfLanes (lanes : List (List Bool)) : BitVec 256 :=
  BitVec.ofNat 256 (bitsVal ((List.range 256).map (fun i => nth false (nth [] lanes (i / 8 % 4)) (sentPlace (8 * (i / 32) + i % 8)))))

/-- One step of a lane's generator: the next state, and the bit k (R158). -/
def scrStep (x : BitVec 31) : BitVec 31 × Bool :=
  let k := xor (x.getLsbD 30) (x.getLsbD 27)
  ((x <<< 1) ||| (BitVec.ofBool k).zeroExtend 31, k)

/-- A generator n bits later. -/
def scrAfter : Nat → BitVec 31 → BitVec 31
  | 0, x => x
  | n + 1, x => scrAfter n (scrStep x).1

/-- Line bits of data bits, or data bits of line bits, and the generator after them (R158). -/
def scramble : List Bool → BitVec 31 → List Bool × BitVec 31
  | [], x => ([], x)
  | d :: ds, x =>
    let (x', k) := scrStep x
    let (ls, y) := scramble ds x'
    (xor d k :: ls, y)

/-! ## Training blocks (R159) -/

/-- A training block of a lane (R159). -/
def trainBlock (lane port : Nat) (ready : Bool) : BitVec 64 :=
  BitVec.ofNat 64 (0xD3C59A1E + lane % 4 * 2 ^ 32 + port % 16 * 2 ^ 34 + (if ready then 2 ^ 38 else 0))

/-- The bits of a block in sending order: its bytes as a flit's (log 30). -/
def blockBits (b : BitVec 64) : List Bool := (List.range 64).map (fun j => b.getLsbD (sentPlace j))

/-- The block that 64 received bits carry. -/
def blockOf (bits : List Bool) : BitVec 64 := BitVec.ofNat 64 (bitsVal ((List.range 64).map (fun i => nth false bits (sentPlace i))))

/-- The generator, when a list of line bits is its sequence from a state on (R159). -/
def follows : List Bool → BitVec 31 → Option (BitVec 31)
  | [], x => some x
  | b :: bs, x => if (scrStep x).2 = b then follows bs (scrStep x).1 else none

/-- A descrambler loaded from 31 line bits of all-zero data: each bit enters as the generator's own does (R158, R159). -/
def loadScr (bits : List Bool) : BitVec 31 :=
  bits.foldl (fun x b => (x <<< 1) ||| (BitVec.ofBool b).zeroExtend 31) 0

/-- Phase 1 at a lane (R159): loaded from 31 bits, it has predicted the 4,096 bits and more that follow. -/
def lockBits (bits : List Bool) : Option (BitVec 31) :=
  if 31 + 4096 ≤ bits.length then follows (bits.drop 31) (loadScr (bits.take 31)) else none

/-- Phase 1 at a lane of either polarity (log 30). -/
def lockLane (rx : List Level) : Option (BitVec 31) :=
  match lockBits (lineBits rx) with
  | some x => some x
  | none => lockBits (lineBits (rx.map negLevel))

/-- The data bits of n symbols of a lane, from a skew on, in a polarity; a generator for them. -/
def laneData (rx : List Level) (skew n : Nat) (inverted : Bool) (x : BitVec 31) : List Bool × BitVec 31 :=
  let ls := (rx.drop skew).take n
  scramble (lineBits (if inverted then ls.map negLevel else ls)) x

/-- The blocks of data bits. -/
def blocksOf : Nat → List Bool → List (BitVec 64)
  | 0, _ => []
  | n + 1, bits => blockOf (bits.take 64) :: blocksOf n (bits.drop 64)

/-- The lane number of a block with the marker. -/
def markedLane (b : BitVec 64) : Option Nat := if b.extractLsb' 0 32 = 0xD3C59A1E#32 then some (b.extractLsb' 32 2).toNat else none

/-- What a run of blocks tells of its lane: the marker in each, with one lane number. -/
def sameLane (bs : List (BitVec 64)) : Option Nat :=
  match bs with
  | [] => none
  | b :: rest => match markedLane b with
    | some n => if rest.all (fun c => markedLane c == some n) then some n else none
    | none => none

/-- Phase 2 at a lane (R159): the marker at one block position 16 times running, at a skew of up to 64 symbols, in either
polarity; with the descrambler after the 16 blocks. gap is how many symbols have passed since it stood as given. -/
def alignLane (rx : List Level) (gap : Nat) (x : BitVec 31) : Option (TrainedLane × BitVec 31) :=
  ((List.range 65).flatMap (fun k => [(k, false), (k, true)])).findSome? (fun c =>
    if (rx.drop c.1).length < 512 then none
    else
      let (bits, y) := laneData rx c.1 512 c.2 (scrAfter (2 * (gap + c.1)) x)
      (sameLane (blocksOf 16 bits)).map (fun n => ({ number := n, inverted := c.2, skew := c.1 }, y)))

/-- Phase 3 at a lane (R159): 64 blocks with READY, and the descrambler after them. -/
def startLane (t : TrainedLane) (rx : List Level) (gap : Nat) (x : BitVec 31) : Option (BitVec 31) :=
  if (rx.drop t.skew).length < 2048 then none
  else
    let (bits, y) := laneData rx t.skew 2048 t.inverted (scrAfter (2 * gap) x)
    let bs := blocksOf 64 bits
    if sameLane bs = some t.number ∧ bs.all (fun b => b.getLsbD 38) then some y else none

/-- All of a list of options, or none. -/
def allSome {α : Type} : List (Option α) → Option (List α)
  | [] => some []
  | none :: _ => none
  | some a :: rest => (allSome rest).map (a :: ·)

/-! ## Ports -/

/-- Change a port. -/
def State.updPort (s : State) (n : Nat) (f : LinkPort → LinkPort) : State :=
  { s with ports := s.ports.map (fun p => if p.num == n then f p else p) }

/-- A port by number. -/
def State.port? (s : State) (n : Nat) : Option LinkPort := s.ports.find? (fun p => p.num == n)

/-- Flit times since the first flit of a port: 0.32 ns each, at 940 cycles in a microsecond (R5, R157, R159). -/
def State.flitCount (s : State) (p : LinkPort) : Nat := (s.cycle - p.flitsFrom) * 625 / 188

/-- Flits pass on the port: it is up, or measures (R159). -/
def LinkPort.flitsRun (p : LinkPort) : Bool :=
  p.state == .up || ((p.state == .training || p.state == .retraining) && p.phase == 4)

/-- Put 64 bits of each lane on the line at a flit time, scrambled by the lane's generator (R157, R158). -/
def LinkPort.putLine (p : LinkPort) (at' : Nat) (bits : Nat → List Bool) : LinkPort :=
  let out := (p.sendScr.map (scrAfter (64 * (at' - p.scrAt)))).mapIdx (fun l x => scramble (bits l) x)
  { p with
    line := out.map (fun o => symbolsOf o.1)
    sendScr := out.map (fun o => o.2)
    scrAt := max at' p.scrAt + 1 }

/-- The flit times before a flit count in which the port has sent nothing carry IDLE (R155). -/
def LinkPort.fillIdle (p : LinkPort) (at' : Nat) : LinkPort :=
  if p.scrAt < at' then
    let q := p.putLine (at' - 1) (laneBits idleFlitOf)
    { q with idles := p.idles + (at' - p.scrAt) }
  else p

/-- Send one flit at a flit count, after the IDLE flits before it (R155, R157, R158). -/
def LinkPort.sendFlit (p : LinkPort) (at' : Nat) (flit : BitVec 256) : LinkPort :=
  let q := (p.fillIdle at').putLine at' (laneBits flit)
  { q with sent := p.sent ++ [flit] }

/-- What phases 1 to 3 send on a lane in a flit time: all-zero data, or a training block (R159). -/
def LinkPort.trainBits (p : LinkPort) (l : Nat) : List Bool :=
  if p.phase = 1 then List.replicate 64 false else blockBits (trainBlock l p.num p.ready)

/-- A block of phases 1 to 3 at a flit count (R159). -/
def LinkPort.sendTraining (p : LinkPort) (at' : Nat) : LinkPort :=
  { p.putLine at' p.trainBits with blocks := p.blocks + 1 }

/-- The blocks of phases 1 to 3 follow one another on every lane: those before a flit count have been sent (R159). -/
def LinkPort.fillTraining (p : LinkPort) (at' : Nat) : LinkPort :=
  if p.scrAt < at' then { p.putLine (at' - 1) p.trainBits with blocks := p.blocks + (at' - p.scrAt) } else p

/-- The port sends blocks: it trains or retrains, before the first flit (R159). -/
def LinkPort.blocksRun (p : LinkPort) : Bool :=
  (p.state == .training || p.state == .retraining) && decide (1 ≤ p.phase) && decide (p.phase ≤ 3)

/-- The flit that the lanes bring at a flit count, and the port with its descramblers after it: each lane deskewed, with
its polarity undone, descrambled, and put in the place of the lane that feeds it (R157 to R159). -/
def LinkPort.takeFlit (p : LinkPort) (at' : Nat) (rx : List (List Level)) : BitVec 256 × LinkPort :=
  let out := (p.recvScr.map (scrAfter (64 * (at' - p.rxAt)))).mapIdx (fun i x =>
    let t := nth ⟨i, false, 0⟩ p.lanes i
    (t.number, laneData (nth [] rx i) t.skew 32 t.inverted x))
  let lane := fun (l : Nat) => match out.find? (fun o => o.1 == l) with | some o => o.2.1 | none => []
  (flitOfLanes ((List.range 4).map lane), { p with recvScr := out.map (fun o => o.2.2), rxAt := max at' p.rxAt + 1 })

/-- Free flits of a class's receive buffer (R160). -/
def LinkPort.free (p : LinkPort) (cls : Nat) : Nat := 8192 - (p.buffers.filter (fun b => b.1 == cls)).length

/-- The OFF classes after the buffers have changed: OFF at 4,096 or fewer free, ON at 6,144 or more (R160). -/
def LinkPort.wantOff (p : LinkPort) : List Nat :=
  (List.range 4).filter (fun c => decide (p.free c ≤ 4096) || (p.nearOff.contains c && decide (p.free c < 6144)))

/-- A change of the on/off state is sent at once (R155, R160). -/
def LinkPort.flowChange (p : LinkPort) (at' : Nat) : LinkPort :=
  if p.wantOff = p.nearOff then p
  else let q := p.sendFlit at' (flowFlit p.wantOff); { q with nearOff := p.wantOff, lastFlow := at' }

/-- A discarded data flit: a NAK naming the SEQ expected, once for each discarded run (R154, R155). -/
def LinkPort.discard (p : LinkPort) (at' : Nat) : LinkPort :=
  if p.nakSent then p
  else let q := p.sendFlit at' (ctlFlit 0x02 p.expectSeq 7); { q with nakSent := true }

/-- A data flit at the receiver (R154, R155): CRC, sequence and room; then it is accepted and acknowledged. -/
def LinkPort.receive (p : LinkPort) (at' cls : Nat) (flit : BitVec 256) : LinkPort :=
  if !crcOk flit then p.discard at'
  else if flit.getLsbD 31 then p
  else if (flit.extractLsb' 24 7).toNat ≠ p.expectSeq then p.discard at'
  else if p.free cls = 0 then p.discard at'
  else
    let q := p.sendFlit at' (ctlFlit 0x01 p.expectSeq 7)
    let q : LinkPort :=
      { q with
        buffers := p.buffers ++ [(cls, flit.extractLsb' 32 224)]
        expectSeq := (p.expectSeq + 1) % 128
        nakSent := false }
    q.flowChange at'

/-- SEQ of a data flit. -/
def Unacked.seq (u : Unacked) : Nat := (u.flit.extractLsb' 24 7).toNat

/-- The flits of the replay buffer from the one of a SEQ on; none when it is not there. -/
def fromSeq (n : Nat) : List Unacked → List Unacked
  | [] => []
  | u :: us => if u.seq = n then u :: us else fromSeq n us

/-- An ACK acknowledges its flit and every earlier one (R155). -/
def LinkPort.acked (p : LinkPort) (n : Nat) : LinkPort :=
  match fromSeq n p.replay with
  | [] => p
  | _ :: rest => { p with replay := rest }

/-- Resend flits of the replay buffer. -/
def LinkPort.resend (p : LinkPort) (at' : Nat) (us : List Unacked) : LinkPort :=
  us.foldl (fun q u => q.sendFlit at' u.flit) p

/-- Phase 1 begins: the generators at their seeds from its first symbol on, the descramblers empty (R158, R159). -/
def LinkPort.phase1 (p : LinkPort) (cycle : Nat) : LinkPort :=
  ({ p with
    phase := 1
    phaseSince := cycle
    ready := false
    recvScr := []
    sendScr := (LinkPort.reset p.num).sendScr
    scrAt := 0
    blocks := 0
    flitsFrom := cycle } : LinkPort).sendTraining 0

/-- Phase 2 begins at a flit count: training blocks without READY (R159). -/
def LinkPort.phase2 (p : LinkPort) (cycle at' : Nat) : LinkPort :=
  ({ p with phase := 2, phaseSince := cycle, ready := false, blocks := 0 } : LinkPort).sendTraining at'

/-- Retraining begins at phase 2 while the descramblers are locked, else at phase 1 (R159, R161). -/
def LinkPort.retrain (p : LinkPort) (cycle at' : Nat) : LinkPort :=
  let q : LinkPort := { p with state := .retraining, failures := 0 }
  if p.recvScr.isEmpty then q.phase1 cycle else q.phase2 cycle at'

/-- A NAK makes the sender replay from the named flit; the 16th replay of one flit sends the port to retraining
(R154, R161). -/
def LinkPort.naked (p : LinkPort) (cycle at' n : Nat) : LinkPort :=
  let again := (fromSeq n p.replay).map (fun u => { u with replays := u.replays + 1 })
  let q := p.resend at' again
  let q : LinkPort := { q with replay := p.replay.take (p.replay.length - again.length) ++ again }
  if again.any (fun u => decide (16 ≤ u.replays)) then q.retrain cycle at' else q

/-- A port that fails: its unacknowledged flits go to the next port (R161, R162). -/
def State.failPort (s : State) (n : Nat) (tooLong : Bool) : State :=
  match s.port? n with
  | none => s
  | some p =>
    let back : List LinkPacket := p.replay.map (fun u => { dst := u.dst, part := u.part, cls := u.cls, body := u.flit.extractLsb' 32 224 })
    let s := s.updPort n (fun p => { p with state := .failed, tooLong := tooLong, replay := [], phase := 0 })
    { s with linkQueue := back ++ s.linkQueue }

/-- A training failure: the third in a row fails the port, otherwise training is tried again (R161). -/
def State.trainingFails (s : State) (n : Nat) : State :=
  match s.port? n with
  | none => s
  | some p =>
    if 3 ≤ p.failures + 1 then (s.updPort n (fun p => { p with failures := p.failures + 1 })).failPort n false
    else s.updPort n (fun p =>
      let q := if p.state == .retraining then p.retrain s.cycle (s.flitCount p) else p.phase1 s.cycle
      { q with failures := p.failures + 1 })

/-- The port is in a phase of training or of retraining. -/
def LinkPort.inPhase (p : LinkPort) (k : Nat) : Bool :=
  (p.state == .training || p.state == .retraining) && p.phase == k

/-- Training has succeeded (R161): a port in training comes up within 1,300 ns, or fails as too long; one in retraining
comes up and replays from the first unacknowledged flit. -/
def State.trainingEnds (s : State) (n : Nat) : State :=
  match s.port? n with
  | none => s
  | some p =>
    let rt := p.echoes.foldl max 0
    let s := s.updPort n (fun p => { p with roundTrip := rt, failures := 0 })
    if p.state == .training then
      if rt ≤ 130000 then s.updPort n (fun p => { p with state := .up, phase := 0, farOff := [], nearOff := [], nakSent := false })
      else s.failPort n true
    else s.updPort n (fun p =>
      let us := p.replay.map (fun u => { u with replays := 0 })
      let q := p.resend (s.flitCount p) us
      { q with state := .up, phase := 0, nakSent := false, replay := us })

/-- The ports of a partition; every port where none is named (R381). -/
def State.mayUse (s : State) (part : Option Nat) (port : Nat) : Bool :=
  match part.bind (fun n => s.parts.find? (fun p => p.id == n)) with
  | some p => p.ports.any (fun x => x.1 == port)
  | none => true

/-- The first port of the route list that is up, among those of the partition whose traffic it is (R162, R381). -/
def State.portFor (s : State) (part : Option Nat) (dst : Nat) : Option LinkPort :=
  ((((assoc dst s.routes).getD []).filter (s.mayUse part)).filterMap s.port?).find? (fun p => p.state == .up)

/-- A packet's flit can be sent now: its port is up, the far side has the class ON, and fewer than 127 data flits are
unacknowledged (R154, R160). -/
def State.sendable (s : State) (k : LinkPacket) : Bool :=
  match s.portFor k.part k.dst with
  | some p => !p.farOff.contains k.cls && decide (p.replay.length < 127)
  | none => false

/-- Send the first flit that can go: one data flit with the next SEQ, kept for replay (R153, R154, R162). -/
def State.sendPacket (s : State) : State :=
  match s.linkQueue.find? s.sendable with
  | none => s
  | some k =>
    match s.portFor k.part k.dst with
    | none => s
    | some p =>
      let flit := dataFlitOf k.body p.sendSeq
      let s := s.updPort p.num (fun p =>
        let q := p.sendFlit (s.flitCount p) flit
        { q with replay := p.replay ++ [{ flit := flit, cls := k.cls, dst := k.dst, part := k.part, replays := 0 }],
                 sendSeq := (p.sendSeq + 1) % 128 })
      { s with linkQueue := removeFirst (fun x => x == k) s.linkQueue }

/-- The hub takes the oldest packet data out of a port's receive buffers (R160); a port on which flits pass tells the far
side at once what changes. -/
def State.drainPort (s : State) (n : Nat) : State :=
  match s.port? n with
  | none => s
  | some p =>
    let t := s.updPort n (fun p =>
      let q : LinkPort := { p with buffers := p.buffers.drop 1 }
      if p.flitsRun then q.flowChange (s.flitCount p) else q)
    { t with inFlits := s.inFlits ++ p.buffers.take 1 }

/-- Every port has sent up to now what fills its flit times: IDLE where flits pass, blocks in phases 1 to 3 (R155, R159). -/
def State.idlePorts (s : State) : State :=
  { s with ports := s.ports.map (fun p =>
      if p.flitsRun then p.fillIdle (s.flitCount p) else if p.blocksRun then p.fillTraining (s.flitCount p) else p) }

/-! ## The steps -/

/-- A flit that the lanes bring to a port where flits pass (R157). -/
def State.onFlit (s : State) (n : Nat) (rx : List (List Level)) (f : LinkPort → BitVec 256 → LinkPort) : State :=
  s.updPort n (fun p => if p.flitsRun then let r := p.takeFlit (s.flitCount p) rx; f r.2 r.1 else p)

/-- A control word of a type that the lanes bring (R154, R155). -/
def State.onCtl (s : State) (n : Nat) (rx : List (List Level)) (type : Nat) (f : LinkPort → BitVec 256 → LinkPort) : State :=
  s.onFlit n rx (fun p flit => if isCtl flit type then f p flit else p)

/-- DATA_FLIT (R154, R155). -/
def execDataFlit (port cls : Nat) (rx : List (List Level)) (s : State) : Host.Outcome State Fault Refusal :=
  event (fun s => if cls < 4 then s.onFlit port rx (fun p flit => p.receive (s.flitCount p) cls flit) else s) s

/-- ACK (R155). -/
def execAck (port : Nat) (rx : List (List Level)) (s : State) : Host.Outcome State Fault Refusal :=
  event (fun s => s.onCtl port rx 0x01 (fun p flit => p.acked (ctlSeq flit))) s

/-- NAK (R154, R155): a port that measures holds its flits and replays them when it comes up. -/
def execNak (port : Nat) (rx : List (List Level)) (s : State) : Host.Outcome State Fault Refusal :=
  event (fun s => s.onCtl port rx 0x02 (fun p flit =>
    if p.state == .up then p.naked s.cycle (s.flitCount p) (ctlSeq flit) else p)) s

/-- FLOW (R155, R160): the on/off state of the four classes, as the far side sent it last. -/
def execFlow (port : Nat) (rx : List (List Level)) (s : State) : Host.Outcome State Fault Refusal :=
  event (fun s => s.onCtl port rx 0x03 (fun p flit =>
    { p with farOff := (List.range 4).filter (fun c => !flit.getLsbD (244 + c)) })) s

/-- FLOW is due again: 64 flit times after the last while a class is OFF, else 1,024 (R155). -/
def State.flowDue (s : State) (p : LinkPort) : Bool :=
  p.state == .up && decide (p.lastFlow + (if p.nearOff.isEmpty then 1024 else 64) ≤ s.flitCount p)

/-- FLOW_REFRESH (R155). -/
def execFlowRefresh (port : Nat) (s : State) : Host.Outcome State Fault Refusal :=
  event (fun s => s.updPort port (fun p =>
    if s.flowDue p then
      let q := p.sendFlit (s.flitCount p) (flowFlit p.nearOff)
      { q with lastFlow := s.flitCount p }
    else p)) s

/-- PROBE (R155): answered with an ECHO of its stamp. -/
def execProbe (port : Nat) (rx : List (List Level)) (s : State) : Host.Outcome State Fault Refusal :=
  event (fun s => s.onCtl port rx 0x10 (fun p flit => p.sendFlit (s.flitCount p) (ctlFlit 0x11 (ctlStamp flit) 32))) s

/-- A round trip measured: the flit count on receipt minus the stamp, times 0.32 ns (R159). -/
def LinkPort.echoed (p : LinkPort) (at' stamp : Nat) : LinkPort :=
  if p.inPhase 4 && decide (p.echoes.length < p.probesSent) then
    { p with echoes := p.echoes ++ [(BitVec.ofNat 32 at' - BitVec.ofNat 32 stamp).toNat * 32] }
  else p

/-- ECHO (R159). -/
def execEcho (port : Nat) (rx : List (List Level)) (s : State) : Host.Outcome State Fault Refusal :=
  event (fun s => s.onCtl port rx 0x11 (fun p flit => p.echoed (s.flitCount p) (ctlStamp flit))) s

/-- IDLE_FLIT (R155): received, descrambled and discarded. -/
def execIdleFlit (port : Nat) (rx : List (List Level)) (s : State) : Host.Outcome State Fault Refusal :=
  event (fun s => s.onFlit port rx (fun p _ => p)) s

/-- PORT_ENABLE (R158, R161): a port that is down begins training at phase 1. What becomes of the SEQ numbers and of the
receive buffers of a port that was down R161 does not say: the numbers begin anew and what the buffers still hold is dropped.
DESIGN CHOICE (log 30). -/
def execPortEnable (port : Nat) (s : State) : Host.Outcome State Fault Refusal :=
  event (fun s => s.updPort port (fun p =>
    if p.state == .down then ({ LinkPort.reset p.num with state := .training } : LinkPort).phase1 s.cycle else p)) s

/-- PORT_DISABLE (R161): a failed port goes down. -/
def execPortDisable (port : Nat) (s : State) : Host.Outcome State Fault Refusal :=
  event (fun s => s.updPort port (fun p => if p.state == .failed then { p with state := .down } else p)) s

/-- Training blocks follow phase 1 (R159). -/
def LinkPort.locked (p : LinkPort) (cycle at' : Nat) (rx : List (List Level)) : LinkPort :=
  match rx.length, allSome (rx.map lockLane) with
  | 4, some xs => ({ p with recvScr := xs } : LinkPort).phase2 cycle at'
  | _, _ => p

/-- LOCK_PHASE_END (R159): every lane's descrambler has been loaded from 31 line bits and has predicted 4,096 more. -/
def execLockPhaseEnd (port : Nat) (rx : List (List Level)) (s : State) : Host.Outcome State Fault Refusal :=
  event (fun s => s.updPort port (fun p => if p.inPhase 1 then p.locked s.cycle (s.flitCount p) rx else p)) s

/-- Every lane's marker has been found 16 times: lanes, polarity and skew are learned, and READY is set (R159). -/
def LinkPort.aligned (p : LinkPort) (cycle at' : Nat) (rx : LaneRun) : LinkPort :=
  match allSome (p.recvScr.mapIdx (fun i x => alignLane (nth [] rx.lanes i) rx.gap x)) with
  | some rs =>
    if (List.range 4).all (fun l => rs.any (fun r => r.1.number == l)) then
      ({ p with lanes := rs.map (·.1), recvScr := rs.map (·.2), ready := true, phase := 3, phaseSince := cycle, blocks := 0 } : LinkPort).sendTraining at'
    else p
  | none => p

/-- ALIGN_PHASE_END (R159). -/
def execAlignPhaseEnd (port : Nat) (rx : LaneRun) (s : State) : Host.Outcome State Fault Refusal :=
  event (fun s => s.updPort port (fun p => if p.inPhase 2 then p.aligned s.cycle (s.flitCount p) rx else p)) s

/-- READY has been sent and received for 64 blocks: flits begin, and with them the first PROBE, and what has changed in the
receive buffers meanwhile (R159, R160); none where a lane has not brought its 64 blocks. -/
def LinkPort.started (p : LinkPort) (cycle at' : Nat) (rx : LaneRun) : Option LinkPort :=
  (allSome (p.recvScr.mapIdx (fun i x => startLane (nth ⟨i, false, 0⟩ p.lanes i) (nth [] rx.lanes i) rx.gap x))).map (fun xs =>
    let q : LinkPort := { p with
      recvScr := xs, rxAt := 0, sendScr := p.sendScr.map (scrAfter (64 * (at' - p.scrAt))), scrAt := 0, phase := 4,
      phaseSince := cycle, flitsFrom := cycle, lastFlow := 0, echoes := [], probesSent := 1, lastProbe := 0 }
    (q.sendFlit 0 (ctlFlit 0x10 0 32)).flowChange 0)

/-- START_PHASE_END (R159). -/
def execStartPhaseEnd (rx : PortRun) (s : State) : Host.Outcome State Fault Refusal :=
  event (fun s => s.updPort rx.port (fun p =>
    let q := if p.blocksRun then p.fillTraining (s.flitCount p) else p
    if p.inPhase 3 && p.ready && decide (64 ≤ q.blocks) then (q.started s.cycle (s.flitCount p) rx.run).getD p
    else p)) s

/-- PROBE_INTERVAL (R159): the next PROBE, 1,024 flit times after the last, four in all. -/
def execProbeInterval (port : Nat) (s : State) : Host.Outcome State Fault Refusal :=
  event (fun s => s.updPort port (fun p =>
    if p.inPhase 4 && decide (p.probesSent < 4) && decide (p.lastProbe + 1024 ≤ s.flitCount p) then
      let k := p.lastProbe + 1024
      let q := p.sendFlit k (ctlFlit 0x10 k 32)
      { q with probesSent := p.probesSent + 1, lastProbe := k }
    else p)) s

/-- MEASURE_PHASE_END (R159, R161): all four ECHOs have returned. -/
def execMeasurePhaseEnd (port : Nat) (s : State) : Host.Outcome State Fault Refusal :=
  event (fun s => match s.port? port with
    | some p => if p.inPhase 4 && p.echoes.length == 4 then s.trainingEnds port else s
    | none => s) s

/-- TRAINING_PHASE_TIMEOUT (R159, R161): a phase that has not finished within 1 ms. -/
def execTrainingPhaseTimeout (port : Nat) (s : State) : Host.Outcome State Fault Refusal :=
  event (fun s => match s.port? port with
    | some p =>
      if (p.state == .training || p.state == .retraining) && decide (p.phaseSince + 940000 ≤ s.cycle) then s.trainingFails port
      else s
    | none => s) s

/-- LOCK_LOSS (R159, R161): an up port retrains from phase 1; one that trains or retrains starts again at phase 1. -/
def execLockLoss (port : Nat) (s : State) : Host.Outcome State Fault Refusal :=
  event (fun s => s.updPort port (fun p =>
    if p.state == .up then ({ p with recvScr := [] } : LinkPort).retrain s.cycle 0
    else if p.state == .training || p.state == .retraining then p.phase1 s.cycle
    else p)) s

/-- A step of training or flow control that time or the far side makes due at a port. -/
def State.portDue (s : State) (p : LinkPort) : Option (State → Host.Outcome State Fault Refusal) :=
  if p.inPhase 4 && p.echoes.length == 4 then some (execMeasurePhaseEnd p.num)
  else if (p.state == .training || p.state == .retraining) && decide (p.phaseSince + 940000 ≤ s.cycle) then
    some (execTrainingPhaseTimeout p.num)
  else if p.inPhase 4 && decide (p.probesSent < 4) && decide (p.lastProbe + 1024 ≤ s.flitCount p) then
    some (execProbeInterval p.num)
  else if s.flowDue p then some (execFlowRefresh p.num)
  else none

end Sys2Proof.Machine
end

