-- ==== Sys2Proof/Machine/Csr.lean ====
section
/-!
DEFINITION. The control registers (R228, R247 to R253) and what writing each does: FCTL, FFLAGS, PORTMAP, BMASK, MFMT,
KBACK, INSTRET, TLBINV, UINOTE.
-/
namespace Sys2Proof.Machine

open Sys2Proof

/-- SSTATUS as it reads (R252). -/
def SupRegs.sstatus (r : SupRegs) : Word :=
  (bitWord r.spp <<< 8) ||| (bitWord r.spie <<< 5) ||| (bitWord r.uia <<< 1) ||| bitWord r.sie

/-- CORESTAT as it reads (R43). -/
def Core.corestat (c : Core) : Word :=
  (bitWord c.user.restored <<< 4) ||| (bitWord c.user.diverge <<< 3) ||| (bitWord c.user.cancelPending <<< 2) |||
  (bitWord c.det <<< 1) ||| bitWord c.preq.isSome

/-- KSP as it reads (R320). -/
def Core.ksp (c : Core) : Word :=
  BitVec.ofNat 64 (c.kerfRB * 2 ^ 41 + c.kerfHead.length * 2 ^ 25 + (c.kerfBB + c.kerfRB + c.kerfHead.length))

/-- The self-window offset at which the kerf region begins (R321). -/
def Core.kbase (c : Core) : Nat := match c.unit with | some u => (u.privKiB - u.kerfKiB) * 1024 | none => 0
/-- The self-window offset at which the private part, and with it the kerf region, ends (R321). -/
def Core.klimit (c : Core) : Nat := match c.unit with | some u => u.privKiB * 1024 | none => 0

/-- KBASE and KLIMIT as they read: the offset in bits 17:0, which cannot hold the 0x40000 that R321 computes at 256
private KiB: it reads 0 there, its bit 18 being reserved. DEDUCED (log 37). -/
def kerfOffset (n : Nat) : Word := BitVec.ofNat 64 (n % 2 ^ 18)

/-- BPHASE as it reads: bits of channels outside MEMBER read 0 (R120). -/
def State.bphase (s : State) : Word :=
  BitVec.ofNat 64 (sumNat (s.channels.map (fun ch =>
    if s.me.member ch.num then (if ch.phase then 2 ^ ch.num else 0) + (if ch.failed then 2 ^ (32 + ch.num) else 0) else 0)))

/-- GLOBALBASE (R59). -/
def globalBase (core : Nat) : Word := 0x800000000000#64 + BitVec.ofNat 64 (core * 2 ^ 20) - 0x900000000000#64

/-- The value of an assigned control register; none for a number that is not assigned (R228). A write-only register
reads zero (R7). -/
def State.csrValue (s : State) (n : Nat) : Option Word :=
  let c := s.me
  let u := c.user
  let un := fun (f : UnitCfg → Nat) (d : Nat) => BitVec.ofNat 64 (match c.unit with | some x => f x | none => d)
  match n with
  | 0x001 => some u.fctl
  | 0x002 => some u.fflags
  | 0x003 => some (BitVec.ofNat 64 c.id)
  | 0x004 => some (un (·.unit) 0)
  | 0x005 => some (un (·.nunits) 1)
  | 0x006 => some (un (·.gangPos) 0)
  | 0x007 => some (un (·.gangSize) 1)
  | 0x008 => some u.portmap
  | 0x009 => some (u.chancfg[0]?.getD 0)
  | 0x00A => some (u.chancfg[1]?.getD 0)
  | 0x00B => some (u.chancfg[2]?.getD 0)
  | 0x00C => some (u.chancfg[3]?.getD 0)
  | 0x00D => some (globalBase c.id)
  | 0x00E => some (match c.unit with | some x => x.tilerec | none => 0)
  | 0x00F => some (match c.unit with | some x => x.tileslice | none => 0)
  | 0x010 => some u.bmask
  | 0x011 => some s.bphase
  | 0x018 => some u.mfmt
  | 0x019 => some u.ascale
  | 0x01A => some u.bscale
  | 0x020 => some c.ksp
  | 0x021 => some (kerfOffset c.kbase)
  | 0x022 => some (kerfOffset c.klimit)
  | 0x023 => some (u.kseq.zeroExtend 64)
  | 0x024 => some u.kback
  | 0x028 => some u.uivec
  | 0x029 => some u.uipc
  | 0x02A => some u.uicause
  | 0x02B => some u.uival
  | 0x02C => some u.uienable
  | 0x02D => some c.sup.sdeleg
  | 0x030 => some (u.evcnt[0]?.getD 0)
  | 0x031 => some (u.evcnt[1]?.getD 0)
  | 0x032 => some (u.evcnt[2]?.getD 0)
  | 0x033 => some (u.evcnt[3]?.getD 0)
  | 0x034 => some (u.evcnt[4]?.getD 0)
  | 0x035 => some (u.evcnt[5]?.getD 0)
  | 0x036 => some (u.evcnt[6]?.getD 0)
  | 0x037 => some (u.evcnt[7]?.getD 0)
  | 0x038 => some u.gatherptr
  | 0x040 => some (BitVec.ofNat 64 s.cycle)
  | 0x041 => some u.instret
  | 0x048 => some c.corestat
  | 0x050 => some u.merrstat
  | 0x051 => some u.merrlog0
  | 0x052 => some u.merrlog1
  | 0x058 => some u.waitto
  | 0x059 => some u.portwait
  | 0x400 => some c.sup.sstatus
  | 0x401 => some c.sup.stvec
  | 0x402 => some c.sup.sepc
  | 0x403 => some c.sup.scause
  | 0x404 => some c.sup.sval
  | 0x405 => some c.sup.sscratch
  | 0x406 => some c.sup.sdeleg
  | 0x407 => some c.sup.ptroot
  | 0x408 => some c.sup.ctxid
  | 0x409 => some c.sup.pdeadline
  | 0x40A => some c.sup.wdlimit
  | 0x40B => some c.sup.wdpark
  | 0x40C => some c.sup.retrymax
  | 0x40D => some 0
  | 0x40E => some 0
  | _ => none

/-- A register number may be named here: assigned, else cause 0; a supervisor register at user level is cause 1 (R228). -/
def csrAllowed (n : Nat) : M Word := do
  let s ← look
  match s.csrValue n with
  | none => trapWord 0
  | some v => if 0x400 ≤ n ∧ !s.me.super then trapWord 1 else pure v

/-- The checks of a writing form that need no operand: the number and the privilege, then CSRS or CSRC of a write-only
register (R228, R229, R248). -/
def csrForm (op : CsrOp) (n : Nat) : M Word := do
  let old ← csrAllowed n
  if (n = 0x40D ∨ n = 0x40E) ∧ op ≠ .write then trapWord 0 else pure old

/-- CSRR: the value; an RC field is then cleared (R7, R43, R248). -/
def csrReadBody (rd : BitVec 5) (n : Nat) : M Unit := do
  let v ← csrAllowed n
  if n = 0x048 then changeMe (fun c => { c with user := { c.user with restored := false } })
  writeReg rd v

/-- The value a writing form leaves in a field of the RW kind (R248). -/
def csrNew (op : CsrOp) (old v : Word) : Word :=
  match op with
  | .write => v
  | .set => old ||| v
  | .clear => old &&& ~~~v

/-- SDELEG's bits that can be set: the delegable causes of R52. -/
def delegMask : Word := 0x34DF90

/-! ## Registers with rules of their own -/

/-- FCTL: a write that would leave RM holding 5, 6 or 7 is cause 0 (R26). -/
def writeFctl (x : Word) : M Unit :=
  if 5 ≤ bitsOf x 2 0 then trapWord 0 else changeMe (fun c => { c with user := { c.user with fctl := x &&& 0x1F7 } })

/-- FFLAGS (R28). -/
def writeFflags (x : Word) : M Unit := changeMe (fun c => { c with user := { c.user with fflags := x &&& 0xFF } })

/-- The words a receive queue holds. -/
def Core.portHolds (c : Core) (j : Nat) : Bool :=
  match c.ports[j]? with | some q => !q.hw.isEmpty || decide (0 < q.spillCount) | none => false

/-- PORTMAP (R97): at most the launch's ports, every spill area in the private part, no port that holds words moved or
unmapped. -/
def writePortmap (x : Word) : M Unit := do
  let c ← meM
  let new := x &&& 0x1FFFF
  let old := c.user.portmap
  let n := ((List.range 8).filter (fun j => new.getLsbD j)).length
  let limit := match c.unit with | some u => u.ports | none => 0
  let priv := match c.unit with | some u => u.privKiB * 1024 | none => 0
  let spillMoves := bitsOf new 16 8 ≠ bitsOf old 16 8
  if limit < n ∨ (0 < n ∧ priv < bitsOf new 16 8 * 512 + n * 512) then trapWord 0
  else if (List.range 8).any (fun j => c.portHolds j && ((old.getLsbD j && !new.getLsbD j) || (old.getLsbD j && decide spillMoves))) then trapWord 0
  else changeMe (fun c => { c with user := { c.user with portmap := new } })

/-- A core leaves a channel: it is marked in the open episode, once, and stalls there no more (R119). -/
def Channel.leave (ch : Channel) (unit : Nat) : Channel :=
  { ch with marks := if ch.marks.contains unit then ch.marks else ch.marks ++ [unit], stalled := ch.stalled.filter (· != unit) }

/-- BMASK (R119): a bit of a channel the launch does not hold is cause 0; a cleared bit counts as an arrival and the
core leaves; a set bit joins the open episode unmarked, an episode whose conditions hold having completed first (R121);
at the batch channel the core has then not arrived any more (R151). The arrival of a cleared bit is not the latest mark that a later
WAIT awaits: DEDUCED (log 42). -/
def writeBmask (x : Word) : M Unit := do
  let c ← meM
  let new := x &&& 0x1FFFFFFFF
  let old := c.user.bmask
  if (List.range 32).any (fun ch => new.getLsbD ch && !c.holds ch) then trapWord 0
  else do
    let joins := (List.range 32).filter (fun ch => !old.getLsbD ch && new.getLsbD ch)
    change (fun s => joins.foldl State.episodeComplete s)
    let left := match c.batchChannel with | some ch => old.getLsbD ch && !new.getLsbD ch | none => false
    let joined := match c.batchChannel with | some ch => joins.contains ch | none => false
    changeMe (fun c => { c with user := { c.user with bmask := new }, batchArrived := (c.batchArrived && !joined) || left })
    change (fun s => { s with channels := s.channels.map (fun ch =>
      if !c.holds ch.num then ch
      else if old.getLsbD ch.num && !new.getLsbD ch.num then ch.leave c.unitNum
      else if !old.getLsbD ch.num && new.getLsbD ch.num then { ch with marks := ch.marks.filter (· != c.unitNum) }
      else ch) })

/-- MFMT: a format code of 8 to 15 is cause 0 (R185). -/
def writeMfmt (x : Word) : M Unit :=
  if 8 ≤ bitsOf x 7 4 ∨ 8 ≤ bitsOf x 3 0 then trapWord 0 else changeMe (fun c => { c with user := { c.user with mfmt := x &&& 0xFF } })

/-- KBACK: cause 0 while the backing holds bytes, or when it would leave the paged window (R321). -/
def writeKback (x : Word) : M Unit := do
  let c ← meM
  if 0 < c.kerfBB ∨ (0 < bitsOf x 11 0 ∧ 2 ^ 47 < (bitsOf x 63 12 + bitsOf x 11 0) * 4096) then trapWord 0
  else changeMe (fun c => { c with user := { c.user with kback := x } })

/-- INSTRET: the write takes the place of the instruction's own increment (R232, R250). -/
def writeInstret (x : Word) : M Unit := changeMe (fun c => { c with user := { c.user with instret := x - 1 } })

/-! ## TLBINV and UINOTE -/

/-- A cached translation lies in what a TLBINV covers (R69). -/
def tlbCovered (kind va : Nat) (ctx : BitVec 16) (e : TlbEntry) : Bool :=
  e.ctx == ctx && (match kind with
    | 0 => e.covers ctx va
    | 1 => decide (e.page * 2 ^ 16 / 2 ^ 23 = va / 2 ^ 23)
    | _ => true)

/-- A page address lies in what a TLBINV covers. -/
def vaCovered (kind va a : Nat) : Bool :=
  match kind with
  | 0 => decide (a / 2 ^ 21 = va / 2 ^ 21)
  | 1 => decide (a / 2 ^ 23 = va / 2 ^ 23)
  | _ => true

/-- The hub's writes that wait on a migrating page of a context are tried again at once: gather records, launch records,
records of failed instances, and packets of remote copies (R69 step 4, R70). -/
def State.hubRetranslates (s : State) (ctx : Nat) : State :=
  let now : Option (Nat × Bool) → Option (Nat × Bool) := fun d => d.map (fun x => if x.2 then (min x.1 s.cycle, true) else x)
  { s with
    channels := s.channels.map (fun c => if c.ctx == ctx then { c with gatherDue := now c.gatherDue } else c)
    parts := s.parts.map (fun p => { p with
      launches := p.launches.map (fun l => if l.ctx == ctx then { l with recordDue := now l.recordDue } else l) })
    coll := { s.coll with ends := s.coll.ends.map (fun e => if e.mig && e.member.ctx == ctx then { e with due := min e.due s.cycle } else e) }
    inbox := s.inbox.map (fun w => match w.msg with
      | .copyWrite _ c _ _ _ => if w.mig && c == ctx then { w with due := min w.due s.cycle } else w
      | _ => w) }

/-- A page of DRAM is still a context's: some translation of it is cached under the context, or some descriptor of its
tree with V = 1 names it (R67, R68). -/
def State.stillHeld (s : State) (root : Nat) (f : Frame) : Bool :=
  let cached := fun (e : TlbEntry) => e.ctx.toNat == f.ctx && mapsKey e.desc.toNat e.big f.key
  let names := fun (d : Nat) (big : Bool) => natBits d 0 0 == 1 && mapsKey d big f.key
  s.allCores.any (fun c => c.itlb.any cached || c.dtlb.any cached) || s.l2tlb.any (fun x => cached x.2) ||
  (match s.descriptor root f.va with | .ok (big, d) => names d big | .error _ => false) ||
  (s.leaves root).any (fun l => names (s.peek l.1 8) l.2)

/-- The 64 KiB parts of a page of DRAM. -/
def Frame.parts (f : Frame) : List Frame :=
  (List.range (f.size / 2 ^ 16)).map (fun i =>
    { f with key := f.key + 2 ^ 16 * i, size := 2 ^ 16, va := if f.size = 2 ^ 16 then f.va else f.va / 2 ^ 21 * 2 ^ 21 + 2 ^ 16 * i })

/-- The scrubbers zero the parts of pages that have left a context, but what another page held holds too, or what is kept
(R42, R67). -/
def State.scrubPages (s : State) (gone : List Frame) (kept : List (Nat × Nat)) : State :=
  let stay := s.frames.map (fun g => (g.key, g.size)) ++ kept
  (gone.filter (fun f => !stay.any (fun g => overlaps f.key f.size g.1 g.2))).foldl
    (fun (t : State) f => t.zeroRange f.key (f.key + f.size)) s

/-- A TLBINV completes the unmapping of the pages it covers: the parts of them that the context's tree names no more leave
the context and are zeroed before a new owner maps them (R42, R67). -/
def State.unmapped (s : State) (ctx kind va : Nat) : State :=
  match s.ctx? ctx with
  | none => s
  | some x =>
    let gone := fun (f : Frame) => f.parts.filter (fun g => !s.stillHeld x.ptroot.toNat g)
    let cut := s.frames.filter (fun f => f.ctx == ctx && vaCovered kind va f.va && !(gone f).isEmpty)
    let left := cut.flatMap (fun f => f.parts.filter (s.stillHeld x.ptroot.toNat))
    ({ s with frames := s.frames.filter (fun f => !cut.contains f) ++ left } : State).scrubPages (cut.flatMap gone) []

/-- The write of TLBINV (R69): drop the translations of the scope, and have every waiting write to a covered page
re-translated (R70, R108); a page that is mapped no more leaves its context (R67). -/
def State.tlbInvalidate (s : State) (scope kind va : Nat) : State :=
  let ctx := BitVec.ofNat 16 s.me.ctx
  let named := fun (core : Nat) => match scope with
    | 0 => core == s.me.id
    | 1 => trussOf core == trussOf s.me.id
    | _ => true
  let drop := fun (l : List TlbEntry) => l.filter (fun e => !tlbCovered kind va ctx e)
  let fix := fun (c : Core) => (({ c with
    itlb := if named c.id then drop c.itlb else c.itlb
    dtlb := if named c.id then drop c.dtlb else c.dtlb
    wait := c.wait.map (fun (w : WaitRec) => match w.kind with
      | .migWrite a => if vaCovered kind va a.toNat && c.ctx == s.me.ctx then { w with ready := true } else w
      | _ => w)
    entries := c.entries.map (fun (e : Entry) => { e with kick := true }) } : Core))
  let t : State := { s with
    me := fix s.me
    others := s.others.map (fun x => (x.1, fix x.2))
    l2tlb := s.l2tlb.filter (fun x => !((match scope with | 2 => true | _ => x.1 == trussOf s.me.id) && tlbCovered kind va ctx x.2)) }
  (t.hubRetranslates s.me.ctx).unmapped s.me.ctx kind va

/-- A CSRW of TLBINV: SCOPE 3, KIND 3 or a reserved bit is cause 0 (R69). -/
def writeTlbinv (v : Word) : M Unit :=
  if bitsOf v 63 62 = 3 ∨ bitsOf v 61 60 = 3 ∨ bitsOf v 59 47 ≠ 0 ∨ bitsOf v 15 0 ≠ 0 then trapWord 0
  else change (fun s => s.tlbInvalidate (bitsOf v 63 62) (bitsOf v 61 60) (bitsOf v 46 16 * 2 ^ 16))

/-- A notice to a core whose unit is in a saved image (R72): the ninth is lost and marked. -/
def Core.imageNotice (c : Core) (n : Notice) : Core :=
  if c.notices.length < 8 then { c with notices := c.notices ++ [n] } else { c with noticeOverflow := true }

/-- An address lies in the page a notice names, which is one of 2 MiB where the context's tree has it so (R62, R72). -/
def State.inPage (s : State) (c : Core) (page a : Nat) : Bool :=
  match s.descriptor c.sup.ptroot.toNat (page * 2 ^ 16) with
  | .ok (true, _) => decide (a / 2 ^ 21 = page / 32)
  | _ => decide (a / 2 ^ 16 = page)

/-- The suspended copy channels of the target meet the notice (R108): STATUS 0 re-translates, 1 and 2 fault them; hit
says which addresses lie in its page. -/
def Core.noticeCopies (c : Core) (hit : Nat → Bool) (status : Nat) : Core :=
  { c with entries := c.entries.map (fun e =>
      if e.state == .suspended && hit e.faultAddr.toNat then
        (match status with
         | 1 => e.fail 4 e.faultAddr
         | 2 => e.fail 6 e.faultAddr
         | _ => { e with kick := true })
      else e) }

/-- Where a notice to core n goes (R72). -/
inductive NoticeTarget where
  /-- discarded: the core does not run the supervisor's partition -/
  | nobody
  /-- the saved image of the unit saved from the core -/
  | image
  | full
  | core
  deriving DecidableEq, Repr

/-- The target of a notice of the current supervisor (R72). The rule names a core alone: the image meant is every one
saved from that core in the context of the supervisor's CTXID, and a core of the partition that runs no unit takes the
notice in its own queue. DEDUCED (log 38). -/
def State.noticeTarget (s : State) (n : Nat) : NoticeTarget :=
  let mine := match s.partOf s.me.id, s.partOf n with | some a, some b => a.id == b.id | _, _ => false
  let c := s.core n
  let evicted := (match s.ctx? s.me.ctx with | some x => x.images.any (fun im => im.fromCore == n) | none => false) && !c.runsCtx s.me.ctx
  if !mine then .nobody
  else if evicted then .image
  else if c.run == .saving then .image
  else if 8 ≤ c.notices.length then .full
  else .core

/-- Send a notice (R72); which images a notice to an evicted core reaches: DEDUCED (log 38). -/
def State.sendNotice (s : State) (n page status : Nat) : State :=
  let note : Notice := { stamp := s.stamp, page := page, status := status }
  let s := { s with stamp := s.stamp + 1 }
  let met := fun (c : Core) => c.noticeCopies (s.inPage c page) status
  match s.noticeTarget n with
  | .nobody => s
  | .full => s
  | .core => s.updCore n (fun c => { met c with notices := c.notices ++ [note] })
  | .image =>
    if (s.core n).run == .saving then s.updCore n (fun c => (met c).imageNotice note)
    else s.updCtx s.me.ctx (fun x => { x with images := x.images.map (fun im =>
      if im.fromCore == n then { im with core := (met im.core).imageNotice note } else im) })

/-- A CSRW of UINOTE (R72): STATUS 3 or a reserved bit is cause 0; a full queue stalls the writer. -/
def writeUinote (v : Word) : M Unit := do
  let s ← look
  let n := bitsOf v 11 0
  if bitsOf v 63 47 ≠ 0 ∨ bitsOf v 13 12 ≠ 0 ∨ bitsOf v 15 14 = 3 then trapWord 0
  else if s.noticeTarget n = .full then stall (.uinote n)
  else change (fun s => s.sendNotice n (bitsOf v 46 16) (bitsOf v 15 14))

/-! ## Writing a register -/

/-- Write part of the user registers. -/
def setUser (f : UserRegs → UserRegs) : M Unit := changeMe (fun c => { c with user := f c.user })
/-- Write part of the supervisor registers. -/
def setSup (f : SupRegs → SupRegs) : M Unit := changeMe (fun c => { c with sup := f c.sup })

/-- A write of ones to MERRSTAT clears those bits (R194). A tile that logged a replacement in the same cycle does so after
the write (R197). -/
def Core.clearErrors (c : Core) (v : Word) (cycle : Nat) : Core :=
  let u := c.user
  let plain : UserRegs := { u with merrstat := u.merrstat &&& ~~~v }
  { c with user := match c.tileLog with
    | none => plain
    | some t =>
      let st := t.stat &&& ~~~v
      if t.cycle ≠ cycle then plain
      else if st.getLsbD 1 then { u with merrstat := st ||| 5, merrlog0 := t.log0, merrlog1 := t.log1 }
      else { u with merrstat := st ||| (if t.many then 7 else 3), merrlog0 := t.new0, merrlog1 := t.new1 } }

/-- The effect of CSRW, CSRS and CSRC on register n with operand v, field by field (R7, R248 to R253). A
read-only register ignores what is written. -/
def csrWrite (op : CsrOp) (n : Nat) (v : Word) : M Unit := do
  let old ← csrForm op n
  let x := csrNew op old v
  match n with
  | 0x001 => writeFctl x
  | 0x002 => writeFflags x
  | 0x008 => writePortmap x
  | 0x009 => setUser (fun u => { u with chancfg := u.chancfg.setIfInBounds 0 (x &&& 0xBFFF) })
  | 0x00A => setUser (fun u => { u with chancfg := u.chancfg.setIfInBounds 1 (x &&& 0xBFFF) })
  | 0x00B => setUser (fun u => { u with chancfg := u.chancfg.setIfInBounds 2 (x &&& 0xBFFF) })
  | 0x00C => setUser (fun u => { u with chancfg := u.chancfg.setIfInBounds 3 (x &&& 0xBFFF) })
  | 0x010 => writeBmask x
  | 0x018 => writeMfmt x
  | 0x019 => setUser (fun u => { u with ascale := x &&& 0x3FFFF })
  | 0x01A => setUser (fun u => { u with bscale := x &&& 0x3FFFF })
  | 0x023 => setUser (fun u => { u with kseq := x.extractLsb' 0 16 })
  | 0x024 => writeKback x
  | 0x028 => setUser (fun u => { u with uivec := epcWord x })
  | 0x029 => setUser (fun u => { u with uipc := epcWord x })
  | 0x02A => setUser (fun u => { u with uicause := x &&& 0x800000000000001F })
  | 0x02B => setUser (fun u => { u with uival := x })
  | 0x02C => setUser (fun u => { u with uienable := x &&& 0x1F })
  | 0x030 => setUser (fun u => { u with evcnt := u.evcnt.setIfInBounds 0 (x &&& 0xFFFFFFFF) })
  | 0x031 => setUser (fun u => { u with evcnt := u.evcnt.setIfInBounds 1 (x &&& 0xFFFFFFFF) })
  | 0x032 => setUser (fun u => { u with evcnt := u.evcnt.setIfInBounds 2 (x &&& 0xFFFFFFFF) })
  | 0x033 => setUser (fun u => { u with evcnt := u.evcnt.setIfInBounds 3 (x &&& 0xFFFFFFFF) })
  | 0x034 => setUser (fun u => { u with evcnt := u.evcnt.setIfInBounds 4 (x &&& 0xFFFFFFFF) })
  | 0x035 => setUser (fun u => { u with evcnt := u.evcnt.setIfInBounds 5 (x &&& 0xFFFFFFFF) })
  | 0x036 => setUser (fun u => { u with evcnt := u.evcnt.setIfInBounds 6 (x &&& 0xFFFFFFFF) })
  | 0x037 => setUser (fun u => { u with evcnt := u.evcnt.setIfInBounds 7 (x &&& 0xFFFFFFFF) })
  | 0x038 => setUser (fun u => { u with gatherptr := x &&& 0xFFFFFFFFFFFFFFC0 })
  | 0x041 => writeInstret x
  | 0x050 => if op = .clear then pure () else change (fun s => s.updMe (fun c => c.clearErrors v s.cycle))
  | 0x058 => setUser (fun u => { u with waitto := x &&& 0xFFFFFFFF })
  | 0x059 => setUser (fun u => { u with portwait := x &&& 0xFFFFFFFF })
  | 0x400 => setSup (fun r => { r with spp := x.getLsbD 8, spie := x.getLsbD 5, sie := x.getLsbD 0 })
  | 0x401 => setSup (fun r => { r with stvec := epcWord x })
  | 0x402 => setSup (fun r => { r with sepc := epcWord x })
  | 0x403 => setSup (fun r => { r with scause := x &&& 0x800000000000001F })
  | 0x404 => setSup (fun r => { r with sval := x })
  | 0x405 => setSup (fun r => { r with sscratch := x })
  | 0x406 => setSup (fun r => { r with sdeleg := x &&& delegMask })
  | 0x407 => setSup (fun r => { r with ptroot := x &&& 0x3FFFFFFF8000 })
  | 0x408 => setSup (fun r => { r with ctxid := x &&& 0xFFFF })
  | 0x409 => setSup (fun r => { r with pdeadline := x &&& 0xFFFFF })
  | 0x40A => setSup (fun r => { r with wdlimit := x &&& 0xFFFFFFFF })
  | 0x40B => setSup (fun r => { r with wdpark := x &&& 0xFFFFFFFF })
  | 0x40C => setSup (fun r => { r with retrymax := x &&& 0xFFFF })
  | 0x40D => writeTlbinv v
  | 0x40E => writeUinote v
  | _ => pure ()

/-- The body of a writing CSR instruction: the form is checked before the operand is read (R229). -/
def csrWriteBody (op : CsrOp) (ra : BitVec 5) (n : Nat) : M Unit := do
  let _ ← csrForm op n
  let v ← readReg ra
  csrWrite op n v

/-- The instruction a writing form is. -/
def csrInstr (op : CsrOp) (ra : BitVec 5) (csr : BitVec 12) : Instr :=
  match op with
  | .write => .csrw ra csr
  | .set => .csrs ra csr
  | .clear => .csrc ra csr

/-- CSRR (R247, R248). -/
def execCsrr (rd : BitVec 5) (csr : BitVec 12) (s : State) : Host.Outcome State Fault Refusal :=
  runI (.csrr rd csr) (csrReadBody rd csr.toNat) s

/-- CSRW (R247, R248). -/
def execCsrw (ra : BitVec 5) (csr : BitVec 12) (s : State) : Host.Outcome State Fault Refusal :=
  runI (.csrw ra csr) (csrWriteBody .write ra csr.toNat) s

/-- CSRS (R247, R248). -/
def execCsrs (ra : BitVec 5) (csr : BitVec 12) (s : State) : Host.Outcome State Fault Refusal :=
  runI (.csrs ra csr) (csrWriteBody .set ra csr.toNat) s

/-- CSRC (R247, R248). -/
def execCsrc (ra : BitVec 5) (csr : BitVec 12) (s : State) : Host.Outcome State Fault Refusal :=
  runI (.csrc ra csr) (csrWriteBody .clear ra csr.toNat) s

/-! The steps of the table that are a CSR instruction on one register. -/

/-- FCTL_WRITE (R26, R29). -/
def execFctlWrite (op : CsrOp) (ra : BitVec 5) (s : State) : Host.Outcome State Fault Refusal :=
  runI (csrInstr op ra 0x001) (csrWriteBody op ra 0x001) s

/-- FFLAGS_WRITE (R28, R29). -/
def execFflagsWrite (op : CsrOp) (ra : BitVec 5) (s : State) : Host.Outcome State Fault Refusal :=
  runI (csrInstr op ra 0x002) (csrWriteBody op ra 0x002) s

/-- PORTMAP_WRITE (R97). -/
def execPortmapWrite (op : CsrOp) (ra : BitVec 5) (s : State) : Host.Outcome State Fault Refusal :=
  runI (csrInstr op ra 0x008) (csrWriteBody op ra 0x008) s

/-- BMASK_WRITE (R119). -/
def execBmaskWrite (op : CsrOp) (ra : BitVec 5) (s : State) : Host.Outcome State Fault Refusal :=
  runI (csrInstr op ra 0x010) (csrWriteBody op ra 0x010) s

/-- MFMT_WRITE (R185). -/
def execMfmtWrite (op : CsrOp) (ra : BitVec 5) (s : State) : Host.Outcome State Fault Refusal :=
  runI (csrInstr op ra 0x018) (csrWriteBody op ra 0x018) s

/-- KBACK_WRITE (R321). -/
def execKbackWrite (op : CsrOp) (ra : BitVec 5) (s : State) : Host.Outcome State Fault Refusal :=
  runI (csrInstr op ra 0x024) (csrWriteBody op ra 0x024) s

/-- INSTRET_WRITE (R250). -/
def execInstretWrite (op : CsrOp) (ra : BitVec 5) (s : State) : Host.Outcome State Fault Refusal :=
  runI (csrInstr op ra 0x041) (csrWriteBody op ra 0x041) s

/-- CORESTAT_READ (R43): RESTORED is cleared in the same step. -/
def execCorestatRead (rd : BitVec 5) (s : State) : Host.Outcome State Fault Refusal :=
  runI (.csrr rd 0x048) (csrReadBody rd 0x048) s

/-- A CSRW of TLBINV whose KIND is given (R69). -/
def tlbinvBody (ra : BitVec 5) (kind : Nat) : M Unit := do
  let _ ← csrForm .write 0x40D
  let v ← readReg ra
  csrWrite .write 0x40D (putBits v 61 60 kind)

/-- TLBINV_PAGE (R69). -/
def execTlbinvPage (ra : BitVec 5) (s : State) : Host.Outcome State Fault Refusal := runI (.csrw ra 0x40D) (tlbinvBody ra 0) s

/-- TLBINV_REGION (R69). -/
def execTlbinvRegion (ra : BitVec 5) (s : State) : Host.Outcome State Fault Refusal := runI (.csrw ra 0x40D) (tlbinvBody ra 1) s

/-- TLBINV_CONTEXT (R69). -/
def execTlbinvContext (ra : BitVec 5) (s : State) : Host.Outcome State Fault Refusal := runI (.csrw ra 0x40D) (tlbinvBody ra 2) s

/-- UINOTE (R72). -/
def execUinote (ra : BitVec 5) (s : State) : Host.Outcome State Fault Refusal := runI (.csrw ra 0x40E) (csrWriteBody .write ra 0x40E) s

/-- UINOTE_STALL_RELEASE (R72): the stalled write may go on once the target's queue has room; it completes at the
core's next turn. -/
def execUinoteStallRelease (s : State) : Host.Outcome State Fault Refusal :=
  event (fun s => match s.me.wait with
    | some w => (match w.kind with
      | .uinote n => if s.noticeTarget n = .full then s else { s with me := { s.me with wait := some { w with ready := true } } }
      | _ => s)
    | none => s) s

end Sys2Proof.Machine
end

