-- ==== Sys2Proof/Machine/Operands.lean ====
section
/-!
DEFINITION. The operand forms of the vector instructions: element widths (R282, R304), the governing predicate (R217),
the forms of the last source (R304), and writing elements under a predicate (R283, R306).
-/
namespace Sys2Proof.Machine

open Sys2Proof

/-- The element width of a vector integer type (R304). -/
def intWidth (ty : BitVec 2) : Nat := 8 * 2 ^ ty.toNat

/-- The element width of a vector floating-point type (R282). -/
def fpWidth (ty : BitVec 2) : Nat :=
  match ty.toNat with
  | 0 => 32
  | 1 => 64
  | _ => 16

/-- Element i of width w is active under a predicate word (R217). -/
def activeAt (p : Word) (i w : Nat) : Bool := p.getLsbD (i * w / 8)

/-- The governing predicate named by pg: p0 to p3, p0 all ones (R223, R217). -/
def Core.gov (c : Core) (pg : BitVec 2) : Word := c.pr pg.toNat

/-- The numbers of the active elements, ascending. -/
def activeList (p : Word) (w : Nat) : List Nat := (List.range (512 / w)).filter (fun i => activeAt p i w)

/-- The last source b of a W-format instruction for every element: aux 0 the elements of vb, 1 the low bits of g[vb],
2 the sign-extended vb field (R304). -/
def lastSource (vb : BitVec 5) (aux : BitVec 2) (w : Nat) : M (List Nat) := do
  let c ← meM
  match aux.toNat with
  | 0 => pure (elems (c.vr vb.toNat) w)
  | 1 => do let x ← readReg vb; pure (List.replicate (512 / w) (x.toNat % 2 ^ w))
  | _ => pure (List.replicate (512 / w) ((vb.signExtend 64).toNat % 2 ^ w))

/-- The scalar form of the last source: g[vb] for aux 1, the sign-extended field for aux 2 (R304, R312). -/
def scalarSource (vb : BitVec 5) (aux : BitVec 2) : M Word :=
  if aux = 1 then readReg vb else pure (vb.signExtend 64)

/-- Write the active elements of a vector register; an inactive one keeps its value (R283, R306). -/
def mergeElems (p : Word) (w : Nat) (old : VReg) (new : List Nat) : VReg :=
  vecOf w ((List.range (512 / w)).map (fun i => if activeAt p i w then nth 0 new i else elem old i w))

/-- A predicate whose element i has all its w/8 bits set to the i-th of bs (R295, R306). -/
def predOf (w : Nat) (bs : List Bool) : Word :=
  BitVec.ofNat 64 (packElems (w / 8) (bs.map (fun b => if b then 2 ^ (w / 8) - 1 else 0)))

/-- Write a vector register. -/
def writeV (vd : BitVec 5) (x : VReg) : M Unit := changeMe (fun c => c.setVr vd.toNat x)

/-- Write a predicate register; p0 discards (R295, R306, R311). -/
def writeP (pd : Nat) (x : Word) : M Unit := changeMe (fun c => c.setPr pd x)

end Sys2Proof.Machine
end

