-- ==== Sys2Proof/Machine/VecFp.lean ====
section
/-!
DEFINITION. The vector floating-point instructions of majors 0x20 to 0x22 (R282 to R296).
-/
namespace Sys2Proof.Machine

open Sys2Proof

/-- The format of a vector floating-point type (R282). -/
def vecFmt (ty : BitVec 2) : Fmt :=
  match ty.toNat with
  | 0 => .f32
  | 1 => .f64
  | 2 => .f16
  | _ => .bf16

/-- The active elements are computed, exceptions accrue or trap, and vd is written (R283, R284, R30). -/
def fpWrite (vd : BitVec 5) (pg : BitVec 2) (w : Nat) (lane : Nat → Nat × Exc) : M Unit := do
  let c ← meM
  let p := c.gov pg
  let rs := (List.range (512 / w)).map (fun i => if activeAt p i w then lane i else (0, Exc.none))
  finishFp ((activeList p w).map (fun i => (i, (nth (0, Exc.none) rs i).2)))
  writeV vd (mergeElems p w (c.vr vd.toNat) (rs.map (·.1)))

/-- An element of a vector register, flushed under fzi. -/
def Core.fpIn (c : Core) (r : BitVec 5) (f : Fmt) (fzi : BitVec 1) (i : Nat) : Nat × Exc :=
  flushIn f (fzi == 1) (elem (c.vr r.toNat) i f.width)

/-- A two-operand operation, element by element (R287). -/
def fpBin (vd va vb : BitVec 5) (pg ty : BitVec 2) (fzi fzo : BitVec 1) (op : Core → Fmt → FVal → FVal → Nat × Exc) : M Unit := do
  let c ← meM
  let f := vecFmt ty
  fpWrite vd pg f.width (fun i =>
    let a := c.fpIn va f fzi i
    let b := c.fpIn vb f fzi i
    let r := op c f (unpack f a.1) (unpack f b.1)
    flushOut f (fzo == 1) (r.1, (a.2.or b.2).or r.2))

/-- A one-operand operation, element by element. -/
def fpUn (vd va : BitVec 5) (pg ty : BitVec 2) (fzi fzo : BitVec 1) (op : Core → Fmt → Nat → FVal → Nat × Exc) : M Unit := do
  let c ← meM
  let f := vecFmt ty
  fpWrite vd pg f.width (fun i =>
    let a := c.fpIn va f fzi i
    let r := op c f i (unpack f a.1)
    flushOut f (fzo == 1) (r.1, a.2.or r.2))

/-- VFMIN and VFMAX choose an operand's code (R288). -/
def chooseFp (isMax : Bool) (f : Fmt) (a b : Nat) : Nat × Exc :=
  let x := unpack f a
  let y := unpack f b
  let nv : Exc := { nv := x.isSnan || y.isSnan }
  let less := ltVals x y || (x.isZero && y.isZero && x.neg && !y.neg)
  if x.isNan && y.isNan then (f.nan, nv)
  else if x.isNan then (b, nv)
  else if y.isNan then (a, nv)
  else (if less != isMax then a else b, nv)

/-- VFMIN, VFMAX: fzi before the comparison, fzo on the chosen operand (R288). -/
def minMaxBody (isMax : Bool) (vd va vb : BitVec 5) (pg ty : BitVec 2) (fzi fzo : BitVec 1) : M Unit := do
  let c ← meM
  let f := vecFmt ty
  fpWrite vd pg f.width (fun i =>
    let a := c.fpIn va f fzi i
    let b := c.fpIn vb f fzi i
    let r := chooseFp isMax f a.1 b.1
    flushOut f (fzo == 1) (r.1, (a.2.or b.2).or r.2))

/-- VFSGN (R289). -/
def sgnBody (vd va vb : BitVec 5) (pg ty : BitVec 2) (rm : BitVec 2) : M Unit := do
  let c ← meM
  let f := vecFmt ty
  let top := 2 ^ (f.width - 1)
  fpWrite vd pg f.width (fun i =>
    let a := elem (c.vr va.toNat) i f.width
    let sa := decide (top ≤ a)
    let sb := decide (top ≤ elem (c.vr vb.toNat) i f.width)
    let neg := match rm.toNat with
      | 0 => sb
      | 1 => !sb
      | 2 => sa != sb
      | _ => false
    match unpack f a with
    | .nan s => nanRes f s
    | _ => (a % top + f.sign neg, .none))

/-- VFMA, VFMS and VFNMA: product and addend with their signs (R291). -/
def fmaBody (vd va vb : BitVec 5) (pg ty : BitVec 2) (fzi fzo : BitVec 1) (rm : BitVec 2) (negProd negAdd : Bool) : M Unit := do
  let c ← meM
  let f := vecFmt ty
  fpWrite vd pg f.width (fun i =>
    let a := c.fpIn va f fzi i
    let b := c.fpIn vb f fzi i
    let d := c.fpIn vd f fzi i
    let x := unpack f a.1
    let y := unpack f b.1
    let z := unpack f d.1
    let prod := (mulVals x y).map (fun v => if negProd then v.negate else v)
    let r := fmaOp f (c.vecMode rm) c.ufTrap prod (x.isSnan || y.isSnan || z.isSnan) (if negAdd then z.negate else z)
    flushOut f (fzo == 1) (r.1, ((a.2.or b.2).or d.2).or r.2))

/-- VFDOT2 (R292). -/
def dot2Body (vd va vb : BitVec 5) (pg : BitVec 2) (ty : BitVec 1) (fzi fzo : BitVec 1) (rm : BitVec 2) : M Unit := do
  let c ← meM
  let f : Fmt := if ty = 0 then .f16 else .bf16
  fpWrite vd pg 32 (fun i =>
    let a0 := c.fpIn va f fzi (2 * i)
    let a1 := c.fpIn va f fzi (2 * i + 1)
    let b0 := c.fpIn vb f fzi (2 * i)
    let b1 := c.fpIn vb f fzi (2 * i + 1)
    let d := c.fpIn vd .f32 fzi i
    let x0 := unpack f a0.1
    let x1 := unpack f a1.1
    let y0 := unpack f b0.1
    let y1 := unpack f b1.1
    let mode := c.vecMode rm
    let s := groupSum mode [mulVals x0 y0, mulVals x1 y1] (x0.isSnan || x1.isSnan || y0.isSnan || y1.isSnan) 0
    let r := accumulate .f32 mode c.ufTrap (unpack .f32 d.1) s
    flushOut .f32 (fzo == 1) (r.1, excAll [a0.2, a1.2, b0.2, b1.2, d.2, r.2]))

/-- A compare (R294, R295): inactive elements give 0. -/
def fpCompare (pd : BitVec 3) (va vb : BitVec 5) (pg ty : BitVec 2) (fzi : BitVec 1) (op : FVal → FVal → Bool × Bool) : M Unit := do
  let c ← meM
  let f := vecFmt ty
  let w := f.width
  let p := c.gov pg
  let lane := fun i =>
    let a := c.fpIn va f fzi i
    let b := c.fpIn vb f fzi i
    let r := op (unpack f a.1) (unpack f b.1)
    (r.1, (a.2.or b.2).or { nv := r.2 })
  finishFp ((activeList p w).map (fun i => (i, (lane i).2)))
  writeP pd.toNat (predOf w ((List.range (512 / w)).map (fun i => activeAt p i w && (lane i).1)))

/-- NV for a signalling NaN only, or for any NaN. -/
def cmpNv (any : Bool) (x y : FVal) : Bool := if any then x.isNan || y.isNan else x.isSnan || y.isSnan

/-- The class mask of a value (R296). -/
def classMask (f : Fmt) (x : Nat) : Nat :=
  match unpack f x with
  | .nan s => if s then 2 ^ 8 else 2 ^ 9
  | .inf n => if n then 2 ^ 0 else 2 ^ 7
  | .fin n m _ =>
    if m = 0 then (if n then 2 ^ 3 else 2 ^ 4)
    else if isSub f x then (if n then 2 ^ 2 else 2 ^ 5)
    else if n then 2 ^ 1 else 2 ^ 6

/-- VFADD (R287). -/
def execVfadd (vd va vb : BitVec 5) (pg ty : BitVec 2) (fzi fzo : BitVec 1) (rm : BitVec 2) (s : State) :
    Host.Outcome State Fault Refusal :=
  runI (.vfadd vd va vb pg ty fzi fzo rm) (fpBin vd va vb pg ty fzi fzo (fun c f => addVals f (c.vecMode rm) c.ufTrap)) s

/-- VFSUB (R287). -/
def execVfsub (vd va vb : BitVec 5) (pg ty : BitVec 2) (fzi fzo : BitVec 1) (rm : BitVec 2) (s : State) :
    Host.Outcome State Fault Refusal :=
  runI (.vfsub vd va vb pg ty fzi fzo rm)
    (fpBin vd va vb pg ty fzi fzo (fun c f a b => addVals f (c.vecMode rm) c.ufTrap a b.negate)) s

/-- VFMUL (R287). -/
def execVfmul (vd va vb : BitVec 5) (pg ty : BitVec 2) (fzi fzo : BitVec 1) (rm : BitVec 2) (s : State) :
    Host.Outcome State Fault Refusal :=
  runI (.vfmul vd va vb pg ty fzi fzo rm) (fpBin vd va vb pg ty fzi fzo (fun c f => mulOp f (c.vecMode rm) c.ufTrap)) s

/-- VFDIV (R287). -/
def execVfdiv (vd va vb : BitVec 5) (pg ty : BitVec 2) (fzi fzo : BitVec 1) (rm : BitVec 2) (s : State) :
    Host.Outcome State Fault Refusal :=
  runI (.vfdiv vd va vb pg ty fzi fzo rm) (fpBin vd va vb pg ty fzi fzo (fun c f => divOp f (c.vecMode rm) c.ufTrap)) s

/-- VFMIN (R288). -/
def execVfmin (vd va vb : BitVec 5) (pg ty : BitVec 2) (fzi fzo : BitVec 1) (s : State) : Host.Outcome State Fault Refusal :=
  runI (.vfmin vd va vb pg ty fzi fzo) (minMaxBody false vd va vb pg ty fzi fzo) s

/-- VFMAX (R288). -/
def execVfmax (vd va vb : BitVec 5) (pg ty : BitVec 2) (fzi fzo : BitVec 1) (s : State) : Host.Outcome State Fault Refusal :=
  runI (.vfmax vd va vb pg ty fzi fzo) (minMaxBody true vd va vb pg ty fzi fzo) s

/-- VFSQRT (R287). -/
def execVfsqrt (vd va : BitVec 5) (pg ty : BitVec 2) (fzi fzo : BitVec 1) (rm : BitVec 2) (s : State) :
    Host.Outcome State Fault Refusal :=
  runI (.vfsqrt vd va pg ty fzi fzo rm) (fpUn vd va pg ty fzi fzo (fun c f _ => sqrtOp f (c.vecMode rm) c.ufTrap)) s

/-- VFSGN (R289). -/
def execVfsgn (vd va vb : BitVec 5) (pg ty : BitVec 2) (rm : BitVec 2) (s : State) : Host.Outcome State Fault Refusal :=
  runI (.vfsgn vd va vb pg ty rm) (sgnBody vd va vb pg ty rm) s

/-- VFMA (R291): a·b + d. -/
def execVfma (vd va vb : BitVec 5) (pg ty : BitVec 2) (fzi fzo : BitVec 1) (rm : BitVec 2) (s : State) :
    Host.Outcome State Fault Refusal :=
  runI (.vfma vd va vb pg ty fzi fzo rm) (fmaBody vd va vb pg ty fzi fzo rm false false) s

/-- VFMS (R291): a·b − d. -/
def execVfms (vd va vb : BitVec 5) (pg ty : BitVec 2) (fzi fzo : BitVec 1) (rm : BitVec 2) (s : State) :
    Host.Outcome State Fault Refusal :=
  runI (.vfms vd va vb pg ty fzi fzo rm) (fmaBody vd va vb pg ty fzi fzo rm false true) s

/-- VFNMA (R291): d − a·b. -/
def execVfnma (vd va vb : BitVec 5) (pg ty : BitVec 2) (fzi fzo : BitVec 1) (rm : BitVec 2) (s : State) :
    Host.Outcome State Fault Refusal :=
  runI (.vfnma vd va vb pg ty fzi fzo rm) (fmaBody vd va vb pg ty fzi fzo rm true false) s

/-- VFDOT2 (R292). -/
def execVfdot2 (vd va vb : BitVec 5) (pg : BitVec 2) (ty : BitVec 1) (fzi fzo : BitVec 1) (rm : BitVec 2) (s : State) :
    Host.Outcome State Fault Refusal :=
  runI (.vfdot2 vd va vb pg ty fzi fzo rm) (dot2Body vd va vb pg ty fzi fzo rm) s

/-- VFRCP (R293): always RNE. -/
def execVfrcp (vd va : BitVec 5) (pg ty : BitVec 2) (fzi fzo : BitVec 1) (rm : BitVec 2) (s : State) :
    Host.Outcome State Fault Refusal :=
  runI (.vfrcp vd va pg ty fzi fzo rm) (fpUn vd va pg ty fzi fzo (fun c f _ => rcpOp f c.ufTrap)) s

/-- VFRSQ (R293): always RNE. -/
def execVfrsq (vd va : BitVec 5) (pg ty : BitVec 2) (fzi fzo : BitVec 1) (rm : BitVec 2) (s : State) :
    Host.Outcome State Fault Refusal :=
  runI (.vfrsq vd va pg ty fzi fzo rm) (fpUn vd va pg ty fzi fzo (fun c f _ => rsqOp f c.ufTrap)) s

/-- VFEXP2 (R293): always RNE. -/
def execVfexp2 (vd va : BitVec 5) (pg ty : BitVec 2) (fzi fzo : BitVec 1) (rm : BitVec 2) (s : State) :
    Host.Outcome State Fault Refusal :=
  runI (.vfexp2 vd va pg ty fzi fzo rm) (fpUn vd va pg ty fzi fzo (fun c f _ => exp2Op f c.ufTrap)) s

/-- VFLOG2 (R293): always RNE. -/
def execVflog2 (vd va : BitVec 5) (pg ty : BitVec 2) (fzi fzo : BitVec 1) (rm : BitVec 2) (s : State) :
    Host.Outcome State Fault Refusal :=
  runI (.vflog2 vd va pg ty fzi fzo rm) (fpUn vd va pg ty fzi fzo (fun c f _ => log2Op f c.ufTrap)) s

/-- VFEQ (R294). -/
def execVfeq (pd : BitVec 3) (va vb : BitVec 5) (pg ty : BitVec 2) (fzi : BitVec 1) (s : State) : Host.Outcome State Fault Refusal :=
  runI (.vfeq pd va vb pg ty fzi) (fpCompare pd va vb pg ty fzi (fun x y => (eqVals x y, cmpNv false x y))) s

/-- VFLT (R294). -/
def execVflt (pd : BitVec 3) (va vb : BitVec 5) (pg ty : BitVec 2) (fzi : BitVec 1) (s : State) : Host.Outcome State Fault Refusal :=
  runI (.vflt pd va vb pg ty fzi) (fpCompare pd va vb pg ty fzi (fun x y => (ltVals x y, cmpNv true x y))) s

/-- VFLE (R294). -/
def execVfle (pd : BitVec 3) (va vb : BitVec 5) (pg ty : BitVec 2) (fzi : BitVec 1) (s : State) : Host.Outcome State Fault Refusal :=
  runI (.vfle pd va vb pg ty fzi) (fpCompare pd va vb pg ty fzi (fun x y => (ltVals x y || eqVals x y, cmpNv true x y))) s

/-- VFUN (R294). -/
def execVfun (pd : BitVec 3) (va vb : BitVec 5) (pg ty : BitVec 2) (fzi : BitVec 1) (s : State) : Host.Outcome State Fault Refusal :=
  runI (.vfun pd va vb pg ty fzi) (fpCompare pd va vb pg ty fzi (fun x y => (x.isNan || y.isNan, cmpNv false x y))) s

/-- VFNE (R294). -/
def execVfne (pd : BitVec 3) (va vb : BitVec 5) (pg ty : BitVec 2) (fzi : BitVec 1) (s : State) : Host.Outcome State Fault Refusal :=
  runI (.vfne pd va vb pg ty fzi) (fpCompare pd va vb pg ty fzi (fun x y => (!eqVals x y, cmpNv false x y))) s

/-- VFCLASS (R296). -/
def execVfclass (vd va : BitVec 5) (pg ty : BitVec 2) (s : State) : Host.Outcome State Fault Refusal :=
  runI (.vfclass vd va pg ty) (do
    let c ← meM
    let f := vecFmt ty
    fpWrite vd pg f.width (fun i => (classMask f (elem (c.vr va.toNat) i f.width), .none))) s

end Sys2Proof.Machine
end

