-- ==== Sys2Proof/Machine/VecCvt.lean ====
section
/-!
DEFINITION. The conversions of major 0x23 (R297 to R302).
-/
namespace Sys2Proof.Machine

open Sys2Proof

/-- n source elements of width ws become n destination elements of width wd; a destination element whose source is
inactive is zero, and so is the rest of vd (R283, R297). -/
def cvtWrite (vd : BitVec 5) (pg : BitVec 2) (n ws wd : Nat) (lane : Nat → Nat × Exc) : M Unit := do
  let c ← meM
  let p := c.gov pg
  let act := (List.range n).filter (fun i => activeAt p i ws)
  let rs := (List.range n).map (fun i => if activeAt p i ws then lane i else (0, Exc.none))
  finishFp (act.map (fun i => (i, (nth (0, Exc.none) rs i).2)))
  writeV vd (vecOf wd (rs.map (·.1)))

/-- Round a value to a floating-point destination (R298, R299): a NaN gives the canonical NaN, E2M1 has none and
raises NV; an infinity saturates with NV where there is no infinity. -/
def cvtVal (f : Fmt) (mode : Mode) (ut : Bool) (x : FVal) : Nat × Exc :=
  match x with
  | .nan s => if f = .e2m1 then (0, { nv := true }) else nanRes f s
  | .inf n => if f.hasInf then infRes f n else (f.sign n + f.maxCode, { nv := true })
  | .fin n m e => roundTo f mode ut n m e false

/-- A floating-point conversion of one code. -/
def cvtCode (src dst : Fmt) (fzi fzo : BitVec 1) (mode : Mode) (ut : Bool) (x : Nat) : Nat × Exc :=
  let a := flushIn src (fzi == 1) x
  let r := cvtVal dst mode ut (unpack src a.1)
  flushOut dst (fzo == 1) (r.1, a.2.or r.2)

/-- A conversion between floating-point formats; an exact one raises nothing but NV (R298). -/
def cvtFp (src dst : Fmt) (n : Nat) (exact : Bool) (vd va : BitVec 5) (pg : BitVec 2) (fzi fzo : BitVec 1) (rm : BitVec 2) : M Unit := do
  let c ← meM
  cvtWrite vd pg n src.width dst.width (fun i =>
    cvtCode src dst fzi fzo (c.vecMode rm) (c.ufTrap && !exact) (elem (c.vr va.toNat) i src.width))

/-- The value times 2^k. -/
def FVal.scale (x : FVal) (k : Int) : FVal :=
  match x with
  | .fin n m e => .fin n m (e + k)
  | v => v

/-- A scale of 0xFF makes the element a NaN (R18). -/
def scaled (s : Nat) (k : Int) (x : FVal) : FVal := if s = 0xFF then .nan x.isSnan else x.scale k

/-- The scale of a block-scaled conversion: bits 7:0 of v[vb] (R297). -/
def Core.scaleOf (c : Core) (vb : BitVec 5) : Nat := elem (c.vr vb.toNat) 0 8

/-- 32 F32 elements of a register pair, scaled down and packed (R302: codes 10 and 19). -/
def cvtBlockDown (dst : Fmt) (vd va vb : BitVec 5) (fzi fzo : BitVec 1) (rm : BitVec 2) : M Unit := do
  let c ← meM
  let s := c.scaleOf vb
  cvtWrite vd 0 32 16 dst.width (fun i =>
    let a := flushIn .f32 (fzi == 1) (elem (c.vr (va.toNat + i / 16)) (i % 16) 32)
    let r := cvtVal dst (c.vecMode rm) c.ufTrap (scaled s (127 - s) (unpack .f32 a.1))
    flushOut dst (fzo == 1) (r.1, a.2.or r.2))

/-- 32 packed elements become 32 F32 of a register pair, scaled up (R302: codes 11 and 20). -/
def cvtBlockUp (src : Fmt) (vd va vb : BitVec 5) (fzi fzo : BitVec 1) (rm : BitVec 2) : M Unit := do
  let c ← meM
  let s := c.scaleOf vb
  let lane := fun i =>
    let a := flushIn src (fzi == 1) (elem (c.vr va.toNat) i src.width)
    let r := cvtVal .f32 (c.vecMode rm) c.ufTrap (scaled s ((s : Int) - 127) (unpack src a.1))
    flushOut .f32 (fzo == 1) (r.1, a.2.or r.2)
  let rs := (List.range 32).map lane
  finishFp (rs.zipIdx.map (fun x => (x.2, x.1.2)))
  writeV vd (vecOf 32 ((rs.take 16).map (·.1)))
  changeMe (fun c => c.setVr (vd.toNat + 1) (vecOf 32 ((rs.drop 16).map (·.1))))

/-- Floating point to integer (R300). -/
def cvtToInt (src : Fmt) (n : Nat) (vd va : BitVec 5) (pg : BitVec 2) (fzi : BitVec 1) (rm : BitVec 2) : M Unit := do
  let c ← meM
  cvtWrite vd pg n src.width src.width (fun i =>
    let a := flushIn src (fzi == 1) (elem (c.vr va.toNat) i src.width)
    let r := toIntOp src.width (c.vecMode rm) (unpack src a.1)
    (r.1, a.2.or r.2))

/-- Integer to floating point (R300). -/
def cvtFromInt (dst : Fmt) (n : Nat) (vd va : BitVec 5) (pg : BitVec 2) (rm : BitVec 2) : M Unit := do
  let c ← meM
  cvtWrite vd pg n dst.width dst.width (fun i =>
    fromIntOp dst (c.vecMode rm) (sintN dst.width (elem (c.vr va.toNat) i dst.width)))

/-- Integer narrowing with saturation (R300): SAT, no IEEE exception. -/
def cvtNarrow (wd : Nat) (vd va : BitVec 5) (pg : BitVec 2) : M Unit := do
  let c ← meM
  let p := c.gov pg
  let lane := fun i =>
    let x := sintN 32 (elem (c.vr va.toNat) i 32)
    let y := clampInt x (-(2 ^ (wd - 1))) (2 ^ (wd - 1) - 1)
    ((y % 2 ^ wd).toNat, decide (x ≠ y))
  let act := fun i => activeAt p i 32
  setSat ((List.range 16).any (fun i => act i && (lane i).2))
  writeV vd (vecOf wd ((List.range 16).map (fun i => if act i then (lane i).1 else 0)))

/-- The E8 scale of a block (R301); target 4 E4M3, 5 E5M2, 6 E2M1. -/
def blockScale (target : Nat) (xs : List FVal) : Nat :=
  let emax : Int := if target = 4 then 8 else if target = 5 then 15 else 2
  if xs.any (fun x => x.isNan || x.isInf) then 0xFF
  else if xs.all FVal.isZero then 0x7F
  else
    let logs := xs.filterMap (fun x => match x with | .fin _ m e => if m = 0 then none else some (e + (m.log2 : Int)) | _ => none)
    let top := logs.foldl max (-100000)
    (clampInt (top - emax + 127) 0 254).toNat

/-- VCVT.E8.F32 (R301). -/
def cvtE8 (vd va vb : BitVec 5) (fzi : BitVec 1) : M Unit := do
  let c ← meM
  let ins := (List.range 32).map (fun i => flushIn .f32 (fzi == 1) (elem (c.vr (va.toNat + i / 16)) (i % 16) 32))
  finishFp (ins.zipIdx.map (fun x => (x.2, x.1.2)))
  writeV vd (vecOf 8 [blockScale vb.toNat (ins.map (fun x => unpack .f32 x.1))])

/-- VCVT code 0 (R298). -/
def execVcvtF32F64 (vd va : BitVec 5) (pg : BitVec 2) (fzi fzo : BitVec 1) (rm : BitVec 2) (s : State) :
    Host.Outcome State Fault Refusal :=
  runI (.vcvtF32F64 vd va pg fzi fzo rm) (cvtFp .f64 .f32 8 false vd va pg fzi fzo rm) s

/-- VCVT code 1 (R298). -/
def execVcvtF64F32 (vd va : BitVec 5) (pg : BitVec 2) (fzi fzo : BitVec 1) (rm : BitVec 2) (s : State) :
    Host.Outcome State Fault Refusal :=
  runI (.vcvtF64F32 vd va pg fzi fzo rm) (cvtFp .f32 .f64 8 true vd va pg fzi fzo rm) s

/-- VCVT code 2 (R298). -/
def execVcvtF16F32 (vd va : BitVec 5) (pg : BitVec 2) (fzi fzo : BitVec 1) (rm : BitVec 2) (s : State) :
    Host.Outcome State Fault Refusal :=
  runI (.vcvtF16F32 vd va pg fzi fzo rm) (cvtFp .f32 .f16 16 false vd va pg fzi fzo rm) s

/-- VCVT code 3 (R298). -/
def execVcvtF32F16 (vd va : BitVec 5) (pg : BitVec 2) (fzi fzo : BitVec 1) (rm : BitVec 2) (s : State) :
    Host.Outcome State Fault Refusal :=
  runI (.vcvtF32F16 vd va pg fzi fzo rm) (cvtFp .f16 .f32 16 true vd va pg fzi fzo rm) s

/-- VCVT code 4 (R298). -/
def execVcvtBf16F32 (vd va : BitVec 5) (pg : BitVec 2) (fzi fzo : BitVec 1) (rm : BitVec 2) (s : State) :
    Host.Outcome State Fault Refusal :=
  runI (.vcvtBf16F32 vd va pg fzi fzo rm) (cvtFp .f32 .bf16 16 false vd va pg fzi fzo rm) s

/-- VCVT code 5 (R298). -/
def execVcvtF32Bf16 (vd va : BitVec 5) (pg : BitVec 2) (fzi fzo : BitVec 1) (rm : BitVec 2) (s : State) :
    Host.Outcome State Fault Refusal :=
  runI (.vcvtF32Bf16 vd va pg fzi fzo rm) (cvtFp .bf16 .f32 16 true vd va pg fzi fzo rm) s

/-- VCVT code 6 (R298). -/
def execVcvtE4m3F32 (vd va : BitVec 5) (pg : BitVec 2) (fzi fzo : BitVec 1) (rm : BitVec 2) (s : State) :
    Host.Outcome State Fault Refusal :=
  runI (.vcvtE4m3F32 vd va pg fzi fzo rm) (cvtFp .f32 .e4m3 16 false vd va pg fzi fzo rm) s

/-- VCVT code 7 (R298). -/
def execVcvtE5m2F32 (vd va : BitVec 5) (pg : BitVec 2) (fzi fzo : BitVec 1) (rm : BitVec 2) (s : State) :
    Host.Outcome State Fault Refusal :=
  runI (.vcvtE5m2F32 vd va pg fzi fzo rm) (cvtFp .f32 .e5m2 16 false vd va pg fzi fzo rm) s

/-- VCVT code 8 (R298). -/
def execVcvtF32E4m3 (vd va : BitVec 5) (pg : BitVec 2) (fzi fzo : BitVec 1) (rm : BitVec 2) (s : State) :
    Host.Outcome State Fault Refusal :=
  runI (.vcvtF32E4m3 vd va pg fzi fzo rm) (cvtFp .e4m3 .f32 16 true vd va pg fzi fzo rm) s

/-- VCVT code 9 (R298). -/
def execVcvtF32E5m2 (vd va : BitVec 5) (pg : BitVec 2) (fzi fzo : BitVec 1) (rm : BitVec 2) (s : State) :
    Host.Outcome State Fault Refusal :=
  runI (.vcvtF32E5m2 vd va pg fzi fzo rm) (cvtFp .e5m2 .f32 16 true vd va pg fzi fzo rm) s

/-- VCVT code 10 (R302). -/
def execVcvtE2m1F32 (vd va vb : BitVec 5) (fzi fzo : BitVec 1) (rm : BitVec 2) (s : State) :
    Host.Outcome State Fault Refusal :=
  runI (.vcvtE2m1F32 vd va vb fzi fzo rm) (cvtBlockDown .e2m1 vd va vb fzi fzo rm) s

/-- VCVT code 11 (R302). -/
def execVcvtF32E2m1 (vd va vb : BitVec 5) (fzi fzo : BitVec 1) (rm : BitVec 2) (s : State) :
    Host.Outcome State Fault Refusal :=
  runI (.vcvtF32E2m1 vd va vb fzi fzo rm) (cvtBlockUp .e2m1 vd va vb fzi fzo rm) s

/-- VCVT code 12 (R300). -/
def execVcvtI32F32 (vd va : BitVec 5) (pg : BitVec 2) (fzi fzo : BitVec 1) (rm : BitVec 2) (s : State) :
    Host.Outcome State Fault Refusal :=
  runI (.vcvtI32F32 vd va pg fzi fzo rm) (cvtToInt .f32 16 vd va pg fzi rm) s

/-- VCVT code 13 (R300). -/
def execVcvtF32I32 (vd va : BitVec 5) (pg : BitVec 2) (fzi fzo : BitVec 1) (rm : BitVec 2) (s : State) :
    Host.Outcome State Fault Refusal :=
  runI (.vcvtF32I32 vd va pg fzi fzo rm) (cvtFromInt .f32 16 vd va pg rm) s

/-- VCVT code 14 (R300). -/
def execVcvtI64F64 (vd va : BitVec 5) (pg : BitVec 2) (fzi fzo : BitVec 1) (rm : BitVec 2) (s : State) :
    Host.Outcome State Fault Refusal :=
  runI (.vcvtI64F64 vd va pg fzi fzo rm) (cvtToInt .f64 8 vd va pg fzi rm) s

/-- VCVT code 15 (R300). -/
def execVcvtF64I64 (vd va : BitVec 5) (pg : BitVec 2) (fzi fzo : BitVec 1) (rm : BitVec 2) (s : State) :
    Host.Outcome State Fault Refusal :=
  runI (.vcvtF64I64 vd va pg fzi fzo rm) (cvtFromInt .f64 8 vd va pg rm) s

/-- VCVT code 16 (R300). -/
def execVcvtI8I32 (vd va : BitVec 5) (pg : BitVec 2) (s : State) :
    Host.Outcome State Fault Refusal :=
  runI (.vcvtI8I32 vd va pg) (cvtNarrow 8 vd va pg) s

/-- VCVT code 17 (R300). -/
def execVcvtI16I32 (vd va : BitVec 5) (pg : BitVec 2) (s : State) :
    Host.Outcome State Fault Refusal :=
  runI (.vcvtI16I32 vd va pg) (cvtNarrow 16 vd va pg) s

/-- VCVT code 18 (R301): the vb field is the format code. -/
def execVcvtE8F32 (vd va vb : BitVec 5) (fzi fzo : BitVec 1) (rm : BitVec 2) (s : State) :
    Host.Outcome State Fault Refusal :=
  runI (.vcvtE8F32 vd va vb fzi fzo rm) (cvtE8 vd va vb fzi) s

/-- VCVT code 19 (R302). -/
def execVcvtE4m3F32Bs (vd va vb : BitVec 5) (fzi fzo : BitVec 1) (rm : BitVec 2) (s : State) :
    Host.Outcome State Fault Refusal :=
  runI (.vcvtE4m3F32Bs vd va vb fzi fzo rm) (cvtBlockDown .e4m3 vd va vb fzi fzo rm) s

/-- VCVT code 20 (R302). -/
def execVcvtF32E4m3Bs (vd va vb : BitVec 5) (fzi fzo : BitVec 1) (rm : BitVec 2) (s : State) :
    Host.Outcome State Fault Refusal :=
  runI (.vcvtF32E4m3Bs vd va vb fzi fzo rm) (cvtBlockUp .e4m3 vd va vb fzi fzo rm) s

end Sys2Proof.Machine
end

