-- ==== Sys2Proof/Machine/Rev.lean ====
section
/-!
DEFINITION. The reversible class and the kerf stack (R319 to R335).
-/
namespace Sys2Proof.Machine

open Sys2Proof

/-! ## The levels (R319) -/

/-- How far a push or a pop has come. -/
inductive KerfRes where
  | done
  /-- the region must spill first (R325) -/
  | spill
  /-- the backing must refill first (R326) -/
  | refill
  /-- KDROP's search must read the block of the backing below these bytes of it (R332) -/
  | search (bs : List Byte)
  deriving DecidableEq, Repr

/-- RS, the capacity of the kerf region (R319). -/
def Core.kerfRS (c : Core) : Nat := match c.unit with | some u => u.kerfKiB * 1024 | none => 0

/-- The location of stream byte p in the region (R319). -/
def Core.regionKey (c : Core) (p : Nat) : Nat := localKey c.id (c.kbase + p % c.kerfRS)

/-- The self-window address of stream byte p in the region. -/
def Core.regionAddr (c : Core) (p : Nat) : Word := BitVec.ofNat 64 (9 * 2 ^ 44 + c.kbase + p % c.kerfRS)

/-- The address of stream byte p in the backing (R319). -/
def Core.backAddr (c : Core) (p : Nat) : Nat := c.user.kback.toNat / 4096 * 4096 + p

/-- The capacity of the backing (R319). -/
def Core.backCap (c : Core) : Nat := c.user.kback.toNat % 4096 * 4096

/-- The stream position of the block that a transfer of channel 63 moves: the lowest 4,096 bytes of the region (R325), the
newest block of the backing (R326), or the one below what KDROP's search has read (R332). -/
def Core.kerfFrom (c : Core) (k : KerfOp) : Nat :=
  if k.spill then c.kerfBB
  else c.kerfBB - (match k.search with | some bs => bs.length - k.moved | none => 0) - 4096

/-- What a transfer of channel 63 still has to move: its source, its destination and no fault (R279, R326). -/
def Core.kerfRest (c : Core) (k : KerfOp) : FaultWords :=
  let p := c.kerfFrom k
  let inRegion := c.regionAddr (p + k.moved)
  let inBack := BitVec.ofNat 64 (c.backAddr (p + k.moved))
  { qid := 63, src := if k.spill then inRegion else inBack, dst := if k.spill then inBack else inRegion, addr := 0 }

/-- DEPTH (R319). -/
def Core.kerfDepth (c : Core) : Nat := c.kerfBB + c.kerfRB + c.kerfHead.length

/-- The stream positions of the 1,024-byte pieces of n bytes from p. -/
def pieces (p n : Nat) : List Nat := (List.range (n / 1024)).map (fun i => p + 1024 * i)

/-- Bytes of the region from stream byte p, in pieces of 1,024, none of which wraps. -/
def State.regionRead (s : State) (p n : Nat) : List Byte :=
  (pieces p n).flatMap (fun q => Memory.readBytes s.mem (s.me.regionKey q) 1024)

/-- A piece of the region from stream byte p has an uncorrectable error (R327). -/
def State.regionBad (s : State) (p n : Nat) : Bool := (pieces p n).any (fun q => s.eccError (s.me.regionKey q) 1024)

/-- Write bytes into the region from stream byte p. -/
def State.regionWrite (s : State) (p : Nat) (bs : List Byte) : State :=
  (pieces 0 bs.length).foldl (fun (s : State) q => s.writeMem (s.me.regionKey (p + q)) ((bs.drop q).take 1024)) s

/-- The head moves its oldest 1,024 bytes to the region, with their errors (R325, R327). -/
def State.headToRegion (s : State) : State :=
  let p := s.me.kerfBB + s.me.kerfRB
  let t := s.regionWrite p (s.me.kerfHead.take 1024)
  let bad := (s.me.kerfBad.filter (fun b => decide (b < 1024))).map (fun b => (s.me.regionKey (p + b), 1))
  ({ t with eccBad := t.eccBad ++ bad } : State).updMe (fun c => { c with
    kerfRB := c.kerfRB + 1024
    kerfHead := c.kerfHead.drop 1024
    kerfBad := (c.kerfBad.filter (fun b => decide (1024 ≤ b))).map (fun b => b - 1024) })

/-- The head takes the newest 1,024 bytes of the region (R326). -/
def State.regionToHead (s : State) : State :=
  let bs := s.regionRead (s.me.kerfBB + s.me.kerfRB - 1024) 1024
  s.updMe (fun c => { c with kerfRB := c.kerfRB - 1024, kerfHead := bs ++ c.kerfHead, kerfBad := c.kerfBad.map (fun b => b + 1024) })

/-- The head keeps its oldest n bytes. -/
def Core.cutHead (c : Core) (n : Nat) : Core :=
  { c with kerfHead := c.kerfHead.take n, kerfBad := c.kerfBad.filter (fun b => decide (b < n)) }

/-- Bytes of the head from a position have an uncorrectable error (R327). -/
def Core.headBad (c : Core) (p n : Nat) : Bool := c.kerfBad.any (fun b => decide (p ≤ b) && decide (b < p + n))

/-- Trap with cause 22 where the newest n bytes of the head have an error: at the address the oldest of them has in the
stream (R327, log 21). -/
def headSound (n : Nat) : M Unit := do
  let c ← meM
  let p := c.kerfHead.length - n
  if c.headBad p n then trap 22 (c.regionAddr (c.kerfBB + c.kerfRB + p)) else pure ()

/-! ## Headers (R323) -/

/-- The header of a record. -/
def kerfHeader (tag ty k len seq mask : Nat) : Nat :=
  tag % 256 * 2 ^ 56 + ty % 16 * 2 ^ 52 + k % 16 * 2 ^ 48 + len % 2 ^ 16 * 2 ^ 32 + seq % 2 ^ 16 * 2 ^ 16 + mask % 2 ^ 16

/-- LEN of a header. -/
def headerLen (h : Nat) : Nat := natBits h 47 32

/-- The lane mask: bit i = active(pg, i, 32) (R323). -/
def laneMask (p : Word) : Nat := sumNat ((activeList p 32).map (fun i => 2 ^ i))

/-! ## Pushing and popping -/

/-- A push (R325): a record is at most 80 bytes, so one move makes room. -/
def pushM (tag ty k mask : Nat) (payload : List Byte) : M KerfRes := do
  let c ← meM
  let full := decide (4096 < c.kerfHead.length + 8 + payload.length)
  if full && decide (c.kerfRS < c.kerfRB + 1024) then
    if c.kerfRB < 4096 ∨ c.backCap < c.kerfBB + 4096 then trap 9 c.ksp else pure .spill
  else do
    if full then change State.headToRegion
    changeMe (fun c => { c with
      kerfHead := c.kerfHead ++ payload ++ leBytes 8 (kerfHeader tag ty k payload.length c.user.kseq.toNat mask)
      user := { c.user with kseq := c.user.kseq + 1 } })
    pure .done

/-- Refill the head until it holds need bytes (R326); true when it does, false when the backing must be read first. -/
def fillHead : Nat → Nat → M Bool
  | 0, _ => pure true
  | f + 1, need => do
    let s ← look
    let c := s.me
    if need ≤ c.kerfHead.length then pure true
    else if 1024 ≤ c.kerfRB then
      if s.regionBad (c.kerfBB + c.kerfRB - 1024) 1024 then trap 22 (c.regionAddr (c.kerfBB + c.kerfRB - 1024))
      else do change State.regionToHead; fillHead f need
    else pure false

/-- The newest n bytes of the head below its top m bytes. -/
def Core.headBytes (c : Core) (m n : Nat) : List Byte := (c.kerfHead.drop (c.kerfHead.length - m - n)).take n

/-- The top record, whole in the head: its header and payload; none when the backing must be read first. A header that
frames no record the head can hold is an order fault (R331 step 3, R332). -/
def topRecord : M (Option (Nat × List Byte)) := do
  let c ← meM
  if c.kerfDepth = 0 then trap 10 c.ksp
  else do
    let ok ← fillHead 5 8
    if !ok then pure none
    else do
      headSound 8
      let c ← meM
      let h := leVal (c.headBytes 0 8)
      let len := headerLen h
      if len % 8 ≠ 0 ∨ c.kerfDepth < 8 + len ∨ 4096 < 8 + len then trap 8 (BitVec.ofNat 64 h)
      else do
        let ok ← fillHead 5 (8 + len)
        if !ok then pure none
        else do
          headSound (8 + len)
          let c ← meM
          pure (some (h, c.headBytes 8 len))

/-- Pop the top record of n bytes. -/
def popM (n : Nat) : M Unit := changeMe (fun c => c.cutHead (c.kerfHead.length - n))

/-- What a lane of a pair instruction gives: none for a fault, else the result lane and the payload slot. -/
abbrev Lane := Option (Nat × Nat)

/-- The active lanes that fault, as a mask (R331). -/
def faultMask (p : Word) (lane : Nat → Lane) : Nat :=
  sumNat (((activeList p 32).filter (fun i => (lane i).isNone)).map (fun i => 2 ^ i))

/-- The result lanes: an inactive lane keeps its value (R329). -/
def laneResult (p : Word) (old : VReg) (lane : Nat → Lane) : VReg :=
  mergeElems p 32 old ((List.range 16).map (fun i => ((lane i).getD (0, 0)).1))

/-- A payload of one slot of w bytes for each lane, zero for an inactive one (R324). -/
def slots (w : Nat) (p : Word) (lane : Nat → Lane) : List Byte :=
  (List.range 16).flatMap (fun i => leBytes w (if activeAt p i 32 then ((lane i).getD (0, 0)).2 else 0))

/-- Slot i of w bytes of a payload. -/
def slotAt (w : Nat) (bs : List Byte) (i : Nat) : Nat := leVal ((bs.drop (w * i)).take w)

/-- The end of a forward instruction (R331): lane faults, the push, vd. -/
def forwardM (vd : BitVec 5) (p : Word) (fn ty k : Nat) (lane : Nat → Lane) (payload : List Byte) (result : VReg) : M KerfRes := do
  if faultMask p lane ≠ 0 then trap 11 (BitVec.ofNat 64 (faultMask p lane))
  else do
    let r ← pushM fn ty k (laneMask p) payload
    if r = .done then writeV vd result
    pure r

/-- An undo instruction (R331): the stack, the refills, the header, lane faults, the pop and vd. The expected length is a
function of the payload, none when the payload itself is out of order. -/
def undoM (vd : BitVec 5) (p : Word) (fn ty k : Nat) (expect : List Byte → Option Nat) (lane : List Byte → Nat → Lane)
    (result : (Nat → Lane) → VReg) : M KerfRes := do
  match ← topRecord with
  | none => pure .refill
  | some (h, bs) =>
    if expect bs ≠ some bs.length ∨ natBits h 63 48 ≠ (fn - 1) * 256 + ty * 16 + k ∨ natBits h 15 0 ≠ laneMask p then
      trap 8 (BitVec.ofNat 64 h)
    else if faultMask p (lane bs) ≠ 0 then trap 11 (BitVec.ofNat 64 (faultMask p (lane bs)))
    else do
      popM (8 + bs.length)
      writeV vd (result (lane bs))
      pure .done

/-! ## Lanes (R330) -/

/-- A finite FP32 value as a signed integer times a power of two; none for a NaN or an infinity. -/
def fin32 (x : Nat) : Option (Int × Int) :=
  match unpack .f32 x with
  | .fin n m e => some (signedInt n m, e)
  | _ => none

/-- The sign bit of an FP32 code. -/
def sign32 (x : Nat) : Bool := x.testBit 31

/-- The FP32 code of an exact dyadic, a zero with the given sign; none when it is no FP32 value. -/
def exact32 (zneg : Bool) (x : Int × Int) : Option Nat :=
  if x.1 = 0 then some (Fmt.f32.sign zneg)
  else
    let r := roundDyadic .f32 .rne false x
    if r.2.nx then none else some r.1

/-- A code is an infinity or a NaN. -/
def special32 (x : Nat) : Bool := (fin32 x).isNone

/-- RMULF. -/
def laneRmulf (x f : Nat) : Lane :=
  match fin32 x, fin32 f with
  | some a, some b =>
    if isSub .f32 x || isSub .f32 f || b.1 == 0 then none
    else
      let p : Int × Int := (a.1 * b.1, a.2 + b.2)
      let y := (roundTo .f32 .rne false (sign32 x != sign32 f) p.1.natAbs p.2 false).1
      match fin32 y with
      | some v =>
        if isSub .f32 y then none
        else (exact32 false (dyadicAdd p (-v.1, v.2))).map (fun t => (y, t))
      | none => none
  | _, _ => none

/-- UMULF. -/
def laneUmulf (y f t : Nat) : Lane :=
  match fin32 y, fin32 f, fin32 t with
  | some a, some b, some d =>
    if b.1 = 0 then none
    else
      let n := dyadicAdd a d
      let neg := if n.1 = 0 then sign32 y != sign32 f else decide (n.1 < 0) != sign32 f
      let g := Nat.gcd n.1.natAbs b.1.natAbs
      let q := b.1.natAbs / g
      if n.1 ≠ 0 ∧ 2 ^ q.log2 ≠ q then none
      else (exact32 neg (signedInt neg (n.1.natAbs / g), n.2 - b.2 - (q.log2 : Int))).map (fun x => (x, 0))
  | _, _, _ => none

/-- An integer as an INT32 lane; none outside its range. -/
def int32Lane (x : Int) : Option Nat := if x < -(2 ^ 31) ∨ 2 ^ 31 ≤ x then none else some (intCode32 x)
where
  intCode32 (x : Int) : Nat := (x % 2 ^ 32).toNat

/-- RMULQ. -/
def laneRmulq (k x f : Nat) : Lane :=
  let p := sintN 32 x * sintN 32 f
  if f = 0 then none else (int32Lane (p / 2 ^ k)).map (fun y => (y, (p % 2 ^ k).toNat))

/-- UMULQ. -/
def laneUmulq (k y f slot : Nat) : Lane :=
  let p := sintN 32 y * 2 ^ k + slot
  if f = 0 ∨ 2 ^ k ≤ slot ∨ p % sintN 32 f ≠ 0 then none else (int32Lane (p / sintN 32 f)).map (fun x => (x, 0))

/-- RSHRA. -/
def laneRshra (k x : Nat) : Lane := some ((sintN 32 x / 2 ^ k % 2 ^ 32).toNat, x % 2 ^ k)

/-- USHRA. -/
def laneUshra (k y slot : Nat) : Lane := if 2 ^ k ≤ slot then none else some ((y * 2 ^ k + slot) % 2 ^ 32, 0)

/-- RADDF. -/
def laneRaddf (x f : Nat) : Lane :=
  match fin32 x, fin32 f with
  | some a, some b =>
    let y := (addVals .f32 .rne false (unpack .f32 x) (unpack .f32 f)).1
    match fin32 y with
    | some v => (exact32 (sign32 x) (dyadicAdd (dyadicAdd a b) (-v.1, v.2))).map (fun e => (y, e))
    | none => none
  | _, _ => none

/-- UADDF. -/
def laneUaddf (y f e : Nat) : Lane :=
  match fin32 y, fin32 f, fin32 e with
  | some a, some b, some d => (exact32 (sign32 e) (dyadicAdd (dyadicAdd a d) (-b.1, b.2))).map (fun x => (x, 0))
  | _, _, _ => none

/-- RSELZ's zeroed lanes. -/
def zeroedLanes (p : Word) (v : VReg) : List Nat := (activeList p 32).filter (fun i => sign32 (elem v i 32))

/-- RSELZ's payload (R324). -/
def selzPayload (p : Word) (v : VReg) : List Byte :=
  let zs := zeroedLanes p v
  let bs := leBytes 8 (sumNat (zs.map (fun i => 2 ^ i))) ++ zs.flatMap (fun i => leBytes 4 (elem v i 32))
  if zs.length % 2 = 0 then bs else bs ++ [0, 0, 0, 0]

/-- The lanes of Z in an RSELZ payload. -/
def zLanes (bs : List Byte) : List Nat := (List.range 16).filter (fun i => (leVal (bs.take 2)).testBit i)

/-- The length USELZ expects; none when a lane of Z is inactive, an order fault (R330, R331). -/
def selzExpect (p : Word) (bs : List Byte) : Option Nat :=
  if 8 ≤ bs.length && (zLanes bs).all (fun i => activeAt p i 32) then some (roundUp (8 + 4 * (zLanes bs).length) 8) else none

/-- USELZ's lane i: its recorded value when i is in Z and the lane is zero. -/
def laneUselz (v : VReg) (bs : List Byte) (i : Nat) : Lane :=
  let y := elem v i 32
  if (zLanes bs).contains i then
    if y ≠ 0 then none else some (leVal ((bs.drop (8 + 4 * ((zLanes bs).filter (fun j => decide (j < i))).length)).take 4), 0)
  else some (y, 0)

/-! ## The frame -/

/-- Channel 63 begins a transfer; the fault words of an earlier one go (R109, R327). -/
def Core.startKerf (c : Core) (spill : Bool) (search : Option (List Byte) := none) : Core :=
  { c with
    kerfOp := some { spill := spill, moved := 0, done := false, search := search, failed := none }
    faultWords := c.faultWords.filter (fun w => w.qid != 63) }

/-- A stack instruction completes, or waits for a transfer of channel 63 that it starts (R325 to R327); KDROP's search
reads on below the bytes it has (R332). -/
def kerfFinish (s : State) (r : KerfRes) (s' : State) : State :=
  match r with
  | .done => s'.retire
  | .spill => (s.updMe (fun c => c.startKerf true)).park .kerf 0
  | .refill => (s'.updMe (fun c => c.startKerf false)).park .kerf 0
  | .search bs => (s.updMe (fun c => c.startKerf false (some bs))).park .kerf 0

/-- A stack instruction: a transfer that failed is the trap of the instruction that needed it (R327): cause 9 with KSP
for a spill, the cause met with the backing address for a refill. -/
def runK (i : Instr) (body : M KerfRes) (s : State) : Host.Outcome State Fault Refusal :=
  let t := s.updMe (fun c => { c with kerfOp := none })
  match (if i.wellFormed then s.me.kerfOp.bind (fun k => k.failed.map (fun f => (k.spill, f))) else none) with
  | some (spill, cause, va) => .next (if spill then t.takeTrap 9 t.me.ksp else t.takeTrap cause va)
  | none => run i body (kerfFinish t) (if i.wellFormed then t else s)

/-- A forward instruction with a slot of w bytes for each lane. -/
def forwardLanes (vd : BitVec 5) (pg : BitVec 2) (fn ty k w : Nat) (lane : Core → Nat → Lane) : M KerfRes := do
  let c ← meM
  let p := c.gov pg
  forwardM vd p fn ty k (lane c) (slots w p (lane c)) (laneResult p (c.vr vd.toNat) (lane c))

/-- An undo instruction with a slot of w bytes for each lane. -/
def undoLanes (vd : BitVec 5) (pg : BitVec 2) (fn ty k w : Nat) (lane : Core → Nat → Nat → Lane) : M KerfRes := do
  let c ← meM
  let p := c.gov pg
  undoM vd p fn ty k (fun _ => some (16 * w)) (fun bs i => lane c i (slotAt w bs i)) (fun l => laneResult p (c.vr vd.toNat) l)

/-- Lane i of a vector register at width 32. -/
def Core.lane (c : Core) (r : BitVec 5) (i : Nat) : Nat := elem (c.vr r.toNat) i 32

/-! ## The pairs -/

/-- RMULF (R330). -/
def execRmulf (vd va vb : BitVec 5) (pg : BitVec 2) (s : State) : Host.Outcome State Fault Refusal :=
  runK (.rmulf vd va vb pg) (forwardLanes vd pg 0 1 0 4 (fun c i => laneRmulf (c.lane va i) (c.lane vb i))) s

/-- UMULF (R330). -/
def execUmulf (vd va vb : BitVec 5) (pg : BitVec 2) (s : State) : Host.Outcome State Fault Refusal :=
  runK (.umulf vd va vb pg) (undoLanes vd pg 1 1 0 4 (fun c i t => laneUmulf (c.lane va i) (c.lane vb i) t)) s

/-- RMULQ (R330). -/
def execRmulq (vd va vb : BitVec 5) (pg : BitVec 2) (k : BitVec 4) (s : State) : Host.Outcome State Fault Refusal :=
  runK (.rmulq vd va vb pg k) (forwardLanes vd pg 2 2 k.toNat 2 (fun c i => laneRmulq k.toNat (c.lane va i) (c.lane vb i))) s

/-- UMULQ (R330). -/
def execUmulq (vd va vb : BitVec 5) (pg : BitVec 2) (k : BitVec 4) (s : State) : Host.Outcome State Fault Refusal :=
  runK (.umulq vd va vb pg k) (undoLanes vd pg 3 2 k.toNat 2 (fun c i t => laneUmulq k.toNat (c.lane va i) (c.lane vb i) t)) s

/-- RSHRA (R330). -/
def execRshra (vd va : BitVec 5) (pg : BitVec 2) (k : BitVec 4) (s : State) : Host.Outcome State Fault Refusal :=
  runK (.rshra vd va pg k) (forwardLanes vd pg 4 2 k.toNat 2 (fun c i => laneRshra k.toNat (c.lane va i))) s

/-- USHRA (R330). -/
def execUshra (vd va : BitVec 5) (pg : BitVec 2) (k : BitVec 4) (s : State) : Host.Outcome State Fault Refusal :=
  runK (.ushra vd va pg k) (undoLanes vd pg 5 2 k.toNat 2 (fun c i t => laneUshra k.toNat (c.lane va i) t)) s

/-- RNRW (R330): BF16 elements packed low, an inactive lane's zero (R283, R329). -/
def execRnrw (vd va : BitVec 5) (pg : BitVec 2) (s : State) : Host.Outcome State Fault Refusal :=
  runK (.rnrw vd va pg) (do
    let c ← meM
    let p := c.gov pg
    let lane : Nat → Lane := fun i => some (c.lane va i / 2 ^ 16, c.lane va i % 2 ^ 16)
    forwardM vd p 6 1 0 lane (slots 2 p lane)
      (vecOf 16 ((List.range 16).map (fun i => if activeAt p i 32 then c.lane va i / 2 ^ 16 else 0)))) s

/-- UNRW (R330): an inactive lane becomes zero (R283, R329). -/
def execUnrw (vd va : BitVec 5) (pg : BitVec 2) (s : State) : Host.Outcome State Fault Refusal :=
  runK (.unrw vd va pg) (do
    let c ← meM
    let p := c.gov pg
    undoM vd p 7 1 0 (fun _ => some 32) (fun bs i => some (elem (c.vr va.toNat) i 16 * 2 ^ 16 + slotAt 2 bs i, 0))
      (fun l => laneResult p 0 l)) s

/-- RSELZ (R330). -/
def execRselz (vd va : BitVec 5) (pg : BitVec 2) (s : State) : Host.Outcome State Fault Refusal :=
  runK (.rselz vd va pg) (do
    let c ← meM
    let p := c.gov pg
    let lane : Nat → Lane := fun i => some (if sign32 (c.lane va i) then 0 else c.lane va i, 0)
    forwardM vd p 8 2 0 lane (selzPayload p (c.vr va.toNat)) (laneResult p (c.vr vd.toNat) lane)) s

/-- USELZ (R330). -/
def execUselz (vd va : BitVec 5) (pg : BitVec 2) (s : State) : Host.Outcome State Fault Refusal :=
  runK (.uselz vd va pg) (do
    let c ← meM
    let p := c.gov pg
    undoM vd p 9 2 0 (selzExpect p) (laneUselz (c.vr va.toNat)) (fun l => laneResult p (c.vr vd.toNat) l)) s

/-- RADDF (R330). -/
def execRaddf (vd va vb : BitVec 5) (pg : BitVec 2) (s : State) : Host.Outcome State Fault Refusal :=
  runK (.raddf vd va vb pg) (forwardLanes vd pg 10 1 0 4 (fun c i => laneRaddf (c.lane va i) (c.lane vb i))) s

/-- UADDF (R330). -/
def execUaddf (vd va vb : BitVec 5) (pg : BitVec 2) (s : State) : Host.Outcome State Fault Refusal :=
  runK (.uaddf vd va vb pg) (undoLanes vd pg 11 1 0 4 (fun c i t => laneUaddf (c.lane va i) (c.lane vb i) t)) s

/-! ## Markers (R332) -/

/-- KMARK (R332). -/
def execKmark (ra : BitVec 5) (s : State) : Host.Outcome State Fault Refusal :=
  runK (.kmark ra) (do
    let a ← readReg ra
    pushM 0xFF 0 0 (a.toNat % 2 ^ 16) []) s

/-- Where KDROP stops: at a trap, or for the next block of the backing. -/
inductive DropStop where
  | trap (cause : Nat) (value : Word)
  | read
  deriving DecidableEq, Repr

/-- The header below stream byte pos, read where it lies: in the head, the region, or the bytes of the backing that
channel 63 has read for the search (R326, R327, R332). -/
def State.headerAt (s : State) (got : List Byte) (pos : Nat) : Except DropStop Nat :=
  let c := s.me
  let p := pos - 8
  if c.kerfBB + c.kerfRB ≤ p then
    let q := p - c.kerfBB - c.kerfRB
    if c.headBad q 8 then .error (.trap 22 (c.regionAddr p)) else .ok (leVal ((c.kerfHead.drop q).take 8))
  else if c.kerfBB ≤ p then
    let q := p / 1024 * 1024
    if s.regionBad q 1024 then .error (.trap 22 (c.regionAddr q)) else .ok (s.peek (c.regionKey p) 8)
  else if c.kerfBB - got.length ≤ p then .ok (leVal ((got.drop (p + got.length - c.kerfBB)).take 8))
  else .error .read

/-- KDROP's search from the top (R332): the depth that remains. Every record takes at least 8 bytes. -/
def State.dropSearch (s : State) (got : List Byte) (id : Nat) : Nat → Nat → Except DropStop Nat
  | 0, _ => .error (.trap 10 s.me.ksp)
  | f + 1, pos =>
    if pos = 0 then .error (.trap 10 s.me.ksp)
    else match s.headerAt got pos with
      | .error e => .error e
      | .ok h =>
        let len := headerLen h
        if len % 8 ≠ 0 ∨ pos < 8 + len then .error (.trap 8 (BitVec.ofNat 64 h))
        else if natBits h 63 56 = 0xFF ∧ natBits h 15 0 = id then .ok (pos - 8 - len)
        else s.dropSearch got id f (pos - 8 - len)

/-- The newest block of the backing, read already, goes into the region (R326). -/
def State.backToRegion (s : State) (got : List Byte) : State :=
  (s.regionWrite (s.me.kerfBB - 4096) (got.drop (got.length - 4096))).updMe (fun c => { c with
    kerfBB := c.kerfBB - 4096, kerfRB := c.kerfRB + 4096 })

/-- Pop down to depth d: the levels empty in the reverse of the order in which they filled (R326). An error in what is
popped is cause 22 (R327). -/
def State.dropTo (s : State) (d : Nat) : List Byte → Nat → Except DropStop State
  | _, 0 => .ok s
  | got, f + 1 =>
    let c := s.me
    let base := c.kerfBB + c.kerfRB
    let keep := d - base
    if c.headBad keep (c.kerfHead.length - keep) then .error (.trap 22 (c.regionAddr (base + keep)))
    else if base ≤ d then .ok (s.updMe (fun c => c.cutHead keep))
    else if 1024 ≤ c.kerfRB then
      if s.regionBad (base - 1024) 1024 then .error (.trap 22 (c.regionAddr (base - 1024)))
      else (s.updMe (fun c => c.cutHead 0)).regionToHead.dropTo d got f
    else if got.length < 4096 then .error .read
    else (s.backToRegion got).dropTo d (got.take (got.length - 4096)) f

/-- What KDROP's search has read of the backing. -/
def Core.searched (c : Core) : List Byte := (c.kerfOp.bind (fun k => k.search)).getD []

/-- KDROP with what its search has read (R332): the search completes before any record is popped, and a fault pops nothing. -/
def kdropBody (ra : BitVec 5) (got : List Byte) : M KerfRes := do
  let a ← readReg ra
  let s ← look
  match (s.dropSearch got (a.toNat % 2 ^ 16) (s.me.kerfDepth / 8 + 1) s.me.kerfDepth).bind
      (fun d => s.dropTo d got (s.me.kerfDepth / 512 + 2)) with
  | .error (.trap cause v) => trap cause v
  | .error .read => pure (.search got)
  | .ok t => do change (fun _ => t); pure .done

/-- KDROP (R332): it stalls while channel 63 reads the blocks of the backing that it searches. -/
def execKdrop (ra : BitVec 5) (s : State) : Host.Outcome State Fault Refusal :=
  runK (.kdrop ra) (kdropBody ra s.me.searched) s

/-- KCHK (R332): the top header, 0 on an empty stack. -/
def execKchk (rd : BitVec 5) (s : State) : Host.Outcome State Fault Refusal :=
  runK (.kchk rd) (do
    let c ← meM
    if c.kerfDepth = 0 then do writeReg rd 0; pure .done
    else do
      let ok ← fillHead 5 8
      if !ok then pure .refill
      else do
        headSound 8
        let c ← meM
        writeReg rd (BitVec.ofNat 64 (leVal (c.headBytes 0 8)))
        pure .done) s

/-! ## Channel 63 -/

/-- A transfer of the kind is in flight, and all its bytes have been moved. -/
def State.kerfDue (s : State) (spill : Bool) : Bool :=
  match s.me.kerfOp with
  | some k => k.spill == spill && !k.over && decide (4096 ≤ k.moved)
  | none => false

/-- Channel 63 has a packet to move; a spill waits while its page migrates (R327, R70). -/
def State.kerfServes (s : State) : Bool :=
  match s.me.kerfOp with
  | some k => !k.over && decide (k.moved < 4096) &&
      (!k.spill || (match s.engPlace s.me (s.me.backAddr (s.me.kerfBB + k.moved)) 64 .store with | .migrating => false | _ => true))
  | none => false

/-- A transfer has failed with no level changed; its fault words stay (R109, R327). -/
def State.kerfFail (s : State) (k : KerfOp) (cause : Nat) (va : Word) : State :=
  s.updMe (fun c => ({ c with kerfOp := some { k with failed := some (cause, va) } } : Core).keepFaultWords
    { c.kerfRest k with addr := va })

/-- One packet of 64 bytes has been moved. -/
def State.kerfMoved (s : State) (k : KerfOp) : State := s.updMe (fun c => { c with kerfOp := some { k with moved := k.moved + 64 } })

/-- A service of channel 63 (R88, R325 to R327): the next 64 bytes of the block, or what stops the transfer. -/
def State.kerfService (s : State) : State :=
  match s.me.kerfOp with
  | none => s
  | some k =>
    if k.over || decide (4096 ≤ k.moved) then s
    else if k.spill then
      let p := s.me.kerfBB + k.moved
      let q := s.me.regionKey p
      if s.eccError q 64 then s.kerfFail k 22 (s.me.regionAddr p)
      else match s.engStore s.me.id (s.me.backAddr p) (Memory.readBytes s.mem q 64) with
        | .ok t => t.kerfMoved k
        | .error (.fault cause, _) => s.kerfFail k cause (BitVec.ofNat 64 (s.me.backAddr p))
        | .error _ => s
    else
      let p := s.me.kerfFrom k + k.moved
      match s.engLoad s.me (s.me.backAddr p) 64 with
      | .ok bs => match k.search with
        | some got => s.kerfMoved { k with search := some (got.take k.moved ++ bs ++ got.drop k.moved) }
        | none => (s.writeMem (s.me.regionKey p) bs).kerfMoved k
      | .error (.fault cause) => s.kerfFail k cause (BitVec.ofNat 64 (s.me.backAddr p))
      | .error _ => s

/-- A block has been moved: the levels change, but for a block that KDROP's search reads (R325, R326, R332); a spill
counts in KSPILL (R31). -/
def Core.endKerf (c : Core) (k : KerfOp) : Core :=
  let c : Core := { c with kerfOp := some { k with done := true } }
  if k.spill then ({ c with kerfBB := c.kerfBB + 4096, kerfRB := c.kerfRB - 4096 } : Core).countEvent 7 1
  else if k.search.isSome then c
  else { c with kerfBB := c.kerfBB - 4096, kerfRB := c.kerfRB + 4096 }

/-- The end of a transfer whose block has been moved. -/
def State.kerfComplete (s : State) (spill : Bool) : State :=
  match s.me.kerfOp with
  | some k => if s.kerfDue spill then s.updMe (fun c => c.endKerf k) else s
  | none => s

/-- KERF_SPILL_COMPLETE (R325). -/
def execKerfSpillComplete (s : State) : Host.Outcome State Fault Refusal := event (fun s => s.kerfComplete true) s

/-- KERF_REFILL_COMPLETE (R326). -/
def execKerfRefillComplete (s : State) : Host.Outcome State Fault Refusal := event (fun s => s.kerfComplete false) s

end Sys2Proof.Machine
end

