-- ==== Sys2Proof/Machine/Tcw.lean ====
section
/-!
DEFINITION. The tile command words (R230, R231, R336 to R356): the layout of each command, its encoder, the limits
checked at ENQ, and the decoder, which accepts a word exactly when its fields are within limits and nothing else is set.
-/
namespace Sys2Proof

open Sys2Proof.Machine

/-- A tile command word: w0 in bits 31:0 up to w7 in bits 255:224 (R230). -/
abbrev TcwWord := BitVec 256

/-- A field at a bit position of the word. -/
def fieldAt {n : Nat} (pos : Nat) (x : BitVec n) : TcwWord := x.zeroExtend 256 <<< pos

/-- A one-bit field. -/
def bitAt (pos : Nat) (b : Bool) : TcwWord := fieldAt pos (BitVec.ofBool b)

/-- The fields of MMA and MMAT (R348). -/
def MmaCmd.word (c : MmaCmd) : TcwWord :=
  fieldAt 32 c.m ||| fieldAt 41 c.n ||| fieldAt 50 c.rcnt ||| bitAt 59 c.gsplit ||| fieldAt 60 c.rm ||| bitAt 63 c.isat |||
  fieldAt 64 c.k ||| bitAt 81 c.fzi ||| bitAt 82 c.fzo ||| fieldAt 96 c.abase ||| fieldAt 112 c.apitch

/-- The fields of PRICE with its operation (R349, R210). -/
def PriceCmd.word (op : BitVec 3) (c : PriceCmd) : TcwWord :=
  fieldAt 32 c.dom ||| fieldAt 36 op ||| fieldAt 39 c.first ||| fieldAt 49 c.num ||| fieldAt 64 c.addr ||| fieldAt 112 c.numer ||| fieldAt 128 c.shift

/-- CLASS and CMD, w0[31:24] (R231, R337). -/
def Cmd.code : Cmd → BitVec 8
  | .copy _ => 0x00
  | .copynd _ => 0x01
  | .gathr _ => 0x02
  | .scatr _ => 0x03
  | .fill _ => 0x04
  | .feeda _ => 0x05
  | .feedb _ => 0x06
  | .drain _ => 0x07
  | .copyg _ => 0x08
  | .xsched _ => 0x09
  | .mma _ => 0x10
  | .mmat _ => 0x11
  | .mzero _ => 0x12
  | .hist _ => 0x20
  | .psum _ => 0x21
  | .topk _ => 0x22
  | .auct _ => 0x23
  | .apport _ => 0x24
  | .rsort _ => 0x25
  | .priceRead _ => 0x26
  | .priceWrite _ => 0x26
  | .priceScale _ => 0x26
  | .priceReset _ => 0x26
  | .cplan _ => 0x30
  | .cfree _ => 0x31
  | .launch _ => 0x40
  | .rangeinit _ => 0x41
  | .cancel _ => 0x42
  | .cntwait _ => 0x43
  | .qfence _ => 0x50

/-- The command's own fields in w1 to w5 (R339, R348 to R351, R356). -/
def Cmd.word : Cmd → TcwWord
  | .copy c => fieldAt 32 c.qch ||| fieldAt 38 c.len ||| fieldAt 64 c.src ||| fieldAt 128 c.dst ||| fieldAt 176 c.pkg ||| bitAt 191 c.rp
  | .copynd c => fieldAt 32 c.qch ||| fieldAt 64 c.desc
  | .gathr c => fieldAt 32 c.qch ||| fieldAt 38 c.n ||| fieldAt 64 c.parm
  | .scatr c => fieldAt 32 c.qch ||| fieldAt 38 c.ntok ||| fieldAt 64 c.parm ||| fieldAt 112 c.ne
  | .fill c => fieldAt 32 c.qch ||| fieldAt 38 c.len ||| fieldAt 64 c.dst ||| fieldAt 128 c.pat
  | .feeda c => fieldAt 32 c.qch ||| fieldAt 38 c.len ||| fieldAt 64 c.src
  | .feedb c => fieldAt 32 c.qch ||| fieldAt 38 c.len ||| fieldAt 64 c.src
  | .drain c => fieldAt 32 c.qch ||| fieldAt 38 c.rows ||| fieldAt 47 c.words ||| fieldAt 64 c.abase ||| fieldAt 80 c.apitch ||| fieldAt 128 c.dst ||| fieldAt 176 c.dpitch
  | .copyg c => fieldAt 32 c.qch ||| fieldAt 38 c.len ||| fieldAt 64 c.parm
  | .xsched c => fieldAt 32 c.qch ||| fieldAt 64 c.jig
  | .mma c => c.word
  | .mmat c => c.word
  | .mzero c => fieldAt 32 c.m ||| fieldAt 41 c.n ||| bitAt 59 c.gsplit ||| bitAt 63 c.ew2 ||| fieldAt 96 c.abase ||| fieldAt 112 c.apitch
  | .hist c => fieldAt 32 c.ntok ||| fieldAt 64 c.ids ||| fieldAt 112 c.ne ||| fieldAt 128 c.cnt
  | .psum c => fieldAt 32 c.ne ||| fieldAt 64 c.cnt ||| fieldAt 128 c.offs
  | .topk c => fieldAt 32 c.nr ||| fieldAt 49 c.nc ||| fieldAt 60 c.kfmt ||| fieldAt 64 c.parm ||| fieldAt 112 c.k
  | .auct c => fieldAt 32 c.nt ||| fieldAt 49 c.ne ||| fieldAt 60 c.dom ||| fieldAt 64 c.parm ||| fieldAt 112 c.eps ||| fieldAt 128 c.lim ||| bitAt 140 c.dcol ||| bitAt 141 c.auto
  | .apport c => fieldAt 32 c.nb ||| fieldAt 42 c.ne ||| fieldAt 64 c.cnt ||| fieldAt 128 c.bays
  | .rsort c => fieldAt 32 c.np ||| fieldAt 64 c.src ||| fieldAt 128 c.dst
  | .priceRead c => c.word 0
  | .priceWrite c => c.word 1
  | .priceScale c => c.word 2
  | .priceReset c => c.word 3
  | .cplan c => fieldAt 64 c.desc
  | .cfree c => fieldAt 32 c.handle
  | .launch c => fieldAt 32 c.nsucc ||| fieldAt 64 c.pkt ||| fieldAt 128 c.succ0 ||| fieldAt 144 c.succ1 ||| fieldAt 160 c.succ2 ||| fieldAt 176 c.succ3
  | .rangeinit c => fieldAt 32 c.ru ||| fieldAt 36 c.div ||| fieldAt 64 c.start ||| fieldAt 128 c.length ||| fieldAt 160 c.minc
  | .cancel c => fieldAt 32 c.level ||| fieldAt 64 c.key ||| fieldAt 96 c.index
  | .cntwait c => fieldAt 32 c.level ||| bitAt 35 c.sealIt ||| bitAt 36 c.nowait ||| fieldAt 64 c.key ||| fieldAt 96 c.index
  | .qfence c => fieldAt 32 c.qch ||| fieldAt 64 c.qset ||| fieldAt 128 c.cset

/-- The word of a command (R230, R336): the common fields, its own, and CREC. -/
def encodeTcw (h : CmdHead) (c : Cmd) : TcwWord :=
  fieldAt 0 h.tag ||| fieldAt 16 h.chan ||| bitAt 21 h.wantsRecord ||| bitAt 22 h.bar ||| bitAt 23 h.irq ||| fieldAt 24 c.code |||
  c.word ||| fieldAt 192 h.crec

/-- The common fields of a word. -/
def headOf (w : TcwWord) : CmdHead where
  irq := w.getLsbD 23
  bar := w.getLsbD 22
  wantsRecord := w.getLsbD 21
  chan := w.extractLsb' 16 5
  tag := w.extractLsb' 0 16
  crec := w.extractLsb' 192 48

/-- The fields of an MMA-shaped word. -/
def mmaOf (w : TcwWord) : MmaCmd where
  m := w.extractLsb' 32 9
  n := w.extractLsb' 41 9
  rcnt := w.extractLsb' 50 9
  gsplit := w.getLsbD 59
  rm := w.extractLsb' 60 3
  isat := w.getLsbD 63
  k := w.extractLsb' 64 17
  fzi := w.getLsbD 81
  fzo := w.getLsbD 82
  abase := w.extractLsb' 96 16
  apitch := w.extractLsb' 112 16

/-- The fields of a PRICE word. -/
def priceOf (w : TcwWord) : PriceCmd where
  dom := w.extractLsb' 32 4
  first := w.extractLsb' 39 10
  num := w.extractLsb' 49 11
  addr := w.extractLsb' 64 48
  numer := w.extractLsb' 112 16
  shift := w.extractLsb' 128 5

/-- The fields of a word by its class and command; none for an unassigned code (R231). -/
def cmdOf (w : TcwWord) : Option Cmd :=
  match (w.extractLsb' 24 8).toNat with
  | 0x00 => some (.copy ⟨w.extractLsb' 32 6, w.extractLsb' 38 26, w.extractLsb' 64 48, w.extractLsb' 128 48, w.extractLsb' 176 14, w.getLsbD 191⟩)
  | 0x01 => some (.copynd ⟨w.extractLsb' 32 6, w.extractLsb' 64 48⟩)
  | 0x02 => some (.gathr ⟨w.extractLsb' 32 6, w.extractLsb' 38 26, w.extractLsb' 64 48⟩)
  | 0x03 => some (.scatr ⟨w.extractLsb' 32 6, w.extractLsb' 38 25, w.extractLsb' 64 48, w.extractLsb' 112 16⟩)
  | 0x04 => some (.fill ⟨w.extractLsb' 32 6, w.extractLsb' 38 26, w.extractLsb' 64 48, w.extractLsb' 128 64⟩)
  | 0x05 => some (.feeda ⟨w.extractLsb' 32 6, w.extractLsb' 38 26, w.extractLsb' 64 48⟩)
  | 0x06 => some (.feedb ⟨w.extractLsb' 32 6, w.extractLsb' 38 26, w.extractLsb' 64 48⟩)
  | 0x07 => some (.drain ⟨w.extractLsb' 32 6, w.extractLsb' 38 9, w.extractLsb' 47 10, w.extractLsb' 64 16, w.extractLsb' 80 16, w.extractLsb' 128 48, w.extractLsb' 176 16⟩)
  | 0x08 => some (.copyg ⟨w.extractLsb' 32 6, w.extractLsb' 38 26, w.extractLsb' 64 48⟩)
  | 0x09 => some (.xsched ⟨w.extractLsb' 32 6, w.extractLsb' 64 48⟩)
  | 0x10 => some (.mma (mmaOf w))
  | 0x11 => some (.mmat (mmaOf w))
  | 0x12 => some (.mzero ⟨w.extractLsb' 32 9, w.extractLsb' 41 9, w.getLsbD 59, w.getLsbD 63, w.extractLsb' 96 16, w.extractLsb' 112 16⟩)
  | 0x20 => some (.hist ⟨w.extractLsb' 32 25, w.extractLsb' 64 48, w.extractLsb' 112 16, w.extractLsb' 128 48⟩)
  | 0x21 => some (.psum ⟨w.extractLsb' 32 11, w.extractLsb' 64 48, w.extractLsb' 128 48⟩)
  | 0x22 => some (.topk ⟨w.extractLsb' 32 17, w.extractLsb' 49 11, w.extractLsb' 60 2, w.extractLsb' 64 48, w.extractLsb' 112 16⟩)
  | 0x23 => some (.auct ⟨w.extractLsb' 32 17, w.extractLsb' 49 11, w.extractLsb' 60 4, w.extractLsb' 64 48, w.extractLsb' 112 16, w.extractLsb' 128 12, w.getLsbD 140, w.getLsbD 141⟩)
  | 0x24 => some (.apport ⟨w.extractLsb' 32 10, w.extractLsb' 42 11, w.extractLsb' 64 48, w.extractLsb' 128 48⟩)
  | 0x25 => some (.rsort ⟨w.extractLsb' 32 21, w.extractLsb' 64 48, w.extractLsb' 128 48⟩)
  | 0x26 => match (w.extractLsb' 36 3).toNat with
    | 0 => some (.priceRead (priceOf w))
    | 1 => some (.priceWrite (priceOf w))
    | 2 => some (.priceScale (priceOf w))
    | 3 => some (.priceReset (priceOf w))
    | _ => none
  | 0x30 => some (.cplan ⟨w.extractLsb' 64 48⟩)
  | 0x31 => some (.cfree ⟨w.extractLsb' 32 12⟩)
  | 0x40 => some (.launch ⟨w.extractLsb' 32 3, w.extractLsb' 64 48, w.extractLsb' 128 16, w.extractLsb' 144 16, w.extractLsb' 160 16, w.extractLsb' 176 16⟩)
  | 0x41 => some (.rangeinit ⟨w.extractLsb' 32 4, w.extractLsb' 36 16, w.extractLsb' 64 64, w.extractLsb' 128 32, w.extractLsb' 160 32⟩)
  | 0x42 => some (.cancel ⟨w.extractLsb' 32 3, w.extractLsb' 64 32, w.extractLsb' 96 16⟩)
  | 0x43 => some (.cntwait ⟨w.extractLsb' 32 3, w.getLsbD 35, w.getLsbD 36, w.extractLsb' 64 32, w.extractLsb' 96 16⟩)
  | 0x50 => some (.qfence ⟨w.extractLsb' 32 6, w.extractLsb' 64 4, w.extractLsb' 128 63⟩)
  | _ => none

/-! ## Limits at ENQ -/

/-- A number lies between two bounds. -/
def within (x lo hi : Nat) : Bool := decide (lo ≤ x) && decide (x ≤ hi)

/-- An address is a multiple of n. -/
def aligned {w : Nat} (a : BitVec w) (n : Nat) : Bool := decide (a.toNat % n = 0)

/-- A self-window address as DRAIN and XSCHED name one: bits 47:18 are 0x2400_0000 (R339). -/
def selfAddr (a : BitVec 48) : Bool := decide (a.toNat / 2 ^ 18 = 0x24000000)

/-- The copy channel of a class-0 command or a QFENCE (R106). -/
def Cmd.channel : Cmd → Nat
  | .copy c => c.qch.toNat
  | .copynd c => c.qch.toNat
  | .gathr c => c.qch.toNat
  | .scatr c => c.qch.toNat
  | .fill c => c.qch.toNat
  | .feeda c => c.qch.toNat
  | .feedb c => c.qch.toNat
  | .drain c => c.qch.toNat
  | .copyg c => c.qch.toNat
  | .xsched c => c.qch.toNat
  | .qfence c => c.qch.toNat
  | _ => 0

/-- The class of a command (R231). -/
def Cmd.cls (c : Cmd) : Nat := c.code.toNat / 16

/-- BAR = 1 is allowed (R337). -/
def Cmd.mayBind : Cmd → Bool
  | .copy c => !c.rp
  | .copynd _ => true
  | .gathr _ => true
  | .scatr _ => true
  | .fill _ => true
  | .drain _ => true
  | .copyg _ => true
  | .xsched _ => true
  | c => c.cls == 2

/-- A level and key of CANCEL or CNTWAIT (R351). -/
def levelOk (level : BitVec 3) (key : BitVec 32) (index : BitVec 16) (least : Nat) : Bool :=
  within level.toNat least 4 && (level != 0 || decide (key.toNat < 4096)) && (level == 1 || index == 0)

/-- The limits of PRICE (R210, R349). -/
def PriceCmd.ok (c : PriceCmd) (addr scale : Bool) : Bool :=
  within c.num.toNat 1 1024 && decide (c.first.toNat + c.num.toNat ≤ 1024) &&
  (if addr then aligned c.addr 4 else c.addr == 0) && (scale || (c.numer == 0 && c.shift == 0))

/-- The limits of MMA and MMAT; RM 6 and 7 are illegal where RM is used (R348). -/
def MmaCmd.ok (c : MmaCmd) (useRm : Bool) : Bool :=
  within c.m.toNat 1 256 && within c.n.toNat 1 256 && decide (c.rcnt.toNat ≤ c.m.toNat) && (!useRm || decide (c.rm.toNat < 6)) &&
  within c.k.toNat 1 65536 && decide (c.n.toNat ≤ c.apitch.toNat)

/-- The command's own limits (R339, R348 to R351, R356). -/
def Cmd.limits (field : Nat) : Cmd → Bool
  | .copy c => c.rp || c.pkg == 0
  | .copynd c => aligned c.desc 64
  | .gathr c => aligned c.parm 32
  | .scatr c => within c.ntok.toNat 1 (2 ^ 24) && aligned c.parm 64 && within c.ne.toNat 1 1024
  | .fill _ => true
  | .feeda _ => true
  | .feedb _ => true
  | .drain c => within c.rows.toNat 1 256 && within c.words.toNat 1 512 && decide (c.words.toNat ≤ c.apitch.toNat) &&
      selfAddr c.dst && aligned c.dst 4 && aligned c.dpitch 4 && (c.rows == 1 || decide (4 * c.words.toNat ≤ c.dpitch.toNat))
  | .copyg c => aligned c.parm 32
  | .xsched c => selfAddr c.jig && aligned c.jig 16
  | .mma c => c.ok true
  | .mmat c => c.ok false
  | .mzero c => within c.m.toNat 1 256 && within c.n.toNat 1 256 && decide (c.n.toNat ≤ c.apitch.toNat)
  | .hist c => within c.ntok.toNat 1 (2 ^ 24) && aligned c.ids 2 && within c.ne.toNat 1 1024 && aligned c.cnt 4
  | .psum c => within c.ne.toNat 1 1024 && aligned c.cnt 4 && aligned c.offs 4
  | .topk c => within c.nr.toNat 1 65536 && within c.nc.toNat 1 1024 && c.kfmt != 3 && aligned c.parm 32 && within c.k.toNat 1 64 && decide (c.k.toNat ≤ c.nc.toNat)
  | .auct c => within c.nt.toNat 1 65536 && within c.ne.toNat 2 1024 && aligned c.parm 64 && within c.eps.toNat 1 65535 && within c.lim.toNat 1 4095 && (!c.dcol || c.dom == 0)
  | .apport c => within c.nb.toNat 1 512 && within c.ne.toNat 1 1024 && aligned c.cnt 4 && aligned c.bays 2
  | .rsort c => within c.np.toNat 1 (2 ^ 20) && aligned c.src 8 && aligned c.dst 8
  | .priceRead c => c.ok true false
  | .priceWrite c => c.ok true false
  | .priceScale c => c.ok false true
  | .priceReset c => c.ok false false
  | .cplan c => aligned c.desc 64
  | .cfree _ => true
  | .launch c => decide (c.nsucc.toNat ≤ 4) && aligned c.pkt 64 && (decide (0 < c.nsucc.toNat) || c.succ0 == 0) &&
      (decide (1 < c.nsucc.toNat) || c.succ1 == 0) && (decide (2 < c.nsucc.toNat) || c.succ2 == 0) && (decide (3 < c.nsucc.toNat) || c.succ3 == 0)
  | .rangeinit c => within c.div.toNat 1 65535 && decide (1 ≤ c.minc.toNat)
  | .cancel c => levelOk c.level c.key c.index 0
  | .cntwait c => levelOk c.level c.key c.index 1 && (c.level != 1 || !c.sealIt) && (!c.nowait || c.sealIt)
  | .qfence c => (if field = 0 then c.cset.getLsbD c.qch.toNat else c.qch == 0 && c.qset.getLsbD (field - 1))

/-- The checks of R107 and R336 on a word that is exactly its named fields: class against queue field, channel 63,
BAR and CHAN, CREC, and the command's limits; XSCHED requires BAR (R103). -/
def tcwOk (field : Nat) (h : CmdHead) (c : Cmd) : Bool :=
  (c.cls == 5 || c.cls == field) && (!(c.cls == 0 || (c.cls == 5 && field == 0)) || c.channel != 63) &&
  (if h.bar then c.mayBind else h.chan == 0) && (match c with | .xsched _ => h.bar | _ => true) &&
  (if h.wantsRecord then aligned h.crec 32 else h.crec == 0) && c.limits field

/-- The command of a word pushed to a queue field; none is cause 19. -/
def decodeTcw (field : Nat) (w : TcwWord) : Option (CmdHead × Cmd) :=
  match cmdOf w with
  | none => none
  | some c =>
    let h := headOf w
    if encodeTcw h c = w ∧ tcwOk field h c = true then some (h, c) else none

end Sys2Proof
end

