-- ==== Sys2Proof/Machine/Enq.lean ====
section
/-!
DEFINITION. Pushing command words and watching queues: ENQ, ENQM, QSTAT, QWAIT (R106, R107, R114, R278, R279), the
acceptance and the completion of entries (R107, R111), QFENCE (R115), and events held at an engine (R113).
-/
namespace Sys2Proof.Machine

open Sys2Proof

/-! ## ENQ -/

/-- Another core's global window, or die shared memory (R79, R103). -/
def remoteTo (core va : Nat) : Bool :=
  match windowOf va with
  | .global n _ => n != core
  | .shared _ _ => true
  | _ => false

/-- A range has a byte in another core's global window or in die shared memory: at its start, or where one of those windows
begins. -/
def remoteRange (core a n : Nat) : Bool :=
  let from' := roundUp (max a (8 * 2 ^ 44)) (2 ^ 20)
  (a :: [from', from' + 2 ^ 20, roundUp (max a (10 * 2 ^ 44)) (2 ^ 28)].filter (fun p => decide (p < a + n))).any (remoteTo core)

/-- A doubleword, a word or a halfword of a block. -/
def blk8 (bs : List Byte) (o : Nat) : Nat := leVal ((bs.drop o).take 8)
def blk4 (bs : List Byte) (o : Nat) : Nat := leVal ((bs.drop o).take 4)
def blk2 (bs : List Byte) (o : Nat) : Nat := leVal ((bs.drop o).take 2)

/-- Reserved bytes of a block are zero (R338). -/
def blkZero (bs : List Byte) (o n : Nat) : Bool := ((bs.drop o).take n).all (· == 0)

/-- Where row b of plane c begins. -/
def rowAt (base : Nat) (st1 st2 : Int) (c b : Nat) : Nat := (((base : Int) + c * st2 + b * st1) % 2 ^ 64).toNat

/-- The rows of a descriptor on one side (R342). -/
def NdDesc.srcRow (d : NdDesc) (c b : Nat) : Nat := rowAt d.src d.ss1 d.ss2 c b
def NdDesc.dstRow (d : NdDesc) (c b : Nat) : Nat := rowAt d.dst d.ds1 d.ds2 c b

/-- Some row satisfies a test. -/
def NdDesc.anyRow (d : NdDesc) (f : Nat → Nat → Bool) : Bool := (List.range d.e2).any (fun c => (List.range d.e1).any (fun b => f c b))

/-- The least and the greatest row start of one side before wrapping, and the end of the greatest row. -/
def ndBox (base e0 e1 e2 : Nat) (st1 st2 : Int) : Int × Int :=
  let x := ((e1 : Int) - 1) * st1
  let y := ((e2 : Int) - 1) * st2
  ((base : Int) + min 0 x + min 0 y, (base : Int) + max 0 x + max 0 y + e0)

/-- The descriptor's fields. -/
def ndOf (bs : List Byte) : NdDesc where
  src := blk8 bs 0
  dst := blk8 bs 8
  e0 := blk4 bs 16
  e1 := blk4 bs 20
  e2 := blk4 bs 24
  ss1 := sintN 64 (blk8 bs 32)
  ss2 := sintN 64 (blk8 bs 40)
  ds1 := sintN 64 (blk8 bs 48)
  ds2 := sintN 64 (blk8 bs 56)

/-- A row of a descriptor on either side reaches a remote range. Boxes that do not decide it without the rows. -/
def NdDesc.remote (d : NdDesc) (core : Nat) : Bool :=
  let apart : Int × Int → Bool := fun x =>
    decide (0 ≤ x.1) && decide (x.2 ≤ 2 ^ 64) && !remoteRange core x.1.toNat (x.2 - x.1).toNat
  if apart (ndBox d.src d.e0 d.e1 d.e2 d.ss1 d.ss2) && apart (ndBox d.dst d.e0 d.e1 d.e2 d.ds1 d.ds2) then false
  else d.anyRow (fun c b => remoteRange core (d.srcRow c b) d.e0 || remoteRange core (d.dstRow c b) d.e0)

/-- A block read for a core; none where it cannot be read. -/
def State.blockOf (s : State) (c : Core) (va n : Nat) : Option (List Byte) :=
  match s.engLoad c va n with
  | .ok bs => some bs
  | .error _ => none

/-- A move of R103 has its source or its destination in another core's store or in die shared memory, as far as its block
can be read at its ENQ (log 8): every byte of a range, every row of COPYND, the rows of GATHR and SCATR. -/
def State.movesFar (s : State) (c : Core) (cmd : Cmd) : Bool :=
  match cmd with
  | .copy x => remoteRange c.id x.src.toNat x.len.toNat || (!x.rp && remoteRange c.id x.dst.toNat x.len.toNat)
  | .fill x => remoteRange c.id x.dst.toNat x.len.toNat
  | .copynd x => match s.blockOf c x.desc.toNat 64 with
    | some bs => (ndOf bs).remote c.id
    | none => false
  | .gathr x => match s.blockOf c x.parm.toNat 32 with
    | some bs => remoteRange c.id (blk8 bs 8) (blk4 bs 28 * blk4 bs 24) || remoteRange c.id (blk8 bs 16) (x.n.toNat * blk4 bs 24)
    | none => false
  | .scatr x => match s.blockOf c x.parm.toNat 64 with
    | some bs =>
      let rows := match s.blockOf c (blk8 bs 8 + 4 * x.ne.toNat) 4 with | some os => leVal os | none => 0
      remoteRange c.id (blk8 bs 16) (x.ntok.toNat * blk4 bs 40) || remoteRange c.id (blk8 bs 24) (rows * blk4 bs 40)
    | none => false
  | _ => false

/-- The cause 13 of R103 at ENQ: a move to or from another core's store or die shared memory in a compute stretch. -/
def State.enqForbidden (s : State) (cmd : Cmd) : Bool :=
  s.me.det && !s.me.inExchange && s.movesFar s.me cmd

/-- Steps 3 and 4 of R278: the checks, cause 19 with w0, then cause 13; then the push, or the wait for room. -/
def pushWord (field : Nat) (w : TcwWord) : M Unit := do
  match decodeTcw field w with
  | none => trap 19 (w.extractLsb' 0 32 |>.zeroExtend 64)
  | some (h, cmd) => do
    let s ← look
    if s.enqForbidden cmd then trapWord 13
    else if 2 ≤ s.me.issueCount field then stall (.enq field)
    else changeMe (fun c => { c with entries := c.entries ++ [newEntry field cmd.channel h cmd] })

/-- ENQ (R230, R278): the word from four registers, in ascending order. -/
def enqBody (ra : BitVec 5) (q : BitVec 3) : M Unit := do
  let a ← readReg ra
  let b ← readReg (ra + 1)
  let c ← readReg (ra + 2)
  let d ← readReg (ra + 3)
  pushWord q.toNat (d ++ c ++ b ++ a)

/-- ENQM (R230, R278): the word from 32 bytes of memory, an aligned relaxed load. -/
def enqmBody (ra : BitVec 5) (q : BitVec 3) : M Unit := do
  let a ← readReg ra
  let x ← loadM a 32
  pushWord q.toNat (BitVec.ofNat 256 x)

/-! ## QSTAT and QWAIT -/

/-- The queue a QSTAT or QWAIT names (R114). -/
def namedQid (q : BitVec 3) (a : Word) : Nat := qidOf q.toNat (a.toNat % 64)

/-- HSTATE (R114). An entry whose work is over and whose report is due has no code of its own: DESIGN CHOICE 2, active
(log 36). -/
def EState.code : EState → Nat
  | .issued => 6
  | .accepted => 1
  | .active => 2
  | .suspended => 3
  | .pending => 4
  | .fenced => 5
  | .finishing => 2

/-- The status word's fields (R114). -/
def statusFields (hstate count : Nat) (tag : BitVec 16) (rem : Nat) : Word :=
  BitVec.ofNat 64 (hstate * 2 ^ 61 + min count 31 * 2 ^ 56 + tag.toNat * 2 ^ 32 + min rem 0xFFFFFFFF)

/-- The status word of a queue (R114); channel 63 shows the kerf stack's transfer (R279). Where the manual does not say
how many bytes remain, REM is a free value (log 3). -/
def statusWord (qid : Nat) : M Word := do
  let c ← meM
  if qid = 63 then
    pure (match c.kerfOp with
      | some k => if k.over then 0 else statusFields 2 1 0 (4096 - k.moved)
      | none => 0)
  else match c.headEntry qid with
    | none => pure 0
    | some e => do
      let n := (c.entries.filter (fun x => x.qid == qid)).length
      let s ← look
      change (fun s => s.drawFor e)
      pure (statusFields e.state.code n e.head.tag (e.remAt s.fresh))

/-- The entry has become active. -/
def Entry.begun (e : Entry) : Bool :=
  match e.state with
  | .issued => false
  | .accepted => false
  | .fenced => false
  | _ => true

/-- The entry is suspended or has faulted. -/
def Entry.faulted (e : Entry) : Bool :=
  match e.state with
  | .suspended => true
  | .finishing => e.status == 3 || e.status == 4
  | _ => false

/-- A selector's word of fault words. -/
def FaultWords.word (f : FaultWords) (sel : Nat) : Word :=
  match sel with
  | 1 => f.src
  | 2 => f.dst
  | _ => f.addr

/-- Selectors 1 to 3 of QSTAT on a copy channel: of the entry that has begun; else as the last fault left them; else
of the entry that has not begun (R109, R114). Channel 63 shows the transfer of the kerf stack in the same way (R279,
R327). -/
def Core.remainderWord (c : Core) (qid sel : Nat) : Word :=
  let kept := match c.faultWords.find? (fun f => f.qid == qid) with
    | some f => some (f.word sel)
    | none => none
  let own := fun (e : Entry) => match sel with
    | 1 => e.srcAddr
    | 2 => e.dstAddr
    | _ => if e.faulted then e.faultAddr else 0
  match c.headEntry qid with
  | some e => if e.begun then own e else kept.getD (own e)
  | none =>
    if qid = 63 then
      match c.kerfOp with
      | some k => if k.over then kept.getD 0 else (c.kerfRest k).word sel
      | none => kept.getD 0
    else kept.getD 0

/-- QSTAT (R114, R279). -/
def qstatBody (rd ra rb : BitVec 5) (q : BitVec 3) : M Unit := do
  let a ← readReg ra
  let sel ← readReg rb
  let qid := namedQid q a
  let c ← meM
  let w ← if sel = 0 then statusWord qid
    else if q = 0 ∧ sel.toNat ≤ 3 then pure (c.remainderWord qid sel.toNat)
    else pure 0
  writeReg rd w

/-- QWAIT's wait is over: every entry of Q has completed, or the oldest is suspended or pending (R114). -/
def Core.queueSettled (c : Core) (qid : Nat) : Bool :=
  if qid = 63 then (match c.kerfOp with | some k => k.over | none => true)
  else match c.headEntry qid with
    | none => true
    | some e => (match e.state with
      | .suspended => true
      | .pending => true
      | _ => false)

/-- QWAIT (R114, R279): the queue and tag of a stale shard seen complete, which is cause 21 once. -/
def qwaitBody (rd ra : BitVec 5) (q : BitVec 3) : M (Option (Nat × BitVec 16)) := do
  let a ← readReg ra
  let qid := namedQid q a
  let c ← meM
  if !c.queueSettled qid then stall (.qwait qid) rd
  else match c.staleTags.find? (fun t => t.1 == qid) with
    | some t => pure (some t)
    | none => do
      let w ← statusWord qid
      writeReg rd w
      pure none

/-- QWAIT completes, or traps with cause 21 and the stale entry is told (R114). -/
def qwaitFinish (s : State) (r : Option (Nat × BitVec 16)) (s' : State) : State :=
  match r with
  | none => s'.retire
  | some t =>
    (s.updMe (fun c => { c with staleTags := removeFirst (fun x => x == t) c.staleTags })).takeTrap 21
      (BitVec.ofNat 64 (t.1 * 2 ^ 16 + t.2.toNat))

/-- ENQ (R278). -/
def execEnq (ra : BitVec 5) (q : BitVec 3) (s : State) : Host.Outcome State Fault Refusal := runI (.enq ra q) (enqBody ra q) s

/-- ENQM (R278). -/
def execEnqm (ra : BitVec 5) (q : BitVec 3) (s : State) : Host.Outcome State Fault Refusal := runI (.enqm ra q) (enqmBody ra q) s

/-- QSTAT (R279). -/
def execQstat (rd ra rb : BitVec 5) (q : BitVec 3) (s : State) : Host.Outcome State Fault Refusal :=
  runI (.qstat rd ra rb q) (qstatBody rd ra rb q) s

/-- QWAIT (R279). -/
def execQwait (rd ra : BitVec 5) (q : BitVec 3) (s : State) : Host.Outcome State Fault Refusal :=
  run (.qwait rd ra q) (qwaitBody rd ra q) (qwaitFinish s) s

/-! ## Acceptance -/

/-- The issue queue's head. -/
def Core.issueHead (c : Core) (field : Nat) : Option Entry := c.entries.find? (fun e => e.field == field && e.state == .issued)

/-- The entries of a queue that are at its engine (R106). -/
def Core.heldAt (c : Core) (qid : Nat) : Nat := (c.entries.filter (fun e => e.qid == qid && e.state != .issued)).length

/-- The head of an issue queue can pass to its engine (R107). -/
def Core.canAccept (c : Core) (field : Nat) : Bool :=
  match c.issueHead field with
  | some e => decide (c.heldAt e.qid < qidCap e.qid)
  | none => false

/-- An issue queue passes its head; an accepted XSCHED opens the exchange stretch (R103, R107, R108). -/
def State.acceptEntry (s : State) (field : Nat) : State :=
  if s.me.canAccept field then
    match s.me.issueHead field with
    | none => s
    | some e =>
      let ch := e.head.chan.toNat
      let epoch := match s.channel? ch with | some x => x.epoch | none => 0
      s.updMe (fun c => { c with
        entries := replaceFirst (fun e => e.field == field && e.state == .issued) (fun e => { e with state := .accepted }) c.entries
        exchange := match e.cmd with | .xsched _ => c.exchange ++ [(ch, epoch)] | _ => c.exchange })
  else s

/-- ENTRY_ACCEPTED (R107, R108). -/
def execEntryAccepted (field : Nat) (s : State) : Host.Outcome State Fault Refusal := event (fun s => s.acceptEntry field) s

/-! ## Completion -/

/-- The head of a queue has a report that may be made now (R111, R113). -/
def Core.canReport (c : Core) (qid : Nat) : Bool :=
  match c.headEntry qid with
  | some e => e.state == .finishing && (!e.reports || c.eventRoom)
  | none => false

/-- ENTRY_COMPLETE (R111): the record, the bytes of a bound routing command, the events. -/
def execEntryComplete (qid : Nat) (s : State) : Host.Outcome State Fault Refusal :=
  event (fun s => if s.me.canReport qid then s.reportHead qid else s) s

/-- HELD_EVENT_ENQUEUE (R113): the oldest event held at an engine enters the queue when it has room. -/
def execHeldEventEnqueue (s : State) : Host.Outcome State Fault Refusal :=
  event (fun s => s.updMe (fun c =>
    match c.heldEvents with
    | e :: rest => if c.events.length < 16 then { c with events := c.events ++ [e], heldEvents := rest } else c
    | [] => c)) s

/-! ## QFENCE (R115, R356) -/

/-- The queues of a QFENCE's set. -/
def fenceQueues (c : QfenceCmd) : List Nat :=
  ((List.range 63).filter (fun j => c.cset.getLsbD j)) ++ ((List.range 4).filter (fun j => c.qset.getLsbD j)).map (· + 64)

/-- The copies of QFENCEs held with a tag: queue and command. -/
def Core.fencesHeld (c : Core) (tag : BitVec 16) : List (Nat × QfenceCmd) :=
  (List.range 68).filterMap (fun q => match c.headEntry q with
    | some e => (match e.cmd with
      | .qfence f => if e.state == .fenced ∧ e.head.tag = tag then some (q, f) else none
      | _ => none)
    | none => none)

/-- Two QFENCEs name one set. -/
def sameSet (a b : QfenceCmd) : Bool := a.qset == b.qset && a.cset == b.cset

/-- Every copy held with a tag is released: it completes (R115). -/
def State.endFences (s : State) (tag : BitVec 16) : State :=
  (s.me.fencesHeld tag).foldl (fun s x => s.finishHead x.1 0 0) s

/-- The command is a QFENCE. -/
def isFence : Cmd → Bool
  | .qfence _ => true
  | _ => false

/-- A mismatch: every copy with the tag ends with status 2 and its own KIND 0 event, whose CAUSE is 0 (no cause code is
met: log 36); a copy behind other entries ends so when they have ended (R108, R115). -/
def State.breakFences (s : State) (tag : BitVec 16) : State :=
  s.updMe (fun c => { c with entries := c.entries.map (fun (e : Entry) =>
    if isFence e.cmd && e.head.tag == tag && e.state != .finishing then
      let e : Entry := { e with mismatch := true }
      if e.state = .fenced then e.finish 2 0 else e
    else e) })

/-- Held copies whose tag matches and whose set differs. -/
def Core.fenceMismatch (c : Core) (tag : BitVec 16) : Bool :=
  match c.fencesHeld tag with
  | [] => false
  | x :: rest => rest.any (fun y => !sameSet x.2 y.2)

/-- Every queue of the set has reached a QFENCE with the tag. -/
def Core.fenceReady (c : Core) (tag : BitVec 16) : Bool :=
  match c.fencesHeld tag with
  | [] => false
  | x :: rest => rest.all (fun y => sameSet x.2 y.2) && (fenceQueues x.2).all (fun q => (x :: rest).any (fun y => y.1 == q))

/-- A QFENCE that is accepted at the head of its queue holds it, as the active entry, so that the fault words of an
earlier entry go (R109); a held copy with the same tag and another set ends them all with status 2 (R115). -/
def State.takeFence (s : State) (h : CmdHead) (f : QfenceCmd) : State :=
  let isIt := fun (q : Nat) => match s.me.headEntry q with
    | some e => e.state == .accepted && e.head == h && e.cmd == .qfence f
    | none => false
  match (List.range 68).find? isIt with
  | none => s
  | some q =>
    let s := s.updMe (fun c => { c.updHead q (fun e => if e.mismatch then e.finish 2 0 else { e with state := .fenced }) with
      faultWords := c.faultWords.filter (fun w => w.qid != q) })
    if s.me.fenceMismatch h.tag then s.breakFences h.tag else s

/-- QFENCE (R115, R356). -/
def execQfence (h : CmdHead) (c : QfenceCmd) (s : State) : Host.Outcome State Fault Refusal := event (fun s => s.takeFence h c) s

/-- QFENCE_RELEASE (R115): when every queue of the set is held, all copies are released together. -/
def execQfenceRelease (tag : BitVec 16) (s : State) : Host.Outcome State Fault Refusal :=
  event (fun s => if s.me.fenceReady tag then s.endFences tag else s) s

/-! ## Taking up an entry -/

/-- An engine takes up the accepted head of a queue when it is the given command; the earlier entry's fault words go
with its becoming active (R108, R109). -/
def State.takeHead (s : State) (qid : Nat) (h : CmdHead) (c : Cmd) (f : Entry → State → State) : State :=
  match s.me.headEntry qid with
  | some e =>
    if e.state = .accepted ∧ e.head = h ∧ e.cmd = c then
      let s := s.updMe (fun c =>
        { c.updHead qid (fun e => { e with state := .active }) with faultWords := c.faultWords.filter (fun w => w.qid != qid) })
      f { e with state := .active } s
    else s
  | none => s

/-- A bound entry's channel must be one the issuing launch holds (R118, R337): else it ends with status 2 at the head. -/
def Core.bindOk (c : Core) (h : CmdHead) : Bool := !h.bar || c.holds h.chan.toNat

end Sys2Proof.Machine
end

