-- ==== Sys2Proof/Machine/Coll.lean ====
section
/-!
DEFINITION. The collectives of the hub: waves over the spanning trees (R163, R164, R280), plans (R165, R166, R174,
R175), triggers and postings (R167, R169), tickets (R170), and the instances (R168, R171 to R173).
-/
namespace Sys2Proof.Machine

open Sys2Proof

/-! ## Combining (R39, R163) -/

/-- One combination of two values by a collective operation. -/
def collOp (op a b : Nat) : Nat :=
  match op with
  | 0 => (a + b) % 2 ^ 64
  | 1 => addRne .f32 (a % 2 ^ 32) (b % 2 ^ 32)
  | 2 => addRne .f64 a b
  | 3 => if sintN 64 b < sintN 64 a then b else a
  | 4 => if sintN 64 a < sintN 64 b then b else a
  | 5 => a &&& b
  | 6 => a ||| b
  | 7 => a ^^^ b
  | _ => a

/-- The number of the hub among the nodes of a tree (log 10). -/
def hubNode : Nat := 4096

/-- The node a port of a node leads to: a router's ports 0 to 3 go north, east, south and west, its port 4 to the hub;
the hub's ports 0 to 3 go to the first router of each die; other ports leave the package (log 10). -/
def treePort (node port : Nat) : Option Nat :=
  if node = hubNode then (if port < 4 then some (port * 1024) else none)
  else if port < 4 then neighbour node port
  else if port = 4 then some hubNode
  else none

/-- A tree entry (R163). -/
def Collective.entry (c : Collective) (node group : Nat) : BitVec 32 :=
  match c.tree.find? (fun e => e.1.1 == node && e.1.2 == group) with
  | some e => e.2
  | none => 0

/-- The fields of a tree entry. -/
def treeValid (e : BitVec 32) : Bool := e.getLsbD 31
def treeOp (e : BitVec 32) : Nat := bitsOf e 30 27
def treeParent (e : BitVec 32) : Nat := bitsOf e 26 22
def treeChild (e : BitVec 32) (i : Nat) : Bool := decide (i < 22) && e.getLsbD i

/-- A member's contribution to the open wave of a group. -/
def Collective.contrib (c : Collective) (group node : Nat) : Option Word :=
  (c.contribs.find? (fun x => x.1 == group && x.2.1 == node)).map (·.2.2)

/-- Fold partial values that must all be there. -/
def foldAll (op : Nat) : Option Nat → List (Option Nat) → Option Nat
  | acc, [] => acc
  | _, none :: _ => none
  | none, some b :: t => foldAll op (some b) t
  | some a, some b :: t => foldAll op (some (collOp op a b)) t

/-- The partial value of a node's subtree: its own contribution, then its children in ascending CHILD bit order; none
while one is missing (R163). remote gives what has arrived at the hub's outer ports. -/
def Collective.combine (c : Collective) (group : Nat) (remote : List (Nat × Word)) : Nat → Nat → Option Nat
  | 0, _ => none
  | f + 1, node =>
    let e := c.entry node group
    if !treeValid e then none
    else
      let own := if treeChild e 0 && node != hubNode then some ((c.contrib group node).map (·.toNat)) else none
      let kids := ((List.range 21).filter (fun p => treeChild e (p + 1))).map (fun p =>
        match treePort node p with
        | some n => c.combine group remote f n
        | none => (assoc p remote).map (·.toNat))
      match own with
      | some none => none
      | some (some v) => foldAll (treeOp e) (some v) kids
      | none => foldAll (treeOp e) none kids

/-- The root of a group's tree in this package. -/
def Collective.root? (c : Collective) (group : Nat) : Option Nat :=
  (c.tree.find? (fun e => e.1.2 == group && treeValid e.2 && decide (treeParent e.2 = 31))).map (·.1.1)

/-- The value as a slot receives it: of an FP32 result bits 63:32 are zero (R163). -/
def waveWord (op v : Nat) : Word := BitVec.ofNat 64 (if op = 1 then v % 2 ^ 32 else v)

/-- The package that an outer port of the hub is cabled to; hub port 4 + n is Fihorn port n (log 10). -/
def State.treePkg (s : State) (p : Nat) : Option Nat := if 4 ≤ p then assoc (p - 4) s.cables else none

/-- What has arrived for a group at the hub's outer ports: (port, value). -/
def State.waveRemote (s : State) (group : Nat) : List (Nat × Word) :=
  ((List.range 16).map (· + 4)).filterMap (fun p => (s.treePkg p).bind (fun k =>
    (s.coll.waveIn.find? (fun x => x.1 == group && x.2.1 == k)).map (fun x => (p, x.2.2))))

/-- The packages that the hub's outer CHILD ports of a group lead to. -/
def State.waveKids (s : State) (group : Nat) : List Nat :=
  ((List.range 16).map (· + 4)).filterMap (fun p => if treeChild (s.coll.entry hubNode group) (p + 1) then s.treePkg p else none)

/-! ## Waves (R164, R280) -/

/-- A core's slot for a group; none when it is idle. -/
def Core.slot (c : Core) (group : Nat) : Option WaveState := assoc group c.waves

/-- A slot becomes idle. -/
def Core.clearSlot (c : Core) (group : Nat) : Core := { c with waves := delAssoc group c.waves }

/-- A posted slot changes. -/
def Core.mapPosted (c : Core) (group : Nat) (w : WaveState) : Core :=
  { c with waves := c.waves.map (fun x => match x.2 with
      | .posted _ => if x.1 = group then (group, w) else x
      | _ => x) }

/-- Every slot of a group, on cores and in saved images, changes where it is posted. -/
def State.mapSlots (s : State) (group : Nat) (w : WaveState) : State :=
  { s with
    me := s.me.mapPosted group w
    others := s.others.map (fun (x : Nat × Core) => (x.1, x.2.mapPosted group w))
    contexts := s.contexts.map (fun (x : Context) => { x with images := x.images.map (fun i => { i with core := i.core.mapPosted group w }) }) }

/-- The entries of a group belong to a live plan. -/
def Collective.planned (c : Collective) (group : Nat) : Bool := c.plans.any (fun p => p.live && p.common.group == group)

/-- CPUT (R164): value, then group. A slot that a node failure has made idle takes a new posting, and the cause 20 that its
next CGET would have taken goes with it: R164 does not say whether that CPUT clears it. DESIGN CHOICE (log 25). -/
def cputBody (ra rb : BitVec 5) : M Unit := do
  let x ← readReg ra
  let g ← readReg rb
  let s ← look
  let n := g.toNat
  let e := s.coll.entry s.me.id n
  let idle := match s.me.slot n with
    | none => true
    | some .failed => true
    | _ => false
  if n < 4096 && idle && treeValid e && treeChild e 0 && !s.coll.planned n then
    change (fun s => { s with
      me := { s.me with waves := setAssoc n (.posted x) s.me.waves }
      coll := { s.coll with contribs := s.coll.contribs.filter (fun c => !(c.1 == n && c.2.1 == s.me.id)) ++ [(n, s.me.id, x)] } })
  else trap 3 g

/-- CGET (R164): true when the slot had failed and cause 20 follows. -/
def cgetBody (rd rb : BitVec 5) : M (Option Nat) := do
  let g ← readReg rb
  let c ← meM
  match c.slot g.toNat with
  | some (.posted _) => stall (.cget g.toNat) rd
  | some (.ready v) => do
    changeMe (fun c => c.clearSlot g.toNat)
    acquireM 4
    writeReg rd v
    pure none
  | some .failed => pure (some g.toNat)
  | none => trap 3 g

/-- CGET completes, or takes cause 20 and the failure is told (R164). -/
def cgetFinish (s : State) (r : Option Nat) (s' : State) : State :=
  match r with
  | none => s'.retire
  | some g => (s.updMe (fun c => c.clearSlot g)).takeTrap 20 (BitVec.ofNat 64 (0x1000 + g))

/-- CTEST (R164): 0 idle, 1 posted, 2 ready. -/
def ctestBody (rd rb : BitVec 5) : M Unit := do
  let g ← readReg rb
  let c ← meM
  writeReg rd (match c.slot g.toNat with
    | some (.posted _) => 1
    | some (.ready _) => 2
    | _ => 0)

/-- CPUT (R280). -/
def execCput (ra rb : BitVec 5) (s : State) : Host.Outcome State Fault Refusal := runI (.cput ra rb) (cputBody ra rb) s

/-- CGET (R280). -/
def execCget (rd rb : BitVec 5) (s : State) : Host.Outcome State Fault Refusal :=
  run (.cget rd rb) (cgetBody rd rb) (cgetFinish s) s

/-- CTEST (R280). -/
def execCtest (rd rb : BitVec 5) (s : State) : Host.Outcome State Fault Refusal := runI (.ctest rd rb) (ctestBody rd rb) s

/-- The partition that holds a group (R381). -/
def State.groupPart (s : State) (group : Nat) : Option Nat := (s.parts.find? (fun p => p.groups.contains group)).map (·.id)

/-- Something handed to the link for a partition's traffic (R162, R381). -/
def State.send (s : State) (part : Option Nat) (m : OutMsg) : State := { s with outbox := s.outbox ++ [⟨part, m⟩] }

/-- Something a group's collectives hand to the link. -/
def State.sendFor (s : State) (group : Nat) (m : OutMsg) : State := s.send (s.groupPart group) m

/-- The open wave of a group is over in this package. -/
def Collective.waveOver (c : Collective) (group : Nat) : Collective :=
  { c with
    contribs := c.contribs.filter (fun x => x.1 != group)
    waveIn := c.waveIn.filter (fun x => x.1 != group)
    waveSent := c.waveSent.filter (· != group) }

/-- The result reaches every member's slot here, and goes on to the packages below (R164). -/
def State.waveResult (s : State) (group : Nat) (v : Word) : State :=
  let t := s.mapSlots group (.ready v)
  (s.waveKids group).foldl (fun (t : State) k => t.sendFor group (.wave k group v)) { t with coll := t.coll.waveOver group }

/-- What the open wave of a group does next here (R164): with the root here, the result once every member below it has
contributed; else the part of this package goes to the package of PARENT once it is whole, and then the result comes from
there, which is the one step of the wave that another package brings. -/
def State.waveStep (s : State) (group : Nat) (remote : Bool) : Option State :=
  let whole := fun (n : Nat) => (s.coll.combine group (s.waveRemote group) 4098 n).map (waveWord (treeOp (s.coll.entry n group)))
  match s.coll.root? group with
  | some r => if remote then none else (whole r).map (fun v => s.waveResult group v)
  | none =>
    match s.treePkg (treeParent (s.coll.entry hubNode group)) with
    | none => none
    | some up =>
      if s.coll.waveSent.contains group != remote then none
      else if remote then (s.coll.waveIn.find? (fun x => x.1 == group && x.2.1 == up)).map (fun x => s.waveResult group x.2.2)
      else (whole hubNode).map (fun v =>
        ({ s with coll := { s.coll with waveSent := group :: s.coll.waveSent } } : State).sendFor group (.wave up group v))

/-- WAVE_COMPLETE (R164). -/
def State.waveComplete (s : State) (group : Nat) (remote : Bool) : State := (s.waveStep group remote).getD s

/-- WAVE_COMPLETE (R164): by what stands here, or by a result from another package. -/
def execWaveComplete (group : Nat) (remote : Bool) (s : State) : Host.Outcome State Fault Refusal :=
  event (fun s => s.waveComplete group remote) s

/-- TREE_NODE_FAILURE (R164): every posted slot of the group is idle again and its next CGET takes cause 20. -/
def execTreeNodeFailure (group : Nat) (s : State) : Host.Outcome State Fault Refusal :=
  event (fun s =>
    let s := s.mapSlots group .failed
    { s with coll := s.coll.waveOver group }) s

/-! ## Plans: what a descriptor gives -/

/-- The bytes of an element (R165). -/
def elemBytes (op : Nat) : Nat := match op with | 1 => 4 | 8 => 1 | _ => 8

/-- The bytes SRC and DST hold (R165). -/
def srcBytes (c : PlanCommon) : Nat := c.count * elemBytes c.op * (if c.kind = 4 then c.nmem else 1)
def dstBytes (c : PlanCommon) : Nat := c.count * elemBytes c.op * (if c.kind = 3 then c.nmem else 1)

/-- The common part of a descriptor. -/
def planCommonOf (bs : List Byte) : PlanCommon :=
  let f := fun (o n : Nat) => leVal ((bs.drop o).take n)
  { kind := f 0 1, op := f 1 1, fanout := f 2 1, inst := f 3 1, gen := f 4 4, nmem := f 8 4, group := f 12 2,
    count := f 16 8, membersAddr := f 24 8 }

/-- The local part of a descriptor. -/
def planLocalOf (bs : List Byte) : PlanLocal :=
  let f := fun (o n : Nat) => leVal ((bs.drop o).take n)
  { src := f 32 8, dst := f 40 8, crec := f 48 8, cring := f 56 1, barch := if 128 ≤ f 57 1 then some (f 57 1 % 32) else none }

/-- A power of two from 1 to 128. -/
def ringLen (n : Nat) : Bool := n == 1 || n == 2 || n == 4 || n == 8 || n == 16 || n == 32 || n == 64 || n == 128

/-- The limits of R165. -/
def planOk (bs : List Byte) : Bool :=
  let c := planCommonOf bs
  let l := planLocalOf bs
  let f := fun (o n : Nat) => leVal ((bs.drop o).take n)
  decide (c.kind ≤ 4) && (if c.kind = 2 ∨ c.kind = 3 then c.op == 8 else decide (c.op ≤ 7)) &&
  within c.fanout 2 16 && within c.inst 1 8 && within c.nmem 2 65536 && decide (c.group < 4096) && f 14 2 == 0 &&
  within c.count 1 (2 ^ 32) && decide (l.src < 2 ^ 47) && decide (l.dst < 2 ^ 47) && decide (l.crec < 2 ^ 47) &&
  decide (l.crec % 32 = 0) && ringLen l.cring && natBits (f 57 1) 6 5 == 0 && f 58 6 == 0

/-- The member list: (package, core) by rank; none when reserved bits are set (R165). -/
def memberListOf (bs : List Byte) (n : Nat) : Option (List (Nat × Nat)) :=
  let ws := (List.range n).map (fun i => leVal ((bs.drop (4 * i)).take 4))
  if ws.any (fun w => decide (2 ^ 26 ≤ w)) then none else some (ws.map (fun w => (natBits w 25 12, w % 4096)))

/-- No core is named twice. -/
def allDistinct : List (Nat × Nat) → Bool
  | [] => true
  | a :: t => !t.contains a && allDistinct t

/-! ## CPLAN (R166) -/

/-- The entry is a CPLAN of a group that waits for its plan, issued on a core; with its local part (R166). -/
def Entry.awaits (e : Entry) (core group : Nat) : Option PlanLocal :=
  match e.job with
  | .plan l c g => if e.state = .active ∧ c = core ∧ g = group then some l else none
  | _ => none

/-- The local part of a core's head CPLAN of a group, issued on a core and waiting for its plan. -/
def Core.cplanLoc (c : Core) (core group : Nat) : Option PlanLocal := (c.headEntry 66).bind (fun e => e.awaits core group)

/-- The CPLAN of a group that was issued on a core and waits for its plan ends, wherever its unit is by now: on that core,
on another, or in an image (R116, R166). -/
def State.endCplan (s : State) (core group status count : Nat) : State :=
  s.mapUnits (fun c => if (c.cplanLoc core group).isSome then c.updHead 66 (fun e => e.finish status count) else c)

/-- The core record that waits with a CPLAN of a group issued on a core, with the local part. -/
def State.cplanOf (s : State) (core group : Nat) : Option (Core × PlanLocal) :=
  (s.allCores ++ s.contexts.flatMap (fun x => x.images.map (·.core))).findSome? (fun c => (c.cplanLoc core group).map (fun l => (c, l)))

/-- The lowest plan handle that a context has free (R166). -/
def Collective.freeHandle (c : Collective) (ctx : Nat) : Option Nat :=
  let used := (c.plans.map (fun p => (p.members.filter (fun m => m.ctx == ctx)).map (·.handle))).flatten
  (List.range 4096).find? (fun h => !used.contains h)

/-- The domain of a package (R169). -/
def Collective.domainOf (c : Collective) (own pkg : Nat) : Nat := if pkg = own then c.domain else (assoc pkg c.domains).getD c.domain

/-- The hub that coordinates a group of members: the domain coordinator when they share a domain, else the root (R169). -/
def State.coordinator (s : State) (members : List (Nat × Nat)) : Nat :=
  if (members.map (fun m => s.coll.domainOf s.pkgId m.1)).all (· == s.coll.domain) then s.coll.domainHub else s.coll.rootHub

/-- The plan of a group of members is the root's, for its members do not all lie in this package's domain (R169). -/
def State.ofRoot (s : State) (members : List (Nat × Nat)) : Bool :=
  !(members.map (fun m => s.coll.domainOf s.pkgId m.1)).all (· == s.coll.domain)

/-- The coordinator of a group of members is this hub, in its role. -/
def State.coordinates (s : State) (members : List (Nat × Nat)) : Bool := if s.ofRoot members then s.coll.isRoot else s.coll.isDomain

/-- The record of a plan that this hub only coordinated, in a role that it has given away: it holds nothing here. -/
def State.leftOver (s : State) (p : Plan) : Bool := p.members.isEmpty && !s.coordinates p.memberList

/-! ### The entries of a plan's tree (R163, R166) -/

/-- A core's router and the routers on the way to the first router of its die, west first and then north; with the port
each takes (log 10). -/
def gatePath : Nat → Nat → List (Nat × Nat)
  | 0, n => [(n, 4)]
  | f + 1, n =>
    match (if meshX n = 0 then neighbour n 0 else neighbour n 3) with
    | some m => (n, if meshX n = 0 then 0 else 3) :: gatePath f m
    | none => [(n, 4)]

/-- A spanning-tree entry from its fields (R163). -/
def treeEntry (op parent child : Nat) : BitVec 32 := BitVec.ofNat 32 (2 ^ 31 + op % 16 * 2 ^ 27 + parent % 32 * 2 ^ 22 + child % 2 ^ 22)

/-- The hub's port toward a package: the first of the route list (R162; log 10). -/
def State.portToward (s : State) (pkg : Nat) : Nat := match (assoc pkg s.routes).getD [] with | p :: _ => 4 + p | [] => 31

/-- The entries of a plan in this package's nodes: the routers of its members and those on their ways to the hub, and the
hub, whose parent is the package of rank 0 (R163, R165, R166; log 10). -/
def State.planEntries (s : State) (k : PlanCommon) (list : List (Nat × Nat)) : List ((Nat × Nat) × BitVec 32) :=
  let mine := (list.filter (fun m => m.1 == s.pkgId)).map (·.2)
  let nodes := dedup (mine.flatMap (gatePath 62))
  let kids := fun (n : Nat) => sumNat (nodes.map (fun x => if x.2 = 4 then 0 else
    if neighbour x.1 x.2 = some n then 2 ^ ((x.2 + 2) % 4 + 1) else 0))
  let rootPkg := (list.map (·.1)).headD 0
  let others := if rootPkg = s.pkgId then dedup ((list.map (·.1)).filter (· != s.pkgId)) else []
  let hubKids := sumNat ((nodes.filter (fun x => x.2 == 4)).map (fun x => 2 ^ (dieOf x.1 + 1))) + sumNat ((dedup (others.map s.portToward)).map (fun p => 2 ^ (p + 1)))
  nodes.map (fun x => ((x.1, k.group), treeEntry k.op x.2 ((if mine.contains x.1 then 1 else 0) + kids x.1))) ++
    [((hubNode, k.group), treeEntry k.op (if rootPkg = s.pkgId then 31 else s.portToward rootPkg) hubKids)]

/-! ### Reservations and set-up (R166) -/

/-- The reservations of R166 are available in this package: the group is in no use, the posting hub's table has INST
entries left for every member here, and the coordinator's table for the plan, where this hub coordinates it. Instance
buffers never run out: a node for which the combiner has none is hosted at the member's copy engine (R172). -/
def State.canReserve (s : State) (k : PlanCommon) (list : List (Nat × Nat)) (localMembers : Nat) : Bool :=
  let c := s.coll
  let coord := c.plans.filter (fun p => s.coordinates p.memberList)
  !(c.plans.any (fun p => p.common.group == k.group && !s.leftOver p)) && !(c.tree.any (fun e => e.1.2 == k.group && treeValid e.2)) &&
  decide (sumNat (c.plans.map (fun p => p.common.inst * p.members.length)) + k.inst * localMembers ≤ 256) &&
  (!s.coordinates list || decide (sumNat (coord.map (fun p => p.common.inst)) + k.inst ≤ 4096))

/-- The members of a plan that wait in this package, with what each CPLAN gave. -/
def State.planMembers (s : State) (k : PlanCommon) (list : List (Nat × Nat)) : List PlanMember :=
  ((List.range list.length).zip list).filterMap (fun (x : Nat × Nat × Nat) =>
    if x.2.1 = s.pkgId then (s.cplanOf x.2.2 k.group).map (fun w => ({
      rank := x.1
      core := w.1.id
      ctx := w.1.ctx
      owner := w.1.unit.map (fun u => (u.launch, u.unit))
      handle := (s.coll.freeHandle w.1.ctx).getD 0
      loc := w.2
      triggered := 0
      outstanding := []
      buffers := k.inst
      freed := false } : PlanMember))
    else none)

/-- Reserve a round's plan in this package: it stands with its members and its tree entries, each in place of what its node
held for the group, and is not live yet; none when a reservation or a handle is not available. -/
def State.reservePlan (s : State) (round : Nat × Nat) (k : PlanCommon) (list : List (Nat × Nat)) : Option State :=
  let mems := s.planMembers k list
  if s.canReserve k list mems.length && mems.all (fun m => (s.coll.freeHandle m.ctx).isSome) then
    some { s with coll := { s.coll with
      tree := s.coll.tree.filter (fun e => e.1.2 != k.group) ++ s.planEntries k list
      plans := s.coll.plans.filter (fun p => p.common.group != k.group) ++ [{ common := k, memberList := list, round := round, live := false, members := mems, freedRanks := [] }] } }
  else none

/-- A plan is no more: its record and its tree entries go. -/
def Collective.removePlan (c : Collective) (group : Nat) : Collective :=
  { c with
    plans := c.plans.filter (fun p => p.common.group != group)
    tree := c.tree.filter (fun e => e.1.2 != group)
    coordTable := c.coordTable.filter (fun e => e.1 != group)
    localPostings := c.localPostings.filter (fun l => l.posting.group != group)
    stream := c.stream.filter (fun t => t.group != group)
    started := c.started.filter (fun x => x.group != group)
    arrived := c.arrived.filter (fun x => x.1 != group) }

/-- The core on which a member's CPLAN was issued: the one that its entry in the member list names (R166). -/
def Plan.issuedOn (p : Plan) (m : PlanMember) : Nat := match p.memberList[m.rank]? with | some x => x.2 | none => m.core

/-- The verdict of a round of a group in this package: the plan goes live with its members' handles, or every member's CPLAN
ends with the status and nothing stays reserved (R166). -/
def State.planVerdict (s : State) (round : Nat × Nat) (group : Nat) (list : List (Nat × Nat)) (status : Nat) : State :=
  match s.coll.plans.find? (fun p => p.round == round && !p.live) with
  | some p =>
    let g := p.common.group
    if status = 0 then
      let t : State := { s with coll := { s.coll with plans := s.coll.plans.map (fun (q : Plan) => if q.round == round then { q with live := true } else q) } }
      p.members.foldl (fun (t : State) m => t.endCplan (p.issuedOn m) g 0 m.handle) t
    else p.members.foldl (fun (t : State) m => t.endCplan (p.issuedOn m) g status 0) { s with coll := s.coll.removePlan g }
  | none => (list.filter (fun m => m.1 == s.pkgId)).foldl (fun (t : State) m => t.endCplan m.2 group status 0) s

/-- What a coordinator holds of a plan. -/
def Plan.role (p : Plan) : RolePlan where
  common := p.common
  memberList := p.memberList
  round := p.round
  live := p.live
  freedRanks := p.freedRanks

/-- The coordinator has every answer: its verdict goes to every package of the plan (R166); a hub that has taken the role
over meanwhile is told of the plan (R169). -/
def State.decidePlan (s : State) (r : Reserving) : State :=
  let status := if r.ok then 0 else 16
  let t : State := { s with coll := { s.coll with reserving := s.coll.reserving.filter (fun x => x.id != r.id) } }
  let t := (dedup ((r.members.map (·.1)).filter (· != s.pkgId))).foldl
    (fun (t : State) k => t.sendFor r.common.group (.planVerdict k r.id status))
    (t.planVerdict (s.pkgId, r.id) r.common.group r.members status)
  if r.ok && !s.coordinates r.members then
    t.sendFor r.common.group (.roleState (s.coordinator r.members) (s.ofRoot r.members) 0
      ((t.coll.plans.filter (fun p => p.round == (s.pkgId, r.id))).map Plan.role) [] [])
  else t

/-- An answer reaches the coordinator (R166). -/
def State.planReserved (s : State) (pkg id : Nat) (ok : Bool) : State :=
  match s.coll.reserving.find? (fun r => r.id == id) with
  | none => s
  | some r =>
    let r : Reserving := { r with waiting := r.waiting.filter (· != pkg), ok := r.ok && ok }
    if r.waiting.isEmpty then s.decidePlan r
    else { s with coll := { s.coll with reserving := s.coll.reserving.map (fun x => if x.id == id then r else x) } }

/-- The number of a new round: no round of a plan or of a reservation bears it. -/
def State.newRound (s : State) : Nat :=
  (s.coll.reserving.map (·.id) ++ s.coll.plans.map (·.round.2)).foldl (fun m n => max m (n + 1)) s.stamp

/-- All NMEM CPLANs have arrived and agree: the reservations are made here and asked of every other package (R166). -/
def State.setUpPlan (s : State) (k : PlanCommon) (list : List (Nat × Nat)) : State :=
  let id := s.newRound
  let pkgs := dedup (s.pkgId :: list.map (·.1))
  let s : State := { s with stamp := id + 1, coll := { s.coll with
    reserving := s.coll.reserving ++ [{ id := id, common := k, members := list, waiting := pkgs, ok := true }] } }
  let s := (pkgs.filter (· != s.pkgId)).foldl (fun (s : State) p => s.sendFor k.group (.planReserve p id k list)) s
  match s.reservePlan (s.pkgId, id) k list with
  | some t => t.planReserved s.pkgId id true
  | none => s.planReserved s.pkgId id false

/-- One CPLAN of a round ends, in this package or another. -/
def State.endArrival (s : State) (a : PlanArrival) (status : Nat) : State :=
  if a.pkg = s.pkgId then s.endCplan a.core a.common.group status 0
  else s.sendFor a.common.group (.planEnd a.pkg a.core a.common.group status)

/-- CPLAN_ARRIVAL (R166): the coordinator counts an arriving CPLAN into the round of its GROUP. -/
def State.planArrive (s : State) (a : PlanArrival) : State :=
  let round := match s.coll.rounds.find? (fun r => r.group == a.common.group) with
    | some r => r
    | none => { group := a.common.group, first := a, counted := 0, arrived := [], differed := false }
  let same := decide (a.common = round.first.common) && decide (a.members = round.first.members)
  let counted := round.counted + 1
  let close := decide (round.first.common.nmem ≤ counted)
  let put := fun (s : State) (r : PlanRound) => { s with coll := { s.coll with
    rounds := s.coll.rounds.filter (fun x => x.group != r.group) ++ (if close then [] else [r]) } }
  if round.differed || !same then
    let s := put s { round with counted := counted, arrived := [], differed := true }
    (round.arrived ++ [a]).foldl (fun (s : State) x => s.endArrival x 17) s
  else
    let s := put s { round with counted := counted, arrived := round.arrived ++ [a] }
    if close then s.setUpPlan a.common a.members else s

/-- CPLAN with its descriptor and its member list read (R165, R166): limits are status 18; else it goes to the group's
coordinator, and waits. -/
def State.cplanRead (s : State) (bs ms : List Byte) : State :=
  let c := s.me
  let k := planCommonOf bs
  let l := planLocalOf bs
  match memberListOf ms k.nmem with
  | none => s.finishHead 66 18 0
  | some list =>
    let ok := allDistinct list && list.contains (s.pkgId, c.id) && (match l.barch with | some ch => c.holds ch | none => true)
    if !ok then s.finishHead 66 18 0
    else
      let a : PlanArrival := { common := k, members := list, pkg := s.pkgId, core := c.id }
      let s := s.updMe (fun c => c.updHead 66 (fun e => { e with job := .plan l c.id k.group, state := .active, since := 0, kick := false }))
      if s.coordinates list then s.planArrive a else s.sendFor k.group (.planArrival (s.coordinator list) a)

/-- CPLAN's member list, its descriptor being read. -/
def State.cplanList (s : State) (bs : List Byte) : State :=
  let k := planCommonOf bs
  if !planOk bs then s.finishHead 66 18 0
  else match s.engLoad s.me k.membersAddr (4 * k.nmem) with
    | .error r => s.engineMet 66 r k.membersAddr
    | .ok ms => (s.touch s.me k.membersAddr ms.length).cplanRead bs ms

/-- CPLAN at its hub (R165, R166): the descriptor and the member list are each read once (R338, R388). -/
def State.takeCplan (s : State) (cmd : CplanCmd) : State :=
  let job : Option Job := (s.me.headEntry 66).map (·.job)
  match job with
  | some (.plan ..) => s
  | some (.blocks (bs :: _)) => s.cplanList bs
  | _ =>
    match s.engLoad s.me cmd.desc.toNat 64 with
    | .error r => s.engineMet 66 r cmd.desc.toNat
    | .ok bs => ((s.touch s.me cmd.desc.toNat 64).updMe (fun c => c.updHead 66 (fun e => { e with job := .blocks [bs] }))).cplanList bs

/-! ## Members and triggers -/

/-- A plan's member is the unit (or the supervisor's core) that set it up. -/
def PlanMember.isMe (m : PlanMember) (c : Core) : Bool :=
  m.ctx == c.ctx && (match m.owner, c.unit with
    | some o, some u => o.1 == u.launch && o.2 == u.unit
    | none, none => m.core == c.id
    | _, _ => false)

/-- The member of a live plan that a handle names for a core: the core's own, or, from a core of the context that is no
member, the first that has not been freed (R61, R350; log 10). -/
def Plan.memberFor (p : Plan) (c : Core) (handle : Nat) : Option PlanMember :=
  let ms := p.members.filter (fun m => m.ctx == c.ctx && m.handle == handle)
  if !p.live then none
  else match ms.find? (fun m => m.isMe c) with
    | some m => if m.freed then none else some m
    | none => ms.find? (fun m => !m.freed)

/-- The plan and member a handle names for a core. -/
def State.memberOf (s : State) (c : Core) (handle : Nat) : Option (Plan × PlanMember) :=
  s.coll.plans.findSome? (fun p => (p.memberFor c handle).map (fun m => (p, m)))

/-- Change a member of a group's plan. -/
def Collective.updMember (c : Collective) (group rank : Nat) (f : PlanMember → PlanMember) : Collective :=
  { c with plans := c.plans.map (fun (p : Plan) => if p.common.group == group then
      { p with members := p.members.map (fun m => if m.rank == rank then f m else m) } else p) }

/-- The bounds of the pages that hold a range of addresses under a core's context (64 KiB each where not mapped). -/
def State.pagesOf (s : State) (c : Core) (va n : Nat) : Nat × Nat :=
  let size := fun (a : Nat) => match s.descriptor c.sup.ptroot.toNat a with
    | .ok (true, _) => 2 ^ 21
    | _ => 2 ^ 16
  let lo := size va
  let last := va + n - 1
  let hi := size last
  (va / lo * lo, last / hi * hi + hi)

/-- The argument keeps a buffer inside the pages that hold it (R167; log 11). -/
def State.argOk (s : State) (c : Core) (base n : Nat) (arg : Word) : Bool :=
  let va := (BitVec.ofNat 64 base + arg).toNat
  let p := s.pagesOf c base n
  decide (p.1 ≤ va) && decide (va + n ≤ p.2)

/-- A CFREE of the handle stands in the core's queues: it comes before a later trigger in program order (R174). -/
def Core.freeing (c : Core) (handle : Nat) : Bool :=
  c.entries.any (fun e => match e.cmd with | .cfree f => f.handle.toNat == handle | _ => false)

/-- A plan of a group that holds something here. -/
def State.planOf (s : State) (group : Nat) : Option Plan :=
  match s.coll.plans.find? (fun p => p.common.group == group && !s.leftOver p) with
  | some p => some p
  | none => s.coll.plans.find? (fun p => p.common.group == group)

/-- A posting enters the local hub's table, where it stays until its coordinator accepts it (R169). -/
def State.enterPosting (s : State) (x : Posting) : State :=
  { s with coll := { s.coll with localPostings := s.coll.localPostings ++ [{ posting := x, sent := false, refusedAt := none }] } }

/-- A trigger (R61, R167): every failing check is cause 3 and posts nothing. -/
def triggerM (handle : Nat) (va arg : Word) : M Unit := do
  let s ← look
  match s.memberOf s.me handle with
  | none => trap 3 va
  | some (p, m) =>
    let ok := !s.me.freeing handle && decide (arg.toNat % 8 = 0) && decide (m.outstanding.length < p.common.inst) &&
      s.argOk s.me m.loc.src (srcBytes p.common) arg && s.argOk s.me m.loc.dst (dstBytes p.common) arg
    if !ok then trap 3 va
    else do
      let k := m.triggered
      change (fun s => { s with coll := s.coll.updMember p.common.group m.rank (fun m =>
        { m with triggered := k + 1, outstanding := m.outstanding ++ [(k, arg)] }) })
      change (fun s => s.enterPosting { group := p.common.group, inst := k, rank := m.rank })

/-! ## The end of an instance at a member (R168) -/

/-- An event of a member's unit, wherever it is. -/
def State.memberEvent (s : State) (m : PlanMember) (cause : Nat) : State :=
  let tag := BitVec.ofNat 16 m.handle
  match m.owner with
  | some (k, u) =>
    let ev : EngineEvent := { stamp := s.stamp, remaining := 0, kind := 0, cause := cause, qid := 66, tag := tag }
    let t := s.atUnit k u (fun c => c.addEvent ev)
    { t with stamp := s.stamp + 1 }
  | none => s.raise m.core 0 cause 66 tag 0

/-- The event queue of a member's unit has room for n events (R113); the unit of a member that has ended takes none. -/
def State.memberRoom (s : State) (m : PlanMember) (n : Nat) : Bool :=
  match (match m.owner with | some (k, u) => s.findUnit k u | none => some (s.core m.core)) with
  | some c => n == 0 || (c.heldEvents.isEmpty && decide (c.events.length + n ≤ 16))
  | none => true

/-- The record of an instance at a member, and its events: cause 20 where it failed, and the cause that a lost record's
write has met. None of it while the record's page migrates (true), or while the event queue has no room for the events
(false), for then the report is delayed (R70, R113, R168). -/
def State.recordAtMember (s : State) (m : PlanMember) (inst : Nat) (grank : Word) (failed : Bool) : Except Bool State :=
  let bs := recordBytes (if failed then 3 else 0) 66 (if failed then 20 else 0) (BitVec.ofNat 16 m.handle) grank.toNat s.cycle 0
  let report := fun (s : State) (causes : List Nat) =>
    if s.memberRoom m causes.length then .ok (causes.foldl (fun (s : State) c => s.memberEvent m c) s) else .error false
  let failure := if failed then [20] else []
  match s.engStoreAs (s.hubAgent m.ctx m.core) (m.loc.crec + 32 * (inst % m.loc.cring)) bs with
  | .ok s => report s failure
  | .error (.fault c, s) => report s (c :: failure)
  | .error _ => .error true

/-- A started instance gives its buffer back at a member (R171). -/
def Collective.freeBuffer (c : Collective) (group inst rank : Nat) : Collective :=
  let mine : StartedInst → Bool := fun x => x.group == group && x.inst == inst && x.rank == rank
  { c.updMember group rank (fun m => { m with buffers := m.buffers + (c.started.filter mine).length }) with
    started := c.started.filter (fun x => !mine x) }

/-- The instance has ended at a member: it is not outstanding any more, and its buffer is free again (R167, R171). -/
def Collective.instOver (c : Collective) (group inst rank : Nat) : Collective :=
  (c.freeBuffer group inst rank).updMember group rank (fun m => { m with outstanding := m.outstanding.filter (fun o => o.1 != inst) })

/-- The end of an instance of a plan at a member (R168), or what holds its record or its report up. -/
def State.endAtMember (s : State) (p : Plan) (m : PlanMember) (inst : Nat) (grank : Word) (failed : Bool) : Except Bool State :=
  (s.recordAtMember m inst grank failed).map (fun s => { s with coll := s.coll.instOver p.common.group inst m.rank })

/-- The argument of an instance at a member. -/
def PlanMember.arg (m : PlanMember) (inst : Nat) : Word := (assoc inst m.outstanding).getD 0

/-- Where a member's contribution to an instance lies. -/
def PlanMember.srcAt (m : PlanMember) (inst : Nat) : Nat := (BitVec.ofNat 64 m.loc.src + m.arg inst).toNat

/-- A member's contribution, read under its context; none where the read meets a fault (R168). -/
def State.contribution (s : State) (p : Plan) (m : PlanMember) (inst : Nat) : Option (List Byte) :=
  match s.engLoad (s.hubAgent m.ctx m.core) (m.srcAt inst) (srcBytes p.common) with
  | .ok bs => some bs
  | .error _ => none

/-- Element i of size w of a buffer. -/
def bufElem (bs : List Byte) (w i : Nat) : Nat := leVal ((bs.drop (w * i)).take w)

/-- The partial of a rank's node over the logical tree: its own value, then its children's partials in order (R39, R165). -/
def rankPart (op fan n : Nat) (vals : List Nat) : Nat → Nat → Nat
  | 0, _ => 0
  | f + 1, q => ((List.range fan).map (fun i => fan * q + i + 1)).foldl (fun acc c =>
      if c < n then collOp op acc (rankPart op fan n vals f c) else acc) (nth 0 vals q)

/-- The reduction of buffers, element by element, at an element offset (R39). -/
def reduceAt (k : PlanCommon) (bufs : List (List Byte)) (first : Nat) : List Byte :=
  let w := elemBytes k.op
  ((List.range k.count).map (fun i =>
    leBytes w (rankPart k.op k.fanout bufs.length (bufs.map (fun b => bufElem b w (first + i))) (bufs.length + 1) 0))).flatten

/-- The result bytes of an instance at a rank, from the contributions by rank (R165, R168); none where it has none. -/
def planResult (k : PlanCommon) (bufs : List (List Byte)) (rank : Nat) : Option (List Byte) :=
  match k.kind with
  | 0 => some (reduceAt k bufs 0)
  | 1 => if rank = 0 then some (reduceAt k bufs 0) else none
  | 2 => some (nth [] bufs 0)
  | 3 => some bufs.flatten
  | _ => some (reduceAt k bufs (rank * k.count))

/-- An instance ends at one member with its result, or failed; or what holds it up. Where a write of DST meets a fault after
some of its bytes, R168 does not say whether those count on BARCH's channel: the model counts none of them. DESIGN CHOICE
(log 25). -/
def State.deliverTo (s : State) (p : Plan) (m : PlanMember) (inst : Nat) (grank : Word) (result : Option (Option (List Byte))) : Except Bool State :=
  match result with
  | none => s.endAtMember p m inst grank true
  | some none => s.endAtMember p m inst grank false
  | some (some bs) =>
    match s.engStoreAs (s.hubAgent m.ctx m.core) (BitVec.ofNat 64 m.loc.dst + m.arg inst).toNat bs with
    | .ok s =>
      let s := match m.loc.barch, m.owner with
        | some ch, some o => (match s.channel? ch with
          | some x => if x.holder = o.1 then s.landBytes ch bs.length else s
          | none => s)
        | _, _ => s
      s.endAtMember p m inst grank false
    | .error (.migrating, _) => .error true
    | .error (_, s) => s.endAtMember p m inst grank true

/-- The contributions of an instance by rank, each read once when the instance started at its member, here or in another
package (R168). None while one is missing; failed where a read met a fault, at whichever member. -/
def State.contributions (s : State) (p : Plan) (inst : Nat) : Option (Option (List (List Byte))) :=
  let one := fun (r : Nat) =>
    if p.common.kind = 2 ∧ r ≠ 0 then some (some [])
    else (s.coll.arrived.find? (fun x => x.1 == p.common.group && x.2.1 == inst && x.2.2.1 == r)).map (·.2.2.2)
  let all := (List.range p.memberList.length).map one
  if all.any (fun x => x == some none) then some none
  else if all.any (·.isNone) then none
  else some (some ((all.filterMap id).filterMap id))

/-- The members here at which an instance has started and not ended. -/
def Collective.startedAt (c : Collective) (group inst : Nat) : List StartedInst := c.started.filter (fun x => x.group == group && x.inst == inst)

/-- The end of an instance at every member here where it has started, each with its result or failed; none while data is
missing, a page they write migrates, or a report finds an event queue full. -/
def State.endStarted (s : State) (group inst : Nat) : Option State :=
  match s.planOf group with
  | none => none
  | some p =>
    match s.contributions p inst with
    | none => none
    | some bufs =>
      (s.coll.startedAt group inst).foldl (fun (acc : Option State) x => acc.bind (fun s =>
        match p.members.find? (fun m => m.rank == x.rank) with
        | none => some s
        | some m => (s.deliverTo p m inst x.grank (bufs.map (fun b => planResult p.common b x.rank))).toOption)) (some s)

/-- A contribution of an instance could not be read, here or elsewhere, so that it fails at every member (R168). -/
def State.endsFailed (s : State) (group inst : Nat) : Bool :=
  match s.planOf group with
  | some p => s.contributions p inst == some none
  | none => false

/-- INSTANCE_END (R168, R171): the data of every member has arrived; each member here gets its result and its record. -/
def State.instanceEnd (s : State) (group inst : Nat) : State :=
  match s.endStarted group inst with
  | some t => { t with coll := { t.coll with arrived := t.coll.arrived.filter (fun x => !(x.1 == group && x.2.1 == inst)) } }
  | none => s

/-- A failed instance of a plan whose end at a member waits. -/
def Collective.endWaits (c : Collective) (p : Plan) (rank inst : Nat) : Bool :=
  c.ends.any (fun e => e.group == p.common.group && e.round == p.round && e.member.rank == rank && e.inst == inst)

/-- A posted or started instance of a member ends with cause 20 (R168, R173, R175, R177): at once, or when the record's page
or the event queue lets it; until its record is written it stays outstanding, and its buffer is free (R70, R113, R167). -/
def State.failInstance (s : State) (p : Plan) (m : PlanMember) (inst : Nat) (grank : Word) : State :=
  if s.coll.endWaits p m.rank inst then s
  else match s.endAtMember p m inst grank true with
    | .ok t => t
    | .error mig =>
      let c := s.coll.freeBuffer p.common.group inst m.rank
      { s with coll := { c with ends := c.ends ++ [{
        group := p.common.group, round := p.round, member := m, inst := inst, grank := grank
        due := if mig then s.cycle + 4096 else s.cycle, mig := mig }] } }

/-- The last ticketed instance of a plan that is not live any more has ended: the plan is no more. -/
def State.reapPlans (s : State) : State :=
  let dead : Plan → Bool := fun p => !p.live && p.members.all (fun m => m.outstanding.isEmpty) &&
    p.members.any (fun m => decide (0 < m.triggered))
  (s.coll.plans.filter dead).foldl (fun (s : State) p => { s with coll := s.coll.removePlan p.common.group }) s

/-- An end that waits can be tried now: its time has come, and its report does not find the event queue full (R70, R113). -/
def State.endReady (s : State) (e : EndWait) : Bool :=
  decide (e.due ≤ s.cycle) && (match s.recordAtMember e.member e.inst e.grank true with | .error false => false | _ => true)

/-- An end that waits is tried. -/
def State.retryEnd (s : State) (e : EndWait) : State :=
  match s.recordAtMember e.member e.inst e.grank true with
  | .ok t =>
    if (t.planOf e.group).any (fun p => p.round == e.round) then { t with coll := t.coll.instOver e.group e.inst e.member.rank } else t
  | .error mig =>
    { s with coll := { s.coll with ends := s.coll.ends ++ [{ e with due := if mig then e.due + 4096 else e.due, mig := mig }] } }

/-- The ends that wait and can be tried are tried. -/
def State.retryEnds (s : State) : State :=
  (s.coll.ends.foldl (fun (t : State) e =>
    if t.endReady e then t.retryEnd e else { t with coll := { t.coll with ends := t.coll.ends ++ [e] } })
    { s with coll := { s.coll with ends := [] } }).reapPlans

/-! ## Tickets (R170) -/

/-- The domain coordinator appends a ticket to its stream: it goes to the packages of the domain whose members it names,
this one or others (R170). -/
def State.appendTicket (s : State) (t : Ticket) : State :=
  (t.pkgs.filter (fun k => s.coll.domainOf s.pkgId k == s.coll.domain)).foldl (fun (s : State) k =>
    if k = s.pkgId then { s with coll := { s.coll with stream := s.coll.stream ++ [t] } }
    else s.sendFor t.group (.ticket k t)) s

/-- The coordinator of a domain: the hub named for it, or else the lowest of the packages given that lie in it (R169). -/
def State.domainCoord (s : State) (d : Nat) (pkgs : List Nat) : Nat :=
  if d = s.coll.domain then s.coll.domainHub
  else match assoc d s.coll.domainHubs with
    | some h => h
    | none => ((pkgs.filter (fun k => s.coll.domainOf s.pkgId k == d)).foldl (fun (a : Option Nat) k => some (min (a.getD k) k)) none).getD s.coll.rootHub

/-- An instance whose postings are all present gets its ticket (R169, R170): a domain coordinator's joins its own stream,
a root ticket goes to the coordinator of every member's domain. -/
def State.issueTicket (s : State) (p : Plan) (inst : Nat) : State :=
  let pkgs := dedup (p.memberList.map (·.1))
  let ds := dedup (pkgs.map (s.coll.domainOf s.pkgId))
  if ds.all (· == s.coll.domain) then
    let n := s.coll.domainCount + 1
    let s : State := { s with coll := { s.coll with domainCount := n } }
    s.appendTicket { group := p.common.group, inst := inst, grank := BitVec.ofNat 64 n, pkgs := pkgs }
  else
    let n := s.coll.rootCount + 1
    let s : State := { s with coll := { s.coll with rootCount := n } }
    let t : Ticket := { group := p.common.group, inst := inst, grank := 0x8000000000000000 ||| BitVec.ofNat 64 n, pkgs := pkgs }
    ds.foldl (fun (s : State) d =>
      let hub := s.domainCoord d pkgs
      if hub = s.pkgId then s.appendTicket t else s.sendFor t.group (.rootTicket hub t)) s

/-- The coordinator hub of a posting's plan. -/
def State.postingHub (s : State) (x : Posting) : Nat :=
  match s.planOf x.group with
  | some p => s.coordinator p.memberList
  | none => s.pkgId

/-- A posting of this hub is the first it holds for its coordinator (R169). -/
def State.firstPosting (s : State) (x : Posting) : Bool :=
  match s.coll.localPostings.find? (fun l => s.postingHub l.posting == s.postingHub x) with
  | some l => l.posting == x
  | none => true

/-- Change a posting of the local table. -/
def State.updPosting (s : State) (x : Posting) (f : LocalPosting → LocalPosting) : State :=
  { s with coll := { s.coll with localPostings := replaceFirst (fun l => l.posting == x) f s.coll.localPostings } }

/-- A posting leaves the local table: its coordinator has accepted it, or has no such plan (R169, R177). -/
def State.dropPosting (s : State) (x : Posting) : State :=
  { s with coll := { s.coll with localPostings := removeFirst (fun l => l.posting == x) s.coll.localPostings } }

/-- The global rank of an instance that fails at a member: its ticket's, where it has started; else 0. -/
def State.rankOfEnd (s : State) (group inst rank : Nat) : Word :=
  match (s.coll.startedAt group inst).find? (fun x => x.rank == rank) with | some x => x.grank | none => 0

/-- An instance ends with cause 20 at every member here at which it is outstanding (R173, R177). What bytes 8 to 15 of its
record hold where it has no ticket yet, and what bytes 24 to 31 and REM of its event hold of a failed instance, R168 does
not say: the model writes 0. DESIGN CHOICE (log 25). -/
def State.failInst (s : State) (group inst : Nat) : State :=
  match s.planOf group with
  | none => s
  | some p => p.members.foldl (fun (s : State) m =>
      if m.outstanding.any (fun o => o.1 == inst) then s.failInstance p m inst (s.rankOfEnd group inst m.rank) else s) s

/-- An instance ends with cause 20 at every member, here and in the other packages. -/
def State.failEverywhere (s : State) (p : Plan) (inst : Nat) : State :=
  let s : State := { s with coll := { s.coll with
    coordTable := s.coll.coordTable.filter (fun e => !(e.1 == p.common.group && e.2.1 == inst))
    localPostings := s.coll.localPostings.filter (fun l => !(l.posting.group == p.common.group && l.posting.inst == inst)) } }
  (dedup ((p.memberList.map (·.1)).filter (· != s.pkgId))).foldl
    (fun (s : State) k => s.sendFor p.common.group (.instFail k p.common.group inst)) (s.failInst p.common.group inst)

/-- The coordinator's reply reaches the hub of the posting: accepted, to be retried, or no such plan, with which the
instance ends (R169, R177). -/
def State.postingReply (s : State) (x : Posting) (code : Nat) : State :=
  match code with
  | 0 => s.dropPosting x
  | 1 => s.updPosting x (fun l => { l with sent := false, refusedAt := some s.cycle })
  | _ => (s.dropPosting x).failInst x.group x.inst

/-- The reply goes to the package that posted. -/
def State.answerPosting (s : State) (pkg : Nat) (x : Posting) (code : Nat) : State :=
  if pkg = s.pkgId then s.postingReply x code else s.sendFor x.group (.postingAnswer pkg x code)

/-- The coordinator accepts a posting: it takes a reserved entry of the table, and the last of an instance's brings the
ticket (R169, R376). -/
def State.acceptPosting (s : State) (p : Plan) (x : Posting) : State :=
  let have' := match s.coll.coordTable.find? (fun e => e.1 == x.group && e.2.1 == x.inst) with | some e => e.2.2 | none => []
  let ranks := if have'.contains x.rank then have' else have' ++ [x.rank]
  let rest := s.coll.coordTable.filter (fun e => !(e.1 == x.group && e.2.1 == x.inst))
  let full := decide (p.common.nmem ≤ ranks.length)
  let s : State := { s with coll := { s.coll with coordTable := rest ++ (if full then [] else [(x.group, x.inst, ranks)]) } }
  if full then s.issueTicket p x.inst else s

/-- The posting had been refused, and its plan has been freed at the member since (R177). -/
def State.refusedAndFreed (s : State) (p : Plan) (x : Posting) : Bool :=
  s.coll.localPostings.any (fun l => l.posting == x && l.refusedAt.isSome) && p.members.any (fun m => m.rank == x.rank && m.freed)

/-- POSTING_ARRIVAL (R169): refused where this hub does not hold the role; where the plan is not live any more the instance
ends with cause 20 (R173, R177); a posting of this hub that stands behind another for the coordinator waits for it (R375); else accepted. -/
def State.postingArrive (s : State) (x : Posting) : State :=
  match s.coll.plans.find? (fun p => p.common.group == x.group && p.live) with
  | none => s.postingReply x 2
  | some p =>
    let pkg := match p.memberList[x.rank]? with | some m => m.1 | none => s.pkgId
    if pkg = s.pkgId ∧ s.firstPosting x = false then s
    else if s.refusedAndFreed p x then (s.dropPosting x).failEverywhere p x.inst
    else if !s.coordinates p.memberList then s.answerPosting pkg x 1
    else (s.answerPosting pkg x 0).acceptPosting p x

/-- The next posting the local hub sends: the first of each coordinator's, unless it is on its way or refused (R169). -/
def State.nextPosting (s : State) : Option Posting :=
  (s.coll.localPostings.find? (fun l => s.firstPosting l.posting && !l.sent && l.refusedAt.isNone)).map (·.posting)

/-- A posting travels to its coordinator: to this hub, or in class 3 to another (R169). -/
def State.sendPosting (s : State) (x : Posting) : State :=
  let hub := s.postingHub x
  if hub = s.pkgId then s.postingArrive x
  else (s.updPosting x (fun l => { l with sent := true, refusedAt := none })).sendFor x.group (.posting hub x)

/-- POSTING_RESEND (R169): the refused posting goes again to its coordinator, unless its plan has been freed (R177). -/
def State.postingResend (s : State) (hub : Nat) : State :=
  match s.coll.localPostings.find? (fun l => s.postingHub l.posting == hub) with
  | some l =>
    if l.refusedAt.isNone then s
    else match s.planOf l.posting.group with
      | some p => if s.refusedAndFreed p l.posting then (s.dropPosting l.posting).failEverywhere p l.posting.inst else s.sendPosting l.posting
      | none => s.dropPosting l.posting
  | none => s

/-- What the members here contribute to an instance is read, once each, as it starts: it stands here for the instance, and
leaves for every other package of the plan, in class 2. A read that meets a fault says so, and fails the instance at every
member (R168, R171). -/
def State.contribute (s : State) (p : Plan) (inst : Nat) (ms : List PlanMember) : State :=
  let others := dedup ((p.memberList.map (·.1)).filter (· != s.pkgId))
  let g := p.common.group
  ms.foldl (fun (s : State) m =>
    if p.common.kind = 2 ∧ m.rank ≠ 0 then s
    else
      let bs := s.contribution p m inst
      let t := s.touch (s.hubAgent m.ctx m.core) (m.srcAt inst) (bs.getD []).length
      others.foldl (fun (t : State) k => t.sendFor g (.contribution k g inst m.rank bs))
        { t with coll := { t.coll with arrived := t.coll.arrived ++ [(g, inst, m.rank, bs)] } }) s

/-- The next ticket of this package's stream starts its instance at every member here that it names, in ascending rank; the
instance claims one of the buffers reserved for it (R170, R171, R377). -/
def State.startTicket (s : State) (t : Ticket) : State :=
  let s : State := { s with coll := { s.coll with stream := s.coll.stream.drop 1 } }
  match s.planOf t.group with
  | none => s
  | some p =>
    let ms := p.members.filter (fun m => m.outstanding.any (fun o => o.1 == t.inst) && !s.coll.endWaits p m.rank t.inst)
    let s : State := { s with coll := { s.coll with started := s.coll.started ++ ms.map (fun m => ⟨t.group, t.inst, m.rank, t.grank⟩) } }
    let s : State := ms.foldl (fun (s : State) m => { s with coll := s.coll.updMember t.group m.rank (fun m => { m with buffers := m.buffers - 1 }) }) s
    s.contribute p t.inst ms

/-- TICKET_ARRIVAL (R170): a ticket starts its instance when it is the first of the stream, so that every member starts
instances in the stream's order. -/
def State.ticketArrive (s : State) (t : Ticket) : State := if s.coll.stream.head? = some t then s.startTicket t else s

/-! ## CFREE, failures, roles -/

/-- CFREE has completed at a rank (R174): the coordinator counts it, and with the last the plan's reservations are
released in every package. -/
def State.rankFreed (s : State) (group rank : Nat) : State :=
  match s.planOf group with
  | none => s
  | some p =>
    let ranks := if p.freedRanks.contains rank then p.freedRanks else rank :: p.freedRanks
    let s : State := { s with coll := { s.coll with plans := s.coll.plans.map (fun (q : Plan) => if q.common.group == group then { q with freedRanks := ranks } else q) } }
    if p.common.nmem ≤ ranks.length then
      (dedup ((p.memberList.map (·.1)).filter (· != s.pkgId))).foldl (fun (s : State) k => s.sendFor group (.planDrop k group))
        { s with coll := s.coll.removePlan group }
    else s

/-- A member's CFREE has completed: its coordinator is told (R174). -/
def State.memberFreed (s : State) (p : Plan) (m : PlanMember) : State :=
  if s.coordinates p.memberList then s.rankFreed p.common.group m.rank
  else s.sendFor p.common.group (.planFreed (s.coordinator p.memberList) p.common.group m.rank)

/-- CFREE at its head (R174, R350): a handle that is not live in the context ends it with status 2; else the handle is
not live at the member from now on. -/
def State.takeCfree (s : State) (cmd : CfreeCmd) : State :=
  match s.memberOf s.me cmd.handle.toNat with
  | none => s.finishHead 66 2 0
  | some (p, m) =>
    let t : State := { s with coll := s.coll.updMember p.common.group m.rank (fun m => { m with freed := true }) }
    t.updMe (fun c => c.updHead 66 (fun e => { e with job := .freeing p.round m.rank }))

/-- The member that a CFREE at the head frees, while its plan stands. -/
def State.freeingOf (s : State) (round : Nat × Nat) (rank : Nat) : Option (Plan × PlanMember) :=
  s.coll.plans.findSome? (fun p => if p.round == round then (p.members.find? (fun m => m.rank == rank)).map (fun m => (p, m)) else none)

/-- A CFREE that waits is over: no instance of the plan is outstanding at the member, also where the plan is no more and
the record of a failed instance of it is still to be written (R167, R174). -/
def State.cfreeOver (s : State) (e : Entry) : Bool :=
  match e.job with
  | .freeing round rank => (match s.freeingOf round rank with
    | some (_, m) => m.outstanding.isEmpty
    | none => !s.coll.ends.any (fun x => x.round == round && x.member.rank == rank))
  | _ => false

/-- A CFREE that waits ends when the member has no instance outstanding (R174). -/
def State.endCfree (s : State) (h : CmdHead) (cmd : CfreeCmd) : State :=
  match s.me.headEntry 66 with
  | some e =>
    if e.state = .active ∧ e.head = h ∧ e.cmd = .cfree cmd ∧ s.cfreeOver e = true then
      let t := s.finishHead 66 0 0
      match e.job with
      | .freeing round rank => (match s.freeingOf round rank with
        | some (p, m) => t.memberFreed p m
        | none => t)
      | _ => t
    else s
  | none => s

/-- Every instance of a plan that is outstanding here ends with cause 20, or those without a ticket only; the plan is no
more, and what has its ticket runs on (R173, R177). -/
def State.killPlan (s : State) (p : Plan) (unticketed : Bool) : State :=
  let g := p.common.group
  let ticketed := fun (inst rank : Nat) => s.coll.stream.any (fun t => t.group == g && t.inst == inst) ||
    (s.coll.startedAt g inst).any (fun x => x.rank == rank)
  let runsOn := unticketed && p.members.any (fun m => m.outstanding.any (fun o => ticketed o.1 m.rank))
  let t := p.members.foldl (fun (t : State) m => m.outstanding.foldl (fun (t : State) o =>
    if unticketed && ticketed o.1 m.rank then t else t.failInstance p m o.1 (s.rankOfEnd g o.1 m.rank)) t) s
  if runsOn then { t with coll := { t.coll with
      plans := t.coll.plans.map (fun (q : Plan) => if q.common.group == g then { q with live := false } else q)
      coordTable := t.coll.coordTable.filter (fun e => e.1 != g)
      localPostings := t.coll.localPostings.filter (fun l => l.posting.group != g) } }
  else { t with coll := t.coll.removePlan g }

/-- HUB_FAILURE (R173, R177): plans with a rank in the package lose every instance; plans it only coordinated lose those
without a ticket. -/
def State.hubFail (s : State) (pkg : Nat) : State :=
  s.coll.plans.foldl (fun (s : State) p =>
    if p.memberList.any (fun m => m.1 == pkg) then s.killPlan p false
    else if s.coordinator p.memberList = pkg then s.killPlan p true
    else s) s

/-- A context that is destroyed frees its plans at its members; the instances of members of other contexts, here and in
other packages, end as after a failure (R175). A plan is killed at once for every context, with its reservations, also where
nothing of it is outstanding at the other members: R175 does not say that it lives on for them. In an open round (R166) the
count keeps a CPLAN that was counted, whether its unit is cancelled or its context destroyed; a cancelled unit's arrival
stays in the round, and a destroyed context's leaves it. DESIGN CHOICE (log 25). -/
def State.freePlans (s : State) (ctx : Nat) : State :=
  let touched := s.coll.plans.filter (fun p => p.members.any (fun m => m.ctx == ctx))
  let stays : PlanArrival → Bool := fun a => a.pkg != s.pkgId ||
    (match s.cplanOf a.core a.common.group with | some w => w.1.ctx != ctx | none => true)
  let s : State := { s with coll := { s.coll with
    rounds := s.coll.rounds.map (fun (r : PlanRound) => { r with arrived := r.arrived.filter stays })
    ends := s.coll.ends.filter (fun e => e.member.ctx != ctx) } }
  touched.foldl (fun (s : State) p =>
    let q : Plan := { p with members := p.members.filter (fun m => m.ctx != ctx) }
    (dedup ((p.memberList.map (·.1)).filter (· != s.pkgId))).foldl (fun (s : State) k => s.sendFor p.common.group (.planKill k p.common.group))
      (s.killPlan q false)) s

/-! ### The coordinator roles (R169) -/

/-- A role leaves this hub: what it holds in it goes to the new one: the tickets it has counted, the plans it coordinates,
the postings it has accepted and the rounds that are open. A plan without a member here keeps its record alone, by which
what is still on its way is sent on. -/
def State.giveRole (s : State) (root : Bool) (hub : Nat) : State :=
  let mine := s.coll.plans.filter (fun p => s.ofRoot p.memberList == root)
  let inRole := fun (g : Nat) => mine.any (fun p => p.common.group == g)
  let open' : PlanRound → Bool := fun r => s.ofRoot r.first.members == root
  let msg := OutMsg.roleState hub root (if root then s.coll.rootCount else s.coll.domainCount) (mine.map Plan.role)
    (s.coll.coordTable.filter (fun e => inRole e.1)) (s.coll.rounds.filter open')
  let t : State := { s with coll := { s.coll with
    coordTable := s.coll.coordTable.filter (fun e => !inRole e.1)
    rounds := s.coll.rounds.filter (fun r => !open' r)
    tree := s.coll.tree.filter (fun e => !mine.any (fun p => p.members.isEmpty && p.common.group == e.1.2)) } }
  t.send none msg

/-- A plan that another coordinator held joins the records here. -/
def Collective.takePlan (c : Collective) (r : RolePlan) : Collective :=
  if c.plans.any (fun p => p.round == r.round) then
    { c with plans := c.plans.map (fun (p : Plan) => if p.round == r.round then { p with freedRanks := dedup (p.freedRanks ++ r.freedRanks) } else p) }
  else { c with plans := c.plans ++ [{
    common := r.common, memberList := r.memberList, round := r.round, live := r.live, members := [], freedRanks := r.freedRanks }] }

/-- The state of a role arrives at the hub that takes it over: its plans in place of what an earlier time in the role has
left, its table, its count, and its rounds, which the CPLANs that came here first join. -/
def State.takeRole (s : State) (root : Bool) (count : Nat) (plans : List RolePlan) (table : List (Nat × Nat × List Nat))
    (rounds : List PlanRound) : State :=
  let stale : Plan → Bool := fun p => p.members.isEmpty && s.ofRoot p.memberList == root && decide (0 < count) &&
    !plans.any (fun r => r.round == p.round)
  let early := rounds.flatMap (fun r => (s.coll.rounds.filter (fun x => x.group == r.group)).flatMap (·.arrived))
  let c := s.coll
  let c : Collective := plans.foldl Collective.takePlan { c with plans := c.plans.filter (fun p => !stale p) }
  let t : State := { s with coll := { c with
    coordTable := c.coordTable ++ table
    rootCount := if root then max c.rootCount count else c.rootCount
    domainCount := if root then c.domainCount else max c.domainCount count
    rounds := c.rounds.filter (fun x => !rounds.any (fun r => r.group == x.group)) ++ rounds } }
  early.foldl (fun (t : State) a => t.planArrive a) t

/-- CPLAN (R166). -/
def execCplan (h : CmdHead) (c : CplanCmd) (s : State) : Host.Outcome State Fault Refusal :=
  event (fun s => s.takeHead 66 h (.cplan c) (fun _ s => s.takeCplan c)) s

/-- CPLAN_ARRIVAL (R166). -/
def execCplanArrival (a : PlanArrival) (s : State) : Host.Outcome State Fault Refusal := event (fun s => s.planArrive a) s

/-- CFREE (R174): taken up at its head, and ended when nothing is outstanding. -/
def execCfree (h : CmdHead) (c : CfreeCmd) (s : State) : Host.Outcome State Fault Refusal :=
  event (fun s => (s.takeHead 66 h (.cfree c) (fun _ s => s.takeCfree c)).endCfree h c) s

/-- POSTING_ARRIVAL (R169). -/
def execPostingArrival (p : Posting) (s : State) : Host.Outcome State Fault Refusal := event (fun s => s.postingArrive p) s

/-- POSTING_RESEND (R169). -/
def execPostingResend (coordinator : Nat) (s : State) : Host.Outcome State Fault Refusal :=
  event (fun s => s.postingResend coordinator) s

/-- ROOT_TICKET_ARRIVAL (R170): a root ticket joins this domain's stream. -/
def execRootTicketArrival (t : Ticket) (s : State) : Host.Outcome State Fault Refusal :=
  event (fun s => s.appendTicket t) s

/-- TICKET_ARRIVAL (R170). -/
def execTicketArrival (t : Ticket) (s : State) : Host.Outcome State Fault Refusal := event (fun s => s.ticketArrive t) s

/-- INSTANCE_END (R168): with its results, or failed. -/
def execInstanceEnd (group inst : Nat) (failed : Bool) (s : State) : Host.Outcome State Fault Refusal :=
  event (fun s => (if s.endsFailed group inst == failed then s.instanceEnd group inst else s).reapPlans) s

/-- HUB_FAILURE (R173). -/
def execHubFailure (pkg : Nat) (s : State) : Host.Outcome State Fault Refusal := event (fun s => s.hubFail pkg) s

/-- COORDINATOR_ROLE_MOVE (R169): the role of the root, or of a domain, goes to a hub, with what the hub that gives it up
holds in it (log 25); a posting that reaches a hub without the role, or one that has not heard of its plan yet, is refused
until it is sent to the new one. -/
def execCoordinatorRoleMove (root : Bool) (domain hub : Nat) (s : State) : Host.Outcome State Fault Refusal :=
  event (fun s =>
    let mine := hub == s.pkgId
    if root then
      let s := if s.coll.isRoot && !mine then s.giveRole true hub else s
      { s with coll := { s.coll with rootHub := hub, isRoot := mine } }
    else if domain = s.coll.domain then
      let s := if s.coll.isDomain && !mine then s.giveRole false hub else s
      { s with coll := { s.coll with domainHub := hub, isDomain := mine } }
    else { s with coll := { s.coll with domainHubs := setAssoc domain hub s.coll.domainHubs } }) s

end Sys2Proof.Machine
end

