-- ==== Sys2Proof/Machine/Launching.lean ====
section
/-!
DEFINITION. The hierarchy of launches, graphs, phases and jobs: how units and launches end (R80 to R84, R262), the
counters (R81), the dependences (R82), and cancellation (R84, R51, R116).
-/
namespace Sys2Proof.Machine

open Sys2Proof

/-! ## Counters (R81) -/

/-- The worse of two statuses: 1 over 3 over 2 over 0. -/
def worse (a b : Nat) : Nat :=
  let rank := fun (x : Nat) => match x with | 1 => 3 | 3 => 2 | 2 => 1 | _ => 0
  if rank a < rank b then b else a

/-- A counter has completed: it is sealed and nothing is outstanding. -/
def Counter.complete (c : Counter) : Bool := c.sealed && c.outstanding == 0

/-- The live or completed counter of an id in a context. -/
def findCounter (cs : List Counter) (ctx id : Nat) : Option Counter := cs.find? (fun c => c.id == id && c.ctx == ctx)

/-- A CANCEL has named the counter of an id (R84). -/
def counterCancelled (cs : List Counter) (ctx id : Nat) : Bool :=
  match findCounter cs ctx id with
  | some c => c.cancelled
  | none => false

/-- Change a counter. -/
def updCounter (cs : List Counter) (ctx id : Nat) (f : Counter → Counter) : List Counter :=
  cs.map (fun c => if c.id == id && c.ctx == ctx then f c else c)

/-- A child of a counter has completed with a status. -/
def Counter.childDone (status : Nat) (c : Counter) : Counter :=
  { c with outstanding := c.outstanding - 1, status := worse c.status status }

/-- A counter that has just completed, if the change completes it. -/
def completes (cs : List Counter) (ctx id : Nat) (f : Counter → Counter) : Option Counter :=
  match findCounter cs ctx id with
  | some c => if !c.complete && (f c).complete then some (f c) else none
  | none => none

/-- A change of a job's counter. -/
def State.changeJob (s : State) (part ctx id : Nat) (f : Counter → Counter) : State :=
  s.updPart part (fun p => { p with jobs := updCounter p.jobs ctx id f })

/-- A change of a phase's counter; when it completes, its job is told. -/
def State.changePhase (s : State) (part ctx id : Nat) (f : Counter → Counter) : State :=
  let done := (s.part? part).bind (fun p => completes p.phases ctx id f)
  let s := s.updPart part (fun p => { p with phases := updCounter p.phases ctx id f })
  match done with
  | some c => s.changeJob part ctx c.parent (Counter.childDone c.status)
  | none => s

/-- A change of a graph's counter; when it completes, its phase is told. -/
def State.changeGraph (s : State) (part ctx id : Nat) (f : Counter → Counter) : State :=
  let done := (s.part? part).bind (fun p => completes p.graphs ctx id f)
  let s := s.updPart part (fun p => { p with graphs := updCounter p.graphs ctx id f })
  match done with
  | some c => s.changePhase part ctx c.parent (Counter.childDone c.status)
  | none => s

/-! ## Launch entries -/

/-- An entry that takes no place of the table any more: complete, and holding no decrement (R82). -/
def Launch.freed (l : Launch) : Bool := l.state == .complete && l.kept.isEmpty

/-- The launch entries in use (R81). -/
def Partition.liveLaunches (p : Partition) : Nat := (p.launches.filter (fun l => !l.freed)).length

/-- An entry with nothing but its key. -/
def Launch.empty (key : LaunchKey) : Launch where
  key := key
  ctx := key.ctx
  phase := 0
  job := 0
  state := .early
  pushedBy := 0
  pusher := none
  tag := 0
  irq := false
  det := false
  ragged := false
  persistent := false
  startPc := 0
  args := 0
  unitCount := 0
  gangSize := 1
  privKiB := 0
  sharedKiB := 0
  accKiB := 0
  kerfKiB := 0
  weight := 1
  prio := 0
  ports := 0
  channels := []
  kback := 0
  records := []
  crec := 0
  depCount := 0
  succ := []
  kept := []
  readyAt := 0
  readySeq := 0
  aged := false
  nunits := 0
  units := []
  status := 0
  recordDue := none
  recorded := false

/-- The launch table has room for an entry of a key: a free entry, or one of the key that is still allocated (R81, R82). -/
def Partition.launchRoom (p : Partition) (key : LaunchKey) : Bool :=
  decide (p.liveLaunches < 4096) || p.launches.any (fun x => x.key == key && !x.freed)

/-- Put a launch entry in place of a completed one of its key, or at the end; the decrements that the completed one
keeps for its successors stay in the entry (R82). -/
def Partition.putLaunch (p : Partition) (l : Launch) : Partition :=
  let kept := (p.launches.filter (fun x => x.key == l.key)).flatMap (·.kept)
  { p with launches := p.launches.filter (fun x => x.key != l.key) ++ [{ l with kept := l.kept ++ kept }] }

/-- A launch whose count is zero or less becomes ready and enters its queue in ready order (R82, R85). -/
def State.checkReady (s : State) (k : LaunchKey) : State :=
  match s.launch? k with
  | some l =>
    if l.state = .blocked ∧ l.depCount ≤ 0 then
      let cycle := s.cycle
      s.updPart k.part (fun p => { p with
        readyNext := p.readyNext + 1
        launches := p.launches.map (fun x => if x.key == k then { x with state := .ready, readyAt := cycle, readySeq := p.readyNext } else x) })
    else s
  | none => s

/-- A launch that completes decrements a successor's count: in its entry, in a fresh entry, or kept in its own entry when
the table, its own entry in it, is full (R82). A launch that names itself keeps the decrement for its next packet. -/
def State.decrement (s : State) (done : Launch) (index : Nat) : State :=
  let k : LaunchKey := { done.key with index := index }
  let dec := fun (s : State) => (s.updLaunch k (fun l => { l with depCount := l.depCount - 1 })).checkReady k
  let live : Bool := match s.launch? k with | some l => l.state != .complete | none => false
  let room : Bool := match s.part? k.part with | some p => p.launchRoom k | none => false
  if k ≠ done.key ∧ live = true then dec s
  else if k ≠ done.key ∧ room = true then dec (s.updPart k.part (fun p => p.putLaunch (Launch.empty k)))
  else s.updLaunch done.key (fun l => { l with kept := l.kept ++ [index] })

/-! ## Completion of a launch (R83) -/

/-- The units of a launch that exited, and that were cancelled. -/
def Launch.exitedCount (l : Launch) : Nat := (l.units.filter (fun u => u.2 == .exited)).length
def Launch.cancelledCount (l : Launch) : Nat := (l.units.filter (fun u => u.2 == .cancelled)).length

/-- A level wider than a launch has been cancelled: its graph, phase or job (R81, R84). -/
def State.widerCancelled (s : State) (l : Launch) : Bool :=
  match s.part? l.key.part with
  | some p => counterCancelled p.graphs l.ctx l.key.graph || counterCancelled p.phases l.ctx l.phase || counterCancelled p.jobs l.ctx l.job
  | none => false

/-- The status of a launch whose units have ended (R81): 1 where the launch or a wider level was cancelled, 3 where a
unit was cancelled, 0 otherwise. -/
def Launch.endStatus (l : Launch) (wider : Bool) : Nat :=
  if l.status = 1 ∨ wider = true then 1 else if 0 < l.cancelledCount then 3 else 0

/-- The launch's completion record (R83). -/
def launchRecord (status off index exited cancelled cycle : Nat) : List Byte :=
  leBytes 2 status ++ leBytes 1 off ++ leBytes 1 0 ++ leBytes 4 index ++ leBytes 4 exited ++ leBytes 4 cancelled ++
  leBytes 8 cycle ++ leBytes 8 0

/-- Where a launch's completion interrupt goes: the unit that pushed it, on its core or in its image; else, when no unit
pushed it, the core that did, while no unit runs there. A unit that has ended gets none (R83, R352). -/
def State.launchAsker (s : State) (l : Launch) : Option Core :=
  match l.pusher with
  | some (k, u) => s.findUnit k u
  | none => let c := s.core l.pushedBy; if c.unit.isNone && (c.run == .running) then some c else none

/-- The interrupt of a launch that completes waits for room in the event queue it goes to (R83, R113). -/
def State.irqRoom (s : State) (l : Launch) : Bool := !l.irq || (match s.launchAsker l with | some c => c.eventRoom | none => true)

/-- The launch's completion interrupt: a KIND 2 event with QID 67 and the LAUNCH's tag (R83, R352). -/
def State.launchIrq (s : State) (l : Launch) : State :=
  if !l.irq then s
  else
    let ev : EngineEvent := { stamp := s.stamp, remaining := 0, kind := 2, cause := 0, qid := 67, tag := l.tag }
    let t := match l.pusher with
      | some (k, u) => s.atUnit k u (fun c => c.addEvent ev)
      | none => if (s.launchAsker l).isSome then s.updCore l.pushedBy (fun c => c.addEvent ev) else s
    { t with stamp := s.stamp + 1 }

/-- What follows a launch's record: the interrupt, the counters, and the decrements, which are made while the launch's own
entry is still allocated; it waits while the interrupt finds the event queue full (R81 to R83, R113). -/
def State.launchDone (s : State) (k : LaunchKey) : State :=
  match s.launch? k with
  | none => s
  | some l =>
    if !s.irqRoom l then s.updLaunch k (fun l => { l with recorded := true, recordDue := none })
    else
      let s := if l.status = 0 then l.succ.foldl (fun s i => s.decrement l i) s else s
      let s := s.updLaunch k (fun l => { l with state := .complete, recordDue := none, recorded := false })
      (s.launchIrq l).changeGraph k.part l.ctx k.graph (Counter.childDone l.status)

/-- The launch's record is written: it completes, or the write is refused or waits, and is tried again (R70, R83, R388). -/
def State.launchRecordWrite (s : State) (k : LaunchKey) : State :=
  match s.launch? k with
  | none => s
  | some l =>
    let bs := launchRecord l.status 0 0 l.exitedCount l.cancelledCount s.cycle
    let again := fun (mig : Bool) => s.updLaunch k (fun l => { l with recordDue := some (nextTry l.recordDue s.cycle, mig) })
    match s.engStoreAs (s.hubAgent l.ctx l.pushedBy) l.crec.toNat bs with
    | .ok s => s.launchDone k
    | .error (.retry, _) => again false
    | .error (.migrating, _) => again true
    | .error (_, s) => s.launchDone k

/-- The units of a launch have ended and its record or its interrupt is still to come: nothing of it changes any more
(R81, R84). -/
def Launch.over (l : Launch) : Bool := l.state == .complete || l.recordDue.isSome || l.recorded

/-- Every unit of a launch has ended and none is left to place (R81). -/
def Launch.ended (l : Launch) : Bool :=
  (l.state == .placing || l.state == .placed) && !l.over && l.units.all (fun u => u.2 == .exited || u.2 == .cancelled)

/-- The cores that a launch has kept for its units are its no more: they are zeroed (R42, R76). -/
def State.freeKept (s : State) (l : Launch) : State :=
  s.updCores ((s.allCores.filter (fun c => c.run == .free && c.unit.isNone && c.lastLaunch == some l.key)).map (·.id)) (fun c =>
    { c with run := .zeroing, lastLaunch := none, zeroCtx := some l.ctx, accum := [], accumBad := [] })

/-- A launch whose last unit has ended: its status is fixed (R81), it gives its channels (R121) and its cores back, and it
completes. -/
def State.settleLaunch (s : State) (k : LaunchKey) : State :=
  match s.launch? k with
  | some l =>
    if l.ended then
      let t : State := { s with channels := s.channels.filter (fun c => c.holder != k) }
      ((t.freeKept l).updLaunch k (fun l => { l with status := l.endStatus (s.widerCancelled l) })).launchRecordWrite k
    else s
  | none => s

/-! ## The end of a unit -/

/-- A unit leaves its barrier channels as if it had cleared its bits (R119, R120). -/
def State.leaveChannels (s : State) (c : Core) : State :=
  match c.unit with
  | none => s
  | some u =>
    { s with channels := s.channels.map (fun ch =>
        if ch.holder == u.launch && c.user.bmask.getLsbD ch.num then ch.leave u.unit else ch) }

/-- A core leaves its eviction set: the set closes when nothing of it is left, and is evicted when the rest has
streamed out (R41, R51). -/
def Context.leaveSet (x : Context) (n : Nat) (core : Nat) : Context :=
  let left := (x.images.filter (fun i => i.set == n)).isEmpty
  let x := x.updSet n (fun e =>
    let rest := e.cores.filter (· != core)
    { e with cores := rest, state := if rest.isEmpty && e.state == .saving then .evicted else e.state })
  { x with sets := x.sets.filter (fun e => !(e.num == n && e.cores.isEmpty && left)) }

/-- What stays of a core when its unit exits: the stores of the launch (R76, R251) and the supervisor's registers. -/
def Core.vacate (c : Core) (k : LaunchKey) : Core :=
  { Core.fresh c.id with sup := c.sup, lastLaunch := some k, accum := c.accum, accumBad := c.accumBad }

/-- The entries of a core whose work has just ended complete: their records are written. Their events reach the core's
event queue, which goes with the unit (R42, R117). -/
def State.completeEntries (s : State) (n : Nat) : State :=
  s.asCore n (fun s => (dedup (s.me.entries.map (·.qid))).foldl (fun (s : State) q =>
    match s.me.headEntry q with
    | some e => if e.state = .finishing ∧ e.since = 0 ∧ (!e.reports || s.me.eventRoom) = true then s.reportHead q else s
    | none => s) s)

/-- The unit of a core ends, by EXIT or by a cancel (R84, R117, R120, R262): its waits are withdrawn, it leaves its
channels, its tags clear, and its core is vacated or released. -/
def State.endUnit (s : State) (n : Nat) (exited : Bool) : State :=
  match (s.core n).unit with
  | none => s.updCore n (fun c => { c with run := .free, wait := none })
  | some u =>
    let s := if exited then s else s.completeEntries n
    let c := s.core n
    let s := ((s.withdraw c).leaveBanks n).leaveChannels c
    let s := match c.preq with | some (_, set) => s.updCtx u.ctx (fun x => x.leaveSet set n) | none => s
    let s := { s with tags := s.tags.filter (fun t => !(t.2.2.1 == u.launch && t.2.2.2 == u.unit)) }
    let s := s.updCore n (fun c => if exited then c.vacate u.launch else c.release)
    (s.setPlace u.launch u.unit (if exited then .exited else .cancelled)).settleLaunch u.launch

/-- A saved unit is cancelled: its image is discarded; a core that it was being restored onto is zeroed and released
(R51). -/
def State.dropImage (s : State) (k : LaunchKey) (ctx unit : Nat) : State :=
  let isIt := fun (im : Image) => match im.core.unit with | some u => u.launch == k && u.unit == unit | none => false
  let s := match (s.ctx? ctx).bind (fun x => x.images.find? isIt) with
    | some im =>
      let s := s.leaveChannels im.core
      let target := ((s.ctx? ctx).bind (fun x => x.set? im.set)).bind (fun (e : EvictionSet) => assoc im.fromCore e.targets)
      let s := match target with
        | some n => s.updCore n (fun c => { c with run := .zeroing, zeroCtx := some ctx })
        | none => s
      s.updCtx ctx (fun x => ({ x with images := x.images.filter (fun i => !isIt i) }.updSet im.set (fun e =>
        { e with targets := delAssoc im.fromCore e.targets })).leaveSet im.set im.fromCore)
    | none => s
  let s := { s with tags := s.tags.filter (fun t => !(t.2.2.1 == k && t.2.2.2 == unit)) }
  s.setPlace k unit .cancelled

/-! ## EXIT (R262) -/

/-- Each of the core's queues is empty or held at an unmatched QFENCE, channel 63 included (R262). -/
def Core.queuesOver (c : Core) : Bool :=
  (c.entries.all (fun e => match c.headEntry e.qid with
    | some h => h.state == .fenced && !c.fenceReady h.head.tag
    | none => true)) &&
  (match c.kerfOp with | some k => k.done || k.failed.isSome | none => true)

/-- What EXIT waits for is over (R262): the held requests, with every pending destination, a register or a port, written. -/
def Core.exitReady (c : Core) : Bool := c.batch.isEmpty && c.pendingRegs.isEmpty && c.portResults.isEmpty && c.queuesOver

/-- The core waits in an EXIT whose waits are over. -/
def Core.exiting (c : Core) : Bool := (match c.wait with | some w => w.kind == .exit | none => false) && c.exitReady

/-- The word of EXIT. -/
def exitWord : IWord := 0x50000009

/-- The unit of a core ends by EXIT; the leader of a fused gang first forwards the EXIT to its followers (R92, R262). -/
def State.exitCore (s : State) (n : Nat) : State :=
  let c := s.core n
  let s := match c.unit with
    | some u => if decide (1 < u.gangSize) && !c.user.diverge && u.gangPos == 0 then s.forward u { word := exitWord, pc := c.pc, next := c.pc + 4 } else s
    | none => s
  s.endUnit n true

/-- A unit of a launch stops, wherever it is (R84): one whose EXIT is over has exited. The launch is not yet asked whether
it is complete. -/
def State.stopUnit (s : State) (l : Launch) (u : Nat × UnitPlace) : State :=
  match u.2 with
  | .on n => if (s.core n).exiting then s.exitCore n else s.endUnit n false
  | .saved => (s.dropImage l.key l.ctx u.1).settleLaunch l.key
  | .unplaced => (s.setPlace l.key u.1 .cancelled).settleLaunch l.key
  | _ => s

/-- The units of a launch that have not ended. -/
def Launch.running (l : Launch) : List (Nat × UnitPlace) := l.units.filter (fun u => !(u.2 == .exited || u.2 == .cancelled))

/-- The units of a launch that a cancel counts: those that run, are saved or are unplaced, but none whose EXIT is over (R84). -/
def State.cancels (s : State) (us : List (Nat × UnitPlace)) : Nat :=
  (us.filter (fun u => match u.2 with | .on n => !(s.core n).exiting | _ => true)).length

/-- Units of a launch stop (R84). -/
def State.stopUnits (s : State) (l : Launch) (us : List (Nat × UnitPlace)) : State := us.foldl (fun s u => s.stopUnit l u) s

/-- A launch is cancelled: every unit it created and that has not exited counts; one that has not begun to place its
units completes with none (R84). -/
def State.cancelLaunch (s : State) (l : Launch) : State :=
  let s := if l.over then s else s.updLaunch l.key (fun l => { l with status := 1 })
  match l.state with
  | .placing => s.stopUnits l l.running
  | .placed => s.stopUnits l l.running
  | .blocked => (s.updLaunch l.key (fun l => { l with state := .placed })).settleLaunch l.key
  | .ready => (s.updLaunch l.key (fun l => { l with state := .placed })).settleLaunch l.key
  | _ => s

/-- The launches that a cancel of a level covers, in one context. -/
def Partition.covered (p : Partition) (ctx level key : Nat) : List Launch :=
  p.launches.filter (fun l => l.ctx == ctx && (match level with
    | 2 => l.key.graph == key
    | 3 => l.phase == key && l.state != .early
    | _ => l.job == key && l.state != .early))

/-- The graphs a cancel of a level covers. -/
def Partition.coveredGraphs (p : Partition) (ctx level key : Nat) : List Nat :=
  match level with
  | 2 => [key]
  | 3 => ((p.graphs.filter (fun g => g.ctx == ctx && g.parent == key))).map (·.id)
  | _ =>
    let phases := (p.phases.filter (fun g => g.ctx == ctx && g.parent == key)).map (·.id)
    ((p.graphs.filter (fun g => g.ctx == ctx && phases.contains g.parent))).map (·.id)

/-- The counter of a level. -/
def Partition.counter? (p : Partition) (ctx level key : Nat) : Option Counter :=
  match level with
  | 2 => findCounter p.graphs ctx key
  | 3 => findCounter p.phases ctx key
  | _ => findCounter p.jobs ctx key

/-- A change of the counter of a level. -/
def State.changeCounter (s : State) (part ctx level key : Nat) (f : Counter → Counter) : State :=
  match level with
  | 2 => s.changeGraph part ctx key f
  | 3 => s.changePhase part ctx key f
  | _ => s.changeJob part ctx key f

/-- A CANCEL of a unit by its core number: the unit and its whole gang, its saved members included (R84, R95); the
number of units. -/
def State.cancelCore (s : State) (n : Nat) : State × Nat :=
  match (s.core n).unit with
  | none => (s, 0)
  | some u => match s.launch? u.launch with
    | none => if (s.core n).exiting then (s.exitCore n, 0) else (s.endUnit n false, 1)
    | some l =>
      let gang := l.running.filter (fun x => decide (x.1 / u.gangSize = u.unit / u.gangSize))
      (s.stopUnits l gang, s.cancels gang)

/-- A CANCEL of a graph, phase or job: its counter takes status 1, the decrements kept for its graphs go, its launches
are cancelled (R81, R82, R84). -/
def State.cancelLevel (s : State) (part ctx level key : Nat) : State × Nat :=
  match s.part? part with
  | none => (s, 0)
  | some p =>
    let ls := (p.covered ctx level key).filter (fun l => !l.over && l.state != .early)
    let count := sumNat (ls.map (fun l => match l.state with
      | .placing => s.cancels l.running
      | .placed => s.cancels l.running
      | _ => 0))
    let graphs := p.coveredGraphs ctx level key
    let s := s.changeCounter part ctx level key (fun c => { c with status := worse c.status 1, cancelled := true })
    let s := s.updPart part (fun p => { p with launches :=
      (p.launches.filter (fun l => !(l.state == .early && l.ctx == ctx && graphs.contains l.key.graph))).map (fun l =>
        if l.ctx == ctx && graphs.contains l.key.graph then { l with kept := [] } else l) })
    (ls.foldl (fun s l => s.cancelLaunch l) s, count)

end Sys2Proof.Machine
end

