-- ==== Sys2Proof/Machine/Work.lean ====
section
/-!
DEFINITION. The launch unit: taking and checking packets (R73 to R79), placing units (R79, R80, R85, R86, R251, R322),
and the other work commands (R351 to R355).
-/
namespace Sys2Proof.Machine

open Sys2Proof

/-! ## The kernel header (R73) -/

/-- What a launch needs of a kernel header. -/
structure KernelHeader where
  hlen : Nat
  detReq : Bool
  privMax : Nat
  shrMax : Nat
  accMax : Nat
  kerfMax : Nat
  barMax : Nat
  portMax : Nat
  gangReq : Nat
  canon : Nat
  deriving DecidableEq, Repr

/-- A little-endian field of a block of bytes. -/
def fieldOf (bs : List Byte) (off n : Nat) : Nat := leVal ((bs.drop off).take n)

/-- A split factor word is within its limits. -/
def splitOk (x : Nat) : Bool := within (natBits x 15 0) 1 4096 && decide (natBits x 31 16 ≤ 1)

/-- A header's bytes are valid: 64 fixed bytes and the split factors. -/
def headerOk (bs splits : List Byte) : Bool :=
  let ns := fieldOf bs 20 2
  fieldOf bs 0 4 == 0x4F564B48 && fieldOf bs 4 2 == roundUp (64 + 4 * ns) 64 && fieldOf bs 6 1 == 1 && decide (fieldOf bs 7 1 ≤ 1) &&
  decide (ns ≤ 256) && decide (fieldOf bs 18 2 ≤ 4096) && (bs.drop 22).all (· == 0) &&
  (List.range ns).all (fun i => splitOk (fieldOf splits (4 * i) 4))

/-- The fields of a header. -/
def headerOf (bs : List Byte) : KernelHeader where
  hlen := fieldOf bs 4 2
  detReq := fieldOf bs 7 1 == 1
  privMax := fieldOf bs 8 2
  shrMax := fieldOf bs 10 2
  accMax := fieldOf bs 12 2
  kerfMax := fieldOf bs 14 1
  barMax := fieldOf bs 15 1
  portMax := fieldOf bs 16 1
  gangReq := fieldOf bs 17 1
  canon := fieldOf bs 18 2

/-- A header that asks for nothing. -/
def noHeader : KernelHeader where
  hlen := 64
  detReq := false
  privMax := 0
  shrMax := 0
  accMax := 0
  kerfMax := 0
  barMax := 0
  portMax := 0
  gangReq := 0
  canon := 0

/-- The bytes of the header at an entry address under a core's context, fixed part and split factors: empty where it
faults (R75). -/
def State.headerBytes (s : State) (c : Core) (entry : Nat) : List Byte × List Byte :=
  if entry % 64 ≠ 0 ∨ windowOf entry ≠ .paged then ([], [])
  else match s.engPlace c entry 4 .fetch with
    | .ok _ =>
      (match s.engLoad c entry 64 with
       | .ok bs =>
         (match s.engLoad c (entry + 64) (4 * fieldOf bs 20 2) with
          | .ok sp => (bs, sp)
          | .error _ => ([], []))
       | .error _ => ([], []))
    | _ => ([], [])

/-- The header that bytes hold; none where it could not be read or is not valid (R75). -/
def headerIn (bs splits : List Byte) : Option KernelHeader :=
  if bs.length = 64 ∧ headerOk bs splits = true then some (headerOf bs) else none

/-! ## The packet's checks (R74, R75) -/

/-- A packet's fields. -/
structure Packet where
  entry : Nat
  args : Nat
  units : Nat
  gang : Nat
  flags : Nat
  priv : Nat
  shared : Nat
  acc : Nat
  kerf : Nat
  weight : Nat
  prio : Nat
  barriers : Nat
  ports : Nat
  pad : Nat
  graph : Nat
  index : Nat
  deps : Nat
  phase : Nat
  job : Nat
  crec : Nat
  tail : Nat
  deriving DecidableEq, Repr

/-- The packet of 64 bytes; a self-window record address takes its global-window form (R83). -/
def packetOf (core : Nat) (bs : List Byte) : Packet where
  entry := fieldOf bs 0 8
  args := fieldOf bs 8 8
  units := fieldOf bs 16 2
  gang := fieldOf bs 18 1
  flags := fieldOf bs 19 1
  priv := fieldOf bs 20 2
  shared := fieldOf bs 22 2
  acc := fieldOf bs 24 2
  kerf := fieldOf bs 26 1
  weight := fieldOf bs 27 1
  prio := fieldOf bs 28 1
  barriers := fieldOf bs 29 1
  ports := fieldOf bs 30 1
  pad := fieldOf bs 31 1
  graph := fieldOf bs 32 4
  index := fieldOf bs 36 2
  deps := fieldOf bs 38 2
  phase := fieldOf bs 40 4
  job := fieldOf bs 44 4
  crec := match windowOf (fieldOf bs 48 8) with
    | .self off => 8 * 2 ^ 44 + core * 2 ^ 20 + off
    | _ => fieldOf bs 48 8
  tail := fieldOf bs 56 8

def Packet.det (p : Packet) : Bool := p.flags % 2 == 1
def Packet.ragged (p : Packet) : Bool := p.flags / 2 % 2 == 1
def Packet.persistent (p : Packet) : Bool := p.flags / 4 % 2 == 1
def Packet.interrupt (p : Packet) : Bool := p.flags / 8 % 2 == 1

/-- The tile records of an array (R77). -/
def tileRecs (bs : List Byte) (n : Nat) : List TileRec :=
  (List.range n).map (fun i =>
    let r := bs.drop (16 * i)
    { expert := fieldOf r 0 2, rows := fieldOf r 2 2, rowStart := fieldOf r 4 4, slice := fieldOf r 8 4 })

/-- The index of the first invalid record: ROWS above 32, or reserved bytes that are not zero. -/
def badRecord (bs : List Byte) (n : Nat) : Option Nat :=
  (List.range n).find? (fun i => decide (32 < fieldOf bs (16 * i + 2) 2) || fieldOf bs (16 * i + 12) 4 != 0)

/-- The enabled cores of a partition (R15, R381). -/
def State.partCores (s : State) (p : Partition) : List Nat :=
  ((sortBy (fun (a b : Nat) => a ≤ b) p.trusses).map (fun t => (List.range 64).map (fun i => t * 64 + i))).flatten.filter s.coreEnabled

/-- A partition's channels that no launch holds. -/
def State.freeChannels (s : State) (p : Partition) : List Nat :=
  (sortBy (fun (a b : Nat) => a ≤ b) p.channels).filter (fun n => (s.channel? n).isNone)

/-- The kerf backing of every unit lies on pages with V = 1 and W = 1 (R74): page by page of 64 KiB. -/
def State.backingOk (s : State) (ptroot base bytes : Nat) : Bool :=
  decide (base % 4096 = 0) && decide (base + bytes ≤ 2 ^ 47) &&
  (List.range (ceilDiv (base % 65536 + bytes) 65536)).all (fun i =>
    match s.descriptor ptroot (base / 65536 * 65536 + i * 65536) with
    | .ok (_, d) => natBits d 0 0 == 1 && natBits d 3 3 == 1
    | .error _ => false)

/-- The tables have room for what a packet needs (R81). -/
def Partition.room (p : Partition) (ctx : Nat) (k : Packet) (early : Bool) : Bool :=
  let need := fun (cs : List Counter) (id cap : Nat) =>
    (match findCounter cs ctx id with | some c => !c.complete | none => false) || decide ((cs.filter (fun c => !c.complete)).length < cap)
  (early || decide (p.liveLaunches < 4096)) && need p.graphs k.graph 1024 && need p.phases k.phase 256 && need p.jobs k.job 64

/-- A live counter's parent id, if the counter is live. -/
def liveParent (cs : List Counter) (ctx id : Nat) : Option Nat :=
  match findCounter cs ctx id with
  | some c => if c.complete then none else some c.parent
  | none => none

/-- The first field, by ascending byte offset, that breaks its limits, with the index of an invalid record (R74, R75);
recs is the record array as read (none where it cannot be read). How many units a deterministic ragged launch would create
whose record array is misaligned or cannot be read R79 does not say: the model counts every record then, so that such a
packet can fail at offset 16 before it fails at 56. DESIGN CHOICE (log 23). -/
def State.packetFault (s : State) (c : Core) (p : Partition) (key : LaunchKey) (k : Packet) (h : Option KernelHeader)
    (recs : Option (List Byte)) : Option (Nat × Nat) :=
  let hd : KernelHeader := h.getD noHeader
  let gangOk := k.gang == 1 || k.gang == 2 || k.gang == 4 || k.gang == 8
  let created := match recs with
    | some bs => if k.ragged then ((tileRecs bs k.units).filter (fun r => decide (0 < r.rows))).length else k.units
    | none => k.units
  let live := match s.launch? key with | some l => l.state != .complete && l.state != .early | none => false
  let early := p.launchRoom key
  let bad := match recs with | some bs => badRecord bs k.units | none => none
  let checks : List (Nat × Bool) := [
    (0, h.isSome),
    (16, within k.units 1 4096 && decide (k.units % k.gang = 0) &&
      (!k.det || (k.units == hd.canon && decide (created ≤ (s.partCores p).length)))),
    (18, gangOk && (hd.gangReq == 0 || k.gang == hd.gangReq) && (!k.ragged || k.gang == 1)),
    (19, decide (k.flags < 16) && !(k.ragged && k.persistent) && (k.det || !hd.detReq)),
    (20, decide (hd.privMax ≤ k.priv) && decide (k.kerf + ceilDiv k.ports 2 ≤ k.priv)),
    (22, decide (hd.shrMax ≤ k.shared) && decide (k.priv + k.shared ≤ 256)),
    (24, decide (hd.accMax ≤ k.acc) && decide (k.acc ≤ 128) && decide (k.acc % 4 = 0) && decide (k.gang * k.acc ≤ 512)),
    (26, decide (hd.kerfMax ≤ k.kerf) && decide (k.kerf ≤ 64)),
    (27, within k.weight 1 15),
    (28, decide (k.prio ≤ 15)),
    (29, decide (hd.barMax ≤ k.barriers) && decide (k.barriers ≤ 8) && decide (k.barriers ≤ (s.freeChannels p).length)),
    (30, decide (hd.portMax ≤ k.ports) && decide (k.ports ≤ 8)),
    (31, k.pad == 0)] ++ [
    (32, !live && p.room c.ctx k early),
    (40, match liveParent p.graphs c.ctx k.graph with | some x => x == k.phase | none => true),
    (44, match liveParent p.phases c.ctx k.phase with | some x => x == k.job | none => true),
    (48, decide (k.crec % 32 = 0) && (match s.engPlace c k.crec 32 .store with | .fault _ => false | _ => true)),
    (56, if k.ragged then recs.isSome && bad.isNone
         else k.kerf == 0 || s.backingOk c.sup.ptroot.toNat k.tail (k.units * 16 * k.kerf * 1024))]
  match checks.find? (fun x => !x.2) with
  | some x => some (x.1, if x.1 = 56 then bad.getD 0 else 0)
  | none => none

/-! ## Creating a launch -/

/-- A new counter. -/
def newCounter (ctx id parent : Nat) : Counter where
  id := id
  ctx := ctx
  parent := parent
  sealed := false
  cancelled := false
  status := 0
  outstanding := 0

/-- A live counter of an id, made when there is none; the flag says that it was made. -/
def ensure (cs : List Counter) (ctx id parent : Nat) : List Counter × Bool :=
  match findCounter cs ctx id with
  | some c => if c.complete then (cs.filter (fun x => !(x.id == id && x.ctx == ctx)) ++ [newCounter ctx id parent], true) else (cs, false)
  | none => (cs ++ [newCounter ctx id parent], true)

/-- One more child. -/
def Counter.addChild (c : Counter) : Counter := { c with outstanding := c.outstanding + 1 }

/-- The graph, phase and job entries of a packet, each new one a child of its parent (R81). -/
def Partition.ensureGraph (p : Partition) (ctx : Nat) (k : Packet) : Partition :=
  let (jobs, _) := ensure p.jobs ctx k.job 0
  let (phases, newPhase) := ensure p.phases ctx k.phase k.job
  let (graphs, newGraph) := ensure p.graphs ctx k.graph k.phase
  { p with
    jobs := if newPhase then updCounter jobs ctx k.job Counter.addChild else jobs
    phases := if newGraph then updCounter phases ctx k.phase Counter.addChild else phases
    graphs := graphs }

/-- The graph of a rejected packet takes status 2 as a child's; a new entry is made for it where one is free (R81). -/
def State.rejectInGraph (s : State) (p : Partition) (ctx : Nat) (k : Packet) : State :=
  match liveParent p.graphs ctx k.graph with
  | some _ => s.changeGraph p.id ctx k.graph (fun c => { c with status := worse c.status 2 })
  | none =>
    if p.room ctx k true then
      (s.updPart p.id (fun p => p.ensureGraph ctx k)).changeGraph p.id ctx k.graph (fun c => { c with status := worse c.status 2 })
    else s

/-- A channel as a launch takes it (R121). -/
def newChannel (n : Nat) (holder : LaunchKey) (ctx : Nat) : Channel where
  num := n
  holder := holder
  ctx := ctx
  epoch := 0
  count := 0
  nextCount := 0
  marks := []
  stalled := []
  gathered := []
  phase := false
  failed := false
  failedEpochs := []
  failing := false
  cancelAt := none
  gatherDue := none
  recentAt := 0
  recentMarks := []
  recentBytes := 0

/-- A packet is accepted: its launch entry, its channels (the lowest-numbered free ones, R118), the decrements that came
before it (R82); it becomes ready when its count allows. -/
def State.acceptPacket (s : State) (p : Partition) (c : Core) (h : CmdHead) (cmd : LaunchCmd) (k : Packet) (hd : KernelHeader)
    (recs : List TileRec) : State :=
  let key : LaunchKey := { part := p.id, ctx := c.ctx, graph := k.graph, index := k.index }
  let chans := (s.freeChannels p).take k.barriers
  let early : Int := match s.launch? key with | some l => if l.state = .early then l.depCount else 0 | none => 0
  let keptCount := sumNat (p.launches.map (fun l => if l.key.graph == k.graph && l.ctx == c.ctx then (l.kept.filter (· == k.index)).length else 0))
  let l : Launch := { Launch.empty key with
    phase := k.phase
    job := k.job
    state := .blocked
    pushedBy := c.id
    pusher := c.unit.map (fun u => (u.launch, u.unit))
    tag := h.tag
    irq := k.interrupt
    det := k.det
    ragged := k.ragged
    persistent := k.persistent
    startPc := BitVec.ofNat 64 (k.entry + hd.hlen)
    args := BitVec.ofNat 64 k.args
    unitCount := k.units
    gangSize := k.gang
    privKiB := k.priv
    sharedKiB := k.shared
    accKiB := k.acc
    kerfKiB := k.kerf
    weight := k.weight
    prio := k.prio
    ports := k.ports
    channels := chans
    kback := k.tail
    records := recs
    crec := BitVec.ofNat 64 k.crec
    depCount := (k.deps : Int) + early - (keptCount : Int)
    succ := ([cmd.succ0, cmd.succ1, cmd.succ2, cmd.succ3].take cmd.nsucc.toNat).map (·.toNat) }
  let s := s.updPart p.id (fun p =>
    let p := p.ensureGraph c.ctx k
    let p : Partition := { p with launches := p.launches.map (fun (x : Launch) =>
      if x.key.graph == k.graph && x.ctx == c.ctx then { x with kept := x.kept.filter (· != k.index) } else x) }
    let p := p.putLaunch l
    { p with graphs := updCounter p.graphs c.ctx k.graph Counter.addChild, head := if p.head = some key then none else p.head })
  let s : State := { s with channels := s.channels ++ chans.map (fun n => newChannel n key c.ctx) }
  -- a core that served a completed launch of the same key does not serve this one (R42, R76)
  let leave : Core → Core := fun c => if c.lastLaunch == some key then { c with lastLaunch := none } else c
  let s : State := { s with me := leave s.me, others := s.others.map (fun (x : Nat × Core) => (x.1, leave x.2)) }
  s.checkReady key

/-- The completion record of a rejected packet is written: status 2, the field's offset, the invalid record's index; then
the entry ends. A refused write is resent, one to a migrating page waits, and one that faults is lost (R70, R75, R388). -/
def State.rejectRecord (s : State) (crec off index : Nat) : State :=
  match s.engStoreAs (s.hubAgent s.me.ctx s.me.id) crec (launchRecord 2 off index 0 0 s.cycle) with
  | .ok t => t.finishHead 67 0 0
  | .error (.retry, _) => s.engineMet 67 .retry crec
  | .error (.migrating, _) => s.engineMet 67 .migrating crec
  | .error (_, t) => t.finishHead 67 0 0

/-- The launch unit keeps what it has read of a packet (R388). -/
def State.keepBlocks (s : State) (qid : Nat) (read : List (List Byte)) : State :=
  s.updMe (fun c => c.updHead qid (fun e => { e with job := .blocks read }))

/-- The bytes of the tile records that a packet names, read once: empty where it names none or they cannot be read, or the
retry reply that refused the read (R77, R388). -/
def State.tileBytes (s : State) (k : Packet) : Except EngRes (List Byte) :=
  if k.ragged ∧ k.tail % 16 = 0 ∧ 1 ≤ k.units ∧ k.units ≤ 4096 then
    match s.engLoad s.me k.tail (16 * k.units) with
    | .ok bs => .ok bs
    | .error .retry => .error .retry
    | .error _ => .ok []
  else .ok []

/-- The rest of a LAUNCH once the packet, its header and its records are read: the checks, and the launch or the rejection
(R75, R352). -/
def State.judgeLaunch (s : State) (h : CmdHead) (cmd : LaunchCmd) (bs head splits recs : List Byte) : State :=
  let c := s.me
  match s.partOf c.id with
  | none => s.finishHead 67 0 0
  | some p =>
    let k := packetOf c.id bs
    let hd := headerIn head splits
    let key : LaunchKey := { part := p.id, ctx := c.ctx, graph := k.graph, index := k.index }
    if s.engPlace c k.crec 32 .store = .retry then (s.keepBlocks 67 [bs, head, splits, recs]).engineMet 67 .retry k.crec
    else
      let rb := if recs.isEmpty then none else some recs
      match s.packetFault c p key k hd rb, hd with
      | none, some hdr => (s.acceptPacket p c h cmd k hdr (if k.ragged then tileRecs recs k.units else [])).finishHead 67 0 1
      | some f, _ =>
        ((s.rejectInGraph p c.ctx k).updMe (fun c => c.updHead 67 (fun e => { e with job := .rejected k.crec f.1 f.2 }))).rejectRecord k.crec f.1 f.2
      | none, none => s.finishHead 67 0 0

/-- The records of a LAUNCH whose packet and header are read; then its checks (R75, R77). -/
def State.checkLaunch (s : State) (h : CmdHead) (cmd : LaunchCmd) (bs head splits : List Byte) : State :=
  let k := packetOf s.me.id bs
  match s.tileBytes k with
  | .error r => (s.keepBlocks 67 [bs, head, splits]).engineMet 67 r k.tail
  | .ok recs => (s.touch s.me k.tail recs.length).judgeLaunch h cmd bs head splits recs

/-- LAUNCH at the launch unit (R75, R352, R388): the packet, the header and the records are each read once; what a refusal
stopped goes on where it stopped. -/
def State.takeLaunch (s : State) (h : CmdHead) (cmd : LaunchCmd) : State :=
  let job : Option Job := (s.me.headEntry 67).map (·.job)
  match job with
  | some (.rejected crec off index) => s.rejectRecord crec off index
  | some (.blocks [bs, head, splits, recs]) => s.judgeLaunch h cmd bs head splits recs
  | some (.blocks [bs, head, splits]) => s.checkLaunch h cmd bs head splits
  | _ =>
    match s.engLoad s.me cmd.pkt.toNat 64 with
    | .error (.fault cause) => s.updMe (fun c => c.updHead 67 (fun e => e.fail cause (cmd.pkt.zeroExtend 64)))
    | .error r => s.engineMet 67 r cmd.pkt.toNat
    | .ok bs =>
      let entry := (packetOf s.me.id bs).entry
      let x := s.headerBytes s.me entry
      ((s.touch s.me cmd.pkt.toNat 64).touch s.me entry x.1.length).checkLaunch h cmd bs x.1 x.2

/-! ## Placement (R79, R80, R85, R86) -/

/-- A launch that has not completed reserves a core that a unit of it has left (R76). -/
def State.reserved (s : State) (c : Core) : Option Launch :=
  match c.lastLaunch.bind s.launch? with
  | some l => if l.state = .complete then none else some l
  | none => none

/-- A core that a launch may use: free, and not reserved by another launch that has not completed (R76). -/
def State.usable (s : State) (k : LaunchKey) (n : Nat) : Bool :=
  let c := s.core n
  s.coreEnabled n && (c.run == .free) && c.unit.isNone && (match s.reserved c with | some l => l.key == k | none => true)

/-- The unit whose image is being restored onto a core (R41). -/
def State.incoming (s : State) (n : Nat) : Option UnitCfg :=
  s.contexts.findSome? (fun x => x.images.findSome? (fun im =>
    if (x.set? im.set).any (fun e => assoc im.fromCore e.targets == some n) then im.core.unit else none))

/-- The accumulator KiB reserved on a core: by its unit, by one that is being restored, or by a launch that has not
completed (R41, R76). -/
def State.accReserved (s : State) (n : Nat) : Nat :=
  let c := s.core n
  match c.unit with
  | some u => u.accKiB
  | none => match s.incoming n with
    | some u => u.accKiB
    | none => match s.reserved c with
      | some l => l.accKiB
      | none => 0

/-- The accumulator KiB reserved in a bay (R76). -/
def State.bayReserved (s : State) (bay : Nat) : Nat := sumNat ((List.range 8).map (fun i => s.accReserved (bay * 8 + i)))

/-- The cores of a bay that a launch may use now, as many whole gangs as the allotments allow: the cores that it has kept
from its earlier units, whose allotments stand reserved already, and then others, as far as the bay's 512 KiB go (R76, R80). -/
def State.bayCores (s : State) (l : Launch) (bay : Nat) : List Nat :=
  let free := ((List.range 8).map (fun i => bay * 8 + i)).filter (s.usable l.key)
  let kept := free.filter (fun n => (s.core n).lastLaunch == some l.key)
  let others := free.filter (fun n => (s.core n).lastLaunch != some l.key)
  let limit := if l.accKiB = 0 then 8 else (512 - s.bayReserved bay) / l.accKiB
  let cores := kept ++ others.take limit
  sortBy (fun (a b : Nat) => a ≤ b) (cores.take (cores.length / l.gangSize * l.gangSize))

/-- The second-level TLB entries of a truss that belong to a context (R86). -/
def State.tlbCount (s : State) (truss ctx : Nat) : Nat :=
  (s.l2tlb.filter (fun x => x.1 == truss && x.2.ctx.toNat == ctx)).length

/-- The cores a launch may use, in the placer's order (R86): whole free bays before partly free ones (step 1), and among
the bays of each kind those of the truss that can hold n units and has most translations of the context first (step 5), the
steps taken in their order, DEDUCED (log 39); then by number. -/
def State.placeOrder (s : State) (p : Partition) (l : Launch) (n : Nat) : List Nat :=
  let bays := (sortBy (fun (a b : Nat) => a ≤ b) p.trusses).map (fun t => (t, (List.range 8).map (fun b => (t * 8 + b, s.bayCores l (t * 8 + b)))))
  let count := fun (bs : List (Nat × List Nat)) => sumNat (bs.map (fun b => b.2.length))
  let able := bays.filter (fun t => decide (n ≤ count t.2))
  let best := able.foldl (fun (m : Option Nat) t => match m with
    | none => some t.1
    | some x => if s.tlbCount x l.ctx < s.tlbCount t.1 l.ctx then some t.1 else some x) none
  let ordered := (((bays.filter (fun t => some t.1 == best)) ++ (bays.filter (fun t => some t.1 != best))).map (·.2)).flatten
  let whole := fun (b : Nat × List Nat) => decide (8 ≤ ((List.range 8).filter (fun i => s.usable l.key (b.1 * 8 + i))).length)
  (((ordered.filter whole) ++ (ordered.filter (fun b => !whole b))).map (·.2)).flatten

/-- What a launch gives unit number u of it (R74 to R80). -/
def Launch.unitCfg (l : Launch) (u : Nat) (gang : List Nat) : UnitCfg where
  launch := l.key
  ctx := l.ctx
  unit := u
  nunits := l.nunits
  gangSize := l.gangSize
  gangPos := u % l.gangSize
  gang := gang
  det := l.det
  tilerec := match l.records[u]? with
    | some r => BitVec.ofNat 64 (r.rowStart * 2 ^ 32 + r.expert * 2 ^ 16 + r.rows)
    | none => 0
  tileslice := match l.records[u]? with | some r => BitVec.ofNat 64 r.slice | none => 0
  privKiB := l.privKiB
  sharedKiB := l.sharedKiB
  accKiB := l.accKiB
  kerfKiB := l.kerfKiB
  weight := l.weight
  ports := l.ports
  channels := l.channels

/-- KBACK at a unit's start (R322). -/
def Launch.kbackAt (l : Launch) (u : Nat) : Word :=
  if l.ragged ∨ l.kerfKiB = 0 then 0
  else
    let blocks := 4 * l.kerfKiB
    BitVec.ofNat 64 ((l.kback + u * blocks * 4096) / 4096 * 4096 + blocks)

/-- A core passes to a context when a launch of it is placed there: CTXID and PTROOT are bound (R41). A core that the
launch has kept from an earlier unit is the launch's already, and nothing is bound (R76, R251). DEDUCED (log 9). -/
def State.bindCore (s : State) (l : Launch) (n : Nat) : State :=
  let root := match s.ctx? l.ctx with | some x => x.ptroot | none => 0
  if (s.core n).lastLaunch = some l.key then s
  else s.updCore n (fun c => { c with sup := { c.sup with ptroot := root, ctxid := BitVec.ofNat 64 l.ctx } })

/-- A unit starts on a core with the state of R251, the supervisor's registers as they are; the stores are zero unless a
unit of the same launch used the core before (R42, R76). -/
def State.startUnit (s : State) (l : Launch) (u n : Nat) (gang : List Nat) : State :=
  let c := s.core n
  let same := c.lastLaunch == some l.key
  let s := if same then s else s.zeroRange (localKey n 0) (localKey (n + 1) 0)
  let mask : Word := BitVec.ofNat 64 (sumNat (l.channels.map (fun ch => 2 ^ ch)))
  let core : Core := { Core.fresh n with
    run := .running
    pc := l.startPc
    sup := c.sup
    user := { UserRegs.reset with bmask := mask, kback := l.kbackAt u }
    unit := some (l.unitCfg u gang)
    lastLaunch := some l.key
    accum := if same then c.accum else []
    accumBad := if same then c.accumBad else []
    wdBase := s.cycle }
  (s.setCore n core).setPlace l.key u (.on n)

/-- Lists of a given length, in order. -/
def chunks (n : Nat) : Nat → List Nat → List (List Nat)
  | 0, _ => []
  | f + 1, l => if l.isEmpty then [] else l.take n :: chunks n f (l.drop n)

/-- Units start gang by gang on cores (R80, R86). -/
def State.startUnits (s : State) (l : Launch) (units cores : List Nat) : State :=
  let gangs := chunks l.gangSize cores.length cores
  let pairs := (units.zip cores).zipIdx
  pairs.foldl (fun s x => (s.bindCore l x.1.2).startUnit l x.1.1 x.1.2 (if l.gangSize = 1 then [] else nth [] gangs (x.2 / l.gangSize))) s

/-- The units a launch creates when its placing begins: those of its non-zero records, or the unit count (R77, R80). -/
def Launch.created (l : Launch) : List Nat :=
  if l.ragged then (List.range l.unitCount).filter (fun i => match l.records[i]? with | some r => decide (0 < r.rows) | none => false)
  else List.range l.unitCount

/-- The launch holds the placer once it is its head: it is ready or in part placed. -/
def Launch.waits (l : Launch) : Bool := l.state == .ready || l.state == .placing

/-- The head of the launch queues (R85): a ready launch that has no unit to place completes at once (R77); else the head
chosen before, which holds the placer until every one of its units has been placed; else the oldest ready launch of the
highest effective priority. -/
def Partition.headLaunch (p : Partition) : Option Launch :=
  match p.launches.find? (fun l => l.state == .ready && l.created.isEmpty) with
  | some l => some l
  | none =>
    match p.head.bind (fun k => p.launches.find? (fun l => l.key == k && l.waits)) with
    | some l => some l
    | none =>
      let prio := fun (l : Launch) => if l.aged then 15 else l.prio
      (p.launches.filter Launch.waits).foldl (fun (m : Option Launch) l => match m with
        | none => some l
        | some x => if prio x < prio l ∨ (prio x = prio l ∧ l.readySeq < x.readySeq) then some l else some x) none

/-- What the placer does next for a head launch: the units it creates or has created, NUNITS, and which of them go where
now; none while it must wait (R79, R80). -/
def State.placement (s : State) (p : Partition) (l : Launch) : Option (List (Nat × UnitPlace) × Nat × List Nat × List Nat) :=
  if l.persistent && !l.det then
    let cores := (s.placeOrder p l l.unitCount).take l.unitCount
    if cores.isEmpty then none
    else
      let units := List.range cores.length
      some (units.map (fun u => (u, .unplaced)), cores.length, units, cores)
  else
    let all := if l.state = .placing then l.units else l.created.map (fun u => (u, UnitPlace.unplaced))
    let todo := (all.filter (fun u => u.2 == .unplaced)).map (·.1)
    let cores := (s.placeOrder p l todo.length).take todo.length
    if l.det && decide (cores.length < todo.length) then none
    else if cores.isEmpty && !todo.isEmpty then none
    else some (all, l.unitCount, todo.take cores.length, cores)

/-- The placer can do something: place units, or take a new head. -/
def State.canPlace (s : State) (part : Nat) : Bool :=
  match s.part? part with
  | some p => (match p.headLaunch with
    | some l => (s.placement p l).isSome || (p.head != some l.key && !l.created.isEmpty)
    | none => false)
  | none => false

/-- The placer's head is a launch, or none. -/
def State.setHead (s : State) (part : Nat) (k : Option LaunchKey) : State := s.updPart part (fun p => { p with head := k })

/-- PLACE_LAUNCH (R79, R80, R85, R86): the placer serves the head launch, which stays its head until its last unit has been
placed; a context's first launch makes it resident (R41). -/
def State.place (s : State) (part : Nat) : State :=
  match s.part? part with
  | none => s
  | some p =>
    match p.headLaunch with
    | none => s
    | some l =>
      match s.placement p l with
      | none => s.setHead part (some l.key)
      | some (all, nunits, units, cores) =>
        let rest := (all.filter (fun u => u.2 == .unplaced)).length - units.length
        let l := { l with units := all, nunits := nunits, state := if rest = 0 then .placed else .placing }
        let s := if all.isEmpty then s else s.setHead part (if rest = 0 then none else some l.key)
        let s := s.updLaunch l.key (fun _ => l)
        let s := s.updCtx l.ctx (fun x => { x with state := if x.state = .loading then .resident else x.state })
        (s.startUnits l units cores).settleLaunch l.key

/-! ## The commands -/

/-- The counter CNTWAIT or CANCEL names: its status and whether it has completed. -/
def State.counterState (s : State) (c : Core) (level key index : Nat) : Option (Nat × Bool) :=
  match s.partOf c.id with
  | none => none
  | some p =>
    if level = 1 then
      match s.launch? { part := p.id, ctx := c.ctx, graph := key, index := index } with
      | some l => if l.ctx = c.ctx ∧ l.state ≠ .early then some (l.status, l.state == .complete) else none
      | none => none
    else (p.counter? c.ctx level key).map (fun x => (x.status, x.complete))

/-- CANCEL (R84, R354): status and units cancelled. A launch whose units have all ended has completed, also while its
record or its interrupt is still to come. -/
def State.cancelFor (s : State) (c : Core) (level key index : Nat) : State × Nat × Nat :=
  match s.partOf c.id with
  | none => (s, 17, 0)
  | some p =>
    if level = 0 then
      if (match (s.core key).unit with | some u => u.ctx == c.ctx | none => false) then
        let r := s.cancelCore key
        (r.1, 0, r.2)
      else (s, 17, 0)
    else match s.counterState c level key index with
      | none => (s, 17, 0)
      | some (_, true) => (s, 16, 0)
      | some (_, false) =>
        if level = 1 then
          match s.launch? { part := p.id, ctx := c.ctx, graph := key, index := index } with
          | some l =>
            let n := match l.state with | .placing => s.cancels l.running | .placed => s.cancels l.running | _ => 0
            if l.over then (s, 16, 0) else (s.cancelLaunch l, 0, n)
          | none => (s, 17, 0)
        else
          let r := s.cancelLevel p.id c.ctx level key
          (r.1, 0, r.2)

/-- The cores that are being zeroed. -/
def State.zeroing (s : State) : List Nat := (s.allCores.filter (fun c => c.run == .zeroing)).map (·.id)

/-- CANCEL by an entry: it ends when the cores it stopped have been released, unless the cancel covered its own unit
(R354). -/
def State.takeCancel (s : State) (cmd : CancelCmd) : State :=
  let own := s.me.unit
  let r := s.cancelFor s.me cmd.level.toNat cmd.key.toNat cmd.index.toNat
  let stopped := r.1.zeroing.filter (fun n => (s.core n).unit.isSome && !s.zeroing.contains n)
  if r.1.me.unit ≠ own then r.1
  else if stopped.isEmpty then r.1.finishHead 67 r.2.1 r.2.2
  else r.1.updMe (fun c => c.updHead 67 (fun e => { e with status := r.2.1, count := r.2.2, job := .cancel stopped }))

/-- The cores a waiting CANCEL stopped have been released (R42, R354). -/
def State.cancelOver (s : State) (e : Entry) : Bool :=
  match e.job with
  | .cancel cores => cores.all (fun n => (s.core n).run != .zeroing)
  | _ => false

/-- A CANCEL that waits at the head of the work queue ends when the cores it stopped have been released (R354). -/
def State.endCancel (s : State) (h : CmdHead) (cmd : CancelCmd) : State :=
  match s.me.headEntry 67 with
  | some e =>
    if e.state = .active ∧ e.head = h ∧ e.cmd = .cancel cmd ∧ s.cancelOver e = true then s.finishHead 67 e.status e.count else s
  | none => s

/-- RANGEINIT (R89, R353): the range unit of the issuing truss passes to the issuing context. -/
def State.takeRangeinit (s : State) (cmd : RangeinitCmd) : State :=
  let t := trussOf s.me.id
  let r : RangeUnit := ⟨t, cmd.ru.toNat, s.me.ctx, cmd.start, cmd.length.toNat, cmd.div.toNat, cmd.minc.toNat⟩
  let s : State := { s with ranges := s.ranges.filter (fun (x : RangeUnit) => !(x.truss == t && x.unit == cmd.ru.toNat)) ++ [r] }
  s.finishHead 67 0 cmd.length.toNat

/-- A CNTWAIT has nothing to wait for any more. -/
def State.cntReady (s : State) (cmd : CntwaitCmd) : Option Nat :=
  match s.counterState s.me cmd.level.toNat cmd.key.toNat cmd.index.toNat with
  | some (st, done) => if done || cmd.nowait then some st else none
  | none => some 0

/-- CNTWAIT (R81, R355): it seals if asked, then ends at once or waits for the counter. -/
def State.takeCntwait (s : State) (cmd : CntwaitCmd) : State :=
  match s.counterState s.me cmd.level.toNat cmd.key.toNat cmd.index.toNat, s.partOf s.me.id with
  | none, _ => s.finishHead 67 17 0
  | _, none => s.finishHead 67 17 0
  | some _, some p =>
    let s := if cmd.sealIt then s.changeCounter p.id s.me.ctx cmd.level.toNat cmd.key.toNat (fun c => { c with sealed := true }) else s
    match s.cntReady cmd with
    | some st => s.finishHead 67 0 st
    | none => s

/-- A CNTWAIT that waits at the head of the work queue ends when its counter has completed. -/
def State.endCntwait (s : State) (h : CmdHead) (cmd : CntwaitCmd) : State :=
  match s.me.headEntry 67 with
  | some e =>
    if e.state = .active ∧ e.head = h ∧ e.cmd = .cntwait cmd then
      match s.cntReady cmd with
      | some st => s.finishHead 67 0 st
      | none => s
    else s
  | none => s

/-- LAUNCH (R352). -/
def execLaunch (h : CmdHead) (c : LaunchCmd) (s : State) : Host.Outcome State Fault Refusal :=
  event (fun s => s.takeHead 67 h (.launch c) (fun _ s => s.takeLaunch h c)) s

/-- RANGEINIT (R353). -/
def execRangeinit (h : CmdHead) (c : RangeinitCmd) (s : State) : Host.Outcome State Fault Refusal :=
  event (fun s => s.takeHead 67 h (.rangeinit c) (fun _ s => s.takeRangeinit c)) s

/-- CANCEL (R354): taken up at its head, and ended when the cores it stopped have been released. -/
def execCancel (h : CmdHead) (c : CancelCmd) (s : State) : Host.Outcome State Fault Refusal :=
  event (fun s => (s.takeHead 67 h (.cancel c) (fun _ s => s.takeCancel c)).endCancel h c) s

/-- CNTWAIT (R355): taken up at its head, and ended when its counter has completed. -/
def execCntwait (h : CmdHead) (c : CntwaitCmd) (s : State) : Host.Outcome State Fault Refusal :=
  event (fun s => (s.takeHead 67 h (.cntwait c) (fun _ s => s.takeCntwait c)).endCntwait h c) s

/-- LAUNCH_AGING (R85): launches ready for 2^20 cycles take effective priority 15. -/
def execLaunchAging (part : Nat) (s : State) : Host.Outcome State Fault Refusal :=
  event (fun s => s.updPart part (fun p => { p with launches := p.launches.map (fun l =>
    if l.state == .ready && decide (2 ^ 20 ≤ s.cycle - l.readyAt) then { l with aged := true } else l) })) s

/-- PLACE_LAUNCH (R86). -/
def execPlaceLaunch (part : Nat) (s : State) : Host.Outcome State Fault Refusal := event (fun s => s.place part) s

/-- DEPENDENCE_COUNT_WRITE (R82): firmware writes a blocked launch's count. -/
def execDependenceCountWrite (part : Nat) (graph : CtxGraph) (index count : Nat) (s : State) : Host.Outcome State Fault Refusal :=
  event (fun s =>
    let k : LaunchKey := { part := part, ctx := graph.ctx, graph := graph.graph, index := index }
    (s.updLaunch k (fun l => if l.state = .blocked then { l with depCount := (count : Int) } else l)).checkReady k) s

end Sys2Proof.Machine
end

