-- ==== Sys2Proof/Machine/CopyEng.lean ====
section
/-!
DEFINITION. The copy engine (R88, R103 to R105, R108, R182, R203, R338 to R347): the head checks and blocks of the
copy-class commands, and the one packet at a time that a channel moves.
-/
namespace Sys2Proof.Machine

open Sys2Proof

/-! ## Accesses of one packet -/

/-- A result, or what an access met and where. -/
abbrev Served := Except (EngRes × Nat)

/-- Read bytes for the current core. -/
def State.eget (s : State) (va n : Nat) : Served (List Byte) :=
  match s.engLoad s.me va n with
  | .ok bs => .ok bs
  | .error r => .error (r, va)

/-- Write bytes for the current core. -/
def State.eput (s : State) (va : Nat) (bs : List Byte) : Served State :=
  match s.engStore s.me.id va bs with
  | .ok t => .ok t
  | .error (r, _) => .error (r, va)

/-- The current core's context has reached n bytes. -/
def State.seen (s : State) (va n : Nat) : State := s.touch s.me va n

/-- Move bytes of one packet. -/
def State.emove (s : State) (src dst n : Nat) : Served State := do
  let bs ← s.eget src n
  (s.seen src n).eput dst bs

/-- The length of the next packet: 64 bytes at most, inside one page on both sides (R340). -/
def packetLen (rem src dst : Nat) : Nat := min (min 64 rem) (min (65536 - src % 65536) (65536 - dst % 65536))

/-- Replace a queue's head entry. -/
def State.putHead (s : State) (q : Nat) (e : Entry) : State := s.updMe (fun c => c.updHead q (fun _ => e))

/-- An entry after n more bytes of its loop; it ends with its last (R108). COPYG still reads its generation word (R346). -/
def movedOn (e : Entry) (n rows src dst : Nat) : Entry :=
  let e1 : Entry := { e with
    state := .active
    kick := false
    since := 0
    pos := e.pos + n
    moved := e.moved + rows
    srcAddr := BitVec.ofNat 64 src
    dstAddr := BitVec.ofNat 64 dst }
  let last := decide (e1.total ≤ e1.pos) && (match e.cmd with | .copyg _ => false | _ => true)
  if last then e1.finish 0 e1.moved else e1

/-- A packet of n bytes has been written at an address, and src and dst are where the next begins: bound bytes land as they
do, judged by where they were written (R105, R337). -/
def State.afterMove (s : State) (q : Nat) (e : Entry) (at' n rows src dst : Nat) : State :=
  (s.landFor e at' n).putHead q (movedOn e n rows src dst)

/-! ## Head checks -/

/-- A range touches the trigger window (R57, R340). -/
def triggerHit (a n : Nat) : Bool := overlaps a n (11 * 2 ^ 44) 32768

/-- A source and a destination range of a head check: no trigger-window address, no overlap (R340). -/
def rangesOk (ins outs : List (Nat × Nat)) : Bool :=
  (ins ++ outs).all (fun r => !triggerHit r.1 r.2) && outs.all (fun o => ins.all (fun i => !overlaps i.1 i.2 o.1 o.2))

/-- No two output ranges overlap (R199). -/
def outsApart : List (Nat × Nat) → Bool
  | [] => true
  | o :: rest => rest.all (fun p => !overlaps o.1 o.2 p.1 p.2) && outsApart rest

/-- The peer context of a package (R341, R383). -/
def State.peerOf (s : State) (ctx pkg : Nat) : Option Nat := (s.ctx? ctx).bind (fun x => (x.peers.find? (fun p => p.1 == pkg)).map (·.2))

/-- The accumulator words of a core's allotment (R189). -/
def Core.accWords (c : Core) : Nat := match c.unit with | some u => u.accKiB * 256 | none => 0

/-- The head checks that the word alone allows. -/
def State.copyHeadOk (s : State) (cmd : Cmd) : Bool :=
  match cmd with
  | .copy c =>
    if c.rp then !triggerHit c.src.toNat c.len.toNat && c.pkg.toNat != s.pkgId && (s.peerOf s.me.ctx c.pkg.toNat).isSome &&
      decide (c.dst.toNat < 2 ^ 47)
    else rangesOk [(c.src.toNat, c.len.toNat)] [(c.dst.toNat, c.len.toNat)]
  | .copynd c => !triggerHit c.desc.toNat 64
  | .gathr c => !triggerHit c.parm.toNat 32
  | .scatr c => !triggerHit c.parm.toNat 64
  | .fill c => !triggerHit c.dst.toNat c.len.toNat
  | .feeda c => !triggerHit c.src.toNat c.len.toNat
  | .feedb c => !triggerHit c.src.toNat c.len.toNat
  | .copyg c => !triggerHit c.parm.toNat 32
  | .drain c =>
    let a := s.me.accWords
    decide (a ≠ 0) && decide (c.abase.toNat + (c.rows.toNat - 1) * c.apitch.toNat + c.words.toNat ≤ a) &&
      decide (c.dst.toNat % 2 ^ 18 + (c.rows.toNat - 1) * c.dpitch.toNat + 4 * c.words.toNat ≤ 0x40000)
  | _ => true

/-- LEN = 0 or N = 0 completes at once (R340). -/
def cmdEmpty : Cmd → Bool
  | .copy c => c.len == 0
  | .gathr c => c.n == 0
  | .fill c => c.len == 0
  | .feeda c => c.len == 0
  | .feedb c => c.len == 0
  | .copyg c => c.len == 0
  | _ => false

/-! ## COPYND (R342) -/

/-- The bytes read and the bytes written have one in common. Boxes that lie apart decide it without the rows. -/
def NdDesc.overlap (d : NdDesc) : Bool :=
  let a := ndBox d.src d.e0 d.e1 d.e2 d.ss1 d.ss2
  let b := ndBox d.dst d.e0 d.e1 d.e2 d.ds1 d.ds2
  if 0 ≤ a.1 ∧ a.2 ≤ 2 ^ 64 ∧ 0 ≤ b.1 ∧ b.2 ≤ 2 ^ 64 ∧ (a.2 ≤ b.1 ∨ b.2 ≤ a.1) then false
  else d.anyRow (fun c b => d.anyRow (fun c' b' => overlaps (d.srcRow c b) d.e0 (d.dstRow c' b') d.e0))

/-- A row touches the trigger window. -/
def NdDesc.triggers (d : NdDesc) : Bool :=
  let a := ndBox d.src d.e0 d.e1 d.e2 d.ss1 d.ss2
  let b := ndBox d.dst d.e0 d.e1 d.e2 d.ds1 d.ds2
  let apart : Int × Int → Bool := fun x => decide (0 ≤ x.1) && (decide (x.2 ≤ 11 * 2 ^ 44) || (decide (11 * 2 ^ 44 + 32768 ≤ x.1) && decide (x.2 ≤ 2 ^ 64)))
  if apart a && apart b then false
  else d.anyRow (fun c b => triggerHit (d.srcRow c b) d.e0 || triggerHit (d.dstRow c b) d.e0)

/-- Its limits (R342). -/
def NdDesc.ok (d : NdDesc) : Bool :=
  let lim : Nat → Bool := fun e => decide (1 ≤ e) && decide (e ≤ 2 ^ 24)
  lim d.e0 && lim d.e1 && lim d.e2 && !d.triggers && !d.overlap

/-! ## Blocks read when the entry becomes active (R338) -/

/-- The entry has its block: it goes on with a job, or ends with status 2. -/
def State.withJob (s : State) (q : Nat) (e : Entry) (ok : Bool) (job : Job) (src dst : Nat) : State :=
  let e1 : Entry := { e with
    state := .active
    kick := false
    since := 0
    job := job
    srcAddr := BitVec.ofNat 64 src
    dstAddr := BitVec.ofNat 64 dst }
  s.putHead q (if ok then e1 else e1.finish 2 0)

/-- ROWB's limits (R203, R343). -/
def rowbOk (n : Nat) : Bool := decide (8 ≤ n) && decide (n ≤ 65536) && decide (n % 8 = 0)

/-- COPYND's descriptor. -/
def State.prepareNd (s : State) (q : Nat) (e : Entry) (c : CopyndCmd) : Served State := do
  let bs ← s.eget c.desc.toNat 64
  let d := ndOf bs
  pure ((s.seen c.desc.toNat 64).withJob q e (blkZero bs 28 4 && d.ok) (.nd d) d.src d.dst)

/-- GATHR's block (R343): indices and source rows are inputs, the destination rows outputs. -/
def State.prepareGathr (s : State) (q : Nat) (e : Entry) (c : GathrCmd) : Served State := do
  let bs ← s.eget c.parm.toNat 32
  let p : RowParm := { idx := blk8 bs 0, offs := 0, src := blk8 bs 8, dst := blk8 bs 16, imap := 0, rowb := blk4 bs 24, nsrc := blk4 bs 28 }
  let n := c.n.toNat
  let ok := p.idx % 4 == 0 && rowbOk p.rowb && rangesOk [(p.idx, 4 * n), (p.src, p.nsrc * p.rowb)] [(p.dst, n * p.rowb)]
  pure ((s.seen c.parm.toNat 32).withJob q e ok (.rows p none) p.src p.dst)

/-- A block that has been read is kept: what is read after it is read with this copy (R338). -/
def State.keepBlock (s : State) (q : Nat) (e : Entry) (va : Nat) (bs : List Byte) : State :=
  (s.seen va bs.length).withJob q e true (.blocks [bs]) e.srcAddr.toNat e.dstAddr.toNat

/-- SCATR's own copy of the offsets, its block being read (R203, R343, R199). -/
def State.prepareScatr (s : State) (q : Nat) (e : Entry) (c : ScatrCmd) (bs : List Byte) : Served State := do
  let p : RowParm := { idx := blk8 bs 0, offs := blk8 bs 8, src := blk8 bs 16, dst := blk8 bs 24, imap := blk8 bs 32, rowb := blk4 bs 40, nsrc := 0 }
  let n := c.ntok.toNat
  let ne := c.ne.toNat
  if p.idx % 2 = 0 ∧ p.offs % 4 = 0 ∧ p.imap % 4 = 0 ∧ rowbOk p.rowb ∧ blkZero bs 44 20 ∧
      !([(p.idx, 2 * n), (p.offs, 4 * (ne + 1)), (p.src, n * p.rowb)].any (fun r => triggerHit r.1 r.2)) then do
    let os ← s.eget p.offs (4 * (ne + 1))
    let next := (List.range (ne + 1)).map (fun i => blk4 os (4 * i))
    let rows := nth 0 next ne
    let outs := (p.dst, rows * p.rowb) :: (if p.imap = 0 then [] else [(p.imap, 4 * rows)])
    let ok := rangesOk [(p.idx, 2 * n), (p.offs, 4 * (ne + 1)), (p.src, n * p.rowb)] outs && outsApart outs
    pure ((s.seen p.offs os.length).withJob q e ok (.scatter p next none) p.src p.dst)
  else pure (s.withJob q e false .none 0 0)

/-- COPYG's first read of the generation word, its block being read: a mismatch ends it with status 4, nothing moved
(R346). -/
def State.prepareGen (s : State) (q : Nat) (e : Entry) (c : CopygCmd) (bs : List Byte) : Served State := do
  let src := blk8 bs 0
  let dst := blk8 bs 8
  let ga := blk8 bs 16
  let n := c.len.toNat
  if ga % 8 = 0 ∧ rangesOk [(src, n), (ga, 8)] [(dst, n)] then do
    let g ← s.eget ga 8
    let s := (s.seen ga 8).withJob q e true (.gen src dst ga (BitVec.ofNat 64 (blk8 bs 24))) src dst
    if leVal g = blk8 bs 24 then pure s else pure (s.finishHead q 4 0)
  else pure (s.withJob q e false .none 0 0)

/-- The jig's entries (R104). -/
def jigEntry (bs : List Byte) (i : Nat) : JigEntry where
  slot := blk4 bs (16 * i)
  target := blk2 bs (16 * i + 4)
  bytes := 64 * blk2 bs (16 * i + 6)
  soff := blk4 bs (16 * i + 8)
  doff := blk4 bs (16 * i + 12)

/-- The limits of the entries (R104, R105). -/
def jigOk : Nat → List JigEntry → Bool
  | _, [] => true
  | prev, e :: rest => decide (prev ≤ e.slot) && decide (e.target < 4096) && decide (64 ≤ e.bytes) && decide (e.bytes ≤ 4096 * 64) &&
      decide (e.soff % 64 = 0) && decide (e.doff % 64 = 0) && decide (e.soff + e.bytes ≤ 0x40000) && decide (e.doff + e.bytes ≤ 0x40000) &&
      jigOk e.slot rest

/-- XSCHED reads and checks the whole jig; a failure is an engine fault of cause 14 before any byte moves (R105, R347). -/
def State.prepareJig (s : State) (q : Nat) (e : Entry) (c : XschedCmd) : State :=
  let bad := s.putHead q (e.fail 14 (c.jig.zeroExtend 64))
  match s.engLoad s.me c.jig.toNat 16 with
  | .error _ => bad
  | .ok h =>
    let n := blk2 h 0
    let st := blk2 h 2 % 256
    let ch := st % 32
    if n < 1 ∨ 4096 < n ∨ st / 32 % 4 ≠ 0 ∨ !blkZero h 3 13 ∨ (128 ≤ st ∧ !s.me.holds ch) then bad
    else match s.engLoad s.me (c.jig.toNat + 16) (16 * n) with
      | .error _ => bad
      | .ok bs =>
        let es := (List.range n).map (jigEntry bs)
        if !jigOk 0 es then bad
        else
          let await := if st < 128 then none else (s.channel? ch).map (fun x => (ch, x.epoch))
          s.withJob q e true (.jig es await (if await.isNone then some s.cycle else none) 0 false) (c.jig.toNat / 2 ^ 18 * 2 ^ 18) 0

/-! ## One packet of each command -/

/-- A plain move of a contiguous range (COPY, COPYG). -/
def State.serveRange (s : State) (q : Nat) (e : Entry) (src dst : Nat) : Served State := do
  let a := src + e.pos
  let b := dst + e.pos
  let n := packetLen e.remaining a b
  let t ← s.emove a b n
  pure (t.afterMove q e b n n (a + n) (b + n))

/-- COPY to another package (R341): one packet at a time is read here and handed to the link; it counts as moved when the
other package has answered. -/
def State.serveRemote (s : State) (q : Nat) (e : Entry) (c : CopyCmd) : Served State := do
  if e.remaining = 0 then pure s
  else
    let a := c.src.toNat + e.pos
    let b := c.dst.toNat + e.pos
    let n := packetLen e.remaining a b
    let bs ← s.eget a n
    let (id, next) := match e.job with
      | .remote id _ => (id, s.stamp)
      | _ => (s.stamp, s.stamp + 1)
    let e1 : Entry := { e with
      state := .active
      kick := false
      since := 0
      srcAddr := BitVec.ofNat 64 a
      dstAddr := BitVec.ofNat 64 b
      job := .remote id n }
    let msg := OutMsg.copyWrite c.pkg.toNat ((s.peerOf s.me.ctx c.pkg.toNat).getD 0) id b bs
    pure ((({ (s.seen a n) with stamp := next } : State).send ((s.partOf s.me.id).map (·.id)) msg).putHead q e1)

/-- The answer of the other package to the packet of a copy that is on its way (R110, R341): its bytes have moved, and the
last of them end the entry; or it met a fault, which ends the entry with status 3 and the remote cause, and what has not
been written is the remainder. -/
def Entry.answered (e : Entry) (id n : Nat) (fault : Option (Nat × Nat)) : Entry :=
  match e.job with
  | .remote i out =>
    if i ≠ id ∨ out = 0 ∨ e.state = .finishing then e
    else match fault with
      | some f => { e with job := .remote i 0 }.fail f.1 (BitVec.ofNat 64 f.2)
      | none => movedOn { e with job := .remote i 0 } n n (e.srcAddr.toNat + n) (e.dstAddr.toNat + n)
  | _ => e

/-- An answer from another package reaches the entry it is for, on its core or in its image (R341). -/
def State.copyAnswer (s : State) (id n : Nat) (fault : Option (Nat × Nat)) : State :=
  s.mapUnits (fun c => { c with entries := c.entries.map (fun e => e.answered id n fault) })

/-- FILL (R344): the byte at address a receives byte a mod 8 of the pattern. -/
def State.serveFill (s : State) (q : Nat) (e : Entry) (c : FillCmd) : Served State := do
  let b := c.dst.toNat + e.pos
  let n := packetLen e.remaining 0 b
  let pat := leBytes 8 c.pat.toNat
  let t ← s.eput b ((List.range n).map (fun i => nth 0 pat ((b + i) % 8)))
  pure (t.afterMove q e b n n 0 (b + n))

/-- COPYND (R342): the loop's next bytes, inside one row. -/
def State.serveNd (s : State) (q : Nat) (e : Entry) (d : NdDesc) : Served State := do
  let at' := fun (pos : Nat) => (pos / (d.e0 * d.e1), pos / d.e0 % d.e1, pos % d.e0)
  let (c, b, a) := at' e.pos
  let src := d.srcRow c b + a
  let dst := d.dstRow c b + a
  let n := packetLen (d.e0 - a) src dst
  let t ← s.emove src dst n
  let (c, b, a) := at' (e.pos + n)
  pure (t.afterMove q e dst n n (d.srcRow c b + a) (d.dstRow c b + a))

/-- The rest of a row in progress, and the row's end. -/
def State.serveRow (s : State) (q : Nat) (e : Entry) (src dst rowb : Nat) (after : Job) : Served State := do
  let a := src + e.pos % rowb
  let b := dst + e.pos % rowb
  let n := packetLen (rowb - e.pos % rowb) a b
  let t ← s.emove a b n
  let ends := (e.pos + n) % rowb = 0
  pure (t.afterMove q { e with job := if ends then after else e.job } b n (if ends then 1 else 0) (a + n) (b + n))

/-- A row that is not moved: nothing lands, nothing is counted. -/
def State.skipRow (s : State) (q : Nat) (e : Entry) (rowb : Nat) : State :=
  s.putHead q (movedOn e rowb 0 e.srcAddr.toNat e.dstAddr.toNat)

/-- GATHR (R343): at a row's start its index is read. -/
def State.serveGathr (s : State) (q : Nat) (e : Entry) (p : RowParm) (row : Option Nat) : Served State := do
  let j := e.pos / p.rowb
  let dst := p.dst + j * p.rowb
  match row with
  | some i => s.serveRow q e (p.src + i * p.rowb) dst p.rowb (.rows p none)
  | none =>
    let bs ← s.eget (p.idx + 4 * j) 4
    let i := leVal bs
    let s := s.seen (p.idx + 4 * j) 4
    if i < p.nsrc then pure (s.withJob q e true (.rows p (some i)) (p.src + i * p.rowb) dst)
    else pure (s.skipRow q e p.rowb)

/-- SCATR (R203): at a row's start its expert is read, the offset taken, and the index map written. -/
def State.serveScatr (s : State) (q : Nat) (e : Entry) (c : ScatrCmd) (p : RowParm) (next : List Nat) (row : Option Nat) : Served State := do
  let t := e.pos / p.rowb
  let ne := c.ne.toNat
  match row with
  | some r => s.serveRow q e (p.src + t * p.rowb) (p.dst + r * p.rowb) p.rowb (.scatter p next none)
  | none =>
    let bs ← s.eget (p.idx + 2 * t) 2
    let s := s.seen (p.idx + 2 * t) 2
    let x := leVal bs
    if ne ≤ x then pure (s.skipRow q e p.rowb)
    else
      let r := nth 0 next x
      let next' := setNth x ((r + 1) % 2 ^ 32) next
      if nth 0 next ne ≤ r then pure (s.skipRow q { e with job := .scatter p next' none } p.rowb)
      else do
        let s1 ← if p.imap = 0 then pure s else s.eput (p.imap + 4 * r) (leBytes 4 t)
        let s2 := if p.imap = 0 then s1 else s1.landFor e (p.imap + 4 * r) 4
        pure (s2.withJob q e true (.scatter p next' (some r)) (p.src + t * p.rowb) (p.dst + r * p.rowb))

/-- The free bytes of a FIFO (R181). -/
def Fifo.room (f : Fifo) : Nat := 65536 - f.bytes.length

/-- FEEDA and FEEDB (R182, R344). -/
def State.serveFeed (s : State) (q : Nat) (e : Entry) (isB : Bool) (src : Nat) : Served State := do
  let f := if isB then s.me.fifoB else s.me.fifoA
  let a := src + e.pos
  let n := packetLen (min e.remaining f.room) a 0
  let bs ← s.eget a n
  let g : Fifo := { f with bytes := f.bytes ++ bs }
  let t := (s.seen a n).updMe (fun c => if isB then { c with fifoB := g } else { c with fifoA := g })
  pure (t.afterMove q e (9 * 2 ^ 44) n n (a + n) 0)

/-- An accumulator word (R189). -/
def Core.accWord (c : Core) (w : Nat) : BitVec 32 := (assoc w c.accum).getD 0

/-- DRAIN (R345): words of the allotment to the local store; a word with an uncorrectable error is cause 22. -/
def State.serveDrain (s : State) (q : Nat) (e : Entry) (c : DrainCmd) : Served State := do
  let rowBytes := 4 * c.words.toNat
  let r := e.pos / rowBytes
  let o := e.pos % rowBytes
  let dst := c.dst.toNat + r * c.dpitch.toNat + o
  let n := packetLen (rowBytes - o) 0 dst
  let ws := (List.range (n / 4)).map (fun i => c.abase.toNat + r * c.apitch.toNat + o / 4 + i)
  let good := ws.takeWhile (fun w => !s.me.accumBad.contains w)
  if good.isEmpty then .error (.fault 22, dst)
  else do
    let m := 4 * good.length
    let t ← s.eput dst (good.flatMap (fun w => leBytes 4 (s.me.accWord w).toNat))
    pure (t.afterMove q e dst m m 0 (dst + m))

/-- COPYG: its bytes, then the second read of the generation word (R346). -/
def State.serveGen (s : State) (q : Nat) (e : Entry) (src dst ga : Nat) (word : Word) : Served State := do
  if 0 < e.remaining then s.serveRange q e src dst
  else
    let g ← s.eget ga 8
    pure ((s.seen ga 8).putHead q (e.finish (if leVal g = word.toNat then 0 else 4) e.moved))

/-- XSCHED: the entry in progress, as a global-window write to its target (R105). -/
def State.serveJig (s : State) (q : Nat) (e : Entry) (es : List JigEntry) (await : Option (Nat × Nat)) (start : Option Nat) (cur : Nat) :
    Served State :=
  match es[cur]? with
  | none => pure (s.putHead q (e.finish 0 e.moved))
  | some x => do
    let off := e.pos - sumNat ((es.take cur).map (·.bytes))
    let src := 9 * 2 ^ 44 + x.soff + off
    let dst := 8 * 2 ^ 44 + x.target * 2 ^ 20 + x.doff + off
    let n := packetLen (x.bytes - off) src dst
    let t ← s.emove src dst n
    let ends := off + n = x.bytes
    pure (t.afterMove q { e with job := if ends then .jig es await start (cur + 1) false else e.job } dst n n (src + n) (dst + n))

/-- The next piece of work of a copy channel's head entry. -/
def State.serveEntry (s : State) (q : Nat) (e : Entry) : Served State :=
  match e.cmd, e.job with
  | .copy c, _ => if c.rp then s.serveRemote q e c else s.serveRange q e c.src.toNat c.dst.toNat
  | .fill c, _ => s.serveFill q e c
  | .feeda c, _ => s.serveFeed q e false c.src.toNat
  | .feedb c, _ => s.serveFeed q e true c.src.toNat
  | .drain c, _ => s.serveDrain q e c
  | .copynd _, .nd d => s.serveNd q e d
  | .copynd c, _ => s.prepareNd q e c
  | .gathr _, .rows p row => s.serveGathr q e p row
  | .gathr c, _ => s.prepareGathr q e c
  | .scatr c, .scatter p next row => s.serveScatr q e c p next row
  | .scatr c, .blocks (bs :: _) => s.prepareScatr q e c bs
  | .scatr c, _ => (s.eget c.parm.toNat 64).map (s.keepBlock q e c.parm.toNat)
  | .copyg _, .gen src dst ga w => s.serveGen q e src dst ga w
  | .copyg c, .blocks (bs :: _) => s.prepareGen q e c bs
  | .copyg c, _ => (s.eget c.parm.toNat 32).map (s.keepBlock q e c.parm.toNat)
  | .xsched _, .jig es await start cur true => s.serveJig q e es await start cur
  | .xsched _, .jig _ _ _ _ false => pure s
  | .xsched c, _ => pure (s.prepareJig q e c)
  | _, _ => pure s

/-- The head entry of a copy channel does its next piece, or meets what stops it (R108). -/
def State.servePiece (s : State) (q : Nat) : State :=
  match s.me.headEntry q with
  | none => s
  | some e => match s.serveEntry q e with
    | .ok t => t
    | .error (r, va) => s.engineMet q r va

/-- The commands of a copy channel whose block names more to be read before anything moves (R203, R346). -/
def readsTwice : Cmd → Bool
  | .scatr _ => true
  | .copyg _ => true
  | _ => false

/-- The head entry of a queue holds a block it has read and still reads what the block names (R338). -/
def Core.readsOn (c : Core) (q : Nat) : Bool :=
  match c.headEntry q with
  | some e => (match e.job with | .blocks _ => decide (e.state = .active) && readsTwice e.cmd | _ => false)
  | none => false

/-- One service of a copy channel: a piece of its head entry; a block that has just been read goes with what it names. -/
def State.serveChannel (s : State) (q : Nat) : State :=
  let t := s.servePiece q
  if t.me.readsOn q then t.servePiece q else t

/-! ## Taking up a copy-class command -/

/-- A copy-class command becomes active (R108): the head checks, then its block. -/
def State.beginCopy (q : Nat) (e : Entry) (s : State) : State :=
  if !s.me.bindOk e.head || !s.copyHeadOk e.cmd then s.finishHead q 2 0
  else if cmdEmpty e.cmd then s.finishHead q 0 0
  else match e.cmd with
    | .copynd _ => s.serveChannel q
    | .gathr _ => s.serveChannel q
    | .scatr _ => s.serveChannel q
    | .copyg _ => s.serveChannel q
    | .xsched _ => s.serveChannel q
    | _ => s

/-- COPY (R341). -/
def execCopy (h : CmdHead) (c : CopyCmd) (s : State) : Host.Outcome State Fault Refusal :=
  event (fun s => s.takeHead c.qch.toNat h (.copy c) (State.beginCopy c.qch.toNat)) s

/-- COPYND (R342). -/
def execCopynd (h : CmdHead) (c : CopyndCmd) (s : State) : Host.Outcome State Fault Refusal :=
  event (fun s => s.takeHead c.qch.toNat h (.copynd c) (State.beginCopy c.qch.toNat)) s

/-- GATHR (R343). -/
def execGathr (h : CmdHead) (c : GathrCmd) (s : State) : Host.Outcome State Fault Refusal :=
  event (fun s => s.takeHead c.qch.toNat h (.gathr c) (State.beginCopy c.qch.toNat)) s

/-- SCATR (R203). -/
def execScatr (h : CmdHead) (c : ScatrCmd) (s : State) : Host.Outcome State Fault Refusal :=
  event (fun s => s.takeHead c.qch.toNat h (.scatr c) (State.beginCopy c.qch.toNat)) s

/-- FILL (R344). -/
def execFill (h : CmdHead) (c : FillCmd) (s : State) : Host.Outcome State Fault Refusal :=
  event (fun s => s.takeHead c.qch.toNat h (.fill c) (State.beginCopy c.qch.toNat)) s

/-- FEEDA (R182). -/
def execFeeda (h : CmdHead) (c : FeedCmd) (s : State) : Host.Outcome State Fault Refusal :=
  event (fun s => s.takeHead c.qch.toNat h (.feeda c) (State.beginCopy c.qch.toNat)) s

/-- FEEDB (R182). -/
def execFeedb (h : CmdHead) (c : FeedCmd) (s : State) : Host.Outcome State Fault Refusal :=
  event (fun s => s.takeHead c.qch.toNat h (.feedb c) (State.beginCopy c.qch.toNat)) s

/-- DRAIN (R345). -/
def execDrain (h : CmdHead) (c : DrainCmd) (s : State) : Host.Outcome State Fault Refusal :=
  event (fun s => s.takeHead c.qch.toNat h (.drain c) (State.beginCopy c.qch.toNat)) s

/-- COPYG (R346). -/
def execCopyg (h : CmdHead) (c : CopygCmd) (s : State) : Host.Outcome State Fault Refusal :=
  event (fun s => s.takeHead c.qch.toNat h (.copyg c) (State.beginCopy c.qch.toNat)) s

/-- XSCHED (R105, R347). -/
def execXsched (h : CmdHead) (c : XschedCmd) (s : State) : Host.Outcome State Fault Refusal :=
  event (fun s => s.takeHead c.qch.toNat h (.xsched c) (State.beginCopy c.qch.toNat)) s

/-! ## Service (R88) -/

/-- The FIFO a feed needs has room (R182). -/
def Core.feedRoom (c : Core) (cmd : Cmd) : Bool :=
  match cmd with
  | .feeda _ => decide (0 < c.fifoA.room)
  | .feedb _ => decide (0 < c.fifoB.room)
  | _ => true

/-- A channel's head entry has work for the engine now. -/
def Core.canServe (c : Core) (q : Nat) : Bool :=
  match c.headEntry q with
  | some e => e.state == .active && c.feedRoom e.cmd && (match e.job with
    | .jig _ _ _ _ false => false
    | .remote _ out => out == 0 && decide (0 < e.remaining)
    | _ => true)
  | none => false

/-- The next channel the copy engine serves, round-robin over its 64 channels; channel 63 is the kerf's (R88, R327). -/
def State.nextChannel (s : State) : Option Nat :=
  ((List.range 64).map (fun k => (s.me.copyTurn + k) % 64)).find? (fun q => if q = 63 then s.kerfServes else s.me.canServe q)

/-- COPY_ENGINE_SERVICE (R88): one packet of the next channel. -/
def execCopyEngineService (s : State) : Host.Outcome State Fault Refusal :=
  event (fun s => match s.nextChannel with
    | some q =>
      let t := s.updMe (fun c => { c with copyTurn := (q + 1) % 64 })
      if q = 63 then t.kerfService else t.serveChannel q
    | none => s) s

/-- FEED_SPACE_RELEASED (R182): a feed on a channel goes on once there is room. -/
def execFeedSpaceReleased (channel : Nat) (s : State) : Host.Outcome State Fault Refusal :=
  event (fun s => match s.me.headEntry channel with
    | some e => (match e.cmd with
      | .feeda _ => if s.me.canServe channel then s.serveChannel channel else s
      | .feedb _ => if s.me.canServe channel then s.serveChannel channel else s
      | _ => s)
    | none => s) s

/-- What a jig waits for next: nothing, its start episode, or a slot. -/
def State.jigDue (s : State) (q : Nat) : Bool :=
  match s.me.headEntry q with
  | some e => e.state == .active && (match e.job with
    | .jig es await start cur false => (match start with
      | some t => (match es[cur]? with | some x => decide (t + x.slot ≤ s.cycle) | none => true)
      | none => (match await with
        | some (ch, ep) => (match s.channel? ch with | some x => x.epoch != ep | none => true)
        | none => true))
    | _ => false)
  | none => false

/-- The start episode has completed, or an entry's slot has come (R105): a start episode that completed failed is an
engine fault of cause 14. -/
def State.jigStep (s : State) (q : Nat) : State :=
  match s.me.headEntry q with
  | some e => (match e.job with
    | .jig es await none cur _ =>
      let failed := match await with
        | some (ch, ep) => (match s.channel? ch with | some x => x.failedEpochs.contains ep | none => true)
        | none => false
      if failed then s.putHead q (e.fail 14 e.srcAddr) else s.putHead q { e with job := .jig es await (some s.cycle) cur false }
    | .jig es await start cur _ => s.putHead q { e with job := .jig es await start cur true }
    | _ => s)
  | none => s

/-- JIG_ENTRY_ISSUE (R105). -/
def execJigEntryIssue (channel : Nat) (s : State) : Host.Outcome State Fault Refusal :=
  event (fun s => if s.jigDue channel then s.jigStep channel else s) s

/-- A suspended channel is to be re-translated now: a TLBINV or a notice asks for it, or 4,096 cycles have passed (R108). -/
def State.retranslateDue (s : State) (q : Nat) : Bool :=
  match s.me.headEntry q with
  | some e => e.state == .suspended && (e.kick || decide (e.since + 4096 ≤ s.cycle))
  | none => false

/-- SUSPENDED_RETRANSLATE (R108): the channel goes on from its remainder, stays suspended or faults. -/
def execSuspendedRetranslate (channel : Nat) (s : State) : Host.Outcome State Fault Refusal :=
  event (fun s => if s.retranslateDue channel then s.serveChannel channel else s) s

end Sys2Proof.Machine
end

