-- ==== Sys2Proof/Machine/System.lean ====
section
/-!
DEFINITION. The SYS instructions but ECALL (R93, R254 to R263), the end of a unit (R262), and what a core does at an
instruction boundary: illegal words (R229), events and notices (R54, R72, R113), the end of an IDLE (R260).
-/
namespace Sys2Proof.Machine

open Sys2Proof

/-- ILLEGAL_INSTRUCTION (R229): the fetched word fails a check; a precise trap with the cause of the first failing one. -/
def execIllegalInstruction (cause : BitVec 5) (word : Word) (s : State) : Host.Outcome State Fault Refusal :=
  .next (s.takeTrap cause.toNat word)

/-! ## Traps and returns -/

/-- EBREAK (R256): trap(18, 0); it counts as completed. -/
def execEbreak (s : State) : Host.Outcome State Fault Refusal :=
  run .ebreak (pure ()) (fun _ s => (s.updMe Core.count).takeTrap 18 0) s

/-- SRET (R257): cause 1 at user level. -/
def execSret (s : State) : Host.Outcome State Fault Refusal :=
  run .sret (do let c ← meM; if c.super then pure () else trapWord 1)
    (fun _ s => { s with me := s.me.sret }.retireTo s.me.sret.pc) s

/-- UIRET (R258): cause 0 at supervisor level or outside the user-interrupt context. -/
def execUiret (s : State) : Host.Outcome State Fault Refusal :=
  run .uiret (do let c ← meM; if !c.super && c.sup.uia then pure () else trapWord 0)
    (fun _ s => { s with me := s.me.uiret }.retireTo s.me.uiret.pc) s

/-! ## YIELD, IDLE, MARK, IFENCE -/

/-- YIELD completes; with PREQ set the core is then saved, to resume after it (R44, R45, R95). -/
def yieldFinish (s : State) : State :=
  let t := s.retire
  if t.me.preq.isSome then t.beginSave t.me.id else t

/-- YIELD (R44, R259). -/
def execYield (s : State) : Host.Outcome State Fault Refusal := run .yield (pure ()) (fun _ s => yieldFinish s) s

/-- IDLE (R260): it completes at once when a condition holds, and parks otherwise. -/
def idleBody : M Unit := do
  let c ← meM
  if c.idleEnds || c.waitReady then pure () else stall .idle

/-- IDLE (R260). -/
def execIdle (s : State) : Host.Outcome State Fault Refusal := runI .idle idleBody s

/-- The core is parked in IDLE. -/
def Core.idles (c : Core) : Bool := match c.wait with | some w => w.kind == .idle | none => false

/-- IDLE_WAKE (R260): a parked IDLE completes. -/
def execIdleWake (s : State) : Host.Outcome State Fault Refusal :=
  if s.me.idles && s.me.idleEnds then s.endWait execIdle else .next s

/-- MARK (R55, R259): a watchdog progress event. -/
def execMark (s : State) : Host.Outcome State Fault Refusal :=
  runI .mark (change (fun s => s.updMe (fun c => c.progress s.cycle))) s

/-- IFENCE (R129, R263): the L1 instruction cache and the I-TLB are invalidated. -/
def execIfence (s : State) : Host.Outcome State Fault Refusal := runI .ifence (changeMe (fun c => { c with l1i := [], itlb := [] })) s

/-! ## SPLIT and FUSE -/

/-- The gang of a core by its launch's table: the units of it that have not ended, with their places (R80, R93). -/
def State.gangPlaces (s : State) (c : Core) : List (Nat × UnitPlace) :=
  match c.unit with
  | none => []
  | some u => match s.launch? u.launch with
    | some l => l.running.filter (fun x => decide (x.1 / u.gangSize = u.unit / u.gangSize))
    | none => []

/-- SPLIT (R93): a member of a fused gang goes on by itself; elsewhere it does nothing. -/
def splitBody : M Unit := do
  let s ← look
  if s.fused then changeMe (fun c => { c with fwd := [], user := { c.user with diverge := true } }) else pure ()

/-- The core waits at a FUSE. -/
def Core.atFuse (c : Core) : Bool := (c.run == .running) && (match c.wait with | some w => w.kind == .fuse | none => false)

/-- Every other member that has not ended waits at a FUSE. -/
def State.othersAtFuse (s : State) : Bool :=
  (s.gangPlaces s.me).all (fun x => x.1 == s.me.unitNum || (match x.2 with | .on n => (s.core n).atFuse | _ => false))

/-- The leader of the current core's gang, while it has not ended. -/
def State.leader? (s : State) : Option Core :=
  (s.gangPlaces s.me).findSome? (fun x => match s.me.unit, x.2 with
    | some u, .on n => if x.1 % u.gangSize = 0 then some (s.core n) else none
    | _, _ => none)

/-- FUSE (R93, R261): none where it does nothing; the leader's FUSE address where the last member arrives. -/
def fuseBody : M (Option Word) := do
  let s ← look
  match s.me.unit with
  | none => pure none
  | some u =>
    if u.gangSize ≤ 1 || !s.me.user.diverge then pure none
    else if (s.gangPlaces s.me).all (fun x => x.1 % u.gangSize != 0) then pure none
    else if s.othersAtFuse then
      match s.leader? with
      | some l => pure (some l.pc)
      | none => stall .fuse
    else stall .fuse

/-- The gang is fused again: every member goes on after the leader's FUSE (R93). -/
def fuseFinish (s : State) (r : Option Word) (s' : State) : State :=
  match r with
  | none => s'.retire
  | some pc => s.updCores s.gangOf (fun c =>
      { c.count with pc := pc + 4, wait := none, fwd := [], lead := none, user := { c.count.user with diverge := false } })

/-- SPLIT (R93). -/
def execSplit (s : State) : Host.Outcome State Fault Refusal := runI .split splitBody s

/-- FUSE (R93, R261). -/
def execFuse (s : State) : Host.Outcome State Fault Refusal := run .fuse fuseBody (fuseFinish s) s

/-! ## EXIT -/

/-- EXIT's checks and waits (R262). -/
def exitBody : M Unit := do
  let c ← meM
  if c.super then trapWord 0
  else if !c.batch.isEmpty && !c.batchArrived then trapWord 13
  else if c.exitReady then pure ()
  else stall .exit

/-- EXIT (R262). -/
def execExit (s : State) : Host.Outcome State Fault Refusal := run .exit exitBody (fun _ s => s.exitCore s.me.id) s

/-- UNIT_END (R262): the waits of an EXIT are over. -/
def execUnitEnd (s : State) : Host.Outcome State Fault Refusal :=
  event (fun s => if s.me.exiting then s.exitCore s.me.id else s) s

/-! ## Events at the boundary -/

/-- The oldest of the deliverable events and notices (R113). -/
inductive Delivery where
  | engine (e : EngineEvent)
  | notice (n : Notice)
  | watchdog (prod : Word)
  deriving DecidableEq, Repr

/-- What is delivered at this boundary. -/
def Core.delivery (c : Core) : Option Delivery :=
  let cands : List (Nat × Delivery) :=
    (match c.oldestEvent with | some e => [(e.stamp, .engine e)] | none => []) ++
    (match c.oldestNotice with | some n => [(n.stamp, .notice n)] | none => []) ++
    (match c.oldestWd with | some w => [(w.1, .watchdog w.2)] | none => [])
  (cands.foldl (fun (m : Option (Nat × Delivery)) x => match m with
    | none => some x
    | some y => if x.1 < y.1 then some x else some y) none).map (·.2)

/-- ASYNC_EVENT_DELIVERY (R54, R72, R112, R113): the oldest deliverable event or notice is taken, at the pc of the
instruction that has not yet issued. A WAITW that is interrupted keeps its slot, which R126 frees only when it returns. -/
def State.deliver (s : State) : State :=
  match s.me.delivery with
  | none => s
  | some d =>
    let s := (s.withdrawArrival s.me).splitGang
    s.updMe (fun c => match d with
      | .engine e =>
        let c := { c with events := c.events.filter (fun x => x.stamp != e.stamp) }
        if c.eventToUi e then c.enterUi true 14 e.value c.pc else c.enterSup true 14 e.value c.pc
      | .notice n =>
        let c : Core := { c with notices := c.notices.drop 1 }
        c.enterUi true 4 (BitVec.ofNat 64 (n.page * 2 ^ 16 + n.status)) c.pc
      | .watchdog prod => { c with wdNotice := none }.enterSup true 16 prod c.pc)

/-- ASYNC_EVENT_DELIVERY (R113). -/
def execAsyncEventDelivery (s : State) : Host.Outcome State Fault Refusal := event State.deliver s

end Sys2Proof.Machine
end

