-- ==== Sys2Proof/Machine/Platform.lean ====
section
/-!
DEFINITION. The monitor and what acts on cores from outside them: ECALL and the monitor calls (R255, R383, R384), the
deadline, saves, restores and zeroing (R41 to R45), the watchdog (R55), resends and stalled port writes (R49, R70, R101),
the host's mailbox (R381) and the scrubber's report (R386, R67).
-/
namespace Sys2Proof.Machine

open Sys2Proof

/-! ## Monitor calls (R383) -/

/-- What a monitor call gives: status, the result for g5 if there is one, the state. -/
abbrev MonRes := Nat × Option Word × State

/-- A call that fails changes nothing. -/
def refuseCall (s : State) (status : Nat) : MonRes := (status, none, s)

/-- A call of a core that belongs to a partition. -/
def State.inPart (s : State) (f : Partition → MonRes) : MonRes :=
  match s.partOf s.me.id with
  | some p => f p
  | none => refuseCall s 2

/-- The partition's context of an id, or the status that refuses it: 3 for an id that names no context, 2 for a context
of another partition (log 33). -/
def State.partCtx (s : State) (p : Partition) (id : Word) : Except Nat Context :=
  if 2 ^ 16 ≤ id.toNat then .error 3
  else match s.ctx? id.toNat with
    | some x => if x.part = p.id then .ok x else .error 2
    | none => .error 3

/-- The partition record (R382): one byte for each truss of the package. -/
def State.partRecord (s : State) (p : Partition) : List Byte :=
  (List.range 64).map (fun t =>
    let bay := (s.harvest.find? (fun h => h.1 == t)).map (·.2)
    BitVec.ofNat 8 ((if p.trusses.contains t then 0x80 else 0) + (match bay with | some b => 8 + b % 8 | none => 0)))

/-- The monitor writes bytes for the caller under its context; status 3 where that is not possible. -/
def State.monWrite (s : State) (va : Word) (bs : List Byte) : MonRes :=
  match s.engStore s.me.id va.toNat bs with
  | .ok t => (0, none, t)
  | .error _ => refuseCall s 3

/-- INFO (R382, R383). -/
def monInfo (addr : Word) (s : State) : MonRes := s.inPart (fun p => s.monWrite addr (s.partRecord p))

/-- A shared-memory page passes to an owner, zeroed when that changes (R42, R60). -/
def State.givePage (s : State) (page : Nat) (owner : Option Nat) : State :=
  let now := (s.pageOwner.find? (fun x => x.1 == page)).map (·.2)
  if now = owner then s
  else
    let k := sharedKey (page / 1024) (page % 1024 * 2 ^ 17)
    let t := s.zeroRange k (k + 2 ^ 17)
    { t with pageOwner := match owner with | some c => setAssoc page c t.pageOwner | none => delAssoc page t.pageOwner }

/-- SHMPAGE (R60, R383): context 0xFFFF releases the page. -/
def monShmpage (page ctx : Word) (s : State) : MonRes :=
  s.inPart (fun p =>
    if 4096 ≤ page.toNat then refuseCall s 3
    else if !p.pages.contains page.toNat then refuseCall s 2
    else if ctx = 0xFFFF then (0, none, s.givePage page.toNat none)
    else match s.partCtx p ctx with
      | .error e => refuseCall s e
      | .ok x => (0, none, s.givePage page.toNat (some x.id)))

/-- A price bank passes to an owner, zeroed when that changes (R42, R208). -/
def State.giveBank (s : State) (die num : Nat) (owner : Option Nat) : State :=
  match s.banks.find? (fun b => b.die == die && b.num == num) with
  | some b => { s with banks := s.banks.map (fun x => if x.die == die && x.num == num then { x with
      owner := owner, user := if b.owner = owner then x.user else none, prices := if b.owner = owner then x.prices else [] } else x) }
  | none => { s with banks := s.banks ++ [{ die := die, num := num, owner := owner, user := none, prices := [] }] }

/-- PRICEBANK (R208, R383). -/
def monPricebank (die bank ctx : Word) (s : State) : MonRes :=
  s.inPart (fun p =>
    if 4 ≤ die.toNat ∨ 16 ≤ bank.toNat then refuseCall s 3
    else if !p.banks.contains (die.toNat, bank.toNat) then refuseCall s 2
    else match s.partCtx p ctx with
      | .error e => refuseCall s e
      | .ok x => (0, none, s.giveBank die.toNat bank.toNat (some x.id)))

/-- TREE (R163, R383): a router of the partition or the hub; a reserved OP or a bit above 31 is out of range. -/
def monTree (group node entry : Word) (s : State) : MonRes :=
  s.inPart (fun p =>
    if 4096 ≤ group.toNat ∨ hubNode < node.toNat ∨ 2 ^ 32 ≤ entry.toNat ∨ 8 < bitsOf entry 30 27 then refuseCall s 3
    else if !p.groups.contains group.toNat ∨ (node.toNat ≠ hubNode ∧ !p.trusses.contains (trussOf node.toNat)) then refuseCall s 2
    else
      let key := (node.toNat, group.toNat)
      let e : BitVec 32 := entry.setWidth 32
      let rest := s.coll.tree.filter (fun x => x.1 != key)
      (0, none, { s with coll := { s.coll with tree := if e = 0 then rest else rest ++ [(key, e)] } }))

/-- SLICELEN as it reads (R48). -/
def Partition.slice (p : Partition) : Word := (if p.sliceClamped then 0x8000000000000000#64 else 0) ||| p.sliceLen.zeroExtend 64

/-- SLICE (R48, R383). -/
def monSlice (len : Word) (s : State) : MonRes :=
  s.inPart (fun p =>
    if 2 ^ 32 ≤ len.toNat then refuseCall s 3
    else
      let low := decide (len.toNat < 24000)
      let q : Partition := { p with sliceLen := if low then 24000 else len.setWidth 32, sliceClamped := low }
      (0, some q.slice, s.updPart p.id (fun _ => q)))

/-- PEER (R341, R383). -/
def monPeer (pkg remote loc : Word) (s : State) : MonRes :=
  s.inPart (fun p =>
    if 2 ^ 14 ≤ pkg.toNat ∨ 2 ^ 16 ≤ remote.toNat then refuseCall s 3
    else match s.partCtx p loc with
      | .error e => refuseCall s e
      | .ok x => (0, none, s.updCtx x.id (fun x => { x with
          peers := (pkg.toNat, remote.toNat) :: x.peers.filter (fun y => y.1 != pkg.toNat) })))

/-- The 168 bytes of a report that its signature covers (R384). -/
def State.reportBody (s : State) (p : Partition) (nonce : List Byte) : List Byte :=
  let v := match s.boot.running with | some i => i.version | none => 0
  let d := match s.boot.running with | some i => Config.sha3 i.body | none => 0
  leBytes 4 1 ++ leBytes 4 v ++ leBytes 32 d.toNat ++ leBytes 32 p.measurement.toNat ++ nonce ++ s.partRecord p

/-- ATTEST (R384): a nonce that cannot be read, or a report address that is misaligned or cannot be written, is status 3. -/
def monAttest (nonce report : Word) (s : State) : MonRes :=
  s.inPart (fun p =>
    if report.toNat % 8 ≠ 0 then refuseCall s 3
    else match s.engLoad s.me nonce.toNat 32 with
      | .error _ => refuseCall s 3
      | .ok n =>
        let body := s.reportBody p n
        s.monWrite report (body ++ (List.range 2420).map (Config.mlDsaSign (Config.sha3 body))))

/-- The set may take further cores: it is closed, or pre-empt requested (R41). -/
def Context.mayJoin (x : Context) (set : Nat) : Bool :=
  match x.set? set with
  | none => true
  | some e => e.state == .requested

/-- PREEMPT, set (R41, R43, R45, R95): the core's whole gang joins the set; those that are parked are saved at once. A
core that parks only afterwards is saved at its deadline: R45 names a core that is parked at the moment PREQ is set, where
R41 says "by parking" (DEDUCED, log 41). -/
def monPreemptSet (core set : Word) (s : State) : MonRes :=
  s.inPart (fun p =>
    if 4096 ≤ core.toNat ∨ 64 ≤ set.toNat then refuseCall s 3
    else if !p.trusses.contains (trussOf core.toNat) then refuseCall s 2
    else
      let c := s.core core.toNat
      match c.unit with
      | none => refuseCall s 5
      | some u =>
        let gang := s.gangCores c
        let ok := gang.all (fun n => ((s.core n).run == .running) && (s.core n).preq.isNone && decide (s.tagCount n < 8))
        match s.ctx? u.ctx with
        | none => refuseCall s 5
        | some x =>
          if !ok ∨ x.state ≠ .resident ∨ !x.mayJoin set.toNat then refuseCall s 5
          else
            let t := s.joinSet u.ctx set.toNat gang
            (0, none, t.beginSaves (gang.filter (fun n => (t.core n).parked))))

/-- PREEMPT, clear (R41, R43, R55, R383): the core's gang leaves its set, and what the watchdog asked of it with it; a core
held by the watchdog resumes. A core that has not begun to save, while a member of its gang is saving, stays in the set, with
status 5: R41 lets cores leave with the rest of their gang, and says nothing of a gang that cannot leave whole. Once that
member's image is out, the rest may leave. DESIGN CHOICE (log 24). -/
def monPreemptClear (core set : Word) (s : State) : MonRes :=
  s.inPart (fun p =>
    if 4096 ≤ core.toNat ∨ 64 ≤ set.toNat then refuseCall s 3
    else if !p.trusses.contains (trussOf core.toNat) then refuseCall s 2
    else
      let c := s.core core.toNat
      let gang := s.gangCores c
      match c.unit, c.preq with
      | some u, some (_, n) =>
        if n ≠ set.toNat ∨ gang.any (fun n => (s.core n).run != .running) then refuseCall s 5
        else
          let t := s.updCores gang (fun c =>
            { c with preq := none, forced := false, expired := none, wdBase := if c.expired.isSome then s.cycle else c.wdBase })
          (0, none, t.updCtx u.ctx (fun x => gang.foldl (fun (x : Context) m => x.leaveSet n m) x))
      | _, _ =>
        if c.held then (0, none, s.updCore core.toNat (fun c => { c with held := false, wdBase := s.cycle }))
        else refuseCall s 5)

/-- A context id that is not bound; 0xFFFF is SHMPAGE's release. Which free id a new context gets the manual leaves
open: a free choice (log 3). -/
def State.freeCtx (s : State) : Option Nat :=
  ((List.range 65535).map (fun i => (Config.freeChoice s.fresh + i) % 65535)).find? (fun i => (s.ctx? i).isNone)

/-- CTXNEW (R41, R383). -/
def monCtxnew (root : Word) (s : State) : MonRes :=
  s.inPart (fun p =>
    match s.freeCtx with
    | none => refuseCall s 4
    | some id =>
      let x : Context := { id := id, part := p.id, state := .loading, ptroot := root &&& 0x3FFFFFFF8000, sets := [], images := [], peers := [] }
      (0, some (BitVec.ofNat 64 id), { s.draw with contexts := s.contexts ++ [x] }))

/-- Every unit of a context is cancelled; its open sets close, its images and tags go, and the cores that an image was
being restored onto, or that a launch of it has kept, are zeroed (R41, R42, R49, R51, R76). -/
def State.destroyCtx (s : State) (x : Context) : State :=
  let ls := (s.part? x.part).map (fun p => p.launches.filter (fun l => l.ctx == x.id && l.state != .complete && l.state != .early))
  let t := (ls.getD []).foldl (fun (s : State) l => s.cancelLaunch l) (s.freePlans x.id)
  let aims := (match t.ctx? x.id with | some x => x.sets | none => []).flatMap (fun (e : EvictionSet) => e.targets.map (fun (g : Nat × Nat) => g.2))
  let t := t.updCores (aims.filter (fun n => (t.core n).run == RunState.restoring)) (fun c => { c with run := .zeroing, zeroCtx := some x.id })
  let left := (t.allCores.filter (fun c => (c.run == RunState.free) && (match c.lastLaunch with | some k => k.ctx == x.id | none => false))).map (·.id)
  let t := t.updCores left (fun c => { c with run := .zeroing, lastLaunch := none, zeroCtx := some x.id })
  let t := t.updCtx x.id (fun x => { x with state := .destroying, sets := [], images := [] })
  { t with tags := t.tags.filter (fun y => y.2.1 != x.id) }

/-- CTXFREE (R41, R383). -/
def monCtxfree (ctx : Word) (s : State) : MonRes :=
  s.inPart (fun p =>
    if 2 ^ 16 ≤ ctx.toNat then refuseCall s 3
    else match s.ctx? ctx.toNat with
      | none => refuseCall s 5
      | some x =>
        if x.part ≠ p.id then refuseCall s 2
        else if x.state = .loading ∨ x.state = .resident then (0, none, s.destroyCtx x)
        else refuseCall s 5)

/-- The gangs of a set's images come onto one bay each, in the order of GANGPOS (R95). -/
def gangsKept (pairs : List (Image × Nat)) : Bool :=
  pairs.all (fun a => pairs.all (fun b => match a.1.core.unit, b.1.core.unit with
    | some u, some v => !sameGang u v || (bayOf a.2 == bayOf b.2 && (!decide (u.gangPos < v.gangPos) || decide (a.2 < b.2)))
    | _, _ => true))

/-- The accumulator limit of a bay with the images that come onto it (R76). -/
def State.accFits (s : State) (pairs : List (Image × Nat)) : Bool :=
  pairs.all (fun a =>
    decide (sumNat ((List.range 8).map (fun i =>
      let n := bayOf a.2 * 8 + i
      match pairs.find? (fun b => b.2 == n) with
      | some b => (match b.1.core.unit with | some u => u.accKiB | none => 0)
      | none => s.accReserved n)) ≤ 512))

/-- A free core that is not zeroed: it is being zeroed, or an unfinished launch has kept its stores as they are (R41, R42,
R76). -/
def Core.unzeroed (c : Core) : Bool := c.run == .zeroing || (c.run == .free && c.lastLaunch.isSome)

/-- RESTORE (R41, R95, R383): a context that is free, or a set that is not evicted, is in a state that does not allow it. -/
def monRestore (ctx set list : Word) (s : State) : MonRes :=
  s.inPart (fun p =>
    if 64 ≤ set.toNat then refuseCall s 3
    else match s.partCtx p ctx with
      | .error e => refuseCall s (if e = 3 ∧ ctx.toNat < 2 ^ 16 then 5 else e)
      | .ok x => match x.set? set.toNat with
        | none => refuseCall s 5
        | some e =>
          if e.state ≠ .evicted then refuseCall s 5
          else
            let ims := x.imagesOf set.toNat
            match s.engLoad s.me list.toNat (4 + 4 * ims.length) with
            | .error _ => refuseCall s 3
            | .ok bs =>
              let cores := (List.range ims.length).map (fun i => blk4 bs (4 + 4 * i))
              let pairs := ims.zip cores
              if blk4 bs 0 ≠ ims.length then refuseCall s 5
              else if cores.any (fun n => decide (4096 ≤ n)) then refuseCall s 3
              else if cores.any (fun n => !p.trusses.contains (trussOf n) || !s.coreEnabled n) then refuseCall s 2
              else if (dedup cores).length ≠ cores.length then refuseCall s 5
              else if cores.any (fun n => (s.core n).unzeroed) ∨ !s.accFits pairs then refuseCall s 4
              else if cores.any (fun n => (s.core n).run != .free || (s.core n).unit.isSome) then refuseCall s 5
              else if !gangsKept pairs then refuseCall s 5
              else
                let t := s.updCores cores (fun c => { c with run := .restoring })
                (0, none, t.updCtx x.id (fun x => x.updSet set.toNat (fun e => { e with state := .restoring, targets := (ims.map (·.fromCore)).zip cores }))))

/-- The code of a context's state, and of a set's (R383). -/
def CtxState.code : CtxState → Nat
  | .loading => 1
  | .resident => 2
  | .destroying => 3
  | .zeroed => 4

/-- The code of a set's state (R383). -/
def SetState.code : SetState → Nat
  | .requested => 1
  | .saving => 2
  | .evicted => 3
  | .restoring => 4

/-- The 72-byte state record (R383). -/
def stateRecord (x : Option Context) : List Byte :=
  match x with
  | none => List.replicate 72 0
  | some x => leBytes 8 x.state.code ++ (List.range 64).map (fun n => match x.set? n with
      | some e => BitVec.ofNat 8 e.state.code
      | none => 0)

/-- CTXSTATE (R383): an id that names no context is free. -/
def monCtxstate (ctx addr : Word) (s : State) : MonRes :=
  s.inPart (fun p =>
    if 2 ^ 16 ≤ ctx.toNat then refuseCall s 3
    else match s.ctx? ctx.toNat with
      | none => s.monWrite addr (stateRecord none)
      | some x => if x.part = p.id then s.monWrite addr (stateRecord (some x)) else refuseCall s 2)

/-- The ring's memory lies in the tier, and in the partition's ranges of it (R383; log 12 for the stacked tier). -/
def ringPlace (p : Partition) (base n tier : Nat) : Option Nat :=
  let last := base + 64 + 16 * n - 1
  if tier = 0 then
    if stackedPopulated base && stackedPopulated last && p.stacked.contains (base / 2 ^ 30) && p.stacked.contains (last / 2 ^ 30) then
      some (stackedKey base)
    else none
  else if lpddrPopulated last && p.lpddr.contains (base / 2 ^ 30) && p.lpddr.contains (last / 2 ^ 30) then some (lpddrKey base) else none

/-- WDRING (R55, R383). -/
def monWdring (base entries tier : Word) (s : State) : MonRes :=
  s.inPart (fun p =>
    let n := entries.toNat
    if 1 < tier.toNat ∨ base.toNat % 64 ≠ 0 ∨ n < 1 ∨ 4096 < n ∨ 2 ^ n.log2 ≠ n then refuseCall s 3
    else if tier = 0 ∧ !(stackedPopulated base.toNat && stackedPopulated (base.toNat + 63 + 16 * n)) then refuseCall s 3
    else if tier = 1 ∧ !lpddrPopulated (base.toNat + 63 + 16 * n) then refuseCall s 3
    else match ringPlace p base.toNat n tier.toNat with
      | none => refuseCall s 2
      | some k =>
        let t := s.writeMem k (List.replicate 16 0 ++ leBytes 8 p.wdLost ++ List.replicate 40 0)
        (0, none, (t.updPart p.id (fun p => { p with wdRing := some (k, n, 0) })).wdFlush p.id))

/-- The monitor's answer reaches g4 and g5. -/
def answer (r : MonRes) : State :=
  r.2.2.updMe (fun c =>
    let d := c.setGpr 4 (BitVec.ofNat 64 r.1)
    match r.2.1 with
    | some w => d.setGpr 5 w
    | none => d)

/-- The call that g4 names (R383). -/
def monitorCall (s : State) : MonRes :=
  let a := s.me.gpr 5
  let b := s.me.gpr 6
  let c := s.me.gpr 7
  match (s.me.gpr 4).toNat with
  | 0 => monInfo a s
  | 1 => monShmpage a b s
  | 2 => monPricebank a b c s
  | 3 => monTree a b c s
  | 4 => monSlice a s
  | 5 => monPeer a b c s
  | 6 => monAttest a b s
  | 7 => if b = 1 then monPreemptSet a c s else if b = 0 then monPreemptClear a c s else refuseCall s 3
  | 8 => monCtxnew a s
  | 9 => monCtxfree a s
  | 10 => monRestore a b c s
  | 11 => monCtxstate a b s
  | 12 => monWdring a b c s
  | _ => refuseCall s 1

/-- The registers that a monitor call reads or writes (R383). -/
def callRegs (call : Nat) : List Nat :=
  match call with
  | 0 => [5]
  | 1 => [5, 6]
  | 2 => [5, 6, 7]
  | 3 => [5, 6, 7]
  | 4 => [5]
  | 5 => [5, 6, 7]
  | 6 => [5, 6]
  | 7 => [5, 6, 7]
  | 8 => [5]
  | 9 => [5]
  | 10 => [5, 6, 7]
  | 11 => [5, 6]
  | 12 => [5, 6, 7]
  | _ => []

/-- A monitor call uses a register that is a batched atomic's pending destination as an instruction does (R151). -/
def ecallBody : M Unit := do
  let c ← meM
  if c.super then do
    pendingCheck 4
    (callRegs (c.gpr 4).toNat).forM pendingCheck
  else pure ()

/-- ECALL (R232, R255): cause 17 at user level, counted; a monitor call at supervisor level. -/
def execEcall (s : State) : Host.Outcome State Fault Refusal :=
  run .ecall ecallBody (fun _ s => if s.me.super then (answer (monitorCall s)).retire else (s.updMe Core.count).takeTrap 17 0) s

/-- INFO, as the monitor performs it for the calling core. -/
def execInfo (addr : Word) (s : State) : Host.Outcome State Fault Refusal := event (fun s => answer (monInfo addr s)) s

/-- SHMPAGE. -/
def execShmpage (page ctx : Word) (s : State) : Host.Outcome State Fault Refusal := event (fun s => answer (monShmpage page ctx s)) s

/-- PRICEBANK. -/
def execPricebank (die bank ctx : Word) (s : State) : Host.Outcome State Fault Refusal :=
  event (fun s => answer (monPricebank die bank ctx s)) s

/-- TREE. -/
def execTree (group node entry : Word) (s : State) : Host.Outcome State Fault Refusal :=
  event (fun s => answer (monTree group node entry s)) s

/-- SLICE. -/
def execSlice (len : Word) (s : State) : Host.Outcome State Fault Refusal := event (fun s => answer (monSlice len s)) s

/-- PEER. -/
def execPeer (pkg remote loc : Word) (s : State) : Host.Outcome State Fault Refusal :=
  event (fun s => answer (monPeer pkg remote loc s)) s

/-- ATTEST. -/
def execAttest (nonce report : Word) (s : State) : Host.Outcome State Fault Refusal :=
  event (fun s => answer (monAttest nonce report s)) s

/-- PREEMPT, set. -/
def execPreemptSet (core set : Word) (s : State) : Host.Outcome State Fault Refusal :=
  event (fun s => answer (monPreemptSet core set s)) s

/-- PREEMPT, clear. -/
def execPreemptClear (core set : Word) (s : State) : Host.Outcome State Fault Refusal :=
  event (fun s => answer (monPreemptClear core set s)) s

/-- CTXNEW. -/
def execCtxnew (root : Word) (s : State) : Host.Outcome State Fault Refusal := event (fun s => answer (monCtxnew root s)) s

/-- CTXFREE. -/
def execCtxfree (ctx : Word) (s : State) : Host.Outcome State Fault Refusal := event (fun s => answer (monCtxfree ctx s)) s

/-- RESTORE. -/
def execRestore (ctx set list : Word) (s : State) : Host.Outcome State Fault Refusal :=
  event (fun s => answer (monRestore ctx set list s)) s

/-- CTXSTATE. -/
def execCtxstate (ctx addr : Word) (s : State) : Host.Outcome State Fault Refusal :=
  event (fun s => answer (monCtxstate ctx addr s)) s

/-- WDRING. -/
def execWdring (base entries tier : Word) (s : State) : Host.Outcome State Fault Refusal :=
  event (fun s => answer (monWdring base entries tier s)) s

/-! ## Deadlines, saves, restores, zeroing -/

/-- PDEADLINE_EXPIRY (R45): the core is stopped at its boundary and saved. -/
def execPdeadlineExpiry (s : State) : Host.Outcome State Fault Refusal :=
  event (fun s => if s.me.saveDue s.cycle then s.beginSave s.me.id else s) s

/-- CORE_SAVE_COMPLETE (R41, R196): the image is out once a running tile has ended. -/
def execCoreSaveComplete (s : State) : Host.Outcome State Fault Refusal :=
  event (fun s => if s.me.runTile.isNone then s.saveComplete s.me.id else s) s

/-- RESTORE_COMPLETE (R41). -/
def execRestoreComplete (ctx set : Nat) (s : State) : Host.Outcome State Fault Refusal := event (fun s => s.restoreDone ctx set) s

/-- BUFFER_ZEROING_COMPLETE (R42): the current core's stores are zero. -/
def execBufferZeroingComplete (s : State) : Host.Outcome State Fault Refusal := event (fun s => s.zeroingDone s.me.id) s

/-- All units of a destroying context have stopped (R41). -/
def State.unitsStopped (s : State) (ctx : Nat) : Bool :=
  match s.ctx? ctx with
  | some x => x.state == .destroying && x.images.isEmpty &&
      s.allCores.all (fun c => match c.unit with | some u => u.ctx != ctx | none => true)
  | none => false

/-- The DRAM pages of a destroyed context are zeroed by the scrubbers: those that it holds, and those that its tree maps,
but for what another context holds or maps too (R42, R67; log 24). -/
def State.zeroDram (s : State) (ctx : Nat) : State :=
  match s.ctx? ctx with
  | none => s
  | some x =>
    let kept := (s.contexts.filter (fun y => y.id != ctx)).flatMap (fun y => s.dramPages y.ptroot.toNat)
    let mapped := (s.dramPages x.ptroot.toNat).map (fun a => ({ key := a.1, size := a.2, ctx := ctx, va := 0 } : Frame))
    let held := s.frames.filter (fun f => f.ctx == ctx)
    ({ s with frames := s.frames.filter (fun f => f.ctx != ctx) } : State).scrubPages ((held ++ mapped).flatMap Frame.parts) kept

/-- Every buffer a context held passes to no context and is zeroed (R41, R42). -/
def State.zeroCtx (s : State) (ctx : Nat) : State :=
  let s := s.zeroDram ctx
  let pages := (s.pageOwner.filter (fun x => x.2 == ctx)).map (·.1)
  let s := pages.foldl (fun (s : State) q => s.givePage q none) s
  let banks := s.banks.map (fun b => if b.owner == some ctx then { b with owner := none, user := none, prices := [] } else b)
  let s : State := { s with banks := banks, ranges := s.ranges.filter (fun r => r.ctx != ctx) }
  s.updCtx ctx (fun x => { x with state := .zeroed })

/-- CONTEXT_UNITS_STOPPED (R41). -/
def execContextUnitsStopped (ctx : Nat) (s : State) : Host.Outcome State Fault Refusal :=
  event (fun s => if s.unitsStopped ctx then s.zeroCtx ctx else s) s

/-- The context id is released, with what the hierarchy table held of the context (R41, R81). -/
def State.freeCtxId (s : State) (ctx : Nat) : State :=
  { s with
    contexts := s.contexts.filter (fun x => x.id != ctx)
    frames := s.frames.filter (fun f => f.ctx != ctx)
    parts := s.parts.map (fun (p : Partition) => { p with
      launches := p.launches.filter (fun l => l.ctx != ctx)
      graphs := p.graphs.filter (fun g => g.ctx != ctx)
      phases := p.phases.filter (fun g => g.ctx != ctx)
      jobs := p.jobs.filter (fun g => g.ctx != ctx) }) }

/-- Every buffer of a context is zero, the stores of its cores among them (R41, R42). -/
def State.ctxZero (s : State) (x : Context) : Bool :=
  x.state == .zeroed && s.allCores.all (fun c => c.run != .zeroing || c.zeroCtx != some x.id)

/-- CONTEXT_ZEROING_COMPLETE (R41). -/
def execContextZeroingComplete (ctx : Nat) (s : State) : Host.Outcome State Fault Refusal :=
  event (fun s => match s.ctx? ctx with
    | some x => if s.ctxZero x then s.freeCtxId ctx else s
    | none => s) s

/-! ## The watchdog (R55) -/

/-- The current core's count has reached its limit, and the watchdog has not acted on it yet. -/
def State.watchdogDue (s : State) : Bool := s.me.wdExpired s.cycle && !s.me.forced

/-- WATCHDOG_EXPIRY (R55): the count has reached its limit; or an expired core that could not be saved has come to the
boundary at which it is held. -/
def execWatchdogExpiry (s : State) : Host.Outcome State Fault Refusal :=
  event (fun s => if s.watchdogDue then s.wdExpire else s.hold) s

/-- WATCHDOG_RING_POLL (R55). -/
def execWatchdogRingPoll (part : Nat) (s : State) : Host.Outcome State Fault Refusal := event (fun s => s.wdFlush part) s

/-! ## Resends and stalled writes -/

/-- The wait of the current core that satisfies a test may be tried again. -/
def State.wake (s : State) (f : WaitRec → Bool) : State :=
  s.updMe (fun c => { c with wait := c.wait.map (fun w => if f w then { w with ready := true } else w) })

/-- RETRY_RESEND (R49): a refused load, store or atomic is resent. -/
def execRetryResend (s : State) : Host.Outcome State Fault Refusal :=
  event (fun s => s.wake (fun w => match w.kind with | .retry _ => true | _ => false)) s

/-- PORT_WRITE_RESEND (R49): of an instruction, or of a batched atomic's result. -/
def execPortWriteResend (s : State) : Host.Outcome State Fault Refusal :=
  event (fun s =>
    if s.resultTries then s.retryResult
    else s.wake (fun w => match w.kind with | .portRetry _ => true | _ => false)) s

/-- MIG_WRITE_RETRANSLATE (R70). -/
def execMigWriteRetranslate (s : State) : Host.Outcome State Fault Refusal :=
  event (fun s => s.wake (fun w => match w.kind with | .migWrite _ => true | _ => false)) s

/-- PORT_WORD_ARRIVAL (R100): a word reaches a receive queue of the current core that has room for it. -/
def execPortWordArrival (queue : Nat) (w : Word) (s : State) : Host.Outcome State Fault Refusal :=
  event (fun s => if s.me.portRoom queue then s.portDeliver s.me.id queue w else s) s

/-- A stalled port write has room now (R101), or its receiver no longer stands in the way: it is gone, or refuses. -/
def State.portOpen (s : State) : Bool :=
  match s.me.wait with
  | some w => (match w.kind with
    | .portWrite n => !w.ready && (match s.me.portTarget (n - 24) with
      | some (core, q) => (s.core core).portRoom q || !s.partnerOk core || s.retries core s.me.ctx
      | none => true)
    | _ => false)
  | none => false

/-- PORT_WRITE_UNSTALL (R101): of an instruction, or of a batched atomic's result. -/
def execPortWriteUnstall (s : State) : Host.Outcome State Fault Refusal :=
  event (fun s => if s.portOpen then s.wake (fun _ => true) else if s.portResultReady then s.sendResult else s) s

/-- PORTWAIT cycles have passed in a stalled port write (R101); the register, or none. -/
def State.portExpired (s : State) : Option Nat :=
  match s.me.wait with
  | some w => (match w.kind with
    | .portWrite n =>
      let limit := s.me.user.portwait.toNat
      if !w.ready && decide (limit ≠ 0) && decide (w.since + limit ≤ s.cycle) then some n else none
    | _ => none)
  | none => none

/-- PORTWAIT_EXPIRY (R101): a precise cause 7; the word is not sent. -/
def execPortwaitExpiry (s : State) : Host.Outcome State Fault Refusal :=
  event (fun s => match s.portExpired with
    | some n => s.takeTrap 7 (BitVec.ofNat 64 n)
    | none => match s.resultExpired with
      | some r => (s.updMe (fun c => c.dropResult s.cycle)).takeTrap 7 (r.zeroExtend 64)
      | none => s) s

/-! ## The host and the scrubbers -/

/-- A request of the host while the package is frozen is answered with configuration-retry status: nothing of it is
performed (R385). -/
def State.hostRequest (s : State) (f : State → State) : State :=
  if s.frozen then { s with boot := { s.boot with hostRetries := s.boot.hostRetries + 1 } } else f s

/-- HOST_MAILBOX (R381): a message of the host to a partition's supervisor. -/
def execHostMailbox (part : Nat) (msg : List Byte) (s : State) : Host.Outcome State Fault Refusal :=
  event (fun s => s.hostRequest (fun s => s.updPart part (fun p => { p with mailbox := p.mailbox ++ [msg] }))) s

/-- The translation trees in use: those of the contexts and of the cores. -/
def State.roots (s : State) : List Nat :=
  dedup (s.contexts.map (fun x => x.ptroot.toNat) ++ (s.allCores.map (fun c => c.sup.ptroot.toNat)))

/-- The pages that hold a location are poisoned: POI is set in their descriptors and their translations dropped (R67). -/
def State.poison (s : State) (k : Nat) : State :=
  let ds := (s.roots.flatMap s.leaves).filter (fun l =>
    let d := s.peek l.1 8
    descPresent d && mapsKey d l.2 k)
  let s := ds.foldl (fun (s : State) l => s.writeMem l.1 (leBytes 8 (s.peek l.1 8 ||| 256))) s
  let keep : List TlbEntry → List TlbEntry := fun l => l.filter (fun e => !mapsKey e.desc.toNat e.big k)
  let fix : Core → Core := fun c => { c with
    itlb := keep c.itlb
    dtlb := keep c.dtlb
    wait := c.wait.map (fun w => match w.kind with | .migWrite _ => { w with ready := true } | _ => w)
    entries := c.entries.map (fun (e : Entry) => { e with kick := true }) }
  let s : State := { s with
    me := fix s.me
    others := s.others.map (fun x => (x.1, fix x.2))
    l2tlb := s.l2tlb.filter (fun x => !mapsKey x.2.desc.toNat x.2.big k) }
  s.contexts.foldl (fun (s : State) x => s.hubRetranslates x.id) s

/-- SCRUB_REPORT (R386, R67): a DRAM line with an uncorrectable error, and the monitor's poisoning of its page. -/
def execScrubReport (base len : Nat) (s : State) : Host.Outcome State Fault Refusal :=
  event (fun s =>
    let t : State := { s with eccBad := if s.eccBad.contains (base, len) then s.eccBad else s.eccBad ++ [(base, len)] }
    t.poison base) s

end Sys2Proof.Machine
end

