-- ==== Sys2Proof/Machine/Boot.lean ====
section
/-!
DEFINITION. Boot and recovery (R379, R380), building partitions and starting supervisors (R381, R382), freeze and
readout (R385), power and heat (R387).
-/
namespace Sys2Proof.Machine

open Sys2Proof

/-! ## Verification -/

/-- Stage 2: the signature over the digest of the body, with the key whose hash is fused (R379). -/
def State.signed (s : State) (body sig : List Byte) (keyHash : BitVec 256) : Bool :=
  keyHash == s.boot.vendorKey && Config.mlDsaVerify keyHash (Config.sha3 body) sig

/-- Stages 2 and 3 for an image (R379, R380). -/
def State.verified (s : State) (img : FwImage) : Bool :=
  s.signed img.body img.sig img.keyHash && decide (s.boot.rollback ≤ img.version)

/-! ## Partitions -/

/-- Resources of one kind that a policy names: each exists, is named once, and lies in no partition yet (R381). -/
def assignable {α : Type} [DecidableEq α] (there : α → Bool) (named : List α) (taken : List (List α)) : Bool :=
  named.all there && decide named.Nodup && taken.all (fun l => !named.any l.contains)

/-- The hundredths of a Fihorn port that partitions share (R381; log 30). -/
def State.portShares (s : State) (port : Nat) : Nat :=
  sumNat (s.parts.flatMap (fun q => (q.ports.filter (fun x => x.1 == port)).map (·.2)))

/-- What a policy names exists and can pass to a partition whole, a Fihorn port whole or in shares (R118, R381). -/
def State.buildable (s : State) (p : PartPolicy) : Bool :=
  let taken := fun {α : Type} (f : Partition → List α) => s.parts.map f
  decide (s.parts.length < 64) && decide (1 ≤ p.trusses.length) && decide (p.trusses.length ≤ 64) &&
  assignable (fun t => decide (t < 64)) p.trusses (taken (·.trusses)) &&
  assignable (fun x => decide (x < 4096)) p.pages (taken (·.pages)) &&
  assignable (fun (b : Nat × Nat) => decide (b.1 < 4) && decide (b.2 < 16)) p.banks (taken (·.banks)) &&
  assignable (fun c => decide (c < 32)) p.channels (taken (·.channels)) &&
  assignable (fun g => decide (g < 4096)) p.groups (taken (·.groups)) &&
  assignable (fun r => lpddrPopulated (r * 2 ^ 30)) p.lpddr (taken (·.lpddr)) &&
  assignable (fun r => stackedPopulated (r * 2 ^ 30)) p.stacked (taken (·.stacked)) &&
  assignable (fun x => decide (x < 12)) (p.ports.map (·.1)) [] &&
  p.ports.all (fun x => decide (0 < x.2) && decide (s.portShares x.1 + x.2 ≤ 100))

/-- The cores of a list of trusses that are enabled, ascending (R9, R15). -/
def State.enabledCores (s : State) (trusses : List Nat) : List Nat :=
  (List.range 4096).filter (fun n => trusses.contains (trussOf n) && s.coreEnabled n)

/-- A partition as the monitor builds it (R381); its registers DESIGN CHOICE zero where no reset is given (log 2). -/
def newPartition (id : Nat) (p : PartPolicy) (supCore : Nat) : Partition where
  id := id
  trusses := p.trusses
  pages := p.pages
  banks := p.banks
  channels := p.channels
  groups := p.groups
  lpddr := p.lpddr
  stacked := p.stacked
  ports := p.ports
  sliceLen := 24000
  sliceClamped := false
  versioned := Vector.replicate 16 (0, 0)
  measurement := 0
  supCore := supCore
  supBooted := false
  launches := []
  graphs := []
  phases := []
  jobs := []
  head := none
  readyNext := 0
  wdRing := none
  wdHeld := []
  wdPoll := 0
  wdLost := 0
  mailbox := []

/-- Stage 5: the partitions that policy names, each if it can be built (R379, R381). -/
def State.buildParts (s : State) (ps : List PartPolicy) : State :=
  ps.zipIdx.foldl (fun (s : State) (x : PartPolicy × Nat) =>
    match s.enabledCores x.1.trusses with
    | [] => s
    | n :: _ => if s.buildable x.1 then { s with parts := s.parts ++ [newPartition x.2 x.1 n] } else s) s

/-- The measurement register extended with an image (R382; the chaining is DEDUCED, log 31). -/
def extendMeasure (m : BitVec 256) (image : List Byte) : BitVec 256 :=
  Config.sha3 (leBytes 32 m.toNat ++ leBytes 32 (Config.sha3 image).toNat)

/-- The core a supervisor starts on: supervisor privilege, pc at the entry of its verified and measured image, g4 the
partition, g5 the record (R382; where in an image its entry stands is open, log 31); of PTROOT its reserved bits stay 0 (R6,
R62). -/
def Core.startSup (c : Core) (part : Nat) (p : PartPolicy) : Core :=
  let c : Core := { c with run := .running, super := true, pc := epcWord (Config.imageEntry p.supImage), sup := { c.sup with ptroot := p.supPtroot &&& 0x3FFFFFFF8000 } }
  (c.setGpr 4 (BitVec.ofNat 64 part)).setGpr 5 p.recordAddr

/-- Stage 6 for one partition (R379, R382): the image, which is what is loaded, is verified, measured and loaded, and its
core started with the partition record in place; a failure leaves this partition alone not booted. -/
def State.bootSup (s : State) (part : Nat) (p : PartPolicy) (keyHash : BitVec 256) : State :=
  match s.part? part with
  | none => s
  | some q =>
    if s.signed p.supImage p.supSig keyHash ∧ p.supLoad.flatMap (·.2) = p.supImage then
      let s := p.supLoad.foldl (fun (s : State) (x : Nat × List Byte) => s.writeMem (stackedKey x.1) x.2) s
      let s := s.updPart part (fun q => { q with measurement := extendMeasure q.measurement p.supImage })
      match (s.updCore q.supCore (fun c => c.startSup part p)).engStore q.supCore p.recordAddr.toNat (s.partRecord q) with
      | .ok t => t.updPart part (fun q => { q with supBooted := true })
      | .error _ => s
    else s

/-! ## Stages -/

/-- Recovery: the ROM waits for an image of the host (R380). -/
def State.toRecovery (s : State) : State := { s with boot := { s.boot with recovery := true, running := none } }

/-- Stage 4 (R379, R42): every buffer of R42 is zeroed, that is every memory of the package, the accumulators, the price
banks and the range units; the firmware sets what it is to set (R162, R169, R387). -/
def State.stage4 (s : State) (img : FwImage) : State :=
  let s := s.mapUnits (fun c => { c with accum := [], accumBad := [], kerfHead := [], kerfBad := [] })
  { s with
    mem := s.mem.filter (fun c => isHostKey c.1)
    eccBad := []
    banks := []
    ranges := []
    frames := []
    cables := img.cables
    pkgId := img.pkgId
    routes := img.routes
    power := { s.power with cap := min 1800 (max 600 img.cap) }
    coll := { s.coll with domain := img.domain, domains := img.domains, domainHub := img.domainHub, rootHub := img.rootHub,
                          isDomain := img.domainHub == img.pkgId, isRoot := img.rootHub == img.pkgId }
    boot := { s.boot with stage := 5 } }

/-- One stage of the boot (R379); in recovery the ROM waits. -/
def State.bootStep (s : State) : State :=
  if s.boot.recovery then s
  else match s.boot.stage with
    | 1 => if s.boot.selfTestOk && s.boot.flash.isSome then { s with boot := { s.boot with stage := 2 } } else s.toRecovery
    | 2 =>
      match s.boot.flash with
      | some img => if s.signed img.body img.sig img.keyHash then { s with boot := { s.boot with stage := 3 } } else s.toRecovery
      | none => s.toRecovery
    | 3 =>
      match s.boot.flash with
      | some img =>
        if s.boot.rollback ≤ img.version then { s with boot := { s.boot with stage := 4, running := some img } } else s.toRecovery
      | none => s.toRecovery
    | 4 =>
      match s.boot.running with
      | some img =>
        if s.boot.trainOk then s.stage4 img
        else
          let code := (Config.freeValue s.fresh).toNat
          { s with boot := { s.boot with halted := some code, hostStatus := code }, fresh := s.fresh + 1 }
      | none => s
    | 5 =>
      match s.boot.running with
      | some img => let t := s.buildParts img.parts; { t with boot := { s.boot with stage := 6 } }
      | none => s
    | 6 =>
      match s.boot.running with
      | some img =>
        let t := img.parts.zipIdx.foldl (fun (s : State) (x : PartPolicy × Nat) => s.bootSup x.2 x.1 img.keyHash) s
        { t with boot := { s.boot with stage := 7, toFlash := false, flash := if s.boot.toFlash then some img else s.boot.flash } }
      | none => s
    | _ => s

/-- PACKAGE_RESET (R379): everything as after reset, but the fuses, the boot flash and what lies outside the package. -/
def execPackageReset (s : State) : Host.Outcome State Fault Refusal :=
  event (fun s => { State.reset with
    mem := s.mem.filter (fun c => isHostKey c.1)
    agenda := s.agenda
    fresh := s.fresh
    harvest := s.harvest
    debugEnable := s.debugEnable
    power := { State.reset.power with watts := s.power.watts, celsius := s.power.celsius }
    boot := { State.reset.boot with
      flash := s.boot.flash, rollback := s.boot.rollback, vendorKey := s.boot.vendorKey,
      selfTestOk := s.boot.selfTestOk, trainOk := s.boot.trainOk } }) s

/-- What the 64 KiB mailbox of recovery holds when an image has passed through it: its last piece (R380, log 31). -/
def mailPiece (bytes : List Byte) : List Byte := bytes.drop ((bytes.length - 1) / 65536 * 65536)

/-- RECOVERY_IMAGE (R380): the image that the host has written through the mailbox, piece by piece, is verified as the flash
image is; it is booted and then, at the end of stage 6, written to flash, or it is discarded (log 31). -/
def execRecoveryImage (img : FwImage) (s : State) : Host.Outcome State Fault Refusal :=
  event (fun s => s.hostRequest (fun s =>
    if !s.boot.recovery then s
    else
      let b : Boot := { s.boot with mailbox := mailPiece (img.body ++ img.sig) }
      if s.verified img then { s with boot := { b with recovery := false, stage := 4, running := some img, toFlash := true } }
      else { s with boot := b })) s

/-- ROLLBACK_ADVANCE (R380): only at the request of firmware of a verified image; the counter only advances. -/
def execRollbackAdvance (version : Nat) (s : State) : Host.Outcome State Fault Refusal :=
  event (fun s =>
    if s.boot.running.isSome && decide (s.boot.rollback < version) then { s with boot := { s.boot with rollback := version } }
    else s) s

/-! ## Freeze -/

/-- A port that is up sends FLOW with classes OFF. -/
def LinkPort.sendOff (p : LinkPort) (at' : Nat) (off : List Nat) : LinkPort :=
  if p.state == .up then let q := p.sendFlit at' (flowFlit off); { q with lastFlow := at' } else p

/-- The package freezes (R385): every clock stops, every port that is up sends OFF on every class. -/
def State.freeze (s : State) : State :=
  if s.frozen then s
  else { s with frozen := true, ports := s.ports.map (fun p => p.sendOff (s.flitCount p) [0, 1, 2, 3]) }

/-- FREEZE (R385): no effect while frozen. -/
def execFreeze (s : State) : Host.Outcome State Fault Refusal := event State.freeze s

/-- The monitor is told, on resume, of a freeze at 115 °C (R387). -/
def Power.resumed (p : Power) : Power := { p with frozeHot := false, toldHot := if p.frozeHot then p.toldHot + 1 else p.toldHot }

/-- RESUME (R385, R387): every agent goes on as though no cycle had passed; the ports send their classes' state again. -/
def execResume (s : State) : Host.Outcome State Fault Refusal :=
  event (fun s =>
    if s.frozen then
      { s with frozen := false, power := s.power.resumed,
               ports := s.ports.map (fun p => p.sendOff (s.flitCount p) p.nearOff) }
    else s) s

/-! ## Power and heat -/

/-- A further sixteenth of arithmetic issue is withheld, fifteen at most (R387, log 32); no result changes. -/
def Power.step (p : Power) : Power := { p with throttle := min 15 (p.throttle + 1) }

/-- Some cause to throttle holds (R387). -/
def Power.hot (p : Power) : Bool := decide (p.cap < p.watts) || p.celsius.any (fun t => decide (105 ≤ t))

/-- POWER_CAP_EXCEEDED (R387). -/
def execPowerCapExceeded (watts : Nat) (s : State) : Host.Outcome State Fault Refusal :=
  event (fun s => if s.power.cap < watts then { s with power := ({ s.power with watts := watts } : Power).step } else s) s

/-- JUNCTION_THROTTLE (R387): at 105 °C, whatever the cap. -/
def execJunctionThrottle (die celsius : Nat) (s : State) : Host.Outcome State Fault Refusal :=
  event (fun s =>
    if 105 ≤ celsius ∧ die < s.power.celsius.length then
      { s with power := ({ s.power with celsius := s.power.celsius.set die celsius } : Power).step }
    else s) s

/-- JUNCTION_FREEZE (R387): at 115 °C; the host reads of it in its status register, whose code is open (log 32). -/
def execJunctionFreeze (die celsius : Nat) (s : State) : Host.Outcome State Fault Refusal :=
  event (fun s =>
    if 115 ≤ celsius ∧ die < s.power.celsius.length then
      let t := s.freeze
      { t with power := { s.power with celsius := s.power.celsius.set die celsius, frozeHot := true },
               boot := { s.boot with hostStatus := (Config.freeValue s.fresh).toNat }, fresh := s.fresh + 1 }
    else s) s

/-- THROTTLE_END (R387): lifted once neither the cap nor a junction asks for it. -/
def execThrottleEnd (watts : Nat) (celsius : List Nat) (s : State) : Host.Outcome State Fault Refusal :=
  event (fun s =>
    let p : Power := { s.power with watts := watts, celsius := if celsius.length = 5 then celsius else s.power.celsius }
    { s with power := if p.hot then p else { p with throttle := 0 } }) s

end Sys2Proof.Machine
end

