-- ==== Sys2Proof/Machine/Control.lean ====
section
/-!
DEFINITION. Branches and jumps (R243 to R246).
-/
namespace Sys2Proof.Machine

open Sys2Proof

/-- The target of a B-format branch (R223). -/
def branchTarget (pc : Word) (off : BitVec 13) : Word := pc + (off.signExtend 64 <<< 2)

/-- The target of a J-format jump (R223). -/
def jumpTarget (pc : Word) (off : BitVec 26) : Word := pc + (off.signExtend 64 <<< 2)

/-- A conditional branch: both operands are read, then it goes to its target or on (R243, R246). -/
def branchBody (ra rb : BitVec 5) (off : BitVec 13) (taken : Word → Word → Bool) : M Word := do
  let a ← readReg ra
  let b ← readReg rb
  let c ← meM
  pure (if taken a b then branchTarget c.pc off else c.pc + 4)

/-- JAL (R244): g1 = pc + 4. -/
def jalBody (off : BitVec 26) : M Word := do
  let c ← meM
  writeReg 1 (c.pc + 4)
  pure (jumpTarget c.pc off)

/-- JALR (R245): a target that is no multiple of 4 is cause 2; in a fused gang only the leader's value decides the
target (R92). -/
def jalrBody (rd ra : BitVec 5) (imm : BitVec 16) : M Word := do
  let a ← readReg ra
  let c ← meM
  let t := c.lead.getD (a + imm.signExtend 64)
  if t.toNat % 4 ≠ 0 then trap 2 t
  else do
    writeReg rd (c.pc + 4)
    pure t

/-- BEQ (R243): taken when equal. -/
def execBeq (ra rb : BitVec 5) (off : BitVec 13) (s : State) : Host.Outcome State Fault Refusal :=
  runJ (.beq ra rb off) (branchBody ra rb off (fun a b => a == b)) s

/-- BNE (R243): taken when different. -/
def execBne (ra rb : BitVec 5) (off : BitVec 13) (s : State) : Host.Outcome State Fault Refusal :=
  runJ (.bne ra rb off) (branchBody ra rb off (fun a b => a != b)) s

/-- BLT (R243): taken when less, signed. -/
def execBlt (ra rb : BitVec 5) (off : BitVec 13) (s : State) : Host.Outcome State Fault Refusal :=
  runJ (.blt ra rb off) (branchBody ra rb off (fun a b => a.slt b)) s

/-- BGE (R243): taken when not less, signed. -/
def execBge (ra rb : BitVec 5) (off : BitVec 13) (s : State) : Host.Outcome State Fault Refusal :=
  runJ (.bge ra rb off) (branchBody ra rb off (fun a b => !a.slt b)) s

/-- BLTU (R243): taken when less, unsigned. -/
def execBltu (ra rb : BitVec 5) (off : BitVec 13) (s : State) : Host.Outcome State Fault Refusal :=
  runJ (.bltu ra rb off) (branchBody ra rb off (fun a b => a.ult b)) s

/-- BGEU (R243): taken when not less, unsigned. -/
def execBgeu (ra rb : BitVec 5) (off : BitVec 13) (s : State) : Host.Outcome State Fault Refusal :=
  runJ (.bgeu ra rb off) (branchBody ra rb off (fun a b => !a.ult b)) s

/-- J (R244). -/
def execJ (off : BitVec 26) (s : State) : Host.Outcome State Fault Refusal :=
  runJ (.j off) (do let c ← meM; pure (jumpTarget c.pc off)) s

/-- JAL (R244). -/
def execJal (off : BitVec 26) (s : State) : Host.Outcome State Fault Refusal := runJ (.jal off) (jalBody off) s

/-- JALR (R245). -/
def execJalr (rd ra : BitVec 5) (imm : BitVec 16) (s : State) : Host.Outcome State Fault Refusal :=
  runJ (.jalr rd ra imm) (jalrBody rd ra imm) s

end Sys2Proof.Machine
end

