-- ==== Sys2Proof/Machine/LoadStore.lean ====
section
/-!
DEFINITION. Loads and stores (R239 to R242).
-/
namespace Sys2Proof.Machine

open Sys2Proof

/-- The address of a load or store: g[ra] + sext(off13) (R239). -/
def effAddr (a : Word) (off : BitVec 13) : Word := a + off.signExtend 64

/-- A load of n bytes; a load into g0 is performed and its value discarded (R239). -/
def loadBody (rd ra : BitVec 5) (off : BitVec 13) (n : Nat) (ext : Nat → Word) : M Unit := do
  let a ← readReg ra
  let x ← loadM (effAddr a off) n
  writeReg rd (ext x)

/-- A store of n bytes: ra, then the data register (R240). -/
def storeBody (rs ra : BitVec 5) (off : BitVec 13) (n : Nat) : M Unit := do
  let a ← readReg ra
  let x ← readReg rs
  storeM (effAddr a off) n x.toNat

/-- SD: also the one access the trigger window accepts (R61, R167). -/
def storeDBody (rs ra : BitVec 5) (off : BitVec 13) : M Unit := do
  let a ← readReg ra
  let x ← readReg rs
  let va := effAddr a off
  match windowOf va.toNat with
  | .trigger handle => if va.toNat % 8 ≠ 0 then trap 2 va else triggerM handle va x
  | _ => storeM va 8 x.toNat

/-- LB (R239): 1 byte, sign-extended. -/
def execLb (rd ra : BitVec 5) (off : BitVec 13) (s : State) : Host.Outcome State Fault Refusal :=
  runI (.lb rd ra off) (loadBody rd ra off 1 (sextN 8)) s

/-- LH (R239): 2 bytes, sign-extended. -/
def execLh (rd ra : BitVec 5) (off : BitVec 13) (s : State) : Host.Outcome State Fault Refusal :=
  runI (.lh rd ra off) (loadBody rd ra off 2 (sextN 16)) s

/-- LW (R239): 4 bytes, sign-extended. -/
def execLw (rd ra : BitVec 5) (off : BitVec 13) (s : State) : Host.Outcome State Fault Refusal :=
  runI (.lw rd ra off) (loadBody rd ra off 4 (sextN 32)) s

/-- LD (R239): 8 bytes, zero-extended. -/
def execLd (rd ra : BitVec 5) (off : BitVec 13) (s : State) : Host.Outcome State Fault Refusal :=
  runI (.ld rd ra off) (loadBody rd ra off 8 (zextN 64)) s

/-- LBU (R239): 1 byte, zero-extended. -/
def execLbu (rd ra : BitVec 5) (off : BitVec 13) (s : State) : Host.Outcome State Fault Refusal :=
  runI (.lbu rd ra off) (loadBody rd ra off 1 (zextN 8)) s

/-- LHU (R239): 2 bytes, zero-extended. -/
def execLhu (rd ra : BitVec 5) (off : BitVec 13) (s : State) : Host.Outcome State Fault Refusal :=
  runI (.lhu rd ra off) (loadBody rd ra off 2 (zextN 16)) s

/-- LWU (R239): 4 bytes, zero-extended. -/
def execLwu (rd ra : BitVec 5) (off : BitVec 13) (s : State) : Host.Outcome State Fault Refusal :=
  runI (.lwu rd ra off) (loadBody rd ra off 4 (zextN 32)) s

/-- SB (R240): the low 1 byte of g[rs]. -/
def execSb (rs ra : BitVec 5) (off : BitVec 13) (s : State) : Host.Outcome State Fault Refusal :=
  runI (.sb rs ra off) (storeBody rs ra off 1) s

/-- SH (R240): the low 2 bytes of g[rs]. -/
def execSh (rs ra : BitVec 5) (off : BitVec 13) (s : State) : Host.Outcome State Fault Refusal :=
  runI (.sh rs ra off) (storeBody rs ra off 2) s

/-- SW (R240): the low 4 bytes of g[rs]. -/
def execSw (rs ra : BitVec 5) (off : BitVec 13) (s : State) : Host.Outcome State Fault Refusal :=
  runI (.sw rs ra off) (storeBody rs ra off 4) s

/-- SD (R240, R61). -/
def execSd (rs ra : BitVec 5) (off : BitVec 13) (s : State) : Host.Outcome State Fault Refusal :=
  runI (.sd rs ra off) (storeDBody rs ra off) s

end Sys2Proof.Machine
end

