-- ==== Sys2Proof/Machine/Matrix.lean ====
section
/-!
DEFINITION. The bay's matrix unit (R34, R35, R87, R178 to R197): head checks, the arbiter, tiles and their errors.
-/
namespace Sys2Proof.Machine

open Sys2Proof

/-! ## Formats and streams -/

/-- The element width of an MFMT code (R185); code 9 stands for MMAT's T2. -/
def mfmtWidth (n : Nat) : Nat :=
  match n with
  | 0 => 64
  | 1 => 32
  | 2 => 16
  | 3 => 16
  | 6 => 4
  | 9 => 2
  | _ => 8

/-- The floating-point format of an MFMT code (R185). -/
def mfmtFmt (n : Nat) : Fmt :=
  match n with
  | 0 => .f64
  | 1 => .f32
  | 2 => .f16
  | 3 => .bf16
  | 4 => .e4m3
  | 5 => .e5m2
  | _ => .e2m1

/-- The group size G (R34, R186). -/
def mfmtGroup (n : Nat) : Nat :=
  match n with
  | 0 => 1
  | 1 => 4
  | 2 => 16
  | 3 => 16
  | _ => 32

/-- The valid format pairs (R186). -/
def pairOk (a b : Nat) : Bool :=
  (a == b && decide (a ≤ 7)) || ((a == 4 || a == 5) && (b == 4 || b == 5))

/-- rowbytes (R181). -/
def rowBytes (k w : Nat) : Nat := 64 * ceilDiv (k * w) 512

/-- What a matrix command asks of the unit, with the formats of its first sample (R180, R188). -/
structure MatShape where
  m : Nat
  n : Nat
  k : Nat
  rcnt : Nat
  gsplit : Bool
  abase : Nat
  apitch : Nat
  ew : Nat
  aBytes : Nat
  bBytes : Nat
  deriving DecidableEq, Repr

/-- The shape of an MMA or MMAT under a format pair. -/
def mmaShape (c : MmaCmd) (a b : Nat) : MatShape where
  m := c.m.toNat
  n := c.n.toNat
  k := c.k.toNat
  rcnt := c.rcnt.toNat
  gsplit := c.gsplit
  abase := c.abase.toNat
  apitch := c.apitch.toNat
  ew := if a = 0 then 2 else 1
  aBytes := c.m.toNat * rowBytes c.k.toNat (mfmtWidth a)
  bBytes := c.n.toNat * rowBytes c.k.toNat (mfmtWidth b)

/-- The shape of an MZERO (R190). -/
def mzeroShape (c : MzeroCmd) : MatShape where
  m := c.m.toNat
  n := c.n.toNat
  k := 0
  rcnt := 0
  gsplit := c.gsplit
  abase := c.abase.toNat
  apitch := c.apitch.toNat
  ew := if c.ew2 then 2 else 1
  aBytes := 0
  bBytes := 0

/-- The shape of a matrix command at work. -/
def Entry.shape (e : Entry) : Option MatShape :=
  match e.cmd, e.job with
  | .mma c, .matrix a b => some (mmaShape c a b)
  | .mmat c, .matrix a b => some (mmaShape c a b)
  | .mzero c, .matrix _ _ => some (mzeroShape c)
  | _, _ => none

/-- The core's gang size and position (R91). -/
def Core.gangSize (c : Core) : Nat := match c.unit with | some u => max u.gangSize 1 | none => 1
def Core.gangPos (c : Core) : Nat := match c.unit with | some u => u.gangPos | none => 0

/-- The command is split over a gang (R189: with gang size 1 it is not). -/
def splits (c : Core) (x : MatShape) : Bool := x.gsplit && decide (1 < c.gangSize)

/-- RB = ⌈M / GANGSIZE⌉ (R189). -/
def rowsPer (c : Core) (x : MatShape) : Nat := if splits c x then ceilDiv x.m c.gangSize else x.m

/-- The bounds of R189 and the stream sizes of R183. -/
def shapeOk (c : Core) (x : MatShape) : Bool :=
  decide (c.accWords ≠ 0) && decide (x.abase + (rowsPer c x - 1) * x.apitch + x.n * x.ew ≤ c.accWords) &&
  (x.ew == 1 || (x.abase % 2 == 0 && x.apitch % 2 == 0)) && decide (x.aBytes ≤ 65536) && decide (x.bBytes ≤ 65536)

/-- The tiles of a command: at most 64 rows by 128 columns (R178). -/
def MatShape.tiles (x : MatShape) : Nat := ceilDiv x.m 64 * ceilDiv x.n 128

/-- The rows and the columns of tile t, in row-block-major order (R178). -/
def MatShape.rows (x : MatShape) (t : Nat) : List Nat :=
  let r := 64 * (t / ceilDiv x.n 128)
  (List.range (min 64 (x.m - r))).map (fun i => r + i)
def MatShape.cols (x : MatShape) (t : Nat) : List Nat :=
  let c := 128 * (t % ceilDiv x.n 128)
  (List.range (min 128 (x.n - c))).map (fun j => c + j)

/-- The rows of a tile that are not masked (R191). -/
def MatShape.live (x : MatShape) (t : Nat) : List Nat := (x.rows t).filter (fun i => x.rcnt == 0 || decide (i < x.rcnt))

/-! ## At the head (R180, R184, R188) -/

/-- The core's matrix queue is not empty: a command in it has not ended. -/
def Core.matrixWaits (c : Core) : Bool :=
  (c.run == .running) && c.entries.any (fun e => e.qid == 64 && e.state != .issued && e.state != .finishing)

/-- A core whose matrix queue has become empty has no deficit left (R87). -/
def Core.settleDeficit (c : Core) : Core := if c.matrixWaits then c else { c with deficit := 0 }

/-- A matrix command reaches the head: a follower's split copy performs nothing (R184); the head checks; the first
sample of MFMT. -/
def State.beginMatrix (pair : Option (Nat × Nat)) (shape : Nat → Nat → MatShape) (gsplit : Bool) (s : State) : State :=
  let c := s.me
  let ends := fun (status : Nat) => (s.finishHead 64 status 0).updMe Core.settleDeficit
  if gsplit && decide (1 < c.gangSize) && decide (c.gangPos ≠ 0) then ends 0
  else
    let (a, b) := pair.getD (bitsOf c.user.mfmt 3 0, bitsOf c.user.mfmt 7 4)
    if (pair.isSome || pairOk a b) && shapeOk c (shape a b) then s.updMe (fun c => c.updHead 64 (fun e => { e with job := .matrix a b }))
    else ends 2

/-- MMA (R180, R191): taken up at the head. -/
def execMma (h : CmdHead) (c : MmaCmd) (s : State) : Host.Outcome State Fault Refusal :=
  event (fun s => s.takeHead 64 h (.mma c) (fun _ s => s.beginMatrix none (mmaShape c) c.gsplit)) s

/-- MMAT (R180, R192): A is INT8 and B is T2. -/
def execMmat (h : CmdHead) (c : MmaCmd) (s : State) : Host.Outcome State Fault Refusal :=
  event (fun s => s.takeHead 64 h (.mmat c) (fun _ s => s.beginMatrix (some (7, 9)) (mmaShape c) c.gsplit)) s

/-- MZERO (R180, R190). -/
def execMzero (h : CmdHead) (c : MzeroCmd) (s : State) : Host.Outcome State Fault Refusal :=
  event (fun s => s.takeHead 64 h (.mzero c) (fun _ s => s.beginMatrix (some (0, 0)) (fun _ _ => mzeroShape c) c.gsplit)) s

/-! ## The arbiter (R87) -/

/-- The head tile of a core's matrix queue can be issued: both streams are whole in its FIFOs (R183). -/
def Core.tileReady (c : Core) : Bool :=
  (c.run == .running) && (match c.headEntry 64 with
    | some e => e.state == .active && (match e.shape with
      | some x => decide (x.aBytes ≤ c.fifoA.bytes.length) && decide (x.bBytes ≤ c.fifoB.bytes.length)
      | none => false)
    | none => false)

/-- The matrix weight of the launch on a core. -/
def Core.matWeight (c : Core) : Nat := match c.unit with | some u => u.weight | none => 1

/-- The arbiter's visits from a position: the core found to issue, with the deficits left behind. The first visit
continues at the position without a new weight. -/
def State.arbVisit (s : State) (bay : Nat) : Nat → Nat → Bool → Option (Nat × State)
  | 0, _, _ => none
  | f + 1, pos, topUp =>
    let n := bay * 8 + pos
    let c := s.core n
    if !c.matrixWaits then (s.updCore n (fun c => { c with deficit := 0 })).arbVisit bay f ((pos + 1) % 8) true
    else
      let d := if topUp then min (c.deficit + c.matWeight) 15 else c.deficit
      let s := s.updCore n (fun c => { c with deficit := d })
      if 1 ≤ d ∧ c.tileReady then some (pos, s.updCore n (fun c => { c with deficit := d - 1 }))
      else s.arbVisit bay f ((pos + 1) % 8) true

/-- The bay's array holds a tile. -/
def State.bayBusy (s : State) (bay : Nat) : Bool := (List.range 8).any (fun i => (s.core (bay * 8 + i)).runTile.isSome)

/-- A tile can be issued in the current core's bay. -/
def State.canIssueTile (s : State) : Bool :=
  let bay := bayOf s.me.id
  !s.bayBusy bay && (List.range 8).any (fun i => (s.core (bay * 8 + i)).tileReady)

/-- The streams are released when the command ends, however it ends (R183). -/
def Fifo.release (f : Fifo) (n : Nat) : Fifo where
  bytes := f.bytes.drop n
  bad := (f.bad.filter (fun p => decide (n ≤ p))).map (fun p => p - n)

/-- A matrix command of a core ends. -/
def State.endMatrix (s : State) (core : Nat) (x : MatShape) (f : Entry → Entry) : State :=
  s.updCore core (fun c =>
    let t : Core := c.updHead 64 f
    ({ t with fifoA := t.fifoA.release x.aBytes, fifoB := t.fifoB.release x.bBytes, runTile := none } : Core).settleDeficit)

/-- A scale array of a format 6 command reaches beyond the store (R187). -/
def scalesOut (x : MatShape) (aoff boff : Nat) : Bool :=
  decide (0x40000 < aoff + x.m * ceilDiv x.k 32) || decide (0x40000 < boff + x.n * ceilDiv x.k 32)

/-- The start of a tile (R187, R188): the samples, of FCTL its rounding mode and UFE (R197); a changed format or a scale array out of bounds ends the command with
status 2 and the tile is not performed. -/
def State.startTile (s : State) (core : Nat) : State :=
  let c := s.core core
  match c.headEntry 64 with
  | none => s
  | some e =>
    match e.shape, e.job with
    | some x, .matrix a b =>
      let fa := bitsOf c.user.mfmt 3 0
      let fb := bitsOf c.user.mfmt 7 4
      let aoff := c.user.ascale.toNat
      let boff := c.user.bscale.toNat
      let isMma := match e.cmd with | .mma _ => true | _ => false
      let rm := match e.cmd with | .mma m => if m.rm = 0 then bitsOf c.user.fctl 2 0 else m.rm.toNat - 1 | _ => 0
      if isMma && ((decide (0 < e.pos) && (fa != a || fb != b)) || (a == 6 && scalesOut x aoff boff)) then
        s.endMatrix core x (fun e => e.finish 2 e.pos)
      else s.updCore core (fun c => { c with runTile := some { tile := e.pos, afmt := a, bfmt := b, aoff := aoff, boff := boff, rm := rm, ufe := c.ufTrap } })
    | _, _ => s

/-- MATRIX_TILE_ISSUE (R87): the arbiter of the current core's bay issues one tile. -/
def execMatrixTileIssue (s : State) : Host.Outcome State Fault Refusal :=
  event (fun s =>
    let bay := bayOf s.me.id
    if !s.canIssueTile then s
    else match assoc bay s.arbiter with
      | some pos => (match s.arbVisit bay 9 pos false with
        | some (p, t) => ({ t with arbiter := setAssoc bay p t.arbiter } : State).startTile (bay * 8 + p)
        | none => s)
      | none => (match s.arbVisit bay 9 0 true with
        | some (p, t) => ({ t with arbiter := setAssoc bay p t.arbiter } : State).startTile (bay * 8 + p)
        | none => s)) s

/-! ## What a tile computes (R191, R192) -/

/-- Element k of width w of a row that begins at a byte of a FIFO (R20, R181). -/
def streamElem (bs : List Byte) (off w k : Nat) : Nat :=
  leVal ((bs.drop (off + k * w / 8)).take (max 1 (w / 8))) / 2 ^ (k * w % 8) % 2 ^ w

/-- The element has an uncorrectable error (R193). -/
def streamBad (f : Fifo) (off w k : Nat) : Bool :=
  f.bad.any (fun p => decide (off + k * w / 8 ≤ p) && decide (p < off + k * w / 8 + max 1 (w / 8)))

/-- A replacement by zero: operand, row or column, first k, elements replaced (R193, R194). -/
structure Replaced where
  opnd : Nat
  row : Nat
  kidx : Nat
  count : Nat
  deriving DecidableEq, Repr

/-- The scale byte of a row or column and block (R187). -/
def State.scaleByte (s : State) (core off nb i b : Nat) : Nat := s.peek (localKey core (off + i * nb + b)) 1
/-- It has an uncorrectable error. -/
def State.scaleBad (s : State) (core off nb i b : Nat) : Bool := s.eccError (localKey core (off + i * nb + b)) 1

/-- The replacements a tile makes on one operand: elements, then scales (R193). -/
def State.replacements (s : State) (core : Nat) (f : Fifo) (rb w k opnd off : Nat) (scaled : Bool) (lines : List Nat) : List Replaced :=
  let nb := ceilDiv k 32
  lines.flatMap (fun i => (List.range k).filterMap (fun q => if streamBad f (i * rb) w q then some ⟨opnd, i, q, 1⟩ else none)) ++
  (if scaled then lines.flatMap (fun i => (List.range nb).filterMap (fun b =>
    if s.scaleBad core off nb i b then some ⟨opnd + 2, i, 32 * b, min 32 (k - 32 * b)⟩ else none)) else [])

/-- An operand's element as the tile uses it: zero where it, or its scale, has an uncorrectable error (R193). -/
def State.operand (s : State) (core : Nat) (f : Fifo) (rb w k off : Nat) (scaled : Bool) (i q : Nat) : Nat :=
  if streamBad f (i * rb) w q || (scaled && s.scaleBad core off (ceilDiv k 32) i (q / 32)) then 0 else streamElem f.bytes (i * rb) w q

/-- The E8 scale of a block: 2^(e − 127), none for NaN (R18); an unreadable scale covers zeros only. -/
def State.scaleExp (s : State) (core off nb i b : Nat) : Option Int :=
  if s.scaleBad core off nb i b then some 0
  else
    let e := s.scaleByte core off nb i b
    if e = 0xFF then none else some ((e : Int) - 127)

/-- One group of a floating-point element (R34). -/
def fpGroup (mode : Mode) (ut : Bool) (facc fa fb : Fmt) (fzi fzo : Bool) (scale : Option Int) (pairs : List (Nat × Nat)) (acc : Nat × Exc) : Nat × Exc :=
  let ins := pairs.map (fun x => (flushIn fa fzi x.1, flushIn fb fzi x.2))
  let vals := ins.map (fun x => (unpack fa x.1.1, unpack fb x.2.1))
  let flags := excAll (ins.map (fun x => x.1.2.or x.2.2))
  let sig := vals.any (fun v => v.1.isSnan || v.2.isSnan)
  let sum := groupSum mode (vals.map (fun v => mulVals v.1 v.2)) sig (scale.getD 0)
  let sum' := if scale.isNone then (FVal.nan false, sum.2) else sum
  let r := flushOut facc fzo (accumulate facc mode ut (unpack facc acc.1) sum')
  (r.1, (acc.2.or flags).or r.2)

/-- The sum of one integer group (R35). -/
def intGroup (isat : Bool) (terms : List Int) (acc : Int × Bool) : Int × Bool :=
  let x := acc.1 + terms.foldl (· + ·) 0
  if isat then (clampInt x (-(2 ^ 31)) (2 ^ 31 - 1), acc.2 || decide (x ≠ clampInt x (-(2 ^ 31)) (2 ^ 31 - 1)))
  else (sintN 32 (x % 2 ^ 32).toNat, acc.2)

/-- The value of a T2 code (R19, R192). -/
def t2Value (c : Nat) : Int :=
  match c with
  | 1 => 1
  | 3 => -1
  | _ => 0

/-- The start indices of the groups of K. -/
def groupStarts (k g : Nat) : List Nat := (List.range (ceilDiv k g)).map (· * g)

/-- The first accumulator word of element (i, j) in the allotment of its target core (R189). -/
def accIndex (c : Core) (x : MatShape) (i j : Nat) : Nat := x.abase + (i % rowsPer c x) * x.apitch + j * x.ew

/-- The words of an accumulator (R345: low word first). -/
def Core.accRead (c : Core) (w ew : Nat) : Nat :=
  if ew = 2 then (c.accWord w).toNat + 2 ^ 32 * (c.accWord (w + 1)).toNat else (c.accWord w).toNat

/-- A word of it has an uncorrectable error (R195). -/
def Core.accBadAt (c : Core) (w ew : Nat) : Bool := (List.range ew).any (fun i => c.accumBad.contains (w + i))

/-- Write the words of an accumulator; their errors go with them. -/
def Core.accWrite (c : Core) (w ew v : Nat) : Core :=
  (List.range ew).foldl (fun (c : Core) i =>
    let x := BitVec.ofNat 32 (v / 2 ^ (32 * i))
    { c with
      accum := if x = 0 then delAssoc (w + i) c.accum else setAssoc (w + i) x c.accum
      accumBad := c.accumBad.filter (fun b => b != w + i) }) c

/-- The unit of the gang member whose allotment holds row i of a split command (R189). -/
def accUnit (u : UnitCfg) (rb i : Nat) : Nat := u.unit - u.gangPos + i / rb

/-- The target core of row i (R189): the issuing core; of a split command the gang member at its place, on its core or
in its image. What the rows are of a member that has ended in a split gang R189 does not say: the model reads zeros and
drops the writes. DESIGN CHOICE (log 20). -/
def State.accHolder (s : State) (c : Core) (x : MatShape) (i : Nat) : Core :=
  match splits c x, c.unit with
  | true, some u => (s.findUnit u.launch (accUnit u (rowsPer c x) i)).getD (Core.fresh 0)
  | _, _ => s.core c.id

/-- Write element (i, j) of a command to its target core. -/
def State.accPut (s : State) (c : Core) (x : MatShape) (i j v : Nat) : State :=
  let f := fun (t : Core) => t.accWrite (accIndex c x i j) x.ew v
  match splits c x, c.unit with
  | true, some u => s.atUnit u.launch (accUnit u (rowsPer c x) i) f
  | _, _ => s.updCore c.id f

/-- The result of element (i, j) of a tile from its accumulator, with its exceptions (R34, R35, R191, R192). -/
def State.element (s : State) (c : Core) (cmd : MmaCmd) (x : MatShape) (r : RunTile) (acc i j : Nat) : Nat × Exc :=
  let k := x.k
  let wa := mfmtWidth r.afmt
  let wb := mfmtWidth r.bfmt
  let sc := r.afmt == 6
  let nb := ceilDiv k 32
  let a := fun (q : Nat) => s.operand c.id c.fifoA (rowBytes k wa) wa k r.aoff sc i q
  let b := fun (q : Nat) => s.operand c.id c.fifoB (rowBytes k wb) wb k r.boff sc j q
  let g := mfmtGroup r.afmt
  let idx := fun (q0 : Nat) => (List.range (min g (k - q0))).map (fun i => q0 + i)
  if r.afmt = 7 then
    let res := (groupStarts k g).foldl (fun st q0 => intGroup cmd.isat ((idx q0).map (fun q =>
      sintN 8 (a q) * (if r.bfmt = 9 then t2Value (b q) else sintN 8 (b q)))) st) (sintN 32 acc, false)
    let tr := decide (r.bfmt = 9) && (List.range k).any (fun q => b q == 2)
    ((res.1 % 2 ^ 32).toNat, { sat := res.2, tr := tr })
  else
    let facc : Fmt := if r.afmt = 0 then .f64 else .f32
    (groupStarts k g).foldl (fun st q0 =>
      let scale : Option Int := if sc then (match s.scaleExp c.id r.aoff nb i (q0 / 32), s.scaleExp c.id r.boff nb j (q0 / 32) with
        | some u, some v => some (u + v)
        | _, _ => none) else some 0
      fpGroup (modeOfRm r.rm) r.ufe facc (mfmtFmt r.afmt) (mfmtFmt r.bfmt) cmd.fzi cmd.fzo scale ((idx q0).map (fun q => (a q, b q))) st) (acc, Exc.none)

/-- MERRSTAT, MERRLOG0 and MERRLOG1 at a replacement (R194). -/
def Core.logReplaced (c : Core) (tag : BitVec 16) (tile cycle : Nat) (x : Replaced) : Core :=
  let u := c.user
  { c with user :=
      if u.merrstat.getLsbD 1 then { u with merrstat := u.merrstat ||| 5 }
      else
        { u with
          merrstat := u.merrstat ||| 3
          merrlog0 := BitVec.ofNat 64 (tag.toNat * 2 ^ 48 + x.opnd * 2 ^ 46 + x.row * 2 ^ 38 + x.kidx * 2 ^ 22)
          merrlog1 := BitVec.ofNat 64 (tile * 2 ^ 32 + cycle % 2 ^ 32) } }

/-- The replacements of a tile are logged, in order (R194), and what the registers held before it is kept for a write of
MERRSTAT in the same cycle (R197). -/
def Core.logTile (c : Core) (tag : BitVec 16) (tile cycle : Nat) (xs : List Replaced) : Core :=
  let d := xs.foldl (fun (c : Core) y => c.logReplaced tag tile cycle y) c
  match xs with
  | [] => d
  | y :: rest =>
    let first := (({ c with user := { c.user with merrstat := 0 } } : Core).logReplaced tag tile cycle y).user
    { d with tileLog := some {
        cycle := cycle, stat := c.user.merrstat, log0 := c.user.merrlog0, log1 := c.user.merrlog1
        new0 := first.merrlog0, new1 := first.merrlog1, many := !rest.isEmpty } }

/-- Move one element of a list to the front. -/
def toFront {α : Type} (i : Nat) (l : List α) : List α :=
  match l[i]? with
  | some a => a :: (l.take i ++ l.drop (i + 1))
  | none => l

/-- A tile of an MMA or MMAT ends (R191 to R195): an accumulator word with an uncorrectable error ends the command with
cause 22; otherwise results, flags and counts in one step. Which of several replacements is logged is a free choice (log 3). -/
def State.tileMma (s : State) (c : Core) (e : Entry) (cmd : MmaCmd) (x : MatShape) (r : RunTile) : State :=
  let at' := (x.live r.tile).flatMap (fun i => (x.cols r.tile).map (fun j => (i, j)))
  if at'.any (fun p => (s.accHolder c x p.1).accBadAt (accIndex c x p.1 p.2) x.ew) then
    s.endMatrix c.id x (fun e => { e.fail 22 0 with count := e.pos })
  else
    let (t, exc) := at'.foldl (fun (st : State × Exc) p =>
      let y := s.element c cmd x r ((st.1.accHolder c x p.1).accRead (accIndex c x p.1 p.2) x.ew) p.1 p.2
      (st.1.accPut c x p.1 p.2 y.1, st.2.or y.2)) (s, Exc.none)
    let sc := r.afmt == 6
    let live := !(x.live r.tile).isEmpty
    let reps := if live then
        s.replacements c.id c.fifoA (rowBytes x.k (mfmtWidth r.afmt)) (mfmtWidth r.afmt) x.k 0 r.aoff sc (x.live r.tile) ++
        s.replacements c.id c.fifoB (rowBytes x.k (mfmtWidth r.bfmt)) (mfmtWidth r.bfmt) x.k 1 r.boff sc (x.cols r.tile)
      else []
    let order := toFront (if 1 < reps.length then Config.freeChoice s.fresh % reps.length else 0) reps
    let t := { t with fresh := if 1 < reps.length then t.fresh + 1 else t.fresh }
    let t := t.updCore c.id (fun c =>
      ((c.accrue [exc]).logTile e.head.tag r.tile s.cycle order).countEvent 6 (sumNat (reps.map (·.count))))
    if e.pos + 1 = x.tiles then t.endMatrix c.id x (fun e => { e with pos := e.pos + 1 }.finish 0 x.tiles)
    else t.updCore c.id (fun c => let d : Core := c.updHead 64 (fun e => { e with pos := e.pos + 1, moved := e.pos + 1 }); { d with runTile := none })

/-- A tile of an MZERO ends (R190): all-zero bits, no flag. -/
def State.tileZero (s : State) (c : Core) (e : Entry) (x : MatShape) (r : RunTile) : State :=
  let at' := (x.rows r.tile).flatMap (fun i => (x.cols r.tile).map (fun j => (i, j)))
  let t := at'.foldl (fun (t : State) p => t.accPut c x p.1 p.2 0) s
  if e.pos + 1 = x.tiles then t.endMatrix c.id x (fun e => { e with pos := e.pos + 1 }.finish 0 x.tiles)
  else t.updCore c.id (fun c => let d : Core := c.updHead 64 (fun e => { e with pos := e.pos + 1, moved := e.pos + 1 }); { d with runTile := none })

/-- MATRIX_TILE_COMPLETE (R191): the tile in the array that the current core issued ends. -/
def execMatrixTileComplete (s : State) : Host.Outcome State Fault Refusal :=
  event (fun s => match s.me.runTile, s.me.headEntry 64 with
    | some r, some e => (match e.shape, e.cmd with
      | some x, .mma c => s.tileMma s.me e c x r
      | some x, .mmat c => s.tileMma s.me e c x r
      | some x, .mzero _ => s.tileZero s.me e x r
      | _, _ => s)
    | _, _ => s) s

end Sys2Proof.Machine
end

