-- ==== Sys2Proof/Machine/Routing.lean ====
section
/-!
DEFINITION. The routing engines and the auction (R198 to R216): each class-2 command as one piece of work.
-/
namespace Sys2Proof.Machine

open Sys2Proof

/-! ## The frame of a class-2 command (R198 to R200) -/

/-- What a command comes to: status, count, output bytes in order, and the price banks to write. -/
structure Routed where
  status : Nat
  count : Nat
  writes : List (Nat × List Byte)
  banks : List PriceBank
  deriving DecidableEq, Repr

/-- A command that ends at its head: status 2, nothing written. -/
def Routed.rejected : Routed where
  status := 2
  count := 0
  writes := []
  banks := []

/-- Where the reading side of a class-2 command stands: what it has read before and goes first, in the order of its reading;
all that it has read; where it has read anew; the price banks it has begun on. -/
structure RdState where
  ahead : List (List Byte)
  read : List (List Byte)
  seen : List (Nat × Nat)
  banks : List Nat
  deriving DecidableEq, Repr

/-- A try of a command with what it has read before. -/
def RdState.start (ahead : List (List Byte)) : RdState where
  ahead := ahead
  read := []
  seen := []
  banks := []

/-- The reading side of a class-2 command: all that it has read is kept, also when an access is refused (R338, R388). An
error with .ok is no access: the command waits for a price bank. -/
abbrev Rd := ExceptT (EngRes × Nat) (StateM RdState)

/-- The next read of a command. -/
def State.rget (s : State) (va n : Nat) : Rd (List Byte) := fun st =>
  match st.ahead with
  | b :: rest => (.ok b, { st with ahead := rest, read := st.read ++ [b] })
  | [] => match s.engLoad s.me va n with
    | .ok bs => (.ok bs, { st with ahead := [], read := st.read ++ [bs], seen := st.seen ++ [(va, n)] })
    | .error r => (.error (r, va), st)

/-- A command that has read nothing before. -/
def Rd.fromStart {α : Type} (r : Rd α) : Served α := (r (RdState.start [])).1

/-- Outputs written in order; what was written before a refusal or a fault stays written (R199), and how many those are. -/
def State.writeOuts (s : State) : List (Nat × List Byte) → Except (EngRes × Nat × Nat × State) State
  | [] => .ok s
  | (va, bs) :: rest => match s.engStore s.me.id va bs with
    | .ok t => (match t.writeOuts rest with
      | .ok u => .ok u
      | .error (r, a, n, u) => .error (r, a, n + 1, u))
    | .error (r, t) => .error (r, va, 0, t)

/-- A price bank is written, once, as a single step (R209). -/
def State.putBank (s : State) (b : PriceBank) : State :=
  { s with banks := s.banks.map (fun x => if x.die == b.die && x.num == b.num then b else x) }

/-- What the head routing command has read and written in earlier tries. -/
def Core.routed (c : Core) : List (List Byte) × Nat :=
  match c.headEntry 65 with
  | some e => (match e.job with | .routing read written => (read, written) | _ => ([], 0))
  | none => ([], 0)

/-- It keeps them while it waits. -/
def State.keepRouted (s : State) (read : List (List Byte)) (written : Nat) : State :=
  s.updMe (fun c => c.updHead 65 (fun e => { e with job := .routing read written }))

/-- The auction unit of the current core's die has begun a command of the core on some of its banks (R209). -/
def State.takeBanks (s : State) (ds : List Nat) : State :=
  { s with banks := s.banks.map (fun b => if b.die == dieOf s.me.id && ds.contains b.num then { b with user := some s.me.id } else b) }

/-- A command meets what stops it. A refused or migrating access lets it wait, with its banks; a fault ends it, and its
banks are free (R200, R209). -/
def State.routingMet (s : State) (m : EngRes) (va : Nat) (ds : List Nat) : State :=
  match m with
  | .fault _ => (s.engineMet 65 m va).leaveBanks s.me.id
  | _ => (s.engineMet 65 m va).takeBanks ds

/-- The bytes of its outputs that count for a bound command (R199, R337). -/
def State.countedOuts (s : State) (e : Entry) (outs : List (Nat × List Byte)) : Nat :=
  sumNat (outs.map (fun w => if s.counts e w.1 then w.2.length else 0))

/-- A class-2 command is performed (R199, R200): its outputs, then its banks; the output bytes of a bound command are
counted at its report. A fault ends it with status 3; after a refused or migrating access it goes on where it stopped
(R388), and until then no other command has its banks (R209). -/
def State.endRouting (s : State) (r : Rd Routed) : State :=
  let (read, written) := s.me.routed
  let (res, st) := r (RdState.start read)
  let s := st.seen.foldl (fun (s : State) x => s.seen x.1 x.2) s
  match res with
  | .error (m, va) => (s.keepRouted st.read written).routingMet m va st.banks
  | .ok x => match s.writeOuts (x.writes.drop written) with
    | .error (m, va, n, t) => (t.keepRouted st.read (written + n)).routingMet m va st.banks
    | .ok t =>
      let t := (x.banks.foldl State.putBank t).leaveBanks s.me.id
      t.updMe (fun c => c.updHead 65 (fun e => { e with pos := s.countedOuts e x.writes }.finish x.status x.count))

/-- A command whose channel is bound and whose ranges pass the head check (R118, R199). -/
def routeOk (c : Core) (h : CmdHead) (ins outs : List (Nat × Nat)) : Bool := c.bindOk h && rangesOk ins outs && outsApart outs

/-- The 4-byte words of n numbers. -/
def words4 (xs : List Nat) : List Byte := xs.flatMap (leBytes 4)

/-! ## HIST, PSUM, APPORT, RSORT -/

/-- HIST (R201). -/
def State.routeHist (s : State) (h : CmdHead) (c : HistCmd) : Rd Routed := do
  let n := c.ntok.toNat
  let ne := c.ne.toNat
  if routeOk s.me h [(c.ids.toNat, 2 * n)] [(c.cnt.toNat, 4 * ne)] then do
    let bs ← s.rget c.ids.toNat (2 * n)
    let ids := (List.range n).map (fun i => blk2 bs (2 * i))
    let counts := (List.range ne).map (fun e => (ids.filter (fun i => i == e)).length)
    pure { Routed.rejected with status := 0, count := (ids.filter (fun i => decide (ne ≤ i))).length, writes := [(c.cnt.toNat, words4 counts)] }
  else pure Routed.rejected

/-- The exclusive sums of a list, with the total last. -/
def prefixSums : Nat → List Nat → List Nat
  | acc, [] => [acc]
  | acc, x :: rest => acc :: prefixSums (acc + x) rest

/-- PSUM (R202). -/
def State.routePsum (s : State) (h : CmdHead) (c : PsumCmd) : Rd Routed := do
  let ne := c.ne.toNat
  if routeOk s.me h [(c.cnt.toNat, 4 * ne)] [(c.offs.toNat, 4 * (ne + 1))] then do
    let bs ← s.rget c.cnt.toNat (4 * ne)
    let counts := (List.range ne).map (fun i => blk4 bs (4 * i))
    let total := sumNat counts
    pure { Routed.rejected with
      status := if 2 ^ 32 ≤ total then 17 else 0
      count := total
      writes := [(c.offs.toNat, words4 (prefixSums 0 counts))] }
  else pure Routed.rejected

/-- The bays of each expert (R207). -/
def apportion (nb : Nat) (ns : List Nat) : List Nat :=
  let n := sumNat ns
  if n = 0 then ns.map (fun _ => 0)
  else
    let q := ns.map (fun x => nb * x / n)
    let rem := ns.map (fun x => nb * x % n)
    let left := nb - sumNat q
    let better := fun (e : Nat) => ((List.range ns.length).filter (fun f =>
      decide (nth 0 rem e < nth 0 rem f) || (nth 0 rem f == nth 0 rem e && decide (f < e)))).length
    (List.range ns.length).map (fun e => nth 0 q e + (if better e < left then 1 else 0))

/-- APPORT (R207). -/
def State.routeApport (s : State) (h : CmdHead) (c : ApportCmd) : Rd Routed := do
  let ne := c.ne.toNat
  if routeOk s.me h [(c.cnt.toNat, 4 * ne)] [(c.bays.toNat, 2 * ne)] then do
    let bs ← s.rget c.cnt.toNat (4 * ne)
    let bays := apportion c.nb.toNat ((List.range ne).map (fun i => blk4 bs (4 * i)))
    pure { Routed.rejected with status := 0, count := sumNat bays, writes := [(c.bays.toNat, bays.flatMap (leBytes 2))] }
  else pure Routed.rejected

/-- A range lies in die shared memory of a die (R204). -/
def inDieShared (die va n : Nat) : Bool :=
  match windowOf va, windowOf (va + n - 1) with
  | .shared a _, .shared b _ => a == die && b == die
  | _, _ => false

/-- The order of RSORT's pairs: expert, then token index; equal pairs keep their order (R204). -/
def pairLe (a b : Nat) : Bool :=
  decide (a % 2 ^ 16 < b % 2 ^ 16) || (a % 2 ^ 16 == b % 2 ^ 16 && decide (a / 2 ^ 32 ≤ b / 2 ^ 32))

/-- RSORT (R204). -/
def State.routeRsort (s : State) (h : CmdHead) (c : RsortCmd) : Rd Routed := do
  let n := c.np.toNat
  let die := dieOf s.me.id
  if routeOk s.me h [(c.src.toNat, 8 * n)] [(c.dst.toNat, 8 * n)] ∧ inDieShared die c.src.toNat (8 * n) ∧ inDieShared die c.dst.toNat (8 * n) then do
    let bs ← s.rget c.src.toNat (8 * n)
    let ps := (List.range n).map (fun i => blk8 bs (8 * i))
    if ps.any (fun p => natBits p 31 16 != 0) then pure Routed.rejected
    else pure { Routed.rejected with status := 0, count := n, writes := [(c.dst.toNat, (sortBy pairLe ps).flatMap (leBytes 8))] }
  else pure Routed.rejected

/-! ## TOPK (R205, R206) -/

/-- The ordered integer of a key (R205). -/
def topkMap (kfmt u : Nat) : Nat :=
  match kfmt with
  | 0 => if u < 2 ^ 31 then u + 2 ^ 31 else 2 ^ 32 - 1 - u
  | 1 => (u + 2 ^ 31) % 2 ^ 32
  | _ => u

/-- The bit-serial selection from bit b − 1 down (R206); columns are in ascending order, so the tie keeps the lowest. -/
def topkSelect (m : Nat → Nat) : Nat → Nat → List Nat → List Nat → List Nat
  | 0, need, cand, chosen => chosen ++ cand.take need
  | b + 1, need, cand, chosen =>
    if need = 0 then chosen
    else
      let ones := cand.filter (fun c => (m c).testBit b)
      if need ≤ ones.length then topkSelect m b need ones chosen
      else topkSelect m b (need - ones.length) (cand.filter (fun c => !(m c).testBit b)) (chosen ++ ones)

/-- The chosen columns of a row, in descending m, ties to the lower column (R206). -/
def topkRow (kfmt k : Nat) (keys : List Nat) : List Nat :=
  let m := fun (c : Nat) => topkMap kfmt (nth 0 keys c)
  let chosen := topkSelect m 32 k (List.range keys.length) []
  sortBy (fun a b => decide (m b < m a) || (m a == m b && decide (a ≤ b))) chosen

/-- A row's mask doublewords (R206). -/
def topkMask (nc : Nat) (chosen : List Nat) : List Byte := leBytes (8 * ceilDiv nc 64) (sumNat (chosen.map (fun c => 2 ^ c)))

/-- TOPK (R205, R206, R349). -/
def State.routeTopk (s : State) (h : CmdHead) (c : TopkCmd) : Rd Routed := do
  let nr := c.nr.toNat
  let nc := c.nc.toNat
  let k := c.k.toNat
  if !s.me.bindOk h ∨ triggerHit c.parm.toNat 32 then pure Routed.rejected
  else do
    let bs ← s.rget c.parm.toNat 32
    let keys := blk8 bs 0
    let mask := blk8 bs 8
    let idx := blk8 bs 16
    let mb := 8 * ceilDiv nc 64
    let outs := (mask, mb * nr) :: (if idx = 0 then [] else [(idx, 2 * k * nr)])
    if keys % 4 = 0 ∧ mask % 8 = 0 ∧ idx % 2 = 0 ∧ blkZero bs 24 8 ∧ routeOk s.me h [(keys, 4 * nc * nr)] outs then do
      let ks ← s.rget keys (4 * nc * nr)
      let rows := (List.range nr).map (fun r => topkRow c.kfmt.toNat k ((List.range nc).map (fun i => blk4 ks (4 * (r * nc + i)))))
      pure { Routed.rejected with
        status := 0
        count := nr
        writes := (mask, rows.flatMap (topkMask nc)) :: (if idx = 0 then [] else [(idx, rows.flatMap (fun r => r.flatMap (leBytes 2)))]) }
    else pure Routed.rejected

/-! ## Price banks (R208 to R210) -/

/-- The bank a domain names for the current core, when its context owns it (R208). -/
def State.bankOf (s : State) (d : Nat) : Option PriceBank :=
  s.banks.find? (fun b => b.die == dieOf s.me.id && b.num == d && b.owner == some s.me.ctx)

/-- A command begins on a bank of its die, or waits while another core's command has it (R209). -/
def State.claim (s : State) (d : Nat) : Rd Unit := fun st =>
  match s.bankOf d with
  | some b =>
    if b.user.all (· == s.me.id) then (.ok (), { st with banks := st.banks ++ [d] })
    else (.error (.ok 0, 0), { st with banks := [] })
  | none => (.ok (), st)

/-- A price. -/
def PriceBank.price (b : PriceBank) (i : Nat) : Int := ((assoc i b.prices).getD 0).toInt

/-- Set a price. -/
def PriceBank.setPrice (b : PriceBank) (i : Nat) (x : Int) : PriceBank :=
  let w := BitVec.ofInt 32 x
  { b with prices := if w = 0 then delAssoc i b.prices else setAssoc i w b.prices }

/-- Set prices from an index upward. -/
def PriceBank.setPrices (b : PriceBank) (first : Nat) (xs : List Int) : PriceBank :=
  xs.zipIdx.foldl (fun (b : PriceBank) x => b.setPrice (first + x.2) x.1) b

/-- sat32 (R210). -/
def sat32 (x : Int) : Int := clampInt x (-(2 ^ 31)) (2 ^ 31 - 1)

/-- The prices a PRICE command names. -/
def PriceCmd.values (c : PriceCmd) (b : PriceBank) : List Int := (List.range c.num.toNat).map (fun i => b.price (c.first.toNat + i))

/-- PRICE READ (R210). -/
def State.routePriceRead (s : State) (h : CmdHead) (c : PriceCmd) : Rd Routed :=
  match s.bankOf c.dom.toNat with
  | some b =>
    if routeOk s.me h [] [(c.addr.toNat, 4 * c.num.toNat)] then do
      s.claim c.dom.toNat
      pure { Routed.rejected with status := 0, count := c.num.toNat, writes := [(c.addr.toNat, words4 ((PriceCmd.values c b).map (fun x => (x % 2 ^ 32).toNat)))] }
    else pure Routed.rejected
  | none => pure Routed.rejected

/-- PRICE WRITE (R210). -/
def State.routePriceWrite (s : State) (h : CmdHead) (c : PriceCmd) : Rd Routed :=
  match s.bankOf c.dom.toNat with
  | some b =>
    if routeOk s.me h [(c.addr.toNat, 4 * c.num.toNat)] [] then do
      s.claim c.dom.toNat
      let bs ← s.rget c.addr.toNat (4 * c.num.toNat)
      let xs := (List.range c.num.toNat).map (fun i => sintN 32 (blk4 bs (4 * i)))
      pure { Routed.rejected with status := 0, count := c.num.toNat, banks := [b.setPrices c.first.toNat xs] }
    else pure Routed.rejected
  | none => pure Routed.rejected

/-- PRICE SCALE (R210): P = sat32((P × NUMER) >> SHIFT); the count is of the registers saturated. -/
def State.routePriceScale (s : State) (h : CmdHead) (c : PriceCmd) : Rd Routed :=
  match s.bankOf c.dom.toNat with
  | some b =>
    if s.me.bindOk h then do
      s.claim c.dom.toNat
      let raw := (PriceCmd.values c b).map (fun (x : Int) => x * (c.numer.toNat : Int) / 2 ^ c.shift.toNat)
      pure { Routed.rejected with status := 0, count := (raw.filter (fun x => sat32 x != x)).length, banks := [b.setPrices c.first.toNat (raw.map sat32)] }
    else pure Routed.rejected
  | none => pure Routed.rejected

/-- PRICE RESET (R210). -/
def State.routePriceReset (s : State) (h : CmdHead) (c : PriceCmd) : Rd Routed :=
  match s.bankOf c.dom.toNat with
  | some b =>
    if s.me.bindOk h then do
      s.claim c.dom.toNat
      pure { Routed.rejected with status := 0, count := c.num.toNat, banks := [b.setPrices c.first.toNat (List.replicate c.num.toNat 0)] }
    else pure Routed.rejected
  | none => pure Routed.rejected

/-! ## The auction (R211 to R215) -/

/-- A token's standing assignment: token, expert, bid, round, placed at the limit. -/
structure Holding where
  token : Nat
  expert : Nat
  bid : Int
  round : Nat
  limit : Bool
  deriving DecidableEq, Repr

/-- A domain's auction: prices, holdings, rounds used, saturation, price changes. -/
structure Auction where
  prices : List Int
  held : List Holding
  rounds : Nat
  sat : Bool
  changes : Nat
  deriving DecidableEq, Repr

/-- sat32 and whether it clamped. -/
def satStep (x : Int × Bool) (y : Int) : Int × Bool := (sat32 y, x.2 || decide (sat32 y ≠ y))

/-- w[e] = sat32(A[t][e] − P[e]), with its clamp (R212). -/
def bidWeight (aff : Nat → Int) (p : List Int) (e : Nat) : Int × Bool := satStep (0, false) (aff e - nth 0 p e)

/-- The first of the greatest weights over a list of experts. -/
def bestExpert (w : Nat → Int) : List Nat → Nat
  | [] => 0
  | e :: rest => rest.foldl (fun b x => if w b < w x then x else b) e

/-- A token's bid: expert, bid, whether a step clamped (R212). -/
def bidOf (eps : Int) (active : List Nat) (aff : Nat → Int) (p : List Int) : Nat × Int × Bool :=
  let w := fun (e : Nat) => (bidWeight aff p e).1
  let e1 := bestExpert w active
  let others := active.filter (fun e => e != e1)
  let w2 := if others.isEmpty then w e1 else w (bestExpert w others)
  let a := satStep (0, active.any (fun e => (bidWeight aff p e).2)) (w e1 - w2)
  let b := satStep a (nth 0 p e1 + a.1)
  let c := satStep b (b.1 + eps)
  (e1, c.1, c.2)

/-- The order of a pool: higher bids first, on equal bids the lower token (R212). -/
def poolLe (a b : Holding) : Bool := decide (b.bid < a.bid) || (a.bid == b.bid && decide (a.token ≤ b.token))

/-- The least of the bids of a list. -/
def minBid : List Holding → Int
  | [] => 0
  | h :: rest => rest.foldl (fun m x => min m x.bid) h.bid

/-- One Jacobi round (R212). -/
def auctionRound (eps : Int) (caps : List Nat) (tokens : List Nat) (aff : Nat → Nat → Int) (a : Auction) : Auction :=
  let active := (List.range caps.length).filter (fun e => decide (0 < nth 0 caps e))
  let free := tokens.filter (fun t => !a.held.any (fun h => h.token == t))
  let bids := free.map (fun t => (t, bidOf eps active (aff t) a.prices))
  let round := a.rounds + 1
  active.foldl (fun (st : Auction) e =>
    let news := (bids.filter (fun b => b.2.1 == e)).map (fun b => (⟨b.1, e, b.2.2.1, round, false⟩ : Holding))
    let pool := sortBy poolLe (a.held.filter (fun h => h.expert == e) ++ news)
    let kept := pool.take (nth 0 caps e)
    let old := nth 0 a.prices e
    let new := if kept.length = nth 0 caps e then minBid kept else old
    { st with
      held := st.held.filter (fun h => h.expert != e) ++ kept
      prices := setNth e new st.prices
      changes := if new = old then st.changes else st.changes + 1 })
    { a with rounds := round, sat := a.sat || bids.any (fun b => b.2.2.2) }

/-- Rounds until every token is assigned or LIM rounds have run (R212). -/
def auctionRounds (eps : Int) (caps : List Nat) (tokens : List Nat) (aff : Nat → Nat → Int) : Nat → Auction → Auction
  | 0, a => a
  | f + 1, a => if a.held.length = tokens.length then a else auctionRounds eps caps tokens aff f (auctionRound eps caps tokens aff a)

/-- Placements at the limit, in ascending token index (R213). -/
def placeLimit (lim : Nat) (caps : List Nat) (aff : Nat → Nat → Int) (a : Auction) (t : Nat) : Auction :=
  if a.held.any (fun h => h.token == t) then a
  else
    let open' := (List.range caps.length).filter (fun e => decide ((a.held.filter (fun h => h.expert == e)).length < nth 0 caps e))
    let w := fun (e : Nat) => (bidWeight (aff t) a.prices e).1
    { a with
      held := a.held ++ [⟨t, bestExpert w open', 0, lim, true⟩]
      sat := a.sat || open'.any (fun e => (bidWeight (aff t) a.prices e).2) }

/-- A domain's auction from its bank's prices (R212, R213). -/
def auction (eps : Int) (lim : Nat) (caps : List Nat) (tokens : List Nat) (aff : Nat → Nat → Int) (prices : List Int) : Auction :=
  let a := auctionRounds eps caps tokens aff lim { prices := prices, held := [], rounds := 0, sat := false, changes := 0 }
  tokens.foldl (placeLimit lim caps aff) a

/-- Capacities computed under AUTO (R211). -/
def autoCaps (nt ne : Nat) : List Nat := (List.range ne).map (fun e => nt / ne + (if e < nt % ne then 1 else 0))

/-- A token's record (R214). -/
def tokenRecord (a : Auction) (t : Nat) : Nat :=
  match a.held.find? (fun h => h.token == t) with
  | some h => h.round * 2 ^ 16 + (if h.limit then 2 ^ 12 else 0) + h.expert
  | none => 0

/-- A domain's status record (R214). -/
def statusRecord (d : Nat) (a : Auction) : List Byte :=
  let placed := (a.held.filter (fun h => h.limit)).length
  leBytes 2 a.rounds ++ leBytes 1 d ++ leBytes 1 ((if a.sat then 1 else 0) + (if 0 < placed then 2 else 0)) ++ leBytes 4 placed ++
    leBytes 4 a.changes ++ leBytes 4 0

/-- AUCT once its head checks have passed: capacities, rounds, outputs and banks (R211 to R214). -/
def State.runAuction (s : State) (c : AuctCmd) (aaddr caddr oaddr saddr : Nat) (doms : List (Nat × List Nat × PriceBank)) : Rd Routed := do
  let nt := c.nt.toNat
  let ne := c.ne.toNat
  let caps ← doms.mapM (fun d => if c.auto then (pure (autoCaps d.2.1.length ne) : Rd (List Nat)) else do
    let bs ← s.rget (caddr + 2 * ne * d.1) (2 * ne)
    pure ((List.range ne).map (fun e => blk2 bs (2 * e))))
  if (doms.zip caps).any (fun x => sumNat x.2 != x.1.2.1.length) then pure { Routed.rejected with status := 16 }
  else do
    let bs ← s.rget aaddr (2 * nt * ne)
    let aff := fun (t e : Nat) => sintN 16 (blk2 bs (2 * (t * ne + e)))
    let runs := (doms.zip caps).map (fun x => (x.1, auction c.eps.toNat c.lim.toNat x.2 x.1.2.1 aff ((List.range ne).map x.1.2.2.price)))
    let recs := (List.range nt).map (fun t => sumNat (runs.map (fun r => if r.1.2.1.contains t then tokenRecord r.2 t else 0)))
    pure { Routed.rejected with
      status := 0
      count := nt
      writes := (oaddr, words4 recs) :: runs.map (fun r => (saddr + 16 * r.1.1, statusRecord r.1.1 r.2))
      banks := runs.map (fun r => r.1.2.2.setPrices 0 r.2.prices) }

/-- AUCT (R211 to R215, R349): the head checks of status 2 first. -/
def State.routeAuct (s : State) (h : CmdHead) (c : AuctCmd) : Rd Routed := do
  let nt := c.nt.toNat
  let ne := c.ne.toNat
  if !s.me.bindOk h ∨ triggerHit c.parm.toNat 64 then pure Routed.rejected
  else do
    let bs ← s.rget c.parm.toNat 64
    let aaddr := blk8 bs 0
    let caddr := blk8 bs 8
    let daddr := blk8 bs 16
    let oaddr := blk8 bs 24
    let saddr := blk8 bs 32
    if aaddr % 2 ≠ 0 ∨ (!c.auto && caddr % 2 != 0) ∨ oaddr % 4 ≠ 0 ∨ saddr % 16 ≠ 0 ∨ !blkZero bs 40 24 ∨ (c.dcol && triggerHit daddr nt) then
      pure Routed.rejected
    else do
      let col ← if c.dcol then do let x ← s.rget daddr nt; pure (x.map BitVec.toNat) else (pure (List.replicate nt c.dom.toNat) : Rd (List Nat))
      let present := (List.range 16).filter (fun d => col.contains d)
      let found := present.filterMap (fun d => (s.bankOf d).map (fun b => (d, (List.range nt).filter (fun t => nth 16 col t == d), b)))
      let ins := (aaddr, 2 * nt * ne) :: ((if c.dcol then [(daddr, nt)] else []) ++
        (if c.auto then [] else present.map (fun d => (caddr + 2 * ne * d, 2 * ne))))
      let outs := (oaddr, 4 * nt) :: present.map (fun d => (saddr + 16 * d, 16))
      if col.any (fun d => decide (15 < d)) ∨ found.length ≠ present.length ∨ !routeOk s.me h ins outs then pure Routed.rejected
      else do
        present.forM s.claim
        s.runAuction c aaddr caddr oaddr saddr found

/-! ## The commands -/

/-- HIST (R201). -/
def execHist (h : CmdHead) (c : HistCmd) (s : State) : Host.Outcome State Fault Refusal :=
  event (fun s => s.takeHead 65 h (.hist c) (fun _ s => s.endRouting (s.routeHist h c))) s

/-- PSUM (R202). -/
def execPsum (h : CmdHead) (c : PsumCmd) (s : State) : Host.Outcome State Fault Refusal :=
  event (fun s => s.takeHead 65 h (.psum c) (fun _ s => s.endRouting (s.routePsum h c))) s

/-- TOPK (R205, R206). -/
def execTopk (h : CmdHead) (c : TopkCmd) (s : State) : Host.Outcome State Fault Refusal :=
  event (fun s => s.takeHead 65 h (.topk c) (fun _ s => s.endRouting (s.routeTopk h c))) s

/-- AUCT (R211 to R215). -/
def execAuct (h : CmdHead) (c : AuctCmd) (s : State) : Host.Outcome State Fault Refusal :=
  event (fun s => s.takeHead 65 h (.auct c) (fun _ s => s.endRouting (s.routeAuct h c))) s

/-- APPORT (R207). -/
def execApport (h : CmdHead) (c : ApportCmd) (s : State) : Host.Outcome State Fault Refusal :=
  event (fun s => s.takeHead 65 h (.apport c) (fun _ s => s.endRouting (s.routeApport h c))) s

/-- RSORT (R204). -/
def execRsort (h : CmdHead) (c : RsortCmd) (s : State) : Host.Outcome State Fault Refusal :=
  event (fun s => s.takeHead 65 h (.rsort c) (fun _ s => s.endRouting (s.routeRsort h c))) s

/-- PRICE READ (R210). -/
def execPriceRead (h : CmdHead) (c : PriceCmd) (s : State) : Host.Outcome State Fault Refusal :=
  event (fun s => s.takeHead 65 h (.priceRead c) (fun _ s => s.endRouting (s.routePriceRead h c))) s

/-- PRICE WRITE (R210). -/
def execPriceWrite (h : CmdHead) (c : PriceCmd) (s : State) : Host.Outcome State Fault Refusal :=
  event (fun s => s.takeHead 65 h (.priceWrite c) (fun _ s => s.endRouting (s.routePriceWrite h c))) s

/-- PRICE SCALE (R210). -/
def execPriceScale (h : CmdHead) (c : PriceCmd) (s : State) : Host.Outcome State Fault Refusal :=
  event (fun s => s.takeHead 65 h (.priceScale c) (fun _ s => s.endRouting (s.routePriceScale h c))) s

/-- PRICE RESET (R210). -/
def execPriceReset (h : CmdHead) (c : PriceCmd) (s : State) : Host.Outcome State Fault Refusal :=
  event (fun s => s.takeHead 65 h (.priceReset c) (fun _ s => s.endRouting (s.routePriceReset h c))) s

/-! ## Refused and waiting accesses (R388, R70) -/

/-- The reading side of a class-2 command. -/
def State.routeOf (s : State) (h : CmdHead) : Cmd → Option (Rd Routed)
  | .hist c => some (s.routeHist h c)
  | .psum c => some (s.routePsum h c)
  | .topk c => some (s.routeTopk h c)
  | .auct c => some (s.routeAuct h c)
  | .apport c => some (s.routeApport h c)
  | .rsort c => some (s.routeRsort h c)
  | .priceRead c => some (s.routePriceRead h c)
  | .priceWrite c => some (s.routePriceWrite h c)
  | .priceScale c => some (s.routePriceScale h c)
  | .priceReset c => some (s.routePriceReset h c)
  | _ => none

/-- A class-2 command that has waited for a price bank can begin on it (R209). -/
def State.bankFree (s : State) (e : Entry) : Bool :=
  match e.job, s.routeOf e.head e.cmd with
  | .routing read _, some r => (match (r (RdState.start read)).1 with | .error (.ok _, _) => false | _ => true)
  | _, _ => false

/-- A head entry of a routing, collective or work queue is done again from its command. -/
def State.redo (s : State) (qid : Nat) : State :=
  match s.me.headEntry qid with
  | none => s
  | some e =>
    let t := s.updMe (fun c => c.updHead qid (fun e => { e with kick := false }))
    match e.cmd with
    | .cplan c => t.takeCplan c
    | .launch c => t.takeLaunch e.head c
    | cmd => match t.routeOf e.head cmd with
      | some r => t.endRouting r
      | none => t

/-- A refused access of a queue's head entry is due to be resent (R388), or a write that waits on a migrating page, or a
record's, to be tried again (R70); or the price bank it waits for is free (R209). -/
def State.resendDue (s : State) (qid : Nat) : Bool :=
  match s.me.headEntry qid with
  | some e =>
    let timed := decide (e.since ≠ 0) && (decide (e.since + 4096 ≤ s.cycle) || (e.kick && e.state != .pending))
    (match e.state with
      | .pending => timed
      | .active => (timed && decide (64 < qid)) || (qid == 65 && e.since == 0 && s.bankFree e)
      | _ => false)
  | none => false

/-- The entry is active again before it is tried (R108): a refusal makes it pending once more. -/
def State.resend (s : State) (qid : Nat) : State :=
  match s.me.headEntry qid with
  | none => s
  | some e =>
    if e.recordPending then
      (s.updMe (fun c => c.updHead qid (fun e => { e with state := .finishing }))).reportHead qid
    else if qid < 64 then s.serveChannel qid
    else
      let t := s.redo qid
      -- an entry that is not refused again has left the pending state
      match t.me.headEntry qid with
      | some f => if f.state = .pending ∧ f.since = e.since then t.updMe (fun c => c.updHead qid (fun e => { e with state := .active, since := 0 })) else t
      | none => t

/-- ENGINE_RESEND (R388). -/
def execEngineResend (qid : Nat) (s : State) : Host.Outcome State Fault Refusal :=
  event (fun s => if s.resendDue qid then s.resend qid else s) s

end Sys2Proof.Machine
end

