-- ==== Sys2Proof/Machine/Scan.lean ====
section
/-!
DEFINITION. The scan chains' access to the frozen package (R385).
-/
namespace Sys2Proof.Machine

open Sys2Proof

/-- A place of the package: the value it holds, and the package with another value there. -/
abbrev Scanned := Nat × (Nat → State)

/-- A part of something: the number it holds, and the thing with another number there. -/
abbrev Slot (α : Type) := Nat × (Nat → α)

/-- A control register of the current core as the chains reach it: by its number (R228), without what an instruction's
write brings with it; its reserved bits take no value (R6). -/
def State.putCsr (s : State) (num : Nat) (v : Word) : State :=
  let user := fun (f : UserRegs → UserRegs) => s.updMe (fun c => { c with user := f c.user })
  match num with
  | 0x001 => user (fun u => { u with fctl := v &&& 0x1F7 })
  | 0x002 => user (fun u => { u with fflags := v &&& 0xFF })
  | 0x008 => user (fun u => { u with portmap := v &&& 0x1FFFF })
  | 0x010 => user (fun u => { u with bmask := v &&& 0x1FFFFFFFF })
  | 0x018 => user (fun u => { u with mfmt := v &&& 0xFF })
  | 0x023 => user (fun u => { u with kseq := v.truncate 16 })
  | 0x024 => user (fun u => { u with kback := v })
  | 0x041 => user (fun u => { u with instret := v })
  | 0x048 => user (fun u => { u with restored := v.getLsbD 4, diverge := v.getLsbD 3, cancelPending := v.getLsbD 2 })
  | 0x050 => user (fun u => { u with merrstat := v &&& 7 })
  | 0x051 => user (fun u => { u with merrlog0 := v &&& 0xFFFFFFFFFFC00000 })
  | 0x052 => user (fun u => { u with merrlog1 := v &&& 0x7FFFFFFFF })
  | 0x400 => s.updMe (fun c => { c with sup := { c.sup with
      spp := v.getLsbD 8, spie := v.getLsbD 5, uia := v.getLsbD 1, sie := v.getLsbD 0 } })
  | 0x40D => s
  | 0x40E => s
  | _ =>
    match csrWrite .write num v (s.updMe (fun c => { c with super := true })) with
    | .ok (_, t) => t.updMe (fun c => { c with super := s.me.super })
    | .error _ => s

/-- The parts of a queue entry that the chains reach. -/
def Entry.part (e : Entry) : Nat → Slot Entry
  | 0 => (e.pos, fun v => { e with pos := v })
  | 1 => (e.moved, fun v => { e with moved := v })
  | 2 => (e.status, fun v => { e with status := v })
  | 3 => (e.cause, fun v => { e with cause := v })
  | 4 => (e.count, fun v => { e with count := v })
  | 5 => (e.faultAddr.toNat, fun v => { e with faultAddr := BitVec.ofNat 64 v })
  | 6 => (e.srcAddr.toNat, fun v => { e with srcAddr := BitVec.ofNat 64 v })
  | _ => (e.dstAddr.toNat, fun v => { e with dstAddr := BitVec.ofNat 64 v })

/-- The parts of a barrier channel that the chains reach. -/
def Channel.part (c : Channel) : Nat → Slot Channel
  | 0 => (c.epoch, fun v => { c with epoch := v })
  | 1 => (c.count.toNat, fun v => { c with count := v })
  | _ => (c.nextCount.toNat, fun v => { c with nextCount := v })

/-- The parts of an engine event (R112). -/
def EngineEvent.part (e : EngineEvent) : Nat → Slot EngineEvent
  | 0 => (e.remaining, fun v => { e with remaining := v })
  | 1 => (e.kind, fun v => { e with kind := v })
  | 2 => (e.cause, fun v => { e with cause := v })
  | 3 => (e.qid, fun v => { e with qid := v })
  | _ => (e.tag.toNat, fun v => { e with tag := BitVec.ofNat 16 v })

/-- The parts of a notice (R72). -/
def Notice.part (n : Notice) : Nat → Slot Notice
  | 0 => (n.page, fun v => { n with page := v })
  | _ => (n.status, fun v => { n with status := v })

/-- The parts of a wave slot that is not idle (R164). -/
def WaveState.part (w : WaveState) : Nat → Slot WaveState
  | 0 =>
    let x : Word := match w with | .posted x => x | .ready x => x | .failed => 0
    ((match w with | .posted _ => 0 | .ready _ => 1 | .failed => 2),
      fun v => match v with | 0 => .posted x | 1 => .ready x | _ => .failed)
  | _ => match w with
    | .posted x => (x.toNat, fun v => .posted (BitVec.ofNat 64 v))
    | .ready x => (x.toNat, fun v => .ready (BitVec.ofNat 64 v))
    | .failed => (0, fun _ => .failed)

/-- The parts of a cached translation (R68). -/
def TlbEntry.part (e : TlbEntry) : Nat → Slot TlbEntry
  | 0 => (e.ctx.toNat, fun v => { e with ctx := BitVec.ofNat 16 v })
  | 1 => (e.page, fun v => { e with page := v })
  | 2 => (e.big.toNat, fun v => { e with big := v != 0 })
  | _ => (e.desc.toNat, fun v => { e with desc := BitVec.ofNat 64 v })

/-- The parts of a cached line (R140). -/
def CacheLine.part (l : CacheLine) : Nat → Slot CacheLine
  | 0 => (l.key, fun v => { l with key := v })
  | n + 1 => ((l.bytes[n]?.getD 0).toNat, fun v => { l with bytes := l.bytes.set n (BitVec.ofNat 8 v) })

/-- The states of a launch entry by number: early, blocked, ready, placing, placed, complete. -/
def LaunchState.num : LaunchState → Nat
  | .early => 0
  | .blocked => 1
  | .ready => 2
  | .placing => 3
  | .placed => 4
  | .complete => 5

def LaunchState.ofNum : Nat → LaunchState
  | 0 => .early
  | 1 => .blocked
  | 2 => .ready
  | 3 => .placing
  | 4 => .placed
  | _ => .complete

/-- Where a unit stands, by number: unplaced, saved, exited, cancelled, and from 4 on its core. -/
def UnitPlace.num : UnitPlace → Nat
  | .unplaced => 0
  | .saved => 1
  | .exited => 2
  | .cancelled => 3
  | .on core => 4 + core

def UnitPlace.ofNum : Nat → UnitPlace
  | 0 => .unplaced
  | 1 => .saved
  | 2 => .exited
  | 3 => .cancelled
  | n + 4 => .on n

/-- The parts of a launch entry: 0 to 2 its context, graph and index, 3 phase, 4 job, 5 state, 6 pushing core, 7 tag, 8
start pc, 9 arguments, 10 unit count, 11 gang size, 12 to 15 private, shared, accumulator and kerf KiB, 16 weight, 17
priority, 18 ports, 19 KBACK, 20 record address, 21 dependency count modulo 2^32, 22 and 23 when it became ready and in
which order, 24 whether it is aged, 25 units, 26 status, 27 its flags (1 IRQ, 2 deterministic, 4 ragged, 8 persistent, 16
recorded); 32 + n the place of the n-th unit. -/
def Launch.scanPart (l : Launch) (field : Nat) : Slot Launch :=
  match field with
  | 0 => (l.ctx, fun v => { l with ctx := v })
  | 1 => (l.key.graph, fun v => { l with key := { l.key with graph := v } })
  | 2 => (l.key.index, fun v => { l with key := { l.key with index := v } })
  | 3 => (l.phase, fun v => { l with phase := v })
  | 4 => (l.job, fun v => { l with job := v })
  | 5 => (l.state.num, fun v => { l with state := LaunchState.ofNum v })
  | 6 => (l.pushedBy, fun v => { l with pushedBy := v })
  | 7 => (l.tag.toNat, fun v => { l with tag := BitVec.ofNat 16 v })
  | 8 => (l.startPc.toNat, fun v => { l with startPc := BitVec.ofNat 64 v })
  | 9 => (l.args.toNat, fun v => { l with args := BitVec.ofNat 64 v })
  | 10 => (l.unitCount, fun v => { l with unitCount := v })
  | 11 => (l.gangSize, fun v => { l with gangSize := v })
  | 12 => (l.privKiB, fun v => { l with privKiB := v })
  | 13 => (l.sharedKiB, fun v => { l with sharedKiB := v })
  | 14 => (l.accKiB, fun v => { l with accKiB := v })
  | 15 => (l.kerfKiB, fun v => { l with kerfKiB := v })
  | 16 => (l.weight, fun v => { l with weight := v })
  | 17 => (l.prio, fun v => { l with prio := v })
  | 18 => (l.ports, fun v => { l with ports := v })
  | 19 => (l.kback, fun v => { l with kback := v })
  | 20 => (l.crec.toNat, fun v => { l with crec := BitVec.ofNat 64 v })
  | 21 => ((l.depCount % 2 ^ 32).toNat, fun v => { l with depCount := (BitVec.ofNat 32 v).toInt })
  | 22 => (l.readyAt, fun v => { l with readyAt := v })
  | 23 => (l.readySeq, fun v => { l with readySeq := v })
  | 24 => (l.aged.toNat, fun v => { l with aged := v != 0 })
  | 25 => (l.nunits, fun v => { l with nunits := v })
  | 26 => (l.status, fun v => { l with status := v })
  | 27 => (l.irq.toNat + 2 * l.det.toNat + 4 * l.ragged.toNat + 8 * l.persistent.toNat + 16 * l.recorded.toNat,
      fun v => { l with
        irq := natBits v 0 0 == 1
        det := natBits v 1 1 == 1
        ragged := natBits v 2 2 == 1
        persistent := natBits v 3 3 == 1
        recorded := natBits v 4 4 == 1 })
  | n => match l.units[n - 32]? with
    | some x => (x.2.num, fun v => { l with units := l.units.set (n - 32) (x.1, UnitPlace.ofNum v) })
    | none => (0, fun _ => l)

/-- The parts of a graph, phase or job entry (R81). -/
def Counter.part (c : Counter) : Nat → Slot Counter
  | 0 => (c.id, fun v => { c with id := v })
  | 1 => (c.ctx, fun v => { c with ctx := v })
  | 2 => (c.parent, fun v => { c with parent := v })
  | 3 => (c.sealed.toNat, fun v => { c with sealed := v != 0 })
  | 4 => (c.cancelled.toNat, fun v => { c with cancelled := v != 0 })
  | 5 => (c.status, fun v => { c with status := v })
  | _ => (c.outstanding, fun v => { c with outstanding := v })

/-- The parts of a context (R41), its state by number: loading, resident, destroying, zeroed. -/
def Context.scanPart (x : Context) : Nat → Slot Context
  | 0 => (x.id, fun v => { x with id := v })
  | 1 => (x.part, fun v => { x with part := v })
  | 2 => ((match x.state with | .loading => 0 | .resident => 1 | .destroying => 2 | .zeroed => 3),
      fun v => { x with state := match v with | 0 => .loading | 1 => .resident | 2 => .destroying | _ => .zeroed })
  | _ => (x.ptroot.toNat, fun v => { x with ptroot := BitVec.ofNat 64 v })

/-- The parts of an open eviction set (R41), its state by number: requested, saving, evicted, restoring. -/
def EvictionSet.part (e : EvictionSet) : Nat → Slot EvictionSet
  | 0 => (e.num, fun v => { e with num := v })
  | _ => ((match e.state with | .requested => 0 | .saving => 1 | .evicted => 2 | .restoring => 3),
      fun v => { e with state := match v with | 0 => .requested | 1 => .saving | 2 => .evicted | _ => .restoring })

/-- The parts of a plan (R165, R166). -/
def Plan.part (p : Plan) : Nat → Slot Plan
  | 0 => (p.common.group, fun v => { p with common := { p.common with group := v } })
  | 1 => (p.common.kind, fun v => { p with common := { p.common with kind := v } })
  | 2 => (p.common.op, fun v => { p with common := { p.common with op := v } })
  | 3 => (p.common.fanout, fun v => { p with common := { p.common with fanout := v } })
  | 4 => (p.common.inst, fun v => { p with common := { p.common with inst := v } })
  | 5 => (p.common.nmem, fun v => { p with common := { p.common with nmem := v } })
  | 6 => (p.common.count, fun v => { p with common := { p.common with count := v } })
  | _ => (p.live.toNat, fun v => { p with live := v != 0 })

/-- The parts of a plan's member (R165, R167). -/
def PlanMember.part (m : PlanMember) : Nat → Slot PlanMember
  | 0 => (m.rank, fun v => { m with rank := v })
  | 1 => (m.core, fun v => { m with core := v })
  | 2 => (m.ctx, fun v => { m with ctx := v })
  | 3 => (m.handle, fun v => { m with handle := v })
  | 4 => (m.triggered, fun v => { m with triggered := v })
  | 5 => (m.buffers, fun v => { m with buffers := v })
  | 6 => (m.freed.toNat, fun v => { m with freed := v != 0 })
  | 7 => (m.loc.src, fun v => { m with loc := { m.loc with src := v } })
  | 8 => (m.loc.dst, fun v => { m with loc := { m.loc with dst := v } })
  | _ => (m.loc.crec, fun v => { m with loc := { m.loc with crec := v } })

/-- A part of the i-th element of a list: what it holds, and the list with another value there. -/
def listPart {α : Type} (l : List α) (i : Nat) (part : α → Slot α) : Option (Slot (List α)) :=
  (l[i]?).map (fun a => ((part a).1, fun v => l.set i ((part a).2 v)))

/-- A slot of a part is one of the whole. -/
def Slot.within {α β : Type} (put : α → β) (x : Slot α) : Slot β := (x.1, fun v => put (x.2 v))

/-- What the scan chains reach at a place; none where nothing is there. In a saved image they reach what a core holds:
its registers and queues by the number of the core it was saved from, and its local store by the offset there. -/
def scanAt : ScanPlace → State → Option Scanned
  | .mem k, s => some ((Memory.read k s.mem).toNat, fun v => s.writeMem k [BitVec.ofNat 8 v])
  | .gpr core n, s => some (((s.core core).g[n]?.getD 0).toNat, fun v => s.updCore core (fun c => { c with g := c.g.setIfInBounds n (BitVec.ofNat 64 v) }))
  | .shadow core n, s =>
    some (((s.core core).shadow[n]?.getD 0).toNat, fun v => s.updCore core (fun c => { c with shadow := c.shadow.setIfInBounds n (BitVec.ofNat 64 v) }))
  | .vec core n, s => some (((s.core core).v[n]?.getD 0).toNat, fun v => s.updCore core (fun c => { c with v := c.v.setIfInBounds n (BitVec.ofNat _ v) }))
  | .pred core n, s => some (((s.core core).p[n]?.getD 0).toNat, fun v => s.updCore core (fun c => { c with p := c.p.setIfInBounds n (BitVec.ofNat 64 v) }))
  | .pc core, s => some ((s.core core).pc.toNat, fun v => s.updCore core (fun c => { c with pc := BitVec.ofNat 64 v }))
  | .level core, s => some ((s.core core).super.toNat, fun v => s.updCore core (fun c => { c with super := v != 0 }))
  | .csr core num, s => ((s.switchTo core).csrValue num).map (fun x =>
      (x.toNat, fun v => ((s.switchTo core).putCsr num (BitVec.ofNat 64 v)).switchTo s.me.id))
  | .accum core w, s =>
    some (((assoc w (s.core core).accum).getD 0).toNat, fun v => s.updCore core (fun c => { c with accum := setAssoc w (BitVec.ofNat 32 v) c.accum }))
  | .fifo core isB i, s =>
    let f := if isB then (s.core core).fifoB else (s.core core).fifoA
    (f.bytes[i]?).map (fun x => (x.toNat, fun v =>
      let g : Fifo := { f with bytes := f.bytes.set i (BitVec.ofNat 8 v) }
      s.updCore core (fun c => if isB then { c with fifoB := g } else { c with fifoA := g })))
  | .portWord core q i, s =>
    let p := (s.core core).ports[q]?.getD ⟨[], 0, 0⟩
    (p.hw[i]?).map (fun x => (x.toNat, fun v =>
      s.updCore core (fun c => { c with ports := c.ports.setIfInBounds q { p with hw := p.hw.set i (BitVec.ofNat 64 v) } })))
  | .entry core i part, s => ((s.core core).entries[i]?).map (fun e =>
      ((e.part part).1, fun v => s.updCore core (fun c => { c with entries := c.entries.set i ((e.part part).2 v) })))
  | .channel num part, s => (s.channel? num).map (fun c => ((c.part part).1, fun v => s.updChannel num (fun c => (c.part part).2 v)))
  | .price die bank i, s => (s.banks.find? (fun b => b.die == die && b.num == bank)).map (fun b =>
      (((assoc i b.prices).getD 0).toNat, fun v =>
        let w : BitVec 32 := BitVec.ofNat 32 v
        { s with banks := s.banks.map (fun x => if x.die == die && x.num == bank then
            { x with prices := if w = 0 then delAssoc i x.prices else setAssoc i w x.prices } else x) }))
  | .range truss unit part, s => (s.ranges.find? (fun r => r.truss == truss && r.unit == unit)).map (fun r =>
      (if part = 0 then r.next.toNat else r.left, fun v =>
        { s with ranges := s.ranges.map (fun x => if x.truss == truss && x.unit == unit then
            (if part = 0 then { x with next := BitVec.ofNat 64 v } else { x with left := v }) else x) }))
  | .tree node group, s => some ((s.coll.entry node group).toNat, fun v =>
      let e : BitVec 32 := BitVec.ofNat 32 v
      let rest := s.coll.tree.filter (fun x => x.1 != (node, group))
      { s with coll := { s.coll with tree := if e = 0 then rest else rest ++ [((node, group), e)] } })
  | .tickets part, s =>
    if part = 0 then some (s.coll.rootCount, fun v => { s with coll := { s.coll with rootCount := v } })
    else some (s.coll.domainCount, fun v => { s with coll := { s.coll with domainCount := v } })
  | .port num part, s => (s.ports.find? (fun p => p.num == num)).map (fun p =>
      (if part = 0 then p.sendSeq else p.expectSeq, fun v =>
        { s with ports := s.ports.map (fun p => if p.num == num then
            (if part = 0 then { p with sendSeq := v % 128 } else { p with expectSeq := v % 128 }) else p) }))
  | .versioned part n previous, s => (s.part? part).map (fun p =>
      let w := p.versioned[n]?.getD (0, 0)
      ((if previous then w.2 else w.1).toNat, fun v =>
        let x : Word := BitVec.ofNat 64 v
        s.updPart part (fun p => { p with versioned := p.versioned.setIfInBounds n (if previous then (w.1, x) else (x, w.2)) })))
  | .event core held i part, s =>
    (listPart (if held then (s.core core).heldEvents else (s.core core).events) i (fun e => e.part part)).map
      (Slot.within (fun l => s.updCore core (fun c => if held then { c with heldEvents := l } else { c with events := l })))
  | .notice core i part, s =>
    (listPart (s.core core).notices i (fun n => n.part part)).map (Slot.within (fun l => s.updCore core (fun c => { c with notices := l })))
  | .wave core group part, s => (assoc group (s.core core).waves).map (fun w =>
      (w.part part).within (fun x => s.updCore core (fun c => { c with waves := setAssoc group x c.waves })))
  | .kerfHead core i, s => ((s.core core).kerfHead[i]?).map (fun b =>
      (b.toNat, fun v => s.updCore core (fun c => { c with kerfHead := c.kerfHead.set i (BitVec.ofNat 8 v) })))
  | .kerfLevel core part, s =>
    if part = 0 then some ((s.core core).kerfRB, fun v => s.updCore core (fun c => { c with kerfRB := v }))
    else some ((s.core core).kerfBB, fun v => s.updCore core (fun c => { c with kerfBB := v }))
  | .tlb core data i part, s =>
    (listPart (if data then (s.core core).dtlb else (s.core core).itlb) i (fun e => e.part part)).map
      (Slot.within (fun l => s.updCore core (fun c => if data then { c with dtlb := l } else { c with itlb := l })))
  | .l2tlb i part, s =>
    (listPart s.l2tlb i (fun x => (x.2.part part).within (fun e => (x.1, e)))).map (Slot.within (fun l => { s with l2tlb := l }))
  | .line core data i part, s =>
    (listPart (if data then (s.core core).l1d else (s.core core).l1i) i (fun e => e.part part)).map
      (Slot.within (fun l => s.updCore core (fun c => if data then { c with l1d := l } else { c with l1i := l })))
  | .launch part i field, s => (s.part? part).bind (fun p =>
      (listPart p.launches i (fun l => l.scanPart field)).map (Slot.within (fun l => s.updPart part (fun p => { p with launches := l }))))
  | .counter part level i field, s => (s.part? part).bind (fun p =>
      (listPart (match level with | 0 => p.graphs | 1 => p.phases | _ => p.jobs) i (fun c => c.part field)).map
        (Slot.within (fun l => s.updPart part (fun p => match level with
          | 0 => { p with graphs := l }
          | 1 => { p with phases := l }
          | _ => { p with jobs := l }))))
  | .context i field, s => (listPart s.contexts i (fun x => x.scanPart field)).map (Slot.within (fun l => { s with contexts := l }))
  | .evictSet i n field, s => (s.contexts[i]?).bind (fun x =>
      (listPart x.sets n (fun e => e.part field)).map (Slot.within (fun l => { s with contexts := s.contexts.set i { x with sets := l } })))
  | .image i n p, s => (s.contexts[i]?).bind (fun x => (x.images[n]?).bind (fun im =>
      let t := ({ s with mem := im.store }).setCore im.fromCore im.core
      (scanAt p t).map (fun y => (y.1, fun v =>
        let im' : Image := { im with core := (y.2 v).core im.fromCore, store := (y.2 v).mem }
        { s with contexts := s.contexts.set i { x with images := x.images.set n im' } }))))
  | .plan i field, s => (listPart s.coll.plans i (fun p => p.part field)).map
      (Slot.within (fun l => { s with coll := { s.coll with plans := l } }))
  | .member i n field, s => (s.coll.plans[i]?).bind (fun p =>
      (listPart p.members n (fun m => m.part field)).map (Slot.within (fun l =>
        { s with coll := { s.coll with plans := s.coll.plans.set i { p with members := l } } })))

/-- What the scan chains reach at a place of this package. -/
def State.scan (s : State) (p : ScanPlace) : Option Scanned := scanAt p s

/-- What a readout through the scan chains gives; none where nothing is there (R385). -/
def State.scanRead (s : State) (p : ScanPlace) : Option Nat := (s.scan p).map (·.1)

/-- A write through the scan chains. -/
def State.scanWrite (s : State) (p : ScanPlace) (v : Nat) : State :=
  match s.scan p with
  | some x => x.2 v
  | none => s

/-- SCAN_CHAIN_ACCESS (R385): a readout changes nothing; a write is refused unless debug-enable is fused, and reaches
frozen state only. -/
def execScanChainAccess (a : ScanAccess) (s : State) : Host.Outcome State Fault Refusal :=
  event (fun s => match a with
    | .read _ => s
    | .write p v => if s.debugEnable && s.frozen then s.scanWrite p v else s) s

end Sys2Proof.Machine
end

