-- ==== Sys2Proof/Machine/Sched.lean ====
section
/-!
DEFINITION. The range units and the versioned scalar registers (R89, R90, R275 to R277).
-/
namespace Sys2Proof.Machine

open Sys2Proof

/-- A range unit of a truss. -/
def State.range? (s : State) (truss unit : Nat) : Option RangeUnit :=
  s.ranges.find? (fun r => r.truss == truss && r.unit == unit)

/-- The chunk a take receives: min(R, max(M, ⌈R / D⌉)) (R89). -/
def RangeUnit.take (r : RangeUnit) : Nat := min r.left (max r.chunk (ceilDiv r.left r.div))

/-- The unit after a take: the next start wraps (R89). -/
def RangeUnit.taken (r : RangeUnit) : RangeUnit :=
  { r with next := r.next + BitVec.ofNat 64 r.take, left := r.left - r.take }

/-- RTAKE (R89, R276): start, then length; zero for a unit of another context or not initialised. It is a progress
event (R55). -/
def rtakeBody (rd ra : BitVec 5) : M Unit := do
  let a ← readReg ra
  let s ← look
  let n := a.toNat % 16
  let t := trussOf s.me.id
  let (start, len) ← match s.range? t n with
    | some r =>
      if r.ctx = s.me.ctx then do
        change (fun s => { s with ranges := s.ranges.map (fun x => if x.truss == t && x.unit == n then x.taken else x) })
        pure (r.next, r.take)
      else pure (0, 0)
    | none => pure (0, 0)
  changeMe (fun c => c.progress s.cycle)
  writeReg rd start
  writeReg (rd + 1) (BitVec.ofNat 64 len)

/-- VSRR (R90, R277): the current or the previous value, as an acquire at PKG scope. -/
def vsrrBody (rd : BitVec 5) (reg ver : BitVec 4) : M Unit := do
  let s ← look
  let w ← match s.partOf s.me.id with
    | some p => pure (let v := p.versioned[reg.toNat]?.getD (0, 0); if ver = 0 then v.1 else v.2)
    | none => freeWord
  acquireM 4
  writeReg rd w

/-- VSRW (R90, R277): the value becomes current, the old current value previous. -/
def vsrwBody (ra : BitVec 5) (reg : BitVec 4) : M Unit := do
  let x ← readReg ra
  change (fun s => match s.partOf s.me.id with
    | some p => s.updPart p.id (fun p =>
        { p with versioned := p.versioned.setIfInBounds reg.toNat (x, (p.versioned[reg.toNat]?.getD (0, 0)).1) })
    | none => s)

/-- RTAKE (R276). -/
def execRtake (rd ra : BitVec 5) (s : State) : Host.Outcome State Fault Refusal := runI (.rtake rd ra) (rtakeBody rd ra) s

/-- VSRR (R277). -/
def execVsrr (rd : BitVec 5) (reg ver : BitVec 4) (s : State) : Host.Outcome State Fault Refusal :=
  runI (.vsrr rd reg ver) (vsrrBody rd reg ver) s

/-- VSRW (R277). -/
def execVsrw (ra : BitVec 5) (reg : BitVec 4) (s : State) : Host.Outcome State Fault Refusal :=
  runI (.vsrw ra reg) (vsrwBody ra reg) s

end Sys2Proof.Machine
end

