-- ==== Sys2Proof/Machine/VecInt.lean ====
section
/-!
DEFINITION. The vector integer instructions of major 0x24 (R304 to R306).
-/
namespace Sys2Proof.Machine

open Sys2Proof

/-- Element by element on w-bit values; an inactive element keeps its value (R306). The Bool says a result clamped. -/
def viBody (vd va vb : BitVec 5) (pg ty aux : BitVec 2) (op : Nat → Nat → Nat → Nat × Bool) : M Unit := do
  let w := intWidth ty
  let bs ← lastSource vb aux w
  let c ← meM
  let p := c.gov pg
  let rs := (List.range (512 / w)).map (fun i => op w (elem (c.vr va.toNat) i w) (nth 0 bs i))
  setSat ((activeList p w).any (fun i => (nth (0, false) rs i).2))
  writeV vd (mergeElems p w (c.vr vd.toNat) (rs.map (·.1)))

/-- An operation that cannot clamp. -/
def plain (f : Nat → Nat → Nat → Nat) (w a b : Nat) : Nat × Bool := (f w a b % 2 ^ w, false)

/-- An integer as w bits. -/
def intCode (w : Nat) (x : Int) : Nat := (x % 2 ^ w).toNat

/-- sats(x, w) of R217, and whether it clamped. -/
def satSigned (w : Nat) (x : Int) : Nat × Bool :=
  let y := clampInt x (-(2 ^ (w - 1))) (2 ^ (w - 1) - 1)
  (intCode w y, decide (x ≠ y))

/-- A compare: inactive elements give 0 (R306). -/
def viCompare (pd : BitVec 3) (va vb : BitVec 5) (pg ty aux : BitVec 2) (op : Nat → Nat → Nat → Bool) : M Unit := do
  let w := intWidth ty
  let bs ← lastSource vb aux w
  let c ← meM
  let p := c.gov pg
  writeP pd.toNat (predOf w ((List.range (512 / w)).map (fun i => activeAt p i w && op w (elem (c.vr va.toNat) i w) (nth 0 bs i))))

/-- VADD (R306): the wrapping sum. -/
def execVadd (vd va vb : BitVec 5) (pg ty aux : BitVec 2) (s : State) : Host.Outcome State Fault Refusal :=
  runI (.vadd vd va vb pg ty aux) (viBody vd va vb pg ty aux (plain (fun _ a b => a + b))) s

/-- VSUB (R306): the wrapping difference. -/
def execVsub (vd va vb : BitVec 5) (pg ty aux : BitVec 2) (s : State) : Host.Outcome State Fault Refusal :=
  runI (.vsub vd va vb pg ty aux) (viBody vd va vb pg ty aux (plain (fun w a b => a + 2 ^ w - b))) s

/-- VMUL (R306): the low half of the product. -/
def execVmul (vd va vb : BitVec 5) (pg ty aux : BitVec 2) (s : State) : Host.Outcome State Fault Refusal :=
  runI (.vmul vd va vb pg ty aux) (viBody vd va vb pg ty aux (plain (fun _ a b => a * b))) s

/-- VMULH (R306): the high half of the signed product. -/
def execVmulh (vd va vb : BitVec 5) (pg ty aux : BitVec 2) (s : State) : Host.Outcome State Fault Refusal :=
  runI (.vmulh vd va vb pg ty aux) (viBody vd va vb pg ty aux (plain (fun w a b => intCode w (sintN w a * sintN w b / 2 ^ w)))) s

/-- VMIN (R306): the signed lesser. -/
def execVmin (vd va vb : BitVec 5) (pg ty aux : BitVec 2) (s : State) : Host.Outcome State Fault Refusal :=
  runI (.vmin vd va vb pg ty aux) (viBody vd va vb pg ty aux (plain (fun w a b => if sintN w a < sintN w b then a else b))) s

/-- VMAX (R306): the signed greater. -/
def execVmax (vd va vb : BitVec 5) (pg ty aux : BitVec 2) (s : State) : Host.Outcome State Fault Refusal :=
  runI (.vmax vd va vb pg ty aux) (viBody vd va vb pg ty aux (plain (fun w a b => if sintN w a < sintN w b then b else a))) s

/-- VMINU (R306): the unsigned lesser. -/
def execVminu (vd va vb : BitVec 5) (pg ty aux : BitVec 2) (s : State) : Host.Outcome State Fault Refusal :=
  runI (.vminu vd va vb pg ty aux) (viBody vd va vb pg ty aux (plain (fun _ a b => min a b))) s

/-- VMAXU (R306): the unsigned greater. -/
def execVmaxu (vd va vb : BitVec 5) (pg ty aux : BitVec 2) (s : State) : Host.Outcome State Fault Refusal :=
  runI (.vmaxu vd va vb pg ty aux) (viBody vd va vb pg ty aux (plain (fun _ a b => max a b))) s

/-- VAND (R306): bitwise and. -/
def execVand (vd va vb : BitVec 5) (pg ty aux : BitVec 2) (s : State) : Host.Outcome State Fault Refusal :=
  runI (.vand vd va vb pg ty aux) (viBody vd va vb pg ty aux (plain (fun _ a b => a &&& b))) s

/-- VOR (R306): bitwise or. -/
def execVor (vd va vb : BitVec 5) (pg ty aux : BitVec 2) (s : State) : Host.Outcome State Fault Refusal :=
  runI (.vor vd va vb pg ty aux) (viBody vd va vb pg ty aux (plain (fun _ a b => a ||| b))) s

/-- VXOR (R306): bitwise exclusive or. -/
def execVxor (vd va vb : BitVec 5) (pg ty aux : BitVec 2) (s : State) : Host.Outcome State Fault Refusal :=
  runI (.vxor vd va vb pg ty aux) (viBody vd va vb pg ty aux (plain (fun _ a b => a ^^^ b))) s

/-- VSLL (R306): left by the low bits of b. -/
def execVsll (vd va vb : BitVec 5) (pg ty aux : BitVec 2) (s : State) : Host.Outcome State Fault Refusal :=
  runI (.vsll vd va vb pg ty aux) (viBody vd va vb pg ty aux (plain (fun w a b => a * 2 ^ (b % w)))) s

/-- VSRL (R306): right by the low bits of b, zeros in. -/
def execVsrl (vd va vb : BitVec 5) (pg ty aux : BitVec 2) (s : State) : Host.Outcome State Fault Refusal :=
  runI (.vsrl vd va vb pg ty aux) (viBody vd va vb pg ty aux (plain (fun w a b => a / 2 ^ (b % w)))) s

/-- VSRA (R306): right by the low bits of b, the sign in. -/
def execVsra (vd va vb : BitVec 5) (pg ty aux : BitVec 2) (s : State) : Host.Outcome State Fault Refusal :=
  runI (.vsra vd va vb pg ty aux) (viBody vd va vb pg ty aux (plain (fun w a b => intCode w (sintN w a / 2 ^ (b % w))))) s

/-- VSADD (R306): the saturating signed sum. -/
def execVsadd (vd va vb : BitVec 5) (pg ty aux : BitVec 2) (s : State) : Host.Outcome State Fault Refusal :=
  runI (.vsadd vd va vb pg ty aux) (viBody vd va vb pg ty aux (fun w a b => satSigned w (sintN w a + sintN w b))) s

/-- VSSUB (R306): the saturating signed difference. -/
def execVssub (vd va vb : BitVec 5) (pg ty aux : BitVec 2) (s : State) : Host.Outcome State Fault Refusal :=
  runI (.vssub vd va vb pg ty aux) (viBody vd va vb pg ty aux (fun w a b => satSigned w (sintN w a - sintN w b))) s

/-- VABSD (R306): the exact absolute difference of signed values. -/
def execVabsd (vd va vb : BitVec 5) (pg ty aux : BitVec 2) (s : State) : Host.Outcome State Fault Refusal :=
  runI (.vabsd vd va vb pg ty aux) (viBody vd va vb pg ty aux (plain (fun w a b => (sintN w a - sintN w b).natAbs))) s

/-- VCMPEQ (R306): equal. -/
def execVcmpeq (pd : BitVec 3) (va vb : BitVec 5) (pg ty aux : BitVec 2) (s : State) : Host.Outcome State Fault Refusal :=
  runI (.vcmpeq pd va vb pg ty aux) (viCompare pd va vb pg ty aux (fun _ a b => a == b)) s

/-- VCMPLT (R306): less, signed. -/
def execVcmplt (pd : BitVec 3) (va vb : BitVec 5) (pg ty aux : BitVec 2) (s : State) : Host.Outcome State Fault Refusal :=
  runI (.vcmplt pd va vb pg ty aux) (viCompare pd va vb pg ty aux (fun w a b => decide (sintN w a < sintN w b))) s

/-- VCMPLTU (R306): less, unsigned. -/
def execVcmpltu (pd : BitVec 3) (va vb : BitVec 5) (pg ty aux : BitVec 2) (s : State) : Host.Outcome State Fault Refusal :=
  runI (.vcmpltu pd va vb pg ty aux) (viCompare pd va vb pg ty aux (fun _ a b => decide (a < b))) s

end Sys2Proof.Machine
end

