-- ==== Sys2Proof/Machine/VecMem.lean ====
section
/-!
DEFINITION. The vector loads and stores of major 0x27 (R313 to R317).
-/
namespace Sys2Proof.Machine

open Sys2Proof

/-- The element size in bytes. -/
def esizeBytes (esize : BitVec 2) : Nat := 2 ^ esize.toNat

/-- Do an action for each element of a list, in order. -/
def eachM {α β : Type} (f : α → M β) : List α → M (List β)
  | [] => pure []
  | a :: t => do let b ← f a; let bs ← eachM f t; pure (b :: bs)

/-- The checks of R316 for every active element in ascending order, before any is performed. -/
def checkElems (z : Nat) (acc : Acc) (addr : Nat → Word) (act : List Nat) : M (List (Nat × Place)) :=
  eachM (fun i => do
    let p ← place (addr i) z acc
    let s ← look
    if acc = .load ∧ s.eccError p.key z = true then trap 22 (addr i) else pure (i, p)) act

/-- A vector load: each active element from its address (R314). -/
def vloadBody (vd : BitVec 5) (pg : BitVec 2) (z : Nat) (addr : Nat → Word) : M Unit := do
  let c ← meM
  let p := c.gov pg
  let w := 8 * z
  let places ← checkElems z .load addr (activeList p w)
  let vals ← eachM (fun (x : Nat × Place) => do let bs ← loadAt x.2 z; pure (x.1, leVal bs)) places
  writeV vd (mergeElems p w (c.vr vd.toNat) ((List.range (512 / w)).map (fun i => (assoc i vals).getD 0)))

/-- A vector store: each active element to its address, in ascending element index (R314). -/
def vstoreBody (vs : BitVec 5) (pg : BitVec 2) (z : Nat) (addr : Nat → Word) : M Unit := do
  let c ← meM
  let w := 8 * z
  let places ← checkElems z .store addr (activeList (c.gov pg) w)
  let _ ← eachM (fun (x : Nat × Place) => storeAt x.2 (leBytes z (elem (c.vr vs.toNat) x.1 w))) places
  pure ()

/-- VLDB: the one element is read once, provided any element is active (R314). -/
def vldbBody (vd : BitVec 5) (pg : BitVec 2) (z : Nat) (addr : Word) : M Unit := do
  let c ← meM
  let p := c.gov pg
  let w := 8 * z
  match activeList p w with
  | [] => pure ()
  | i :: _ => do
    let places ← checkElems z .load (fun _ => addr) [i]
    let vals ← eachM (fun (x : Nat × Place) => do let bs ← loadAt x.2 z; pure (leVal bs)) places
    writeV vd (mergeElems p w (c.vr vd.toNat) (List.replicate (512 / w) (nth 0 vals 0)))

/-- The checks of one VSTA element (R315, R316). -/
def vstaPlace (z : Nat) (isFp : Bool) (va : Word) : M Place := do
  let c ← meM
  let shared := match windowOf va.toNat with | .shared _ _ => true | _ => false
  if va.toNat % z ≠ 0 then trap 2 va
  else if !shared then trap 3 va
  else if isFp && c.det then trapWord 13
  else place va z .amo

/-- VSTA: one bank operation for each active element (R315). -/
def vstaBody (vs ra : BitVec 5) (pg : BitVec 2) (z : Nat) (isFp : Bool) (op : Nat → Nat → Nat → Nat) : M Unit := do
  let a ← readReg ra
  let c ← meM
  let w := 8 * z
  let places ← eachM (fun i => do let p ← vstaPlace z isFp (a + BitVec.ofNat 64 (i * z)); pure (i, p)) (activeList (c.gov pg) w)
  let _ ← eachM (fun (x : Nat × Place) =>
    change (fun s => s.writeMem x.2.key (leBytes z (op w (s.peek x.2.key z) (elem (c.vr vs.toNat) x.1 w))))) places
  pure ()

/-- The addresses of consecutive elements (R314). -/
def unitAddr (a : Word) (off : BitVec 4) (z : Nat) (i : Nat) : Word := a + BitVec.ofNat 64 (64 * off.toNat + i * z)

/-- The addresses of strided elements (R314). -/
def strideAddr (a st : Word) (i : Nat) : Word := a + BitVec.ofNat 64 i * st

/-- The addresses of gathered elements (R314). -/
def gatherAddr (c : Core) (a : Word) (vb : BitVec 5) (z : Nat) (i : Nat) : Word := a + sextN (8 * z) (elem (c.vr vb.toNat) i (8 * z))

/-- The size of VGATH, VSCAT and VSTA.FADD elements: w or d. -/
def wideBytes (esize : BitVec 1) : Nat := if esize = 0 then 4 else 8

/-- VLD (R314). -/
def execVld (vd ra : BitVec 5) (pg esize : BitVec 2) (off : BitVec 4) (s : State) : Host.Outcome State Fault Refusal :=
  runI (.vld vd ra pg esize off) (do
    let a ← readReg ra
    vloadBody vd pg (esizeBytes esize) (unitAddr a off (esizeBytes esize))) s

/-- VST (R314). -/
def execVst (vd ra : BitVec 5) (pg esize : BitVec 2) (off : BitVec 4) (s : State) : Host.Outcome State Fault Refusal :=
  runI (.vst vd ra pg esize off) (do
    let a ← readReg ra
    vstoreBody vd pg (esizeBytes esize) (unitAddr a off (esizeBytes esize))) s

/-- VLDS (R314). -/
def execVlds (vd ra rb : BitVec 5) (pg esize : BitVec 2) (s : State) : Host.Outcome State Fault Refusal :=
  runI (.vlds vd ra rb pg esize) (do
    let a ← readReg ra
    let st ← readReg rb
    vloadBody vd pg (esizeBytes esize) (strideAddr a st)) s

/-- VSTS (R314). -/
def execVsts (vd ra rb : BitVec 5) (pg esize : BitVec 2) (s : State) : Host.Outcome State Fault Refusal :=
  runI (.vsts vd ra rb pg esize) (do
    let a ← readReg ra
    let st ← readReg rb
    vstoreBody vd pg (esizeBytes esize) (strideAddr a st)) s

/-- VGATH (R314). -/
def execVgath (vd ra vb : BitVec 5) (pg : BitVec 2) (esize : BitVec 1) (s : State) : Host.Outcome State Fault Refusal :=
  runI (.vgath vd ra vb pg esize) (do
    let a ← readReg ra
    let c ← meM
    vloadBody vd pg (wideBytes esize) (gatherAddr c a vb (wideBytes esize))) s

/-- VSCAT (R314). -/
def execVscat (vd ra vb : BitVec 5) (pg : BitVec 2) (esize : BitVec 1) (s : State) : Host.Outcome State Fault Refusal :=
  runI (.vscat vd ra vb pg esize) (do
    let a ← readReg ra
    let c ← meM
    vstoreBody vd pg (wideBytes esize) (gatherAddr c a vb (wideBytes esize))) s

/-- VLDB (R314). -/
def execVldb (vd ra : BitVec 5) (pg esize : BitVec 2) (off : BitVec 4) (s : State) : Host.Outcome State Fault Refusal :=
  runI (.vldb vd ra pg esize off) (do
    let a ← readReg ra
    vldbBody vd pg (esizeBytes esize) (unitAddr a off (esizeBytes esize) 0)) s

/-- VSTA add (R315). -/
def execVstaAdd (vd ra : BitVec 5) (pg esize : BitVec 2) (s : State) : Host.Outcome State Fault Refusal :=
  runI (.vstaAdd vd ra pg esize) (vstaBody vd ra pg (esizeBytes esize) false (fun w a b => (a + b) % 2 ^ w)) s

/-- VSTA fadd (R315, R38). -/
def execVstaFadd (vd ra : BitVec 5) (pg : BitVec 2) (esize : BitVec 1) (s : State) : Host.Outcome State Fault Refusal :=
  runI (.vstaFadd vd ra pg esize)
    (vstaBody vd ra pg (wideBytes esize) true (fun w a b => addRne (if w = 32 then .f32 else .f64) a b)) s

/-- VSTA max (R315). -/
def execVstaMax (vd ra : BitVec 5) (pg esize : BitVec 2) (s : State) : Host.Outcome State Fault Refusal :=
  runI (.vstaMax vd ra pg esize)
    (vstaBody vd ra pg (esizeBytes esize) false (fun w a b => if sintN w a < sintN w b then b else a)) s

/-- VSTA min (R315). -/
def execVstaMin (vd ra : BitVec 5) (pg esize : BitVec 2) (s : State) : Host.Outcome State Fault Refusal :=
  runI (.vstaMin vd ra pg esize)
    (vstaBody vd ra pg (esizeBytes esize) false (fun w a b => if sintN w a < sintN w b then a else b)) s

end Sys2Proof.Machine
end

