-- ==== Sys2Proof/Machine/VecPerm.lean ====
section
/-!
DEFINITION. The permute, scan and reduce instructions of major 0x25 (R308 to R310) and the predicate instructions of
major 0x26 (R311, R312).
-/
namespace Sys2Proof.Machine

open Sys2Proof

/-- VBCAST (R309): aux 0 takes element 0 of v[vb]. -/
def bcastBody (vd vb : BitVec 5) (pg ty aux : BitVec 2) : M Unit := do
  let w := intWidth ty
  let bs ← lastSource vb aux w
  let c ← meM
  writeV vd (mergeElems (c.gov pg) w (c.vr vd.toNat) (List.replicate (512 / w) (nth 0 bs 0)))

/-- VEXT (R309): element b mod n, sign-extended. -/
def vextBody (rd va vb : BitVec 5) (ty aux : BitVec 2) : M Unit := do
  let w := intWidth ty
  let b ← scalarSource vb aux
  let c ← meM
  writeReg rd (sextN w (elem (c.vr va.toNat) (b.toNat % (512 / w)) w))

/-- VINS (R309): g[va], then the index. -/
def insBody (vd va vb : BitVec 5) (pg ty aux : BitVec 2) : M Unit := do
  let w := intWidth ty
  let x ← readReg va
  let b ← scalarSource vb aux
  let c ← meM
  let k := b.toNat % (512 / w)
  let old := elems (c.vr vd.toNat) w
  if activeAt (c.gov pg) k w then writeV vd (vecOf w (old.set k (x.toNat % 2 ^ w))) else pure ()

/-- The active elements of vd become f i (R309). -/
def permBody (vd : BitVec 5) (pg ty : BitVec 2) (f : Core → Nat → Nat → Nat) : M Unit := do
  let w := intWidth ty
  let c ← meM
  writeV vd (mergeElems (c.gov pg) w (c.vr vd.toNat) ((List.range (512 / w)).map (f c w)))

/-- The slide amount: b cut to w bits, unsigned (R309). -/
def slideAmount (vb : BitVec 5) (ty aux : BitVec 2) : M Nat := do
  let b ← scalarSource vb aux
  pure (b.toNat % 2 ^ intWidth ty)

/-- A reduction of the active elements (R310): to element 0, zeros elsewhere. -/
def reduceBody (vd va : BitVec 5) (pg ty : BitVec 2) (unit : Nat → Int) (op : Int → Int → Int) : M Unit := do
  let w := intWidth ty
  let c ← meM
  let xs := (activeList (c.gov pg) w).map (fun i => sintN w (elem (c.vr va.toNat) i w))
  writeV vd (vecOf w [intCode w (xs.foldl op (unit w))])

/-- One level of the pairwise tree (R36), with the exceptions of its additions. An inactive lane stands as the identity of the
addition. With FCTL.UFE set, adding that identity to a subnormal partial is a tiny result and raises UF (R23), which counts
an event; R36 says that an inactive lane never raises a flag, and does not say that this addition raises none. The model raises
it. DEDUCED (log 27). -/
def pairLevel (f : Fmt) (mode : Mode) (ut : Bool) : List Nat → List Nat × List Exc
  | a :: b :: t =>
    let r := addVals f mode ut (unpack f a) (unpack f b)
    let u := pairLevel f mode ut t
    (r.1 :: u.1, r.2 :: u.2)
  | l => (l, [])

/-- The pairwise tree (R36), by as many levels as given: the sum, and the exceptions of every addition. -/
def pairTree (f : Fmt) (mode : Mode) (ut : Bool) : Nat → List Nat → Nat × List Exc
  | 0, l => (nth 0 l 0, [])
  | n + 1, l =>
    let u := pairLevel f mode ut l
    let r := pairTree f mode ut n u.1
    (r.1, u.2 ++ r.2)

/-- The rounding mode of VREDFSUM's aux field (R310). -/
def Core.redMode (c : Core) (aux : BitVec 2) : Mode :=
  match aux.toNat with
  | 0 => c.dynMode
  | 1 => .rne
  | _ => .rtz

/-- The format of VREDFSUM's ty field (R310). -/
def redFmt (ty : BitVec 2) : Fmt :=
  match ty.toNat with
  | 0 => .f32
  | 1 => .f64
  | 2 => .f16
  | _ => .bf16

/-- VREDFSUM (R36, R310): an inactive lane enters as the identity; one event is counted for each exception raised
anywhere in the tree; it never traps. -/
def redFsumBody (vd va : BitVec 5) (pg ty aux : BitVec 2) : M Unit := do
  let c ← meM
  let f := redFmt ty
  let w := f.width
  let mode := c.redMode aux
  let unit := f.sign (mode != .rdn)
  let leaves := (List.range (512 / w)).map (fun i => if activeAt (c.gov pg) i w then elem (c.vr va.toNat) i w else unit)
  let r := pairTree f mode c.ufTrap 6 leaves
  changeMe (fun c => c.accrue r.2)
  writeV vd (vecOf w [r.1])

/-- Running sums of the active elements (R309: VSCAN). -/
def scanElems (w : Nat) : Nat → List (Bool × Nat × Nat) → List Nat
  | _, [] => []
  | t, (act, x, old) :: rest =>
    if act then (t + x) % 2 ^ w :: scanElems w ((t + x) % 2 ^ w) rest else old :: scanElems w t rest

/-- VSCAN (R309). -/
def scanBody (vd va : BitVec 5) (pg ty : BitVec 2) : M Unit := do
  let w := intWidth ty
  let c ← meM
  writeV vd (vecOf w (scanElems w 0 ((List.range (512 / w)).map (fun i =>
    (activeAt (c.gov pg) i w, elem (c.vr va.toNat) i w, elem (c.vr vd.toNat) i w)))))

/-- VBCAST (R309). -/
def execVbcast (vd vb : BitVec 5) (pg ty aux : BitVec 2) (s : State) : Host.Outcome State Fault Refusal :=
  runI (.vbcast vd vb pg ty aux) (bcastBody vd vb pg ty aux) s

/-- VEXT (R309). -/
def execVext (rd va vb : BitVec 5) (ty aux : BitVec 2) (s : State) : Host.Outcome State Fault Refusal :=
  runI (.vext rd va vb ty aux) (vextBody rd va vb ty aux) s

/-- VINS (R309). -/
def execVins (vd va vb : BitVec 5) (pg ty aux : BitVec 2) (s : State) : Host.Outcome State Fault Refusal :=
  runI (.vins vd va vb pg ty aux) (insBody vd va vb pg ty aux) s

/-- VPERM (R309). -/
def execVperm (vd va vb : BitVec 5) (pg ty : BitVec 2) (s : State) : Host.Outcome State Fault Refusal :=
  runI (.vperm vd va vb pg ty)
    (permBody vd pg ty (fun c w i => elem (c.vr va.toNat) (elem (c.vr vb.toNat) i w % (512 / w)) w)) s

/-- VSLDN (R309). -/
def execVsldn (vd va vb : BitVec 5) (pg ty aux : BitVec 2) (s : State) : Host.Outcome State Fault Refusal :=
  runI (.vsldn vd va vb pg ty aux) (do
    let k ← slideAmount vb ty aux
    permBody vd pg ty (fun c w i => if i + k < 512 / w then elem (c.vr va.toNat) (i + k) w else 0)) s

/-- VSLUP (R309). -/
def execVslup (vd va vb : BitVec 5) (pg ty aux : BitVec 2) (s : State) : Host.Outcome State Fault Refusal :=
  runI (.vslup vd va vb pg ty aux) (do
    let k ← slideAmount vb ty aux
    permBody vd pg ty (fun c w i => if k ≤ i then elem (c.vr va.toNat) (i - k) w else 0)) s

/-- VREDSUM (R310). -/
def execVredsum (vd va : BitVec 5) (pg ty : BitVec 2) (s : State) : Host.Outcome State Fault Refusal :=
  runI (.vredsum vd va pg ty) (reduceBody vd va pg ty (fun _ => 0) (· + ·)) s

/-- VREDFSUM (R310). -/
def execVredfsum (vd va : BitVec 5) (pg ty aux : BitVec 2) (s : State) : Host.Outcome State Fault Refusal :=
  runI (.vredfsum vd va pg ty aux) (redFsumBody vd va pg ty aux) s

/-- VREDMAX (R310). -/
def execVredmax (vd va : BitVec 5) (pg ty : BitVec 2) (s : State) : Host.Outcome State Fault Refusal :=
  runI (.vredmax vd va pg ty) (reduceBody vd va pg ty (fun w => -(2 ^ (w - 1))) max) s

/-- VREDMIN (R310). -/
def execVredmin (vd va : BitVec 5) (pg ty : BitVec 2) (s : State) : Host.Outcome State Fault Refusal :=
  runI (.vredmin vd va pg ty) (reduceBody vd va pg ty (fun w => 2 ^ (w - 1) - 1) min) s

/-- VSCAN (R309). -/
def execVscan (vd va : BitVec 5) (pg ty : BitVec 2) (s : State) : Host.Outcome State Fault Refusal :=
  runI (.vscan vd va pg ty) (scanBody vd va pg ty) s

/-- VCMPR (R309): the active elements packed low, zeros above. -/
def execVcmpr (vd va : BitVec 5) (pg ty : BitVec 2) (s : State) : Host.Outcome State Fault Refusal :=
  runI (.vcmpr vd va pg ty) (do
    let c ← meM
    let w := intWidth ty
    writeV vd (vecOf w ((activeList (c.gov pg) w).map (fun i => elem (c.vr va.toNat) i w)))) s

/-- VSEL (R309): every element is written. -/
def execVsel (vd va vb : BitVec 5) (pg ty aux : BitVec 2) (s : State) : Host.Outcome State Fault Refusal :=
  runI (.vsel vd va vb pg ty aux) (do
    let w := intWidth ty
    let bs ← lastSource vb aux w
    let c ← meM
    writeV vd (mergeElems (c.gov pg) w (vecOf w bs) (elems (c.vr va.toNat) w))) s

/-- VIOTA (R309): the number of active elements below each. -/
def execViota (vd : BitVec 5) (pg ty : BitVec 2) (s : State) : Host.Outcome State Fault Refusal :=
  runI (.viota vd pg ty) (do
    let c ← meM
    let w := intWidth ty
    writeV vd (vecOf w ((List.range (512 / w)).map (fun i => ((activeList (c.gov pg) w).filter (· < i)).length)))) s

/-! ## Predicates (R312) -/

/-- The bits of the active elements of width w. -/
def activeBits (p : Word) (w : Nat) : Word := predOf w ((List.range (512 / w)).map (fun i => activeAt p i w))

/-- A bitwise predicate operation; inactive elements are cleared. -/
def predBody (pd pa pb : BitVec 3) (pg ty : BitVec 2) (op : Word → Word → Word) : M Unit := do
  let c ← meM
  writeP pd.toNat (op (c.pr pa.toNat) (c.pr pb.toNat) &&& activeBits (c.gov pg) (intWidth ty))

/-- The active elements whose lowest bit is set in pa. -/
def Core.setElems (c : Core) (pa : BitVec 3) (pg ty : BitVec 2) : List Nat :=
  let w := intWidth ty
  (activeList (c.gov pg) w).filter (fun i => (c.pr pa.toNat).getLsbD (i * w / 8))

/-- PAND (R312). -/
def execPand (pd pa pb : BitVec 3) (pg ty : BitVec 2) (s : State) : Host.Outcome State Fault Refusal :=
  runI (.pand pd pa pb pg ty) (predBody pd pa pb pg ty (· &&& ·)) s

/-- POR (R312). -/
def execPor (pd pa pb : BitVec 3) (pg ty : BitVec 2) (s : State) : Host.Outcome State Fault Refusal :=
  runI (.por pd pa pb pg ty) (predBody pd pa pb pg ty (· ||| ·)) s

/-- PXOR (R312). -/
def execPxor (pd pa pb : BitVec 3) (pg ty : BitVec 2) (s : State) : Host.Outcome State Fault Refusal :=
  runI (.pxor pd pa pb pg ty) (predBody pd pa pb pg ty (· ^^^ ·)) s

/-- PNOT (R312). -/
def execPnot (pd pa : BitVec 3) (pg ty : BitVec 2) (s : State) : Host.Outcome State Fault Refusal :=
  runI (.pnot pd pa pg ty) (predBody pd pa pa pg ty (fun a _ => ~~~a)) s

/-- PCNT (R312). -/
def execPcnt (rd : BitVec 5) (pa : BitVec 3) (pg ty : BitVec 2) (s : State) : Host.Outcome State Fault Refusal :=
  runI (.pcnt rd pa pg ty) (do let c ← meM; writeReg rd (BitVec.ofNat 64 (c.setElems pa pg ty).length)) s

/-- PFIRST (R312): n when there is none. -/
def execPfirst (rd : BitVec 5) (pa : BitVec 3) (pg ty : BitVec 2) (s : State) : Host.Outcome State Fault Refusal :=
  runI (.pfirst rd pa pg ty) (do
    let c ← meM
    writeReg rd (BitVec.ofNat 64 (match c.setElems pa pg ty with | i :: _ => i | [] => 512 / intWidth ty))) s

/-- PSET (R312). -/
def execPset (pd : BitVec 3) (vb : BitVec 5) (ty aux : BitVec 2) (s : State) : Host.Outcome State Fault Refusal :=
  runI (.pset pd vb ty aux) (do
    let k ← scalarSource vb aux
    let w := intWidth ty
    writeP pd.toNat (predOf w ((List.range (512 / w)).map (fun i => decide (i < k.toNat))))) s

/-- PGET (R312). -/
def execPget (rd : BitVec 5) (pa : BitVec 3) (s : State) : Host.Outcome State Fault Refusal :=
  runI (.pget rd pa) (do let c ← meM; writeReg rd (c.pr pa.toNat)) s

end Sys2Proof.Machine
end

