-- ==== Sys2Proof/Machine/Dispatch.lean ====
section
/-!
DEFINITION. One arm for each instruction and step of the opcode table: a direct call of its meaning.
-/
namespace Sys2Proof.Machine

open Sys2Proof

def exec (i : Instr) (s : State) : Host.Outcome State Fault Refusal :=
  match i with
  | .add rd ra rb => Sys2Proof.Machine.execAdd rd ra rb s
  | .sub rd ra rb => Sys2Proof.Machine.execSub rd ra rb s
  | .and rd ra rb => Sys2Proof.Machine.execAnd rd ra rb s
  | .or rd ra rb => Sys2Proof.Machine.execOr rd ra rb s
  | .xor rd ra rb => Sys2Proof.Machine.execXor rd ra rb s
  | .andn rd ra rb => Sys2Proof.Machine.execAndn rd ra rb s
  | .sll rd ra rb => Sys2Proof.Machine.execSll rd ra rb s
  | .srl rd ra rb => Sys2Proof.Machine.execSrl rd ra rb s
  | .sra rd ra rb => Sys2Proof.Machine.execSra rd ra rb s
  | .ror rd ra rb => Sys2Proof.Machine.execRor rd ra rb s
  | .slt rd ra rb => Sys2Proof.Machine.execSlt rd ra rb s
  | .sltu rd ra rb => Sys2Proof.Machine.execSltu rd ra rb s
  | .min rd ra rb => Sys2Proof.Machine.execMin rd ra rb s
  | .max rd ra rb => Sys2Proof.Machine.execMax rd ra rb s
  | .minu rd ra rb => Sys2Proof.Machine.execMinu rd ra rb s
  | .maxu rd ra rb => Sys2Proof.Machine.execMaxu rd ra rb s
  | .mul rd ra rb => Sys2Proof.Machine.execMul rd ra rb s
  | .mulh rd ra rb => Sys2Proof.Machine.execMulh rd ra rb s
  | .mulhu rd ra rb => Sys2Proof.Machine.execMulhu rd ra rb s
  | .div rd ra rb => Sys2Proof.Machine.execDiv rd ra rb s
  | .divu rd ra rb => Sys2Proof.Machine.execDivu rd ra rb s
  | .rem rd ra rb => Sys2Proof.Machine.execRem rd ra rb s
  | .remu rd ra rb => Sys2Proof.Machine.execRemu rd ra rb s
  | .clz rd ra => Sys2Proof.Machine.execClz rd ra s
  | .ctz rd ra => Sys2Proof.Machine.execCtz rd ra s
  | .popc rd ra => Sys2Proof.Machine.execPopc rd ra s
  | .sext rd ra size => Sys2Proof.Machine.execSext rd ra size s
  | .zext rd ra size => Sys2Proof.Machine.execZext rd ra size s
  | .bswap rd ra => Sys2Proof.Machine.execBswap rd ra s
  | .sel rd ra rb => Sys2Proof.Machine.execSel rd ra rb s
  | .addi rd ra imm => Sys2Proof.Machine.execAddi rd ra imm s
  | .andi rd ra imm => Sys2Proof.Machine.execAndi rd ra imm s
  | .ori rd ra imm => Sys2Proof.Machine.execOri rd ra imm s
  | .xori rd ra imm => Sys2Proof.Machine.execXori rd ra imm s
  | .slli rd ra amt => Sys2Proof.Machine.execSlli rd ra amt s
  | .srli rd ra amt => Sys2Proof.Machine.execSrli rd ra amt s
  | .srai rd ra amt => Sys2Proof.Machine.execSrai rd ra amt s
  | .rori rd ra amt => Sys2Proof.Machine.execRori rd ra amt s
  | .slti rd ra imm => Sys2Proof.Machine.execSlti rd ra imm s
  | .sltui rd ra imm => Sys2Proof.Machine.execSltui rd ra imm s
  | .lui rd imm => Sys2Proof.Machine.execLui rd imm s
  | .insh rd hw imm => Sys2Proof.Machine.execInsh rd hw imm s
  | .lb rd ra off => Sys2Proof.Machine.execLb rd ra off s
  | .lh rd ra off => Sys2Proof.Machine.execLh rd ra off s
  | .lw rd ra off => Sys2Proof.Machine.execLw rd ra off s
  | .ld rd ra off => Sys2Proof.Machine.execLd rd ra off s
  | .lbu rd ra off => Sys2Proof.Machine.execLbu rd ra off s
  | .lhu rd ra off => Sys2Proof.Machine.execLhu rd ra off s
  | .lwu rd ra off => Sys2Proof.Machine.execLwu rd ra off s
  | .sb rs ra off => Sys2Proof.Machine.execSb rs ra off s
  | .sh rs ra off => Sys2Proof.Machine.execSh rs ra off s
  | .sw rs ra off => Sys2Proof.Machine.execSw rs ra off s
  | .sd rs ra off => Sys2Proof.Machine.execSd rs ra off s
  | .ldaW rd ra scope => Sys2Proof.Machine.execLdaW rd ra scope s
  | .ldaD rd ra scope => Sys2Proof.Machine.execLdaD rd ra scope s
  | .stlW ra rb scope => Sys2Proof.Machine.execStlW ra rb scope s
  | .stlD ra rb scope => Sys2Proof.Machine.execStlD ra rb scope s
  | .fence scope rbit wbit rabit wabit => Sys2Proof.Machine.execFence scope rbit wbit rabit wabit s
  | .amoAdd rd ra rb size order scope => Sys2Proof.Machine.execAmoAdd rd ra rb size order scope s
  | .amoAnd rd ra rb size order scope => Sys2Proof.Machine.execAmoAnd rd ra rb size order scope s
  | .amoOr rd ra rb size order scope => Sys2Proof.Machine.execAmoOr rd ra rb size order scope s
  | .amoXor rd ra rb size order scope => Sys2Proof.Machine.execAmoXor rd ra rb size order scope s
  | .amoMin rd ra rb size order scope => Sys2Proof.Machine.execAmoMin rd ra rb size order scope s
  | .amoMax rd ra rb size order scope => Sys2Proof.Machine.execAmoMax rd ra rb size order scope s
  | .amoMinu rd ra rb size order scope => Sys2Proof.Machine.execAmoMinu rd ra rb size order scope s
  | .amoMaxu rd ra rb size order scope => Sys2Proof.Machine.execAmoMaxu rd ra rb size order scope s
  | .amoSwap rd ra rb size order scope => Sys2Proof.Machine.execAmoSwap rd ra rb size order scope s
  | .amoCas rd ra rb size order scope => Sys2Proof.Machine.execAmoCas rd ra rb size order scope s
  | .amoIncb rd ra rb size order scope => Sys2Proof.Machine.execAmoIncb rd ra rb size order scope s
  | .amoAddt rd ra rb size order scope => Sys2Proof.Machine.execAmoAddt rd ra rb size order scope s
  | .amoFadd rd ra rb size order scope => Sys2Proof.Machine.execAmoFadd rd ra rb size order scope s
  | .amoWaitw rd ra rb size order scope => Sys2Proof.Machine.execAmoWaitw rd ra rb size order scope s
  | .beq ra rb off => Sys2Proof.Machine.execBeq ra rb off s
  | .bne ra rb off => Sys2Proof.Machine.execBne ra rb off s
  | .blt ra rb off => Sys2Proof.Machine.execBlt ra rb off s
  | .bge ra rb off => Sys2Proof.Machine.execBge ra rb off s
  | .bltu ra rb off => Sys2Proof.Machine.execBltu ra rb off s
  | .bgeu ra rb off => Sys2Proof.Machine.execBgeu ra rb off s
  | .j off => Sys2Proof.Machine.execJ off s
  | .jal off => Sys2Proof.Machine.execJal off s
  | .jalr rd ra imm => Sys2Proof.Machine.execJalr rd ra imm s
  | .csrr rd csr => Sys2Proof.Machine.execCsrr rd csr s
  | .csrw ra csr => Sys2Proof.Machine.execCsrw ra csr s
  | .csrs ra csr => Sys2Proof.Machine.execCsrs ra csr s
  | .csrc ra csr => Sys2Proof.Machine.execCsrc ra csr s
  | .ecall => Sys2Proof.Machine.execEcall s
  | .ebreak => Sys2Proof.Machine.execEbreak s
  | .sret => Sys2Proof.Machine.execSret s
  | .uiret => Sys2Proof.Machine.execUiret s
  | .yield => Sys2Proof.Machine.execYield s
  | .idle => Sys2Proof.Machine.execIdle s
  | .mark => Sys2Proof.Machine.execMark s
  | .split => Sys2Proof.Machine.execSplit s
  | .fuse => Sys2Proof.Machine.execFuse s
  | .exit => Sys2Proof.Machine.execExit s
  | .ifence => Sys2Proof.Machine.execIfence s
  | .arrive ch => Sys2Proof.Machine.execArrive ch s
  | .arriveG ch => Sys2Proof.Machine.execArriveG ch s
  | .wait rd ch => Sys2Proof.Machine.execWait rd ch s
  | .btest rd ch => Sys2Proof.Machine.execBtest rd ch s
  | .expect ra ch => Sys2Proof.Machine.execExpect ra ch s
  | .bcancel ch => Sys2Proof.Machine.execBcancel ch s
  | .rtake rd ra => Sys2Proof.Machine.execRtake rd ra s
  | .vsrr rd reg ver => Sys2Proof.Machine.execVsrr rd reg ver s
  | .vsrw ra reg => Sys2Proof.Machine.execVsrw ra reg s
  | .enq ra q => Sys2Proof.Machine.execEnq ra q s
  | .enqm ra q => Sys2Proof.Machine.execEnqm ra q s
  | .qstat rd ra rb q => Sys2Proof.Machine.execQstat rd ra rb q s
  | .qwait rd ra q => Sys2Proof.Machine.execQwait rd ra q s
  | .cput ra rb => Sys2Proof.Machine.execCput ra rb s
  | .cget rd rb => Sys2Proof.Machine.execCget rd rb s
  | .ctest rd rb => Sys2Proof.Machine.execCtest rd rb s
  | .vfadd vd va vb pg ty fzi fzo rm => Sys2Proof.Machine.execVfadd vd va vb pg ty fzi fzo rm s
  | .vfsub vd va vb pg ty fzi fzo rm => Sys2Proof.Machine.execVfsub vd va vb pg ty fzi fzo rm s
  | .vfmul vd va vb pg ty fzi fzo rm => Sys2Proof.Machine.execVfmul vd va vb pg ty fzi fzo rm s
  | .vfdiv vd va vb pg ty fzi fzo rm => Sys2Proof.Machine.execVfdiv vd va vb pg ty fzi fzo rm s
  | .vfmin vd va vb pg ty fzi fzo => Sys2Proof.Machine.execVfmin vd va vb pg ty fzi fzo s
  | .vfmax vd va vb pg ty fzi fzo => Sys2Proof.Machine.execVfmax vd va vb pg ty fzi fzo s
  | .vfsqrt vd va pg ty fzi fzo rm => Sys2Proof.Machine.execVfsqrt vd va pg ty fzi fzo rm s
  | .vfsgn vd va vb pg ty rm => Sys2Proof.Machine.execVfsgn vd va vb pg ty rm s
  | .vfma vd va vb pg ty fzi fzo rm => Sys2Proof.Machine.execVfma vd va vb pg ty fzi fzo rm s
  | .vfms vd va vb pg ty fzi fzo rm => Sys2Proof.Machine.execVfms vd va vb pg ty fzi fzo rm s
  | .vfnma vd va vb pg ty fzi fzo rm => Sys2Proof.Machine.execVfnma vd va vb pg ty fzi fzo rm s
  | .vfdot2 vd va vb pg ty fzi fzo rm => Sys2Proof.Machine.execVfdot2 vd va vb pg ty fzi fzo rm s
  | .vfrcp vd va pg ty fzi fzo rm => Sys2Proof.Machine.execVfrcp vd va pg ty fzi fzo rm s
  | .vfrsq vd va pg ty fzi fzo rm => Sys2Proof.Machine.execVfrsq vd va pg ty fzi fzo rm s
  | .vfexp2 vd va pg ty fzi fzo rm => Sys2Proof.Machine.execVfexp2 vd va pg ty fzi fzo rm s
  | .vflog2 vd va pg ty fzi fzo rm => Sys2Proof.Machine.execVflog2 vd va pg ty fzi fzo rm s
  | .vfeq pd va vb pg ty fzi => Sys2Proof.Machine.execVfeq pd va vb pg ty fzi s
  | .vflt pd va vb pg ty fzi => Sys2Proof.Machine.execVflt pd va vb pg ty fzi s
  | .vfle pd va vb pg ty fzi => Sys2Proof.Machine.execVfle pd va vb pg ty fzi s
  | .vfun pd va vb pg ty fzi => Sys2Proof.Machine.execVfun pd va vb pg ty fzi s
  | .vfne pd va vb pg ty fzi => Sys2Proof.Machine.execVfne pd va vb pg ty fzi s
  | .vfclass vd va pg ty => Sys2Proof.Machine.execVfclass vd va pg ty s
  | .vcvtF32F64 vd va pg fzi fzo rm => Sys2Proof.Machine.execVcvtF32F64 vd va pg fzi fzo rm s
  | .vcvtF64F32 vd va pg fzi fzo rm => Sys2Proof.Machine.execVcvtF64F32 vd va pg fzi fzo rm s
  | .vcvtF16F32 vd va pg fzi fzo rm => Sys2Proof.Machine.execVcvtF16F32 vd va pg fzi fzo rm s
  | .vcvtF32F16 vd va pg fzi fzo rm => Sys2Proof.Machine.execVcvtF32F16 vd va pg fzi fzo rm s
  | .vcvtBf16F32 vd va pg fzi fzo rm => Sys2Proof.Machine.execVcvtBf16F32 vd va pg fzi fzo rm s
  | .vcvtF32Bf16 vd va pg fzi fzo rm => Sys2Proof.Machine.execVcvtF32Bf16 vd va pg fzi fzo rm s
  | .vcvtE4m3F32 vd va pg fzi fzo rm => Sys2Proof.Machine.execVcvtE4m3F32 vd va pg fzi fzo rm s
  | .vcvtE5m2F32 vd va pg fzi fzo rm => Sys2Proof.Machine.execVcvtE5m2F32 vd va pg fzi fzo rm s
  | .vcvtF32E4m3 vd va pg fzi fzo rm => Sys2Proof.Machine.execVcvtF32E4m3 vd va pg fzi fzo rm s
  | .vcvtF32E5m2 vd va pg fzi fzo rm => Sys2Proof.Machine.execVcvtF32E5m2 vd va pg fzi fzo rm s
  | .vcvtE2m1F32 vd va vb fzi fzo rm => Sys2Proof.Machine.execVcvtE2m1F32 vd va vb fzi fzo rm s
  | .vcvtF32E2m1 vd va vb fzi fzo rm => Sys2Proof.Machine.execVcvtF32E2m1 vd va vb fzi fzo rm s
  | .vcvtI32F32 vd va pg fzi fzo rm => Sys2Proof.Machine.execVcvtI32F32 vd va pg fzi fzo rm s
  | .vcvtF32I32 vd va pg fzi fzo rm => Sys2Proof.Machine.execVcvtF32I32 vd va pg fzi fzo rm s
  | .vcvtI64F64 vd va pg fzi fzo rm => Sys2Proof.Machine.execVcvtI64F64 vd va pg fzi fzo rm s
  | .vcvtF64I64 vd va pg fzi fzo rm => Sys2Proof.Machine.execVcvtF64I64 vd va pg fzi fzo rm s
  | .vcvtI8I32 vd va pg => Sys2Proof.Machine.execVcvtI8I32 vd va pg s
  | .vcvtI16I32 vd va pg => Sys2Proof.Machine.execVcvtI16I32 vd va pg s
  | .vcvtE8F32 vd va vb fzi fzo rm => Sys2Proof.Machine.execVcvtE8F32 vd va vb fzi fzo rm s
  | .vcvtE4m3F32Bs vd va vb fzi fzo rm => Sys2Proof.Machine.execVcvtE4m3F32Bs vd va vb fzi fzo rm s
  | .vcvtF32E4m3Bs vd va vb fzi fzo rm => Sys2Proof.Machine.execVcvtF32E4m3Bs vd va vb fzi fzo rm s
  | .vadd vd va vb pg ty aux => Sys2Proof.Machine.execVadd vd va vb pg ty aux s
  | .vsub vd va vb pg ty aux => Sys2Proof.Machine.execVsub vd va vb pg ty aux s
  | .vmul vd va vb pg ty aux => Sys2Proof.Machine.execVmul vd va vb pg ty aux s
  | .vmulh vd va vb pg ty aux => Sys2Proof.Machine.execVmulh vd va vb pg ty aux s
  | .vmin vd va vb pg ty aux => Sys2Proof.Machine.execVmin vd va vb pg ty aux s
  | .vmax vd va vb pg ty aux => Sys2Proof.Machine.execVmax vd va vb pg ty aux s
  | .vminu vd va vb pg ty aux => Sys2Proof.Machine.execVminu vd va vb pg ty aux s
  | .vmaxu vd va vb pg ty aux => Sys2Proof.Machine.execVmaxu vd va vb pg ty aux s
  | .vand vd va vb pg ty aux => Sys2Proof.Machine.execVand vd va vb pg ty aux s
  | .vor vd va vb pg ty aux => Sys2Proof.Machine.execVor vd va vb pg ty aux s
  | .vxor vd va vb pg ty aux => Sys2Proof.Machine.execVxor vd va vb pg ty aux s
  | .vsll vd va vb pg ty aux => Sys2Proof.Machine.execVsll vd va vb pg ty aux s
  | .vsrl vd va vb pg ty aux => Sys2Proof.Machine.execVsrl vd va vb pg ty aux s
  | .vsra vd va vb pg ty aux => Sys2Proof.Machine.execVsra vd va vb pg ty aux s
  | .vsadd vd va vb pg ty aux => Sys2Proof.Machine.execVsadd vd va vb pg ty aux s
  | .vssub vd va vb pg ty aux => Sys2Proof.Machine.execVssub vd va vb pg ty aux s
  | .vabsd vd va vb pg ty aux => Sys2Proof.Machine.execVabsd vd va vb pg ty aux s
  | .vcmpeq pd va vb pg ty aux => Sys2Proof.Machine.execVcmpeq pd va vb pg ty aux s
  | .vcmplt pd va vb pg ty aux => Sys2Proof.Machine.execVcmplt pd va vb pg ty aux s
  | .vcmpltu pd va vb pg ty aux => Sys2Proof.Machine.execVcmpltu pd va vb pg ty aux s
  | .vbcast vd vb pg ty aux => Sys2Proof.Machine.execVbcast vd vb pg ty aux s
  | .vext rd va vb ty aux => Sys2Proof.Machine.execVext rd va vb ty aux s
  | .vins vd va vb pg ty aux => Sys2Proof.Machine.execVins vd va vb pg ty aux s
  | .vperm vd va vb pg ty => Sys2Proof.Machine.execVperm vd va vb pg ty s
  | .vsldn vd va vb pg ty aux => Sys2Proof.Machine.execVsldn vd va vb pg ty aux s
  | .vslup vd va vb pg ty aux => Sys2Proof.Machine.execVslup vd va vb pg ty aux s
  | .vredsum vd va pg ty => Sys2Proof.Machine.execVredsum vd va pg ty s
  | .vredfsum vd va pg ty aux => Sys2Proof.Machine.execVredfsum vd va pg ty aux s
  | .vredmax vd va pg ty => Sys2Proof.Machine.execVredmax vd va pg ty s
  | .vredmin vd va pg ty => Sys2Proof.Machine.execVredmin vd va pg ty s
  | .vscan vd va pg ty => Sys2Proof.Machine.execVscan vd va pg ty s
  | .vcmpr vd va pg ty => Sys2Proof.Machine.execVcmpr vd va pg ty s
  | .vsel vd va vb pg ty aux => Sys2Proof.Machine.execVsel vd va vb pg ty aux s
  | .viota vd pg ty => Sys2Proof.Machine.execViota vd pg ty s
  | .pand pd pa pb pg ty => Sys2Proof.Machine.execPand pd pa pb pg ty s
  | .por pd pa pb pg ty => Sys2Proof.Machine.execPor pd pa pb pg ty s
  | .pxor pd pa pb pg ty => Sys2Proof.Machine.execPxor pd pa pb pg ty s
  | .pnot pd pa pg ty => Sys2Proof.Machine.execPnot pd pa pg ty s
  | .pcnt rd pa pg ty => Sys2Proof.Machine.execPcnt rd pa pg ty s
  | .pfirst rd pa pg ty => Sys2Proof.Machine.execPfirst rd pa pg ty s
  | .pset pd vb ty aux => Sys2Proof.Machine.execPset pd vb ty aux s
  | .pget rd pa => Sys2Proof.Machine.execPget rd pa s
  | .vld vd ra pg esize off => Sys2Proof.Machine.execVld vd ra pg esize off s
  | .vst vd ra pg esize off => Sys2Proof.Machine.execVst vd ra pg esize off s
  | .vlds vd ra rb pg esize => Sys2Proof.Machine.execVlds vd ra rb pg esize s
  | .vsts vd ra rb pg esize => Sys2Proof.Machine.execVsts vd ra rb pg esize s
  | .vgath vd ra vb pg esize => Sys2Proof.Machine.execVgath vd ra vb pg esize s
  | .vscat vd ra vb pg esize => Sys2Proof.Machine.execVscat vd ra vb pg esize s
  | .vldb vd ra pg esize off => Sys2Proof.Machine.execVldb vd ra pg esize off s
  | .vstaAdd vd ra pg esize => Sys2Proof.Machine.execVstaAdd vd ra pg esize s
  | .vstaFadd vd ra pg esize => Sys2Proof.Machine.execVstaFadd vd ra pg esize s
  | .vstaMax vd ra pg esize => Sys2Proof.Machine.execVstaMax vd ra pg esize s
  | .vstaMin vd ra pg esize => Sys2Proof.Machine.execVstaMin vd ra pg esize s
  | .rmulf vd va vb pg => Sys2Proof.Machine.execRmulf vd va vb pg s
  | .umulf vd va vb pg => Sys2Proof.Machine.execUmulf vd va vb pg s
  | .rmulq vd va vb pg k => Sys2Proof.Machine.execRmulq vd va vb pg k s
  | .umulq vd va vb pg k => Sys2Proof.Machine.execUmulq vd va vb pg k s
  | .rshra vd va pg k => Sys2Proof.Machine.execRshra vd va pg k s
  | .ushra vd va pg k => Sys2Proof.Machine.execUshra vd va pg k s
  | .rnrw vd va pg => Sys2Proof.Machine.execRnrw vd va pg s
  | .unrw vd va pg => Sys2Proof.Machine.execUnrw vd va pg s
  | .rselz vd va pg => Sys2Proof.Machine.execRselz vd va pg s
  | .uselz vd va pg => Sys2Proof.Machine.execUselz vd va pg s
  | .raddf vd va vb pg => Sys2Proof.Machine.execRaddf vd va vb pg s
  | .uaddf vd va vb pg => Sys2Proof.Machine.execUaddf vd va vb pg s
  | .kmark ra => Sys2Proof.Machine.execKmark ra s
  | .kdrop ra => Sys2Proof.Machine.execKdrop ra s
  | .kchk rd => Sys2Proof.Machine.execKchk rd s
  | .fctlWrite op ra => Sys2Proof.Machine.execFctlWrite op ra s
  | .fflagsWrite op ra => Sys2Proof.Machine.execFflagsWrite op ra s
  | .portmapWrite op ra => Sys2Proof.Machine.execPortmapWrite op ra s
  | .bmaskWrite op ra => Sys2Proof.Machine.execBmaskWrite op ra s
  | .mfmtWrite op ra => Sys2Proof.Machine.execMfmtWrite op ra s
  | .kbackWrite op ra => Sys2Proof.Machine.execKbackWrite op ra s
  | .instretWrite op ra => Sys2Proof.Machine.execInstretWrite op ra s
  | .corestatRead rd => Sys2Proof.Machine.execCorestatRead rd s
  | .tlbinvPage ra => Sys2Proof.Machine.execTlbinvPage ra s
  | .tlbinvRegion ra => Sys2Proof.Machine.execTlbinvRegion ra s
  | .tlbinvContext ra => Sys2Proof.Machine.execTlbinvContext ra s
  | .uinote ra => Sys2Proof.Machine.execUinote ra s
  | .uinoteStallRelease => Sys2Proof.Machine.execUinoteStallRelease s
  | .idleWake => Sys2Proof.Machine.execIdleWake s
  | .unitEnd => Sys2Proof.Machine.execUnitEnd s
  | .boundBytesLand channel bytes => Sys2Proof.Machine.execBoundBytesLand channel bytes s
  | .episodeComplete channel => Sys2Proof.Machine.execEpisodeComplete channel s
  | .waittoExpiry => Sys2Proof.Machine.execWaittoExpiry s
  | .waveComplete group remote => Sys2Proof.Machine.execWaveComplete group remote s
  | .treeNodeFailure group => Sys2Proof.Machine.execTreeNodeFailure group s
  | .kerfSpillComplete => Sys2Proof.Machine.execKerfSpillComplete s
  | .kerfRefillComplete => Sys2Proof.Machine.execKerfRefillComplete s
  | .entryAccepted field => Sys2Proof.Machine.execEntryAccepted field s
  | .entryComplete qid => Sys2Proof.Machine.execEntryComplete qid s
  | .suspendedRetranslate channel => Sys2Proof.Machine.execSuspendedRetranslate channel s
  | .engineResend qid => Sys2Proof.Machine.execEngineResend qid s
  | .copyEngineService => Sys2Proof.Machine.execCopyEngineService s
  | .qfenceRelease tag => Sys2Proof.Machine.execQfenceRelease tag s
  | .asyncEventDelivery => Sys2Proof.Machine.execAsyncEventDelivery s
  | .heldEventEnqueue => Sys2Proof.Machine.execHeldEventEnqueue s
  | .copy h c => Sys2Proof.Machine.execCopy h c s
  | .copynd h c => Sys2Proof.Machine.execCopynd h c s
  | .gathr h c => Sys2Proof.Machine.execGathr h c s
  | .scatr h c => Sys2Proof.Machine.execScatr h c s
  | .fill h c => Sys2Proof.Machine.execFill h c s
  | .feeda h c => Sys2Proof.Machine.execFeeda h c s
  | .feedb h c => Sys2Proof.Machine.execFeedb h c s
  | .feedSpaceReleased channel => Sys2Proof.Machine.execFeedSpaceReleased channel s
  | .drain h c => Sys2Proof.Machine.execDrain h c s
  | .copyg h c => Sys2Proof.Machine.execCopyg h c s
  | .xsched h c => Sys2Proof.Machine.execXsched h c s
  | .jigEntryIssue channel => Sys2Proof.Machine.execJigEntryIssue channel s
  | .mma h c => Sys2Proof.Machine.execMma h c s
  | .mmat h c => Sys2Proof.Machine.execMmat h c s
  | .mzero h c => Sys2Proof.Machine.execMzero h c s
  | .matrixTileIssue => Sys2Proof.Machine.execMatrixTileIssue s
  | .matrixTileComplete => Sys2Proof.Machine.execMatrixTileComplete s
  | .hist h c => Sys2Proof.Machine.execHist h c s
  | .psum h c => Sys2Proof.Machine.execPsum h c s
  | .topk h c => Sys2Proof.Machine.execTopk h c s
  | .auct h c => Sys2Proof.Machine.execAuct h c s
  | .apport h c => Sys2Proof.Machine.execApport h c s
  | .rsort h c => Sys2Proof.Machine.execRsort h c s
  | .priceRead h c => Sys2Proof.Machine.execPriceRead h c s
  | .priceWrite h c => Sys2Proof.Machine.execPriceWrite h c s
  | .priceScale h c => Sys2Proof.Machine.execPriceScale h c s
  | .priceReset h c => Sys2Proof.Machine.execPriceReset h c s
  | .cplan h c => Sys2Proof.Machine.execCplan h c s
  | .cplanArrival a => Sys2Proof.Machine.execCplanArrival a s
  | .cfree h c => Sys2Proof.Machine.execCfree h c s
  | .postingArrival p => Sys2Proof.Machine.execPostingArrival p s
  | .postingResend coordinator => Sys2Proof.Machine.execPostingResend coordinator s
  | .rootTicketArrival t => Sys2Proof.Machine.execRootTicketArrival t s
  | .ticketArrival t => Sys2Proof.Machine.execTicketArrival t s
  | .instanceEnd group inst failed => Sys2Proof.Machine.execInstanceEnd group inst failed s
  | .hubFailure pkg => Sys2Proof.Machine.execHubFailure pkg s
  | .launch h c => Sys2Proof.Machine.execLaunch h c s
  | .launchAging part => Sys2Proof.Machine.execLaunchAging part s
  | .placeLaunch part => Sys2Proof.Machine.execPlaceLaunch part s
  | .rangeinit h c => Sys2Proof.Machine.execRangeinit h c s
  | .cancel h c => Sys2Proof.Machine.execCancel h c s
  | .cntwait h c => Sys2Proof.Machine.execCntwait h c s
  | .qfence h c => Sys2Proof.Machine.execQfence h c s
  | .pdeadlineExpiry => Sys2Proof.Machine.execPdeadlineExpiry s
  | .coreSaveComplete => Sys2Proof.Machine.execCoreSaveComplete s
  | .restoreComplete ctx set => Sys2Proof.Machine.execRestoreComplete ctx set s
  | .bufferZeroingComplete => Sys2Proof.Machine.execBufferZeroingComplete s
  | .contextUnitsStopped ctx => Sys2Proof.Machine.execContextUnitsStopped ctx s
  | .contextZeroingComplete ctx => Sys2Proof.Machine.execContextZeroingComplete ctx s
  | .watchdogExpiry => Sys2Proof.Machine.execWatchdogExpiry s
  | .watchdogRingPoll part => Sys2Proof.Machine.execWatchdogRingPoll part s
  | .retryResend => Sys2Proof.Machine.execRetryResend s
  | .portWriteResend => Sys2Proof.Machine.execPortWriteResend s
  | .migWriteRetranslate => Sys2Proof.Machine.execMigWriteRetranslate s
  | .portWordArrival queue w => Sys2Proof.Machine.execPortWordArrival queue w s
  | .portWriteUnstall => Sys2Proof.Machine.execPortWriteUnstall s
  | .portwaitExpiry => Sys2Proof.Machine.execPortwaitExpiry s
  | .dataFlit port cls rx => Sys2Proof.Machine.execDataFlit port cls rx s
  | .ack port rx => Sys2Proof.Machine.execAck port rx s
  | .nak port rx => Sys2Proof.Machine.execNak port rx s
  | .flow port rx => Sys2Proof.Machine.execFlow port rx s
  | .flowRefresh port => Sys2Proof.Machine.execFlowRefresh port s
  | .probe port rx => Sys2Proof.Machine.execProbe port rx s
  | .echo port rx => Sys2Proof.Machine.execEcho port rx s
  | .idleFlit port rx => Sys2Proof.Machine.execIdleFlit port rx s
  | .portEnable port => Sys2Proof.Machine.execPortEnable port s
  | .portDisable port => Sys2Proof.Machine.execPortDisable port s
  | .lockPhaseEnd port rx => Sys2Proof.Machine.execLockPhaseEnd port rx s
  | .alignPhaseEnd port rx => Sys2Proof.Machine.execAlignPhaseEnd port rx s
  | .startPhaseEnd rx => Sys2Proof.Machine.execStartPhaseEnd rx s
  | .measurePhaseEnd port => Sys2Proof.Machine.execMeasurePhaseEnd port s
  | .trainingPhaseTimeout port => Sys2Proof.Machine.execTrainingPhaseTimeout port s
  | .lockLoss port => Sys2Proof.Machine.execLockLoss port s
  | .packageReset => Sys2Proof.Machine.execPackageReset s
  | .recoveryImage img => Sys2Proof.Machine.execRecoveryImage img s
  | .rollbackAdvance version => Sys2Proof.Machine.execRollbackAdvance version s
  | .hostMailbox part msg => Sys2Proof.Machine.execHostMailbox part msg s
  | .info addr => Sys2Proof.Machine.execInfo addr s
  | .shmpage page ctx => Sys2Proof.Machine.execShmpage page ctx s
  | .pricebank die bank ctx => Sys2Proof.Machine.execPricebank die bank ctx s
  | .tree group node entry => Sys2Proof.Machine.execTree group node entry s
  | .slice len => Sys2Proof.Machine.execSlice len s
  | .peer pkg remote loc => Sys2Proof.Machine.execPeer pkg remote loc s
  | .attest nonce report => Sys2Proof.Machine.execAttest nonce report s
  | .preemptSet core set => Sys2Proof.Machine.execPreemptSet core set s
  | .preemptClear core set => Sys2Proof.Machine.execPreemptClear core set s
  | .ctxnew root => Sys2Proof.Machine.execCtxnew root s
  | .ctxfree ctx => Sys2Proof.Machine.execCtxfree ctx s
  | .restore ctx set list => Sys2Proof.Machine.execRestore ctx set list s
  | .ctxstate ctx addr => Sys2Proof.Machine.execCtxstate ctx addr s
  | .wdring base entries tier => Sys2Proof.Machine.execWdring base entries tier s
  | .scrubReport base len => Sys2Proof.Machine.execScrubReport base len s
  | .freeze => Sys2Proof.Machine.execFreeze s
  | .resume => Sys2Proof.Machine.execResume s
  | .powerCapExceeded watts => Sys2Proof.Machine.execPowerCapExceeded watts s
  | .junctionThrottle die celsius => Sys2Proof.Machine.execJunctionThrottle die celsius s
  | .junctionFreeze die celsius => Sys2Proof.Machine.execJunctionFreeze die celsius s
  | .illegalInstruction cause word => Sys2Proof.Machine.execIllegalInstruction cause word s
  | .dependenceCountWrite part graph index count => Sys2Proof.Machine.execDependenceCountWrite part graph index count s
  | .coordinatorRoleMove root domain hub => Sys2Proof.Machine.execCoordinatorRoleMove root domain hub s
  | .scanChainAccess a => Sys2Proof.Machine.execScanChainAccess a s
  | .throttleEnd watts celsius => Sys2Proof.Machine.execThrottleEnd watts celsius s
  | .probeInterval port => Sys2Proof.Machine.execProbeInterval port s

end Sys2Proof.Machine
end

