-- ==== Sys2Proof/Machine/Hub.lean ====
section
/-!
DEFINITION. What the hub sends to other packages and what it does with what they send: packets with their end-to-end
sequence numbers, and the delivery of a message (R160, R162, R164, R166, R168 to R171, R341).
-/
namespace Sys2Proof

/-! ## Messages -/

/-- The traffic class of a message (R160): the plan's messages travel with postings and tickets (log 30). -/
def OutMsg.cls : OutMsg → Nat
  | .copyWrite .. => 0
  | .copyAnswer .. => 1
  | .postingAnswer .. => 1
  | .contribution .. => 2
  | .wave .. => 2
  | _ => 3

/-- The package a message goes to. -/
def OutMsg.dst : OutMsg → Nat
  | .copyWrite d .. => d
  | .copyAnswer d .. => d
  | .planArrival d _ => d
  | .planReserve d .. => d
  | .planReserved d .. => d
  | .planVerdict d .. => d
  | .planEnd d .. => d
  | .planFreed d .. => d
  | .planDrop d _ => d
  | .planKill d _ => d
  | .posting d _ => d
  | .postingAnswer d .. => d
  | .rootTicket d _ => d
  | .ticket d _ => d
  | .contribution d .. => d
  | .instFail d .. => d
  | .wave d .. => d
  | .roleState d .. => d

namespace Machine

/-! ## End-to-end sequence numbers (R162) -/

/-- The numbers of a hub and class; all start at 0. -/
def State.pair (s : State) (hub cls : Nat) : EndToEnd :=
  match s.pairs.find? (fun e => e.hub == hub && e.cls == cls) with
  | some e => e
  | none => { hub := hub, cls := cls, next := 0, expect := 0, early := [] }

/-- Put the numbers of a hub and class back. -/
def State.setPair (s : State) (e : EndToEnd) : State :=
  { s with pairs := s.pairs.filter (fun x => !(x.hub == e.hub && x.cls == e.cls)) ++ [e] }

/-- The packets that now stand in sequence, in order, and the numbers after them; n bounds how many. -/
def EndToEnd.release : Nat → EndToEnd → List OutMsg × EndToEnd
  | 0, e => ([], e)
  | n + 1, e =>
    match assoc e.expect e.early with
    | none => ([], e)
    | some m =>
      let r := EndToEnd.release n { e with expect := e.expect + 1, early := e.early.filter (fun x => x.1 != e.expect) }
      (m :: r.1, r.2)

/-- A packet arrives at its hub (R162): a duplicate is discarded; a class 3 packet is delivered in sequence, with the
early ones that follow it, and any other as it comes. -/
def EndToEnd.arrive (e : EndToEnd) (seq : Nat) (m : OutMsg) : List OutMsg × EndToEnd :=
  if seq < e.expect ∨ (assoc seq e.early).isSome then ([], e)
  else
    let r := EndToEnd.release (e.early.length + 1) { e with early := (seq, m) :: e.early }
    (if e.cls = 3 then r.1 else [m], r.2)

/-! ## Sending -/

/-- The packet data of a packet waits for a port. -/
def State.queuePacket (s : State) (part : Option Nat) (p : HubPacket) : State :=
  { s with linkQueue := s.linkQueue ++ (Config.packetFlits p).map (fun b => ⟨p.msg.dst, part, p.cls, b⟩) }

/-- The first message for a package that a port leads to becomes a packet, with the next number of its hub and class. -/
def State.packMessage (s : State) : Option State :=
  (s.outbox.find? (fun o => (s.portFor o.part o.msg.dst).isSome)).map (fun o =>
    let e := s.pair o.msg.dst o.msg.cls
    let t := (s.setPair { e with next := e.next + 1 }).queuePacket o.part { src := s.pkgId, cls := o.msg.cls, seq := e.next, msg := o.msg }
    { t with outbox := removeFirst (fun x => x == o) t.outbox, departed := t.departed ++ [o.msg] })

/-! ## Receiving -/

/-- A packet of a remote copy meets its page (R341): written under the peer context, and answered; a migrating page or
retry replies let it wait. -/
def State.copyWriteArrives (s : State) (src ctx id addr : Nat) (bs : List Byte) : State :=
  let part := (s.ctx? ctx).map (·.part)
  let place := match part.bind s.part? with | some p => p.supCore | none => 0
  let fails := fun (t : State) (cause : Nat) => t.send part (.copyAnswer src id bs.length (some (cause, addr)))
  if (s.ctx? ctx).isNone ∨ windowOf addr ≠ .paged then fails s 3
  else match s.engStoreAs (s.hubAgent ctx place) addr bs with
    | .ok t => t.send part (.copyAnswer src id bs.length none)
    | .error (.fault c, t) => fails t c
    | .error (r, t) => { t with inbox := t.inbox ++ [{ src := src, msg := .copyWrite s.pkgId ctx id addr bs, due := s.cycle + 4096, mig := r == .migrating }] }

/-- A coordinator asks this hub for its part of a plan's reservations (R166): where they are not available the members
here are told so at once. -/
def State.planReserveArrives (s : State) (src id : Nat) (k : PlanCommon) (list : List (Nat × Nat)) : State :=
  match s.reservePlan (src, id) k list with
  | some t => t.sendFor k.group (.planReserved src id true)
  | none => (s.planVerdict (src, id) k.group list 16).sendFor k.group (.planReserved src id false)

/-- A message of another hub is delivered (R164, R166, R168 to R171, R173 to R177, R341). -/
def State.deliverMsg (s : State) (src : Nat) : OutMsg → State
  | .copyWrite _ ctx id addr bs => s.copyWriteArrives src ctx id addr bs
  | .copyAnswer _ id n f => s.copyAnswer id n f
  | .planArrival _ a =>
    -- a CPLAN that reaches a hub which has given the role away is sent on
    if s.coordinates a.members || s.coordinator a.members == s.pkgId then s.planArrive a
    else s.sendFor a.common.group (.planArrival (s.coordinator a.members) a)
  | .planReserve _ id k list => s.planReserveArrives src id k list
  | .planReserved _ id ok => s.planReserved src id ok
  | .planVerdict _ id status => s.planVerdict (src, id) 0 [] status
  | .planEnd _ core group status => s.endCplan core group status 0
  | .planFreed _ group rank => match s.planOf group with
    | some p =>
      if s.coordinates p.memberList || s.coordinator p.memberList == s.pkgId then s.rankFreed group rank
      else s.sendFor group (.planFreed (s.coordinator p.memberList) group rank)
    | none => s
  | .planDrop _ group => { s with coll := s.coll.removePlan group }
  | .planKill _ group => match s.planOf group with
    | some p => s.killPlan p false
    | none => s
  | .posting _ x => match s.planOf x.group with
    | some p => if p.live then s.postingArrive x else s.sendFor x.group (.postingAnswer src x 2)
    | none => s.sendFor x.group (.postingAnswer src x 1)
  | .postingAnswer _ x code => s.postingReply x code
  | .rootTicket _ t => s.appendTicket t
  | .ticket _ t => { s with coll := { s.coll with stream := s.coll.stream ++ [t] } }
  | .contribution _ group inst rank bs =>
    if (s.planOf group).isNone then s else { s with coll := { s.coll with arrived := s.coll.arrived ++ [(group, inst, rank, bs)] } }
  | .instFail _ group inst => s.failInst group inst
  | .roleState _ root count plans table rounds => s.takeRole root count plans table rounds
  | .wave _ group v => { s with coll := { s.coll with waveIn := s.coll.waveIn ++ [(group, src, v)] } }

/-- A whole packet has arrived: it goes on toward another package, or is delivered here by its number (R162). -/
def State.packetArrives (s : State) (p : HubPacket) : State :=
  if p.msg.dst ≠ s.pkgId then s.queuePacket none p
  else
    let r := (s.pair p.src p.cls).arrive p.seq p.msg
    r.1.foldl (fun (t : State) m => t.deliverMsg p.src m) (s.setPair r.2)

/-- The packet data received of a class. -/
def State.inData (s : State) (cls : Nat) : List (BitVec 224) := (s.inFlits.filter (fun x => x.1 == cls)).map (·.2)

/-- The first packet that is whole in the packet data received (log 30). -/
def State.takePacket (s : State) : Option State :=
  (List.range 4).findSome? (fun c =>
    match s.inData c with
    | [] => none
    | data => (Config.packetIn data).bind (fun r =>
        if r.2.length < data.length then
          some (({ s with inFlits := s.inFlits.filter (fun x => x.1 != c) ++ r.2.map (fun b => (c, b)) } : State).packetArrives r.1)
        else none))

/-- A message that met a migrating page is delivered again, every 4,096 cycles or when a TLBINV asks for it (R69, R70, R341). -/
def State.retryInbox (s : State) : Option State :=
  (s.inbox.find? (fun w => decide (w.due ≤ s.cycle))).map (fun w =>
    ({ s with inbox := removeFirst (fun x => x == w) s.inbox } : State).deliverMsg w.src w.msg)

/-- What the link makes due: a receive buffer to drain, a packet to take, a flit or a packet to send, a message or an
instance's end to try again. -/
def State.linkDue (s : State) : Option (State → State) :=
  match s.ports.find? (fun p => !p.buffers.isEmpty) with
  | some p => some (fun s => s.drainPort p.num)
  | none =>
    match s.takePacket with
    | some t => some (fun _ => t)
    | none =>
      if s.linkQueue.any s.sendable then some State.sendPacket
      else match s.packMessage with
        | some t => some (fun _ => t)
        | none =>
          match s.retryInbox with
          | some t => some (fun _ => t)
          | none => if s.coll.ends.any s.endReady then some State.retryEnds else none

end Machine

end Sys2Proof
end

