-- ==== Sys2Proof/Machine/Due.lean ====
section
/-!
DEFINITION. Whose turn it is and which step of an engine, a timer or the hub is due next (log 1).
-/
namespace Sys2Proof.Machine

open Sys2Proof

/-- The current core is a follower of a fused gang: its instructions are forwarded (R92). -/
def State.isFollower (s : State) : Bool :=
  s.fused && (match s.me.unit with | some u => decide (0 < u.gangPos) | none => false)

/-- Instructions of a member that can bring what another waits for: at a barrier channel an arrival, a failure, or a command
that may be bound to it; at a word a store, an atomic or a command that may write it; at a wave slot a contribution
(log 34). -/
def Instr.brings (k : WaitKind) (i : Instr) : Bool :=
  let command := match i with
    | .enq _ _ => true
    | .enqm _ _ => true
    | _ => false
  let barrier := fun (ch : Nat) => command || (match i with
    | .arrive c => c.toNat == ch
    | .arriveG c => c.toNat == ch
    | .bcancel c => c.toNat == ch
    | .bmaskWrite _ _ => true
    | _ => false)
  match k with
  | .barrier ch _ => barrier ch
  | .arrive ch _ => barrier ch
  | .word _ _ _ _ _ _ => command || (match i with
    | .sb _ _ _ => true
    | .sh _ _ _ => true
    | .sw _ _ _ => true
    | .sd _ _ _ => true
    | .stlW _ _ _ => true
    | .stlD _ _ _ => true
    | .amoAdd _ _ _ _ _ _ => true
    | .amoAnd _ _ _ _ _ _ => true
    | .amoOr _ _ _ _ _ _ => true
    | .amoXor _ _ _ _ _ _ => true
    | .amoMin _ _ _ _ _ _ => true
    | .amoMax _ _ _ _ _ _ => true
    | .amoMinu _ _ _ _ _ _ => true
    | .amoMaxu _ _ _ _ _ _ => true
    | .amoSwap _ _ _ _ _ _ => true
    | .amoCas _ _ _ _ _ _ => true
    | .amoIncb _ _ _ _ _ _ => true
    | .amoAddt _ _ _ _ _ _ => true
    | .amoFadd _ _ _ _ _ _ => true
    | .vst _ _ _ _ _ => true
    | .vsts _ _ _ _ _ => true
    | .vscat _ _ _ _ _ => true
    | .vstaAdd _ _ _ _ => true
    | .vstaFadd _ _ _ _ => true
    | .vstaMax _ _ _ _ => true
    | .vstaMin _ _ _ _ => true
    | _ => false)
  | .cget _ => (match i with | .cput _ _ => true | _ => false)
  | _ => false

/-- An instruction forwarded to a follower can bring what the leader waits for (log 34). -/
def Forwarded.brings (k : WaitKind) (f : Forwarded) : Bool :=
  match decode f.word with
  | .ok i => Instr.brings k i
  | .error _ => false

/-- The members of a gang that have not ended: on their cores, or in saved images. -/
def State.gangMembers (s : State) (u : UnitCfg) : List Core :=
  (s.allCores ++ s.contexts.flatMap (fun x => x.images.map (·.core))).filter (fun c => c.inGangOf u)

/-- The leader of a fused gang goes on, or holds its followers: it runs, and waits for nothing that an instruction already
forwarded to one of them can bring (R92, log 34). -/
def Core.leads (members : List Core) (c : Core) : Bool :=
  (c.gangPos == 0) && (c.run == .running) && !c.user.diverge && (match c.wait with
    | some w => !members.any (fun m => decide (0 < m.gangPos) && m.fwd.any (Forwarded.brings w.kind))
    | none => true)

/-- A member of a fused gang holds (R92): while one behind it has not executed the instruction of its slot, whatever stops
it, and, as a follower, until its own slot has come, k instructions after the leader. So none passes a member that
stalls, and the skew is kept, but for what the leader's own wait needs (log 34). -/
def State.gangHolds (s : State) : Bool :=
  s.fused && (match s.me.unit with
    | none => false
    | some u =>
      let members := s.gangMembers u
      members.any (fun c => decide (u.gangPos < c.gangPos) && decide (c.gangPos ≤ c.fwd.length)) ||
      (decide (0 < u.gangPos) && decide (s.me.fwd.length < u.gangPos) && members.any (Core.leads members)))

/-- A wait that an event, a timer or a resend must end before the instruction is tried again; the results of batched
atomics go out at a port before the next instruction (R151). -/
def Core.blocked (c : Core) : Bool :=
  !c.portResults.isEmpty || match c.wait with
  | none => false
  | some w =>
    if w.ready then false
    else match w.kind with
      | .idle => true
      | .exit => true
      | .portWrite _ => true
      | .uinote _ => true
      | .kerf => (match c.kerfOp with | some k => !(k.done || k.failed.isSome) | none => false)
      | k => k.timed

/-- A stall that an event or notice may interrupt: every stall before the instruction has issued (R113, R124, R53), but
not IDLE, which ends by its own rule (R260), nor a resend, a kerf transfer or a finish that is already due. -/
def WaitRec.gives (w : WaitRec) : Bool :=
  !w.ready && (match w.kind with
    | .idle => false
    | .retry _ => false
    | .portRetry _ => false
    | .kerf => false
    | _ => true)

/-- An event or notice is taken at this boundary (R54, R113). -/
def State.asyncDue (s : State) : Bool :=
  s.me.anyDeliverable && (match s.me.wait with
    | none => true
    | some w => w.gives)

/-- The current core has an instruction boundary to act at, and is not to be saved or held there (R45, R55). -/
def State.canRun (s : State) : Bool :=
  (s.me.run == .running) && !s.me.held && !s.me.stopDue s.cycle && (s.asyncDue || (!s.me.blocked && !s.gangHolds))

/-- A follower's forwarded instruction is over when it has neither stalled nor been dropped by a split. -/
def State.afterFollower (s : State) : State :=
  if s.me.wait.isSome then { s with me := { s.me with lead := none } }
  else { s with me := { s.me with fwd := s.me.fwd.drop 1, lead := none } }

/-- What the leader of a fused gang has executed is forwarded to its followers (R92, R93, R95). A gang that was split
before the instruction has nothing forwarded, a FUSE that joined it included; one that it split by a trap neither, one
that a SPLIT has split the SPLIT itself. -/
def State.afterLeader (w : IWord) (pc : Word) (split : Bool) (s : State) : State :=
  match s.me.unit with
  | some u =>
    if u.gangSize ≤ 1 ∨ u.gangPos ≠ 0 ∨ s.me.wait.isSome ∨ split = true ∨ (s.me.user.diverge ∧ w ≠ 0x50000007#32) then s
    else s.forward u { word := w, pc := pc, next := s.me.pc }
  | none => s

/-- The next core that runs, in rising core number, round and round. -/
def State.nextTurn (s : State) : State :=
  let ids := (s.others.filter (fun x => x.2.run == .running)).map (·.1)
  let s := { s with engineTurn := false }
  match ids.find? (fun n => decide (s.me.id < n)) with
  | some n => s.switchTo n
  | none => match ids with
    | n :: _ => if s.me.run == .running && decide (s.me.id < n) then s else s.switchTo n
    | [] => s

/-- The steps that a frozen package still takes (R385, R387, R379). -/
def frozenTakes : Instr → Bool
  | .resume => true
  | .freeze => true
  | .packageReset => true
  | .scanChainAccess _ => true
  | .junctionFreeze _ _ => true
  | .hostMailbox _ _ => true
  | .recoveryImage _ => true
  | _ => false

/-- The next step of the agenda; while frozen only those a frozen package takes. -/
def State.takeAgenda (s : State) : Option ((Nat × Instr) × State) :=
  if s.frozen then
    match s.agenda.find? (fun x => frozenTakes x.2) with
    | some x => some (x, { s with agenda := removeFirst (fun y => frozenTakes y.2) s.agenda })
    | none => none
  else
    match s.agenda with
    | x :: rest => some (x, { s with agenda := rest })
    | [] => none

/-! ## What is due next (log 1) -/

/-- A step that is due: the core it acts for, and the step. -/
abbrev DueStep := Nat × (State → Host.Outcome State Fault Refusal)

/-- An engine takes up the command at the head of a queue. -/
def takeUp (h : CmdHead) : Cmd → State → Host.Outcome State Fault Refusal
  | .copy c => execCopy h c
  | .copynd c => execCopynd h c
  | .gathr c => execGathr h c
  | .scatr c => execScatr h c
  | .fill c => execFill h c
  | .feeda c => execFeeda h c
  | .feedb c => execFeedb h c
  | .drain c => execDrain h c
  | .copyg c => execCopyg h c
  | .xsched c => execXsched h c
  | .mma c => execMma h c
  | .mmat c => execMmat h c
  | .mzero c => execMzero h c
  | .hist c => execHist h c
  | .psum c => execPsum h c
  | .topk c => execTopk h c
  | .auct c => execAuct h c
  | .apport c => execApport h c
  | .rsort c => execRsort h c
  | .priceRead c => execPriceRead h c
  | .priceWrite c => execPriceWrite h c
  | .priceScale c => execPriceScale h c
  | .priceReset c => execPriceReset h c
  | .cplan c => execCplan h c
  | .cfree c => execCfree h c
  | .launch c => execLaunch h c
  | .rangeinit c => execRangeinit h c
  | .cancel c => execCancel h c
  | .cntwait c => execCntwait h c
  | .qfence c => execQfence h c

/-- A waiting command at the head of the work or collective queue whose wait is over (R174, R354, R355). -/
def State.waitOver (s : State) (e : Entry) : Bool :=
  e.state == .active && (match e.cmd with
    | .cntwait c => (s.cntReady c).isSome
    | .cfree _ => s.cfreeOver e
    | .cancel _ => s.cancelOver e
    | _ => false)

/-- What the head entry of a queue of the current core makes due. -/
def State.entryDue (s : State) (q : Nat) : Option (State → Host.Outcome State Fault Refusal) :=
  match s.me.headEntry q with
  | none => none
  | some e =>
    if e.state = .accepted then some (takeUp e.head e.cmd)
    else if s.me.canReport q && (e.since == 0 || e.kick || decide (e.since + 4096 ≤ s.cycle)) then some (execEntryComplete q)
    else if e.state = .fenced ∧ s.me.fenceReady e.head.tag = true then some (execQfenceRelease e.head.tag)
    else if s.waitOver e then some (takeUp e.head e.cmd)
    else if s.retranslateDue q then some (execSuspendedRetranslate q)
    else if s.resendDue q then some (execEngineResend q)
    else if s.jigDue q then some (execJigEntryIssue q)
    else none

/-- What ends the current core's wait now. -/
def State.waitDue (s : State) : Option (State → Host.Outcome State Fault Refusal) :=
  match s.me.wait with
  | none => none
  | some w =>
    if w.ready then none
    else if s.me.waittoDue s.cycle then some execWaittoExpiry
    else match w.kind with
      | .portWrite _ => if s.portOpen then some execPortWriteUnstall else if s.portExpired.isSome then some execPortwaitExpiry else none
      | .retry _ => if w.since + 256 ≤ s.cycle then some execRetryResend else none
      | .portRetry _ => if w.since + 256 ≤ s.cycle then some execPortWriteResend else none
      | .migWrite _ => if w.since + 4096 ≤ s.cycle then some execMigWriteRetranslate else none
      | .idle => if s.me.idleEnds then some execIdleWake else none
      | .exit => if s.me.exitReady then some execUnitEnd else none
      | .uinote n => if s.noticeTarget n = .full then none else some execUinoteStallRelease
      | _ => none

/-- The first of several that is due. -/
def firstDue {α β : Type} (f : α → Option β) (l : List α) : Option β := l.findSome? f

/-- What is due at the current core and its engines. -/
def State.meDue (s : State) : Option (State → Host.Outcome State Fault Refusal) :=
  match s.me.run with
  | .free => none
  | .zeroing => some execBufferZeroingComplete
  | .restoring => none
  | .saving =>
    if s.me.runTile.isSome then some execMatrixTileComplete
    else if s.me.saveFrom + 6000 ≤ s.cycle then some execCoreSaveComplete
    else none
  | .running =>
    if s.me.saveDue s.cycle then some execPdeadlineExpiry
    else if s.watchdogDue || s.me.holdDue then some execWatchdogExpiry
    else if s.portResultReady then some execPortWriteUnstall
    else if s.resultTries then some execPortWriteResend
    else if s.resultExpired.isSome then some execPortwaitExpiry
    else match s.waitDue with
      | some f => some f
      | none =>
        if s.kerfDue true then some execKerfSpillComplete
        else if s.kerfDue false then some execKerfRefillComplete
        else if s.me.runTile.isSome then some execMatrixTileComplete
        else match (List.range 5).find? s.me.canAccept with
          | some f => some (execEntryAccepted f)
          | none =>
            match firstDue s.entryDue (dedup (s.me.entries.map (·.qid))) with
            | some f => some f
            | none =>
              if !s.me.heldEvents.isEmpty && decide (s.me.events.length < 16) then some execHeldEventEnqueue
              else if s.nextChannel.isSome then some execCopyEngineService
              else if s.canIssueTile then some execMatrixTileIssue
              else none

/-- What is due at the cores: the core whose turn it is first, then the others in rising number. -/
def State.coresDue (s : State) : Option DueStep :=
  match s.meDue with
  | some f => some (s.me.id, f)
  | none => firstDue (fun (x : Nat × Core) => ((s.switchTo x.1).meDue).map (fun f => (x.1, f))) s.others

/-- The gather record of an episode that could complete has not been refused, or its next try has come (R33, R388). -/
def State.gatherOpen (s : State) (ch : Channel) : Bool :=
  match ch.gatherDue with
  | none => true
  | some (t, _) => decide (t ≤ s.cycle)

/-- What is due in a partition's launch unit and hub (R83, R85, R86, R55). -/
def State.partDue (s : State) (p : Partition) : Option (State → Host.Outcome State Fault Refusal) :=
  if p.launches.any (fun l => l.state == .ready && !l.aged && decide (2 ^ 20 ≤ s.cycle - l.readyAt)) then some (execLaunchAging p.id)
  else if s.canPlace p.id then some (execPlaceLaunch p.id)
  else match p.launches.find? (fun l => match l.recordDue with | some (t, _) => decide (t ≤ s.cycle) | none => false) with
    | some l => some (event (fun s => s.launchRecordWrite l.key))
    | none =>
      match p.launches.find? (fun l => l.recorded && s.irqRoom l) with
      | some l => some (event (fun s => s.launchDone l.key))
      | none => if !p.wdHeld.isEmpty && p.wdRing.isSome && decide (p.wdPoll + 4096 ≤ s.cycle) then some (execWatchdogRingPoll p.id) else none

/-- What is due for a context (R41). -/
def State.ctxDue (s : State) (x : Context) : Option (State → Host.Outcome State Fault Refusal) :=
  match x.sets.find? (fun e => e.state == .restoring) with
  | some e => some (execRestoreComplete x.id e.num)
  | none =>
    if s.unitsStopped x.id then some (execContextUnitsStopped x.id)
    else if s.ctxZero x then some (execContextZeroingComplete x.id)
    else none

/-- A refused posting whose resend has come: its coordinator (R169). -/
def State.postingDue (s : State) : Option Nat :=
  (s.coll.localPostings.find? (fun l => match l.refusedAt with | some t => decide (t + 4096 ≤ s.cycle) | none => false)).map
    (fun l => s.postingHub l.posting)

/-- The groups with a wave open here. -/
def Collective.openWaves (c : Collective) : List Nat := dedup (c.contribs.map (·.1) ++ c.waveIn.map (·.1))

/-- What is due in the collectives (R164, R168 to R171). -/
def State.collDue (s : State) : Option (State → Host.Outcome State Fault Refusal) :=
  match (s.coll.openWaves.flatMap (fun g => [(g, false), (g, true)])).find? (fun w => (s.waveStep w.1 w.2).isSome) with
  | some w => some (execWaveComplete w.1 w.2)
  | none =>
    match s.nextPosting with
    | some p => if s.postingHub p = s.pkgId then some (execPostingArrival p) else some (event (fun s => s.sendPosting p))
    | none =>
      match s.coll.stream with
      | t :: _ => some (execTicketArrival t)
      | [] =>
        match s.postingDue with
        | some hub => some (execPostingResend hub)
        | none => (s.coll.started.find? (fun x => (s.endStarted x.group x.inst).isSome)).map (fun x =>
          execInstanceEnd x.group x.inst (s.endsFailed x.group x.inst))

/-- The open episode of a channel completes: it must fail, or its conditions hold and its gather record has not been
refused since (R121, R122, R152). -/
def State.episodeEnds (s : State) (c : Channel) : Bool := s.mustFail c || (!c.failing && s.episodeReady c && s.gatherOpen c)

/-- An episode whose conditions hold completes before anything else of a cycle (R121, R122). -/
def State.episodeDue (s : State) : Option (State → Host.Outcome State Fault Refusal) :=
  (s.channels.find? (fun c => s.episodeEnds c)).map (fun c => execEpisodeComplete c.num)

/-- What is due in the hub: launches, contexts, collectives, ports. -/
def State.hubDue (s : State) : Option (State → Host.Outcome State Fault Refusal) :=
  match firstDue s.partDue s.parts with
  | some f => some f
  | none =>
    match firstDue s.ctxDue s.contexts with
    | some f => some f
    | none =>
      match s.collDue with
      | some f => some f
      | none =>
        match firstDue s.portDue s.ports with
        | some f => some f
        | none => s.linkDue.map event

/-- The next step that is due: an episode that completes, else cores and hub take precedence by turns (log 1). -/
def State.dueEvent (s : State) : Option DueStep :=
  match s.episodeDue with
  | some f => some (s.me.id, f)
  | none =>
    let hub := s.hubDue.map (fun f => (s.me.id, f))
    if s.cycle % 2 = 0 then (match s.coresDue with | some x => some x | none => hub)
    else (match hub with | some x => some x | none => s.coresDue)

end Sys2Proof.Machine
end

