-- ==== Sys2Proof/Machine/Step.lean ====
section
/-!
DEFINITION. One step of the package: an agreed step of the agenda, a boot stage, a turn of the current core, or a turn
of the engines and timers (log 1). Everything a step does to the machine is in the meanings it calls.
-/
namespace Sys2Proof.Machine

open Sys2Proof

/-- Run an action as another core, keeping its outcome. -/
def onCore (n : Nat) (f : State → Host.Outcome State Fault Refusal) (s : State) : Host.Outcome State Fault Refusal :=
  match f (s.switchTo n) with
  | .next s' => .next (s'.switchTo s.me.id)
  | .fault r => .fault r
  | .refused r => .refused r

/-- A core's turn is over: one cycle has passed and the engines have the next turn. -/
def State.afterTurn (s : State) : State := { s with cycle := s.cycle + 1, engineTurn := true }

/-- Add to a next state. -/
def thenDo (f : State → State) : Host.Outcome State Fault Refusal → Host.Outcome State Fault Refusal
  | .next s => .next (f s)
  | .fault r => .fault r
  | .refused r => .refused r

/-- Run the decoded word, or take the illegal-instruction trap (R229). -/
def runWord (w : IWord) (s : State) : Host.Outcome State Fault Refusal :=
  match decode w with
  | .ok i => exec i s
  | .error _ => execIllegalInstruction 0 (w.zeroExtend 64) s

/-- The current core's turn: an event that is deliverable, or the next instruction, fetched or forwarded. -/
def coreStep (s : State) : Host.Outcome State Fault Refusal :=
  if !s.canRun then .next s
  else if s.asyncDue then execAsyncEventDelivery s
  else if s.isFollower then
    match s.me.fwd with
    | [] => .next s
    | f :: _ => thenDo State.afterFollower (runWord f.word { s with me := { s.me with lead := some f.next } })
  else
    match fetchM s with
    | .ok (w, s') => thenDo (State.afterLeader w s.me.pc s.me.user.diverge) (runWord w s')
    | .error (.trap c v) => execIllegalInstruction (BitVec.ofNat 5 c) v s
    | .error (.trapWord c) => execIllegalInstruction (BitVec.ofNat 5 c) s.me.pc s
    | .error (.stall k rd) => .next (s.park k rd)

/-- After an engine's step the next core has its turn, but first an episode whose conditions now hold completes (R121,
R122). -/
def State.afterEvent (s : State) : State := if s.episodeDue.isSome then s else s.nextTurn

/-- The engines' and timers' turn: the step that is due, if any; then the next core has its turn. With nothing due, every
port has sent IDLE up to now (R155). -/
def engineStep (s : State) : Host.Outcome State Fault Refusal :=
  match s.dueEvent with
  | some (c, f) => thenDo State.afterEvent (onCore c f s)
  | none => .next s.idlePorts.nextTurn

/-- One step. -/
def step (s : State) : Host.Outcome State Fault Refusal :=
  match s.takeAgenda with
  | some ((c, i), s') => onCore c (exec i) s'
  | none =>
    if s.frozen then .next s
    else
      match s.boot.halted with
      | some code => .fault (.bootHalted code)
      | none =>
        if s.boot.stage < 7 then .next s.bootStep
        else if s.engineTurn then engineStep s
        else thenDo State.afterTurn (coreStep s)

/-! ## Placing one instruction (log 6) -/

/-- Page tables that map the 64 KiB page of va, readable, writable and executable, onto the frame at 0x20000: L0 at
0x8000, L1 at 0x10000, leaf at 0x18000 (R62 to R64). -/
def mapPage (va : Nat) (m : List Host.Cell) : List Host.Cell :=
  Memory.writeBytes
    (Memory.writeBytes
      (Memory.writeBytes m (stackedKey (0x8000 + 8 * natBits va 46 35)) (leBytes 8 0x10001))
      (stackedKey (0x10000 + 8 * natBits va 34 23)) (leBytes 8 0x18001))
    (stackedKey (0x18000 + 8 * natBits va 22 16)) (leBytes 8 0x2001F)

/-- The state with one instruction word loaded where the current core fetches next: the core is made to run at
supervisor level (as the monitor starts a supervisor, R382) with page tables of its own; the word's bytes lie at its
pc, and no cached copy, event or agreed step comes before the fetch. -/
def State.withFetchWord (s : State) (_nbits w : Nat) : State :=
  let va := if s.me.pc.toNat < 2 ^ 47 ∧ s.me.pc.toNat % 4 = 0 then s.me.pc.toNat else 0
  { s with
    agenda := []
    engineTurn := false
    frozen := false
    boot := { s.boot with stage := 7, halted := none }
    eccBad := []
    l2tlb := []
    mem := Memory.writeBytes (mapPage va s.mem) (stackedKey (0x20000 + va % 2 ^ 16)) (leBytes 4 w)
    me := { s.me with
      run := .running, held := false, expired := none, preq := none, super := true, pc := BitVec.ofNat 64 va, wait := none, fwd := [], lead := none, portResults := [],
      unit := none, events := [], notices := [], wdNotice := none, itlb := [], l1i := [],
      sup := { s.me.sup with ptroot := 0x8000 } } }

end Sys2Proof.Machine
end

