-- ==== Sys2Proof/Safety.lean ====
section
/-!
DEFINITION. What counts as a safe run, and the words the claims are stated in: a register in its ordinary form, an
instruction that completes, and what stays as it was.
-/
namespace Sys2Proof

/-- From this state k steps end in a next state. -/
def SafeFor (k : Nat) (s : Machine.State) : Prop := ∃ t, core.run k s = .next t

/-- Every run from this state goes on. -/
def Safe (s : Machine.State) : Prop := ∀ k, SafeFor k s

namespace Machine

/-- A register in its ordinary form: not mapped as a port (R97), not the destination of a held atomic (R151). -/
def Core.plainReg (c : Core) (r : BitVec 5) : Bool := !c.isPort r.toNat && !c.pendingRegs.contains (c.bankReg r.toNat)

/-- An instruction completes having changed the current core alone: INSTRET counts it and the pc moves on by 4 (R232). -/
def State.completes (s : State) (f : Core → Core) : State := (s.updMe f).retire

/-- The current core with general register r written; g0 discards (R217). -/
def Core.withG (c : Core) (r : BitVec 5) (w : Word) : Core := c.setGpr r.toNat w

/-- General register r of the current core as an operand in its ordinary form; g0 is zero (R217). -/
def State.gr (s : State) (r : BitVec 5) : Word := s.me.gpr r.toNat

/-- What a stopped instruction leaves: the trap is taken or the core is parked, and nothing of its body has happened. -/
def State.stopped (s : State) (i : Instr) : Stop → State
  | .trap c v => s.takeTrap c v
  | .trapWord c => s.takeTrap c (wordOf i)
  | .stall k rd => s.park k rd

/-- Every byte of memory outside n bytes from k reads the same in both states. -/
def sameBytesBut (s t : State) (k n : Nat) : Prop := ∀ a, (a < k ∨ k + n ≤ a) → Memory.read a t.mem = Memory.read a s.mem

/-- Every byte of memory reads the same in both states. -/
def sameBytes (s t : State) : Prop := ∀ a, Memory.read a t.mem = Memory.read a s.mem

/-- Nothing outside the current core differs. -/
def sameElsewhere (s t : State) : Prop := t = { s with me := t.me }

end Machine

end Sys2Proof
end

