-- ==== Sys2Proof/Certificates/Slice0/Obligations.lean ====
section
/-!
DEFINITION. The statements for the provers. The tables below name, for a family of instructions, each instruction with
the function its rule of the spec gives it.
-/
open Sys2Proof Sys2Proof.Machine

namespace Sys2Proof.Claims

/-- An instruction with three register fields: rd, ra, rb. -/
abbrev RegForm := BitVec 5 → BitVec 5 → BitVec 5 → Instr

/-- The three-register ALU instructions and what R234 and R235 write to g[rd], from a = g[ra] and b = g[rb]. -/
def aluTable : List (RegForm × (Word → Word → Word)) := [
  (.add, fun a b => a + b), (.sub, fun a b => a - b), (.and, fun a b => a &&& b), (.or, fun a b => a ||| b),
  (.xor, fun a b => a ^^^ b), (.andn, fun a b => a &&& ~~~b), (.sll, fun a b => a <<< (b.extractLsb' 0 6)),
  (.srl, fun a b => a >>> (b.extractLsb' 0 6)), (.sra, fun a b => a.sshiftRight (b.extractLsb' 0 6).toNat),
  (.ror, fun a b => a.rotateRight (b.extractLsb' 0 6).toNat), (.slt, fun a b => if a.toInt < b.toInt then 1 else 0),
  (.sltu, fun a b => if a < b then 1 else 0), (.min, fun a b => if a.toInt ≤ b.toInt then a else b),
  (.max, fun a b => if a.toInt ≤ b.toInt then b else a), (.minu, fun a b => if a ≤ b then a else b),
  (.maxu, fun a b => if a ≤ b then b else a), (.mul, fun a b => a * b),
  (.mulh, fun a b => (a.signExtend 128 * b.signExtend 128).extractLsb' 64 64),
  (.mulhu, fun a b => (a.setWidth 128 * b.setWidth 128).extractLsb' 64 64),
  (.div, fun a b => if b = 0 then BitVec.allOnes 64 else a.sdiv b),
  (.divu, fun a b => if b = 0 then BitVec.allOnes 64 else a.udiv b),
  (.rem, fun a b => if b = 0 then a else a.srem b), (.remu, fun a b => if b = 0 then a else a.umod b)]

/-- The low n bits of a, sign-extended. -/
def sextLow (n : Nat) (a : Word) : Word := (a <<< (64 - n)).sshiftRight (64 - n)

/-- The instructions with one register source and what R234, R236 and R237 write to g[rd], from a = g[ra]: those without
an immediate, SEXT and ZEXT at each size, the immediates, the immediate shifts. -/
def unaryTable : List ((BitVec 5 → BitVec 5 → BitVec 16 → Instr) × (Word → BitVec 16 → Word)) := [
  (fun rd ra _ => .clz rd ra, fun a _ => if a = 0 then 64 else BitVec.ofNat 64 (63 - a.toNat.log2)),
  (fun rd ra _ => .ctz rd ra, fun a _ => BitVec.ofNat 64 (((List.range 64).find? (fun k => a.getLsbD k)).getD 64)),
  (fun rd ra _ => .popc rd ra, fun a _ => BitVec.ofNat 64 ((List.range 64).filter (fun k => a.getLsbD k)).length),
  (fun rd ra _ => .sext rd ra 0, fun a _ => sextLow 8 a), (fun rd ra _ => .sext rd ra 1, fun a _ => sextLow 16 a),
  (fun rd ra _ => .sext rd ra 2, fun a _ => sextLow 32 a), (fun rd ra _ => .zext rd ra 0, fun a _ => a &&& 0xFF),
  (fun rd ra _ => .zext rd ra 1, fun a _ => a &&& 0xFFFF), (fun rd ra _ => .zext rd ra 2, fun a _ => a &&& 0xFFFFFFFF),
  (fun rd ra _ => .bswap rd ra, fun a _ => a.extractLsb' 0 8 ++ a.extractLsb' 8 8 ++ a.extractLsb' 16 8 ++
    a.extractLsb' 24 8 ++ a.extractLsb' 32 8 ++ a.extractLsb' 40 8 ++ a.extractLsb' 48 8 ++ a.extractLsb' 56 8),
  (.addi, fun a i => a + i.signExtend 64), (.andi, fun a i => a &&& i.setWidth 64), (.ori, fun a i => a ||| i.setWidth 64),
  (.xori, fun a i => a ^^^ i.setWidth 64), (.slti, fun a i => if a.toInt < i.toInt then 1 else 0),
  (.sltui, fun a i => if a < i.signExtend 64 then 1 else 0),
  (fun rd ra i => .slli rd ra (i.extractLsb' 0 6), fun a i => a <<< (i.extractLsb' 0 6)),
  (fun rd ra i => .srli rd ra (i.extractLsb' 0 6), fun a i => a >>> (i.extractLsb' 0 6)),
  (fun rd ra i => .srai rd ra (i.extractLsb' 0 6), fun a i => a.sshiftRight (i.extractLsb' 0 6).toNat),
  (fun rd ra i => .rori rd ra (i.extractLsb' 0 6), fun a i => a.rotateRight (i.extractLsb' 0 6).toNat)]

end Sys2Proof.Claims

open Sys2Proof.Claims

/-- R234, R235: each three-register ALU instruction, on registers in their ordinary form, completes with g[rd] as the
table gives it from the two sources and nothing else changed but the pc and INSTRET; no operand value traps. -/
def Sys2Proof.Claims.AluInstructionsWriteTheTableResult : Prop :=
  ∀ e ∈ aluTable, ∀ (rd ra rb : BitVec 5) (s : State),
    s.me.plainReg rd = true → s.me.plainReg ra = true → s.me.plainReg rb = true →
    exec (e.1 rd ra rb) s = .next (s.completes (fun c => c.withG rd (e.2 (s.gr ra) (s.gr rb))))

/-- R234, R236, R237, R238: the one-source instructions, SEL, LUI and INSH, on registers in their ordinary form. -/
def Sys2Proof.Claims.OneSourceInstructionsWriteTheTableResult : Prop :=
  (∀ e ∈ unaryTable, ∀ (rd ra : BitVec 5) (i : BitVec 16) (s : State),
    s.me.plainReg rd = true → s.me.plainReg ra = true →
    exec (e.1 rd ra i) s = .next (s.completes (fun c => c.withG rd (e.2 (s.gr ra) i)))) ∧
  (∀ (rd ra rb : BitVec 5) (s : State),
    s.me.plainReg rd = true → s.me.plainReg ra = true → s.me.plainReg rb = true →
    exec (.sel rd ra rb) s = .next (s.completes (fun c => c.withG rd (if s.gr rd ≠ 0 then s.gr ra else s.gr rb)))) ∧
  (∀ (rd : BitVec 5) (i : BitVec 16) (s : State), s.me.plainReg rd = true →
    exec (.lui rd i) s = .next (s.completes (fun c => c.withG rd ((i ++ (0 : BitVec 16)).signExtend 64)))) ∧
  (∀ (rd : BitVec 5) (h : BitVec 2) (i : BitVec 16) (s : State), s.me.plainReg rd = true →
    ∃ w : Word, exec (.insh rd h i) s = .next (s.completes (fun c => c.withG rd w)) ∧
      w.extractLsb' (16 * h.toNat) 16 = i ∧
      ∀ k < 64, ¬(16 * h.toNat ≤ k ∧ k < 16 * h.toNat + 16) → w.getLsbD k = (s.gr rd).getLsbD k)

/-- R99, R217, R232: in every operand form a three-register ALU instruction reads ra, then rb, then writes rd, and
completes; when a read or the write stops it, it traps or waits and nothing of it has happened. -/
def Sys2Proof.Claims.AluOperandsAreTakenInOrderInEveryForm : Prop :=
  ∀ e ∈ aluTable, ∀ (rd ra rb : BitVec 5) (s : State),
    (∀ a b u v t, readReg ra s = .ok (a, u) → readReg rb u = .ok (b, v) → writeReg rd (e.2 a b) v = .ok ((), t) →
      exec (e.1 rd ra rb) s = .next t.retire) ∧
    (∀ x, readReg ra s = .error x → exec (e.1 rd ra rb) s = .next (s.stopped (e.1 rd ra rb) x)) ∧
    (∀ a u x, readReg ra s = .ok (a, u) → readReg rb u = .error x →
      exec (e.1 rd ra rb) s = .next (s.stopped (e.1 rd ra rb) x)) ∧
    (∀ a b u v x, readReg ra s = .ok (a, u) → readReg rb u = .ok (b, v) → writeReg rd (e.2 a b) v = .error x →
      exec (e.1 rd ra rb) s = .next (s.stopped (e.1 rd ra rb) x))

namespace Sys2Proof.Claims

/-- Registers read as operands one after the other (R99, R151, R217): their words and the state after, or the first stop. -/
def readAll : List (BitVec 5) → State → Except Stop (List Word × State)
  | [], s => .ok ([], s)
  | r :: rs, s => match readReg r s with
    | .error x => .error x
    | .ok (w, t) => match readAll rs t with
      | .error x => .error x
      | .ok (ws, u) => .ok (w :: ws, u)

/-- An instruction that reads registers, then writes one: it completes with the word the function gives of what it read, and
where a read or the write stops it, it traps or waits and nothing of it has happened. -/
def readsThenWrites (i : Instr) (rs : List (BitVec 5)) (rd : BitVec 5) (f : List Word → Word) (s : State) : Prop :=
  (∀ x, readAll rs s = .error x → exec i s = .next (s.stopped i x)) ∧
  (∀ ws u, readAll rs s = .ok (ws, u) →
    (∀ x, writeReg rd (f ws) u = .error x → exec i s = .next (s.stopped i x)) ∧
    (∀ t, writeReg rd (f ws) u = .ok ((), t) → exec i s = .next t.retire))

end Sys2Proof.Claims

/-- R99, R217, R232: the one-source and immediate instructions read ra, SEL reads ra, rb, then rd, INSH reads rd, LUI reads
nothing; then each writes rd, in every operand form: a port, a pending register and g0 among them. -/
def Sys2Proof.Claims.OneSourceOperandsAreTakenInOrderInEveryForm : Prop :=
  ∀ (rd ra rb : BitVec 5) (h : BitVec 2) (i : BitVec 16) (s : State),
    (∀ e ∈ unaryTable, readsThenWrites (e.1 rd ra i) [ra] rd (fun ws => e.2 (ws.headD 0) i) s) ∧
    readsThenWrites (.sel rd ra rb) [ra, rb, rd] rd (fun ws => match ws with | [a, b, d] => if d ≠ 0 then a else b | _ => 0) s ∧
    readsThenWrites (.lui rd i) [] rd (fun _ => (i ++ (0 : BitVec 16)).signExtend 64) s ∧
    ∃ f : Word → Word, readsThenWrites (.insh rd h i) [rd] rd (fun ws => f (ws.headD 0)) s ∧
      ∀ d, (f d).extractLsb' (16 * h.toNat) 16 = i ∧
        ∀ k < 64, ¬(16 * h.toNat ≤ k ∧ k < 16 * h.toNat + 16) → (f d).getLsbD k = d.getLsbD k

/-- R96, R99, R100, R102: reading a register mapped as a port. A neighbour port without a partner is cause 3 with the
register number; an empty queue waits; otherwise the head word is taken, the hardware queue keeps the rest and refills
from the head of the spill area, and nothing else changes. Where in the area a word lies is the model's choice (log 40). -/
def Sys2Proof.Claims.PortRegisterReadsTakeTheHeadWord : Prop :=
  ∀ (s : State) (r : BitVec 5), s.me.isPort r.toNat = true →
    let j := r.toNat - 24
    let partner := 28 ≤ r.toNat ∨ ∃ m, neighbour s.me.id j = some m ∧ s.partnerOk m = true
    (¬ partner → readReg r s = .error (.trap 3 (r.setWidth 64))) ∧
    (partner → ∀ q, s.me.ports[j]? = some q →
      (q.hw = [] → readReg r s = .error (.stall (.portRead r.toNat) 0)) ∧
      (∀ w rest, q.hw = w :: rest → ∃ p : Vector PortQueue 8,
        readReg r s = .ok (w, { s with me := { s.me with ports := p } }) ∧
        (∀ k, k ≠ j → p[k]? = s.me.ports[k]?) ∧
        (q.spillCount = 0 → p[j]? = some { q with hw := rest }) ∧
        (0 < q.spillCount → ∃ x : Word, p[j]? = some { hw := rest ++ [x], spillHead := (q.spillHead + 1) % 64, spillCount := q.spillCount - 1 } ∧
          x.toNat = s.peek (localKey s.me.id (s.me.spillBase j + 8 * q.spillHead)) 8)))

/-- R96, R99 to R102: writing a register mapped as a port. No target or no partner is cause 3 with the register number; a
target that answers retry, or that is full, waits; otherwise the word goes to the tail of the target's hardware queue
when that has room and nothing is spilled. -/
def Sys2Proof.Claims.PortRegisterWritesSendOneWord : Prop :=
  ∀ (s : State) (r : BitVec 5) (w : Word), s.me.isPort r.toNat = true →
    let j := r.toNat - 24
    (s.me.portTarget j = none → writeReg r w s = .error (.trap 3 (r.setWidth 64))) ∧
    (∀ n q, s.me.portTarget j = some (n, q) →
      (s.partnerOk n = false → writeReg r w s = .error (.trap 3 (r.setWidth 64))) ∧
      (s.partnerOk n = true → s.retries n s.me.ctx = true → writeReg r w s = .error (.stall (.portRetry r.toNat) 0)) ∧
      (s.partnerOk n = true → s.retries n s.me.ctx = false → (s.core n).portRoom q = false →
        writeReg r w s = .error (.stall (.portWrite r.toNat) 0)) ∧
      (s.partnerOk n = true → s.retries n s.me.ctx = false → (s.core n).portRoom q = true →
        ∃ t, writeReg r w s = .ok ((), t) ∧
          ∀ pq, (s.core n).ports[q]? = some pq → pq.hw.length < 16 → pq.spillCount = 0 → t.mem = s.mem ∧
            t = s.setCore n { s.core n with ports := (s.core n).ports.setIfInBounds q { pq with hw := pq.hw ++ [w] } }))

/-- R151: a register that is the destination of a held deterministic atomic: any use before the core's arrival in the
batch channel's episode is cause 13 with the word, and after the arrival the use waits (of a write, the model's reading, log
29). -/
def Sys2Proof.Claims.PendingRegistersTrapBeforeArrivalAndWaitAfter : Prop :=
  ∀ (s : State) (r : BitVec 5) (w : Word), s.me.isPort r.toNat = false → s.me.pendingRegs.contains (s.me.bankReg r.toNat) = true →
    (s.me.batchArrived = false → readReg r s = .error (.trapWord 13) ∧ writeReg r w s = .error (.trapWord 13)) ∧
    (s.me.batchArrived = true → readReg r s = .error (.stall (.pendingReg r.toNat) 0) ∧
      writeReg r w s = .error (.stall (.pendingReg r.toNat) 0))

/-- R217: g0 reads zero and a write to it is discarded; p0 reads all ones and a write to it is discarded; any other
register reads back what was written, and no other register changes. -/
def Sys2Proof.Claims.HardwiredRegistersReadConstantsAndDiscardWrites : Prop :=
  ∀ (c : Core) (w : Word),
    c.gpr 0 = 0 ∧ c.setGpr 0 w = c ∧ c.pr 0 = BitVec.allOnes 64 ∧ c.setPr 0 w = c ∧
    (∀ n, 0 < n → n < 32 → (c.setGpr n w).gpr n = w ∧ ∀ m, m ≠ n → (c.setGpr n w).gpr m = c.gpr m) ∧
    (∀ n, 0 < n → n < 8 → (c.setPr n w).pr n = w ∧ ∀ m, m ≠ n → (c.setPr n w).pr m = c.pr m)

/-- What an instruction that writes register rd leaves of the machine when it completes: every other general register,
the shadow bank, vector, predicate, control and supervisor registers but INSTRET, privilege, accumulator, kerf and
queues; and memory, unless rd is a port, whose word may go to a spill area. -/
def Sys2Proof.Claims.regFrame (rd : BitVec 5) (s t : State) : Prop :=
  (∀ n, n ≠ rd.toNat → t.me.gpr n = s.me.gpr n) ∧ t.me.shadow = s.me.shadow ∧ t.me.v = s.me.v ∧ t.me.p = s.me.p ∧
  t.me.user = { s.me.user with instret := s.me.user.instret + 1 } ∧ t.me.sup = s.me.sup ∧ t.me.super = s.me.super ∧
  t.me.accum = s.me.accum ∧ t.me.kerfHead = s.me.kerfHead ∧ t.me.entries = s.me.entries ∧ t.me.events = s.me.events ∧
  (s.me.isPort rd.toNat = false → sameBytes s t)

/-- All that an instruction that reads registers rs, writes rd and names no memory changes of the whole machine when it
completes: of the current core the destination, the pc, INSTRET, the wait that is over and the receive queues of the
ports it reads; and where rd is a port, the one receive queue its word goes to, with the doubleword of that queue's spill
area that holds a spilled word (where in the area it lies is the model's choice, log 40). -/
def Sys2Proof.Claims.onlyRegisters (rd : BitVec 5) (rs : List (BitVec 5)) (s t : State) : Prop :=
  let keeps := fun (p : Vector PortQueue 8) => ∀ q, (∀ r ∈ rs, q + 24 ≠ r.toNat) → p[q]? = s.me.ports[q]?
  (∀ n, n ≠ rd.toNat → t.me.gpr n = s.me.gpr n) ∧
  (s.me.isPort rd.toNat = false → keeps t.me.ports ∧
    t = { s with me := { s.me with g := t.me.g, ports := t.me.ports, pc := s.me.pc + 4, wait := none,
                                   user := { s.me.user with instret := s.me.user.instret + 1 } } }) ∧
  (s.me.isPort rd.toNat = true → ∃ p m q w, keeps p ∧ s.me.portTarget (rd.toNat - 24) = some (m, q) ∧
    let u := { s with me := { s.me with ports := p } }
    t = (u.portDeliver m q w).retire ∧ t.me.id = s.me.id ∧
    (∀ n, n ≠ s.me.id → n ≠ m → t.core n = s.core n) ∧
    (∀ n k, n ≠ m ∨ k ≠ q → (t.core n).ports[k]? = (u.core n).ports[k]?) ∧
    ∀ pq, (u.core m).ports[q]? = some pq →
      let spilled := localKey m ((u.core m).spillBase q + 8 * ((pq.spillHead + pq.spillCount) % 64))
      (pq.hw.length < 16 → pq.spillCount = 0 → t.mem = s.mem ∧ t.eccBad = s.eccBad ∧ t.waiters = s.waiters) ∧
      (Memory.wf s.mem → ∀ a, (a < spilled ∨ spilled + 8 ≤ a) → Memory.read a t.mem = Memory.read a s.mem))

/-- R100, R217, R232, R234: in every operand form, an ALU or one-source instruction, SEL, LUI or INSH that goes on to a next
state either took a trap, or waits, or left the whole machine as it was but for its destination, the pc, INSTRET and the
words of ports it names; of memory at most the doubleword of the spill area that its word goes to. -/
def Obligations.RegisterInstructionsKeepTheirFrame : Prop :=
  ∀ (rd ra rb : BitVec 5) (h : BitVec 2) (k : BitVec 16) (i : Instr) (rs : List (BitVec 5)) (s t : State),
    ((∃ e ∈ aluTable, i = e.1 rd ra rb ∧ rs = [ra, rb]) ∨ (∃ e ∈ unaryTable, i = e.1 rd ra k ∧ rs = [ra]) ∨
      (i = .sel rd ra rb ∧ rs = [ra, rb, rd]) ∨ (i = .lui rd k ∧ rs = []) ∨ (i = .insh rd h k ∧ rs = [rd])) →
    exec i s = .next t →
    (∃ c v, t = s.takeTrap c v) ∨ (∃ w r, t = s.park w r) ∨ (regFrame rd s t ∧ onlyRegisters rd rs s t)

/-- The address of a load or store (R239): g[ra] + sext(off13, 13). -/
def Sys2Proof.Claims.addrOf (s : State) (ra : BitVec 5) (off : BitVec 13) : Word := s.gr ra + off.signExtend 64

/-- A load or store instruction by its two register fields and its offset. -/
abbrev Sys2Proof.Claims.MemForm := BitVec 5 → BitVec 5 → BitVec 13 → Instr

/-- The loads (R239): bytes read, and g[rd] from their little-endian value. -/
def Sys2Proof.Claims.loadTable : List (MemForm × Nat × (Word → Word)) := [
  (.lb, 1, sextLow 8), (.lh, 2, sextLow 16), (.lw, 4, sextLow 32), (.ld, 8, fun x => x), (.lbu, 1, fun x => x),
  (.lhu, 2, fun x => x), (.lwu, 4, fun x => x)]

/-- The stores (R240): bytes written. -/
def Sys2Proof.Claims.storeTable : List (MemForm × Nat) := [(.sb, 1), (.sh, 2), (.sw, 4), (.sd, 8)]

/-- R239, R241: a load whose checks pass completes: g[rd] is the extended little-endian value of the bytes at the place
the address decodes to, or of the core's own cached copy of them where the page is cached; every other register and all
of memory stay. -/
def Sys2Proof.Claims.LoadsWriteTheExtendedBytesOfTheirPlace : Prop :=
  ∀ e ∈ loadTable, ∀ (rd ra : BitVec 5) (off : BitVec 13) (s u : State) (p : Place),
    s.me.plainReg rd = true → s.me.plainReg ra = true →
    place (addrOf s ra off) e.2.1 .load true s = .ok (p, u) → u.eccError p.key e.2.1 = false →
    ∃ (bs : List Byte) (t : State), exec (e.1 rd ra off) s = .next t ∧
      (bs = Memory.readBytes s.mem p.key e.2.1 ∨ (p.paged = true ∧ cachedBytes s.me.l1d p.key e.2.1 = some bs)) ∧
      t.me.pc = s.me.pc + 4 ∧ t.gr rd = (if rd = 0 then 0 else e.2.2 (BitVec.ofNat 64 (leVal bs))) ∧
      regFrame rd s t ∧ t.mem = s.mem

/-- R240: a store whose checks pass completes and writes the low bytes of g[rs], lowest first, at the place the address
decodes to; every other byte of memory and every register but the pc and INSTRET stays. -/
def Sys2Proof.Claims.StoresWriteTheLowBytesAtTheirPlace : Prop :=
  ∀ e ∈ storeTable, ∀ (rs ra : BitVec 5) (off : BitVec 13) (s u : State) (p : Place),
    s.me.plainReg rs = true → s.me.plainReg ra = true →
    place (addrOf s ra off) e.2 .store true s = .ok (p, u) →
    ∃ t, exec (e.1 rs ra off) s = .next t ∧ t.me.pc = s.me.pc + 4 ∧ regFrame 0 s { t with mem := s.mem } ∧
      (Memory.wf s.mem = true →
        (∀ k < e.2, Memory.read (p.key + k) t.mem = (s.gr rs).extractLsb' (8 * k) 8) ∧ sameBytesBut s t p.key e.2)

/-- R241: when a check of its address fails, a load or store takes the trap of that check, or waits, and nothing
of the access is performed. -/
def Sys2Proof.Claims.FailedChecksPerformNothingOfTheAccess : Prop :=
  (∀ e ∈ loadTable, ∀ (rd ra : BitVec 5) (off : BitVec 13) (s : State) (x : Stop),
    s.me.plainReg ra = true → place (addrOf s ra off) e.2.1 .load true s = .error x →
    exec (e.1 rd ra off) s = .next (s.stopped (e.1 rd ra off) x)) ∧
  (∀ e ∈ storeTable, ∀ (rs ra : BitVec 5) (off : BitVec 13) (s : State) (x : Stop),
    s.me.plainReg rs = true → s.me.plainReg ra = true → place (addrOf s ra off) e.2 .store true s = .error x →
    (∀ h, windowOf (addrOf s ra off).toNat ≠ .trigger h) →
    exec (e.1 rs ra off) s = .next (s.stopped (e.1 rs ra off) x)) ∧
  (∀ e ∈ loadTable, ∀ (rd ra : BitVec 5) (off : BitVec 13) (s u : State) (p : Place),
    s.me.plainReg ra = true → place (addrOf s ra off) e.2.1 .load true s = .ok (p, u) → u.eccError p.key e.2.1 = true →
    exec (e.1 rd ra off) s = .next (s.takeTrap 22 (addrOf s ra off)))

/-- R57 to R61, R241 steps 1 to 3: the checks of an access come in their order: alignment, the window, deterministic
mode; the self window is the core's own store; die shared memory answers only to the owner of the page. -/
def Sys2Proof.Claims.AccessChecksComeInTheirOrder : Prop :=
  ∀ (s : State) (va : Word) (n : Nat) (acc : Acc), n ∈ [1, 2, 4, 8, 64] →
    (va.toNat % n ≠ 0 → place va n acc true s = .error (.trap 2 va)) ∧
    (va.toNat % n = 0 → (windowOf va.toNat = .outside ∨ ∃ h, windowOf va.toNat = .trigger h) →
      place va n acc true s = .error (.trap 3 va)) ∧
    (∀ c o, va.toNat % n = 0 → windowOf va.toNat = .global c o → s.me.det = true → s.me.inExchange = false → c ≠ s.me.id →
      place va n acc true s = .error (.trapWord 13)) ∧
    (∀ d o, va.toNat % n = 0 → windowOf va.toNat = .shared d o → s.me.det = true → s.me.inExchange = false →
      place va n acc true s = .error (.trapWord 13)) ∧
    (∀ d o, va.toNat % n = 0 → windowOf va.toNat = .shared d o → (s.me.det = false ∨ s.me.inExchange = true) →
      place va n acc true s = if s.ownsPage s.me.ctx d o then .ok (⟨sharedKey d o, false⟩, s) else .error (.trap 3 va)) ∧
    (∀ o, va.toNat % n = 0 → windowOf va.toNat = .self o → place va n acc true s = .ok (⟨localKey s.me.id o, false⟩, s)) ∧
    (∀ c o, va.toNat % n = 0 → windowOf va.toNat = .global c o → (s.me.det = false ∨ s.me.inExchange = true ∨ c = s.me.id) →
      place va n acc true s = match s.router s.me.ctx c o n with
        | .ok => .ok (⟨localKey c o, false⟩, s)
        | .fault => .error (.trap 3 va)
        | .retry => .error (.stall (.retry va) 0))

/-- R57: bits 63:44 select the window, and in each window an offset at or above its limit, or beyond a core's or die's
part of it, lies outside every window. -/
def Sys2Proof.Claims.WindowsAreSelectedByTheUpperAddressBits : Prop :=
  ∀ va : Nat, va < 2 ^ 64 →
    (va < 0x800000000000 → windowOf va = .paged) ∧
    (∀ c o, c < 4096 → o < 0x40000 → va = 0x800000000000 + c * 0x100000 + o → windowOf va = .global c o) ∧
    (∀ o, o < 0x40000 → va = 0x900000000000 + o → windowOf va = .self o) ∧
    (∀ d o, d < 4 → o < 0x8000000 → va = 0xA00000000000 + d * 0x10000000 + o → windowOf va = .shared d o) ∧
    (∀ h k, h < 4096 → k < 8 → va = 0xB00000000000 + 8 * h + k → windowOf va = .trigger h) ∧
    (0xC00000000000 ≤ va → windowOf va = .outside) ∧
    (0x800000000000 ≤ va → va < 0x900000000000 →
      (0x100000000 ≤ va - 0x800000000000 ∨ 0x40000 ≤ (va - 0x800000000000) % 0x100000) → windowOf va = .outside) ∧
    (0x900000040000 ≤ va → va < 0xA00000000000 → windowOf va = .outside) ∧
    (0xA00000000000 ≤ va → va < 0xB00000000000 →
      (0x40000000 ≤ va - 0xA00000000000 ∨ 0x8000000 ≤ (va - 0xA00000000000) % 0x10000000) → windowOf va = .outside) ∧
    (0xB00000008000 ≤ va → va < 0xC00000000000 → windowOf va = .outside)

/-- R62 to R66: the checks of a page descriptor, in their order: V clear or a reserved bit is cause 3, P clear cause 4;
then frame outside its tier's populated range, poison,
permission (an AMO only on the stacked tier), a write to a migrating page; then the location of the byte. -/
def Sys2Proof.Claims.PageDescriptorChecksComeInTheirOrder : Prop :=
  ∀ (d : Word) (va : Nat) (acc : Acc) (ctx : BitVec 16),
    let e : TlbEntry := { ctx := ctx, page := va / 2 ^ 16, big := false, desc := d }
    let frame := (d.extractLsb' 16 30).toNat * 2 ^ 16
    let tier := (d.extractLsb' 5 2).toNat
    let bad := (tier = 0 ∧ stackedPopulated frame = false) ∨ (tier = 1 ∧ lpddrPopulated frame = false)
    let allowed := match acc with
      | .load => d.getLsbD 2
      | .store => d.getLsbD 3
      | .amo => d.getLsbD 2 && d.getLsbD 3 && decide (tier = 0)
      | .fetch => d.getLsbD 4 && decide (tier ≠ 2)
    (∀ (s : State) (root : Nat), s.descriptor root va = .ok (false, d.toNat) →
      (d.getLsbD 0 = false → s.walk root va = .error 3) ∧
      (d.getLsbD 0 = true → d.extractLsb' 9 7 ≠ 0 → s.walk root va = .error 3) ∧
      (d.getLsbD 0 = true → d.extractLsb' 9 7 = 0 → tier ≠ 3 → d.getLsbD 1 = false → s.walk root va = .error 4)) ∧
    (bad → checkDesc e va acc = .fault 3) ∧
    (¬ bad → d.getLsbD 8 = true → checkDesc e va acc = .fault 6) ∧
    (¬ bad → d.getLsbD 8 = false → allowed = false → checkDesc e va acc = .fault 5) ∧
    (¬ bad → d.getLsbD 8 = false → allowed = true → d.getLsbD 7 = true → (acc = .store ∨ acc = .amo) →
      checkDesc e va acc = .migrating) ∧
    (¬ bad → d.getLsbD 8 = false → allowed = true → (d.getLsbD 7 = false ∨ acc = .load ∨ acc = .fetch) → tier ≠ 3 →
      checkDesc e va acc = .ok (tier * 2 ^ 46 + frame + va % 2 ^ 16))

/-- R265, R266: LDA loads as its size says and, at a scope wider than CORE, leaves no line in the L1 data cache; STL
stores the low bytes of g[rb]. Both complete when the checks of their place pass. -/
def Sys2Proof.Claims.AcquireLoadsAndReleaseStoresComplete : Prop :=
  (∀ (w : Bool) (rd ra : BitVec 5) (scope : BitVec 3) (s u : State) (p : Place), scope.toNat ≤ 5 →
    s.me.plainReg rd = true → s.me.plainReg ra = true →
    place (s.gr ra) (if w then 4 else 8) .load true s = .ok (p, u) → u.eccError p.key (if w then 4 else 8) = false →
    ∃ (bs : List Byte) (t : State), exec (if w then .ldaW rd ra scope else .ldaD rd ra scope) s = .next t ∧
      (bs = Memory.readBytes s.mem p.key (if w then 4 else 8) ∨
        (p.paged = true ∧ cachedBytes s.me.l1d p.key (if w then 4 else 8) = some bs)) ∧
      t.me.pc = s.me.pc + 4 ∧
      t.gr rd = (if rd = 0 then 0 else (if w then sextLow 32 else fun x => x) (BitVec.ofNat 64 (leVal bs))) ∧
      (0 < scope.toNat → t.me.l1d = []) ∧ regFrame rd s t ∧ t.mem = s.mem) ∧
  (∀ (w : Bool) (ra rb : BitVec 5) (scope : BitVec 3) (s u : State) (p : Place), scope.toNat ≤ 5 →
    s.me.plainReg ra = true → s.me.plainReg rb = true →
    place (s.gr ra) (if w then 4 else 8) .store true s = .ok (p, u) →
    ∃ t, exec (if w then .stlW ra rb scope else .stlD ra rb scope) s = .next t ∧ t.me.pc = s.me.pc + 4 ∧
      regFrame 0 s { t with mem := s.mem } ∧
      (Memory.wf s.mem = true →
        (∀ k < (if w then 4 else 8), Memory.read (p.key + k) t.mem = (s.gr rb).extractLsb' (8 * k) 8) ∧
        sameBytesBut s t p.key (if w then 4 else 8)))

/-- The atomics that are not WAITW with f of R269: from the size w in bits, the old value, x and e (each below 2^w), the
new value, whether it is written, and the result. FADD rounds to nearest even (R21, R269). -/
def Sys2Proof.Claims.amoTable : List ((BitVec 5 → BitVec 5 → BitVec 5 → BitVec 1 → BitVec 2 → BitVec 3 → Instr) × Nat ×
    (Nat → Nat → Nat → Nat → Nat × Bool × Word)) := [
  (.amoAdd, 0, fun w old x _ => ((old + x) % 2 ^ w, true, sextN w old)),
  (.amoAnd, 1, fun w old x _ => (old &&& x, true, sextN w old)),
  (.amoOr, 2, fun w old x _ => (old ||| x, true, sextN w old)),
  (.amoXor, 3, fun w old x _ => (old ^^^ x, true, sextN w old)),
  (.amoMin, 4, fun w old x _ => (if sintN w x ≤ sintN w old then x else old, true, sextN w old)),
  (.amoMax, 5, fun w old x _ => (if sintN w x ≤ sintN w old then old else x, true, sextN w old)),
  (.amoMinu, 6, fun w old x _ => (min old x, true, sextN w old)),
  (.amoMaxu, 7, fun w old x _ => (max old x, true, sextN w old)),
  (.amoSwap, 8, fun w old x _ => (x, true, sextN w old)),
  (.amoCas, 9, fun w old x e => (x, decide (old = e), sextN w old)),
  (.amoIncb, 10, fun w old x _ => if old < min x (2 ^ 63) then (old + 1, true, zextN w old)
    else (old, false, zextN w old ||| 0x8000000000000000)),
  (.amoAddt, 11, fun w old x _ => ((old + x) % 2 ^ w, true, sextN w old)),
  (.amoFadd, 12, fun w old x _ => (addRne (if w = 32 then .f32 else .f64) old x, true, zextN w old))]

/-- R269, R271, R272: an atomic that is not batched, whose checks pass, reads the old value at its place, writes the new
one there when f says so, and returns f's result in rd (g0: none); every other byte of memory and every other register
stays; an acquire at a scope wider than CORE leaves no line in the L1 data cache. -/
def Sys2Proof.Claims.AtomicsReadModifyWriteTheirPlace : Prop :=
  ∀ e ∈ amoTable, ∀ (rd ra rb : BitVec 5) (size : BitVec 1) (order : BitVec 2) (scope : BitVec 3) (s u : State) (p : Place),
    let n := if size = 0 then 4 else 8
    let old := s.peek p.key n
    let r := e.2.2 (8 * n) old ((s.gr rb).toNat % 2 ^ (8 * n)) ((s.gr rd).toNat % 2 ^ (8 * n))
    scope.toNat ≤ 5 → s.me.plainReg rd = true → s.me.plainReg ra = true → s.me.plainReg rb = true →
    s.me.batches e.2.1 rd = false → amoPlace (s.gr ra) n e.2.1 rd s = .ok (p, u) → u.eccError p.key n = false →
    ∃ t, exec (e.1 rd ra rb size order scope) s = .next t ∧ t.me.pc = s.me.pc + 4 ∧
      t.gr rd = (if rd = 0 then 0 else r.2.2) ∧ regFrame rd s { t with mem := s.mem } ∧
      t.mem = (if r.2.1 then Memory.writeBytes s.mem p.key (leBytes n r.1) else s.mem) ∧
      (Memory.wf s.mem = true → sameBytesBut s t p.key n) ∧
      (order.getLsbD 0 = true → 0 < scope.toNat → t.me.l1d = [])

/-- R270, R272: the first failing check of an atomic: alignment is cause 2; a window that takes no atomic, or FADD outside
die shared memory, is cause 3; an uncorrectable error is cause 22 and nothing is written. -/
def Sys2Proof.Claims.AtomicChecksComeInTheirOrder : Prop :=
  ∀ e ∈ amoTable, ∀ (rd ra rb : BitVec 5) (size : BitVec 1) (order : BitVec 2) (scope : BitVec 3) (s u : State) (p : Place),
    let n := if size = 0 then 4 else 8
    let a := s.gr ra
    scope.toNat ≤ 5 → s.me.plainReg rd = true → s.me.plainReg ra = true → s.me.plainReg rb = true →
    (a.toNat % n ≠ 0 → exec (e.1 rd ra rb size order scope) s = .next (s.takeTrap 2 a)) ∧
    (a.toNat % n = 0 → (windowOf a.toNat = .outside ∨ (∃ h, windowOf a.toNat = .trigger h) ∨
        (e.2.1 = 12 ∧ ∀ d o, windowOf a.toNat ≠ .shared d o)) →
      exec (e.1 rd ra rb size order scope) s = .next (s.takeTrap 3 a)) ∧
    (amoPlace a n e.2.1 rd s = .ok (p, u) → u.eccError p.key n = true →
      exec (e.1 rd ra rb size order scope) s = .next (s.takeTrap 22 a))

/-- R126, R271: WAITW on a word of die shared memory whose checks pass: a word already at its target returns 0, a full
bank returns 2; else the core waits with its waiter registered; a waiter that has been woken returns 1, and one whose
time is over and that has not been woken 3. Whatever it returns, its slot is free, and an acquire at a scope wider than
CORE leaves no line in the L1 data cache. -/
def Sys2Proof.Claims.WaitwReturnsItsStatus : Prop :=
  ∀ (rd ra rb : BitVec 5) (size : BitVec 1) (order : BitVec 2) (scope : BitVec 3) (s : State) (p : Place),
    let n := if size = 0 then 4 else 8
    let w : Waiter := { core := s.me.id, pc := s.me.pc, level := s.me.level, key := p.key, size := n, target := s.gr rb, woken := false }
    let i := Instr.amoWaitw rd ra rb size order scope
    let met := sintN (8 * n) (s.gr rb).toNat ≤ sintN (8 * n) (s.peek p.key n)
    let waits := fun (u : State) => exec i s = .next (u.park (.word p.key ra rb size order scope) rd)
    let returns := fun (st : Word) => ∃ t, exec i s = .next t ∧ t.gr rd = (if rd = 0 then 0 else st) ∧ t.me.pc = s.me.pc + 4 ∧
      t.mem = s.mem ∧ regFrame rd s t ∧ t.waiters = s.waiters.filter (fun x => !x.isOf s.me) ∧
      (order.getLsbD 0 = true → 0 < scope.toNat → t.me.l1d = [])
    scope.toNat ≤ 5 → s.me.plainReg rd = true → s.me.plainReg ra = true → s.me.plainReg rb = true →
    amoPlace (s.gr ra) n 13 rd s = .ok (p, s) → s.eccError p.key n = false →
    (s.waiterOf p.key = none → met → returns 0) ∧
    (s.waiterOf p.key = none → ¬ met → 64 ≤ s.bankWaiters p.key → returns 2) ∧
    (s.waiterOf p.key = none → ¬ met → s.bankWaiters p.key < 64 → waits (s.addWaiter w)) ∧
    (∀ v, s.waiterOf p.key = some v →
      (v.woken = true → returns 1) ∧
      (v.woken = false → s.me.waitReady = true → returns 3) ∧
      (v.woken = false → s.me.waitReady = false → waits s))

/-- R126: an ADDT on die shared memory that crosses its threshold wakes every waiter registered on its word. -/
def Sys2Proof.Claims.AddtThatCrossesWakesEveryWaiterOfItsWord : Prop :=
  ∀ (rd ra rb : BitVec 5) (size : BitVec 1) (order : BitVec 2) (scope : BitVec 3) (s u t : State) (p : Place),
    let n := if size = 0 then 4 else 8
    let old := sintN (8 * n) (s.peek p.key n)
    let new := sintN (8 * n) (s.peek p.key n + (s.gr rb).toNat)
    let th := sintN (8 * n) (s.gr rd).toNat
    scope.toNat ≤ 5 → s.me.plainReg rd = true → s.me.plainReg ra = true → s.me.plainReg rb = true →
    amoPlace (s.gr ra) n 11 rd s = .ok (p, u) → u.eccError p.key n = false →
    (old < th ∧ th ≤ new) ∨ (th < old ∧ new ≤ th) →
    exec (.amoAddt rd ra rb size order scope) s = .next t →
    ∀ w ∈ t.waiters, w.key = p.key → w.woken = true

/-- R267, R129, R263, R55, R259: FENCE completes, and with RA set at a scope wider than CORE empties the L1 data cache;
IFENCE empties the L1 instruction cache and the I-TLB; MARK restarts the watchdog's count. Nothing else changes. -/
def Sys2Proof.Claims.FencesAndMarkComplete : Prop :=
  ∀ s : State,
    (∀ (scope : BitVec 3) (r w ra wa : BitVec 1), scope.toNat ≤ 5 →
      exec (.fence scope r w ra wa) s =
        .next (s.completes (fun c => if ra = 1 ∧ 0 < scope.toNat then { c with l1d := [] } else c))) ∧
    exec .ifence s = .next (s.completes (fun c => { c with l1i := [], itlb := [] })) ∧
    exec .mark s = .next (s.completes (fun c => { c with wdBase := s.cycle }))

/-- The conditional branches (R243) and when each is taken. -/
def Sys2Proof.Claims.branchTable : List (MemForm × (Word → Word → Bool)) := [
  (.beq, fun a b => decide (a = b)), (.bne, fun a b => decide (a ≠ b)), (.blt, fun a b => decide (a.toInt < b.toInt)),
  (.bge, fun a b => decide (b.toInt ≤ a.toInt)), (.bltu, fun a b => decide (a < b)), (.bgeu, fun a b => decide (b ≤ a))]

/-- An instruction completes and goes on at a target; nothing else changes. A follower of a fused gang goes where its
leader went (R92). -/
def Sys2Proof.Claims.goesTo (s : State) (target : Word) : State :=
  { s with me := { s.me with pc := s.me.lead.getD target, wait := none,
                             user := { s.me.user with instret := s.me.user.instret + 1 } } }

/-- R243: a conditional branch goes on at pc + 4·sext(off13, 13) when its condition holds and at pc + 4 when not. -/
def Sys2Proof.Claims.BranchesGoToTheirTargetExactlyWhenTaken : Prop :=
  ∀ e ∈ branchTable, ∀ (ra rb : BitVec 5) (off : BitVec 13) (s : State),
    s.me.plainReg ra = true → s.me.plainReg rb = true →
    exec (e.1 ra rb off) s =
      .next (goesTo s (if e.2 (s.gr ra) (s.gr rb) then s.me.pc + (off.signExtend 64) * 4 else s.me.pc + 4))

/-- R244, R245: J and JAL go to pc + 4·sext(off26, 26), JALR to g[ra] + sext(imm16, 16), which must be a multiple of 4;
JAL writes g1 and JALR g[rd] with pc + 4, after the source is read; a target of JALR that is no multiple of 4 is
cause 2 with the target, and nothing is written. -/
def Sys2Proof.Claims.JumpsLinkAndGoToTheirTarget : Prop :=
  ∀ s : State,
    (∀ off : BitVec 26, exec (.j off) s = .next (goesTo s (s.me.pc + (off.signExtend 64) * 4))) ∧
    (∀ off : BitVec 26, s.me.plainReg 1 = true →
      exec (.jal off) s = .next (goesTo (s.updMe (fun c => c.withG 1 (s.me.pc + 4))) (s.me.pc + (off.signExtend 64) * 4))) ∧
    (∀ (rd ra : BitVec 5) (imm : BitVec 16), s.me.plainReg rd = true → s.me.plainReg ra = true →
      let t := s.me.lead.getD (s.gr ra + imm.signExtend 64)
      (t.toNat % 4 = 0 → exec (.jalr rd ra imm) s = .next (goesTo (s.updMe (fun c => c.withG rd (s.me.pc + 4))) t)) ∧
      (t.toNat % 4 ≠ 0 → exec (.jalr rd ra imm) s = .next (s.takeTrap 2 t)))

/-- R228, R248: CSRR of an assigned register reads it into rd; a register that is not assigned is cause 0, and a
supervisor register (0x400 on) at user level is cause 1, with the instruction word. -/
def Sys2Proof.Claims.ControlRegisterReadsAndTheirChecks : Prop :=
  ∀ (rd : BitVec 5) (n : BitVec 12) (s : State), s.me.plainReg rd = true →
    (∀ v, s.csrValue n.toNat = some v → (n.toNat < 0x400 ∨ s.me.super = true) → n ≠ 0x048 →
      exec (.csrr rd n) s = .next (s.completes (fun c => c.withG rd v))) ∧
    (s.csrValue n.toNat = none → exec (.csrr rd n) s = .next (s.takeTrap 0 (wordOf (.csrr rd n)))) ∧
    (∀ v, s.csrValue n.toNat = some v → 0x400 ≤ n.toNat → s.me.super = false →
      exec (.csrr rd n) s = .next (s.takeTrap 1 (wordOf (.csrr rd n)))) ∧
    exec (.csrr rd 0x048) s = exec (.corestatRead rd) s ∧
    exec (.corestatRead rd) s = .next (s.completes (fun c => { c with user := { c.user with restored := false } }.withG rd
      (bitWord s.me.user.restored <<< 4 ||| bitWord s.me.user.diverge <<< 3 ||| bitWord s.me.user.cancelPending <<< 2 |||
        bitWord s.me.det <<< 1 ||| bitWord s.me.preq.isSome)))

/-- The read-write registers without rules of their own: number, and the bits that hold what is written (R7, R98, R113,
R125, R31, R33, R55, R252, R253). -/
def Sys2Proof.Claims.csrTable : List (BitVec 12 × Word) := [
  (0x002, 0xFF), (0x009, 0xBFFF), (0x00A, 0xBFFF), (0x00B, 0xBFFF), (0x00C, 0xBFFF), (0x019, 0x3FFFF), (0x01A, 0x3FFFF),
  (0x023, 0xFFFF), (0x028, 0xFFFFFFFFFFFFFFFC), (0x029, 0xFFFFFFFFFFFFFFFC), (0x02A, 0x800000000000001F),
  (0x02B, 0xFFFFFFFFFFFFFFFF), (0x02C, 0x1F), (0x030, 0xFFFFFFFF), (0x031, 0xFFFFFFFF), (0x032, 0xFFFFFFFF),
  (0x033, 0xFFFFFFFF), (0x034, 0xFFFFFFFF), (0x035, 0xFFFFFFFF), (0x036, 0xFFFFFFFF), (0x037, 0xFFFFFFFF),
  (0x038, 0xFFFFFFFFFFFFFFC0), (0x058, 0xFFFFFFFF), (0x059, 0xFFFFFFFF), (0x401, 0xFFFFFFFFFFFFFFFC),
  (0x402, 0xFFFFFFFFFFFFFFFC), (0x403, 0x800000000000001F), (0x404, 0xFFFFFFFFFFFFFFFF), (0x405, 0xFFFFFFFFFFFFFFFF),
  (0x407, 0x3FFFFFFF8000), (0x408, 0xFFFF), (0x409, 0xFFFFF), (0x40A, 0xFFFFFFFF), (0x40B, 0xFFFFFFFF), (0x40C, 0xFFFF)]

/-- The value a write, set or clear of a read-write field leaves (R248). -/
def Sys2Proof.Claims.newValue (op : CsrOp) (old v : Word) : Word :=
  match op with
  | .write => v
  | .set => old ||| v
  | .clear => old &&& ~~~v

/-- The instruction of a writing form. -/
def Sys2Proof.Claims.writingForm (op : CsrOp) (ra : BitVec 5) (n : BitVec 12) : Instr :=
  match op with
  | .write => .csrw ra n
  | .set => .csrs ra n
  | .clear => .csrc ra n

/-- R7, R248: CSRW, CSRS and CSRC of a read-write register complete: it then reads as the new value in its writable bits
and zero elsewhere; every other assigned register but INSTRET reads as before; general registers and memory stay; at
user level a supervisor register is cause 1. -/
def Sys2Proof.Claims.ControlRegisterWritesKeepOnlyTheWritableBits : Prop :=
  ∀ e ∈ csrTable, ∀ (op : CsrOp) (ra : BitVec 5) (s : State), s.me.plainReg ra = true →
    (∀ old, s.csrValue e.1.toNat = some old → (e.1.toNat < 0x400 ∨ s.me.super = true) →
      ∃ t, exec (writingForm op ra e.1) s = .next t ∧ t.csrValue e.1.toNat = some (newValue op old (s.gr ra) &&& e.2) ∧
        (∀ m, m ≠ e.1.toNat → m ≠ 0x041 → t.csrValue m = s.csrValue m) ∧
        t.me.pc = s.me.pc + 4 ∧ t.me.g = s.me.g ∧ t.me.v = s.me.v ∧ t.me.p = s.me.p ∧ t.mem = s.mem) ∧
    (0x400 ≤ e.1.toNat → s.me.super = false →
      exec (writingForm op ra e.1) s = .next (s.takeTrap 1 (wordOf (writingForm op ra e.1))))

/-- R26, R28, R185, R250, R321: the writes of FCTL, FFLAGS, MFMT, INSTRET and KBACK: a value the map forbids is cause 0
with the word and leaves the register; otherwise it holds the new value, and INSTRET reads as written. -/
def Sys2Proof.Claims.WritesOfRegistersWithRulesOfTheirOwn : Prop :=
  ∀ (op : CsrOp) (ra : BitVec 5) (s : State), s.me.plainReg ra = true →
    let new := fun old => newValue op old (s.gr ra)
    (let x := new s.me.user.fctl;
      (x.extractLsb' 0 3 < 5 → exec (.fctlWrite op ra) s =
        .next (s.completes (fun c => { c with user := { c.user with fctl := x &&& 0x1F7 } }))) ∧
      (5 ≤ x.extractLsb' 0 3 → exec (.fctlWrite op ra) s = .next (s.takeTrap 0 (wordOf (writingForm op ra 0x001))))) ∧
    exec (.fflagsWrite op ra) s =
      .next (s.completes (fun c => { c with user := { c.user with fflags := new s.me.user.fflags &&& 0xFF } })) ∧
    (let x := new s.me.user.mfmt;
      (x.extractLsb' 4 4 < 8 → x.extractLsb' 0 4 < 8 → exec (.mfmtWrite op ra) s =
        .next (s.completes (fun c => { c with user := { c.user with mfmt := x &&& 0xFF } }))) ∧
      ((8 ≤ x.extractLsb' 4 4 ∨ 8 ≤ x.extractLsb' 0 4) →
        exec (.mfmtWrite op ra) s = .next (s.takeTrap 0 (wordOf (writingForm op ra 0x018))))) ∧
    (∃ t, exec (.instretWrite op ra) s = .next t ∧ t.me.user.instret = new s.me.user.instret ∧ t.me.pc = s.me.pc + 4 ∧
      t.me.g = s.me.g ∧ t.mem = s.mem) ∧
    (let x := new s.me.user.kback;
      let blocks := (x.extractLsb' 0 12).toNat;
      let fits := blocks = 0 ∨ ((x.extractLsb' 12 52).toNat + blocks) * 4096 ≤ 2 ^ 47;
      (s.me.kerfBB = 0 → fits → exec (.kbackWrite op ra) s =
        .next (s.completes (fun c => { c with user := { c.user with kback := x } }))) ∧
      ((0 < s.me.kerfBB ∨ ¬ fits) → exec (.kbackWrite op ra) s = .next (s.takeTrap 0 (wordOf (writingForm op ra 0x024)))))

/-- R97, R119: PORTMAP takes at most the launch's ports, with every spill area in the private part and no mapped port that
holds words moved or unmapped; BMASK takes only channels the launch holds, a cleared bit counts as an arrival of the
unit and a set bit leaves it unmarked; a value outside these is cause 0 and changes nothing. -/
def Sys2Proof.Claims.PortAndBarrierMaskWrites : Prop :=
  ∀ (op : CsrOp) (ra : BitVec 5) (s : State), s.me.plainReg ra = true →
    let new := fun old => newValue op old (s.gr ra)
    (let x := new s.me.user.portmap &&& 0x1FFFF;
      let spill := (x.extractLsb' 8 9).toNat;
      let ports := ((List.range 8).filter (fun j => x.getLsbD j)).length;
      let limit := match s.me.unit with | some u => u.ports | none => 0;
      let priv := match s.me.unit with | some u => u.privKiB * 1024 | none => 0;
      let kept := ∀ j < 8, s.me.user.portmap.getLsbD j = true → s.me.portHolds j = true →
        x.getLsbD j = true ∧ spill = (s.me.user.portmap.extractLsb' 8 9).toNat;
      let fits := ports = 0 ∨ 512 * (spill + ports) ≤ priv;
      (ports ≤ limit → fits → kept → exec (.portmapWrite op ra) s =
        .next (s.completes (fun c => { c with user := { c.user with portmap := x } }))) ∧
      ((limit < ports ∨ ¬ fits ∨ ¬ kept) →
        exec (.portmapWrite op ra) s = .next (s.takeTrap 0 (wordOf (writingForm op ra 0x008))))) ∧
    (let x := new s.me.user.bmask &&& 0x1FFFFFFFF;
      ((∃ ch < 32, x.getLsbD ch = true ∧ s.me.holds ch = false) →
        exec (.bmaskWrite op ra) s = .next (s.takeTrap 0 (wordOf (writingForm op ra 0x010)))) ∧
      ((∀ ch < 32, x.getLsbD ch = true → s.me.holds ch = true) →
        ∃ t, exec (.bmaskWrite op ra) s = .next t ∧ t.me.user.bmask = x ∧ t.me.pc = s.me.pc + 4 ∧ t.me.g = s.me.g ∧
          t.mem = s.mem ∧
          (∀ ch ∈ t.channels, s.me.holds ch.num = true → s.me.user.bmask.getLsbD ch.num = true → x.getLsbD ch.num = false →
            s.me.unitNum ∈ ch.marks) ∧
          (∀ ch ∈ t.channels, s.me.holds ch.num = true → s.me.user.bmask.getLsbD ch.num = false → x.getLsbD ch.num = true →
            s.me.unitNum ∉ ch.marks)))

/-- A cached translation lies in what a TLBINV of a kind covers, under a context (R69): the page, the 8 MiB region, or
all. -/
def Sys2Proof.Claims.inScope (kind : Nat) (va : Nat) (ctx : BitVec 16) (e : TlbEntry) : Prop :=
  e.ctx = ctx ∧ (kind = 0 → if e.big then e.page = va / 2 ^ 21 * 32 else e.page = va / 2 ^ 16) ∧
  (kind = 1 → e.page / 2 ^ 7 = va / 2 ^ 23)

/-- R42, R67, R69: at supervisor level a TLBINV with a legal scope and no reserved bit completes, and no cached translation
it covers is left on the core, nor in the second-level TLB of its truss; at user level it is cause 1. A page of DRAM that
leaves the context reads zero where no page still held overlaps it, and no other byte changes (that a page leaves at the
TLBINV that covers it is the model's choice, log 24). -/
def Sys2Proof.Claims.TlbinvLeavesNoCoveredTranslation : Prop :=
  ∀ (ra : BitVec 5) (s : State) (k : Fin 3), s.me.plainReg ra = true →
    let i := match k with
      | 0 => Instr.tlbinvPage ra
      | 1 => Instr.tlbinvRegion ra
      | 2 => Instr.tlbinvContext ra
    let v := s.gr ra
    let ctx := s.me.sup.ctxid.setWidth 16
    let va := (v.extractLsb' 16 31).toNat * 2 ^ 16
    (s.me.super = false → exec i s = .next (s.takeTrap 1 (wordOf (.csrw ra 0x40D)))) ∧
    (s.me.super = true → v.extractLsb' 62 2 ≠ 3 → v.extractLsb' 47 13 = 0 → v.extractLsb' 0 16 = 0 →
      ∃ t, exec i s = .next t ∧ t.me.pc = s.me.pc + 4 ∧ t.me.g = s.me.g ∧
        (∀ f ∈ s.frames, f ∉ t.frames → f.ctx = s.me.ctx ∧ vaCovered k.val va f.va = true ∧ ∀ j < f.size / 2 ^ 16,
          let b := f.key + 2 ^ 16 * j
          (∀ g ∈ t.frames, overlaps b (2 ^ 16) g.key g.size = false) → ∀ a, b ≤ a → a < b + 2 ^ 16 →
            Memory.read a t.mem = Memory.unlisted a) ∧
        (Memory.wf s.mem → ∀ a, (∀ f ∈ s.frames, f.ctx = s.me.ctx → a < f.key ∨ f.key + f.size ≤ a) →
          Memory.read a t.mem = Memory.read a s.mem) ∧
        (∀ e ∈ t.me.itlb ++ t.me.dtlb, ¬ inScope k.val va ctx e) ∧
        (∀ x ∈ t.l2tlb, x.1 = trussOf s.me.id → ¬ inScope k.val va ctx x.2))

/-- R72: a CSRW of UINOTE at supervisor level: STATUS 3 or a reserved bit is cause 0; a full notice queue stalls the
writer; a running core of the partition with room gets the notice at the end of its queue. A stalled writer may go on
once there is room. -/
def Sys2Proof.Claims.UinoteReachesTheNoticeQueueOfItsTarget : Prop :=
  ∀ (ra : BitVec 5) (s : State), s.me.plainReg ra = true → s.me.super = true →
    let v := s.gr ra
    let n := (v.extractLsb' 0 12).toNat
    let legal := v.extractLsb' 47 17 = 0 ∧ v.extractLsb' 12 2 = 0 ∧ v.extractLsb' 14 2 ≠ 3
    (¬ legal → exec (.uinote ra) s = .next (s.takeTrap 0 (wordOf (.csrw ra 0x40E)))) ∧
    (legal → s.noticeTarget n = .full → exec (.uinote ra) s = .next (s.park (.uinote n) 0)) ∧
    (legal → s.noticeTarget n = .nobody →
      exec (.uinote ra) s = .next ({ s with stamp := s.stamp + 1 }.retire)) ∧
    (legal → s.noticeTarget n = .core →
      ∃ t, exec (.uinote ra) s = .next t ∧ t.me.pc = s.me.pc + 4 ∧ t.me.g = s.me.g ∧ t.mem = s.mem ∧
        (t.core n).notices = (s.core n).notices ++
          [{ stamp := s.stamp, page := (v.extractLsb' 16 31).toNat, status := (v.extractLsb' 14 2).toNat }]) ∧
    (∀ (m : Nat) (w : WaitRec), s.me.wait = some w → w.kind = .uinote m → s.noticeTarget m ≠ .full →
      exec .uinoteStallRelease s = .next { s with me := { s.me with wait := some { w with ready := true } } })

/-- R52 to R54: a synchronous trap outside a fused gang. One that is delegated, at user level, with TRAP set and outside
the user-interrupt context enters that context: UIPC, UICAUSE and UIVAL are written, g16 to g23 change places with the
shadow bank, UIA is set and the pc goes to UIVEC, at the same privilege. Any other enters the supervisor: SEPC, SCAUSE
and SVAL are written, SPP and SPIE take the privilege and SIE, SIE becomes 0, and the pc goes to STVEC. Nothing else
changes. -/
def Sys2Proof.Claims.TrapsEnterTheSupervisorOrTheUserInterruptContext : Prop :=
  ∀ (s : State) (cause : Nat) (val : Word), s.fused = false → cause < 24 →
    let t := s.takeTrap cause val
    let delegated := s.me.sup.sdeleg.getLsbD cause = true ∧ s.me.super = false ∧ s.me.user.uienable.getLsbD 4 = true ∧ s.me.sup.uia = false
    (¬ delegated → t = { s with me := { s.me with
      sup := { s.me.sup with sepc := s.me.pc &&& ~~~3, scause := BitVec.ofNat 64 cause, sval := val, spp := s.me.super,
                             spie := s.me.sup.sie, sie := false }
      super := true
      pc := s.me.sup.stvec
      wait := none } }) ∧
    (delegated → ∃ g sh, t = { s with me := { s.me with
        user := { s.me.user with uipc := s.me.pc &&& ~~~3, uicause := BitVec.ofNat 64 cause, uival := val }
        sup := { s.me.sup with uia := true }
        g := g
        shadow := sh
        pc := s.me.user.uivec
        wait := none } } ∧
      (∀ k < 8, g[16 + k]? = s.me.shadow[k]? ∧ sh[k]? = s.me.g[16 + k]?) ∧
      (∀ n < 32, (n < 16 ∨ 24 ≤ n) → g[n]? = s.me.g[n]?))

/-- R232, R255, R256: ECALL at user level and EBREAK complete: they take causes 17 and 18 with value 0 and count in INSTRET; an
illegal instruction takes its cause, with the word. At supervisor level ECALL is a
monitor call: an unknown call number leaves status 1 in g4 and changes nothing else but the pc and INSTRET. -/
def Sys2Proof.Claims.CallsAndBreakpointsTrapAndCount : Prop :=
  ∀ s : State,
    (s.me.super = false → exec .ecall s = .next ((s.updMe (fun c => { c with user := { c.user with instret := c.user.instret + 1 } })).takeTrap 17 0)) ∧
    exec .ebreak s = .next ((s.updMe (fun c => { c with user := { c.user with instret := c.user.instret + 1 } })).takeTrap 18 0) ∧
    (∀ (cause : BitVec 5) (w : Word), exec (.illegalInstruction cause w) s = .next (s.takeTrap cause.toNat w)) ∧
    (s.me.super = true → 13 ≤ (s.me.gpr 4).toNat → 4 ∉ s.me.pendingRegs → exec .ecall s = .next (s.completes (fun c => c.setGpr 4 1)))

/-- R257, R258: SRET at supervisor level restores the privilege from SPP and SIE from SPIE, sets SPIE, clears SPP and goes
to SEPC; at user level it is cause 1. UIRET inside the user-interrupt context at user level changes the banks back, clears
UIA and goes to UIPC; elsewhere it is cause 0. -/
def Obligations.ReturnsRestoreWhatTheTrapSaved : Prop :=
  ∀ s : State, s.me.lead = none →
    (s.me.super = true → exec .sret s = .next { s with me := { s.me with
      super := s.me.sup.spp
      sup := { s.me.sup with sie := s.me.sup.spie, spie := true, spp := false }
      pc := s.me.sup.sepc
      wait := none
      user := { s.me.user with instret := s.me.user.instret + 1 } } }) ∧
    (s.me.super = false → exec .sret s = .next (s.takeTrap 1 0x50000002)) ∧
    (s.me.super = false → s.me.sup.uia = true → ∃ g sh, exec .uiret s = .next { s with me := { s.me with
        sup := { s.me.sup with uia := false }
        g := g
        shadow := sh
        pc := s.me.user.uipc
        wait := none
        user := { s.me.user with instret := s.me.user.instret + 1 } } } ∧
      (∀ k < 8, g[16 + k]? = s.me.shadow[k]? ∧ sh[k]? = s.me.g[16 + k]?) ∧
      (∀ n < 32, (n < 16 ∨ 24 ≤ n) → g[n]? = s.me.g[n]?)) ∧
    ((s.me.super = true ∨ s.me.sup.uia = false) → exec .uiret s = .next (s.takeTrap 0 0x50000003))

/-- R44, R45, R259, R260: YIELD completes and does nothing more while PREQ is clear; with PREQ set under a set the core is
then saving, to resume after it. IDLE completes when an event or notice it waits for is there and parks otherwise; a
parked IDLE completes by the event. -/
def Sys2Proof.Claims.YieldSavesOnRequestAndIdleEndsOnAnEvent : Prop :=
  ∀ s : State,
    (s.me.preq = none → exec .yield s = .next (s.completes id)) ∧
    (∀ p u, s.me.preq = some p → s.me.unit = some u → s.me.expired = none → ∃ t, exec .yield s = .next t ∧ t.me.run = .saving ∧
      t.me.pc = s.me.pc + 4 ∧ t.me.saveFrom = s.cycle ∧ t.me.g = s.me.g ∧ t.mem = s.mem ∧
      (s.me.id, u.ctx, u.launch, u.unit) ∈ t.tags) ∧
    (s.me.idleEnds = true → exec .idle s = .next (s.completes id)) ∧
    (s.me.idleEnds = false → s.me.wait = none → exec .idle s = .next (s.park .idle 0)) ∧
    (s.me.idles = true → s.me.idleEnds = true → s.me.fwd = [] → s.fused = false →
      exec .idleWake s = .next (s.completes id)) ∧
    (∀ e ∈ s.me.events, s.me.eventToUi e = false → s.me.idleEnds = true)

/-- R93, R261: SPLIT makes a member of a fused gang diverge and does nothing elsewhere; FUSE does nothing on a core whose
gang is one core or that has not diverged; where every member waits at a FUSE, all go on together after the leader's. -/
def Sys2Proof.Claims.SplitAndFuseMoveTheGangBetweenItsModes : Prop :=
  ∀ s : State,
    (s.fused = true → exec .split s = .next (s.completes (fun c => { c with fwd := [], user := { c.user with diverge := true } }))) ∧
    (s.fused = false → exec .split s = .next (s.completes id)) ∧
    (∀ u, s.me.unit = some u → (u.gangSize ≤ 1 ∨ s.me.user.diverge = false) → exec .fuse s = .next (s.completes id)) ∧
    (s.me.unit = none → exec .fuse s = .next (s.completes id)) ∧
    (∀ u l, s.me.unit = some u → 1 < u.gangSize → s.me.user.diverge = true → s.othersAtFuse = true → s.leader? = some l →
      exec .fuse s = .next (s.updCores s.gangOf (fun c => { c with
        pc := l.pc + 4, wait := none, fwd := [], lead := none,
        user := { c.user with instret := c.user.instret + 1, diverge := false } }))) ∧
    (∀ u, s.me.unit = some u → 1 < u.gangSize → s.me.user.diverge = true → s.othersAtFuse = false →
      s.leader?.isSome = true → exec .fuse s = .next (s.park .fuse 0))

/-- R76, R262: EXIT at user level, once the held atomics are performed and the queues are over, ends the unit: the core holds no
unit any more, and is kept for its launch while units of it are left and is being zeroed when the last has ended; before
that it waits, and the wait's end ends the unit too. At supervisor level it is cause 0; with held atomics before the arrival
it is cause 13. -/
def Sys2Proof.Claims.ExitEndsTheUnitWhenItsWaitsAreOver : Prop :=
  ∀ s : State,
    (s.me.super = true → exec .exit s = .next (s.takeTrap 0 0x50000009)) ∧
    (s.me.super = false → s.me.batch ≠ [] → s.me.batchArrived = false → exec .exit s = .next (s.takeTrap 13 0x50000009)) ∧
    (s.me.super = false → (s.me.batch = [] ∨ s.me.batchArrived = true) → s.me.exitReady = false →
      exec .exit s = .next (s.park .exit 0)) ∧
    (∀ u, s.me.exitReady = true → s.me.unit = some u → s.fused = false →
      let ends := fun (t : State) => t.me.id = s.me.id ∧ t.me.unit = none ∧ ∀ l, s.launch? u.launch = some l →
        ((∃ q ∈ l.units, q.1 ≠ u.unit ∧ q.2 ≠ .exited ∧ q.2 ≠ .cancelled) → t.me.run = .free ∧ t.me.lastLaunch = some u.launch) ∧
        (l.state = .placed → l.recordDue = none → l.recorded = false →
          (∀ q ∈ l.units, q.1 = u.unit ∨ q.2 = .exited ∨ q.2 = .cancelled) → t.me.run = .zeroing ∧ t.me.zeroCtx = some l.ctx)
      (s.me.super = false → ∃ t, exec .exit s = .next t ∧ ends t) ∧
      (∀ w, s.me.wait = some w → w.kind = .exit → ∃ t, exec .unitEnd s = .next t ∧ ends t))

/-- R118, R121, R123, R124: on a channel that the unit's launch holds and of which the unit is a member: a first ARRIVE or
ARRIVE.G marks the unit in the open episode (ARRIVE.G also gathers its event counters); a second waits. WAIT returns DONE
when the awaited episode is over and waits before that; BTEST returns the status at once; EXPECT adds to the count; BCANCEL
completes the episode as failed, what arrived or landed in its own cycle counting in the next; an episode whose conditions
held before has completed with success first. An instruction on a channel that is not held is cause 3 with the channel. -/
def Sys2Proof.Claims.BarrierInstructionsActOnTheOpenEpisode : Prop :=
  ∀ (ch rd ra : BitVec 5) (s : State) (x : Channel),
    (s.me.holds ch.toNat = false → ∀ i ∈ [Instr.arrive ch, .arriveG ch, .wait rd ch, .btest rd ch, .bcancel ch],
      exec i s = .next (s.takeTrap 3 (ch.setWidth 64))) ∧
    (s.me.holds ch.toNat = true → s.me.member ch.toNat = true → s.channel? ch.toNat = some x → x.num = ch.toNat →
      (s.me.wait = none → s.me.unitNum ∉ x.marks →
        (∃ t y, exec (.arrive ch) s = .next t ∧ t.channel? ch.toNat = some y ∧ y.marks = x.marks ++ [s.me.unitNum] ∧
          y.gathered = x.gathered ∧ y.epoch = x.epoch ∧ t.me.pc = s.me.pc + 4 ∧ t.me.g = s.me.g ∧ t.mem = s.mem) ∧
        (∃ t y, exec (.arriveG ch) s = .next t ∧ t.channel? ch.toNat = some y ∧ y.marks = x.marks ++ [s.me.unitNum] ∧
          y.gathered = x.gathered ++ [s.me.gathered] ∧ t.me.pc = s.me.pc + 4 ∧ t.me.g = s.me.g ∧ t.mem = s.mem)) ∧
      (s.me.wait = none → s.me.unitNum ∈ x.marks → ∃ t, exec (.arrive ch) s = .next t ∧
        t.me.wait.map (·.kind) = some (.arrive ch.toNat false) ∧ t.me.pc = s.me.pc ∧ t.me.g = s.me.g ∧ t.mem = s.mem) ∧
      (s.me.plainReg rd = true → s.me.awaitedOn x < x.epoch → s.me.user.bmask.getLsbD 32 = false →
        ∃ t, exec (.wait rd ch) s = .next t ∧ t.me.pc = s.me.pc + 4 ∧ (rd ≠ 0 → (t.gr rd).getLsbD 63 = true ∧
          (t.gr rd).getLsbD 62 = x.failedEpochs.contains (s.me.awaitedOn x) ∧ (t.gr rd).getLsbD 61 = false ∧
          ((t.gr rd).extractLsb' 0 32).toNat = s.me.awaitedOn x % 2 ^ 32) ∧ regFrame rd s t ∧ t.mem = s.mem) ∧
      (s.me.wait = none → ¬ s.me.awaitedOn x < x.epoch →
        exec (.wait rd ch) s = .next (s.park (.barrier ch.toNat (s.me.awaitedOn x)) rd)) ∧
      (s.me.plainReg rd = true → ∃ t, exec (.btest rd ch) s = .next t ∧ t.me.pc = s.me.pc + 4 ∧
        (rd ≠ 0 → (t.gr rd).getLsbD 63 = decide (s.me.awaitedOn x < x.epoch)) ∧ regFrame rd s t ∧ t.mem = s.mem) ∧
      (s.me.plainReg ra = true → (s.gr ra).toNat < 2 ^ 39 → s.me.unitNum ∉ x.marks →
        ∃ t y, exec (.expect ra ch) s = .next t ∧ t.channel? ch.toNat = some y ∧ y.count = x.count + (s.gr ra).toNat ∧
          y.nextCount = x.nextCount ∧ t.me.pc = s.me.pc + 4 ∧ t.me.g = s.me.g ∧ t.mem = s.mem) ∧
      (s.me.plainReg ra = true → (s.gr ra).toNat < 2 ^ 39 → s.me.unitNum ∈ x.marks →
        ∃ t y, exec (.expect ra ch) s = .next t ∧ t.channel? ch.toNat = some y ∧ y.count = x.count ∧
          y.nextCount = x.nextCount + (s.gr ra).toNat ∧ t.me.pc = s.me.pc + 4 ∧ t.me.g = s.me.g ∧ t.mem = s.mem) ∧
      (let late := if x.recentAt = s.cycle then x.recentMarks else []
       let bytes := if x.recentAt = s.cycle then x.recentBytes else 0
       let held := s.episodeReady x = true ∧ x.gatherDue = none ∧ x.failing = false ∧ late = [] ∧ bytes = 0
       x.stalled = [] → s.isBatchChannel x = false → x.cancelAt ≠ some s.cycle →
       (¬ held → ∃ t y, exec (.bcancel ch) s = .next t ∧ t.channel? ch.toNat = some y ∧ y.epoch = x.epoch + 1 ∧ y.failed = true ∧
         y.phase = !x.phase ∧ y.marks = late ∧ y.count = x.nextCount - bytes ∧ t.me.pc = s.me.pc + 4 ∧ t.me.g = s.me.g ∧ t.mem = s.mem) ∧
       (held → x.gathered = [] → ∃ t y, exec (.bcancel ch) s = .next t ∧ t.channel? ch.toNat = some y ∧ y.epoch = x.epoch + 2 ∧
         y.failed = true ∧ x.epoch + 1 ∈ y.failedEpochs ∧ (x.epoch ∉ x.failedEpochs → x.epoch ∉ y.failedEpochs) ∧ y.phase = x.phase ∧
         y.marks = [] ∧ y.count = 0 ∧ t.me.pc = s.me.pc + 4 ∧ t.me.g = s.me.g ∧ t.mem = s.mem)) ∧
      (x.cancelAt = some s.cycle → exec (.bcancel ch) s = .next s.retire))

/-- R121, R122, R124, R125: the events of a channel: bound bytes that land count down the open episode, or the next one
once the conditions of the open one hold; an episode whose conditions
hold and that gathers nothing completes with success, PHASE toggling and the next episode opening with the count it was
given. WAITTO cycles after its issue a parked WAIT returns TIMEOUT, or, where its episode has completed by then, DONE with
its acquire; a parked WAITW is tried once more as one whose time is over (which returns status 3 or, once woken, 1). -/
def Sys2Proof.Claims.EpisodesCountBytesCompleteAndTimeOut : Prop :=
  ∀ (n : Nat) (s : State) (x : Channel), s.channel? n = some x → x.num = n →
    (∀ bytes, ∃ t y, exec (.boundBytesLand n bytes) s = .next t ∧ t.channel? n = some y ∧
      (s.episodeReady x = false ∨ x.gatherDue ≠ none → y.count = x.count - bytes ∧ y.nextCount = x.nextCount) ∧
      (s.episodeReady x = true → x.gatherDue = none → y.count = x.count ∧ y.nextCount = x.nextCount - bytes) ∧
      y.epoch = x.epoch ∧ y.marks = x.marks ∧ t.me = s.me ∧ t.mem = s.mem) ∧
    (x.failing = false → s.episodeReady x = true → x.gathered = [] → s.isBatchChannel x = false → x.stalled = [] →
      ∃ t y, exec (.episodeComplete n) s = .next t ∧ t.channel? n = some y ∧ y.epoch = x.epoch + 1 ∧ y.failed = false ∧
        y.phase = !x.phase ∧ y.marks = [] ∧ y.count = x.nextCount ∧ y.nextCount = 0 ∧ t.mem = s.mem) ∧
    (∀ e w, s.me.wait = some w → w.kind = .barrier n e → s.me.waittoDue s.cycle = true → s.me.plainReg w.rd = true →
      s.fused = false → n < 32 → s.me.holds n = true → s.me.member n = true →
      (x.epoch ≤ s.me.awaitedOn x → ∃ t, exec .waittoExpiry s = .next t ∧ t.me.pc = s.me.pc + 4 ∧ t.me.wait = none ∧
        (w.rd ≠ 0 → (t.gr w.rd).getLsbD 61 = true ∧ (t.gr w.rd).getLsbD 63 = false) ∧ regFrame w.rd s t ∧ t.mem = s.mem) ∧
      (s.me.awaitedOn x < x.epoch → s.me.user.bmask.getLsbD 32 = false →
        ∃ t, exec .waittoExpiry s = .next t ∧ t.me.pc = s.me.pc + 4 ∧ t.me.wait = none ∧ t.me.l1d = [] ∧
          (w.rd ≠ 0 → (t.gr w.rd).getLsbD 61 = false ∧ (t.gr w.rd).getLsbD 63 = true) ∧ regFrame w.rd s t ∧ t.mem = s.mem)) ∧
    (∀ k ra rb size order scope w, s.me.wait = some w → w.kind = .word k ra rb size order scope →
      s.me.waittoDue s.cycle = true → s.fused = false →
      exec .waittoExpiry s = exec (.amoWaitw w.rd ra rb size order scope) (s.updMe (fun c => { c with wait := some { w with ready := true } })))

namespace Sys2Proof.Claims

/-- An instruction of the W format with a governing predicate: vd, va, vb, pg, ty, aux. -/
abbrev WForm := BitVec 5 → BitVec 5 → BitVec 5 → BitVec 2 → BitVec 2 → BitVec 2 → Instr

/-- Element k of width w is active under the predicate pg names (R217). -/
def activeIn (s : State) (pg : BitVec 2) (w k : Nat) : Bool := (s.me.pr pg.toNat).getLsbD (k * w / 8)

/-- Element k of the last source b (R304): of v[vb], the low bits of g[vb], the sign-extended field. -/
def lastB (s : State) (vb : BitVec 5) (aux : BitVec 2) (w k : Nat) : Nat :=
  if aux = 0 then elem (s.me.vr vb.toNat) k w
  else if aux = 1 then (s.gr vb).toNat % 2 ^ w else (vb.signExtend 64).toNat % 2 ^ w

/-- The scalar form of the last source (R304). -/
def scalarB (s : State) (vb : BitVec 5) (aux : BitVec 2) : Word := if aux = 1 then s.gr vb else vb.signExtend 64

/-- The form of the last source is one of R304's, and its register, where it is one, is in its ordinary form. -/
def lastOk (s : State) (vb : BitVec 5) (aux : BitVec 2) : Prop := aux ≠ 3 ∧ (aux = 1 → s.me.plainReg vb = true)

/-- As `lastOk`, for the instructions that take no vector there. -/
def scalarOk (s : State) (vb : BitVec 5) (aux : BitVec 2) : Prop := lastOk s vb aux ∧ aux ≠ 0

/-- The w-bit code of an integer. -/
def wrapCode (w : Nat) (x : Int) : Nat := (x % 2 ^ w).toNat

/-- Instruction i completes, and of the whole state only v[vd], the pc and INSTRET differ: element k of v[vd] is f k. -/
def writesV (s : State) (i : Instr) (vd : BitVec 5) (w : Nat) (f : Nat → Nat) : Prop :=
  ∃ v : VReg, exec i s = .next (s.completes (fun c => c.setVr vd.toNat v)) ∧ ∀ k < 512 / w, elem v k w = f k

/-- Instruction i completes, and of the whole state only p[pd], the pc and INSTRET differ: each of the w/8 bits of
element k of p[pd] is b k (p0 discards). -/
def writesP (s : State) (i : Instr) (pd : BitVec 3) (w : Nat) (b : Nat → Bool) : Prop :=
  ∃ p : Word, exec i s = .next (s.completes (fun c => c.setPr pd.toNat p)) ∧
    ∀ k < 512 / w, ∀ j < w / 8, p.getLsbD (k * w / 8 + j) = b k

/-- The vector integer instructions and their exact results (R306), on w-bit values a and b; the code written is the
result modulo 2^w. -/
def vecIntTable : List (WForm × (Nat → Nat → Nat → Int)) := [
  (.vadd, fun _ a b => a + b), (.vsub, fun _ a b => a - b), (.vmul, fun _ a b => a * b),
  (.vmulh, fun w a b => (BitVec.ofNat w a).toInt * (BitVec.ofNat w b).toInt / 2 ^ w),
  (.vmin, fun w a b => if (BitVec.ofNat w a).toInt < (BitVec.ofNat w b).toInt then a else b),
  (.vmax, fun w a b => if (BitVec.ofNat w a).toInt < (BitVec.ofNat w b).toInt then b else a),
  (.vminu, fun _ a b => if a < b then a else b), (.vmaxu, fun _ a b => if a < b then b else a),
  (.vand, fun _ a b => (a &&& b : Nat)), (.vor, fun _ a b => (a ||| b : Nat)), (.vxor, fun _ a b => (a ^^^ b : Nat)),
  (.vsll, fun w a b => a * 2 ^ (b % w)), (.vsrl, fun w a b => (a / 2 ^ (b % w) : Nat)),
  (.vsra, fun w a b => (BitVec.ofNat w a).toInt / 2 ^ (b % w)),
  (.vabsd, fun w a b => ((BitVec.ofNat w a).toInt - (BitVec.ofNat w b).toInt).natAbs)]

/-- The saturating instructions and their exact results before the clamp (R306). -/
def vecSatTable : List (WForm × (Int → Int → Int)) := [(.vsadd, fun a b => a + b), (.vssub, fun a b => a - b)]

/-- The integer compares (R306). -/
def vecCmpTable :
    List ((BitVec 3 → BitVec 5 → BitVec 5 → BitVec 2 → BitVec 2 → BitVec 2 → Instr) × (Nat → Nat → Nat → Bool)) := [
  (.vcmpeq, fun _ a b => a = b), (.vcmplt, fun w a b => (BitVec.ofNat w a).toInt < (BitVec.ofNat w b).toInt),
  (.vcmpltu, fun _ a b => a < b)]

end Sys2Proof.Claims

/-- R306, R304: each vector integer instruction writes its table result into the active elements of v[vd] and keeps the
others; VSADD and VSSUB clamp to the signed range and set SAT exactly when an active element clamped. -/
def Sys2Proof.Claims.VectorIntegerInstructionsWriteTheTableResult : Prop :=
  (∀ e ∈ vecIntTable, ∀ (vd va vb : BitVec 5) (pg ty aux : BitVec 2) (s : State), lastOk s vb aux →
    let w := 8 * 2 ^ ty.toNat
    writesV s (e.1 vd va vb pg ty aux) vd w (fun k =>
      if activeIn s pg w k then wrapCode w (e.2 w (elem (s.me.vr va.toNat) k w) (lastB s vb aux w k))
      else elem (s.me.vr vd.toNat) k w)) ∧
  (∀ e ∈ vecSatTable, ∀ (vd va vb : BitVec 5) (pg ty aux : BitVec 2) (s : State), lastOk s vb aux →
    let w := 8 * 2 ^ ty.toNat
    let x := fun k => e.2 (BitVec.ofNat w (elem (s.me.vr va.toNat) k w)).toInt (BitVec.ofNat w (lastB s vb aux w k)).toInt
    let y := fun k => max (-(2 ^ (w - 1))) (min (x k) (2 ^ (w - 1) - 1))
    ∃ (v : VReg) (fl : Word),
      exec (e.1 vd va vb pg ty aux) s =
        .next (s.completes (fun c => { c.setVr vd.toNat v with user := { c.user with fflags := fl } })) ∧
      (∀ k < 512 / w, elem v k w = if activeIn s pg w k then wrapCode w (y k) else elem (s.me.vr vd.toNat) k w) ∧
      (fl = if ∃ k < 512 / w, activeIn s pg w k = true ∧ x k ≠ y k then s.me.user.fflags ||| 0x80 else s.me.user.fflags))

/-- R306, R295: an integer compare sets every bit of an active element that compares true and clears all other bits of
p[pd]. -/
def Sys2Proof.Claims.VectorComparesWriteOnlyActiveElements : Prop :=
  ∀ e ∈ vecCmpTable, ∀ (pd : BitVec 3) (va vb : BitVec 5) (pg ty aux : BitVec 2) (s : State), lastOk s vb aux →
    let w := 8 * 2 ^ ty.toNat
    writesP s (e.1 pd va vb pg ty aux) pd w (fun k =>
      activeIn s pg w k && e.2 w (elem (s.me.vr va.toNat) k w) (lastB s vb aux w k))

/-- R308, R309: the permutes, slides, scans and selections. -/
def Sys2Proof.Claims.PermuteInstructionsMoveTheNamedElements : Prop :=
  ∀ (vd va vb : BitVec 5) (pg ty aux : BitVec 2) (s : State),
    let w := 8 * 2 ^ ty.toNat
    let n := 512 / w
    let A := fun k => elem (s.me.vr va.toNat) k w
    let D := fun k => elem (s.me.vr vd.toNat) k w
    let act := activeIn s pg w
    let actives := (List.range n).filter (fun k => act k)
    let b := scalarB s vb aux
    (lastOk s vb aux → writesV s (.vbcast vd vb pg ty aux) vd w (fun k => if act k then lastB s vb aux w 0 else D k)) ∧
    (lastOk s vb aux → writesV s (.vsel vd va vb pg ty aux) vd w (fun k => if act k then A k else lastB s vb aux w k)) ∧
    writesV s (.vperm vd va vb pg ty) vd w (fun k => if act k then A (elem (s.me.vr vb.toNat) k w % n) else D k) ∧
    writesV s (.vscan vd va pg ty) vd w (fun k =>
      if act k then (((List.range (k + 1)).filter (fun j => act j)).map A).sum % 2 ^ w else D k) ∧
    writesV s (.vcmpr vd va pg ty) vd w (fun k => match actives[k]? with | some j => A j | none => 0) ∧
    writesV s (.viota vd pg ty) vd w (fun k => ((List.range k).filter (fun j => act j)).length) ∧
    (scalarOk s vb aux →
      writesV s (.vsldn vd va vb pg ty aux) vd w (fun k =>
        if act k then (if k + b.toNat % 2 ^ w < n then A (k + b.toNat % 2 ^ w) else 0) else D k) ∧
      writesV s (.vslup vd va vb pg ty aux) vd w (fun k =>
        if act k then (if b.toNat % 2 ^ w ≤ k then A (k - b.toNat % 2 ^ w) else 0) else D k) ∧
      (s.me.plainReg va = true → writesV s (.vins vd va vb pg ty aux) vd w (fun k =>
        if k = b.toNat % n ∧ act k = true then (s.gr va).toNat % 2 ^ w else D k)) ∧
      (s.me.plainReg vd = true → exec (.vext vd va vb ty aux) s =
        .next (s.completes (fun c => c.withG vd ((BitVec.ofNat w (A (b.toNat % n))).signExtend 64)))))

/-- R310: the integer reductions write element 0 and clear the rest; an inactive element does not count, and no active
element leaves the identity. -/
def Sys2Proof.Claims.ReductionsCombineTheActiveElements : Prop :=
  ∀ (vd va : BitVec 5) (pg ty : BitVec 2) (s : State),
    let w := 8 * 2 ^ ty.toNat
    let n := 512 / w
    let X := fun k => (BitVec.ofNat w (elem (s.me.vr va.toNat) k w)).toInt
    let act := activeIn s pg w
    writesV s (.vredsum vd va pg ty) vd w (fun k =>
      if k = 0 then wrapCode w (((List.range n).filter (fun j => act j)).map X).sum else 0) ∧
    (∃ r : Int, writesV s (.vredmax vd va pg ty) vd w (fun k => if k = 0 then wrapCode w r else 0) ∧
      (∀ k < n, act k = true → X k ≤ r) ∧ (r = -(2 ^ (w - 1)) ∨ ∃ k < n, act k = true ∧ r = X k)) ∧
    (∃ r : Int, writesV s (.vredmin vd va pg ty) vd w (fun k => if k = 0 then wrapCode w r else 0) ∧
      (∀ k < n, act k = true → r ≤ X k) ∧ (r = 2 ^ (w - 1) - 1 ∨ ∃ k < n, act k = true ∧ r = X k))

namespace Sys2Proof.Claims

/-- The underflow trap is enabled (R23). -/
def ufOn (s : State) : Bool := s.me.user.fctl.getLsbD 5

/-- The pairwise tree of R36 over leaves x: node i of a level adds nodes 2i and 2i + 1 of the level below, each addition
rounded; u says whether the underflow trap is enabled (R23). -/
def treeSum (f : Fmt) (mode : Mode) (u : Bool) (x : Nat → Nat) : Nat → Nat → Nat
  | 0, i => x i
  | l + 1, i => (addVals f mode u (unpack f (treeSum f mode u x l (2 * i))) (unpack f (treeSum f mode u x l (2 * i + 1)))).1

/-- The exceptions of the additions under a node, one entry an addition. -/
def treeExcs (f : Fmt) (mode : Mode) (u : Bool) (x : Nat → Nat) : Nat → Nat → List Exc
  | 0, _ => []
  | l + 1, i => treeExcs f mode u x l (2 * i) ++ treeExcs f mode u x l (2 * i + 1) ++
      [(addVals f mode u (unpack f (treeSum f mode u x l (2 * i))) (unpack f (treeSum f mode u x l (2 * i + 1)))).2]

end Sys2Proof.Claims

/-- R36, R310: VREDFSUM sums all 512/w elements by the pairwise tree, an inactive one entering as the identity of the
mode, writes element 0 and zeros above it, and accrues the exception of every addition; it completes whatever FCTL
holds. That FCTL.UFE sets the sense of UF in a tree that never traps, for the identity of an inactive lane too, is the model's
reading (log 27). -/
def Sys2Proof.Claims.VredfsumSumsByThePairwiseTree : Prop :=
  ∀ (vd va : BitVec 5) (pg ty aux : BitVec 2) (s : State), aux ≠ 3 →
    let f : Fmt := if ty = 0 then .f32 else if ty = 1 then .f64 else if ty = 2 then .f16 else .bf16
    let levels := if ty = 0 then 4 else if ty = 1 then 3 else 5
    let mode := if aux = 0 then s.me.dynMode else if aux = 1 then .rne else .rtz
    let x := fun k => if activeIn s pg f.width k then elem (s.me.vr va.toNat) k f.width
      else if mode = .rdn then 0 else 2 ^ (f.width - 1)
    ∃ v : VReg,
      exec (.vredfsum vd va pg ty aux) s =
        .next (s.completes (fun c => (c.accrue (treeExcs f mode (ufOn s) x levels 0)).setVr vd.toNat v)) ∧
      ∀ k < 512 / f.width, elem v k f.width = if k = 0 then treeSum f mode (ufOn s) x levels 0 % 2 ^ f.width else 0

/-- R311, R312: the predicate instructions. -/
def Sys2Proof.Claims.PredicateInstructionsFollowTheirTable : Prop :=
  (∀ (pd pa pb : BitVec 3) (pg ty : BitVec 2) (s : State),
    let w := 8 * 2 ^ ty.toNat
    let bits := fun (i : Instr) (op : Bool → Bool → Bool) => ∃ p : Word,
      exec i s = .next (s.completes (fun c => c.setPr pd.toNat p)) ∧ ∀ k < 512 / w, ∀ j < w / 8,
        p.getLsbD (k * w / 8 + j) = (activeIn s pg w k &&
          op ((s.me.pr pa.toNat).getLsbD (k * w / 8 + j)) ((s.me.pr pb.toNat).getLsbD (k * w / 8 + j)))
    bits (.pand pd pa pb pg ty) (· && ·) ∧ bits (.por pd pa pb pg ty) (· || ·) ∧ bits (.pxor pd pa pb pg ty) (· != ·) ∧
    bits (.pnot pd pa pg ty) (fun a _ => !a)) ∧
  (∀ (rd : BitVec 5) (pa : BitVec 3) (pg ty : BitVec 2) (s : State), s.me.plainReg rd = true →
    let w := 8 * 2 ^ ty.toNat
    let set := (List.range (512 / w)).filter (fun k => (s.me.pr pa.toNat).getLsbD (k * w / 8) && activeIn s pg w k)
    exec (.pcnt rd pa pg ty) s = .next (s.completes (fun c => c.withG rd (BitVec.ofNat 64 set.length))) ∧
    exec (.pfirst rd pa pg ty) s = .next (s.completes (fun c => c.withG rd (BitVec.ofNat 64 (set.headD (512 / w))))) ∧
    exec (.pget rd pa) s = .next (s.completes (fun c => c.withG rd (s.me.pr pa.toNat)))) ∧
  (∀ (pd : BitVec 3) (vb : BitVec 5) (ty aux : BitVec 2) (s : State), scalarOk s vb aux →
    writesP s (.pset pd vb ty aux) pd (8 * 2 ^ ty.toNat) (fun k => k < (scalarB s vb aux).toNat))

namespace Sys2Proof.Claims

/-- What a vector floating-point instruction does with its lanes (R29, R30, R283): with no enabled exception in an
active lane it completes, the active elements of v[vd] become the results, and every lane's exceptions reach FFLAGS and
the event counters together; with one, it takes cause 12 with the lanes' report and nothing is written. -/
def fpWrites (s : State) (i : Instr) (vd : BitVec 5) (pg : BitVec 2) (w : Nat) (lane : Nat → Nat × Exc) : Prop :=
  let es := ((List.range (512 / w)).filter (fun k => activeIn s pg w k)).map (fun k => (k, (lane k).2))
  ((∀ e ∈ es, e.2.enabled s.me.user.fctl = false) → ∃ v : VReg,
    exec i s = .next (s.completes (fun c => (c.accrue (es.map (·.2))).setVr vd.toNat v)) ∧
    ∀ k < 512 / w, elem v k w = if activeIn s pg w k then (lane k).1 % 2 ^ w else elem (s.me.vr vd.toNat) k w) ∧
  ((∃ e ∈ es, e.2.enabled s.me.user.fctl = true) → exec i s = .next (s.takeTrap 12 (ieeeValue es s.me.user.fctl)))

/-- The format of a vector floating-point instruction's type field (R282). -/
def fpFmt (ty : BitVec 2) : Fmt := if ty = 0 then .f32 else if ty = 1 then .f64 else if ty = 2 then .f16 else .bf16

/-- The rounding mode of an rm field (R27, R285). -/
def fpMode (s : State) (rm : BitVec 2) : Mode :=
  if rm = 0 then s.me.dynMode else if rm = 1 then .rne else if rm = 2 then .rtz else .odd

/-- Element k of a register as an operand: flushed first under fzi (R24). -/
def fpOperand (s : State) (f : Fmt) (fzi : BitVec 1) (r : BitVec 5) (k : Nat) : Nat × Exc :=
  flushIn f (decide (fzi = 1)) (elem (s.me.vr r.toNat) k f.width)

/-- The result of a lane: flushed last under fzo, its exceptions joined with the operands' (R24, R28). -/
def fpOut (f : Fmt) (fzo : BitVec 1) (ins : List Exc) (r : Nat × Exc) : Nat × Exc :=
  flushOut f (decide (fzo = 1)) (r.1, excAll (ins ++ [r.2]))

/-- The operand of VFMIN or VFMAX that is chosen (R288): of two NaNs the canonical one, of one NaN the other operand,
else the lesser or the greater, with −0 below +0. -/
def minMax (isMax : Bool) (f : Fmt) (a b : Nat) : Nat × Exc :=
  let x := unpack f a
  let y := unpack f b
  let below := ltVals x y || (x.isZero && y.isZero && x.neg && !y.neg)
  (if x.isNan && y.isNan then f.nan else if x.isNan then b else if y.isNan then a
    else if isMax then (if below then b else a) else (if below then a else b),
   { nv := x.isSnan || y.isSnan })

/-- The two-operand instructions (R287, R288): the function of the two flushed codes under a mode. -/
def fpBinTable : List ((BitVec 5 → BitVec 5 → BitVec 5 → BitVec 2 → BitVec 2 → BitVec 1 → BitVec 1 → BitVec 2 → Instr) ×
    (Fmt → Mode → Bool → Nat → Nat → Nat × Exc)) := [
  (.vfadd, fun f m u a b => addVals f m u (unpack f a) (unpack f b)),
  (.vfsub, fun f m u a b => addVals f m u (unpack f a) (unpack f b).negate),
  (.vfmul, fun f m u a b => mulOp f m u (unpack f a) (unpack f b)),
  (.vfdiv, fun f m u a b => divOp f m u (unpack f a) (unpack f b)),
  (fun vd va vb pg ty fzi fzo _ => .vfmin vd va vb pg ty fzi fzo, fun f _ _ a b => minMax false f a b),
  (fun vd va vb pg ty fzi fzo _ => .vfmax vd va vb pg ty fzi fzo, fun f _ _ a b => minMax true f a b)]

/-- The one-operand instructions (R287, R293); all but VFSQRT round to nearest even always. -/
def fpUnTable : List ((BitVec 5 → BitVec 5 → BitVec 2 → BitVec 2 → BitVec 1 → BitVec 1 → BitVec 2 → Instr) ×
    (Fmt → Mode → Bool → Nat → Nat × Exc)) := [
  (.vfsqrt, fun f m u a => sqrtOp f m u (unpack f a)), (.vfrcp, fun f _ u a => divOp f .rne u (.fin false 1 0) (unpack f a)),
  (.vfrsq, fun f _ u a => rsqOp f u (unpack f a)), (.vfexp2, fun f _ u a => exp2Op f u (unpack f a)),
  (.vflog2, fun f _ u a => log2Op f u (unpack f a))]

/-- The fused multiply-adds (R291): whether the product and the addend are negated. -/
def fmaTable : List ((BitVec 5 → BitVec 5 → BitVec 5 → BitVec 2 → BitVec 2 → BitVec 1 → BitVec 1 → BitVec 2 → Instr) ×
    Bool × Bool) := [(.vfma, false, false), (.vfms, false, true), (.vfnma, true, false)]

/-- The floating-point compares (R294): the result, and whether a quiet NaN also raises NV. -/
def fpCmpTable : List ((BitVec 3 → BitVec 5 → BitVec 5 → BitVec 2 → BitVec 2 → BitVec 1 → Instr) ×
    (FVal → FVal → Bool) × Bool) := [
  (.vfeq, eqVals, false), (.vflt, ltVals, true), (.vfle, fun x y => ltVals x y || eqVals x y, true),
  (.vfun, fun x y => x.isNan || y.isNan, false), (.vfne, fun x y => !eqVals x y, false)]

end Sys2Proof.Claims

/-- R283 to R291, R293 with R29, R30: the vector arithmetic instructions compute each active lane from the operands
flushed under fzi, in the mode rm names, and complete or take cause 12 as a whole. -/
def Sys2Proof.Claims.VectorFloatInstructionsComputeTheirLanes : Prop :=
  ∀ (vd va vb : BitVec 5) (pg ty rm : BitVec 2) (fzi fzo : BitVec 1) (s : State),
    let f := fpFmt ty
    let a := fpOperand s f fzi va
    let b := fpOperand s f fzi vb
    let d := fpOperand s f fzi vd
    (∀ e ∈ fpBinTable, fpWrites s (e.1 vd va vb pg ty fzi fzo rm) vd pg f.width (fun k =>
      fpOut f fzo [(a k).2, (b k).2] (e.2 f (fpMode s rm) (ufOn s) (a k).1 (b k).1))) ∧
    (∀ e ∈ fpUnTable, fpWrites s (e.1 vd va pg ty fzi fzo rm) vd pg f.width (fun k =>
      fpOut f fzo [(a k).2] (e.2 f (fpMode s rm) (ufOn s) (a k).1))) ∧
    (∀ e ∈ fmaTable, fpWrites s (e.1 vd va vb pg ty fzi fzo rm) vd pg f.width (fun k =>
      let x := unpack f (a k).1
      let y := unpack f (b k).1
      let z := unpack f (d k).1
      fpOut f fzo [(a k).2, (b k).2, (d k).2] (fmaOp f (fpMode s rm) (ufOn s)
        ((mulVals x y).map (fun v => if e.2.1 then v.negate else v)) (x.isSnan || y.isSnan || z.isSnan)
        (if e.2.2 then z.negate else z))))

/-- R289, R292, R296: VFSGN, VFDOT2 and VFCLASS. -/
def Sys2Proof.Claims.SignDotAndClassComputeTheirLanes : Prop :=
  ∀ (vd va vb : BitVec 5) (pg ty rm : BitVec 2) (fzi fzo h : BitVec 1) (s : State),
    let f := fpFmt ty
    let A := fun k => elem (s.me.vr va.toNat) k f.width
    let sb := fun k => (elem (s.me.vr vb.toNat) k f.width).testBit (f.width - 1)
    ((rm = 3 → vb = 0) → fpWrites s (.vfsgn vd va vb pg ty rm) vd pg f.width (fun k =>
      if (unpack f (A k)).isNan then (f.nan, { nv := (unpack f (A k)).isSnan })
      else
        let sa := (A k).testBit (f.width - 1)
        let neg := if rm = 0 then sb k else if rm = 1 then !sb k else if rm = 2 then sa != sb k else false
        (A k % 2 ^ (f.width - 1) + (if neg then 2 ^ (f.width - 1) else 0), .none))) ∧
    (let g : Fmt := if h = 0 then .f16 else .bf16
     let a := fpOperand s g fzi va
     let b := fpOperand s g fzi vb
     let d := fpOperand s .f32 fzi vd
     fpWrites s (.vfdot2 vd va vb pg h fzi fzo rm) vd pg 32 (fun k =>
      let x := fun j => unpack g (a (2 * k + j)).1
      let y := fun j => unpack g (b (2 * k + j)).1
      fpOut .f32 fzo [(a (2 * k)).2, (a (2 * k + 1)).2, (b (2 * k)).2, (b (2 * k + 1)).2, (d k).2]
        (accumulate .f32 (fpMode s rm) (ufOn s) (unpack .f32 (d k).1)
          (groupSum (fpMode s rm) [mulVals (x 0) (y 0), mulVals (x 1) (y 1)]
            ((x 0).isSnan || (x 1).isSnan || (y 0).isSnan || (y 1).isSnan) 0)))) ∧
    fpWrites s (.vfclass vd va pg ty) vd pg f.width (fun k => (2 ^ (match unpack f (A k) with
      | .inf true => 0
      | .fin true m _ => if m = 0 then 3 else if m < 2 ^ f.fbits then 2 else 1
      | .fin false m _ => if m = 0 then 4 else if m < 2 ^ f.fbits then 5 else 6
      | .inf false => 7
      | .nan true => 8
      | .nan false => 9), .none))

/-- R294, R295: a floating-point compare sets every bit of an active element that compares true and clears all others of
p[pd]; VFLT and VFLE raise NV for any NaN, the others for a signalling one; an enabled exception is cause 12. -/
def Sys2Proof.Claims.VectorFloatComparesWriteOnlyActiveElements : Prop :=
  ∀ e ∈ fpCmpTable, ∀ (pd : BitVec 3) (va vb : BitVec 5) (pg ty : BitVec 2) (fzi : BitVec 1) (s : State),
    let f := fpFmt ty
    let w := f.width
    let a := fpOperand s f fzi va
    let b := fpOperand s f fzi vb
    let nv := fun k => let x := unpack f (a k).1; let y := unpack f (b k).1
      if e.2.2 then x.isNan || y.isNan else x.isSnan || y.isSnan
    let es := ((List.range (512 / w)).filter (fun k => activeIn s pg w k)).map
      (fun k => (k, ((a k).2.or (b k).2).or { nv := nv k }))
    ((∀ x ∈ es, x.2.enabled s.me.user.fctl = false) → ∃ p : Word,
      exec (e.1 pd va vb pg ty fzi) s = .next (s.completes (fun c => (c.accrue (es.map (·.2))).setPr pd.toNat p)) ∧
      ∀ k < 512 / w, ∀ j < w / 8, p.getLsbD (k * w / 8 + j) =
        (activeIn s pg w k && e.2.1 (unpack f (a k).1) (unpack f (b k).1))) ∧
    ((∃ x ∈ es, x.2.enabled s.me.user.fctl = true) →
      exec (e.1 pd va vb pg ty fzi) s = .next (s.takeTrap 12 (ieeeValue es s.me.user.fctl)))

namespace Sys2Proof.Claims

/-- What a conversion does with its n source elements of width ws (R297, R29, R30): as `fpWrites`, but a destination
element past the n, or whose source element is inactive, becomes zero. -/
def cvtWrites (s : State) (i : Instr) (vd : BitVec 5) (pg : BitVec 2) (n ws wd : Nat) (lane : Nat → Nat × Exc) : Prop :=
  let es := ((List.range n).filter (fun k => activeIn s pg ws k)).map (fun k => (k, (lane k).2))
  ((∀ e ∈ es, e.2.enabled s.me.user.fctl = false) → ∃ v : VReg,
    exec i s = .next (s.completes (fun c => (c.accrue (es.map (·.2))).setVr vd.toNat v)) ∧
    ∀ k < 512 / wd, elem v k wd = if k < n ∧ activeIn s pg ws k = true then (lane k).1 % 2 ^ wd else 0) ∧
  ((∃ e ∈ es, e.2.enabled s.me.user.fctl = true) → exec i s = .next (s.takeTrap 12 (ieeeValue es s.me.user.fctl)))

/-- A value rounded once to a format (R298, R299): a NaN gives the canonical one, or +0 with NV in E2M1; an infinity
gives an infinity, or the largest finite value with NV where the format has none. -/
def toFormat (f : Fmt) (mode : Mode) (u : Bool) : FVal → Nat × Exc
  | .nan sig => (f.nan, { nv := sig || f == .e2m1 })
  | .inf neg => (f.sign neg + if f.hasInf then f.infCode else f.maxCode, { nv := !f.hasInf })
  | .fin neg m e => roundTo f mode u neg m e false

/-- A value times 2^k, or a NaN under the scale 0xFF (R18, R302). -/
def scaleBy (sc : Nat) (k : Int) : FVal → FVal
  | .nan sig => .nan sig
  | .inf neg => if sc = 255 then .nan false else .inf neg
  | .fin neg m e => if sc = 255 then .nan false else .fin neg m (e + k)

/-- A conversion with a predicate and option words. -/
abbrev CvtForm := BitVec 5 → BitVec 5 → BitVec 2 → BitVec 1 → BitVec 1 → BitVec 2 → Instr

/-- A block-scaled conversion. -/
abbrev BlockForm := BitVec 5 → BitVec 5 → BitVec 5 → BitVec 1 → BitVec 1 → BitVec 2 → Instr

/-- Conversion codes 0 to 9 (R297, R298): source, destination, elements, and whether the conversion is exact. -/
def cvtTable : List (CvtForm × Fmt × Fmt × Nat × Bool) := [
  (.vcvtF32F64, .f64, .f32, 8, false), (.vcvtF64F32, .f32, .f64, 8, true), (.vcvtF16F32, .f32, .f16, 16, false),
  (.vcvtF32F16, .f16, .f32, 16, true), (.vcvtBf16F32, .f32, .bf16, 16, false), (.vcvtF32Bf16, .bf16, .f32, 16, true),
  (.vcvtE4m3F32, .f32, .e4m3, 16, false), (.vcvtE5m2F32, .f32, .e5m2, 16, false), (.vcvtF32E4m3, .e4m3, .f32, 16, true),
  (.vcvtF32E5m2, .e5m2, .f32, 16, true)]

/-- Element j of a register pair of 16 F32 each (R297), flushed under fzi. -/
def pairElem (s : State) (fzi : BitVec 1) (va : BitVec 5) (j : Nat) : Nat × Exc :=
  flushIn .f32 (decide (fzi = 1)) (elem (s.me.vr (va.toNat + j / 16)) (j % 16) 32)

end Sys2Proof.Claims

/-- R297, R298, R299: conversions between floating-point formats round each active element once, under the mode, after
the flush of its input and before the flush of its result. -/
def Sys2Proof.Claims.FloatConversionsRoundEachElementOnce : Prop :=
  ∀ e ∈ cvtTable, ∀ (vd va : BitVec 5) (pg rm : BitVec 2) (fzi fzo : BitVec 1) (s : State),
    let src := e.2.1
    let dst := e.2.2.1
    cvtWrites s (e.1 vd va pg fzi fzo rm) vd pg e.2.2.2.1 src.width dst.width (fun k =>
      let a := flushIn src (decide (fzi = 1)) (elem (s.me.vr va.toNat) k src.width)
      fpOut dst fzo [a.2] (toFormat dst (fpMode s rm) (ufOn s && !e.2.2.2.2) (unpack src a.1)))

/-- R300: conversions from and to integers, and the saturating narrowings, which set SAT exactly when an active element
clamped and never take cause 12. -/
def Sys2Proof.Claims.IntegerConversionsRoundOrSaturate : Prop :=
  (∀ (vd va : BitVec 5) (pg rm : BitVec 2) (fzi fzo : BitVec 1) (s : State),
    let toInt := fun (i : Instr) (f : Fmt) (n : Nat) => cvtWrites s i vd pg n f.width f.width (fun k =>
      let a := flushIn f (decide (fzi = 1)) (elem (s.me.vr va.toNat) k f.width)
      ((toIntOp f.width (fpMode s rm) (unpack f a.1)).1, a.2.or (toIntOp f.width (fpMode s rm) (unpack f a.1)).2))
    let ofInt := fun (i : Instr) (f : Fmt) (n : Nat) => cvtWrites s i vd pg n f.width f.width (fun k =>
      let x := (BitVec.ofNat f.width (elem (s.me.vr va.toNat) k f.width)).toInt
      roundTo f (fpMode s rm) false (decide (x < 0)) x.natAbs 0 false)
    toInt (.vcvtI32F32 vd va pg fzi fzo rm) .f32 16 ∧ toInt (.vcvtI64F64 vd va pg fzi fzo rm) .f64 8 ∧
    ofInt (.vcvtF32I32 vd va pg fzi fzo rm) .f32 16 ∧ ofInt (.vcvtF64I64 vd va pg fzi fzo rm) .f64 8) ∧
  (∀ e ∈ ([(.vcvtI8I32, 8), (.vcvtI16I32, 16)] : List ((BitVec 5 → BitVec 5 → BitVec 2 → Instr) × Nat)),
    ∀ (vd va : BitVec 5) (pg : BitVec 2) (s : State),
    let x := fun k => (BitVec.ofNat 32 (elem (s.me.vr va.toNat) k 32)).toInt
    let y := fun k => max (-(2 ^ (e.2 - 1))) (min (x k) (2 ^ (e.2 - 1) - 1))
    ∃ (v : VReg) (fl : Word),
      exec (e.1 vd va pg) s = .next (s.completes (fun c => { c.setVr vd.toNat v with user := { c.user with fflags := fl } })) ∧
      (∀ k < 512 / e.2, elem v k e.2 = if k < 16 ∧ activeIn s pg 32 k = true then wrapCode e.2 (y k) else 0) ∧
      (fl = if ∃ k < 16, activeIn s pg 32 k = true ∧ x k ≠ y k then s.me.user.fflags ||| 0x80 else s.me.user.fflags))

/-- R297, R301, R302: the block-scaled conversions read or write a register pair of 32 elements under the scale in bits
7:0 of v[vb]; VCVT.E8.F32 computes the scale of a block. -/
def Sys2Proof.Claims.BlockConversionsApplyTheirScale : Prop :=
  (∀ e ∈ ([(.vcvtE2m1F32, .e2m1), (.vcvtE4m3F32Bs, .e4m3)] : List (BlockForm × Fmt)),
    ∀ (vd va vb : BitVec 5) (rm : BitVec 2) (fzi fzo : BitVec 1) (s : State), va.toNat ≤ 30 →
    let sc := elem (s.me.vr vb.toNat) 0 8
    cvtWrites s (e.1 vd va vb fzi fzo rm) vd 0 32 16 e.2.width (fun k =>
      let a := pairElem s fzi va k
      fpOut e.2 fzo [a.2] (toFormat e.2 (fpMode s rm) (ufOn s) (scaleBy sc (127 - (sc : Int)) (unpack .f32 a.1))))) ∧
  (∀ e ∈ ([(.vcvtF32E2m1, .e2m1), (.vcvtF32E4m3Bs, .e4m3)] : List (BlockForm × Fmt)),
    ∀ (vd va vb : BitVec 5) (rm : BitVec 2) (fzi fzo : BitVec 1) (s : State), vd.toNat ≤ 30 →
    let sc := elem (s.me.vr vb.toNat) 0 8
    let lane := fun k =>
      let a := flushIn e.2 (decide (fzi = 1)) (elem (s.me.vr va.toNat) k e.2.width)
      fpOut .f32 fzo [a.2] (toFormat .f32 (fpMode s rm) (ufOn s) (scaleBy sc ((sc : Int) - 127) (unpack e.2 a.1)))
    let es := (List.range 32).map (fun k => (k, (lane k).2))
    ((∀ x ∈ es, x.2.enabled s.me.user.fctl = false) → ∃ v v' : VReg,
      exec (e.1 vd va vb fzi fzo rm) s =
        .next (s.completes (fun c => ((c.accrue (es.map (·.2))).setVr vd.toNat v).setVr (vd.toNat + 1) v')) ∧
      ∀ k < 16, elem v k 32 = (lane k).1 % 2 ^ 32 ∧ elem v' k 32 = (lane (k + 16)).1 % 2 ^ 32) ∧
    ((∃ x ∈ es, x.2.enabled s.me.user.fctl = true) →
      exec (e.1 vd va vb fzi fzo rm) s = .next (s.takeTrap 12 (ieeeValue es s.me.user.fctl)))) ∧
  (∀ (vd va vb : BitVec 5) (rm : BitVec 2) (fzi fzo : BitVec 1) (s : State),
    va.toNat ≤ 30 → (vb = 4 ∨ vb = 5 ∨ vb = 6) →
    let emax : Int := if vb = 4 then 8 else if vb = 5 then 15 else 2
    let x := fun k => unpack .f32 (pairElem s fzi va k).1
    let expOf := fun v => match v with | FVal.fin _ m e => e + (m.log2 : Int) | _ => 0
    ∃ sc : Nat, exec (.vcvtE8F32 vd va vb fzi fzo rm) s = .next (s.completes (fun c =>
        (c.accrue ((List.range 32).map (fun k => (pairElem s fzi va k).2))).setVr vd.toNat (BitVec.ofNat 512 sc))) ∧
      ((∃ k < 32, (x k).isNan = true ∨ (x k).isInf = true) → sc = 255) ∧
      ((∀ k < 32, (x k).isZero = true) → sc = 127) ∧
      ∀ k < 32, (∀ j < 32, (x j).isNan = false ∧ (x j).isInf = false) → (x k).isZero = false →
        (∀ j < 32, (x j).isZero = false → expOf (x j) ≤ expOf (x k)) →
        (sc : Int) = max 0 (min (expOf (x k) - emax + 127) 254))

namespace Sys2Proof.Claims

/-- The magnitude of a code, continued above the largest finite one as if the exponent had no bound (R25, R299). -/
def codeVal (f : Fmt) (c : Nat) : ℚ :=
  if c < 2 ^ f.fbits then c * (2 : ℚ) ^ (f.emin - f.fbits)
  else (2 ^ f.fbits + c % 2 ^ f.fbits : Nat) * (2 : ℚ) ^ (((c / 2 ^ f.fbits : Nat) : Int) - f.bias - f.fbits)

/-- Code c is the rounding of the magnitude x under a mode, for a value of the sign neg, the exponent having no upper bound
(R25). -/
def RoundsTo (f : Fmt) (mode : Mode) (neg : Bool) (x : ℝ) (c : Nat) : Prop :=
  let v := fun c => (codeVal f c : ℝ)
  let below := fun c => v c ≤ x ∧ x < v (c + 1)
  let above := x ≤ v c ∧ (0 < c → v (c - 1) < x)
  let nearest := ∀ d, |v c - x| ≤ |v d - x|
  let tie := fun d => d ≠ c ∧ |v c - x| = |v d - x|
  match mode with
  | .rtz => below c
  | .rdn => if neg then above else below c
  | .rup => if neg then below c else above
  | .rne => nearest ∧ ∀ d, tie d → c % 2 = 0
  | .rmm => nearest ∧ ∀ d, tie d → x < v c
  | .odd => ∃ t, below t ∧ c = if v t = x then t else t / 2 * 2 + 1

/-- The magnitude x is tiny (R23): rounded to the format's precision with an exponent that has no lower bound either, it is
below the smallest normal. It is rounded 2^k times as large, where it is no subnormal. -/
def Tiny (f : Fmt) (mode : Mode) (neg : Bool) (x : ℝ) : Prop :=
  let least : ℝ := (2 : ℝ) ^ f.emin
  x < least ∧ ∃ (k c : Nat), least ≤ x * 2 ^ k ∧ x * 2 ^ k < 2 * least ∧ RoundsTo f mode neg (x * 2 ^ k) c ∧
    (codeVal f c : ℝ) < least * 2 ^ k

/-- A result with its exceptions is the magnitude x > 0 of a sign rounded once (R23, R25, R299): its code, with NX where it
is inexact and UF where it is tiny and is inexact or the underflow trap is enabled; or, above the largest finite code, OF and
NX, with an infinity where the format has one and the mode rounds away from zero there, the largest finite code elsewhere. -/
def Rounded (f : Fmt) (mode : Mode) (ufTrap neg : Bool) (x : ℝ) (r : Nat × Exc) : Prop :=
  ∃ c, RoundsTo f mode neg x c ∧
    (c ≤ f.maxCode → ∃ nx uf, r = (f.sign neg + c, { nx := nx, uf := uf }) ∧ (nx = true ↔ (codeVal f c : ℝ) ≠ x) ∧
      (uf = true ↔ Tiny f mode neg x ∧ (nx = true ∨ ufTrap = true))) ∧
    (f.maxCode < c → r = (f.sign neg + (if f.hasInf = true ∧ (mode = .rne ∨ mode = .rmm ∨ (mode = .rdn ∧ neg = true) ∨
      (mode = .rup ∧ neg = false)) then f.infCode else f.maxCode), { of := true, nx := true }))

/-- A result is a non-zero real number rounded once. -/
def OnceRounded (f : Fmt) (mode : Mode) (ufTrap : Bool) (x : ℝ) (r : Nat × Exc) : Prop :=
  (0 < x ∧ Rounded f mode ufTrap false x r) ∨ (x < 0 ∧ Rounded f mode ufTrap true (-x) r)

/-- An integer is a real number rounded under a mode (R25, R300). -/
def RoundsToInt (mode : Mode) (x : ℝ) (q : Int) : Prop :=
  match mode with
  | .rtz => (0 ≤ x → (q : ℝ) ≤ x ∧ x < q + 1) ∧ (x < 0 → x ≤ q ∧ (q : ℝ) - 1 < x)
  | .rdn => (q : ℝ) ≤ x ∧ x < q + 1
  | .rup => x ≤ q ∧ (q : ℝ) - 1 < x
  | .rne => |(q : ℝ) - x| ≤ 1 / 2 ∧ (|(q : ℝ) - x| = 1 / 2 → Even q)
  | .rmm => |(q : ℝ) - x| ≤ 1 / 2 ∧ (|(q : ℝ) - x| = 1 / 2 → |x| < |(q : ℝ)|)
  | .odd => x = q ∨ (Odd q ∧ |(q : ℝ) - x| < 1 ∧ ∀ p : Int, x ≠ p)

/-- The number that a finite value stands for. -/
def valueOf : FVal → ℚ
  | .fin neg m e => (if neg then -1 else 1) * m * (2 : ℚ) ^ e
  | _ => 0

end Sys2Proof.Claims

/-- R21 to R23, R25, R287, R291 to R293, R299, R300: a finite code stands for its value; rounding a non-zero magnitude m·2^e to
any format under any mode gives the code that the mode names, and exactly the exceptions NX, UF, OF of R23 and R25. Sums,
products, quotients, square roots, fused products, group sums, reciprocals, 2^x and log2 x are the exact result rounded once;
an exact zero has the sign of IEEE 754; NaN operands, infinities and zeros give the special results, with NV and DZ; and a
float becomes the integer its mode names, or the end of the range with NV. -/
def Obligations.RoundingIsCorrectInEveryMode : Prop :=
  ∀ (f : Fmt) (mode : Mode) (u : Bool),
    (∀ (neg : Bool), ∀ c ≤ f.maxCode, ∃ m e, unpack f (f.sign neg + c) = .fin neg m e ∧ m * (2 : ℚ) ^ e = codeVal f c) ∧
    (∀ (neg : Bool) (m : Nat) (e : Int), m ≠ 0 → Rounded f mode u neg (m * (2 : ℝ) ^ e) (roundTo f mode u neg m e false)) ∧
    (∀ (a b d : Bool) (m n l : Nat) (j k i : Int),
      let x := FVal.fin a m j
      let y := FVal.fin b n k
      let z := FVal.fin d l i
      let vx : ℝ := valueOf x
      let vy : ℝ := valueOf y
      let vz : ℝ := valueOf z
      let exact := fun (v : ℝ) r => v ≠ 0 → OnceRounded f mode u v r
      exact (vx + vy) (addVals f mode u x y) ∧
      (vx + vy = 0 → addVals f mode u x y = (f.sign (if m = 0 ∧ a = b then a else mode == .rdn), {})) ∧
      exact (vx * vy) (mulOp f mode u x y) ∧ (vx * vy = 0 → mulOp f mode u x y = (f.sign (a != b), {})) ∧
      (n ≠ 0 → exact (vx / vy) (divOp f mode u x y) ∧ (m = 0 → divOp f mode u x y = (f.sign (a != b), {}))) ∧
      (a = false → exact (Real.sqrt vx) (sqrtOp f mode u x)) ∧
      exact (vx * vy + vz) (fmaOp f mode u (mulVals x y) false z) ∧
      (m ≠ 0 → OnceRounded f .rne u vx⁻¹ (rcpOp f u x)) ∧
      (m ≠ 0 → a = false → OnceRounded f .rne u (Real.sqrt vx)⁻¹ (rsqOp f u x)) ∧
      (m < 2 ^ (f.fbits + 1) → OnceRounded f .rne u ((2 : ℝ) ^ vx) (exp2Op f u x) ∧
        (m ≠ 0 → a = false → (vx = 1 → log2Op f u x = (0, {})) ∧ (vx ≠ 1 → OnceRounded f .rne u (Real.logb 2 vx) (log2Op f u x)))) ∧
      (∀ (ps : List (Bool × Nat × Int)) (scale : Int),
        let vs := ps.map (fun p => FVal.fin p.1 p.2.1 p.2.2)
        exact (vz + (2 : ℝ) ^ scale * ((vs.map valueOf).sum : ℚ)) (accumulate f mode u z (groupSum mode (vs.map some) false scale))) ∧
      (∀ w : Nat, 1 ≤ w → ∃ q, RoundsToInt mode vx q ∧
        let lo : Int := -2 ^ (w - 1)
        let hi : Int := 2 ^ (w - 1) - 1
        (q < lo → toIntOp w mode x = ((lo % 2 ^ w).toNat, { nv := true })) ∧
        (hi < q → toIntOp w mode x = ((hi % 2 ^ w).toNat, { nv := true })) ∧
        (lo ≤ q → q ≤ hi → toIntOp w mode x = ((q % 2 ^ w).toNat, { nx := decide ((q : ℚ) ≠ valueOf x) })))) ∧
    (∀ x y : FVal, x.isNan = true ∨ y.isNan = true →
      ∀ r ∈ [addVals f mode u x y, mulOp f mode u x y, divOp f mode u x y], r = (f.nan, { nv := x.isSnan || y.isSnan })) ∧
    (∀ (s : Bool), ∀ r ∈ [sqrtOp f mode u (.nan s), rcpOp f u (.nan s), rsqOp f u (.nan s), exp2Op f u (.nan s), log2Op f u (.nan s)],
      r = (f.nan, { nv := s })) ∧
    (∀ (a b : Bool) (m : Nat) (e : Int),
      let x := FVal.fin a m e
      let inf := fun neg => f.sign neg + f.infCode
      (∀ r ∈ [addVals f mode u (.inf a) x, addVals f mode u x (.inf a), addVals f mode u (.inf a) (.inf a)], r = (inf a, {})) ∧
      (∀ r ∈ [addVals f mode u (.inf a) (.inf !a), mulOp f mode u (.inf b) (.fin a 0 e), mulOp f mode u (.fin a 0 e) (.inf b),
          divOp f mode u (.inf a) (.inf b), divOp f mode u (.fin a 0 e) (.fin b 0 e), sqrtOp f mode u (.inf true), rsqOp f u (.inf true),
          log2Op f u (.inf true)], r = (f.nan, { nv := true })) ∧
      (m ≠ 0 → mulOp f mode u (.inf b) x = (inf (a != b), {}) ∧ divOp f mode u x (.fin b 0 e) = (inf (a != b), { dz := true }) ∧
        (a = true → ∀ r ∈ [sqrtOp f mode u x, rsqOp f u x, log2Op f u x], r = (f.nan, { nv := true }))) ∧
      mulOp f mode u (.inf a) (.inf b) = (inf (a != b), {}) ∧ divOp f mode u (.inf b) x = (inf (a != b), {}) ∧
      divOp f mode u x (.inf b) = (f.sign (a != b), {}) ∧ rcpOp f u (.inf b) = (f.sign b, {}) ∧ rsqOp f u (.inf false) = (0, {}) ∧
      rcpOp f u (.fin a 0 e) = (inf a, { dz := true }) ∧ rsqOp f u (.fin a 0 e) = (inf a, { dz := true }) ∧
      log2Op f u (.fin a 0 e) = (inf true, { dz := true }) ∧ sqrtOp f mode u (.fin a 0 e) = (f.sign a, {}) ∧
      sqrtOp f mode u (.inf false) = (inf false, {}) ∧ exp2Op f u (.inf false) = (inf false, {}) ∧ exp2Op f u (.inf true) = (0, {}) ∧
      log2Op f u (.inf false) = (inf false, {}) ∧ fmaOp f mode u none b x = (f.nan, { nv := true }) ∧
      (∀ w, 1 ≤ w → toIntOp w mode (.nan a) = (0, { nv := true }) ∧
        toIntOp w mode (.inf a) = (if a then 2 ^ (w - 1) else 2 ^ (w - 1) - 1, { nv := true })))

/-- R229, R234 to R242, R304 and the tables they name: an instruction whose word carries a code its table does not list
takes cause 0 with its word and does nothing else; no spill or refill is in flight, as none is but for a core parked at a
well-formed kerf instruction. -/
def Sys2Proof.Claims.WordsWithUnlistedCodesTakeTheIllegalTrap : Prop :=
  ∀ (i : Instr) (w : IWord) (s : State), encode i = some w → i.wellFormed = false → s.me.kerfOp = none →
    exec i s = .next (s.takeTrap 0 (w.zeroExtend 64))

namespace Sys2Proof.Claims

/-- The vector loads and stores of one register each, by whether they load: instruction, element size in bytes, the
address of element k (R314), and whether rb names a general register. -/
def vmemTable (load : Bool) (s : State) (vd ra rb : BitVec 5) (pg esize : BitVec 2) (off : BitVec 4) :
    List (Instr × Nat × (Nat → Word) × Bool) :=
  let a := s.gr ra
  let z := 2 ^ esize.toNat
  let wide := esize.extractLsb' 0 1
  let zw := if wide = 0 then 4 else 8
  let unit := fun k => a + BitVec.ofNat 64 (64 * off.toNat + k * z)
  let strided := fun k => a + BitVec.ofNat 64 k * s.gr rb
  let indexed := fun k => a + sextLow (8 * zw) (BitVec.ofNat 64 (elem (s.me.vr rb.toNat) k (8 * zw)))
  if load then [(.vld vd ra pg esize off, z, unit, false), (.vlds vd ra rb pg esize, z, strided, true),
    (.vgath vd ra rb pg wide, zw, indexed, false)]
  else [(.vst vd ra pg esize off, z, unit, false), (.vsts vd ra rb pg esize, z, strided, true),
    (.vscat vd ra rb pg wide, zw, indexed, false)]

/-- The active elements at z bytes each, ascending. -/
def activesAt (s : State) (pg : BitVec 2) (z : Nat) : List Nat :=
  (List.range (512 / (8 * z))).filter (fun k => activeIn s pg (8 * z) k)

/-- The value at a place: from memory, or from the core's cached copy of a paged line. -/
def readsAs (s : State) (p : Place) (z : Nat) (bs : List Byte) : Prop :=
  bs = Memory.readBytes s.mem p.key z ∨ (p.paged = true ∧ cachedBytes s.me.l1d p.key z = some bs)

/-- What a vector load keeps: all registers but v[vd], and memory. -/
def vloadFrame (vd : BitVec 5) (s t : State) : Prop :=
  t.me.pc = s.me.pc + 4 ∧ t.mem = s.mem ∧ (∀ n ≠ vd.toNat, t.me.vr n = s.me.vr n) ∧
  regFrame 0 s { t with me := { t.me with v := s.me.v } }

end Sys2Proof.Claims

/-- R313, R314, R316: a vector load whose checks pass for every active element completes: an active element of v[vd] is
the little-endian value at its place, an inactive one keeps its value and is not checked; when an element's check fails
the instruction stops there with nothing performed. -/
def Sys2Proof.Claims.VectorLoadsReadTheActiveElements : Prop :=
  ∀ (vd ra rb : BitVec 5) (pg esize : BitVec 2) (off : BitVec 4) (s : State),
  ∀ e ∈ vmemTable true s vd ra rb pg esize off,
    s.me.plainReg ra = true → (e.2.2.2 = true → s.me.plainReg rb = true) →
    (∀ ps u, checkElems e.2.1 .load e.2.2.1 (activesAt s pg e.2.1) s = .ok (ps, u) →
      ∃ t, exec e.1 s = .next t ∧ vloadFrame vd s t ∧
        ∀ k < 512 / (8 * e.2.1),
          (activeIn s pg (8 * e.2.1) k = false → elem (t.me.vr vd.toNat) k (8 * e.2.1) = elem (s.me.vr vd.toNat) k (8 * e.2.1)) ∧
          (activeIn s pg (8 * e.2.1) k = true → ∃ p bs, (k, p) ∈ ps ∧ readsAs s p e.2.1 bs ∧
            elem (t.me.vr vd.toNat) k (8 * e.2.1) = leVal bs)) ∧
    (∀ x, checkElems e.2.1 .load e.2.2.1 (activesAt s pg e.2.1) s = .error x → exec e.1 s = .next (s.stopped e.1 x))

/-- R314, R316: a vector store whose checks pass for every active element writes the active elements in ascending order,
so that of two on one location the higher index remains; every byte outside the stored elements stays; when an
element's check fails nothing is stored. -/
def Sys2Proof.Claims.VectorStoresWriteTheActiveElementsInOrder : Prop :=
  ∀ (vd ra rb : BitVec 5) (pg esize : BitVec 2) (off : BitVec 4) (s : State),
  ∀ e ∈ vmemTable false s vd ra rb pg esize off,
    s.me.plainReg ra = true → (e.2.2.2 = true → s.me.plainReg rb = true) →
    (∀ ps u, checkElems e.2.1 .store e.2.2.1 (activesAt s pg e.2.1) s = .ok (ps, u) →
      ∃ t, exec e.1 s = .next t ∧ t.me.pc = s.me.pc + 4 ∧ regFrame 0 s { t with mem := s.mem } ∧
        ps.map (·.1) = activesAt s pg e.2.1 ∧
        t.mem = ps.foldl (fun m x => Memory.writeBytes m x.2.key
          (leBytes e.2.1 (elem (s.me.vr vd.toNat) x.1 (8 * e.2.1)))) s.mem ∧
        (Memory.wf s.mem = true → ∀ a, (∀ x ∈ ps, a < x.2.key ∨ x.2.key + e.2.1 ≤ a) →
          Memory.read a t.mem = Memory.read a s.mem)) ∧
    (∀ x, checkElems e.2.1 .store e.2.2.1 (activesAt s pg e.2.1) s = .error x → exec e.1 s = .next (s.stopped e.1 x))

/-- R314: VLDB reads its one element once and writes it into every active element; with none active it reads nothing. -/
def Sys2Proof.Claims.VldbBroadcastsOneElement : Prop :=
  ∀ (vd ra : BitVec 5) (pg esize : BitVec 2) (off : BitVec 4) (s : State), s.me.plainReg ra = true →
    let z := 2 ^ esize.toNat
    let a := s.gr ra + BitVec.ofNat 64 (64 * off.toNat)
    let i := Instr.vldb vd ra pg esize off
    (activesAt s pg z = [] → exec i s = .next (s.completes id)) ∧
    (activesAt s pg z ≠ [] → ∀ p u, place a z .load true s = .ok (p, u) → u.eccError p.key z = false →
      ∃ t bs, exec i s = .next t ∧ vloadFrame vd s t ∧ readsAs s p z bs ∧ ∀ k < 512 / (8 * z),
        elem (t.me.vr vd.toNat) k (8 * z) =
          if activeIn s pg (8 * z) k then leVal bs else elem (s.me.vr vd.toNat) k (8 * z)) ∧
    (activesAt s pg z ≠ [] → ∀ x, place a z .load true s = .error x → exec i s = .next (s.stopped i x))

namespace Sys2Proof.Claims

/-- The location of an address of die shared memory. -/
def sharedPlace (va : Word) : Nat := match windowOf va.toNat with | .shared d o => sharedKey d o | _ => 0

/-- VSTA's operations (R315, R38): FADD rounds to nearest even. -/
def vstaTable : List ((BitVec 5 → BitVec 5 → BitVec 2 → BitVec 2 → Instr) × (BitVec 2 → Nat) × Bool × (Nat → Nat → Nat → Nat)) := [
  (.vstaAdd, fun e => 2 ^ e.toNat, false, fun w a b => (a + b) % 2 ^ w),
  (.vstaMax, fun e => 2 ^ e.toNat, false, fun w a b => if (BitVec.ofNat w a).toInt < (BitVec.ofNat w b).toInt then b else a),
  (.vstaMin, fun e => 2 ^ e.toNat, false, fun w a b => if (BitVec.ofNat w a).toInt < (BitVec.ofNat w b).toInt then a else b),
  (fun vs ra pg e => .vstaFadd vs ra pg (e.extractLsb' 0 1), fun e => if e.extractLsb' 0 1 = 0 then 4 else 8, true,
    fun w a b => addRne (if w = 32 then .f32 else .f64) a b)]

end Sys2Proof.Claims

/-- R315, R316: VSTA whose active elements are all aligned and in pages of die shared memory that the context owns
performs one operation each at the banks and completes; a misaligned or foreign first active element is its cause, FADD
in deterministic mode cause 13, with nothing performed. -/
def Sys2Proof.Claims.VstaPerformsOneBankOperationPerElement : Prop :=
  ∀ e ∈ vstaTable, ∀ (vs ra : BitVec 5) (pg esize : BitVec 2) (s : State), s.me.plainReg ra = true →
    let z := e.2.1 esize
    let i := e.1 vs ra pg esize
    let A := fun k => s.gr ra + BitVec.ofNat 64 (k * z)
    let here := fun k => (A k).toNat % z = 0 ∧ ∃ d o, windowOf (A k).toNat = .shared d o ∧ s.ownsPage s.me.ctx d o = true
    ((∀ k ∈ activesAt s pg z, here k) → (s.me.det = false ∨ (s.me.inExchange = true ∧ e.2.2.1 = false)) →
      ∃ t, exec i s = .next t ∧ t.me = (s.completes id).me ∧
        t.mem = (activesAt s pg z).foldl (fun m k => Memory.writeBytes m (sharedPlace (A k)) (leBytes z (e.2.2.2 (8 * z)
          (leVal (Memory.readBytes m (sharedPlace (A k)) z)) (elem (s.me.vr vs.toNat) k (8 * z))))) s.mem) ∧
    (∀ k rest, activesAt s pg z = k :: rest →
      ((A k).toNat % z ≠ 0 → exec i s = .next (s.takeTrap 2 (A k))) ∧
      ((A k).toNat % z = 0 → (∀ d o, windowOf (A k).toNat ≠ .shared d o) → exec i s = .next (s.takeTrap 3 (A k))) ∧
      (here k → e.2.2.1 = true → s.me.det = true → exec i s = .next (s.takeTrap 13 (wordOf i))))

namespace Sys2Proof.Claims

/-- An instruction of the reversible class with all its fields. -/
abbrev RevForm := BitVec 5 → BitVec 5 → BitVec 5 → BitVec 2 → BitVec 4 → Instr

/-- The pairs with one slot a lane (R324, R330): the forward and undo instructions, fn of the forward, TYPE, slot bytes,
whether k counts, and the lane functions: forward of k, x, f; undo of k, y, f, slot. -/
structure Pair where
  fwd : RevForm
  undo : RevForm
  fn : Nat
  ty : Nat
  slot : Nat
  useK : Bool
  lane : Nat → Nat → Nat → Lane
  back : Nat → Nat → Nat → Nat → Lane

/-- RMULF, RMULQ, RSHRA and RADDF with their undos. -/
def pairTable : List Pair := [
  { fwd := fun vd va vb pg _ => .rmulf vd va vb pg, undo := fun vd va vb pg _ => .umulf vd va vb pg, fn := 0, ty := 1, slot := 4,
    useK := false, lane := fun _ x f => laneRmulf x f, back := fun _ y f t => laneUmulf y f t },
  { fwd := .rmulq, undo := .umulq, fn := 2, ty := 2, slot := 2, useK := true, lane := laneRmulq, back := laneUmulq },
  { fwd := fun vd va _ pg k => .rshra vd va pg k, undo := fun vd va _ pg k => .ushra vd va pg k, fn := 4, ty := 2, slot := 2,
    useK := true, lane := fun k x _ => laneRshra k x, back := fun k y _ t => laneUshra k y t },
  { fwd := fun vd va vb pg _ => .raddf vd va vb pg, undo := fun vd va vb pg _ => .uaddf vd va vb pg, fn := 10, ty := 1, slot := 4,
    useK := false, lane := fun _ x f => laneRaddf x f, back := fun _ y f t => laneUaddf y f t }]

/-- A header (R323). -/
def header (tag ty k len seq mask : Nat) : Nat :=
  tag * 2 ^ 56 + ty * 2 ^ 52 + k * 2 ^ 48 + len * 2 ^ 32 + seq * 2 ^ 16 + mask

/-- The lane mask (R323). -/
def maskOf (s : State) (pg : BitVec 2) : Nat := ((List.range 16).map (fun k => if activeIn s pg 32 k then 2 ^ k else 0)).sum

/-- The mask of the active lanes that fault. -/
def faultsOf (s : State) (pg : BitVec 2) (lane : Nat → Lane) : Nat :=
  ((List.range 16).map (fun k => if activeIn s pg 32 k && (lane k).isNone then 2 ^ k else 0)).sum

/-- No transfer of channel 63 that the current instruction started has failed. -/
def kerfFine (s : State) : Prop := ∀ o, s.me.kerfOp = some o → o.failed = none

/-- The current instruction's transfer is forgotten. -/
def State.noKerf (s : State) : State := s.updMe (fun c => { c with kerfOp := none })

/-- A record is pushed on the head: payload, then header (R323); KSEQ counts. -/
def pushed (c : Core) (payload : List Byte) (h : Nat) : Core :=
  { c with kerfHead := c.kerfHead ++ payload ++ leBytes 8 h, user := { c.user with kseq := c.user.kseq + 1 }, kerfOp := none }

/-- A payload of one slot a lane: an inactive lane's slot is zero (R324). -/
def isSlots (s : State) (pg : BitVec 2) (w : Nat) (lane : Nat → Lane) (payload : List Byte) : Prop :=
  payload.length = 16 * w ∧ ∀ k < 16, leVal ((payload.drop (w * k)).take w) =
    if activeIn s pg 32 k then ((lane k).getD (0, 0)).2 % 2 ^ (8 * w) else 0

/-- The result lanes: an inactive one keeps its value. -/
def isLanes (s : State) (pg : BitVec 2) (vd : BitVec 5) (lane : Nat → Lane) (v : VReg) : Prop :=
  ∀ k < 16, elem v k 32 = if activeIn s pg 32 k then ((lane k).getD (0, 0)).1 % 2 ^ 32 else elem (s.me.vr vd.toNat) k 32

end Sys2Proof.Claims

/-- R329, R330, R331, R323, R324: RMULF, RMULQ, RSHRA and RADDF: with no faulting lane and room in the head they push the
record of the discarded bits and write the result lanes; a faulting active lane is cause 11 with the mask of the
faulting lanes, and nothing is pushed or written. -/
def Sys2Proof.Claims.ForwardInstructionsPushWhatTheyDiscard : Prop :=
  ∀ e ∈ pairTable, ∀ (vd va vb : BitVec 5) (pg : BitVec 2) (k : BitVec 4) (s : State), (e.fn = 4 → k ≠ 0) → kerfFine s →
    let lane := fun j => e.lane k.toNat (elem (s.me.vr va.toNat) j 32) (elem (s.me.vr vb.toNat) j 32)
    let kk := if e.useK then k.toNat else 0
    let h := header e.fn e.ty kk (16 * e.slot) s.me.user.kseq.toNat (maskOf s pg)
    (faultsOf s pg lane ≠ 0 → exec (e.fwd vd va vb pg k) s =
      .next ((State.noKerf s).takeTrap 11 (BitVec.ofNat 64 (faultsOf s pg lane)))) ∧
    (faultsOf s pg lane = 0 → s.me.kerfHead.length + 8 + 16 * e.slot ≤ 4096 → ∃ v payload,
      exec (e.fwd vd va vb pg k) s = .next (s.completes (fun c => (pushed c payload h).setVr vd.toNat v)) ∧
      isSlots s pg e.slot lane payload ∧ isLanes s pg vd lane v)

/-- R331, R329, R330: the undos of those four: on a record of their own forward instruction with their k and lane mask,
and no faulting lane, they pop it and write the input lanes; an empty stack is cause 10 with KSP, any other header cause 8
with the header, a faulting lane cause 11, each with nothing popped or written. -/
def Sys2Proof.Claims.UndoInstructionsPopTheirOwnRecord : Prop :=
  ∀ e ∈ pairTable, ∀ (vd va vb : BitVec 5) (pg : BitVec 2) (k : BitVec 4) (s : State), (e.fn = 4 → k ≠ 0) → kerfFine s →
    s.me.kerfBad = [] →
    let i := e.undo vd va vb pg k
    let kk := if e.useK then k.toNat else 0
    (s.me.kerfHead = [] → s.me.kerfRB = 0 → s.me.kerfBB = 0 → exec i s = .next ((State.noKerf s).takeTrap 10 s.me.ksp)) ∧
    (∀ (rest payload : List Byte) (tag ty k' len seq mask : Nat), payload.length = len → len % 8 = 0 → 8 + len ≤ 4096 →
      tag < 256 → ty < 16 → k' < 16 → seq < 65536 → mask < 65536 →
      s.me.kerfHead = rest ++ payload ++ leBytes 8 (header tag ty k' len seq mask) →
      let lane := fun j => e.back k.toNat (elem (s.me.vr va.toNat) j 32) (elem (s.me.vr vb.toNat) j 32)
        (leVal ((payload.drop (e.slot * j)).take e.slot))
      ((tag ≠ e.fn ∨ ty ≠ e.ty ∨ k' ≠ kk ∨ len ≠ 16 * e.slot ∨ mask ≠ maskOf s pg) →
        exec i s = .next ((State.noKerf s).takeTrap 8 (BitVec.ofNat 64 (header tag ty k' len seq mask)))) ∧
      (tag = e.fn → ty = e.ty → k' = kk → len = 16 * e.slot → mask = maskOf s pg →
        (faultsOf s pg lane ≠ 0 → exec i s = .next ((State.noKerf s).takeTrap 11 (BitVec.ofNat 64 (faultsOf s pg lane)))) ∧
        (faultsOf s pg lane = 0 → ∃ v,
          exec i s = .next (s.completes (fun c => { c.setVr vd.toNat v with kerfHead := rest, kerfOp := none })) ∧
          isLanes s pg vd lane v)))

/-- R330: used on the slot its forward instruction pushed, with the same f and k, every undo restores the lane exactly:
RMULF, RMULQ, RSHRA and RADDF on every pair of 32-bit lanes that does not fault. -/
def Obligations.EveryUndoRestoresItsForwardInput : Prop :=
  ∀ e ∈ pairTable, ∀ (k x f y t : Nat), k < 16 → x < 2 ^ 32 → f < 2 ^ 32 → e.lane k x f = some (y, t) →
    y < 2 ^ 32 ∧ t < 2 ^ (8 * e.slot) ∧ ∃ z, e.back k y f t = some (x, z)

/-- R330, R324, R329: RNRW, UNRW, RSELZ and USELZ: what they push, pop and write. -/
def Sys2Proof.Claims.NarrowAndSelectPairsPushAndPop : Prop :=
  ∀ (vd va : BitVec 5) (pg : BitVec 2) (s : State), kerfFine s → s.me.kerfBad = [] →
    let x := fun j => elem (s.me.vr va.toNat) j 32
    let act := fun j => activeIn s pg 32 j
    let zs := (List.range 16).filter (fun j => act j && (x j).testBit 31)
    (s.me.kerfHead.length + 40 ≤ 4096 → ∃ v payload,
      exec (.rnrw vd va pg) s = .next (s.completes (fun c =>
        (pushed c payload (header 6 1 0 32 s.me.user.kseq.toNat (maskOf s pg))).setVr vd.toNat v)) ∧
      isSlots s pg 2 (fun j => some (0, x j)) payload ∧
      ∀ j < 32, elem v j 16 = if j < 16 ∧ act j = true then x j / 2 ^ 16 else 0) ∧
    (∀ (rest payload : List Byte) (seq : Nat), payload.length = 32 → seq < 65536 →
      s.me.kerfHead = rest ++ payload ++ leBytes 8 (header 6 1 0 32 seq (maskOf s pg)) → ∃ v,
      exec (.unrw vd va pg) s = .next (s.completes (fun c => { c.setVr vd.toNat v with kerfHead := rest, kerfOp := none })) ∧
      ∀ j < 16, elem v j 32 = if act j then
        elem (s.me.vr va.toNat) j 16 * 2 ^ 16 + leVal ((payload.drop (2 * j)).take 2) else 0) ∧
    (s.me.kerfHead.length + 80 ≤ 4096 → ∃ v payload,
      exec (.rselz vd va pg) s = .next (s.completes (fun c =>
        (pushed c payload (header 8 2 0 payload.length s.me.user.kseq.toNat (maskOf s pg))).setVr vd.toNat v)) ∧
      payload = leBytes 8 (zs.map (fun j => 2 ^ j)).sum ++ zs.flatMap (fun j => leBytes 4 (x j)) ++
        List.replicate (4 * (zs.length % 2)) 0 ∧
      isLanes s pg vd (fun j => some (if (x j).testBit 31 then 0 else x j, 0)) v) ∧
    (∀ (rest : List Byte) (z : List Nat) (old : Nat → Nat) (seq : Nat), seq < 65536 →
      z = (List.range 16).filter (fun j => z.contains j) → (∀ j ∈ z, act j = true ∧ x j = 0 ∧ old j < 2 ^ 32) →
      s.me.kerfHead = rest ++ (leBytes 8 (z.map (fun j => 2 ^ j)).sum ++ z.flatMap (fun j => leBytes 4 (old j)) ++
        List.replicate (4 * (z.length % 2)) 0) ++
        leBytes 8 (header 8 2 0 (8 + 4 * z.length + 4 * (z.length % 2)) seq (maskOf s pg)) → ∃ v,
      exec (.uselz vd va pg) s = .next (s.completes (fun c => { c.setVr vd.toNat v with kerfHead := rest, kerfOp := none })) ∧
      isLanes s pg vd (fun j => some (if z.contains j then old j else x j, 0)) v)

/-- R332: KMARK completes and pushes a marker; KCHK completes and reads the top header without popping, 0 on an empty
stack; KDROP completes and pops through the newest marker of its id, and takes cause 10 with KSP when there is none. The
head holds no uncorrectable error. -/
def Sys2Proof.Claims.MarkersDelimitTheKerfStack : Prop :=
  ∀ (r : BitVec 5) (s : State), s.me.plainReg r = true → kerfFine s → s.me.kerfBad = [] →
    let id := (s.gr r).toNat % 2 ^ 16
    (s.me.kerfHead.length + 8 ≤ 4096 → exec (.kmark r) s =
      .next (s.completes (fun c => pushed c [] (header 0xFF 0 0 0 s.me.user.kseq.toNat id)))) ∧
    (s.me.kerfHead = [] → s.me.kerfRB = 0 → s.me.kerfBB = 0 →
      exec (.kchk r) s = .next (s.completes (fun c => { c.withG r 0 with kerfOp := none })) ∧
      exec (.kdrop r) s = .next ((State.noKerf s).takeTrap 10 s.me.ksp)) ∧
    (∀ (rest : List Byte) (h : Nat), h < 2 ^ 64 → s.me.kerfHead = rest ++ leBytes 8 h →
      exec (.kchk r) s = .next (s.completes (fun c => { c.withG r (BitVec.ofNat 64 h) with kerfOp := none }))) ∧
    (∀ (rest : List Byte) (seq : Nat) (records : List (List Byte × Nat × Nat × Nat × Nat × Nat)), seq < 65536 →
      (∀ q ∈ records, q.1.length % 8 = 0 ∧ q.1.length < 65536 ∧ q.2.1 < 256 ∧ q.2.2.1 < 16 ∧ q.2.2.2.1 < 16 ∧
        q.2.2.2.2.1 < 65536 ∧ q.2.2.2.2.2 < 65536 ∧ ¬(q.2.1 = 0xFF ∧ q.2.2.2.2.2 = id)) →
      s.me.kerfHead = rest ++ leBytes 8 (header 0xFF 0 0 0 seq id) ++ records.flatMap (fun q =>
        q.1 ++ leBytes 8 (header q.2.1 q.2.2.1 q.2.2.2.1 q.1.length q.2.2.2.2.1 q.2.2.2.2.2)) →
      exec (.kdrop r) s = .next (s.completes (fun c => { c with kerfHead := rest, kerfOp := none })))

/-- R327: a pop that meets an uncorrectable error in its record takes cause 22 and pops nothing: a record whole in the head
with an error in its header, for every undo and for KCHK; the address is the model's reading (log 21). -/
def Sys2Proof.Claims.ErrorsInTheHeadStopAPop : Prop :=
  ∀ (s : State) (i : Instr), kerfFine s → 8 ≤ s.me.kerfHead.length →
    (∃ b ∈ s.me.kerfBad, s.me.kerfHead.length - 8 ≤ b ∧ b < s.me.kerfHead.length) →
    ((∃ e ∈ pairTable, ∃ vd va vb pg k, (e.fn = 4 → k ≠ 0) ∧ i = e.undo vd va vb pg k) ∨ (∃ r, i = .kchk r) ∨
      (∃ vd va pg, i = .unrw vd va pg ∨ i = .uselz vd va pg)) →
    exec i s = .next ((State.noKerf s).takeTrap 22 (s.me.regionAddr (s.me.kerfDepth - 8)))

/-- R325, R326, R327, R332: a push that does not fit in the head first moves the head's oldest 1,024 bytes to the region; with no
room there it starts a spill and waits, or takes cause 9 with KSP when the region cannot spill. KDROP whose search must go
on in the backing starts a refill of channel 63 and waits (R332). KERF_SPILL_COMPLETE and KERF_REFILL_COMPLETE: once the
4,096 bytes of the block have been moved, the levels change by them and the transfer is done, but a block that KDROP's search
reads leaves the levels (log 21); before that nothing changes. A transfer that has failed is the trap of the well-formed instruction that needed it, the
address being the one met (log 21). -/
def Sys2Proof.Claims.KerfLevelsMoveAsTheStackGrowsAndShrinks : Prop :=
  ∀ (s : State),
    (∀ (ra : BitVec 5), s.me.plainReg ra = true → kerfFine s → 4096 < s.me.kerfHead.length + 8 → s.me.kerfHead.length ≤ 4096 →
      (s.me.kerfRB + 1024 ≤ s.me.kerfRS → exec (.kmark ra) s = exec (.kmark ra) (State.headToRegion s)) ∧
      (s.me.kerfRS < s.me.kerfRB + 1024 → (s.me.kerfRB < 4096 ∨ s.me.backCap < s.me.kerfBB + 4096) →
        exec (.kmark ra) s = .next ((State.noKerf s).takeTrap 9 s.me.ksp)) ∧
      (s.me.kerfRS < s.me.kerfRB + 1024 → 4096 ≤ s.me.kerfRB → s.me.kerfBB + 4096 ≤ s.me.backCap →
        exec (.kmark ra) s = .next ((s.updMe (fun c => { c with
          kerfOp := some { spill := true, moved := 0, done := false, search := none, failed := none }
          faultWords := c.faultWords.filter (fun w => w.qid != 63) })).park .kerf 0))) ∧
    (∀ ra : BitVec 5, s.me.plainReg ra = true → kerfFine s → s.me.kerfHead = [] → s.me.kerfRB = 0 → 8 ≤ s.me.kerfBB →
      exec (.kdrop ra) s = .next ((s.updMe (fun c => { c with
        kerfOp := some { spill := false, moved := 0, done := false, search := some [], failed := none }
        faultWords := c.faultWords.filter (fun w => w.qid != 63) })).park .kerf 0)) ∧
    (∀ n, 4096 ≤ n → s.me.kerfOp = some { spill := true, moved := n, done := false, search := none, failed := none } →
      exec .kerfSpillComplete s = .next (s.updMe (fun c => ({ c with
        kerfOp := some { spill := true, moved := n, done := true, search := none, failed := none }
        kerfBB := c.kerfBB + 4096, kerfRB := c.kerfRB - 4096 } : Core).countEvent 7 1))) ∧
    (∀ n, 4096 ≤ n → s.me.kerfOp = some { spill := false, moved := n, done := false, search := none, failed := none } →
      exec .kerfRefillComplete s = .next (s.updMe (fun c => { c with
        kerfOp := some { spill := false, moved := n, done := true, search := none, failed := none }
        kerfBB := c.kerfBB - 4096, kerfRB := c.kerfRB + 4096 }))) ∧
    (∀ n bs, 4096 ≤ n → s.me.kerfOp = some { spill := false, moved := n, done := false, search := some bs, failed := none } →
      exec .kerfRefillComplete s = .next (s.updMe (fun c => { c with
        kerfOp := some { spill := false, moved := n, done := true, search := some bs, failed := none } }))) ∧
    (∀ k, s.me.kerfOp = some k → k.moved < 4096 → exec .kerfSpillComplete s = .next s ∧ exec .kerfRefillComplete s = .next s) ∧
    (∀ (i : Instr) (sp d : Bool) (n cause : Nat) (se : Option (List Byte)) (va : Word),
      s.me.kerfOp = some { spill := sp, moved := n, done := d, search := se, failed := some (cause, va) } → i.wellFormed = true →
      ((∃ e ∈ pairTable, ∃ vd va' vb pg k, i = e.fwd vd va' vb pg k ∨ i = e.undo vd va' vb pg k) ∨
        (∃ r, i = .kmark r ∨ i = .kdrop r ∨ i = .kchk r) ∨
        (∃ vd va' pg, i = .rnrw vd va' pg ∨ i = .unrw vd va' pg ∨ i = .rselz vd va' pg ∨ i = .uselz vd va' pg)) →
      exec i s = .next (if sp then (State.noKerf s).takeTrap 9 s.me.ksp else (State.noKerf s).takeTrap cause va))

/-- R88, R325, R326, R327, R332: a service of channel 63 moves the next 64 bytes of the block, from the region to the backing for
a spill and from the backing to the region for a refill, or to what KDROP's search has read; no level changes; a fault stops the transfer with its cause and
address, and the fault words of channel 63 are kept (R109). -/
def Sys2Proof.Claims.ChannelSixtyThreeMovesOnePacketAService : Prop :=
  ∀ (s : State) (k : KerfOp), s.nextChannel = some 63 → s.me.kerfOp = some k → k.done = false → k.failed = none → k.moved < 4096 →
    let r := s.updMe (fun c => { c with copyTurn := 0 })
    let p := if k.spill then s.me.kerfBB + k.moved
      else s.me.kerfBB - (match k.search with | some got => got.length - k.moved | none => 0) - 4096 + k.moved
    let key := s.me.regionKey p
    let va := s.me.backAddr p
    (∀ u, k.spill = true → s.eccError key 64 = false → r.engStore s.me.id va (Memory.readBytes s.mem key 64) = .ok u →
      exec .copyEngineService s = .next (u.updMe (fun c => { c with kerfOp := some { k with moved := k.moved + 64 } }))) ∧
    (∀ bs got, k.spill = false → k.search = some got → r.engLoad r.me va 64 = .ok bs →
      exec .copyEngineService s = .next (r.updMe (fun c => { c with
        kerfOp := some { k with search := some (got.take k.moved ++ bs ++ got.drop k.moved), moved := k.moved + 64 } }))) ∧
    (∀ bs, k.spill = false → k.search = none → r.engLoad r.me va 64 = .ok bs →
      exec .copyEngineService s =
        .next ((r.writeMem key bs).updMe (fun c => { c with kerfOp := some { k with moved := k.moved + 64 } }))) ∧
    (∀ cause, k.spill = false → r.engLoad r.me va 64 = .error (.fault cause) →
      ∃ t, exec .copyEngineService s = .next t ∧ t.mem = s.mem ∧ t.me.kerfBB = s.me.kerfBB ∧ t.me.kerfRB = s.me.kerfRB ∧
        t.me.kerfOp = some { k with failed := some (cause, BitVec.ofNat 64 va) } ∧
        ∃ w ∈ t.me.faultWords, w.qid = 63 ∧ w.addr = BitVec.ofNat 64 va)

/-- R89, R90, R276, R277: RTAKE takes min(R, max(M, ⌈R/D⌉)) from the range unit of the core's truss that belongs to its
context, and returns the start and the length; any other unit gives zeros. VSRW makes the old current value the previous
one; VSRR reads either and leaves no line in the L1 data cache. -/
def Sys2Proof.Claims.RangeAndVersionedRegistersFollowTheirRules : Prop :=
  (∀ (rd ra : BitVec 5) (s : State), rd ≠ 0 → rd ≠ 31 → s.me.plainReg rd = true → s.me.plainReg (rd + 1) = true →
    s.me.plainReg ra = true →
    let truss := s.me.id / 64
    let unit := (s.gr ra).toNat % 16
    (∀ r, s.range? truss unit = some r → r.ctx = s.me.ctx →
      let n := min r.left (max r.chunk ((r.left + r.div - 1) / r.div))
      ∃ t, exec (.rtake rd ra) s = .next t ∧ t.gr rd = r.next ∧ t.gr (rd + 1) = BitVec.ofNat 64 n ∧
        t.range? truss unit = some { r with next := r.next + BitVec.ofNat 64 n, left := r.left - n } ∧
        t.me.pc = s.me.pc + 4 ∧ t.mem = s.mem ∧ (∀ k, k ≠ rd.toNat → k ≠ rd.toNat + 1 → t.me.gpr k = s.me.gpr k)) ∧
    ((∀ r, s.range? truss unit = some r → r.ctx ≠ s.me.ctx) →
      ∃ t, exec (.rtake rd ra) s = .next t ∧ t.gr rd = 0 ∧ t.gr (rd + 1) = 0 ∧ t.ranges = s.ranges ∧
        t.me.pc = s.me.pc + 4 ∧ t.mem = s.mem)) ∧
  (∀ (rd ra : BitVec 5) (reg ver : BitVec 4) (s : State), ver.toNat ≤ 1 → s.me.plainReg rd = true → s.me.plainReg ra = true →
    (∀ p, s.partOf s.me.id = some p →
      exec (.vsrr rd reg ver) s = .next (s.completes (fun c => { c.withG rd (if ver = 0 then (p.versioned[reg.toNat]?.getD (0, 0)).1
        else (p.versioned[reg.toNat]?.getD (0, 0)).2) with l1d := [] })) ∧
      ∃ t q, exec (.vsrw ra reg) s = .next t ∧ t.partOf s.me.id = some q ∧
        q.versioned[reg.toNat]? = some (s.gr ra, (p.versioned[reg.toNat]?.getD (0, 0)).1) ∧ t.me = (s.completes id).me ∧ t.mem = s.mem) ∧
    (s.partOf s.me.id = none → exec (.vsrw ra reg) s = .next (s.completes id) ∧
      ∃ t, exec (.vsrr rd reg ver) s = .next t ∧ t.me.pc = s.me.pc + 4 ∧ t.mem = s.mem))

namespace Sys2Proof.Claims

/-- A word is the status of a queue (R114): 0 with nothing held; else the state and tag of the oldest entry, the number of
entries and, where the model knows it, the bytes that remain (log 3); a state without a code of R114 reads 2, which is the
model's choice (log 36). -/
def isStatus (s : State) (qid : Nat) (w : Word) : Prop :=
  (s.me.headEntry qid = none → w = 0) ∧
  ∀ e, s.me.headEntry qid = some e → w.toNat / 2 ^ 61 = e.state.code ∧
    w.toNat / 2 ^ 56 % 32 = min (s.me.entries.filter (fun x => x.qid == qid)).length 31 ∧ w.toNat / 2 ^ 32 % 2 ^ 16 = e.head.tag.toNat ∧
    (e.remKnown = true → w.toNat % 2 ^ 32 = min e.remaining 0xFFFFFFFF)

end Sys2Proof.Claims

/-- R230, R278, R103: ENQ and ENQM push the command their 256 bits decode to, as a new entry of its queue; bits that
decode to none are cause 19 with the low 32 bits; a forbidden move is cause 13; a full issue queue makes ENQ wait. -/
def Sys2Proof.Claims.EnqPushesTheDecodedCommand : Prop :=
  (∀ (ra : BitVec 5) (q : BitVec 3) (s : State), ra.toNat % 4 = 0 → ra ≠ 0 → q.toNat ≤ 4 →
    (∀ k < 4, s.me.plainReg (ra + BitVec.ofNat 5 k) = true) →
    let w := s.gr (ra + 3) ++ s.gr (ra + 2) ++ s.gr (ra + 1) ++ s.gr ra
    (decodeTcw q.toNat w = none → exec (.enq ra q) s = .next (s.takeTrap 19 (s.gr ra &&& 0xFFFFFFFF))) ∧
    (∀ h cmd, decodeTcw q.toNat w = some (h, cmd) →
      (s.enqForbidden cmd = true → exec (.enq ra q) s = .next (s.takeTrap 13 (wordOf (.enq ra q)))) ∧
      (s.enqForbidden cmd = false → s.me.issueCount q.toNat < 2 → exec (.enq ra q) s = .next (s.completes (fun c =>
        { c with entries := c.entries ++ [newEntry q.toNat cmd.channel h cmd] }))) ∧
      (s.enqForbidden cmd = false → 2 ≤ s.me.issueCount q.toNat → exec (.enq ra q) s = .next (s.park (.enq q.toNat) 0)))) ∧
  (∀ (ra : BitVec 5) (q : BitVec 3) (s u : State) (x : Nat) (h : CmdHead) (cmd : Cmd), q.toNat ≤ 4 → s.me.plainReg ra = true →
    loadM (s.gr ra) 32 s = .ok (x, u) → decodeTcw q.toNat (BitVec.ofNat 256 x) = some (h, cmd) → u.enqForbidden cmd = false →
    s.me.issueCount q.toNat < 2 → ∃ t, exec (.enqm ra q) s = .next t ∧ t.me.pc = s.me.pc + 4 ∧ t.mem = s.mem ∧ t.me.g = s.me.g ∧
      t.me.entries = s.me.entries ++ [newEntry q.toNat cmd.channel h cmd])

/-- R114, R279: QSTAT with selector 0 returns the status of the named queue, with 1 to 3 the address words of a copy
channel, else 0; channel 63 shows the transfer of the kerf stack, active with one entry while it lasts. QWAIT returns the status once every entry is complete or the oldest is suspended or pending, waits
before that, and takes cause 21 once with queue and tag for a stale shard seen complete. -/
def Sys2Proof.Claims.QstatAndQwaitReportTheQueue : Prop :=
  ∀ (rd ra rb : BitVec 5) (q : BitVec 3) (s : State), q.toNat ≤ 4 → (q = 0 ∨ ra = 0) → s.me.plainReg rd = true →
    s.me.plainReg ra = true → s.me.plainReg rb = true →
    let qid := if q = 0 then (s.gr ra).toNat % 64 else 63 + q.toNat
    (qid ≠ 63 → s.gr rb = 0 → ∃ t w, exec (.qstat rd ra rb q) s = .next t ∧ isStatus s qid w ∧
      t.gr rd = (if rd = 0 then 0 else w) ∧ t.me.pc = s.me.pc + 4 ∧ regFrame rd s t ∧ t.mem = s.mem) ∧
    (qid = 63 → s.gr rb = 0 → exec (.qstat rd ra rb q) s = .next (s.completes (fun c => c.withG rd (match s.me.kerfOp with
      | some k => if k.done || k.failed.isSome then 0 else BitVec.ofNat 64 (2 * 2 ^ 61 + 2 ^ 56 + (4096 - k.moved))
      | none => 0)))) ∧
    (s.gr rb ≠ 0 → exec (.qstat rd ra rb q) s = .next (s.completes (fun c => c.withG rd
      (if q = 0 ∧ (s.gr rb).toNat ≤ 3 then s.me.remainderWord qid (s.gr rb).toNat else 0)))) ∧
    (qid ≠ 63 → s.me.queueSettled qid = true → s.me.staleTags.find? (fun t => t.1 == qid) = none →
      ∃ t w, exec (.qwait rd ra q) s = .next t ∧ isStatus s qid w ∧ t.gr rd = (if rd = 0 then 0 else w) ∧
        t.me.pc = s.me.pc + 4 ∧ regFrame rd s t ∧ t.mem = s.mem) ∧
    (s.me.queueSettled qid = false → exec (.qwait rd ra q) s = .next (s.park (.qwait qid) rd)) ∧
    (∀ tag, s.me.queueSettled qid = true → s.me.staleTags.find? (fun t => t.1 == qid) = some (qid, tag) →
      exec (.qwait rd ra q) s = .next ((s.updMe (fun c => { c with
        staleTags := removeFirst (fun x => x == (qid, tag)) c.staleTags })).takeTrap 21 (BitVec.ofNat 64 (qid * 2 ^ 16 + tag.toNat))))

/-- R107, R111, R113, R115: an issue queue passes its head to an engine with room; a finished head with nothing to write
leaves its queue, raising KIND 2 when it asked; with a record it writes the record's 32 bytes first; one whose event finds
the queue full waits; a held event enters the queue when there is room; a QFENCE holds its queue, every copy of its tag ends
with status 2 when the sets differ, and when every queue of its set is held by its tag all copies end with status 0; a
deliverable engine event enters the context its kind belongs to. -/
def Obligations.QueueEventsMoveEntriesAndEvents : Prop :=
  ∀ s : State,
    (∀ field e, s.me.issueHead field = some e → s.me.heldAt e.qid < qidCap e.qid →
      ∃ t, exec (.entryAccepted field) s = .next t ∧ t.mem = s.mem ∧ t.me.pc = s.me.pc ∧
        t.me.entries = replaceFirst (fun x => x.field == field && x.state == .issued) (fun x => { x with state := .accepted }) s.me.entries ∧
        (∀ c x, e.cmd = .xsched c → s.channel? e.head.chan.toNat = some x →
          t.me.exchange = s.me.exchange ++ [(e.head.chan.toNat, x.epoch)]) ∧
        ((∀ c, e.cmd ≠ .xsched c) → t.me.exchange = s.me.exchange)) ∧
    (∀ qid e, s.me.headEntry qid = some e → e.state = .finishing → e.head.wantsRecord = false → e.head.irq = false →
      e.mismatch = false → e.lost = none → e.status ≠ 3 → e.status ≠ 4 → (e.head.bar = false ∨ qid ≠ 65) →
      exec (.entryComplete qid) s = .next (s.updMe (fun c => c.dropHead qid))) ∧
    (∀ qid e, s.me.headEntry qid = some e → e.state = .finishing → e.head.wantsRecord = false → e.head.irq = true →
      e.mismatch = false → e.lost = none → e.status ≠ 3 → e.status ≠ 4 → (e.head.bar = false ∨ qid ≠ 65) → s.me.events.length < 16 → s.me.heldEvents = [] →
      ∃ t, exec (.entryComplete qid) s = .next t ∧ t.me.entries = removeFirst (fun x => x.qid == qid) s.me.entries ∧
        t.me.events = s.me.events ++ [{ stamp := s.stamp, remaining := 0, kind := 2, cause := 0, qid := qid, tag := e.head.tag }]) ∧
    (∀ qid e u, s.me.headEntry qid = some e → e.state = .finishing → e.head.wantsRecord = true → e.head.irq = false →
      e.mismatch = false → e.lost = none → e.recordDone = false → e.status ≠ 3 → e.status ≠ 4 → (e.head.bar = false ∨ qid ≠ 65) →
      s.engStore s.me.id e.head.crec.toNat (recordBytes e.status qid 0 e.head.tag e.count s.cycle 0) = .ok u →
      exec (.entryComplete qid) s = .next (u.updMe (fun c => c.dropHead qid))) ∧
    (∀ qid e, s.me.headEntry qid = some e → e.state = .finishing → e.head.irq = true →
      (16 ≤ s.me.events.length ∨ s.me.heldEvents ≠ []) → exec (.entryComplete qid) s = .next s) ∧
    (∀ e rest, s.me.heldEvents = e :: rest → s.me.events.length < 16 →
      exec .heldEventEnqueue s = .next (s.updMe (fun c => { c with events := c.events ++ [e], heldEvents := rest }))) ∧
    (∀ q h f e, q < 68 → s.me.headEntry q = some e → e.state = .accepted → e.head = h → e.cmd = .qfence f → e.mismatch = false →
      (∀ j < 68, j ≠ q → ∀ x, s.me.headEntry j = some x → x.head ≠ h) →
      ((∀ j < 68, ∀ x, s.me.headEntry j = some x → x.state ≠ .fenced) →
        exec (.qfence h f) s = .next (s.updMe (fun c => { c.updHead q (fun x => { x with state := .fenced }) with
          faultWords := c.faultWords.filter (fun w => w.qid != q) }))) ∧
      (∀ j < 68, ∀ x g, s.me.headEntry j = some x → x.state = .fenced → x.cmd = .qfence g → x.head.tag = h.tag →
        (g.qset ≠ f.qset ∨ g.cset ≠ f.cset) → ∃ t, exec (.qfence h f) s = .next t ∧ t.mem = s.mem ∧
          (∀ k ∈ [q, j], ∃ y, t.me.headEntry k = some y ∧ y.state = .finishing ∧ y.status = 2 ∧ y.mismatch = true) ∧
          ∀ y ∈ t.me.entries, isFence y.cmd = true → y.head.tag = h.tag → y.state ≠ .fenced ∧ (y.mismatch = true ∨ y.state = .finishing))) ∧
    (∀ tag, s.me.fenceReady tag = true → ∃ t, exec (.qfenceRelease tag) s = .next t ∧ t.mem = s.mem ∧
      ∀ q < 68, ∀ e f, s.me.headEntry q = some e → e.cmd = .qfence f → e.state = .fenced → e.head.tag = tag →
        t.me.headEntry q = some { e with state := .finishing, status := 0, count := 0, since := 0 }) ∧
    (∀ e, s.fused = false → s.me.delivery = some (.engine e) →
      ∃ t, exec .asyncEventDelivery s = .next t ∧ t.mem = s.mem ∧ t.me.wait = none ∧
        t.me.events = s.me.events.filter (fun x => x.stamp != e.stamp) ∧
        (s.me.eventToUi e = false → t.me.pc = s.me.sup.stvec ∧ t.me.super = true ∧ t.me.sup.sepc = s.me.pc &&& ~~~3 ∧
          t.me.sup.scause = 0x800000000000000E ∧ t.me.sup.sval = e.value ∧ t.me.sup.spp = s.me.super ∧
          t.me.sup.spie = s.me.sup.sie ∧ t.me.sup.sie = false) ∧
        (s.me.eventToUi e = true → t.me.pc = s.me.user.uivec ∧ t.me.super = s.me.super ∧ t.me.sup.uia = true ∧
          t.me.user.uipc = s.me.pc &&& ~~~3 ∧ t.me.user.uicause = 0x800000000000000E ∧ t.me.user.uival = e.value))

namespace Sys2Proof.Claims

/-- Instruction i takes up the copy-class command cmd, whose queue is q. -/
def copyInstr (h : CmdHead) (cmd : Cmd) (i : Instr) (q : Nat) : Prop :=
  (∃ c, cmd = .copy c ∧ i = .copy h c ∧ q = c.qch.toNat) ∨
  (∃ c, cmd = .copynd c ∧ i = .copynd h c ∧ q = c.qch.toNat) ∨
  (∃ c, cmd = .gathr c ∧ i = .gathr h c ∧ q = c.qch.toNat) ∨
  (∃ c, cmd = .scatr c ∧ i = .scatr h c ∧ q = c.qch.toNat) ∨
  (∃ c, cmd = .fill c ∧ i = .fill h c ∧ q = c.qch.toNat) ∨
  (∃ c, cmd = .feeda c ∧ i = .feeda h c ∧ q = c.qch.toNat) ∨
  (∃ c, cmd = .feedb c ∧ i = .feedb h c ∧ q = c.qch.toNat) ∨
  (∃ c, cmd = .drain c ∧ i = .drain h c ∧ q = c.qch.toNat) ∨
  (∃ c, cmd = .copyg c ∧ i = .copyg h c ∧ q = c.qch.toNat) ∨
  (∃ c, cmd = .xsched c ∧ i = .xsched h c ∧ q = c.qch.toNat)

/-- A queue's head is the given command, accepted and not yet taken up: its engine has no work of it yet. -/
def waitsAt (s : State) (q : Nat) (h : CmdHead) (cmd : Cmd) (e : Entry) : Prop :=
  s.me.headEntry q = some e ∧ e.state = .accepted ∧ e.head = h ∧ e.cmd = cmd ∧ e.job = .none

/-- A queue's head has ended with a status and a count; its report is due. -/
def endedAt (t : State) (q status count : Nat) : Prop :=
  ∃ e, t.me.headEntry q = some e ∧ e.state = .finishing ∧ e.status = status ∧ e.count = count

/-- A queue's head has been taken up (R108). -/
def takenUp (s : State) (q : Nat) : State := s.updMe (fun c =>
  { c.updHead q (fun e => { e with state := .active }) with faultWords := c.faultWords.filter (fun w => w.qid != q) })

/-- The copy-class commands that read a block first (R338). -/
def readsBlock : Cmd → Bool
  | .copynd _ => true
  | .gathr _ => true
  | .scatr _ => true
  | .copyg _ => true
  | .xsched _ => true
  | _ => false

/-- The bytes an entry moves next and how many of them lie in one piece, by the loop of its command: source, destination,
length (R341 to R343, R346, R203, R105). -/
def spanOf (e : Entry) : Option (Nat × Nat × Nat) :=
  match e.cmd, e.job with
  | .copy c, _ => if c.rp then none else some (c.src.toNat + e.pos, c.dst.toNat + e.pos, c.len.toNat - e.pos)
  | .copynd _, .nd d =>
    let c := e.pos / (d.e0 * d.e1)
    let b := e.pos / d.e0 % d.e1
    let a := e.pos % d.e0
    let row := fun (base : Nat) (s1 s2 : Int) => ((base + c * s2 + b * s1) % 2 ^ 64).toNat + a
    some (row d.src d.ss1 d.ss2, row d.dst d.ds1 d.ds2, d.e0 - a)
  | .gathr _, .rows p (some i) =>
    some (p.src + i * p.rowb + e.pos % p.rowb, p.dst + e.pos / p.rowb * p.rowb + e.pos % p.rowb, p.rowb - e.pos % p.rowb)
  | .scatr _, .scatter p _ (some r) =>
    some (p.src + e.pos / p.rowb * p.rowb + e.pos % p.rowb, p.dst + r * p.rowb + e.pos % p.rowb, p.rowb - e.pos % p.rowb)
  | .copyg c, .gen src dst _ _ => if e.pos < c.len.toNat then some (src + e.pos, dst + e.pos, c.len.toNat - e.pos) else none
  | .xsched _, .jig es _ _ cur true =>
    match es[cur]? with
    | some x =>
      let off := e.pos - sumNat ((es.take cur).map (·.bytes))
      some (0x900000000000 + x.soff + off, 0x800000000000 + x.target * 0x100000 + x.doff + off, x.bytes - off)
    | none => none
  | _, _ => none

/-- A head entry that has its block: it goes on with the job the block gives, or ends with status 2 where the block fails its
checks; memory is unchanged. -/
def goesOn (s t : State) (q : Nat) (e : Entry) (ok : Bool) (job : Job) (src dst : Nat) : Prop :=
  t.mem = s.mem ∧
  (ok = true → t.me.headEntry q = some { e with
    state := .active, job := job, srcAddr := BitVec.ofNat 64 src, dstAddr := BitVec.ofNat 64 dst, since := 0, kick := false }) ∧
  (ok = false → endedAt t q 2 0)

/-- SCATR's block (R203). -/
def scatrParm (bs : List Byte) : RowParm :=
  { idx := blk8 bs 0, offs := blk8 bs 8, src := blk8 bs 16, dst := blk8 bs 24, imap := blk8 bs 32, rowb := blk4 bs 40, nsrc := 0 }

/-- The copy engine's turn passes to the channel after q. -/
def turnAfter (s : State) (q : Nat) : State := s.updMe (fun c => { c with copyTurn := (q + 1) % 64 })

/-- The head entry of a queue has moved n more bytes: it is active, or it has ended with status 0 where they were its last. -/
def advanced (t : State) (q : Nat) (e : Entry) (n : Nat) : Prop :=
  ∃ e', t.me.headEntry q = some e' ∧ e'.cmd = e.cmd ∧ e'.head = e.head ∧ e'.pos = e.pos + n ∧
    ((∀ c, e.cmd ≠ .copyg c) → e.total ≤ e.pos + n → e'.state = .finishing ∧ e'.status = 0) ∧
    (e.pos + n < e.total → e'.state = .active)

end Sys2Proof.Claims

/-- R108, R118, R338, R340: a copy-class command at the head of its channel: an unheld channel or a failing head check
ends it with status 2 and nothing moved; an empty one ends with status 0; any other has been taken up, with no byte of
memory changed: one without a block is active. That GATHR's index range counts as an input in R338's overlap check is the
model's choice (log 18). -/
def Sys2Proof.Claims.CopyCommandsAreCheckedAndTakenUpAtTheirHead : Prop :=
  ∀ (s : State) (h : CmdHead) (cmd : Cmd) (i : Instr) (q : Nat) (e : Entry), copyInstr h cmd i q → waitsAt s q h cmd e →
    let good := s.me.bindOk h && s.copyHeadOk cmd
    (good = false → ∃ t, exec i s = .next t ∧ endedAt t q 2 0 ∧ t.mem = s.mem) ∧
    (good = true → cmdEmpty cmd = true → ∃ t, exec i s = .next t ∧ endedAt t q 0 0 ∧ t.mem = s.mem) ∧
    (good = true → cmdEmpty cmd = false → ∃ t e', exec i s = .next t ∧ t.me.headEntry q = some e' ∧ e'.cmd = cmd ∧ e'.head = h ∧
      e'.pos = e.pos ∧ e'.state ≠ .accepted ∧ (readsBlock cmd = false → e'.state = .active) ∧ t.mem = s.mem)

/-- R338, R342, R343, R203, R346, R347: COPYND, GATHR, SCATR, COPYG and XSCHED complete where their block can be
read; taken up, COPYND has its descriptor, GATHR and SCATR their rows (SCATR its own copy of the offsets), COPYG its generation word
read for the first time (status 4 on a mismatch), XSCHED its checked jig (cause 14 where it fails). A block that fails its
checks is status 2. No byte of memory changes. -/
def Sys2Proof.Claims.BlocksGiveTheirCommandsTheirWork : Prop :=
  ∀ (s : State) (h : CmdHead) (e : Entry) (bs : List Byte), s.me.bindOk h = true →
    (∀ c, let q := c.qch.toNat
      let r := takenUp s q
      waitsAt s q h (.copynd c) e → s.copyHeadOk (.copynd c) = true → r.engLoad r.me c.desc.toNat 64 = .ok bs →
      ∃ t, exec (.copynd h c) s = .next t ∧
        goesOn s t q e (blkZero bs 28 4 && (ndOf bs).ok) (.nd (ndOf bs)) (blk8 bs 0) (blk8 bs 8)) ∧
    (∀ c, let q := c.qch.toNat
      let r := takenUp s q
      let n := c.n.toNat
      let p : RowParm := { idx := blk8 bs 0, offs := 0, src := blk8 bs 8, dst := blk8 bs 16, imap := 0, rowb := blk4 bs 24, nsrc := blk4 bs 28 }
      waitsAt s q h (.gathr c) e → s.copyHeadOk (.gathr c) = true → 0 < n → r.engLoad r.me c.parm.toNat 32 = .ok bs →
      ∃ t, exec (.gathr h c) s = .next t ∧ goesOn s t q e
        (decide (p.idx % 4 = 0) && rowbOk p.rowb && rangesOk [(p.idx, 4 * n), (p.src, p.nsrc * p.rowb)] [(p.dst, n * p.rowb)])
        (.rows p none) p.src p.dst) ∧
    (∀ c os, let q := c.qch.toNat
      let r := takenUp s q
      let k := r.keepBlock q { e with state := .active } c.parm.toNat bs
      let n := c.ntok.toNat
      let p := scatrParm bs
      let tab := 4 * (c.ne.toNat + 1)
      let next := (List.range (c.ne.toNat + 1)).map (fun i => blk4 os (4 * i))
      let rows := nth 0 next c.ne.toNat
      let outs := (p.dst, rows * p.rowb) :: (if p.imap = 0 then [] else [(p.imap, 4 * rows)])
      waitsAt s q h (.scatr c) e → s.copyHeadOk (.scatr c) = true → r.engLoad r.me c.parm.toNat 64 = .ok bs →
      p.idx % 2 = 0 → p.offs % 4 = 0 → p.imap % 4 = 0 → rowbOk p.rowb = true → blkZero bs 44 20 = true →
      (∀ x ∈ [(p.idx, 2 * n), (p.offs, tab), (p.src, n * p.rowb)], triggerHit x.1 x.2 = false) →
      k.engLoad k.me p.offs tab = .ok os →
      ∃ t, exec (.scatr h c) s = .next t ∧ goesOn s t q e
        (rangesOk [(p.idx, 2 * n), (p.offs, tab), (p.src, n * p.rowb)] outs && outsApart outs) (.scatter p next none) p.src p.dst) ∧
    (∀ c g, let q := c.qch.toNat
      let r := takenUp s q
      let k := r.keepBlock q { e with state := .active } c.parm.toNat bs
      waitsAt s q h (.copyg c) e → s.copyHeadOk (.copyg c) = true → 0 < c.len.toNat → r.engLoad r.me c.parm.toNat 32 = .ok bs →
      blk8 bs 16 % 8 = 0 → rangesOk [(blk8 bs 0, c.len.toNat), (blk8 bs 16, 8)] [(blk8 bs 8, c.len.toNat)] = true →
      k.engLoad k.me (blk8 bs 16) 8 = .ok g →
      ∃ t, exec (.copyg h c) s = .next t ∧ (leVal g ≠ blk8 bs 24 → t.mem = s.mem ∧ endedAt t q 4 0) ∧
        (leVal g = blk8 bs 24 → goesOn s t q e true
          (.gen (blk8 bs 0) (blk8 bs 8) (blk8 bs 16) (BitVec.ofNat 64 (blk8 bs 24))) (blk8 bs 0) (blk8 bs 8))) ∧
    (∀ c hd, let q := c.qch.toNat
      let r := takenUp s q
      let n := blk2 hd 0
      let st := blk2 hd 2 % 256
      let es := (List.range n).map (jigEntry bs)
      let good := decide (1 ≤ n ∧ n ≤ 4096 ∧ st / 32 % 4 = 0) && blkZero hd 3 13 && (decide (st < 128) || s.me.holds (st % 32))
      waitsAt s q h (.xsched c) e → s.copyHeadOk (.xsched c) = true → r.engLoad r.me c.jig.toNat 16 = .ok hd →
      r.engLoad r.me (c.jig.toNat + 16) (16 * n) = .ok bs →
      ∃ t, exec (.xsched h c) s = .next t ∧ t.mem = s.mem ∧
        (good = true → jigOk 0 es = true → st < 128 →
          goesOn s t q e true (.jig es none (some s.cycle) 0 false) (c.jig.toNat / 2 ^ 18 * 2 ^ 18) 0) ∧
        (good = true → jigOk 0 es = true → 128 ≤ st → ∀ x, s.channel? (st % 32) = some x →
          goesOn s t q e true (.jig es (some (st % 32, x.epoch)) none 0 false) (c.jig.toNat / 2 ^ 18 * 2 ^ 18) 0) ∧
        ((good = false ∨ jigOk 0 es = false) →
          ∃ e', t.me.headEntry q = some e' ∧ e'.state = .finishing ∧ e'.status = 3 ∧ e'.cause = 14))

/-- R88, R105, R182, R203, R341 to R346: the copy engine serves the next channel in its round with one packet: at most 64
bytes, within one page on both sides, read at the source and written at the destination of the command's loop; FILL
writes byte a mod 8 of its pattern at address a; FEEDA and FEEDB append to their FIFO as far as it has room; DRAIN stores
accumulator words; COPY to another package hands its bytes to the link, and awaits the other package's answer to each
packet. That a packet lies within one page on both sides is the model's choice (log 18; R88 and R340 say at most 64 bytes). -/
def Obligations.TheCopyEngineMovesOnePacketOfItsCommand : Prop :=
  ∀ (s : State) (q : Nat) (e : Entry), s.nextChannel = some q → q < 63 → s.me.headEntry q = some e →
    let s' := turnAfter s q
    (∀ a b lim bs u, spanOf e = some (a, b, lim) →
      let n := min (min 64 lim) (min (65536 - a % 65536) (65536 - b % 65536))
      s'.engLoad s'.me a n = .ok bs → (s'.seen a n).engStore s.me.id b bs = .ok u →
      ∃ t, exec .copyEngineService s = .next t ∧ t.mem = u.mem ∧ advanced t q e n) ∧
    (∀ c u, e.cmd = .fill c →
      let b := c.dst.toNat + e.pos
      let n := min (min 64 (c.len.toNat - e.pos)) (min 65536 (65536 - b % 65536))
      s'.engStore s.me.id b ((List.range n).map (fun i => c.pat.extractLsb' (8 * ((b + i) % 8)) 8)) = .ok u →
      ∃ t, exec .copyEngineService s = .next t ∧ t.mem = u.mem ∧ advanced t q e n) ∧
    (∀ c bs, (e.cmd = .feeda c ∨ e.cmd = .feedb c) →
      let f := if e.cmd = .feeda c then s.me.fifoA else s.me.fifoB
      let a := c.src.toNat + e.pos
      let n := min (min 64 (min (c.len.toNat - e.pos) (65536 - f.bytes.length))) (min (65536 - a % 65536) 65536)
      s'.engLoad s'.me a n = .ok bs →
      ∃ t, exec .copyEngineService s = .next t ∧ t.mem = s.mem ∧ advanced t q e n ∧
        (if e.cmd = .feeda c then t.me.fifoA.bytes = s.me.fifoA.bytes ++ bs ∧ t.me.fifoB = s.me.fifoB
         else t.me.fifoB.bytes = s.me.fifoB.bytes ++ bs ∧ t.me.fifoA = s.me.fifoA)) ∧
    (∀ c u, e.cmd = .drain c → s.me.accumBad = [] →
      let row := 4 * c.words.toNat
      let b := c.dst.toNat + e.pos / row * c.dpitch.toNat + e.pos % row
      let n := min (min 64 (row - e.pos % row)) (min 65536 (65536 - b % 65536))
      4 ≤ n → n % 4 = 0 →
      s'.engStore s.me.id b ((List.range (n / 4)).flatMap (fun i =>
        leBytes 4 (s.me.accWord (c.abase.toNat + e.pos / row * c.apitch.toNat + e.pos % row / 4 + i)).toNat)) = .ok u →
      ∃ t, exec .copyEngineService s = .next t ∧ t.mem = u.mem ∧ advanced t q e n) ∧
    (∀ c bs, e.cmd = .copy c → c.rp = true →
      let a := c.src.toNat + e.pos
      let b := c.dst.toNat + e.pos
      let n := min (min 64 (c.len.toNat - e.pos)) (min (65536 - a % 65536) (65536 - b % 65536))
      let id := match e.job with | .remote id _ => id | _ => s.stamp
      e.pos < c.len.toNat → s'.engLoad s'.me a n = .ok bs →
      ∃ t, exec .copyEngineService s = .next t ∧ t.mem = s.mem ∧
        t.me.headEntry q = some { e with
          state := .active, kick := false, since := 0
          srcAddr := BitVec.ofNat 64 a, dstAddr := BitVec.ofNat 64 b, job := .remote id n } ∧
        t.outbox = s.outbox ++ [⟨(s.partOf s.me.id).map (·.id),
          .copyWrite c.pkg.toNat ((s.peerOf s.me.ctx c.pkg.toNat).getD 0) id b bs⟩])

/-- R110, R341: the answer of the other package to the packet of a COPY that is on its way: its bytes have moved, and the
answer to the last packet ends the entry with status 0; a remote fault ends it with status 3 and the remote cause, and the
packet's bytes stay in the remainder. With no packet on its way nothing changes. -/
def Sys2Proof.Claims.AnswersOfAnotherPackageMoveItsCopy : Prop :=
  ∀ (s : State) (q id out n : Nat) (e : Entry) (c : CopyCmd), s.me.headEntry q = some e → e.cmd = .copy c → e.job = .remote id out →
    e.state ≠ .finishing →
    (∀ fault, out = 0 → (s.copyAnswer id n fault).me.headEntry q = some e) ∧
    (∀ cause addr, out ≠ 0 → ∃ e', (s.copyAnswer id n (some (cause, addr))).me.headEntry q = some e' ∧ e' = { e with
      state := .finishing, status := 3, cause := cause, faultAddr := BitVec.ofNat 64 addr, count := e.moved, since := 0
      job := .remote id 0 } ∧ e'.remaining = e.remaining) ∧
    (out ≠ 0 → e.pos + n < c.len.toNat → (s.copyAnswer id n none).me.headEntry q = some { e with
      state := .active, kick := false, since := 0, pos := e.pos + n, moved := e.moved + n, job := .remote id 0
      srcAddr := BitVec.ofNat 64 (e.srcAddr.toNat + n), dstAddr := BitVec.ofNat 64 (e.dstAddr.toNat + n) }) ∧
    (out ≠ 0 → c.len.toNat ≤ e.pos + n → endedAt (s.copyAnswer id n none) q 0 (e.moved + n))

/-- R105, R108, R182, R388: a jig's slot that has come is issued, and its start episode begins its count; a suspended
channel that is to be translated again, a refused one whose resend has come, and a feed whose FIFO has room go on with
their next packet. -/
def Sys2Proof.Claims.WaitingChannelsGoOnWhenTheirEventComes : Prop :=
  ∀ (s : State) (q : Nat) (e : Entry), s.me.headEntry q = some e → q < 64 →
    (∀ c es await t0 cur, e.cmd = .xsched c → e.state = .active → e.job = .jig es await (some t0) cur false →
      (∀ x, es[cur]? = some x → t0 + x.slot ≤ s.cycle) →
      exec (.jigEntryIssue q) s = .next (s.updMe (fun c => c.updHead q (fun _ => { e with job := .jig es await (some t0) cur true })))) ∧
    (∀ c es ch ep x, e.cmd = .xsched c → e.state = .active → e.job = .jig es (some (ch, ep)) none 0 false →
      s.channel? ch = some x → x.epoch ≠ ep → x.failedEpochs.contains ep = false →
      exec (.jigEntryIssue q) s = .next (s.updMe (fun c => c.updHead q (fun _ => { e with
        job := .jig es (some (ch, ep)) (some s.cycle) 0 false })))) ∧
    (∀ a b lim bs u, spanOf e = some (a, b, lim) →
      let n := min (min 64 lim) (min (65536 - a % 65536) (65536 - b % 65536))
      s.engLoad s.me a n = .ok bs → (s.seen a n).engStore s.me.id b bs = .ok u →
      (s.retranslateDue q = true → ∃ t, exec (.suspendedRetranslate q) s = .next t ∧ t.mem = u.mem ∧ advanced t q e n) ∧
      (s.resendDue q = true → e.recordPending = false → ∃ t, exec (.engineResend q) s = .next t ∧ t.mem = u.mem ∧ advanced t q e n)) ∧
    (∀ c bs, e.cmd = .feeda c → s.me.canServe q = true →
      let a := c.src.toNat + e.pos
      let n := min (min 64 (min (c.len.toNat - e.pos) (65536 - s.me.fifoA.bytes.length))) (min (65536 - a % 65536) 65536)
      s.engLoad s.me a n = .ok bs → ∃ t, exec (.feedSpaceReleased q) s = .next t ∧ t.mem = s.mem ∧ advanced t q e n ∧
        t.me.fifoA.bytes = s.me.fifoA.bytes ++ bs)

namespace Sys2Proof.Claims

/-- Instruction i takes up the matrix command cmd: the format pair it fixes, its shape under a pair, its split. -/
def matrixForm (h : CmdHead) (cmd : Cmd) (i : Instr) (pair : Option (Nat × Nat)) (shape : Nat → Nat → MatShape) (split : Bool) : Prop :=
  (∃ c, cmd = .mma c ∧ i = .mma h c ∧ pair = none ∧ shape = mmaShape c ∧ split = c.gsplit) ∨
  (∃ c, cmd = .mmat c ∧ i = .mmat h c ∧ pair = some (7, 9) ∧ shape = mmaShape c ∧ split = c.gsplit) ∨
  (∃ c, cmd = .mzero c ∧ i = .mzero h c ∧ pair = some (0, 0) ∧ shape = (fun _ _ => mzeroShape c) ∧ split = c.gsplit)

/-- The signed value of a code of w bits. -/
def signedOf (w x : Nat) : Int := (BitVec.ofNat w x).toInt

end Sys2Proof.Claims

/-- R180, R184, R186, R188, R189: a matrix command at its head: a follower's split copy ends with status 0; a format pair or
a shape out of its bounds ends it with status 2; any other is at work with the format pair of its first sample. -/
def Sys2Proof.Claims.MatrixCommandsAreCheckedAtTheirHead : Prop :=
  ∀ (s : State) (h : CmdHead) (cmd : Cmd) (e : Entry) (i : Instr) (pair : Option (Nat × Nat)) (shape : Nat → Nat → MatShape) (split : Bool),
    matrixForm h cmd i pair shape split → waitsAt s 64 h cmd e →
    let follower := split = true ∧ 1 < s.me.gangSize ∧ s.me.gangPos ≠ 0
    let ab := pair.getD ((s.me.user.mfmt.extractLsb' 0 4).toNat, (s.me.user.mfmt.extractLsb' 4 4).toNat)
    let good := (pair.isSome || pairOk ab.1 ab.2) && shapeOk s.me (shape ab.1 ab.2)
    (follower → ∃ t, exec i s = .next t ∧ endedAt t 64 0 0 ∧ t.mem = s.mem ∧ t.me.accum = s.me.accum) ∧
    (¬ follower → good = false → ∃ t, exec i s = .next t ∧ endedAt t 64 2 0 ∧ t.mem = s.mem ∧ t.me.accum = s.me.accum) ∧
    (¬ follower → good = true → ∃ t, exec i s = .next t ∧ t.mem = s.mem ∧ t.me.accum = s.me.accum ∧
      t.me.headEntry 64 = some { e with state := .active, job := .matrix ab.1 ab.2 })

/-- R87, R185, R187, R188, R190, R191: with no other core of its bay waiting, a core whose head command has its streams issues its next
tile, which samples ASCALE, BSCALE, the rounding mode and FCTL.UFE; an MMA whose formats have changed, or whose scales reach beyond
the store, ends with status 2 instead. A tile of MZERO that ends leaves zero in every accumulator of the tile; a tile of MMA or MMAT leaves its element
function of the old value in the accumulators of its rows below RCNT. -/
def Sys2Proof.Claims.MatrixTilesIssueAndWriteTheirAccumulators : Prop :=
  ∀ (s : State) (e : Entry) (x : MatShape) (a b : Nat), s.me.headEntry 64 = some e → e.shape = some x → e.job = .matrix a b →
    (s.me.runTile = none → s.me.tileReady = true → 1 ≤ s.me.matWeight →
      (∀ k < 8, s.me.id / 8 * 8 + k ≠ s.me.id → (s.core (s.me.id / 8 * 8 + k)).matrixWaits = false ∧
        (s.core (s.me.id / 8 * 8 + k)).tileReady = false ∧ (s.core (s.me.id / 8 * 8 + k)).runTile = none) →
      (∀ p, assoc (s.me.id / 8) s.arbiter = some p → p < 8) →
      let u := s.me.user
      let changed := 0 < e.pos ∧ ((u.mfmt.extractLsb' 0 4).toNat ≠ a ∨ (u.mfmt.extractLsb' 4 4).toNat ≠ b)
      let blocks := (x.k + 31) / 32
      let beyond := a = 6 ∧ (0x40000 < u.ascale.toNat + x.m * blocks ∨ 0x40000 < u.bscale.toNat + x.n * blocks)
      let ends := (∃ c, e.cmd = .mma c) ∧ (changed ∨ beyond)
      ∃ t, exec .matrixTileIssue s = .next t ∧ t.mem = s.mem ∧ t.me.accum = s.me.accum ∧
        (¬ ends → ∃ r, t.me.runTile = some r ∧ r.tile = e.pos ∧ r.afmt = a ∧ r.bfmt = b ∧ r.aoff = u.ascale.toNat ∧
          r.boff = u.bscale.toNat ∧ r.ufe = s.me.ufTrap ∧ t.me.headEntry 64 = some e ∧
          ∀ c, e.cmd = .mma c → (c.rm = 0 → r.rm = (u.fctl.extractLsb' 0 3).toNat) ∧ (c.rm ≠ 0 → r.rm = c.rm.toNat - 1)) ∧
        (ends → t.me.runTile = none ∧ endedAt t 64 2 e.pos ∧ t.me.fifoA.bytes = s.me.fifoA.bytes.drop x.aBytes ∧
          t.me.fifoB.bytes = s.me.fifoB.bytes.drop x.bBytes)) ∧
    (∀ r, s.me.runTile = some r → splits s.me x = false → x.n * x.ew ≤ x.apitch →
      (∀ c, e.cmd = .mzero c → ∃ t, exec .matrixTileComplete s = .next t ∧ t.me.runTile = none ∧ t.mem = s.mem ∧
        t.me.user.fflags = s.me.user.fflags ∧
        ∀ i ∈ x.rows r.tile, ∀ j ∈ x.cols r.tile, t.me.accRead (x.abase + i * x.apitch + j * x.ew) x.ew = 0) ∧
      (∀ c, (e.cmd = .mma c ∨ e.cmd = .mmat c) → s.me.accumBad = [] → ∃ t, exec .matrixTileComplete s = .next t ∧
        t.me.runTile = none ∧ t.mem = s.mem ∧
        ∀ i ∈ x.live r.tile, ∀ j ∈ x.cols r.tile,
          t.me.accRead (x.abase + i * x.apitch + j * x.ew) x.ew =
            (s.element s.me c x r (s.me.accRead (x.abase + i * x.apitch + j * x.ew) x.ew) i j).1 % 2 ^ (32 * x.ew)))

/-- R35, R191, R192: an INT8 element without ISAT is the old accumulator plus the exact dot product, modulo 2^32; MMAT takes
B as ternary codes, 1 for 01, −1 for 11, 0 otherwise, and raises TR when a code 10 was read. -/
def Sys2Proof.Claims.IntegerElementsAccumulateTheExactDotProduct : Prop :=
  ∀ (s : State) (c : MmaCmd) (x : MatShape) (r : RunTile) (acc i j : Nat), r.afmt = 7 → (r.bfmt = 7 ∨ r.bfmt = 9) → acc < 2 ^ 32 →
    s.me.fifoA.bad = [] → s.me.fifoB.bad = [] →
    let wb := if r.bfmt = 9 then 2 else 8
    let A := fun q => signedOf 8 (streamElem s.me.fifoA.bytes (i * (64 * ((x.k * 8 + 511) / 512))) 8 q)
    let code := fun q => streamElem s.me.fifoB.bytes (j * (64 * ((x.k * wb + 511) / 512))) wb q
    let B := fun q => if r.bfmt = 9 then (if code q = 1 then 1 else if code q = 3 then -1 else 0) else signedOf 8 (code q)
    let res := s.element s.me c x r acc i j
    (c.isat = false → res.1 = wrapCode 32 (acc + ((List.range x.k).map (fun q => A q * B q)).sum)) ∧
    (c.isat = false → res.2.sat = false) ∧
    (res.2.tr = true ↔ r.bfmt = 9 ∧ ∃ q < x.k, code q = 2)

namespace Sys2Proof.Claims

/-- The outputs of a class-2 command reach memory in order, its banks are written, it leaves the banks it has begun on, and
it ends with its status and count. -/
def routes (s : State) (i : Instr) (r : Routed) : Prop :=
  ∀ v, (takenUp s 65).writeOuts r.writes = .ok v → ∃ t, exec i s = .next t ∧ t.mem = v.mem ∧ endedAt t 65 r.status r.count ∧
    t.banks = ((r.banks.foldl State.putBank v).leaveBanks s.me.id).banks

/-- A class-2 command ends with status 2 and writes nothing; its count is 0, the model's choice (log 20). -/
def rejects (s : State) (i : Instr) : Prop :=
  ∃ t, exec i s = .next t ∧ t.mem = s.mem ∧ t.banks = (s.leaveBanks s.me.id).banks ∧ endedAt t 65 2 0

/-- A class-2 command waits for a price bank that another core's command has begun on: nothing is read or written. -/
def waitsForBank (s : State) (e : Entry) (i : Instr) : Prop :=
  ∃ t, exec i s = .next t ∧ t.mem = s.mem ∧ t.banks = s.banks ∧
    t.me.headEntry 65 = some { e with state := .active, job := .routing [] 0 }

end Sys2Proof.Claims

/-- R199, R201, R202, R204, R207: HIST counts the tokens of each expert and reports those out of range; PSUM writes the
exclusive sums and the total, with status 17 when the total passes 32 bits; APPORT gives each expert the floor of its share of NB and one bay more to
the experts of the largest remainders, lower experts first on equal ones; RSORT writes the pairs in ascending order of expert and
token. A failing head check is status 2 with nothing written; that the count of a failed command is 0 is the model's choice
(log 20). -/
def Sys2Proof.Claims.CountingAndSortingCommandsWriteTheirResults : Prop :=
  ∀ (s : State) (h : CmdHead) (e : Entry), let u := takenUp s 65
    (∀ c bs, waitsAt s 65 h (.hist c) e →
      let n := c.ntok.toNat
      let id := fun k => leVal ((bs.drop (2 * k)).take 2)
      let ok := routeOk s.me h [(c.ids.toNat, 2 * n)] [(c.cnt.toNat, 4 * c.ne.toNat)]
      (ok = false → rejects s (.hist h c)) ∧
      (ok = true → u.engLoad u.me c.ids.toNat (2 * n) = .ok bs → routes s (.hist h c)
        { status := 0, count := ((List.range n).filter (fun k => decide (c.ne.toNat ≤ id k))).length, banks := []
          writes := [(c.cnt.toNat, (List.range c.ne.toNat).flatMap (fun x => leBytes 4 ((List.range n).filter (fun k => id k == x)).length))] })) ∧
    (∀ c bs, waitsAt s 65 h (.psum c) e →
      let n := c.ne.toNat
      let x := fun k => leVal ((bs.drop (4 * k)).take 4)
      let upTo := fun k => ((List.range k).map x).sum
      let ok := routeOk s.me h [(c.cnt.toNat, 4 * n)] [(c.offs.toNat, 4 * (n + 1))]
      (ok = false → rejects s (.psum h c)) ∧
      (ok = true → u.engLoad u.me c.cnt.toNat (4 * n) = .ok bs → routes s (.psum h c)
        { status := if 2 ^ 32 ≤ upTo n then 17 else 0, count := upTo n, banks := []
          writes := [(c.offs.toNat, (List.range (n + 1)).flatMap (fun k => leBytes 4 (upTo k)))] })) ∧
    (∀ c bs, waitsAt s 65 h (.apport c) e →
      let n := c.ne.toNat
      let ok := routeOk s.me h [(c.cnt.toNat, 4 * n)] [(c.bays.toNat, 2 * n)]
      (ok = false → rejects s (.apport h c)) ∧
      let x := fun k => leVal ((bs.drop (4 * k)).take 4)
      let total := ((List.range n).map x).sum
      let q := fun k => c.nb.toNat * x k / total
      let rem := fun k => c.nb.toNat * x k % total
      let left := c.nb.toNat - ((List.range n).map q).sum
      let before := fun k => ((List.range n).filter (fun j => decide (rem k < rem j ∨ (rem j = rem k ∧ j < k)))).length
      (ok = true → u.engLoad u.me c.cnt.toNat (4 * n) = .ok bs → ∃ bays : List Nat, routes s (.apport h c)
        { status := 0, count := bays.sum, banks := [], writes := [(c.bays.toNat, bays.flatMap (leBytes 2))] } ∧
        bays.length = n ∧
        (total = 0 → ∀ k < n, bays[k]? = some 0) ∧
        (total ≠ 0 → bays.sum = c.nb.toNat ∧ ∀ k < n, bays[k]? = some (q k + if before k < left then 1 else 0)))) ∧
    (∀ c bs, waitsAt s 65 h (.rsort c) e →
      let n := c.np.toNat
      let ps := (List.range n).map (fun k => leVal ((bs.drop (8 * k)).take 8))
      routeOk s.me h [(c.src.toNat, 8 * n)] [(c.dst.toNat, 8 * n)] = true → inDieShared (dieOf s.me.id) c.src.toNat (8 * n) = true →
      inDieShared (dieOf s.me.id) c.dst.toNat (8 * n) = true → u.engLoad u.me c.src.toNat (8 * n) = .ok bs →
      ((∃ p ∈ ps, p / 2 ^ 16 % 2 ^ 16 ≠ 0) → rejects s (.rsort h c)) ∧
      ((∀ p ∈ ps, p / 2 ^ 16 % 2 ^ 16 = 0) → ∃ out : List Nat, routes s (.rsort h c)
          { status := 0, count := n, banks := [], writes := [(c.dst.toNat, out.flatMap (leBytes 8))] } ∧
        out.Perm ps ∧ out.Pairwise (fun p q => p % 2 ^ 16 < q % 2 ^ 16 ∨ (p % 2 ^ 16 = q % 2 ^ 16 ∧ p / 2 ^ 32 ≤ q / 2 ^ 32))))

/-- R205, R206, R349: TOPK chooses in each row the K columns of the greatest keys in the order of its key format, ties to
the lower column, and writes their mask and, where an index range is given, their columns in descending key order. -/
def Sys2Proof.Claims.TopkChoosesTheGreatestKeysOfEachRow : Prop :=
  ∀ (s : State) (h : CmdHead) (c : TopkCmd) (e : Entry) (blk ks : List Byte), waitsAt s 65 h (.topk c) e →
    let u := takenUp s 65
    let nr := c.nr.toNat
    let nc := c.nc.toNat
    let k := c.k.toNat
    let w := fun o => leVal ((blk.drop o).take 8)
    let mb := 8 * ((nc + 63) / 64)
    let key := fun row col => leVal ((ks.drop (4 * (row * nc + col))).take 4)
    let m := fun row col => if c.kfmt = 0 then (if key row col < 2 ^ 31 then key row col + 2 ^ 31 else 2 ^ 32 - 1 - key row col)
      else if c.kfmt = 1 then (key row col + 2 ^ 31) % 2 ^ 32 else key row col
    k ≤ nc → u.engLoad u.me c.parm.toNat 32 = .ok blk → u.engLoad u.me (w 0) (4 * nc * nr) = .ok ks →
    s.me.bindOk h = true → triggerHit c.parm.toNat 32 = false → w 0 % 4 = 0 → w 8 % 8 = 0 → w 16 % 2 = 0 →
    (∀ o < 8, (blk.drop 24)[o]?.getD 0 = 0) →
    routeOk s.me h [(w 0, 4 * nc * nr)] ((w 8, mb * nr) :: (if w 16 = 0 then [] else [(w 16, 2 * k * nr)])) = true →
    ∃ rows : Nat → List Nat, routes s (.topk h c)
        { status := 0, count := nr, banks := []
          writes := (w 8, (List.range nr).flatMap (fun r => leBytes mb ((rows r).map (fun x => 2 ^ x)).sum)) ::
            (if w 16 = 0 then [] else [(w 16, (List.range nr).flatMap (fun r => (rows r).flatMap (leBytes 2)))]) } ∧
      ∀ r < nr, (rows r).length = k ∧ (∀ x ∈ rows r, x < nc) ∧
        (rows r).Pairwise (fun x y => m r y < m r x ∨ (m r x = m r y ∧ x < y)) ∧
        ∀ x ∈ rows r, ∀ y < nc, y ∉ rows r → m r y < m r x ∨ (m r x = m r y ∧ x < y)

/-- R208, R209, R210: the PRICE commands on a bank the context owns: READ stores the prices, WRITE takes them from memory,
SCALE multiplies and shifts with saturation and counts the registers that saturated, RESET clears them; registers outside
the named range stay. A bank that is not the context's is status 2, with count 0 (log 20). Commands on one bank are performed
one at a time: a command on a bank that another core's command has begun on waits with nothing done (log 20). -/
def Sys2Proof.Claims.PriceCommandsReadAndWriteTheirRegisters : Prop :=
  ∀ (s : State) (h : CmdHead) (c : PriceCmd) (e : Entry) (b : PriceBank), let u := takenUp s 65
    let inRange := fun k => c.first.toNat ≤ k ∧ k < c.first.toNat + c.num.toNat
    let leaves := fun (i : Instr) (count : Nat) (p : Nat → Int) => ∃ t b', exec i s = .next t ∧ t.mem = s.mem ∧ endedAt t 65 0 count ∧
      t.bankOf c.dom.toNat = some b' ∧ ∀ k, b'.price k = if inRange k then p k else b.price k
    (s.bankOf c.dom.toNat = none →
      (waitsAt s 65 h (.priceRead c) e → rejects s (.priceRead h c)) ∧ (waitsAt s 65 h (.priceWrite c) e → rejects s (.priceWrite h c)) ∧
      (waitsAt s 65 h (.priceScale c) e → rejects s (.priceScale h c)) ∧ (waitsAt s 65 h (.priceReset c) e → rejects s (.priceReset h c))) ∧
    (s.bankOf c.dom.toNat = some b → s.me.bindOk h = true → (∃ n, b.user = some n ∧ n ≠ s.me.id) →
      (waitsAt s 65 h (.priceRead c) e → routeOk s.me h [] [(c.addr.toNat, 4 * c.num.toNat)] = true → waitsForBank s e (.priceRead h c)) ∧
      (waitsAt s 65 h (.priceWrite c) e → routeOk s.me h [(c.addr.toNat, 4 * c.num.toNat)] [] = true → waitsForBank s e (.priceWrite h c)) ∧
      (waitsAt s 65 h (.priceScale c) e → waitsForBank s e (.priceScale h c)) ∧
      (waitsAt s 65 h (.priceReset c) e → waitsForBank s e (.priceReset h c))) ∧
    (s.bankOf c.dom.toNat = some b → s.me.bindOk h = true → (b.user = none ∨ b.user = some s.me.id) →
      (waitsAt s 65 h (.priceRead c) e → routeOk s.me h [] [(c.addr.toNat, 4 * c.num.toNat)] = true → routes s (.priceRead h c)
        { status := 0, count := c.num.toNat, banks := [], writes := [(c.addr.toNat, (List.range c.num.toNat).flatMap (fun k =>
          leBytes 4 (wrapCode 32 (b.price (c.first.toNat + k)))))] }) ∧
      (∀ bs, waitsAt s 65 h (.priceWrite c) e → routeOk s.me h [(c.addr.toNat, 4 * c.num.toNat)] [] = true →
        u.engLoad u.me c.addr.toNat (4 * c.num.toNat) = .ok bs →
        leaves (.priceWrite h c) c.num.toNat (fun k => signedOf 32 (leVal ((bs.drop (4 * (k - c.first.toNat))).take 4)))) ∧
      (waitsAt s 65 h (.priceScale c) e →
        let raw := fun k => b.price k * (c.numer.toNat : Int) / 2 ^ c.shift.toNat
        let sat := fun (x : Int) => max (-(2 ^ 31)) (min x (2 ^ 31 - 1))
        leaves (.priceScale h c) ((List.range c.num.toNat).filter (fun k =>
          decide (raw (c.first.toNat + k) ≠ sat (raw (c.first.toNat + k))))).length (fun k => sat (raw k))) ∧
      (waitsAt s 65 h (.priceReset c) e → leaves (.priceReset h c) c.num.toNat (fun _ => 0)))

/-- R211 to R214: an auction over capacities that add up to its tokens assigns every token to exactly one expert, no expert
beyond its capacity; AUCT whose
blocks can be read completes: it runs that auction in each domain its tokens name, over the domain's tokens, capacities and
prices, and writes each token's record, each domain's status record and bank; capacities that do not add up end it with
status 16 and nothing written. Count 0 with status 2 and with status 16 is the model's choice (log 20). -/
def Sys2Proof.Claims.AuctionAssignsEveryTokenWithinCapacity : Prop :=
  (∀ (eps : Int) (lim : Nat) (caps tokens : List Nat) (aff : Nat → Nat → Int) (prices : List Int), tokens.Nodup → caps.sum = tokens.length →
    let a := auction eps lim caps tokens aff prices
    (a.held.map (·.token)).Perm tokens ∧ ∀ x < caps.length, (a.held.filter (fun g => g.expert == x)).length = caps[x]?.getD 0) ∧
  (∀ (s : State) (h : CmdHead) (c : AuctCmd) (e : Entry) (blk db ab : List Byte) (cb : Nat → List Byte) (bank : Nat → PriceBank),
    waitsAt s 65 h (.auct c) e →
    let u := takenUp s 65
    let nt := c.nt.toNat
    let ne := c.ne.toNat
    let w := fun o => leVal ((blk.drop o).take 8)
    let col := if c.dcol then db.map BitVec.toNat else List.replicate nt c.dom.toNat
    let present := (List.range 16).filter (fun d => col.contains d)
    let tokens := fun d => (List.range nt).filter (fun t => col[t]? == some d)
    let caps := fun d => if c.auto then autoCaps (tokens d).length ne else (List.range ne).map (fun x => leVal (((cb d).drop (2 * x)).take 2))
    let ins := (w 0, 2 * nt * ne) :: ((if c.dcol then [(w 16, nt)] else []) ++
      (if c.auto then [] else present.map (fun d => (w 8 + 2 * ne * d, 2 * ne))))
    let outs := (w 24, 4 * nt) :: present.map (fun d => (w 32 + 16 * d, 16))
    let aff := fun t x => signedOf 16 (leVal ((ab.drop (2 * (t * ne + x))).take 2))
    let res := fun d => auction c.eps.toNat c.lim.toNat (caps d) (tokens d) aff ((List.range ne).map (bank d).price)
    s.me.bindOk h = true → triggerHit c.parm.toNat 64 = false → u.engLoad u.me c.parm.toNat 64 = .ok blk →
    w 0 % 2 = 0 → (c.auto = false → w 8 % 2 = 0) → w 24 % 4 = 0 → w 32 % 16 = 0 → blkZero blk 40 24 = true →
    (c.dcol = true → triggerHit (w 16) nt = false ∧ u.engLoad u.me (w 16) nt = .ok db) →
    col.length = nt → (∀ d ∈ col, d ≤ 15) → (∀ d ∈ present, u.bankOf d = some (bank d) ∧ ((bank d).user = none ∨ (bank d).user = some s.me.id)) →
    routeOk s.me h ins outs = true →
    (∀ d ∈ present, c.auto = false → u.engLoad u.me (w 8 + 2 * ne * d) (2 * ne) = .ok (cb d)) →
    ((∃ d ∈ present, (caps d).sum ≠ (tokens d).length) →
      ∃ t, exec (.auct h c) s = .next t ∧ t.mem = s.mem ∧ t.banks = (s.leaveBanks s.me.id).banks ∧ endedAt t 65 16 0) ∧
    ((∀ d ∈ present, (caps d).sum = (tokens d).length) → u.engLoad u.me (w 0) (2 * nt * ne) = .ok ab →
      routes s (.auct h c)
        { status := 0, count := nt
          writes := (w 24, (List.range nt).flatMap (fun t => leBytes 4 (tokenRecord (res (col[t]?.getD 0)) t))) ::
            present.map (fun d => (w 32 + 16 * d, statusRecord d (res d)))
          banks := present.map (fun d => (bank d).setPrices 0 (res d).prices) }))

/-- R163, R164, R280: CPUT contributes to an idle slot of a group the core is a member of; CGET waits for a posted slot,
takes a ready one and leaves no line in the L1 data cache, and takes cause 20 once after a failure; CTEST reads the slot;
any other use is cause 3 with the group number. -/
def Sys2Proof.Claims.WaveInstructionsActOnTheirSlot : Prop :=
  ∀ (rd ra rb : BitVec 5) (s : State), s.me.plainReg rd = true → s.me.plainReg ra = true → s.me.plainReg rb = true →
    let g := (s.gr rb).toNat
    let e := s.coll.entry s.me.id g
    let may := g < 4096 ∧ (s.me.slot g = none ∨ s.me.slot g = some .failed) ∧ e.getLsbD 31 = true ∧ e.getLsbD 0 = true ∧
      s.coll.planned g = false
    (may → ∃ t, exec (.cput ra rb) s = .next t ∧ t.me.slot g = some (.posted (s.gr ra)) ∧
      t.coll.contrib g s.me.id = some (s.gr ra) ∧ (∀ h k, (h ≠ g ∨ k ≠ s.me.id) → t.coll.contrib h k = s.coll.contrib h k) ∧
      (∀ h, h ≠ g → t.me.slot h = s.me.slot h) ∧ t.me.pc = s.me.pc + 4 ∧ t.me.g = s.me.g ∧ t.mem = s.mem ∧ t.others = s.others) ∧
    (¬ may → exec (.cput ra rb) s = .next (s.takeTrap 3 (s.gr rb))) ∧
    (∀ x, s.me.slot g = some (.posted x) → exec (.cget rd rb) s = .next (s.park (.cget g) rd)) ∧
    (∀ x, s.me.slot g = some (.ready x) → exec (.cget rd rb) s = .next (s.completes (fun c =>
      { (c.clearSlot g).withG rd x with l1d := [] }))) ∧
    (s.me.slot g = some .failed → exec (.cget rd rb) s = .next ((s.updMe (fun c => c.clearSlot g)).takeTrap 20 (BitVec.ofNat 64 (0x1000 + g)))) ∧
    (s.me.slot g = none → exec (.cget rd rb) s = .next (s.takeTrap 3 (s.gr rb))) ∧
    exec (.ctest rd rb) s = .next (s.completes (fun c => c.withG rd (match s.me.slot g with
      | some (.posted _) => 1
      | some (.ready _) => 2
      | _ => 0)))

/-- R39, R163, R164: a wave whose members have all contributed completes with one result, which every posted slot of the
group receives; with a member missing nothing changes; over one level of tree an INT64 add is the sum of all
contributions. In a package that does not hold the
root, the part of its members goes to the package above once it is whole, and the result comes from there. A failed tree
node makes every posted slot fail. -/
def Sys2Proof.Claims.WavesCombineEveryContribution : Prop :=
  (∀ (s : State) (g : Nat),
    let part := fun n => (s.coll.combine g (s.waveRemote g) 4098 n).map (waveWord (treeOp (s.coll.entry n g)))
    let ends := fun (remote : Bool) (w : Word) => ∃ t, exec (.waveComplete g remote) s = .next t ∧ t.mem = s.mem ∧
      (∀ n x, (s.core n).slot g = some (.posted x) → (t.core n).slot g = some (.ready w)) ∧ (∀ n, t.coll.contrib g n = none) ∧
      (∀ h n, h ≠ g → t.coll.contrib h n = s.coll.contrib h n ∧ (t.core n).slot h = (s.core n).slot h) ∧
      t.outbox = s.outbox ++ (s.waveKids g).map (fun k => ⟨s.groupPart g, .wave k g w⟩)
    (∀ r, s.coll.root? g = some r → (part r = none → exec (.waveComplete g false) s = .next s) ∧ (∀ w, part r = some w → ends false w) ∧
      exec (.waveComplete g true) s = .next s) ∧
    (∀ up, s.coll.root? g = none → s.treePkg (treeParent (s.coll.entry hubNode g)) = some up →
      (g ∉ s.coll.waveSent → part hubNode = none → exec (.waveComplete g false) s = .next s) ∧
      (g ∉ s.coll.waveSent → ∀ w, part hubNode = some w → exec (.waveComplete g false) s = .next { s with
        coll := { s.coll with waveSent := g :: s.coll.waveSent }, outbox := s.outbox ++ [⟨s.groupPart g, .wave up g w⟩] }) ∧
      (g ∈ s.coll.waveSent → ∀ w, s.coll.waveIn.find? (fun x => x.1 == g && x.2.1 == up) = some (g, up, w) → ends true w)) ∧
    (∃ t, exec (.treeNodeFailure g) s = .next t ∧ t.mem = s.mem ∧
      (∀ n x, (s.core n).slot g = some (.posted x) → (t.core n).slot g = some .failed) ∧ (∀ n, t.coll.contrib g n = none) ∧
      ∀ h n, h ≠ g → t.coll.contrib h n = s.coll.contrib h n ∧ (t.core n).slot h = (s.core n).slot h)) ∧
  ∀ (c : Collective) (g r : Nat) (v : Word) (f : Nat → Word) (remote : List (Nat × Word)), c.root? g = some r → r < 4096 →
    let e := c.entry r g
    let kids := (List.range 21).filter (fun p => e.getLsbD (p + 1))
    e.getLsbD 31 = true → e.extractLsb' 27 4 = 0 → e.getLsbD 0 = true → c.contrib g r = some v →
    (∀ p ∈ kids, ∃ n, treePort r p = some n ∧ n < 4096 ∧ (c.entry n g).getLsbD 31 = true ∧ (c.entry n g).getLsbD 0 = true ∧
      (∀ k < 21, (c.entry n g).getLsbD (k + 1) = false) ∧ c.contrib g n = some (f p)) →
    (c.combine g remote 4098 r).map (waveWord 0) = some (v + (kids.map f).sum)

namespace Sys2Proof.Claims

/-- The limits of a plan descriptor (R165). -/
def descriptorOk (bs : List Byte) : Prop :=
  let b := fun (o n : Nat) => leVal ((bs.drop o).take n)
  b 0 1 ≤ 4 ∧ ((b 0 1 = 2 ∨ b 0 1 = 3) → b 1 1 = 8) ∧ (b 0 1 ≠ 2 → b 0 1 ≠ 3 → b 1 1 ≤ 7) ∧ (2 ≤ b 2 1 ∧ b 2 1 ≤ 16) ∧
  (1 ≤ b 3 1 ∧ b 3 1 ≤ 8) ∧ (2 ≤ b 8 4 ∧ b 8 4 ≤ 65536) ∧ b 12 2 < 4096 ∧ b 14 2 = 0 ∧ (1 ≤ b 16 8 ∧ b 16 8 ≤ 2 ^ 32) ∧
  b 32 8 < 2 ^ 47 ∧ b 40 8 < 2 ^ 47 ∧ b 48 8 < 2 ^ 47 ∧ b 48 8 % 32 = 0 ∧ (∃ k ≤ 7, b 56 1 = 2 ^ k) ∧ b 57 1 / 32 % 4 = 0 ∧ b 58 6 = 0

/-- A core waits with a CPLAN of a group, issued on the core of a number, for the other members of its plan. -/
def inRound (c : Core) (core group : Nat) : Prop := ∃ e l, c.headEntry 66 = some e ∧ e.state = .active ∧ e.job = .plan l core group

/-- The CPLAN of a core has ended with a status and a count. -/
def planEnded (c : Core) (status count : Nat) : Prop :=
  ∃ e, c.headEntry 66 = some e ∧ e.state = .finishing ∧ e.status = status ∧ e.count = count

/-- The handles of a context are those of other plans than a new one's (R166). -/
def handleFree (c : Collective) (ctx h : Nat) : Prop := ∀ q ∈ c.plans, ∀ m ∈ q.members, m.ctx = ctx → m.handle ≠ h

end Sys2Proof.Claims

/-- R165, R166: a CPLAN at its head whose descriptor is outside R165's limits, whose list has reserved bits or one core
twice, whose core is not named or whose BARCH channel is not held ends with status 18; any other CPLAN completes: it goes to its
coordinator, counted here (the first opens the round), or sent. -/
def Sys2Proof.Claims.PlanDescriptorsAreCheckedBeforeTheirRound : Prop :=
  ∀ (s : State) (h : CmdHead) (cmd : CplanCmd) (e : Entry) (bs : List Byte), waitsAt s 66 h (.cplan cmd) e →
    let u := takenUp s 66
    let k := planCommonOf bs
    let l := planLocalOf bs
    let i := Instr.cplan h cmd
    let rejected := ∃ t, exec i s = .next t ∧ endedAt t 66 18 0 ∧ t.mem = s.mem ∧ t.coll = s.coll
    u.engLoad u.me cmd.desc.toNat 64 = .ok bs →
    (¬ descriptorOk bs → rejected) ∧
    (descriptorOk bs → ∀ ms,
      let b := (u.touch u.me cmd.desc.toNat 64).updMe (fun c => c.updHead 66 (fun e => { e with job := .blocks [bs] }))
      (b.engLoad b.me k.membersAddr (4 * k.nmem) = .ok ms) →
      let at' := fun r => leVal ((ms.drop (4 * r)).take 4)
      let list := (List.range k.nmem).map (fun r => (at' r / 4096, at' r % 4096))
      let good := (∀ r < k.nmem, at' r < 2 ^ 26) ∧ list.Nodup ∧ (s.pkgId, s.me.id) ∈ list ∧ ∀ ch, l.barch = some ch → s.me.holds ch = true
      let a : PlanArrival := { common := k, members := list, pkg := s.pkgId, core := s.me.id }
      let v := (b.touch b.me k.membersAddr ms.length).updMe (fun c => c.updHead 66 (fun e => { e with
        job := .plan l s.me.id k.group, state := .active, since := 0, kick := false }))
      (¬ good → rejected) ∧
      (good → s.coordinates list = true → exec i s = exec (.cplanArrival a) v) ∧
      (good → s.coordinates list = true → s.coll.rounds.find? (fun r => r.group == k.group) = none →
        exec i s = .next { v with coll := { v.coll with rounds := v.coll.rounds ++
          [{ group := k.group, first := a, counted := 1, arrived := [a], differed := false }] } }) ∧
      (good → s.coordinates list = false → exec i s = .next { v with outbox := v.outbox ++ [⟨s.groupPart k.group, .planArrival (s.coordinator list) a⟩] }))

/-- R166: the coordinator counts a CPLAN into the round of its group: the first opens a round; one that differs ends
every waiting CPLAN of the round with status 17; the last of a round that agrees closes it: with the reservations
available the plan is live and every member's CPLAN ends with its handle, which no other plan of its context has; else
they end with status 16. A CPLAN is found by the core it was issued on and its GROUP, wherever its unit is by now. With
members in other packages the reservations are asked of each, and the last answer decides (log 30); a GROUP in use is found
when the round closes (log 25). -/
def Sys2Proof.Claims.PlanRoundsMatchByGroup : Prop :=
  ∀ (s : State) (a : PlanArrival),
    let i := Instr.cplanArrival a
    let g := a.common.group
    let mine := fun (x : PlanArrival) => x.pkg = s.pkgId ∧ inRound (s.core x.core) x.core x.common.group
    (s.coll.rounds.find? (fun r => r.group == a.common.group) = none → 2 ≤ a.common.nmem →
      exec i s = .next { s with coll := { s.coll with rounds := s.coll.rounds ++
        [{ group := a.common.group, first := a, counted := 1, arrived := [a], differed := false }] } }) ∧
    (∀ r, s.coll.rounds.find? (fun r => r.group == a.common.group) = some r →
      (r.differed = true ∨ a.common ≠ r.first.common ∨ a.members ≠ r.first.members →
        ∃ t, exec i s = .next t ∧ t.mem = s.mem ∧ t.coll.plans = s.coll.plans ∧
          (∀ x ∈ r.arrived ++ [a], mine x → planEnded (t.core x.core) 17 0) ∧
          (r.counted + 1 < r.first.common.nmem → ∃ r', t.coll.rounds.find? (fun r => r.group == a.common.group) = some r' ∧
            r'.differed = true ∧ r'.counted = r.counted + 1) ∧
          (r.first.common.nmem ≤ r.counted + 1 → t.coll.rounds.find? (fun r => r.group == a.common.group) = none)) ∧
      (r.differed = false → a.common = r.first.common → a.members = r.first.members → r.counted + 1 < a.common.nmem →
        ∃ t r', exec i s = .next t ∧ t.mem = s.mem ∧ t.me = s.me ∧ t.others = s.others ∧ t.coll.plans = s.coll.plans ∧
          t.coll.rounds.find? (fun r => r.group == a.common.group) = some r' ∧ r'.counted = r.counted + 1 ∧
          r'.arrived = r.arrived ++ [a] ∧ r'.differed = false) ∧
      (r.differed = false → a.common = r.first.common → a.members = r.first.members → a.common.nmem ≤ r.counted + 1 →
        let mems := s.planMembers a.common a.members
        let room := s.canReserve a.common a.members mems.length
        ∃ t, exec i s = .next t ∧ t.mem = s.mem ∧ t.coll.rounds.find? (fun r => r.group == a.common.group) = none ∧
          ((∀ m ∈ a.members, m.1 = s.pkgId) → room = false → t.coll.plans = s.coll.plans ∧ t.coll.tree = s.coll.tree ∧
            ∀ m ∈ a.members, ∀ n, inRound (s.core n) m.2 g → planEnded (t.core n) 16 0) ∧
          ((∀ m ∈ a.members, m.1 = s.pkgId) → room = true → (∀ ctx, (s.coll.freeHandle ctx).isSome = true) →
            (∃ p, t.coll.plans = s.coll.plans.filter (fun q => q.common.group != g) ++ [p] ∧ p.live = true ∧ p.common = a.common ∧
              p.memberList = a.members ∧ p.members = mems) ∧
            t.coll.tree = s.coll.tree.filter (fun e => e.1.2 != g) ++ s.planEntries a.common a.members ∧
            ∀ m ∈ a.members, ∀ w, s.cplanOf m.2 g = some w → ∃ hd < 4096, handleFree s.coll w.1.ctx hd ∧
              ∀ n, inRound (s.core n) m.2 g → planEnded (t.core n) 0 hd) ∧
          ((∃ m ∈ a.members, m.1 ≠ s.pkgId) → t.me = s.me ∧ t.others = s.others ∧ ∃ w ∈ t.coll.reserving,
            w.common = a.common ∧ w.members = a.members ∧ (room = false → w.ok = false) ∧
            (∀ k, k ∈ w.waiting ↔ k ≠ s.pkgId ∧ ∃ m ∈ a.members, m.1 = k) ∧
            ∀ k ∈ w.waiting, ⟨s.groupPart a.common.group, .planReserve k w.id a.common a.members⟩ ∈ t.outbox))) ∧
    -- a hub that has the role no more tells the one that took it over of the plan
    (∀ (w : Reserving) (pkg : Nat), s.coll.reserving.find? (fun r => r.id == w.id) = some w → w.waiting = [pkg] → w.ok = true →
      s.coordinates w.members = false → ∃ plans, ⟨s.groupPart w.common.group,
        .roleState (s.coordinator w.members) (s.ofRoot w.members) 0 plans [] []⟩ ∈ (s.planReserved pkg w.id true).outbox) ∧
    -- the last answer of the packages asked decides: every one of them is told
    (∀ (w : Reserving) (pkg : Nat) (ok : Bool), s.coll.reserving.find? (fun r => r.id == w.id) = some w → w.waiting = [pkg] →
      let t := s.planReserved pkg w.id ok
      t.mem = s.mem ∧ ∀ m ∈ w.members, m.1 ≠ s.pkgId →
        ⟨s.groupPart w.common.group, .planVerdict m.1 w.id (if w.ok && ok then 0 else 16)⟩ ∈ t.outbox)

/-- R57, R61, R167: a trigger of a live handle with an argument that is a multiple of 8 and keeps both buffers in their pages, with
an instance to spare, is the next instance of the member and enters the posting; else it is cause 3 with the trigger
address and posts nothing. SD to an address of the trigger window is that trigger, and then completes; an address that is
no multiple of 8 is cause 2. -/
def Sys2Proof.Claims.TriggersPostTheNextInstance : Prop :=
  ∀ (s : State) (handle : Nat) (va arg : Word),
    (s.memberOf s.me handle = none → triggerM handle va arg s = .error (.trap 3 va)) ∧
    (∀ p m, s.memberOf s.me handle = some (p, m) →
      let good := s.me.freeing handle = false ∧ arg.toNat % 8 = 0 ∧ m.outstanding.length < p.common.inst ∧
        s.argOk s.me m.loc.src (srcBytes p.common) arg = true ∧ s.argOk s.me m.loc.dst (dstBytes p.common) arg = true
      (¬ good → triggerM handle va arg s = .error (.trap 3 va)) ∧
      (good → ∃ t, triggerM handle va arg s = .ok ((), t) ∧ t.mem = s.mem ∧ t.me = s.me ∧
        (∃ q ∈ t.coll.plans, ∃ m' ∈ q.members, q.common = p.common ∧ m'.rank = m.rank ∧ m'.triggered = m.triggered + 1 ∧
          m'.outstanding = m.outstanding ++ [(m.triggered, arg)]) ∧
        t.outbox = s.outbox ∧ t.coll.localPostings = s.coll.localPostings ++
          [{ posting := { group := p.common.group, inst := m.triggered, rank := m.rank }, sent := false, refusedAt := none }])) ∧
    (∀ (rs ra : BitVec 5) (off : BitVec 13), s.me.plainReg rs = true → s.me.plainReg ra = true →
      va = s.gr ra + off.signExtend 64 → windowOf va.toNat = .trigger handle → arg = s.gr rs →
      (va.toNat % 8 ≠ 0 → exec (.sd rs ra off) s = .next (s.takeTrap 2 va)) ∧
      (va.toNat % 8 = 0 → triggerM handle va arg s = .error (.trap 3 va) → exec (.sd rs ra off) s = .next (s.takeTrap 3 va)) ∧
      (va.toNat % 8 = 0 → ∀ t, triggerM handle va arg s = .ok ((), t) → exec (.sd rs ra off) s = .next t.retire))

/-- R169, R170: the coordinator takes a posting into its table, answers the hub it came from and tickets the instance with
its last: its own count in a domain, bit 63 and the root's count above domains; a hub without the role refuses it, and the
resend delivers it. A root ticket goes to every domain's coordinator, which appends it to the domain's stream, and a
domain's own joins that stream. A move of a role changes who holds it, and the hub that gives it up hands its plans, its
accepted postings, its open rounds and its count to the new one. That a hub without the role refuses a posting until its
resend, that one posting to a coordinator is on its way at a time, and what a role's move hands over are the model's choice
(log 25). -/
def Sys2Proof.Claims.PostingsBecomeTicketsInStreamOrder : Prop :=
  ∀ (s : State) (x : Posting) (p : Plan) (tk : Ticket),
    let mine := fun (l : LocalPosting) => l.posting == x
    let ranks := match s.coll.coordTable.find? (fun e => e.1 == x.group && e.2.1 == x.inst) with | some e => e.2.2 | none => []
    let from' := match p.memberList[x.rank]? with | some m => m.1 | none => s.pkgId
    let way := s.groupPart x.group
    let pkgs := dedup (p.memberList.map (·.1))
    (s.coll.plans.find? (fun p => p.common.group == x.group && p.live) = some p → s.refusedAndFreed p x = false →
      (from' = s.pkgId → s.firstPosting x = false → exec (.postingArrival x) s = .next s) ∧
      (from' = s.pkgId → s.firstPosting x = true → s.coordinates p.memberList = false →
        exec (.postingArrival x) s = .next { s with coll := { s.coll with
          localPostings := replaceFirst mine (fun l => { l with sent := false, refusedAt := some s.cycle }) s.coll.localPostings } }) ∧
      (from' ≠ s.pkgId → s.coordinates p.memberList = false →
        exec (.postingArrival x) s = .next { s with outbox := s.outbox ++ [⟨way, .postingAnswer from' x 1⟩] }) ∧
      ((from' = s.pkgId → s.firstPosting x = true) → s.coordinates p.memberList = true → x.rank ∉ ranks →
        ∃ t, exec (.postingArrival x) s = .next t ∧ t.mem = s.mem ∧
          (from' = s.pkgId → t.coll.localPostings = removeFirst mine s.coll.localPostings) ∧
          (from' ≠ s.pkgId → t.coll.localPostings = s.coll.localPostings ∧ ⟨way, .postingAnswer from' x 0⟩ ∈ t.outbox) ∧
          (ranks.length + 1 < p.common.nmem → t.coll.stream = s.coll.stream ∧
            t.coll.coordTable.find? (fun e => e.1 == x.group && e.2.1 == x.inst) = some (x.group, x.inst, ranks ++ [x.rank])) ∧
          (p.common.nmem ≤ ranks.length + 1 →
            t.coll.coordTable.find? (fun e => e.1 == x.group && e.2.1 == x.inst) = none ∧
            ((∀ k ∈ pkgs, s.coll.domainOf s.pkgId k = s.coll.domain) →
              t.coll.domainCount = s.coll.domainCount + 1 ∧ t.coll.rootCount = s.coll.rootCount ∧
              let own : Ticket := ⟨p.common.group, x.inst, BitVec.ofNat 64 (s.coll.domainCount + 1), pkgs⟩
              (s.pkgId ∈ pkgs → own ∈ t.coll.stream) ∧ ∀ k ∈ pkgs, k ≠ s.pkgId → ⟨way, .ticket k own⟩ ∈ t.outbox) ∧
            ((∃ k ∈ pkgs, s.coll.domainOf s.pkgId k ≠ s.coll.domain) →
              t.coll.rootCount = s.coll.rootCount + 1 ∧ t.coll.domainCount = s.coll.domainCount ∧
              let root : Ticket := ⟨p.common.group, x.inst, 0x8000000000000000 ||| BitVec.ofNat 64 (s.coll.rootCount + 1), pkgs⟩
              ∀ k ∈ pkgs, let hub := s.domainCoord (s.coll.domainOf s.pkgId k) pkgs
                (hub ≠ s.pkgId → ⟨way, .rootTicket hub root⟩ ∈ t.outbox) ∧
                (hub = s.pkgId → s.pkgId ∈ pkgs → root ∈ t.coll.stream))))) ∧
    (∀ l hub q, s.coll.localPostings.find? (fun l => s.postingHub l.posting == hub) = some l → l.refusedAt.isSome = true →
      s.planOf l.posting.group = some q → s.refusedAndFreed q l.posting = false →
      (hub = s.pkgId → exec (.postingResend hub) s = exec (.postingArrival l.posting) s) ∧
      (hub ≠ s.pkgId → exec (.postingResend hub) s = .next { s with
        coll := { s.coll with
          localPostings := replaceFirst (fun m => m.posting == l.posting) (fun m => { m with sent := true, refusedAt := none }) s.coll.localPostings }
        outbox := s.outbox ++ [⟨s.groupPart l.posting.group, .posting hub l.posting⟩] })) ∧
    (tk.pkgs = [s.pkgId] → exec (.rootTicketArrival tk) s = .next { s with coll := { s.coll with stream := s.coll.stream ++ [tk] } }) ∧
    (∃ t, exec (.rootTicketArrival tk) s = .next t ∧ t.mem = s.mem ∧ ∀ k ∈ tk.pkgs, s.coll.domainOf s.pkgId k = s.coll.domain →
      (k = s.pkgId → tk ∈ t.coll.stream) ∧ (k ≠ s.pkgId → ⟨s.groupPart tk.group, .ticket k tk⟩ ∈ t.outbox)) ∧
    (∀ hub d, (s.coll.isRoot = false ∨ hub = s.pkgId) →
      exec (.coordinatorRoleMove true d hub) s = .next { s with coll := { s.coll with rootHub := hub, isRoot := hub == s.pkgId } }) ∧
    (∀ hub, (s.coll.isDomain = false ∨ hub = s.pkgId) → exec (.coordinatorRoleMove false s.coll.domain hub) s = .next { s with
      coll := { s.coll with domainHub := hub, isDomain := hub == s.pkgId } }) ∧
    -- the hub that gives a role up hands what it holds in it to the other one, which takes it over
    (∀ (root : Bool) (hub : Nat), (if root then s.coll.isRoot else s.coll.isDomain) = true → hub ≠ s.pkgId →
      let plans := s.coll.plans.filter (fun q => s.ofRoot q.memberList == root)
      let inRole := fun (g : Nat) => plans.any (fun q => q.common.group == g)
      ∃ t, exec (.coordinatorRoleMove root s.coll.domain hub) s = .next t ∧ t.mem = s.mem ∧ t.me = s.me ∧ t.coll.plans = s.coll.plans ∧
        t.coll.localPostings = s.coll.localPostings ∧ t.coll.stream = s.coll.stream ∧
        (if root then t.coll.rootHub = hub ∧ t.coll.isRoot = false else t.coll.domainHub = hub ∧ t.coll.isDomain = false) ∧
        t.coll.coordTable = s.coll.coordTable.filter (fun e => !inRole e.1) ∧
        t.outbox = s.outbox ++ [⟨none, .roleState hub root (if root then s.coll.rootCount else s.coll.domainCount) (plans.map Plan.role)
          (s.coll.coordTable.filter (fun e => inRole e.1)) (s.coll.rounds.filter (fun r => s.ofRoot r.first.members == root))⟩]) ∧
    (∀ (root : Bool) (n : Nat) (plans : List RolePlan) (table : List (Nat × Nat × List Nat)),
      let t := s.takeRole root n plans table []
      t.mem = s.mem ∧ t.me = s.me ∧ (if root then t.coll.rootCount = max s.coll.rootCount n else t.coll.domainCount = max s.coll.domainCount n) ∧
      t.coll.coordTable = s.coll.coordTable ++ table ∧ ∀ r ∈ plans, ∃ q ∈ t.coll.plans, q.round = r.round) ∧
    (∀ hub d, d ≠ s.coll.domain → exec (.coordinatorRoleMove false d hub) s = .next { s with
      coll := { s.coll with domainHubs := setAssoc d hub s.coll.domainHubs } })

namespace Sys2Proof.Claims

/-- Element k of width w of a buffer. -/
def bufAt (bs : List Byte) (w k : Nat) : Nat := leVal ((bs.drop (w * k)).take w)

/-- The one member here of a plan's instance that has started. -/
def soleStart (s : State) (p : Plan) (m : PlanMember) (x : StartedInst) : Prop :=
  s.planOf x.group = some p ∧ p.members.find? (fun m => m.rank == x.rank) = some m ∧
  s.coll.startedAt x.group x.inst = [x]

end Sys2Proof.Claims

/-- R39, R113, R165, R168, R171, R377: the ticket at the head of the package's stream, and no other, starts its instance at
each member here that triggered it: what those members contribute is read once, stands here, and leaves for the other packages
of the plan, or word that it could not be read. Once every contribution is there
the member's result is stored at DST plus the argument, then the record with the global rank at its ring slot, and the instance is
outstanding no more; a contribution that could not be read, here or elsewhere, is a record of status 3 and cause 20 instead, and waits while the event queue has no room for the report.
An INT64 all-reduce gives every rank the sum of all contributions, element by element; a broadcast
gives rank 0's, an all-gather all of them in rank order, a reduce-scatter the sum of the rank's slice. -/
def Obligations.InstancesStartByTicketAndEndWithTheirResult : Prop :=
  (∀ (s : State) (t0 : Ticket), s.coll.stream.head? ≠ some t0 → exec (.ticketArrival t0) s = .next s) ∧
  (∀ (s : State) (t0 : Ticket) (p : Plan), s.coll.stream.head? = some t0 → s.planOf t0.group = some p →
    let ms := p.members.filter (fun m => m.outstanding.any (fun o => o.1 == t0.inst) && !s.coll.endWaits p m.rank t0.inst)
    ∃ t, exec (.ticketArrival t0) s = .next t ∧ t.mem = s.mem ∧ t.me = s.me ∧ t.coll.stream = s.coll.stream.drop 1 ∧
      t.coll.arrived = s.coll.arrived ++ (ms.filter (fun m => decide (p.common.kind ≠ 2 ∨ m.rank = 0))).map (fun m =>
        (p.common.group, t0.inst, m.rank, s.contribution p m t0.inst)) ∧
      t.coll.started = s.coll.started ++ ms.map (fun m => ⟨t0.group, t0.inst, m.rank, t0.grank⟩) ∧
      ((∀ m ∈ p.memberList, m.1 = s.pkgId) → t.outbox = s.outbox) ∧
      ∀ m ∈ ms, (p.common.kind ≠ 2 ∨ m.rank = 0) → ∀ n ∈ p.memberList, n.1 ≠ s.pkgId → ⟨s.groupPart p.common.group,
        .contribution n.1 p.common.group t0.inst m.rank (s.contribution p m t0.inst)⟩ ∈ t.outbox) ∧
  (∀ (s : State) (p : Plan) (m : PlanMember) (x : StartedInst), soleStart s p m x → m.loc.barch = none →
    let i := Instr.instanceEnd x.group x.inst
    let record := fun (u : State) (status cause : Nat) => u.engStoreAs (u.hubAgent m.ctx m.core) (m.loc.crec + 32 * (x.inst % m.loc.cring))
      (recordBytes status 66 cause (BitVec.ofNat 16 m.handle) x.grank.toNat u.cycle 0)
    let isOver := fun (t : State) => ∀ q ∈ t.coll.plans, q.common.group = p.common.group → ∀ m' ∈ q.members, m'.rank = m.rank →
      ∀ o ∈ m'.outstanding, o.1 ≠ x.inst
    (s.contributions p x.inst = none → ∀ failed, ∃ t, exec (i failed) s = .next t ∧ t.mem = s.mem) ∧
    (s.contributions p x.inst = some none → ∀ v, record s 3 20 = .ok v → v.memberRoom m 1 = false → ∃ t, exec (i true) s = .next t ∧
      t.mem = s.mem ∧ t.me.events = s.me.events) ∧
    (s.contributions p x.inst = some none → ∀ v, record s 3 20 = .ok v → v.memberRoom m 1 = true → ∃ t, exec (i true) s = .next t ∧ t.mem = v.mem ∧ isOver t) ∧
    (∀ bufs, s.contributions p x.inst = some (some bufs) → planResult p.common bufs x.rank = none → ∀ v, record s 0 0 = .ok v →
      ∃ t, exec (i false) s = .next t ∧ t.mem = v.mem ∧ isOver t) ∧
    (∀ bufs bs u v, s.contributions p x.inst = some (some bufs) → planResult p.common bufs x.rank = some bs →
      s.engStoreAs (s.hubAgent m.ctx m.core) (BitVec.ofNat 64 m.loc.dst + m.arg x.inst).toNat bs = .ok u → record u 0 0 = .ok v →
      ∃ t, exec (i false) s = .next t ∧ t.mem = v.mem ∧ isOver t)) ∧
  (∀ (k : PlanCommon) (bufs : List (List Byte)) (rank : Nat), k.op = 0 → 2 ≤ k.fanout →
    let sums := fun first => (List.range k.count).flatMap (fun i => leBytes 8 ((bufs.map (fun b => bufAt b 8 (first + i))).sum % 2 ^ 64))
    (k.kind = 0 → planResult k bufs rank = some (sums 0)) ∧
    (k.kind = 1 → planResult k bufs rank = if rank = 0 then some (sums 0) else none) ∧
    (k.kind = 2 → planResult k bufs rank = some (bufs[0]?.getD [])) ∧
    (k.kind = 3 → planResult k bufs rank = some bufs.flatten) ∧
    (k.kind = 4 → planResult k bufs rank = some (sums (rank * k.count))))

/-- R173, R174, R177, R350: CFREE of a handle that is not live in the context ends with status 2; of a live one it makes the
handle not live at the member at once, and ends with status 0 when nothing of the plan is outstanding there. A hub's failure
frees every plan with a rank in its package, and an instance outstanding ends with status 3 and cause 20. -/
def Obligations.FreedAndFailedPlansAreNotLive : Prop :=
  (∀ (s : State) (h : CmdHead) (c : CfreeCmd) (e : Entry), waitsAt s 66 h (.cfree c) e →
    (s.memberOf s.me c.handle.toNat = none →
      ∃ t, exec (.cfree h c) s = .next t ∧ endedAt t 66 2 0 ∧ t.coll = s.coll ∧ t.mem = s.mem) ∧
    (∀ p m, s.memberOf s.me c.handle.toNat = some (p, m) →
      ∃ t, exec (.cfree h c) s = .next t ∧ t.mem = s.mem ∧
        (m.isMe s.me = true → (∀ q ∈ s.coll.plans, q ≠ p → ∀ m' ∈ q.members, m'.ctx = s.me.ctx → m'.handle ≠ c.handle.toNat) →
          t.memberOf t.me c.handle.toNat = none) ∧
        ∀ q m', s.freeingOf p.round m.rank = some (q, m') →
          (m'.outstanding = [] → endedAt t 66 0 0) ∧
          (m'.outstanding ≠ [] → t.me.headEntry 66 = some { e with state := .active, job := .freeing p.round m.rank }))) ∧
  (∀ (s : State) (pkg : Nat), ∃ t, exec (.hubFailure pkg) s = .next t ∧ ∀ q ∈ t.coll.plans, ∀ m ∈ q.memberList, m.1 ≠ pkg) ∧
  (∀ (s v : State) (pkg k : Nat) (arg : Word) (p : Plan) (m : PlanMember) (x : StartedInst), s.coll.plans = [p] → p.members = [m] →
    m.outstanding = [(k, arg)] → (∃ n ∈ p.memberList, n.1 = pkg) → s.coll.started = [x] → x.group = p.common.group → x.inst = k →
    x.rank = m.rank → s.coll.endWaits p m.rank k = false →
    s.engStoreAs (s.hubAgent m.ctx m.core) (m.loc.crec + 32 * (k % m.loc.cring))
      (recordBytes 3 66 20 (BitVec.ofNat 16 m.handle) x.grank.toNat s.cycle 0) = .ok v → v.memberRoom m 1 = true →
    ∃ t, exec (.hubFailure pkg) s = .next t ∧ t.mem = v.mem ∧ t.coll.plans = [] ∧
      (∀ y ∈ t.coll.tree, y.1.2 ≠ p.common.group) ∧ ∀ l ∈ t.coll.localPostings, l.posting.group ≠ p.common.group)

namespace Sys2Proof.Claims

/-- A packet's limits that need no table (R74). -/
def packetLimits (k : Packet) (h : KernelHeader) : Prop :=
  (1 ≤ k.units ∧ k.units ≤ 4096 ∧ k.units % k.gang = 0) ∧ (k.gang = 1 ∨ k.gang = 2 ∨ k.gang = 4 ∨ k.gang = 8) ∧
  (h.gangReq = 0 ∨ k.gang = h.gangReq) ∧ k.flags < 16 ∧ (k.ragged = true → k.gang = 1 ∧ k.persistent = false) ∧
  (h.detReq = true → k.det = true) ∧ (k.det = true → k.units = h.canon) ∧ h.privMax ≤ k.priv ∧ k.kerf + (k.ports + 1) / 2 ≤ k.priv ∧
  h.shrMax ≤ k.shared ∧ k.priv + k.shared ≤ 256 ∧ h.accMax ≤ k.acc ∧ k.acc ≤ 128 ∧ k.acc % 4 = 0 ∧ k.gang * k.acc ≤ 512 ∧
  h.kerfMax ≤ k.kerf ∧ k.kerf ≤ 64 ∧ 1 ≤ k.weight ∧ k.weight ≤ 15 ∧ k.prio ≤ 15 ∧ h.barMax ≤ k.barriers ∧ k.barriers ≤ 8 ∧
  h.portMax ≤ k.ports ∧ k.ports ≤ 8 ∧ k.pad = 0 ∧ k.crec % 32 = 0

end Sys2Proof.Claims

/-- R74, R75, R352: LAUNCH reads its packet and the kernel's header; a packet with a field out of its limits is rejected
with a record of status 2 that names the field, and the entry counts 0; else the launch enters its table with what the
packet says, takes its channels, is ready when its count is zero or less, and the entry counts 1. -/
def Sys2Proof.Claims.LaunchPacketsAreAcceptedOrRejected : Prop :=
  (∀ (s : State) (c : Core) (p : Partition) (key : LaunchKey) (k : Packet) (h : Option KernelHeader) (recs : Option (List Byte)),
    s.packetFault c p key k h recs = none → ∃ hd, h = some hd ∧ packetLimits k hd ∧ k.barriers ≤ (s.freeChannels p).length) ∧
  (∀ (s : State) (h : CmdHead) (cmd : LaunchCmd) (e : Entry) (p : Partition) (bs : List Byte), waitsAt s 67 h (.launch cmd) e →
    let u := takenUp s 67
    let k := packetOf s.me.id bs
    let key : LaunchKey := { part := p.id, ctx := s.me.ctx, graph := k.graph, index := k.index }
    let x := u.headerBytes u.me k.entry
    u.engLoad u.me cmd.pkt.toNat 64 = .ok bs → s.partOf s.me.id = some p → s.part? p.id = some p → k.ragged = false →
    u.engPlace u.me k.crec 32 .store ≠ .retry →
    (∀ hd, headerIn x.1 x.2 = some hd → u.packetFault u.me p key k (some hd) none = none →
      ∃ t l, exec (.launch h cmd) s = .next t ∧ endedAt t 67 0 1 ∧ t.mem = s.mem ∧ t.launch? key = some l ∧ l.ctx = s.me.ctx ∧
        l.startPc = BitVec.ofNat 64 (k.entry + hd.hlen) ∧ l.unitCount = k.units ∧ l.gangSize = k.gang ∧ l.prio = k.prio ∧
        l.det = k.det ∧ l.persistent = k.persistent ∧ l.crec = BitVec.ofNat 64 k.crec ∧ l.tag = h.tag ∧ l.units = [] ∧
        l.state = (if l.depCount ≤ 0 then .ready else .blocked) ∧
        (s.launch? key = none → (∀ x ∈ p.launches, k.index ∉ x.kept) → l.depCount = k.deps) ∧
        l.channels.length = k.barriers ∧ ∀ n ∈ l.channels, ∃ ch ∈ t.channels, ch.num = n ∧ ch.holder = key) ∧
    (∀ f, u.packetFault u.me p key k (headerIn x.1 x.2) none = some f →
      let w := (u.rejectInGraph p s.me.ctx k).updMe (fun c => c.updHead 67 (fun e => { e with job := .rejected k.crec f.1 f.2 }))
      ∀ v, w.engStoreAs (w.hubAgent s.me.ctx s.me.id) k.crec (launchRecord 2 f.1 f.2 0 0 s.cycle) = .ok v →
        ∃ t, exec (.launch h cmd) s = .next t ∧ endedAt t 67 0 0 ∧ t.mem = v.mem))

/-- R82, R85: firmware's write of a blocked launch's count makes it ready at zero; a launch ready for 2^20 cycles is aged,
and counts as priority 15. A ready launch that has no unit to create is served at once (R77); else the placer's
head holds it until every one of its units has been placed; with no head it takes the ready launch of the highest priority, the
one that became ready first among equals. -/
def Sys2Proof.Claims.LaunchesBecomeReadyAndAge : Prop :=
  (∀ (s : State) (k : LaunchKey) (l : Launch) (n : Nat), s.launch? k = some l → l.state = .blocked → l.key = k →
    ∃ t l', exec (.dependenceCountWrite k.part ⟨k.ctx, k.graph⟩ k.index n) s = .next t ∧ t.launch? k = some l' ∧ l'.depCount = n ∧
      l'.state = (if n = 0 then .ready else .blocked) ∧ (n = 0 → l'.readyAt = s.cycle) ∧ t.mem = s.mem ∧ t.me = s.me) ∧
  (∀ (s : State) (part : Nat), ∃ t, exec (.launchAging part) s = .next t ∧ t.mem = s.mem ∧ t.me = s.me ∧
    ∀ k, t.launch? k = (s.launch? k).map (fun l =>
      if k.part = part ∧ l.state = .ready ∧ 2 ^ 20 ≤ s.cycle - l.readyAt then { l with aged := true } else l)) ∧
  (∀ (p : Partition) (l : Launch), p.headLaunch = some l → (∃ x ∈ p.launches, x.state = .ready ∧ x.created = []) →
    l ∈ p.launches ∧ l.state = .ready ∧ l.created = []) ∧
  (∀ (p : Partition) (l : Launch) (k : LaunchKey), (∀ x ∈ p.launches, x.state = .ready → x.created ≠ []) → p.head = some k →
    p.launches.find? (fun x => x.key == k) = some l → (l.state = .ready ∨ l.state = .placing) → p.headLaunch = some l) ∧
  (∀ (p : Partition) (l : Launch), (∀ x ∈ p.launches, x.state ≠ .placing ∧ (x.state = .ready → x.created ≠ [])) → p.head = none →
    p.headLaunch = some l →
    let prio := fun (x : Launch) => if x.aged then 15 else x.prio
    l ∈ p.launches ∧ l.state = .ready ∧ ∀ x ∈ p.launches, x.state = .ready → prio x ≤ prio l ∧ (prio x = prio l → l.readySeq ≤ x.readySeq))

namespace Sys2Proof.Claims

/-- The state of R251 that every unit starts with, whatever its core did before. -/
def startsAfresh (c : Core) : Prop :=
  let u := c.user
  c.super = false ∧ (∀ k, c.gpr k = 0) ∧ c.shadow = Vector.replicate 8 0 ∧ c.v = Vector.replicate 32 0 ∧ c.p = Vector.replicate 8 0 ∧
  u.fctl = 0 ∧ u.fflags = 0 ∧ u.evcnt = Vector.replicate 8 0 ∧ u.instret = 0 ∧ u.uivec = 0 ∧ u.uipc = 0 ∧ u.uicause = 0 ∧
  u.uival = 0 ∧ u.uienable = 0 ∧ u.portmap = 0 ∧ u.chancfg = Vector.replicate 4 0 ∧ u.gatherptr = 0 ∧ u.mfmt = 0x33 ∧
  u.ascale = 0 ∧ u.bscale = 0 ∧ u.waitto = 0 ∧ u.portwait = 65536 ∧ u.kseq = 0 ∧ u.merrstat = 0 ∧ u.merrlog0 = 0 ∧
  u.merrlog1 = 0 ∧ u.restored = false ∧ c.kerfHead = [] ∧ c.kerfRB = 0 ∧ c.kerfBB = 0 ∧ c.ports = Vector.replicate 8 ⟨[], 0, 0⟩ ∧
  c.entries = [] ∧ c.events = [] ∧ c.notices = [] ∧ c.fifoA.bytes = [] ∧ c.fifoB.bytes = [] ∧ c.waves = []

end Sys2Proof.Claims

/-- R76, R79, R80, R86, R251, R322: the placer starts units of the head launch on its cores: each core runs its unit at the
kernel's entry with the state of R251: every register zero, FCTL, MFMT and PORTWAIT as the table gives them, the launch's
channels as its barrier mask, its slice of the backing in KBACK. Its local store and allotment are zero unless a unit of
the same launch used the core before; then they are kept. Of the supervisor's registers none changes but, on a core that
passes to the launch, CTXID and PTROOT, to which the core is bound: that it is is the model's reading of R251's last sentence
(log 9). -/
def Obligations.PlacingStartsUnitsOnTheirCores : Prop :=
  ∀ (s : State) (part : Nat) (p : Partition) (l : Launch) (all : List (Nat × UnitPlace)) (nunits : Nat) (units cores : List Nat),
    s.part? part = some p → p.headLaunch = some l → l.key.part = part → s.launch? l.key = some l →
    s.placement p l = some (all, nunits, units, cores) → cores.Nodup → units.length = cores.length → units ≠ [] →
    (∀ n ∈ cores, n < 4096) → (∀ x ∈ units, (x, UnitPlace.unplaced) ∈ all) → (all.map (·.1)).Nodup → l.channels.Nodup →
    ∃ t, exec (.placeLaunch part) s = .next t ∧ ∀ x n, (x, n) ∈ units.zip cores →
      let c := t.core n
      let old := s.core n
      let store := fun a => localKey n 0 ≤ a ∧ a < localKey (n + 1) 0
      c.run = .running ∧ c.pc = l.startPc ∧ startsAfresh c ∧
      (∀ ch < 64, c.user.bmask.getLsbD ch = decide (ch ∈ l.channels)) ∧
      c.user.kback = (if l.ragged = true ∨ l.kerfKiB = 0 then 0
        else BitVec.ofNat 64 ((l.kback + x * (4 * l.kerfKiB) * 4096) / 4096 * 4096 + 4 * l.kerfKiB)) ∧
      c.sup = (if old.lastLaunch = some l.key then old.sup
        else { old.sup with ctxid := BitVec.ofNat 64 l.ctx, ptroot := (match s.ctx? l.ctx with | some y => y.ptroot | none => 0) }) ∧
      (∃ g, c.unit = some g ∧ g.launch = l.key ∧ g.ctx = l.ctx ∧ g.unit = x ∧ g.nunits = nunits ∧ g.gangSize = l.gangSize ∧
        g.gangPos = x % l.gangSize ∧ g.channels = l.channels) ∧
      (old.lastLaunch ≠ some l.key → c.accum = [] ∧ ∀ a, store a → Memory.read a t.mem = Memory.unlisted a) ∧
      (old.lastLaunch = some l.key → c.accum = old.accum ∧ ∀ a, store a → Memory.read a t.mem = Memory.read a s.mem) ∧
      ∃ l', t.launch? l.key = some l' ∧ (x, UnitPlace.on n) ∈ l'.units

/-- R81, R84, R89, R353 to R355: RANGEINIT gives the range unit of the core's truss to its context; CNTWAIT ends with the
counter's status when it has completed or is not to wait, seals it if asked, waits otherwise; CANCEL stops a unit by its core
number and ends when its core has been released (a unit whose EXIT is over has exited, and is not counted), and marks a launch that
has not begun cancelled; a level that names nothing ends with status 17, one that
has completed with status 16. -/
def Sys2Proof.Claims.WorkCommandsActOnRangesCountersAndUnits : Prop :=
  (∀ (s : State) (h : CmdHead) (c : RangeinitCmd) (e : Entry), waitsAt s 67 h (.rangeinit c) e →
    ∃ t, exec (.rangeinit h c) s = .next t ∧ endedAt t 67 0 c.length.toNat ∧ t.mem = s.mem ∧
      t.range? (s.me.id / 64) c.ru.toNat = some ⟨s.me.id / 64, c.ru.toNat, s.me.ctx, c.start, c.length.toNat, c.div.toNat, c.minc.toNat⟩ ∧
      ∀ tr n, (tr ≠ s.me.id / 64 ∨ n ≠ c.ru.toNat) → t.range? tr n = s.range? tr n) ∧
  (∀ (s : State) (h : CmdHead) (c : CntwaitCmd) (e : Entry), waitsAt s 67 h (.cntwait c) e →
    let st := s.counterState s.me c.level.toNat c.key.toNat c.index.toNat
    let i := Instr.cntwait h c
    (st = none → ∃ t, exec i s = .next t ∧ endedAt t 67 17 0 ∧ t.mem = s.mem ∧ t.parts = s.parts) ∧
    (∀ w done, st = some (w, done) → c.sealIt = false →
      (done = true ∨ c.nowait = true → ∃ t, exec i s = .next t ∧ endedAt t 67 0 w ∧ t.mem = s.mem ∧ t.parts = s.parts) ∧
      (done = false → c.nowait = false → ∃ t, exec i s = .next t ∧ t.me.headEntry 67 = some { e with state := .active } ∧
        t.mem = s.mem ∧ t.parts = s.parts)) ∧
    (∀ p k, c.sealIt = true → 2 ≤ c.level.toNat → c.level.toNat ≤ 4 → s.partOf s.me.id = some p → s.part? p.id = some p →
      p.counter? s.me.ctx c.level.toNat c.key.toNat = some k → k.outstanding = 0 →
      ∃ t q k', exec i s = .next t ∧ endedAt t 67 0 k.status ∧ t.part? p.id = some q ∧
        q.counter? s.me.ctx c.level.toNat c.key.toNat = some k' ∧ k'.sealed = true ∧ k'.complete = true)) ∧
  (∀ (s : State) (h : CmdHead) (c : CancelCmd) (e : Entry), waitsAt s 67 h (.cancel c) e →
    let st := s.counterState s.me c.level.toNat c.key.toNat c.index.toNat
    let i := Instr.cancel h c
    (c.level ≠ 0 → st = none → ∃ t, exec i s = .next t ∧ endedAt t 67 17 0 ∧ t.mem = s.mem ∧ t.parts = s.parts) ∧
    (∀ w p, c.level ≠ 0 → s.partOf s.me.id = some p → st = some (w, true) →
      ∃ t, exec i s = .next t ∧ endedAt t 67 16 0 ∧ t.mem = s.mem ∧ t.parts = s.parts) ∧
    (∀ p u l, c.level = 0 → s.partOf s.me.id = some p → c.key.toNat ≠ s.me.id → (s.core c.key.toNat).unit = some u →
      u.ctx = s.me.ctx → (s.core c.key.toNat).id = c.key.toNat → c.key.toNat ∉ s.zeroing → s.launch? u.launch = some l →
      l.running.filter (fun x => decide (x.1 / u.gangSize = u.unit / u.gangSize)) = [(u.unit, .on c.key.toNat)] →
      ((s.core c.key.toNat).exiting = true → ∃ t e', exec i s = .next t ∧ (t.core c.key.toNat).unit = none ∧
        t.me.headEntry 67 = some e' ∧ e'.status = 0 ∧ e'.count = 0) ∧
      ((s.core c.key.toNat).exiting = false → ∃ t e' cores, exec i s = .next t ∧ (t.core c.key.toNat).unit = none ∧ (t.core c.key.toNat).run = .zeroing ∧
        t.me.headEntry 67 = some e' ∧ e'.state = .active ∧ e'.job = .cancel cores ∧ c.key.toNat ∈ cores ∧ e'.status = 0 ∧ e'.count = 1)) ∧
    (∀ p l, c.level = 1 → s.partOf s.me.id = some p → s.part? p.id = some p →
      s.launch? { part := p.id, ctx := s.me.ctx, graph := c.key.toNat, index := c.index.toNat } = some l →
      l.key = { part := p.id, ctx := s.me.ctx, graph := c.key.toNat, index := c.index.toNat } → l.ctx = s.me.ctx → (l.state = .blocked ∨ l.state = .ready) →
      l.units = [] → l.over = false →
      ∃ t l', exec i s = .next t ∧ endedAt t 67 0 0 ∧ t.launch? l.key = some l' ∧ l'.status = 1 ∧ l'.state ≠ .blocked ∧ l'.state ≠ .ready)) ∧
  (∀ (s : State) (h : CmdHead) (c : CancelCmd) (e : Entry) (cores : List Nat), s.me.headEntry 67 = some e → e.state = .active →
    e.head = h → e.cmd = .cancel c → e.job = .cancel cores →
    ((∀ n ∈ cores, (s.core n).run ≠ .zeroing) → ∃ t, exec (.cancel h c) s = .next t ∧ endedAt t 67 e.status e.count ∧ t.mem = s.mem) ∧
    ((∃ n ∈ cores, (s.core n).run = .zeroing) → exec (.cancel h c) s = .next s))

namespace Sys2Proof.Claims

/-- The state after a monitor call that ends with a status (R383). -/
def reply (s : State) (status : Nat) : State := s.updMe (fun c => c.setGpr 4 (BitVec.ofNat 64 status))

/-- The call that g4 and its argument registers name (R383). -/
def named (s : State) (i : Instr) : Prop :=
  let n := (s.me.gpr 4).toNat
  let a := s.me.gpr 5
  let b := s.me.gpr 6
  let c := s.me.gpr 7
  (n = 0 ∧ i = .info a) ∨ (n = 1 ∧ i = .shmpage a b) ∨ (n = 2 ∧ i = .pricebank a b c) ∨ (n = 3 ∧ i = .tree a b c) ∨
  (n = 4 ∧ i = .slice a) ∨ (n = 5 ∧ i = .peer a b c) ∨ (n = 6 ∧ i = .attest a b) ∨ (n = 7 ∧ b = 1 ∧ i = .preemptSet a c) ∨
  (n = 7 ∧ b = 0 ∧ i = .preemptClear a c) ∨ (n = 8 ∧ i = .ctxnew a) ∨ (n = 9 ∧ i = .ctxfree a) ∨ (n = 10 ∧ i = .restore a b c) ∨
  (n = 11 ∧ i = .ctxstate a b) ∨ (n = 12 ∧ i = .wdring a b c)

/-- The caller's partition, as the only one of its id. -/
def callerPart (s : State) (p : Partition) : Prop := s.partOf s.me.id = some p ∧ s.part? p.id = some p

/-- A context of the caller's partition that an argument names. -/
def namesCtx (s : State) (p : Partition) (w : Word) (x : Context) : Prop :=
  w.toNat < 2 ^ 16 ∧ s.ctx? w.toNat = some x ∧ x.part = p.id

/-- A call answers status 0, changing the caller's g4 alone of its registers. -/
def granted (s t : State) : Prop := t.me = (reply s 0).me

/-- The bytes of a shared-memory page (R60). -/
def inPage (page a : Nat) : Prop :=
  sharedKey (page / 1024) (page % 1024 * 2 ^ 17) ≤ a ∧ a < sharedKey (page / 1024) (page % 1024 * 2 ^ 17) + 2 ^ 17

end Sys2Proof.Claims

/-- R151, R255, R383: ECALL at supervisor level performs the call that g4 names and completes; a number that names none answers
status 1; a core of no partition is answered 2. The call reads g4 to g7: where g4 is the destination of a held batched
atomic it is cause 13 before the arrival, and waits after it (the wait is the model's reading, log 29). -/
def Sys2Proof.Claims.EcallPerformsTheCallThatG4Names : Prop :=
  (∀ (s : State) (i : Instr), s.me.super = true → (∀ n ∈ ([4, 5, 6, 7] : List Nat), n ∉ s.me.pendingRegs) → named s i →
    ∃ t, exec i s = .next t ∧ exec .ecall s = .next t.retire) ∧
  (∀ s : State, s.me.super = true → 12 < (s.me.gpr 4).toNat → 4 ∉ s.me.pendingRegs → exec .ecall s = .next (reply s 1).retire) ∧
  (∀ s : State, s.me.super = true → 4 ∈ s.me.pendingRegs →
    exec .ecall s = .next (if s.me.batchArrived then s.park (.pendingReg 4) 0 else s.takeTrap 13 0x50000000)) ∧
  (∀ (s : State) (i : Instr), named s i → s.partOf s.me.id = none → exec i s = .next (reply s 2))

/-- R42, R48, R60, R163, R208, R341, R382, R383: INFO stores the partition record; SHMPAGE and PRICEBANK pass a page or a
bank of the partition to a context, zeroed when its owner changes; TREE writes one entry; SLICE clamps at 24,000 and
answers in g5; PEER names a remote context. A number out of its range is status 3, a thing of another partition 2. -/
def Sys2Proof.Claims.MonitorCallsConfigureThePartition : Prop :=
  ∀ (s : State) (p : Partition), callerPart s p →
    (∀ addr t, s.engStore s.me.id addr.toNat (s.partRecord p) = .ok t → exec (.info addr) s = .next (reply t 0)) ∧
    (∀ n < 64, (∀ h ∈ s.harvest, h.1 ≠ n) → (s.partRecord p)[n]? = some (if n ∈ p.trusses then 0x80 else 0)) ∧
    (∀ page ctx : Word,
      (4096 ≤ page.toNat → exec (.shmpage page ctx) s = .next (reply s 3)) ∧
      (page.toNat < 4096 → page.toNat ∉ p.pages → exec (.shmpage page ctx) s = .next (reply s 2)) ∧
      (∀ x, page.toNat < 4096 → page.toNat ∈ p.pages → ctx ≠ 0xFFFF → namesCtx s p ctx x →
        ∃ t, exec (.shmpage page ctx) s = .next t ∧ granted s t ∧ assoc page.toNat t.pageOwner = some x.id ∧
          (∀ q, q ≠ page.toNat → assoc q t.pageOwner = assoc q s.pageOwner) ∧
          (assoc page.toNat s.pageOwner ≠ some x.id → ∀ a, inPage page.toNat a → Memory.read a t.mem = Memory.unlisted a) ∧
          (assoc page.toNat s.pageOwner = some x.id → t.mem = s.mem) ∧
          (Memory.wf s.mem → ∀ a, ¬ inPage page.toNat a → Memory.read a t.mem = Memory.read a s.mem)) ∧
      (page.toNat < 4096 → page.toNat ∈ p.pages → ctx = 0xFFFF →
        ∃ t, exec (.shmpage page ctx) s = .next t ∧ granted s t ∧ t.pageOwner.find? (fun y => y.1 == page.toNat) = none ∧
          (assoc page.toNat s.pageOwner ≠ none → ∀ a, inPage page.toNat a → Memory.read a t.mem = Memory.unlisted a) ∧
          (Memory.wf s.mem → ∀ a, ¬ inPage page.toNat a → Memory.read a t.mem = Memory.read a s.mem))) ∧
    (∀ die bank ctx : Word,
      (4 ≤ die.toNat ∨ 16 ≤ bank.toNat → exec (.pricebank die bank ctx) s = .next (reply s 3)) ∧
      (∀ x, die.toNat < 4 → bank.toNat < 16 → (die.toNat, bank.toNat) ∈ p.banks → namesCtx s p ctx x →
        ∃ t b, exec (.pricebank die bank ctx) s = .next t ∧ granted s t ∧ t.mem = s.mem ∧
          t.banks.find? (fun b => b.die == die.toNat && b.num == bank.toNat) = some b ∧ b.owner = some x.id ∧
          ((∀ y ∈ s.banks, y.die = die.toNat → y.num = bank.toNat → y.owner ≠ some x.id) → ∀ k, b.price k = 0))) ∧
    (∀ group node entry : Word, group.toNat < 4096 → node.toNat ≤ 4096 → entry.toNat < 2 ^ 32 → bitsOf entry 30 27 ≤ 8 →
      group.toNat ∈ p.groups → (node.toNat = 4096 ∨ node.toNat / 64 ∈ p.trusses) →
      ∃ t, exec (.tree group node entry) s = .next t ∧ granted s t ∧ t.mem = s.mem ∧
        t.coll.entry node.toNat group.toNat = entry.setWidth 32 ∧
        ∀ k g, (k ≠ node.toNat ∨ g ≠ group.toNat) → t.coll.entry k g = s.coll.entry k g) ∧
    (∀ len : Word,
      (2 ^ 32 ≤ len.toNat → exec (.slice len) s = .next (reply s 3)) ∧
      (len.toNat < 2 ^ 32 → ∃ t q, exec (.slice len) s = .next t ∧ t.part? p.id = some q ∧ t.mem = s.mem ∧
        q.sliceLen.toNat = max 24000 len.toNat ∧ q.sliceClamped = decide (len.toNat < 24000) ∧ t.me.gpr 4 = 0 ∧
        t.me.gpr 5 = BitVec.ofNat 64 ((if len.toNat < 24000 then 2 ^ 63 else 0) + max 24000 len.toNat))) ∧
    (∀ (pkg remote loc : Word) (x : Context), pkg.toNat < 2 ^ 14 → remote.toNat < 2 ^ 16 → namesCtx s p loc x →
      ∃ t, exec (.peer pkg remote loc) s = .next t ∧ granted s t ∧ t.mem = s.mem ∧ t.peerOf loc.toNat pkg.toNat = some remote.toNat)

/-- R382, R384: ATTEST reads 32 bytes of nonce and stores the report: version, firmware version and digest, the
partition's measurement, the nonce, the partition record, and the signature over the digest of those 168 bytes; a nonce that
cannot be read, or a report that is misaligned or cannot be written, is status 3 with nothing written. -/
def Sys2Proof.Claims.AttestStoresTheSignedReport : Prop :=
  ∀ (s t : State) (p : Partition) (nonce report : Word) (n : List Byte), callerPart s p →
    let v := match s.boot.running with | some i => i.version | none => 0
    let d := match s.boot.running with | some i => Config.sha3 i.body | none => 0
    let body := leBytes 4 1 ++ leBytes 4 v ++ leBytes 32 d.toNat ++ leBytes 32 p.measurement.toNat ++ n ++ s.partRecord p
    (report.toNat % 8 ≠ 0 → exec (.attest nonce report) s = .next (reply s 3)) ∧
    (report.toNat % 8 = 0 → s.engLoad s.me nonce.toNat 32 = .ok n →
      s.engStore s.me.id report.toNat (body ++ (List.range 2420).map (Config.mlDsaSign (Config.sha3 body))) = .ok t →
      exec (.attest nonce report) s = .next (reply t 0)) ∧
    (report.toNat % 8 = 0 → s.engLoad s.me nonce.toNat 32 = .ok n →
      (∀ u, s.engStore s.me.id report.toNat (body ++ (List.range 2420).map (Config.mlDsaSign (Config.sha3 body))) ≠ .ok u) →
      exec (.attest nonce report) s = .next (reply s 3)) ∧
    ((∀ x, s.engLoad s.me nonce.toNat 32 ≠ .ok x) → exec (.attest nonce report) s = .next (reply s 3))

/-- R41, R43, R45, R49, R76, R84, R95, R383: CTXNEW binds an id that was free, loading; CTXFREE cancels the context's
launches: no unit of one that was being placed or had been placed stays on a core, and a running unit's core is being
zeroed with the unit counted as cancelled; its sets close, and its images and tags go. CTXSTATE stores the states of a
context and its 64 sets, all free for an id that names none; PREEMPT sets PREQ on a running core, which opens or joins the
set, and saves one that is parked; its clear takes a gang that has not begun to save out of the set, and resumes a core the
watchdog holds; RESTORE takes an evicted set onto its named cores, which must be free and zeroed. That PREEMPT clear is
refused while a member of the gang saves is the model's choice (log 24). -/
def Obligations.ContextCallsMoveContextsAndSets : Prop :=
  ∀ (s : State) (p : Partition), callerPart s p →
    (∀ root : Word, (∃ k < 65535, s.ctx? k = none) → ∃ t id, exec (.ctxnew root) s = .next t ∧ id < 65535 ∧ s.ctx? id = none ∧
      t.me.gpr 4 = 0 ∧ t.me.gpr 5 = BitVec.ofNat 64 id ∧ t.mem = s.mem ∧
      t.ctx? id = some { id := id, part := p.id, state := .loading, ptroot := root &&& 0x3FFFFFFF8000, sets := [], images := [], peers := [] } ∧
      ∀ k, k ≠ id → t.ctx? k = s.ctx? k) ∧
    (∀ root : Word, (∀ k < 65535, s.ctx? k ≠ none) → exec (.ctxnew root) s = .next (reply s 4)) ∧
    (∀ (ctx : Word) (x : Context), namesCtx s p ctx x → (x.state = .loading ∨ x.state = .resident) → (∀ n, (s.core n).id = n) →
      (∃ t y, exec (.ctxfree ctx) s = .next t ∧ t.me.gpr 4 = 0 ∧ t.ctx? ctx.toNat = some y ∧ y.state = .destroying ∧ y.sets = [] ∧
        y.images = [] ∧ (∀ g ∈ t.tags, g.2.1 ≠ ctx.toNat) ∧
        ∀ l ∈ p.launches, l.ctx = ctx.toNat → (l.state = .placing ∨ l.state = .placed) → ∀ v n, (v, UnitPlace.on n) ∈ l.units →
          (t.core n).unit = none) ∧
      ∀ (l : Launch) (v n : Nat) (u : UnitCfg), s.coll.plans = [] → p.launches.filter (fun k => k.ctx == ctx.toNat) = [l] →
        s.launch? l.key = some l → l.state = .placed → l.recordDue = none → l.recorded = false → l.units = [(v, .on n)] →
        n ≠ s.me.id → (s.core n).unit = some u → u.launch = l.key → u.unit = v → u.ctx = ctx.toNat → (s.core n).exiting = false →
        ∃ t l', exec (.ctxfree ctx) s = .next t ∧ (t.core n).run = .zeroing ∧ (t.core n).zeroCtx = some ctx.toNat ∧
          (∀ k, (t.core n).gpr k = 0) ∧ t.launch? l.key = some l' ∧ l'.status = 1 ∧ l'.units = [(v, .cancelled)]) ∧
    (∀ ctx : Word, ctx.toNat < 2 ^ 16 → s.ctx? ctx.toNat = none → exec (.ctxfree ctx) s = .next (reply s 5)) ∧
    (∀ (ctx addr : Word) (x : Context) (t : State), namesCtx s p ctx x →
      s.engStore s.me.id addr.toNat (leBytes 8 (match x.state with | .loading => 1 | .resident => 2 | .destroying => 3 | .zeroed => 4) ++
        (List.range 64).map (fun n => match x.set? n with
          | some e => (match e.state with | .requested => (1 : Byte) | .saving => 2 | .evicted => 3 | .restoring => 4)
          | none => 0)) = .ok t →
      exec (.ctxstate ctx addr) s = .next (reply t 0)) ∧
    (∀ (ctx addr : Word) (t : State), ctx.toNat < 2 ^ 16 → s.ctx? ctx.toNat = none →
      s.engStore s.me.id addr.toNat (List.replicate 72 0) = .ok t → exec (.ctxstate ctx addr) s = .next (reply t 0)) ∧
    (∀ (core set : Word) (c : Core) (u : UnitCfg) (x : Context), core.toNat < 4096 → set.toNat < 64 → core.toNat / 64 ∈ p.trusses →
      s.core core.toNat = c → c.id = core.toNat → c.unit = some u → u.gang = [] → c.run = .running → s.ctx? u.ctx = some x →
      (c.preq = none → s.tagCount core.toNat < 8 → x.state = .resident → (∀ e, x.set? set.toNat = some e → e.state = .requested) →
        ∃ t y e, exec (.preemptSet core set) s = .next t ∧ (c.expired = none → t.mem = s.mem) ∧ t.me.gpr 4 = 0 ∧
          (t.core core.toNat).preq = some (s.cycle, set.toNat) ∧
          t.ctx? u.ctx = some y ∧ y.set? set.toNat = some e ∧ core.toNat ∈ e.cores ∧
          (c.parked = false → (t.core core.toNat).run = .running ∧ t.tags = s.tags ∧ e.state = .requested) ∧
          (c.parked = true → (t.core core.toNat).run = .saving ∧ t.tags = s.tags ++ [(core.toNat, u.ctx, u.launch, u.unit)] ∧ e.state = .saving)) ∧
      (c.preq ≠ none → exec (.preemptSet core set) s = .next (reply s 5)) ∧
      (c.preq = none → c.held = true → core.toNat ≠ s.me.id → ∃ t, exec (.preemptClear core set) s = .next t ∧ granted s t ∧
        t.core core.toNat = { c with held := false, wdBase := s.cycle } ∧ t.mem = s.mem) ∧
      (∀ at', c.preq = some (at', set.toNat) → ∃ t, exec (.preemptClear core set) s = .next t ∧ (t.core core.toNat).preq = none ∧
        (t.core core.toNat).run = .running ∧ t.mem = s.mem ∧ t.me.gpr 4 = 0)) ∧
    (∀ (core set : Word) (n at' : Nat), core.toNat < 4096 → set.toNat < 64 → core.toNat / 64 ∈ p.trusses →
      (s.core core.toNat).unit ≠ none → n ∈ s.gangCores (s.core core.toNat) → (s.core n).run ≠ .running →
      (s.core core.toNat).preq = some (at', set.toNat) →
      exec (.preemptClear core set) s = .next (reply s 5)) ∧
    (∀ ctx set list : Word, ctx.toNat < 2 ^ 16 → set.toNat < 64 → s.ctx? ctx.toNat = none →
      exec (.restore ctx set list) s = .next (reply s 5)) ∧
    (∀ (ctx set list : Word) (x : Context) (e : EvictionSet) (bs : List Byte), namesCtx s p ctx x → set.toNat < 64 → x.set? set.toNat = some e →
      (e.state ≠ .evicted → exec (.restore ctx set list) s = .next (reply s 5)) ∧
      (let ims := x.imagesOf set.toNat
       let cores := (List.range ims.length).map (fun i => blk4 bs (4 + 4 * i))
       e.state = .evicted → s.engLoad s.me list.toNat (4 + 4 * ims.length) = .ok bs → blk4 bs 0 = ims.length → cores.Nodup →
       (∀ n ∈ cores, n < 4096 ∧ n / 64 ∈ p.trusses ∧ s.coreEnabled n = true) →
       ((∃ n ∈ cores, (s.core n).run = .zeroing ∨ ((s.core n).run = .free ∧ (s.core n).lastLaunch ≠ none)) →
         exec (.restore ctx set list) s = .next (reply s 4)) ∧
       ((∀ n ∈ cores, (s.core n).run = .free ∧ (s.core n).unit = none ∧ (s.core n).lastLaunch = none) →
         s.accFits (ims.zip cores) = true → gangsKept (ims.zip cores) = true → s.me.id ∉ cores →
         ∃ t y e', exec (.restore ctx set list) s = .next t ∧ granted s t ∧ t.mem = s.mem ∧ (∀ n ∈ cores, (t.core n).run = .restoring) ∧
           t.ctx? ctx.toNat = some y ∧ y.set? set.toNat = some e' ∧ e'.state = .restoring ∧ e'.targets = (ims.map (·.fromCore)).zip cores)))

/-- R55, R383: WDRING with a ring of the partition writes PROD and CONS zero and the count of lost records, and the ring
is the partition's. A ring outside the
partition's ranges is status 2. A message of the host reaches the partition's mailbox; while the package is frozen it is
answered with configuration-retry status instead. -/
def Sys2Proof.Claims.RingsAndMailboxesBelongToTheirPartition : Prop :=
  (∀ (s : State) (p : Partition) (base entries tier : Word), callerPart s p →
    let n := entries.toNat
    (1 < tier.toNat ∨ base.toNat % 64 ≠ 0 ∨ n = 0 ∨ 4096 < n ∨ (∀ k, n ≠ 2 ^ k) → exec (.wdring base entries tier) s = .next (reply s 3)) ∧
    (∀ k, base.toNat % 64 = 0 → n = 2 ^ k → n ≤ 4096 →
      let last := base.toNat + 63 + 16 * n
      (tier = 1 ∧ lpddrPopulated last = true) ∨ (tier = 0 ∧ stackedPopulated base.toNat = true ∧ stackedPopulated last = true) →
      (ringPlace p base.toNat n tier.toNat = none → exec (.wdring base entries tier) s = .next (reply s 2)) ∧
      (∀ place, ringPlace p base.toNat n tier.toNat = some place → p.wdHeld = [] →
        ∃ t q, exec (.wdring base entries tier) s = .next t ∧ granted s t ∧ t.part? p.id = some q ∧ q.wdRing = some (place, n, 0) ∧
          (Memory.wf s.mem → (∀ a < 16, Memory.read (place + a) t.mem = 0) ∧ t.peek (place + 16) 8 = p.wdLost % 2 ^ 64 ∧
            (∀ a, a < place ∨ place + 64 ≤ a → Memory.read a t.mem = Memory.read a s.mem))))) ∧
  (∀ (s : State) (p : Partition) (msg : List Byte), s.part? p.id = some p →
    (s.frozen = false → ∃ t q, exec (.hostMailbox p.id msg) s = .next t ∧
      t.part? p.id = some q ∧ q = { p with mailbox := p.mailbox ++ [msg] } ∧ t.mem = s.mem ∧ t.me = s.me) ∧
    (s.frozen = true → exec (.hostMailbox p.id msg) s = .next { s with boot := { s.boot with hostRetries := s.boot.hostRetries + 1 } }))

/-- R67, R386: the report of an uncorrectable line marks its location bad and sets POI in every descriptor of a
page present in a tree in use that maps it; no other byte changes. Which trees the monitor looks through, and that it does
so in the step of the report, are the model's choices (logs 24 and 26). -/
def Sys2Proof.Claims.ScrubReportsPoisonTheirPages : Prop :=
  ∀ (s : State) (base len : Nat), 8 < len → ∃ t, exec (.scrubReport base len) s = .next t ∧ (base, len) ∈ t.eccBad ∧
    (∀ l2 ∈ t.l2tlb, mapsKey l2.2.desc.toNat l2.2.big base = false) ∧
    (Memory.wf s.mem → ∀ a, (∀ l ∈ s.roots.flatMap s.leaves, a < l.1 ∨ l.1 + 8 ≤ a) → Memory.read a t.mem = Memory.read a s.mem) ∧
    (∀ l ∈ s.roots.flatMap s.leaves, Memory.wf s.mem → bitsOf (BitVec.ofNat 64 (s.peek l.1 8)) 1 0 = 3 → mapsKey (s.peek l.1 8) l.2 base = true →
      t.peek l.1 8 = s.peek l.1 8 ||| 256)

/-- R41, R44, R45, R49, R93, R200, R209, R274, R278: a core whose PDEADLINE has passed since PREQ, or whose gang the watchdog
saves, begins to save at its boundary: its router takes a tag, its wait is withdrawn, a routing command at work is accepted
again and gives its price banks up. When it has streamed out, with no tile running, its image holds the core and its local
store, the core is released and being zeroed, and the set is evicted with its last core. Which stalls are boundaries (every one
but an access that is refused, a kerf transfer and an ARRIVE whose episode has completed), that a save by the watchdog begins
there, and what an image holds are the model's choices (log 24). -/
def Obligations.SavesEndInAnImageOfTheCore : Prop :=
  ∀ (s : State) (at' n : Nat) (u : UnitCfg) (x : Context) (e : EvictionSet), s.me.unit = some u → s.me.preq = some (at', n) →
    s.ctx? u.ctx = some x → x.set? n = some e →
    let mayStop := match s.me.wait with
      | none => True
      | some w => (match w.kind with | .retry _ => False | .kerf => False | .arrive _ _ => w.ready = false | _ => True)
    (s.me.run = .running → s.me.expired = none → mayStop → (at' + s.me.sup.pdeadline.toNat % 2 ^ 20 < s.cycle ∨ s.me.forced = true) →
      ∃ t y e', exec .pdeadlineExpiry s = .next t ∧ t.me = { s.me with
          run := .saving, saveFrom := s.cycle, wait := none, held := false, forced := false, entries := s.me.entries.map Entry.abandoned } ∧
        t.tags = s.tags ++ [(s.me.id, u.ctx, u.launch, u.unit)] ∧ (∀ w ∈ t.waiters, w.core ≠ s.me.id) ∧ t.mem = s.mem ∧
        (∀ b ∈ t.banks, b.user ≠ some s.me.id) ∧ t.ctx? u.ctx = some y ∧ y.set? n = some e' ∧ e'.state = .saving) ∧
    (s.cycle ≤ at' + s.me.sup.pdeadline.toNat % 2 ^ 20 → s.me.forced = false → exec .pdeadlineExpiry s = .next s) ∧
    (¬ mayStop → exec .pdeadlineExpiry s = .next s) ∧
    (s.me.runTile ≠ none → exec .coreSaveComplete s = .next s) ∧
    (s.me.runTile = none → s.me.run = .saving →
      ∃ t y e' im, exec .coreSaveComplete s = .next t ∧ t.mem = s.mem ∧ t.me.run = .zeroing ∧ t.me.unit = none ∧
        (∀ k, t.me.gpr k = 0) ∧ t.ctx? u.ctx = some y ∧ y.images = x.images ++ [im] ∧ im.set = n ∧ im.fromCore = s.me.id ∧
        im.core = s.me ∧ im.store = s.storeCells s.me.id ∧ y.set? n = some e' ∧ e'.cores = e.cores.filter (· != s.me.id) ∧
        e'.state = (if e'.cores = [] then .evicted else e.state) ∧
        ∀ l, s.launch? u.launch = some l → ∃ l', t.launch? u.launch = some l' ∧
          ∀ v p, (v, p) ∈ l.units → if v = u.unit then (v, UnitPlace.saved) ∈ l'.units else (v, p) ∈ l'.units)

/-- R41, R42, R55, R117: a local store read out of one core and loaded into another is byte for byte the same. When the
last image of a set is loaded its unit resumes on its new core, with RESTORED set and the watchdog's count from zero, and
the set closes. A core whose zeroing ends is free, its local store zero. -/
def Obligations.RestoredCoresResumeWithTheirStores : Prop :=
  (∀ (s t : State) (n m : Nat), n < 4096 → m < 4096 → Memory.wf s.mem → Memory.wf t.mem →
    ∀ off < 2 ^ 18, Memory.read (localKey m off) (t.loadStore m (s.storeCells n)).mem = Memory.read (localKey n off) s.mem) ∧
  (∀ (s : State) (ctx set n : Nat) (x : Context) (e : EvictionSet) (im : Image), s.ctx? ctx = some x → x.set? set = some e →
    e.state = .restoring → x.imagesOf set = [im] → e.targets = [(im.fromCore, n)] → Memory.wf s.mem →
    ∃ t y, exec (.restoreComplete ctx set) s = .next t ∧ (t.core n).run = .running ∧ (t.core n).id = n ∧ (t.core n).pc = im.core.pc ∧
      (t.core n).g = im.core.g ∧ (t.core n).v = im.core.v ∧ (t.core n).p = im.core.p ∧ (t.core n).accum = im.core.accum ∧
      (t.core n).user = { im.core.user with restored := true } ∧ (t.core n).sup = im.core.sup ∧ (t.core n).preq = none ∧
      (t.core n).wdBase = s.cycle ∧ (t.core n).waves = im.core.waves ∧ (t.core n).ports = im.core.ports ∧
      t.ctx? ctx = some y ∧ y.set? set = none ∧ (∀ i ∈ y.images, i.set ≠ set) ∧
      (∀ u, im.core.unit = some u → ∀ g ∈ t.tags, ¬ (g.2.2.1 = u.launch ∧ g.2.2.2 = u.unit)) ∧
      (∀ a, a < localKey n 0 ∨ localKey (n + 1) 0 ≤ a → (∀ c ∈ im.store, c.1 < 2 ^ 18) → Memory.read a t.mem = Memory.read a s.mem)) ∧
  (∀ s : State, s.me.run = .zeroing → ∃ t, exec .bufferZeroingComplete s = .next t ∧ t.me = { s.me with run := .free, zeroCtx := none } ∧
    (∀ off < 2 ^ 18, Memory.read (localKey s.me.id off) t.mem = Memory.unlisted (localKey s.me.id off)) ∧
    (Memory.wf s.mem → ∀ a, a < localKey s.me.id 0 ∨ localKey (s.me.id + 1) 0 ≤ a → Memory.read a t.mem = Memory.read a s.mem))

/-- R41, R42, R81: a destroying context none of whose units is left gives up its shared pages, banks and range units,
zeroed; the pages of DRAM that it holds or its tree maps are zeroed, part by part of 64 KiB, where no other context holds or
maps them (which pages a context holds is the model's choice, log 24), and no other byte changes; it becomes zeroed. Once no core is being zeroed for it, its id is released with what the hierarchy table held of it. -/
def Obligations.DestroyedContextsGiveEverythingBack : Prop :=
  ∀ (s : State) (ctx : Nat) (x : Context), s.ctx? ctx = some x →
    (x.state = .destroying → x.images = [] → (∀ c ∈ s.allCores, ∀ u, c.unit = some u → u.ctx ≠ ctx) →
      ∃ t y, exec (.contextUnitsStopped ctx) s = .next t ∧ t.ctx? ctx = some y ∧ y.state = .zeroed ∧ t.me = s.me ∧
        (∀ q ∈ t.pageOwner, q.2 ≠ ctx) ∧ (∀ b ∈ t.banks, b.owner ≠ some ctx) ∧ (∀ r ∈ t.ranges, r.ctx ≠ ctx) ∧
        (∀ q, (∃ z ∈ s.pageOwner, z = (q, ctx)) → ∀ a, inPage q a → Memory.read a t.mem = Memory.unlisted a) ∧
        (let pages := s.dramPages x.ptroot.toNat ++ (s.frames.filter (fun f => f.ctx == ctx)).map (fun f => (f.key, f.size))
         let others := (s.contexts.filter (fun y => y.id != ctx)).flatMap (fun y => s.dramPages y.ptroot.toNat) ++
           (s.frames.filter (fun f => f.ctx != ctx)).map (fun f => (f.key, f.size))
         (∀ f ∈ t.frames, f ∈ s.frames ∧ f.ctx ≠ ctx) ∧
         (∀ g ∈ pages, ∀ j < g.2 / 2 ^ 16, (∀ k ∈ others, overlaps (g.1 + 2 ^ 16 * j) (2 ^ 16) k.1 k.2 = false) →
           ∀ a, g.1 + 2 ^ 16 * j ≤ a → a < g.1 + 2 ^ 16 * j + 2 ^ 16 → Memory.read a t.mem = Memory.unlisted a) ∧
         (Memory.wf s.mem → ∀ a, (∀ g ∈ pages, a < g.1 ∨ g.1 + g.2 ≤ a) → (∀ z ∈ s.pageOwner, z.2 = ctx → ¬ inPage z.1 a) →
           Memory.read a t.mem = Memory.read a s.mem)) ∧
        (∀ b ∈ s.banks, b.owner = some ctx → { b with owner := none, user := none, prices := [] } ∈ t.banks)) ∧
    ((x.state ≠ .destroying ∨ x.images ≠ []) → exec (.contextUnitsStopped ctx) s = .next s) ∧
    let stores := ∀ c ∈ s.allCores, c.run = .zeroing → c.zeroCtx ≠ some x.id
    (x.state = .zeroed → stores → ∃ t, exec (.contextZeroingComplete ctx) s = .next t ∧ t.ctx? ctx = none ∧ t.me = s.me ∧ t.mem = s.mem ∧
      (∀ k, k ≠ ctx → t.ctx? k = s.ctx? k) ∧ ∀ p ∈ t.parts, (∀ l ∈ p.launches, l.ctx ≠ ctx) ∧ (∀ g ∈ p.graphs, g.ctx ≠ ctx) ∧
        (∀ g ∈ p.phases, g.ctx ≠ ctx) ∧ ∀ g ∈ p.jobs, g.ctx ≠ ctx) ∧
    (x.state ≠ .zeroed ∨ ¬ stores → exec (.contextZeroingComplete ctx) s = .next s)

namespace Sys2Proof.Claims

/-- The 16 bytes of a watchdog record (R55). -/
def wdBytes (c : Core) (parked held : Bool) (set : Nat) : List Byte :=
  leBytes 2 c.id ++ leBytes 2 16 ++ [if parked then 1 else 0, if held then 1 else 0, BitVec.ofNat 8 set, 0] ++ leBytes 8 c.pc.toNat

/-- The count of the current core, which runs a unit, has reached its limit, and nothing has come of it yet (R55). -/
def wdReached (s : State) (parked : Bool) : Prop :=
  s.me.run = .running ∧ s.me.unit ≠ none ∧ s.me.held = false ∧ s.me.forced = false ∧ s.me.expired = none ∧ s.me.wdParked = parked ∧
  let limit := if parked then s.me.sup.wdpark.toNat else s.me.sup.wdlimit.toNat
  limit ≠ 0 ∧ limit ≤ s.cycle - s.me.wdBase

end Sys2Proof.Claims

/-- R45, R55: a core whose count reaches its limit is to be saved in the lowest free set of its context, which is saving from
then on: at once where it stands at a boundary and else at its next. With no set or tag free it is held, at once or at its next
boundary. Its record is made at the save or hold, with the pc the core has then, and SCAUSE 16 stands in a core that is saved.
A record that finds 64 held ones and no ring is lost and counted. The hub writes a held record at PROD's slot of the ring,
moves PROD on, and tells the supervisor's core. Which stalls are boundaries is the model's choice (log 24). -/
def Obligations.WatchdogExpirySavesOrHoldsAndTells : Prop :=
  (∀ (s : State) (p : Partition) (u : UnitCfg) (x : Context) (parked : Bool), s.me.unit = some u → u.gang = [] → s.me.preq = none →
    s.ctx? u.ctx = some x → s.partOf s.me.id = some p → s.part? p.id = some p → p.wdRing = none → p.wdHeld.length < 64 →
    wdReached s parked →
    (∀ n, x.freeSet = some n → s.tagCount s.me.id < 8 →
      ∃ t q y e, exec .watchdogExpiry s = .next t ∧ t.me.preq = some (s.cycle, n) ∧ t.mem = s.mem ∧ t.me.pc = s.me.pc ∧
        t.ctx? u.ctx = some y ∧ y.set? n = some e ∧ e.state = .saving ∧ t.part? p.id = some q ∧
        (s.me.atBoundary = true → t.me.run = .saving ∧ t.tags = s.tags ++ [(s.me.id, u.ctx, u.launch, u.unit)] ∧
          t.me.sup = { s.me.sup with scause := 0x8000000000000010 } ∧ q.wdHeld = p.wdHeld ++ [wdBytes s.me parked false n]) ∧
        (s.me.atBoundary = false → t.me = { s.me with preq := some (s.cycle, n), forced := true, expired := some (n, parked) } ∧
          t.tags = s.tags ∧ q = p)) ∧
    (x.freeSet = none ∨ 8 ≤ s.tagCount s.me.id →
      ∃ t q, exec .watchdogExpiry s = .next t ∧ t.mem = s.mem ∧ t.tags = s.tags ∧ t.part? p.id = some q ∧
        (s.me.atBoundary = true → t.me = { s.me with held := true } ∧ q.wdHeld = p.wdHeld ++ [wdBytes s.me parked true 0xFF]) ∧
        (s.me.atBoundary = false → t.me = { s.me with expired := some (0xFF, parked) } ∧ q = p))) ∧
  (∀ (s : State) (p : Partition) (u : UnitCfg) (x : Context) (n at' : Nat) (parked : Bool), s.me.unit = some u → s.me.run = .running →
    s.ctx? u.ctx = some x → s.partOf s.me.id = some p → s.part? p.id = some p → p.wdRing = none → p.wdHeld.length < 64 →
    s.me.atBoundary = true →
    (s.me.preq = some (at', n) → n ≠ 0xFF → s.me.forced = true → s.me.expired = some (n, parked) →
      ∃ t q, exec .pdeadlineExpiry s = .next t ∧ t.me.run = .saving ∧ t.me.expired = none ∧ t.mem = s.mem ∧
        t.me.sup = { s.me.sup with scause := 0x8000000000000010 } ∧ t.me.pc = s.me.pc ∧
        t.part? p.id = some q ∧ q.wdHeld = p.wdHeld ++ [wdBytes s.me parked false n]) ∧
    (s.me.held = false → s.me.expired = some (0xFF, parked) →
      ∃ t q, exec .watchdogExpiry s = .next t ∧ t.me = { s.me with held := true, expired := none } ∧ t.mem = s.mem ∧
        t.part? p.id = some q ∧ q.wdHeld = p.wdHeld ++ [wdBytes s.me parked true 0xFF])) ∧
  (∀ (s : State) (p : Partition) (core : Nat) (rec : List Byte), s.partOf core = some p → s.part? p.id = some p → p.wdRing = none →
    64 ≤ p.wdHeld.length → ∃ q, (s.wdPost core rec).part? p.id = some q ∧ q.wdHeld = p.wdHeld ∧ q.wdLost = p.wdLost + 1 ∧
      (s.wdPost core rec).mem = s.mem ∧ (s.wdPost core rec).me = s.me) ∧
  (∀ s : State, (∀ parked, ¬ wdReached s parked) → (∀ parked, s.me.expired ≠ some (0xFF, parked)) → exec .watchdogExpiry s = .next s) ∧
  (∀ (s : State) (part base n prod : Nat) (p : Partition) (rec : List Byte) (rest : List (List Byte)), s.part? part = some p → p.id = part →
    p.wdRing = some (base, n, prod) → p.wdHeld = rec :: rest → rec.length = 16 → Memory.wf s.mem →
    let cons := s.peek (base + 8) 8
    (1 ≤ n → prod - cons + 1 = n →
      ∃ t q w, exec (.watchdogRingPoll part) s = .next t ∧ t.part? part = some q ∧ q.wdHeld = rest ∧
        q.wdRing = some (base, n, prod + 1) ∧ t.peek base 8 = (prod + 1) % 2 ^ 64 ∧ t.peek (base + 8) 8 = cons ∧
        Memory.readBytes t.mem (base + 64 + 16 * (prod % n)) 16 = rec ∧ (t.core p.supCore).wdNotice = some w ∧
        w.2 = BitVec.ofNat 64 (prod + 1)) ∧
    (n ≤ prod - cons → ∃ t q, exec (.watchdogRingPoll part) s = .next t ∧ t.mem = s.mem ∧ t.part? part = some q ∧
      q = { p with wdPoll := s.cycle } ∧ t.me = s.me))

/-- R49, R70, R100, R101: a timed resend and room at the receiver let the instruction that waits try again and change
nothing else; PORTWAIT cycles in a port write are cause 7 with the register, and no word is sent. The result of a
batched atomic that goes to a port is sent when its partner has room, is resent 256 cycles after a retry reply, and meets the
same causes 3 and 7, the cycles of retry replies left out (log 35). A word that arrives joins its receive queue, the spill area behind a full one (where in the area is the model's choice, log 40). -/
def Obligations.ResendsAndPortEventsLetTheInstructionTryAgain : Prop :=
  (∀ (s : State) (w : WaitRec), s.me.wait = some w →
    let again := s.updMe (fun c => { c with wait := some { w with ready := true } })
    (∀ a, w.kind = .retry a → exec .retryResend s = .next again) ∧
    (s.me.portResults = [] → s.me.portRefused = false → ∀ n, w.kind = .portRetry n → exec .portWriteResend s = .next again) ∧
    (∀ a, w.kind = .migWrite a → exec .migWriteRetranslate s = .next again) ∧
    ((∀ a, w.kind ≠ .retry a) → exec .retryResend s = .next s) ∧
    (s.me.portResults = [] → s.me.portRefused = false → (∀ n, w.kind ≠ .portRetry n) → exec .portWriteResend s = .next s) ∧
    ((∀ a, w.kind ≠ .migWrite a) → exec .migWriteRetranslate s = .next s) ∧
    (∀ n m q, w.kind = .portWrite n → w.ready = false → s.me.portResults = [] → s.me.portTarget (n - 24) = some (m, q) →
      ((s.core m).portRoom q = true → exec .portWriteUnstall s = .next again) ∧
      ((s.core m).portRoom q = false → s.partnerOk m = true → s.retries m s.me.ctx = false → exec .portWriteUnstall s = .next s)) ∧
    (∀ n, w.kind = .portWrite n → w.ready = false → s.me.portResults = [] →
      (s.me.user.portwait ≠ 0 → w.since + s.me.user.portwait.toNat ≤ s.cycle → exec .portwaitExpiry s = .next (s.takeTrap 7 (BitVec.ofNat 64 n))) ∧
      (s.me.user.portwait = 0 ∨ s.cycle < w.since + s.me.user.portwait.toNat → exec .portwaitExpiry s = .next s))) ∧
  (∀ (s : State) (r : BitVec 5) (w : Word) (rest : List (BitVec 5 × Word)), s.me.wait = none → s.me.portResults = (r, w) :: rest →
    let next := s.updMe (fun c => { c with portResults := rest, portSince := s.cycle, portRefused := false })
    let no3 := next.takeTrap 3 (r.zeroExtend 64)
    let limit := s.me.user.portwait.toNat
    (s.me.portTarget (r.toNat - 24) = none → exec .portWriteUnstall s = .next no3) ∧
    (∀ m q, s.me.portTarget (r.toNat - 24) = some (m, q) →
      (s.partnerOk m = false → exec .portWriteUnstall s = .next no3) ∧
      (s.partnerOk m = true → s.me.portRefused = false → s.retries m s.me.ctx = false → (s.core m).portRoom q = true →
        exec .portWriteUnstall s = .next (next.portDeliver m q w)) ∧
      (s.partnerOk m = true →
        let tried := s.updMe (fun c => { c with portRefused := s.retries m s.me.ctx, portSince := s.cycle })
        (s.me.portRefused = true → exec .portWriteUnstall s = .next s ∧ exec .portwaitExpiry s = .next s ∧
          exec .portWriteResend s = .next (if s.me.portSince + 256 ≤ s.cycle then tried else s)) ∧
        (s.me.portRefused = false → exec .portWriteResend s = .next (if s.retries m s.me.ctx then tried else s))) ∧
      (s.partnerOk m = true → s.me.portRefused = false → s.retries m s.me.ctx = false → (s.core m).portRoom q = false →
        exec .portWriteUnstall s = .next s ∧
        (limit ≠ 0 → s.me.portSince + limit ≤ s.cycle → exec .portwaitExpiry s = .next (next.takeTrap 7 (r.zeroExtend 64))) ∧
        (limit = 0 ∨ s.cycle < s.me.portSince + limit → exec .portwaitExpiry s = .next s)))) ∧
  (∀ (s : State) (q : Nat) (w : Word) (pq : PortQueue), s.me.ports[q]? = some pq →
    (pq.hw.length < 16 → pq.spillCount = 0 → ∃ t, exec (.portWordArrival q w) s = .next t ∧ t.mem = s.mem ∧
      t.me.ports[q]? = some { pq with hw := pq.hw ++ [w] } ∧ ∀ k, k ≠ q → t.me.ports[k]? = s.me.ports[k]?) ∧
    (16 ≤ pq.hw.length → s.me.user.portmap.getLsbD q = true → pq.spillCount < 64 → Memory.wf s.mem →
      ∃ t, exec (.portWordArrival q w) s = .next t ∧ t.me.ports[q]? = some { pq with spillCount := pq.spillCount + 1 } ∧
        t.peek (localKey s.me.id (s.me.spillBase q + 8 * ((pq.spillHead + pq.spillCount) % 64))) 8 = w.toNat) ∧
    (16 ≤ pq.hw.length → (s.me.user.portmap.getLsbD q = false ∨ 64 ≤ pq.spillCount) → exec (.portWordArrival q w) s = .next s))

namespace Sys2Proof.Claims

/-- A control flit of a type, as R153, R155 and R156 lay it out. -/
def isControl (f : BitVec 256) (type : Nat) : Prop :=
  f.extractLsb' 0 24 = flitCrc f ∧ f.getLsbD 31 = true ∧ f.extractLsb' 24 7 = 0 ∧ (f.extractLsb' 248 8).toNat = type

/-- The port of a number; no two ports share one. -/
def onePort (s : State) (n : Nat) (p : LinkPort) : Prop := s.port? n = some p ∧ (s.ports.map (·.num)).Nodup

/-- A port after an event, and what an event of a port leaves alone. -/
def portNow (s t : State) (n : Nat) (q : LinkPort) : Prop :=
  t.port? n = some q ∧ t.mem = s.mem ∧ t.me = s.me ∧ t.linkQueue = s.linkQueue ∧ ∀ k, k ≠ n → t.port? k = s.port? k

/-- The flit that the lanes bring to a port, and the port with its descramblers stepped past it. -/
def brings (s : State) (p : LinkPort) (rx : List (List Level)) (f : BitVec 256) (p' : LinkPort) : Prop :=
  p.takeFlit (s.flitCount p) rx = (f, p')

/-- A lane carries bits scrambled from a generator's state, and its generator stands behind them (R157, R158). -/
def putsOnLane (q : LinkPort) (l : Nat) (bits : List Bool) (x : BitVec 31) : Prop :=
  q.line[l]? = some (symbolsOf (scramble bits x).1) ∧ q.sendScr[l]? = some (scrAfter bits.length x)

/-- The classes a port holds OFF after a change of its buffers (R160). -/
def offAfter (p q : LinkPort) : Prop :=
  ∀ c < 4, (c ∈ q.nearOff ↔ q.free c ≤ 4096 ∨ (c ∈ p.nearOff ∧ q.free c < 6144))

/-- A list of flits split at the first one of a sequence number. -/
def splitAt (p : LinkPort) (n : Nat) (before : List Unacked) (u : Unacked) (after : List Unacked) : Prop :=
  p.replay = before ++ u :: after ∧ u.seq = n ∧ ∀ x ∈ before, x.seq ≠ n

end Sys2Proof.Claims

/-- R154, R155, R157, R160: the lanes of a port bring a flit, which steps its descramblers and nothing else of the port. A
data flit with a right CRC, the sequence number expected and room in its class's buffer is accepted
and acknowledged; any other is discarded with one NAK of the number expected for each run of them; the classes held OFF
follow the free room. IDLE changes nothing more. -/
def Sys2Proof.Claims.DataFlitsAreAcceptedInOrderOrAskedForAgain : Prop :=
  ∀ (s : State) (n cls : Nat) (rx : List (List Level)) (f : BitVec 256) (p p' : LinkPort), onePort s n p → p.state = .up → cls < 4 →
    brings s p rx f p' →
    let good := f.extractLsb' 0 24 = flitCrc f ∧ (f.extractLsb' 24 7).toNat = p.expectSeq ∧ p.free cls ≠ 0
    p' = { p with recvScr := p'.recvScr, rxAt := p'.rxAt } ∧
    (f.getLsbD 31 = false → good → ∃ t q a rest, exec (.dataFlit n cls rx) s = .next t ∧ portNow s t n q ∧
      q.buffers = p.buffers ++ [(cls, f.extractLsb' 32 224)] ∧ q.expectSeq = (p.expectSeq + 1) % 128 ∧ q.nakSent = false ∧
      q.sent = p.sent ++ a :: rest ∧ isControl a 1 ∧ (a.extractLsb' 241 7).toNat = p.expectSeq ∧
      offAfter p q ∧ q.replay = p.replay ∧ q.recvScr = p'.recvScr) ∧
    (f.getLsbD 31 = false → ¬ good → p.nakSent = false → ∃ t q a, exec (.dataFlit n cls rx) s = .next t ∧ portNow s t n q ∧
      q.buffers = p.buffers ∧ q.expectSeq = p.expectSeq ∧ q.nakSent = true ∧ q.sent = p.sent ++ [a] ∧ isControl a 2 ∧
      (a.extractLsb' 241 7).toNat = p.expectSeq % 128) ∧
    (f.getLsbD 31 = false → ¬ good → p.nakSent = true → ∃ t, exec (.dataFlit n cls rx) s = .next t ∧ portNow s t n p') ∧
    (∃ t, exec (.idleFlit n rx) s = .next t ∧ portNow s t n p')

/-- R154, R155, R160, R161: an ACK drops its flit and every earlier one from the replay buffer; a NAK makes the sender
replay from the named flit, and the sixteenth replay of one flit begins retraining; FLOW gives the classes that are ON; a
refresh of FLOW is due 64 flit times after the last while a class is OFF, else 1,024. A control flit with a wrong CRC only
steps the descramblers. -/
def Sys2Proof.Claims.ReplayAndFlowFollowTheControlWords : Prop :=
  (∀ (s : State) (n : Nat) (rx : List (List Level)) (f : BitVec 256) (p p' : LinkPort), onePort s n p → p.state = .up → brings s p rx f p' →
    let seq := (f.extractLsb' 241 7).toNat
    (∀ xs u us, isControl f 1 → splitAt p seq xs u us →
      ∃ t, exec (.ack n rx) s = .next t ∧ portNow s t n { p' with replay := us }) ∧
    (isControl f 1 → (∀ u ∈ p.replay, u.seq ≠ seq) → ∃ t, exec (.ack n rx) s = .next t ∧ portNow s t n p') ∧
    (∀ xs u us, isControl f 2 → splitAt p seq xs u us → ∃ t q, exec (.nak n rx) s = .next t ∧ portNow s t n q ∧
      q.sent = p.sent ++ (u :: us).map (·.flit) ∧ q.replay = xs ++ (u :: us).map (fun y => { y with replays := y.replays + 1 }) ∧
      q.state = (if ∃ y ∈ u :: us, 15 ≤ y.replays then .retraining else .up)) ∧
    (isControl f 3 → ∃ t q, exec (.flow n rx) s = .next t ∧ portNow s t n q ∧ q = { p' with farOff := q.farOff } ∧
      (∀ c, c ∈ q.farOff ↔ c < 4 ∧ f.getLsbD (244 + c) = false)) ∧
    (f.extractLsb' 0 24 ≠ flitCrc f → ∀ i ∈ [Instr.ack n rx, .nak n rx, .flow n rx, .probe n rx, .echo n rx],
      ∃ t, exec i s = .next t ∧ portNow s t n p')) ∧
  (∀ (s : State) (n : Nat) (p : LinkPort), onePort s n p → p.state = .up →
    (p.lastFlow + (if p.nearOff = [] then 1024 else 64) ≤ s.flitCount p → ∃ t q a, exec (.flowRefresh n) s = .next t ∧ portNow s t n q ∧
      q.sent = p.sent ++ [a] ∧ isControl a 3 ∧ (∀ c < 4, a.getLsbD (244 + c) = decide (c ∉ p.nearOff)) ∧
      q.lastFlow = s.flitCount p) ∧
    (s.flitCount p < p.lastFlow + (if p.nearOff = [] then 1024 else 64) → exec (.flowRefresh n) s = .next s))

/-- R160, R162: a message leaves as a packet with the next number of its hub and class, once one of the ports its traffic may
use is up: the first of the route list. The destination discards a duplicate, delivers any packet of classes 0 to 2 as it
comes, and those of class 3 in sequence, however they arrive. That a packet carries one message, packed in the order handed
over, and what its data are, is the model's choice (log 30). -/
def Sys2Proof.Claims.PacketsArriveOnceAndPostingsInSequence : Prop :=
  (∀ (e : EndToEnd) (n : Nat) (m : OutMsg), (n < e.expect ∨ ∃ x ∈ e.early, x.1 = n) → e.arrive n m = ([], e)) ∧
  (∀ (e : EndToEnd) (n : Nat) (m : OutMsg), e.cls ≠ 3 → e.expect ≤ n → (∀ x ∈ e.early, x.1 ≠ n) →
    (e.arrive n m).1 = [m] ∧ ∀ m', (e.arrive n m).2.arrive n m' = ([], (e.arrive n m).2)) ∧
  (∀ (f : Nat → OutMsg) (e : EndToEnd) (n : Nat), e.cls = 3 → (∀ x ∈ e.early, x.2 = f x.1 ∧ x.1 ≠ e.expect) →
    let r := e.arrive n (f n)
    r.1 = (List.range (r.2.expect - e.expect)).map (fun i => f (e.expect + i)) ∧ e.expect ≤ r.2.expect ∧ r.2.cls = 3 ∧
      (n = e.expect → e.expect < r.2.expect) ∧ (∀ x ∈ r.2.early, x.2 = f x.1 ∧ x.1 ≠ r.2.expect)) ∧
  (∀ (s : State) (o : OutItem), s.outbox.find? (fun o => (s.portFor o.part o.msg.dst).isSome) = some o →
    ∃ t, s.packMessage = some t ∧ (t.pair o.msg.dst o.msg.cls).next = (s.pair o.msg.dst o.msg.cls).next + 1 ∧
      t.departed = s.departed ++ [o.msg] ∧ t.linkQueue = s.linkQueue ++ (Config.packetFlits
        { src := s.pkgId, cls := o.msg.cls, seq := (s.pair o.msg.dst o.msg.cls).next, msg := o.msg }).map
          (fun b => ⟨o.msg.dst, o.part, o.msg.cls, b⟩)) ∧
  (∀ (s : State) (part : Option Nat) (dst : Nat) (p : LinkPort), s.portFor part dst = some p → p.state = .up ∧ s.port? p.num = some p ∧
    ∃ before after, (assoc dst s.routes).getD [] = before ++ p.num :: after ∧
      ∀ n ∈ before, s.mayUse part n = true → ∀ q, s.port? n = some q → q.state ≠ .up)

/-- R155, R159: a PROBE is answered by an ECHO of its stamp; an ECHO gives a round trip of 0.32 ns for each flit time from
stamp to receipt; the next PROBE goes 1,024 flit times after the last, four in all. No flit is taken from the lanes of a
port that is neither up nor measures (log 30). -/
def Sys2Proof.Claims.ProbesMeasureTheRoundTrip : Prop :=
  (∀ (s : State) (n : Nat) (rx : List (List Level)) (f : BitVec 256) (p p' : LinkPort), onePort s n p → brings s p rx f p' →
    (p.state = .up ∨ (p.state = .training ∧ p.phase = 4) → isControl f 0x10 → ∃ t q a, exec (.probe n rx) s = .next t ∧ portNow s t n q ∧
      q.sent = p.sent ++ [a] ∧ isControl a 0x11 ∧ a.extractLsb' 216 32 = f.extractLsb' 216 32 ∧ q.recvScr = p'.recvScr) ∧
    (p.state = .training → p.phase = 4 → p.echoes.length < p.probesSent → isControl f 0x11 → ∃ t, exec (.echo n rx) s = .next t ∧
      portNow s t n { p' with echoes := p.echoes ++
        [(BitVec.ofNat 32 (s.flitCount p) - f.extractLsb' 216 32).toNat * 32] })) ∧
  (∀ (s : State) (n : Nat) (p : LinkPort), onePort s n p →
    (p.state = .training → p.phase = 4 → p.probesSent < 4 → p.lastProbe + 1024 ≤ s.flitCount p →
      ∃ t q a, exec (.probeInterval n) s = .next t ∧ portNow s t n q ∧ q.sent = p.sent ++ [a] ∧ isControl a 0x10 ∧
        a.extractLsb' 216 32 = BitVec.ofNat 32 (p.lastProbe + 1024) ∧ q.probesSent = p.probesSent + 1 ∧ q.lastProbe = p.lastProbe + 1024) ∧
    (p.probesSent = 4 → exec (.probeInterval n) s = .next s) ∧
    (p.state = .down ∨ p.state = .failed ∨ p.phase ∈ [1, 2, 3] ∧ p.state ≠ .up → ∀ rx cls,
      ∀ i ∈ [Instr.dataFlit n cls rx, .ack n rx, .nak n rx, .flow n rx, .probe n rx, .echo n rx, .idleFlit n rx], exec i s = .next s))

/-- R158, R159, R161: a port moves between down, training, up, retraining and failed by the events of R161's table and
through the phases of R159: all-zero data from the seeds; then training blocks, once every lane's descrambler has predicted
4,096 bits; READY once every lane's marker has been found 16 times and the four lanes are known; flits, once READY has been
received for 64 blocks and sent for 64; the blocks follow one another on every lane. A port that fails hands its
unacknowledged flits to the route list; one that retrains replays from its first unacknowledged flit. That LOCK_LOSS in
training begins phase 1 again and counts no failure is the model's choice (log 30). -/
def Sys2Proof.Claims.PortsMoveByTheTrainingTable : Prop :=
  ∀ (s : State) (n : Nat) (p : LinkPort), onePort s n p →
    let training := p.state = .training ∨ p.state = .retraining
    let rt := p.echoes.foldl max 0
    let k := s.flitCount p
    (p.state = .down → ∃ t q, exec (.portEnable n) s = .next t ∧ portNow s t n q ∧ q.state = .training ∧ q.phase = 1 ∧
      q.phaseSince = s.cycle ∧ q.failures = 0 ∧ q.recvScr = [] ∧
      ∀ l x, [0x7FFFFFFF#31, 0x7FFFFFFE, 0x7FFFFFFD, 0x7FFFFFFC][l]? = some x →
        putsOnLane q l (List.replicate 64 false) x) ∧
    (p.state ≠ .down → exec (.portEnable n) s = .next s) ∧
    (p.state = .failed → ∃ t q, exec (.portDisable n) s = .next t ∧ portNow s t n q ∧ q = { p with state := .down }) ∧
    (p.state ≠ .failed → exec (.portDisable n) s = .next s) ∧
    (∀ rx xs, training → p.phase = 1 → rx.length = 4 → rx.map lockLane = xs.map some →
      ∃ t q, exec (.lockPhaseEnd n rx) s = .next t ∧ portNow s t n q ∧ q.state = p.state ∧ q.recvScr = xs ∧ q.phase = 2 ∧
        q.phaseSince = s.cycle ∧ q.ready = false ∧
        ∀ l x, p.sendScr[l]? = some x → putsOnLane q l (blockBits (trainBlock l p.num false)) (scrAfter (64 * (k - p.scrAt)) x)) ∧
    (∀ rx, (rx.length ≠ 4 ∨ ∃ r ∈ rx, lockLane r = none) → exec (.lockPhaseEnd n rx) s = .next s) ∧
    (∀ gap rx (rs : List (TrainedLane × BitVec 31)), training → p.phase = 2 → rs.length = p.recvScr.length →
      (∀ (i : Nat) x r, p.recvScr[i]? = some x → rs[i]? = some r → alignLane (rx[i]?.getD []) gap x = some r) →
      (∀ l < 4, ∃ r ∈ rs, r.1.number = l) →
      ∃ t q, exec (.alignPhaseEnd n ⟨gap, rx⟩) s = .next t ∧ portNow s t n q ∧ q.state = p.state ∧ q.lanes = rs.map (·.1) ∧
        q.recvScr = rs.map (·.2) ∧ q.ready = true ∧ q.phase = 3 ∧ q.phaseSince = s.cycle ∧
        ∀ l x, p.sendScr[l]? = some x → putsOnLane q l (blockBits (trainBlock l p.num true)) (scrAfter (64 * (k - p.scrAt)) x)) ∧
    (∀ gap rx, (∃ (i : Nat) (x : BitVec 31), p.recvScr[i]? = some x ∧ alignLane (rx[i]?.getD []) gap x = none) →
      exec (.alignPhaseEnd n ⟨gap, rx⟩) s = .next s) ∧
    (∀ gap rx (xs : List (BitVec 31)), training → p.phase = 3 → p.ready = true → 64 ≤ p.blocks + (k - p.scrAt) → xs.length = p.recvScr.length →
      (∀ (i : Nat) x y, p.recvScr[i]? = some x → xs[i]? = some y →
        startLane (p.lanes[i]?.getD ⟨i, false, 0⟩) (rx[i]?.getD []) gap x = some y) →
      ∃ t q a, exec (.startPhaseEnd ⟨n, gap, rx⟩) s = .next t ∧ portNow s t n q ∧ q.phase = 4 ∧
        q.state = p.state ∧ q.recvScr = xs ∧ q.probesSent = 1 ∧ q.flitsFrom = s.cycle ∧ isControl a 0x10 ∧
        a.extractLsb' 216 32 = 0 ∧ q.echoes = [] ∧ offAfter p q ∧
        (if p.wantOff = p.nearOff then q.sent = p.sent ++ [a] ∧
            ∀ l x, p.sendScr[l]? = some x → putsOnLane q l (laneBits a l) (scrAfter (64 * (k - p.scrAt)) x)
          else ∃ b, q.sent = p.sent ++ [a, b] ∧ isControl b 3)) ∧
    (training → p.phase ∈ [1, 2, 3] → p.scrAt < k → ∃ q, s.idlePorts.port? n = some q ∧ q.blocks = p.blocks + (k - p.scrAt) ∧
      q.sent = p.sent ∧ ∀ l x, p.sendScr[l]? = some x →
        putsOnLane q l (if p.phase = 1 then List.replicate 64 false else blockBits (trainBlock l p.num p.ready))
          (scrAfter (64 * (k - 1 - p.scrAt)) x)) ∧
    (∀ gap rx, (p.blocks + (k - p.scrAt) < 64 ∨
        ∃ (i : Nat) (x : BitVec 31), p.recvScr[i]? = some x ∧ startLane (p.lanes[i]?.getD ⟨i, false, 0⟩) (rx[i]?.getD []) gap x = none) →
      exec (.startPhaseEnd ⟨n, gap, rx⟩) s = .next s) ∧
    (p.state = .training → p.phase = 4 → p.echoes.length = 4 → rt ≤ 130000 → ∃ t q, exec (.measurePhaseEnd n) s = .next t ∧
      portNow s t n q ∧ q.state = .up ∧ q.roundTrip = rt ∧ q.farOff = [] ∧ q.failures = 0) ∧
    (p.state = .training → p.phase = 4 → p.echoes.length = 4 → 130000 < rt → ∃ t q, exec (.measurePhaseEnd n) s = .next t ∧
      t.port? n = some q ∧ q.state = .failed ∧ q.tooLong = true ∧ t.mem = s.mem) ∧
    (p.state = .retraining → p.phase = 4 → p.echoes.length = 4 → ∃ t q, exec (.measurePhaseEnd n) s = .next t ∧ portNow s t n q ∧
      q.state = .up ∧ q.sent = p.sent ++ p.replay.map (·.flit) ∧ q.replay.map (·.flit) = p.replay.map (·.flit)) ∧
    (training → p.phaseSince + 940000 ≤ s.cycle → p.failures < 2 → ∃ t q, exec (.trainingPhaseTimeout n) s = .next t ∧ portNow s t n q ∧
      q.state = p.state ∧ q.failures = p.failures + 1 ∧
      q.phase = (if p.state = .retraining ∧ p.recvScr ≠ [] then 2 else 1)) ∧
    (training → p.phaseSince + 940000 ≤ s.cycle → 2 ≤ p.failures → ∃ t q, exec (.trainingPhaseTimeout n) s = .next t ∧
      t.port? n = some q ∧ q.state = .failed ∧ q.replay = [] ∧ t.mem = s.mem ∧
      t.linkQueue = p.replay.map (fun u => { dst := u.dst, part := u.part, cls := u.cls, body := u.flit.extractLsb' 32 224 }) ++ s.linkQueue) ∧
    (p.state = .up → ∃ t q, exec (.lockLoss n) s = .next t ∧ portNow s t n q ∧ q.state = .retraining ∧ q.phase = 1 ∧
      q.recvScr = [] ∧ q.replay = p.replay) ∧
    (training → ∃ t q, exec (.lockLoss n) s = .next t ∧ portNow s t n q ∧ q.state = p.state ∧ q.phase = 1 ∧ q.recvScr = [] ∧
      q.failures = p.failures) ∧
    (p.state = .down ∨ p.state = .failed → exec (.lockLoss n) s = .next s ∧ exec (.trainingPhaseTimeout n) s = .next s)

/-- R156 to R158: a flit with a right CRC has a wrong one after any single bit of it has changed; the four lanes of a port
carry every bit of a flit exactly once, 64 on each; a lane descrambled from the state it was scrambled from gives the bits
that were sent, and leaves both generators alike. What one port puts on the line, a trained port takes for the same flit,
however its lanes are ordered, inverted and skewed. -/
def Obligations.FlitsSurviveTheLineAndSingleErrorsAreSeen : Prop :=
  (∀ (f : BitVec 256) (i : Nat), i < 256 → f.extractLsb' 0 24 = flitCrc f →
    (f ^^^ (1#256 <<< i)).extractLsb' 0 24 ≠ flitCrc (f ^^^ (1#256 <<< i))) ∧
  (∀ f g : BitVec 256, (∀ l < 4, (laneBits f l).length = 64) ∧ ((∀ l < 4, laneBits f l = laneBits g l) → f = g)) ∧
  (∀ (ds : List Bool) (x : BitVec 31), scramble (scramble ds x).1 x = (ds, (scramble ds x).2)) ∧
  (∀ (p q : LinkPort) (k m : Nat) (f : BitVec 256) (rx : List (List Level)), p.sendScr.length = 4 → q.lanes.length = 4 →
    q.recvScr.length = 4 → (∀ l < 4, ∃ t ∈ q.lanes, t.number = l) →
    (∀ (i : Nat) t x y, q.lanes[i]? = some t → q.recvScr[i]? = some x → p.sendScr[t.number]? = some y →
      scrAfter (64 * (m - q.rxAt)) x = scrAfter (64 * (k - p.scrAt)) y ∧
      ∃ before ls after, rx[i]? = some (before ++ ls ++ after) ∧ before.length = t.skew ∧
        (p.putLine k (laneBits f)).line[t.number]? = some (if t.inverted then ls.map negLevel else ls)) →
    (q.takeFlit m rx).1 = f)

/-- R379 to R382: a package reset leaves every field of the state as reset leaves it, but the fuses, the flash, the readings of
power and heat, what lies outside the package, and the model's own agenda and free values. The boot takes its stages in order:
one that fails in stages 1 to 3 ends in recovery, in stage 4 the boot halts with a code the host reads; stage 4 zeroes the
buffers, stage 5 builds partitions that share no truss, page, bank, channel or group, stage 6 measures, loads and starts each
partition's verified supervisor at its image's entry and ends the boot. In recovery a verified image is booted and then, once
the boot has ended, written to flash, any other discarded; a frozen package answers the host with configuration-retry status.
The rollback counter only advances, at the request of verified firmware. What the mailbox holds after an image, how the
measurement is extended and where in an image its entry stands are the model's choices (log 31). -/
def Obligations.ResetBootAndRecoveryFollowTheirStages : Prop :=
  ∀ s : State,
    (∃ t, exec .packageReset s = .next t ∧
      t = { State.reset with mem := t.mem, agenda := s.agenda, fresh := s.fresh, harvest := s.harvest, debugEnable := s.debugEnable,
                             power := t.power, boot := t.boot } ∧
      t.power = { State.reset.power with watts := s.power.watts, celsius := s.power.celsius } ∧
      t.boot = { State.reset.boot with flash := s.boot.flash, rollback := s.boot.rollback, vendorKey := s.boot.vendorKey,
                                       selfTestOk := s.boot.selfTestOk, trainOk := s.boot.trainOk } ∧
      t.boot.stage = 1 ∧ t.boot.running = none ∧ t.boot.recovery = false ∧
      (∀ a, isHostKey a = false → Memory.read a t.mem = 0) ∧
      (Memory.wf s.mem → ∀ a, isHostKey a = true → Memory.read a t.mem = Memory.read a s.mem)) ∧
    (∀ img : FwImage,
      let good := img.keyHash = s.boot.vendorKey ∧ Config.mlDsaVerify img.keyHash (Config.sha3 img.body) img.sig = true ∧
        s.boot.rollback ≤ img.version
      let last := mailPiece (img.body ++ img.sig)
      (s.frozen = false → s.boot.recovery = true → good → exec (.recoveryImage img) s =
        .next { s with boot := { s.boot with mailbox := last, recovery := false, stage := 4, running := some img, toFlash := true } }) ∧
      (s.frozen = false → s.boot.recovery = true → ¬ good → exec (.recoveryImage img) s =
        .next { s with boot := { s.boot with mailbox := last } }) ∧
      (s.frozen = false → s.boot.recovery = false → exec (.recoveryImage img) s = .next s) ∧
      (s.frozen = true → exec (.recoveryImage img) s = .next { s with boot := { s.boot with hostRetries := s.boot.hostRetries + 1 } })) ∧
    (∀ bytes : List Byte, (mailPiece bytes).length ≤ 65536) ∧
    (∀ v : Nat, (s.boot.running ≠ none → s.boot.rollback < v →
        exec (.rollbackAdvance v) s = .next { s with boot := { s.boot with rollback := v } }) ∧
      (s.boot.running = none ∨ v ≤ s.boot.rollback → exec (.rollbackAdvance v) s = .next s)) ∧
    (s.boot.recovery = true → s.bootStep = s) ∧
    (s.boot.recovery = false →
      let stage := fun (n : Nat) => { s with boot := { s.boot with stage := n } }
      let recovers := s.bootStep = { s with boot := { s.boot with recovery := true, running := none } }
      (s.boot.stage = 1 → (s.boot.selfTestOk = true → s.boot.flash ≠ none → s.bootStep = stage 2) ∧
        (s.boot.selfTestOk = false ∨ s.boot.flash = none → recovers)) ∧
      (s.boot.stage = 2 ∨ s.boot.stage = 3 → s.boot.flash = none → recovers) ∧
      (∀ img, s.boot.flash = some img →
        let good := img.keyHash = s.boot.vendorKey ∧ Config.mlDsaVerify img.keyHash (Config.sha3 img.body) img.sig = true
        (s.boot.stage = 2 → (good → s.bootStep = stage 3) ∧ (¬ good → recovers)) ∧
        (s.boot.stage = 3 → (s.boot.rollback ≤ img.version →
            s.bootStep = { s with boot := { s.boot with stage := 4, running := some img } }) ∧
          (img.version < s.boot.rollback → recovers))) ∧
      (∀ img, s.boot.running = some img → let t := s.bootStep
        (s.boot.stage = 4 → (s.boot.trainOk = false → ∃ code, t.boot = { s.boot with halted := some code, hostStatus := code } ∧
            t.mem = s.mem ∧ t.me = s.me) ∧
          (s.boot.trainOk = true → t.boot = { s.boot with stage := 5 } ∧ (∀ a, isHostKey a = false → Memory.read a t.mem = 0) ∧
            (Memory.wf s.mem → ∀ a, isHostKey a = true → Memory.read a t.mem = Memory.read a s.mem) ∧
            t.banks = [] ∧ t.ranges = [] ∧ (∀ n, (t.core n).accum = []) ∧ t.pkgId = img.pkgId ∧ t.routes = img.routes ∧
            600 ≤ t.power.cap ∧ t.power.cap ≤ 1800)) ∧
        (s.boot.stage = 5 → t.boot = { s.boot with stage := 6 } ∧ t.mem = s.mem ∧ t.me = s.me ∧ (s.parts = [] →
          ∀ (i j : Nat) p q, i < j → t.parts[i]? = some p → t.parts[j]? = some q →
            (∀ x ∈ p.trusses, x ∉ q.trusses) ∧ (∀ x ∈ p.pages, x ∉ q.pages) ∧ (∀ x ∈ p.banks, x ∉ q.banks) ∧
            (∀ x ∈ p.channels, x ∉ q.channels) ∧ (∀ x ∈ p.groups, x ∉ q.groups))) ∧
        (s.boot.stage = 6 → t.boot = { s.boot with
          stage := 7, toFlash := false, flash := if s.boot.toFlash = true then some img else s.boot.flash }))) ∧
    (∀ (part : Nat) (p : PartPolicy) (key : BitVec 256) (q : Partition), s.part? part = some q → q.supBooted = false →
      let ok := key = s.boot.vendorKey ∧ Config.mlDsaVerify key (Config.sha3 p.supImage) p.supSig = true ∧
        p.supLoad.flatMap (·.2) = p.supImage
      let t := s.bootSup part p key
      (¬ ok → t = s) ∧
      (ok → ∃ r, t.part? part = some r ∧ r.measurement = extendMeasure q.measurement p.supImage ∧
        (∀ k, k ≠ part → t.part? k = s.part? k) ∧
        (r.supBooted = true → let c := t.core q.supCore
          c.run = .running ∧ c.super = true ∧ c.pc = epcWord (Config.imageEntry p.supImage) ∧ c.gpr 4 = BitVec.ofNat 64 part ∧
            c.gpr 5 = p.recordAddr)))

/-- R160, R385: a freeze turns every class OFF on every port that is up, and changes nothing else; a second one has no
effect; a resume sends the classes' state again, and the monitor is told of a freeze by heat (R387). A readout by scan
changes nothing; a write by scan is refused unless the debug-enable bit is fused. Which places the chains reach is the
model's choice (log 32). -/
def Sys2Proof.Claims.FreezeAndResumeChangeNothingButTheLinks : Prop :=
  ∀ s : State,
    (s.frozen = true → exec .freeze s = .next s) ∧
    (s.frozen = false → ∃ t, exec .freeze s = .next t ∧ t = { s with frozen := true, ports := t.ports } ∧
      ∀ n p, s.port? n = some p → ∃ q, t.port? n = some q ∧ (p.state ≠ .up → q = p) ∧
        (p.state = .up → ∃ a, q.sent = p.sent ++ [a] ∧ isControl a 3 ∧ (∀ c < 4, a.getLsbD (244 + c) = false) ∧
          q.state = .up ∧ q.replay = p.replay ∧ q.nearOff = p.nearOff ∧ q.expectSeq = p.expectSeq ∧ q.sendSeq = p.sendSeq)) ∧
    (s.frozen = false → exec .resume s = .next s) ∧
    (s.frozen = true → ∃ t, exec .resume s = .next t ∧
      t = { s with frozen := false, power := t.power, ports := t.ports } ∧
      t.power = { s.power with frozeHot := false, toldHot := if s.power.frozeHot = true then s.power.toldHot + 1 else s.power.toldHot } ∧
      ∀ n p, s.port? n = some p → ∃ q, t.port? n = some q ∧ (p.state ≠ .up → q = p) ∧
        (p.state = .up → ∃ a, q.sent = p.sent ++ [a] ∧ isControl a 3 ∧ (∀ c < 4, a.getLsbD (244 + c) = decide (c ∉ p.nearOff)) ∧
          q.replay = p.replay)) ∧
    (∀ place, exec (.scanChainAccess (.read place)) s = .next s) ∧
    (∀ k, s.scanRead (.mem k) = some (Memory.read k s.mem).toNat) ∧
    (∀ core r, s.scanRead (.gpr core r) = some ((s.core core).g[r]?.getD 0).toNat) ∧
    (∀ place v, (s.debugEnable = false ∨ s.frozen = false → exec (.scanChainAccess (.write place v)) s = .next s) ∧
      (s.debugEnable = true → s.frozen = true → exec (.scanChainAccess (.write place v)) s = .next (s.scanWrite place v))) ∧
    (∀ k v, Memory.wf s.mem → Memory.read k (s.scanWrite (.mem k) v).mem = BitVec.ofNat 8 v ∧ (s.scanWrite (.mem k) v).me = s.me ∧
      ∀ a, a ≠ k → Memory.read a (s.scanWrite (.mem k) v).mem = Memory.read a s.mem) ∧
    (∀ r v, r < 32 → (s.scanWrite (.gpr s.me.id r) v).me = { s.me with g := (s.scanWrite (.gpr s.me.id r) v).me.g } ∧
      (s.scanWrite (.gpr s.me.id r) v).mem = s.mem ∧
      ∀ k, (s.scanWrite (.gpr s.me.id r) v).me.g[k]? = if k = r then some (BitVec.ofNat 64 v) else s.me.g[k]?) ∧
    (∀ num part v ch, s.channel? num = some ch → part = 1 → (s.scanWrite (.channel num part) v).channel? num = some { ch with count := v })

/-- R387: power above the cap, or a junction at 105 °C, withholds a further sixteenth of arithmetic issue; a junction at
115 °C freezes the package; the throttle ends when neither holds. No register and no memory changes. -/
def Sys2Proof.Claims.PowerAndHeatThrottleOrFreeze : Prop :=
  ∀ s : State,
    (∀ w, s.power.cap < w → ∃ t, exec (.powerCapExceeded w) s = .next t ∧ t.me = s.me ∧ t.others = s.others ∧ t.mem = s.mem ∧
      t.power = { s.power with watts := w, throttle := min 15 (s.power.throttle + 1) }) ∧
    (∀ w, w ≤ s.power.cap → exec (.powerCapExceeded w) s = .next s) ∧
    (∀ d c, d < s.power.celsius.length → 105 ≤ c → ∃ t, exec (.junctionThrottle d c) s = .next t ∧ t.me = s.me ∧ t.others = s.others ∧
      t.mem = s.mem ∧ t.power.throttle = min 15 (s.power.throttle + 1) ∧ t.power.celsius[d]? = some c ∧ t.frozen = s.frozen) ∧
    (∀ d c, c < 105 → exec (.junctionThrottle d c) s = .next s) ∧
    (∀ d c, d < s.power.celsius.length → 115 ≤ c → ∃ t, exec (.junctionFreeze d c) s = .next t ∧ t.frozen = true ∧ t.me = s.me ∧
      t.others = s.others ∧ t.mem = s.mem ∧ t.power.frozeHot = true ∧ t.cycle = s.cycle) ∧
    (∀ d c, c < 115 → exec (.junctionFreeze d c) s = .next s) ∧
    (∀ w cs, cs.length = 5 → ∃ t, exec (.throttleEnd w cs) s = .next t ∧ t.me = s.me ∧ t.mem = s.mem ∧
      ((w ≤ s.power.cap ∧ ∀ c ∈ cs, c < 105) → t.power.throttle = 0) ∧
      (s.power.cap < w ∨ (∃ c ∈ cs, 105 ≤ c) → t.power.throttle = s.power.throttle))

/-- R223 to R227: decoding the encoding of a well-formed instruction gives it back, with every operand at every value the
encoding admits. -/
def Sys2Proof.Claims.DecodeOfEncode : Prop :=
  ∀ (i : Instr) (w : IWord), i.wellFormed = true → encode i = some w → decode w = .ok i

/-- R223, R229: each assigned word has one meaning: the instruction a word decodes to encodes to that word, so that no bit
of a word is passed over. -/
def Sys2Proof.Claims.EncodeOfDecode : Prop := ∀ (w : IWord) (i : Instr), decode w = .ok i → encode i = some w

/-- R107, R230, R231, R336 to R356: a tile command within the limits of its entry decodes from its 256 bits with its common
fields; a word is accepted only if it is the word of such a command, so that every bit that no field names is zero. -/
def Obligations.CommandWordsRoundTrip : Prop :=
  (∀ (field : Nat) (h : CmdHead) (c : Cmd), tcwOk field h c = true → decodeTcw field (encodeTcw h c) = some (h, c)) ∧
  (∀ (field : Nat) (w : TcwWord) (h : CmdHead) (c : Cmd), decodeTcw field w = some (h, c) → encodeTcw h c = w ∧ tcwOk field h c = true)

/-- R223 to R227: words the manual writes out in its encoding tables decode to the instructions they stand for. -/
def Obligations.WordsOfTheManualDecode : Prop :=
  decode 0x04A63813 = .ok (.div 5 6 7) ∧ decode 0x08A5FFFF = .ok (.addi 5 5 0xFFFF) ∧ decode 0x18C6002C = .ok (.slli 6 6 44) ∧
  decode 0x2D056010 = .ok (.ld 8 5 16) ∧ decode 0x30E51FFF = .ok (.sb 7 5 0x1FFF) ∧ decode 0x3400023F = .ok (.fence 3 1 1 1 1) ∧
  decode 0x38A63A3C = .ok (.amoSwap 5 6 7 1 3 4) ∧ decode 0x3D600003 = .ok (.beq 11 0 3) ∧ decode 0x43FFFFFC = .ok (.j 0x3FFFFFC) ∧
  decode 0x48290000 = .ok (.jalr 1 9 0) ∧ decode 0x4C0502C2 = .ok (.csrs 5 0x02C) ∧ decode 0x5000000A = .ok .ifence ∧
  decode 0x54A00206 = .ok (.wait 5 6) ∧ decode 0x59450000 = .ok (.rtake 10 5) ∧ decode 0x5CA90200 = .ok (.qstat 5 9 0 0) ∧
  decode 0x60E03100 = .ok (.cget 7 6) ∧ decode 0x8022184A = .ok (.vfadd 1 2 3 1 0 1 0 2) ∧ decode 0x85095330 = .ok (.vfdot2 8 9 10 0 1 0 0 0) ∧
  decode 0x88621A10 = .ok (.vfle 3 2 3 0 1 0) ∧ decode 0x8CC70400 = .ok (.vcvtI8I32 6 7 0) ∧ decode 0x90221B94 = .ok (.vsadd 1 2 3 1 1 0) ∧
  decode 0x942201C1 = .ok (.vredfsum 1 2 0 0 1) ∧ decode 0x98602986 = .ok (.pset 3 5 1 2) ∧ decode 0x9CC50721 = .ok (.vstaFadd 6 5 0 0) ∧
  decode 0xA0411AC0 = .ok (.uaddf 2 1 3 0) ∧ decode 0xA0221888 = .ok (.rmulq 1 2 3 0 8)

/-- R57, R129, R229, R232: when the bytes at pc decode to an instruction, a step of a running core at a boundary is that
instruction at that state (its line now cached), and one cycle passes; a word that decodes to none takes cause 0 with the
word; a pc that is no multiple of 4 takes cause 2 with the pc. A step that the agenda names is that instruction on its core. -/
def Obligations.StepRunsTheDecodedInstruction : Prop :=
  (∀ s : State, s.agenda = [] → s.frozen = false → s.boot.halted = none → 7 ≤ s.boot.stage → s.engineTurn = false →
    s.canRun = true → s.asyncDue = false → s.isFollower = false →
    let done := fun (t : State) => { t with cycle := t.cycle + 1, engineTurn := true }
    (∀ k u w, s.me.pc.toNat % 4 = 0 → windowOf s.me.pc.toNat = .paged → xlatM s.me.pc.toNat .fetch s = .ok (k, u) →
      u.eccError k 4 = false → cachedBytes u.me.l1i k 4 = none → w = BitVec.ofNat 32 (leVal (Memory.readBytes u.mem k 4)) →
      let v := u.updMe (fun c => { c with l1i := readLine u.mem c.l1i k (Memory.readBytes u.mem k 4) })
      (∀ i, decode w = .ok i → ∃ t, exec i v = .next t ∧ step s = .next (done (t.afterLeader w s.me.pc s.me.user.diverge)) ∧
        ((∀ g, t.me.unit = some g → g.gangSize ≤ 1) → step s = .next (done t))) ∧
      (∀ e, decode w = .error e → ∃ t, exec (.illegalInstruction 0 (w.zeroExtend 64)) v = .next t ∧
        step s = .next (done (t.afterLeader w s.me.pc s.me.user.diverge)))) ∧
    (s.me.pc.toNat % 4 ≠ 0 → step s = .next (done (s.takeTrap 2 s.me.pc)))) ∧
  (∀ (s : State) (c : Nat) (i : Instr) (rest : List (Nat × Instr)), s.agenda = (c, i) :: rest → s.frozen = false → c = s.me.id →
    ∃ t, exec i { s with agenda := rest } = .next t ∧ (t.me.id = s.me.id → step s = .next t)) ∧
  (∀ s : State, s.agenda = [] → s.frozen = true → step s = .next s)

/-- R54, R217, R379: every instruction of the table answers a next state in every state: it completes, takes a trap, waits,
or its event does not apply. A step stops in one case alone, a boot that has halted (stage 4 of R379). -/
def Obligations.OnlyAHaltedBootStopsTheMachine : Prop :=
  (∀ (i : Instr) (s : State), ∃ t, exec i s = .next t) ∧
  (∀ s : State, (∃ t, step s = .next t) ∨ ∃ code, s.boot.halted = some code ∧ step s = .fault (.bootHalted code))

/-- R42, R60, R65 (the model's own form of memory, log 2): every step keeps memory in its canonical form, addresses strictly
rising and no byte listed that reads the same unlisted, so that equal memories are equal data. -/
def Obligations.EveryStepKeepsMemoryCanonical : Prop :=
  ∀ s t : State, Memory.wf s.mem = true → step s = .next t → Memory.wf t.mem = true

/-- R26, R28, R31, R43, R46, R101, R185, R251, R252, R379: the reset state holds the reset values the manual states, its memory
is canonical and its boot is at stage 1. That every byte but the host's reads 0 at reset is, for DRAM, the model's choice
(log 2). -/
def Obligations.ResetHoldsTheStatedValues : Prop :=
  let s := State.reset
  let c := s.me
  Memory.wf s.mem = true ∧ (∀ a, isHostKey a = false → Memory.read a s.mem = 0) ∧ s.boot.stage = 1 ∧ s.boot.halted = none ∧ s.cycle = 0 ∧
  (∀ k, c.gpr k = 0) ∧ (∀ k, c.vr k = 0) ∧ (∀ k, k ≠ 0 → c.pr k = 0) ∧ c.pr 0 = 0xFFFFFFFFFFFFFFFF ∧
  c.user.fctl = 0 ∧ c.user.fflags = 0 ∧ (∀ x ∈ c.user.evcnt.toList, x = 0) ∧ c.user.mfmt = 0x33 ∧ c.user.portwait = 65536 ∧
  c.user.waitto = 0 ∧ c.user.portmap = 0 ∧ c.user.uienable = 0 ∧ c.user.restored = false ∧ c.user.diverge = false ∧
  c.sup.pdeadline = 0x10000 ∧ c.sup.retrymax = 64 ∧ c.sup.wdlimit = 0 ∧ c.sup.wdpark = 0 ∧ c.sup.sdeleg = 0 ∧
  c.sup.sie = false ∧ c.sup.spie = false ∧ c.sup.uia = false ∧ s.coll.tree = [] ∧ (∀ p ∈ s.ports, p.state = .down)

/-! The statements that join several of the claims above. -/

/-- R234, R235: each three-register ALU instruction, on registers in their ordinary form, completes with g[rd] as the
table gives it from the two sources and nothing else changed but the pc and INSTRET; no operand value traps. R234, R236,
R237, R238: the one-source instructions, SEL, LUI and INSH, on registers in their ordinary form. R99, R217, R232: in
every operand form a three-register ALU instruction reads ra, then rb, then writes rd, and completes; when a read or the
write stops it, it traps or waits and nothing of it has happened. R99, R217, R232: the one-source and immediate
instructions read ra, SEL reads ra, rb, then rd, INSH reads rd, LUI reads nothing; then each writes rd, in every operand
form: a port, a pending register and g0 among them. -/
def Obligations.ScalarInstructionsWriteTheirResult : Prop :=
  Sys2Proof.Claims.AluInstructionsWriteTheTableResult ∧
  Sys2Proof.Claims.OneSourceInstructionsWriteTheTableResult ∧
  Sys2Proof.Claims.AluOperandsAreTakenInOrderInEveryForm ∧
  Sys2Proof.Claims.OneSourceOperandsAreTakenInOrderInEveryForm

/-- R96, R99, R100, R102: reading a register mapped as a port. A neighbour port without a partner is cause 3 with the
register number; an empty queue waits; otherwise the head word is taken, the hardware queue keeps the rest and refills
from the head of the spill area, and nothing else changes. Where in the area a word lies is the model's choice (log 40).
R96, R99 to R102: writing a register mapped as a port. No target or no partner is cause 3 with the register number; a
target that answers retry, or that is full, waits; otherwise the word goes to the tail of the target's hardware queue
when that has room and nothing is spilled. R151: a register that is the destination of a held deterministic atomic: any
use before the core's arrival in the batch channel's episode is cause 13 with the word, and after the arrival the use
waits (of a write, the model's reading, log 29). R217: g0 reads zero and a write to it is discarded; p0 reads all ones
and a write to it is discarded; any other register reads back what was written, and no other register changes. -/
def Obligations.PortPendingAndHardwiredRegistersFollowTheirRules : Prop :=
  Sys2Proof.Claims.PortRegisterReadsTakeTheHeadWord ∧
  Sys2Proof.Claims.PortRegisterWritesSendOneWord ∧
  Sys2Proof.Claims.PendingRegistersTrapBeforeArrivalAndWaitAfter ∧
  Sys2Proof.Claims.HardwiredRegistersReadConstantsAndDiscardWrites

/-- R239, R241: a load whose checks pass completes: g[rd] is the extended little-endian value of the bytes at the place
the address decodes to, or of the core's own cached copy of them where the page is cached; every other register and all
of memory stay. R240: a store whose checks pass completes and writes the low bytes of g[rs], lowest first, at the place
the address decodes to; every other byte of memory and every register but the pc and INSTRET stays. -/
def Obligations.LoadsAndStoresMoveTheBytesOfTheirPlace : Prop :=
  Sys2Proof.Claims.LoadsWriteTheExtendedBytesOfTheirPlace ∧
  Sys2Proof.Claims.StoresWriteTheLowBytesAtTheirPlace

/-- R241: when a check of its address fails, a load or store takes the trap of that check, or waits, and nothing of the
access is performed. R57 to R61, R241 steps 1 to 3: the checks of an access come in their order: alignment, the window,
deterministic mode; the self window is the core's own store; die shared memory answers only to the owner of the page.
R57: bits 63:44 select the window, and in each window an offset at or above its limit, or beyond a core's or die's part
of it, lies outside every window. R62 to R66: the checks of a page descriptor, in their order: V clear or a reserved bit
is cause 3, P clear cause 4; then frame outside its tier's populated range, poison, permission (an AMO only on the
stacked tier), a write to a migrating page; then the location of the byte. -/
def Obligations.AccessChecksComeInOrderAndFailWithoutEffect : Prop :=
  Sys2Proof.Claims.FailedChecksPerformNothingOfTheAccess ∧
  Sys2Proof.Claims.AccessChecksComeInTheirOrder ∧
  Sys2Proof.Claims.WindowsAreSelectedByTheUpperAddressBits ∧
  Sys2Proof.Claims.PageDescriptorChecksComeInTheirOrder

/-- R265, R266: LDA loads as its size says and, at a scope wider than CORE, leaves no line in the L1 data cache; STL
stores the low bytes of g[rb]. Both complete when the checks of their place pass. R267, R129, R263, R55, R259: FENCE
completes, and with RA set at a scope wider than CORE empties the L1 data cache; IFENCE empties the L1 instruction cache
and the I-TLB; MARK restarts the watchdog's count. Nothing else changes. -/
def Obligations.OrderedAccessesAndFencesComplete : Prop :=
  Sys2Proof.Claims.AcquireLoadsAndReleaseStoresComplete ∧
  Sys2Proof.Claims.FencesAndMarkComplete

/-- R269, R271, R272: an atomic that is not batched, whose checks pass, reads the old value at its place, writes the new
one there when f says so, and returns f's result in rd (g0: none); every other byte of memory and every other register
stays; an acquire at a scope wider than CORE leaves no line in the L1 data cache. R270, R272: the first failing check of
an atomic: alignment is cause 2; a window that takes no atomic, or FADD outside die shared memory, is cause 3; an
uncorrectable error is cause 22 and nothing is written. -/
def Obligations.AtomicsReadModifyWriteAfterTheirChecks : Prop :=
  Sys2Proof.Claims.AtomicsReadModifyWriteTheirPlace ∧
  Sys2Proof.Claims.AtomicChecksComeInTheirOrder

/-- R126, R271: WAITW on a word of die shared memory whose checks pass: a word already at its target returns 0, a full
bank returns 2; else the core waits with its waiter registered; a waiter that has been woken returns 1, and one whose
time is over and that has not been woken 3. Whatever it returns, its slot is free, and an acquire at a scope wider than
CORE leaves no line in the L1 data cache. R126: an ADDT on die shared memory that crosses its threshold wakes every
waiter registered on its word. -/
def Obligations.WaitwWaitsAndAddtWakes : Prop :=
  Sys2Proof.Claims.WaitwReturnsItsStatus ∧
  Sys2Proof.Claims.AddtThatCrossesWakesEveryWaiterOfItsWord

/-- R243: a conditional branch goes on at pc + 4·sext(off13, 13) when its condition holds and at pc + 4 when not. R244,
R245: J and JAL go to pc + 4·sext(off26, 26), JALR to g[ra] + sext(imm16, 16), which must be a multiple of 4; JAL writes
g1 and JALR g[rd] with pc + 4, after the source is read; a target of JALR that is no multiple of 4 is cause 2 with the
target, and nothing is written. -/
def Obligations.BranchesAndJumpsGoToTheirTarget : Prop :=
  Sys2Proof.Claims.BranchesGoToTheirTargetExactlyWhenTaken ∧
  Sys2Proof.Claims.JumpsLinkAndGoToTheirTarget

/-- R228, R248: CSRR of an assigned register reads it into rd; a register that is not assigned is cause 0, and a
supervisor register (0x400 on) at user level is cause 1, with the instruction word. R7, R248: CSRW, CSRS and CSRC of a
read-write register complete: it then reads as the new value in its writable bits and zero elsewhere; every other
assigned register but INSTRET reads as before; general registers and memory stay; at user level a supervisor register is
cause 1. R26, R28, R185, R250, R321: the writes of FCTL, FFLAGS, MFMT, INSTRET and KBACK: a value the map forbids is
cause 0 with the word and leaves the register; otherwise it holds the new value, and INSTRET reads as written. R97,
R119: PORTMAP takes at most the launch's ports, with every spill area in the private part and no mapped port that holds
words moved or unmapped; BMASK takes only channels the launch holds, a cleared bit counts as an arrival of the unit and
a set bit leaves it unmarked; a value outside these is cause 0 and changes nothing. -/
def Obligations.ControlRegisterInstructionsFollowTheAccessCodes : Prop :=
  Sys2Proof.Claims.ControlRegisterReadsAndTheirChecks ∧
  Sys2Proof.Claims.ControlRegisterWritesKeepOnlyTheWritableBits ∧
  Sys2Proof.Claims.WritesOfRegistersWithRulesOfTheirOwn ∧
  Sys2Proof.Claims.PortAndBarrierMaskWrites

/-- R42, R67, R69: at supervisor level a TLBINV with a legal scope and no reserved bit completes, and no cached
translation it covers is left on the core, nor in the second-level TLB of its truss; at user level it is cause 1. A page
of DRAM that leaves the context reads zero where no page still held overlaps it, and no other byte changes (that a page
leaves at the TLBINV that covers it is the model's choice, log 24). R72: a CSRW of UINOTE at supervisor level: STATUS 3
or a reserved bit is cause 0; a full notice queue stalls the writer; a running core of the partition with room gets the
notice at the end of its queue. A stalled writer may go on once there is room. -/
def Obligations.TlbinvAndUinoteReachWhatTheyName : Prop :=
  Sys2Proof.Claims.TlbinvLeavesNoCoveredTranslation ∧
  Sys2Proof.Claims.UinoteReachesTheNoticeQueueOfItsTarget

/-- R52 to R54: a synchronous trap outside a fused gang. One that is delegated, at user level, with TRAP set and outside
the user-interrupt context enters that context: UIPC, UICAUSE and UIVAL are written, g16 to g23 change places with the
shadow bank, UIA is set and the pc goes to UIVEC, at the same privilege. Any other enters the supervisor: SEPC, SCAUSE
and SVAL are written, SPP and SPIE take the privilege and SIE, SIE becomes 0, and the pc goes to STVEC. Nothing else
changes. R232, R255, R256: ECALL at user level and EBREAK complete: they take causes 17 and 18 with value 0 and count in
INSTRET; an illegal instruction takes its cause, with the word. At supervisor level ECALL is a monitor call: an unknown
call number leaves status 1 in g4 and changes nothing else but the pc and INSTRET. R229, R234 to R242, R304 and the
tables they name: an instruction whose word carries a code its table does not list takes cause 0 with its word and does
nothing else; no spill or refill is in flight, as none is but for a core parked at a well-formed kerf instruction. -/
def Obligations.TrapsEnterTheContextOfTheirCause : Prop :=
  Sys2Proof.Claims.TrapsEnterTheSupervisorOrTheUserInterruptContext ∧
  Sys2Proof.Claims.CallsAndBreakpointsTrapAndCount ∧
  Sys2Proof.Claims.WordsWithUnlistedCodesTakeTheIllegalTrap

/-- R44, R45, R259, R260: YIELD completes and does nothing more while PREQ is clear; with PREQ set under a set the core
is then saving, to resume after it. IDLE completes when an event or notice it waits for is there and parks otherwise; a
parked IDLE completes by the event. R93, R261: SPLIT makes a member of a fused gang diverge and does nothing elsewhere;
FUSE does nothing on a core whose gang is one core or that has not diverged; where every member waits at a FUSE, all go
on together after the leader's. R76, R262: EXIT at user level, once the held atomics are performed and the queues are
over, ends the unit: the core holds no unit any more, and is kept for its launch while units of it are left and is being
zeroed when the last has ended; before that it waits, and the wait's end ends the unit too. At supervisor level it is
cause 0; with held atomics before the arrival it is cause 13. -/
def Obligations.YieldIdleSplitFuseAndExitMoveTheUnit : Prop :=
  Sys2Proof.Claims.YieldSavesOnRequestAndIdleEndsOnAnEvent ∧
  Sys2Proof.Claims.SplitAndFuseMoveTheGangBetweenItsModes ∧
  Sys2Proof.Claims.ExitEndsTheUnitWhenItsWaitsAreOver

/-- R118, R121, R123, R124: on a channel that the unit's launch holds and of which the unit is a member: a first ARRIVE
or ARRIVE.G marks the unit in the open episode (ARRIVE.G also gathers its event counters); a second waits. WAIT returns
DONE when the awaited episode is over and waits before that; BTEST returns the status at once; EXPECT adds to the count;
BCANCEL completes the episode as failed, what arrived or landed in its own cycle counting in the next; an episode whose
conditions held before has completed with success first. An instruction on a channel that is not held is cause 3 with
the channel. R121, R122, R124, R125: the events of a channel: bound bytes that land count down the open episode, or the
next one once the conditions of the open one hold; an episode whose conditions hold and that gathers nothing completes
with success, PHASE toggling and the next episode opening with the count it was given. WAITTO cycles after its issue a
parked WAIT returns TIMEOUT, or, where its episode has completed by then, DONE with its acquire; a parked WAITW is tried
once more as one whose time is over (which returns status 3 or, once woken, 1). -/
def Obligations.BarriersCountMarksAndBytesIntoEpisodes : Prop :=
  Sys2Proof.Claims.BarrierInstructionsActOnTheOpenEpisode ∧
  Sys2Proof.Claims.EpisodesCountBytesCompleteAndTimeOut

/-- R306, R304: each vector integer instruction writes its table result into the active elements of v[vd] and keeps the
others; VSADD and VSSUB clamp to the signed range and set SAT exactly when an active element clamped. R306, R295: an
integer compare sets every bit of an active element that compares true and clears all other bits of p[pd]. -/
def Obligations.VectorIntegerInstructionsActLaneByLane : Prop :=
  Sys2Proof.Claims.VectorIntegerInstructionsWriteTheTableResult ∧
  Sys2Proof.Claims.VectorComparesWriteOnlyActiveElements

/-- R308, R309: the permutes, slides, scans and selections. R311, R312: the predicate instructions. -/
def Obligations.PermutesAndPredicatesFollowTheirTables : Prop :=
  Sys2Proof.Claims.PermuteInstructionsMoveTheNamedElements ∧
  Sys2Proof.Claims.PredicateInstructionsFollowTheirTable

/-- R310: the integer reductions write element 0 and clear the rest; an inactive element does not count, and no active
element leaves the identity. R36, R310: VREDFSUM sums all 512/w elements by the pairwise tree, an inactive one entering
as the identity of the mode, writes element 0 and zeros above it, and accrues the exception of every addition; it
completes whatever FCTL holds. That FCTL.UFE sets the sense of UF in a tree that never traps, for the identity of an
inactive lane too, is the model's reading (log 27). -/
def Obligations.ReductionsCombineTheActiveElements : Prop :=
  Sys2Proof.Claims.ReductionsCombineTheActiveElements ∧
  Sys2Proof.Claims.VredfsumSumsByThePairwiseTree

/-- R283 to R291, R293 with R29, R30: the vector arithmetic instructions compute each active lane from the operands
flushed under fzi, in the mode rm names, and complete or take cause 12 as a whole. R289, R292, R296: VFSGN, VFDOT2 and
VFCLASS. R294, R295: a floating-point compare sets every bit of an active element that compares true and clears all
others of p[pd]; VFLT and VFLE raise NV for any NaN, the others for a signalling one; an enabled exception is cause 12.
-/
def Obligations.VectorFloatInstructionsComputeTheirLanes : Prop :=
  Sys2Proof.Claims.VectorFloatInstructionsComputeTheirLanes ∧
  Sys2Proof.Claims.SignDotAndClassComputeTheirLanes ∧
  Sys2Proof.Claims.VectorFloatComparesWriteOnlyActiveElements

/-- R297, R298, R299: conversions between floating-point formats round each active element once, under the mode, after
the flush of its input and before the flush of its result. R300: conversions from and to integers, and the saturating
narrowings, which set SAT exactly when an active element clamped and never take cause 12. R297, R301, R302: the
block-scaled conversions read or write a register pair of 32 elements under the scale in bits 7:0 of v[vb]; VCVT.E8.F32
computes the scale of a block. -/
def Obligations.ConversionsRoundSaturateAndScale : Prop :=
  Sys2Proof.Claims.FloatConversionsRoundEachElementOnce ∧
  Sys2Proof.Claims.IntegerConversionsRoundOrSaturate ∧
  Sys2Proof.Claims.BlockConversionsApplyTheirScale

/-- R313, R314, R316: a vector load whose checks pass for every active element completes: an active element of v[vd] is
the little-endian value at its place, an inactive one keeps its value and is not checked; when an element's check fails
the instruction stops there with nothing performed. R314, R316: a vector store whose checks pass for every active
element writes the active elements in ascending order, so that of two on one location the higher index remains; every
byte outside the stored elements stays; when an element's check fails nothing is stored. R314: VLDB reads its one
element once and writes it into every active element; with none active it reads nothing. R315, R316: VSTA whose active
elements are all aligned and in pages of die shared memory that the context owns performs one operation each at the
banks and completes; a misaligned or foreign first active element is its cause, FADD in deterministic mode cause 13,
with nothing performed. -/
def Obligations.VectorMemoryInstructionsMoveTheActiveElements : Prop :=
  Sys2Proof.Claims.VectorLoadsReadTheActiveElements ∧
  Sys2Proof.Claims.VectorStoresWriteTheActiveElementsInOrder ∧
  Sys2Proof.Claims.VldbBroadcastsOneElement ∧
  Sys2Proof.Claims.VstaPerformsOneBankOperationPerElement

/-- R329, R330, R331, R323, R324: RMULF, RMULQ, RSHRA and RADDF: with no faulting lane and room in the head they push
the record of the discarded bits and write the result lanes; a faulting active lane is cause 11 with the mask of the
faulting lanes, and nothing is pushed or written. R331, R329, R330: the undos of those four: on a record of their own
forward instruction with their k and lane mask, and no faulting lane, they pop it and write the input lanes; an empty
stack is cause 10 with KSP, any other header cause 8 with the header, a faulting lane cause 11, each with nothing popped
or written. R330, R324, R329: RNRW, UNRW, RSELZ and USELZ: what they push, pop and write. -/
def Obligations.ForwardPairsPushAndUndoPops : Prop :=
  Sys2Proof.Claims.ForwardInstructionsPushWhatTheyDiscard ∧
  Sys2Proof.Claims.UndoInstructionsPopTheirOwnRecord ∧
  Sys2Proof.Claims.NarrowAndSelectPairsPushAndPop

/-- R332: KMARK completes and pushes a marker; KCHK completes and reads the top header without popping, 0 on an empty
stack; KDROP completes and pops through the newest marker of its id, and takes cause 10 with KSP when there is none. The
head holds no uncorrectable error. R327: a pop that meets an uncorrectable error in its record takes cause 22 and pops
nothing: a record whole in the head with an error in its header, for every undo and for KCHK; the address is the model's
reading (log 21). R325, R326, R327, R332: a push that does not fit in the head first moves the head's oldest 1,024 bytes
to the region; with no room there it starts a spill and waits, or takes cause 9 with KSP when the region cannot spill.
KDROP whose search must go on in the backing starts a refill of channel 63 and waits (R332). KERF_SPILL_COMPLETE and
KERF_REFILL_COMPLETE: once the 4,096 bytes of the block have been moved, the levels change by them and the transfer is
done, but a block that KDROP's search reads leaves the levels (log 21); before that nothing changes. A transfer that has
failed is the trap of the well-formed instruction that needed it, the address being the one met (log 21). R88, R325,
R326, R327, R332: a service of channel 63 moves the next 64 bytes of the block, from the region to the backing for a
spill and from the backing to the region for a refill, or to what KDROP's search has read; no level changes; a fault
stops the transfer with its cause and address, and the fault words of channel 63 are kept (R109). -/
def Obligations.MarkersAndLevelsKeepTheKerfStack : Prop :=
  Sys2Proof.Claims.MarkersDelimitTheKerfStack ∧
  Sys2Proof.Claims.ErrorsInTheHeadStopAPop ∧
  Sys2Proof.Claims.KerfLevelsMoveAsTheStackGrowsAndShrinks ∧
  Sys2Proof.Claims.ChannelSixtyThreeMovesOnePacketAService

/-- R230, R278, R103: ENQ and ENQM push the command their 256 bits decode to, as a new entry of its queue; bits that
decode to none are cause 19 with the low 32 bits; a forbidden move is cause 13; a full issue queue makes ENQ wait. R114,
R279: QSTAT with selector 0 returns the status of the named queue, with 1 to 3 the address words of a copy channel, else
0; channel 63 shows the transfer of the kerf stack, active with one entry while it lasts. QWAIT returns the status once
every entry is complete or the oldest is suspended or pending, waits before that, and takes cause 21 once with queue and
tag for a stale shard seen complete. -/
def Obligations.QueuesTakeCommandsAndReportThem : Prop :=
  Sys2Proof.Claims.EnqPushesTheDecodedCommand ∧
  Sys2Proof.Claims.QstatAndQwaitReportTheQueue

/-- R108, R118, R338, R340: a copy-class command at the head of its channel: an unheld channel or a failing head check
ends it with status 2 and nothing moved; an empty one ends with status 0; any other has been taken up, with no byte of
memory changed: one without a block is active. That GATHR's index range counts as an input in R338's overlap check is
the model's choice (log 18). R338, R342, R343, R203, R346, R347: COPYND, GATHR, SCATR, COPYG and XSCHED complete where
their block can be read; taken up, COPYND has its descriptor, GATHR and SCATR their rows (SCATR its own copy of the
offsets), COPYG its generation word read for the first time (status 4 on a mismatch), XSCHED its checked jig (cause 14
where it fails). A block that fails its checks is status 2. No byte of memory changes. R110, R341: the answer of the
other package to the packet of a COPY that is on its way: its bytes have moved, and the answer to the last packet ends
the entry with status 0; a remote fault ends it with status 3 and the remote cause, and the packet's bytes stay in the
remainder. With no packet on its way nothing changes. R105, R108, R182, R388: a jig's slot that has come is issued, and
its start episode begins its count; a suspended channel that is to be translated again, a refused one whose resend has
come, and a feed whose FIFO has room go on with their next packet. -/
def Obligations.CopyCommandsAreTakenUpAndGoOn : Prop :=
  Sys2Proof.Claims.CopyCommandsAreCheckedAndTakenUpAtTheirHead ∧
  Sys2Proof.Claims.BlocksGiveTheirCommandsTheirWork ∧
  Sys2Proof.Claims.AnswersOfAnotherPackageMoveItsCopy ∧
  Sys2Proof.Claims.WaitingChannelsGoOnWhenTheirEventComes

/-- R180, R184, R186, R188, R189: a matrix command at its head: a follower's split copy ends with status 0; a format
pair or a shape out of its bounds ends it with status 2; any other is at work with the format pair of its first sample.
R87, R185, R187, R188, R190, R191: with no other core of its bay waiting, a core whose head command has its streams
issues its next tile, which samples ASCALE, BSCALE, the rounding mode and FCTL.UFE; an MMA whose formats have changed,
or whose scales reach beyond the store, ends with status 2 instead. A tile of MZERO that ends leaves zero in every
accumulator of the tile; a tile of MMA or MMAT leaves its element function of the old value in the accumulators of its
rows below RCNT. R35, R191, R192: an INT8 element without ISAT is the old accumulator plus the exact dot product, modulo
2^32; MMAT takes B as ternary codes, 1 for 01, −1 for 11, 0 otherwise, and raises TR when a code 10 was read. -/
def Obligations.MatrixCommandsRunTileByTile : Prop :=
  Sys2Proof.Claims.MatrixCommandsAreCheckedAtTheirHead ∧
  Sys2Proof.Claims.MatrixTilesIssueAndWriteTheirAccumulators ∧
  Sys2Proof.Claims.IntegerElementsAccumulateTheExactDotProduct

/-- R199, R201, R202, R204, R207: HIST counts the tokens of each expert and reports those out of range; PSUM writes the
exclusive sums and the total, with status 17 when the total passes 32 bits; APPORT gives each expert the floor of its
share of NB and one bay more to the experts of the largest remainders, lower experts first on equal ones; RSORT writes
the pairs in ascending order of expert and token. A failing head check is status 2 with nothing written; that the count
of a failed command is 0 is the model's choice (log 20). R205, R206, R349: TOPK chooses in each row the K columns of the
greatest keys in the order of its key format, ties to the lower column, and writes their mask and, where an index range
is given, their columns in descending key order. -/
def Obligations.RoutingCommandsCountSortAndChoose : Prop :=
  Sys2Proof.Claims.CountingAndSortingCommandsWriteTheirResults ∧
  Sys2Proof.Claims.TopkChoosesTheGreatestKeysOfEachRow

/-- R208, R209, R210: the PRICE commands on a bank the context owns: READ stores the prices, WRITE takes them from
memory, SCALE multiplies and shifts with saturation and counts the registers that saturated, RESET clears them;
registers outside the named range stay. A bank that is not the context's is status 2, with count 0 (log 20). Commands on
one bank are performed one at a time: a command on a bank that another core's command has begun on waits with nothing
done (log 20). R211 to R214: an auction over capacities that add up to its tokens assigns every token to exactly one
expert, no expert beyond its capacity; AUCT whose blocks can be read completes: it runs that auction in each domain its
tokens name, over the domain's tokens, capacities and prices, and writes each token's record, each domain's status
record and bank; capacities that do not add up end it with status 16 and nothing written. Count 0 with status 2 and with
status 16 is the model's choice (log 20). -/
def Obligations.PricesAndAuctionsFollowTheirRules : Prop :=
  Sys2Proof.Claims.PriceCommandsReadAndWriteTheirRegisters ∧
  Sys2Proof.Claims.AuctionAssignsEveryTokenWithinCapacity

/-- R163, R164, R280: CPUT contributes to an idle slot of a group the core is a member of; CGET waits for a posted slot,
takes a ready one and leaves no line in the L1 data cache, and takes cause 20 once after a failure; CTEST reads the
slot; any other use is cause 3 with the group number. R39, R163, R164: a wave whose members have all contributed
completes with one result, which every posted slot of the group receives; with a member missing nothing changes; over
one level of tree an INT64 add is the sum of all contributions. In a package that does not hold the root, the part of
its members goes to the package above once it is whole, and the result comes from there. A failed tree node makes every
posted slot fail. -/
def Obligations.WavesPassThroughTheirSlots : Prop :=
  Sys2Proof.Claims.WaveInstructionsActOnTheirSlot ∧
  Sys2Proof.Claims.WavesCombineEveryContribution

/-- R165, R166: a CPLAN at its head whose descriptor is outside R165's limits, whose list has reserved bits or one core
twice, whose core is not named or whose BARCH channel is not held ends with status 18; any other CPLAN completes: it
goes to its coordinator, counted here (the first opens the round), or sent. R166: the coordinator counts a CPLAN into
the round of its group: the first opens a round; one that differs ends every waiting CPLAN of the round with status 17;
the last of a round that agrees closes it: with the reservations available the plan is live and every member's CPLAN
ends with its handle, which no other plan of its context has; else they end with status 16. A CPLAN is found by the core
it was issued on and its GROUP, wherever its unit is by now. With members in other packages the reservations are asked
of each, and the last answer decides (log 30); a GROUP in use is found when the round closes (log 25). -/
def Obligations.PlansAreCheckedAndMatchedByGroup : Prop :=
  Sys2Proof.Claims.PlanDescriptorsAreCheckedBeforeTheirRound ∧
  Sys2Proof.Claims.PlanRoundsMatchByGroup

/-- R57, R61, R167: a trigger of a live handle with an argument that is a multiple of 8 and keeps both buffers in their
pages, with an instance to spare, is the next instance of the member and enters the posting; else it is cause 3 with the
trigger address and posts nothing. SD to an address of the trigger window is that trigger, and then completes; an
address that is no multiple of 8 is cause 2. R169, R170: the coordinator takes a posting into its table, answers the hub
it came from and tickets the instance with its last: its own count in a domain, bit 63 and the root's count above
domains; a hub without the role refuses it, and the resend delivers it. A root ticket goes to every domain's
coordinator, which appends it to the domain's stream, and a domain's own joins that stream. A move of a role changes who
holds it, and the hub that gives it up hands its plans, its accepted postings, its open rounds and its count to the new
one. That a hub without the role refuses a posting until its resend, that one posting to a coordinator is on its way at
a time, and what a role's move hands over are the model's choice (log 25). -/
def Obligations.TriggersAndPostingsBecomeTickets : Prop :=
  Sys2Proof.Claims.TriggersPostTheNextInstance ∧
  Sys2Proof.Claims.PostingsBecomeTicketsInStreamOrder

/-- R74, R75, R352: LAUNCH reads its packet and the kernel's header; a packet with a field out of its limits is rejected
with a record of status 2 that names the field, and the entry counts 0; else the launch enters its table with what the
packet says, takes its channels, is ready when its count is zero or less, and the entry counts 1. R82, R85: firmware's
write of a blocked launch's count makes it ready at zero; a launch ready for 2^20 cycles is aged, and counts as priority
15. A ready launch that has no unit to create is served at once (R77); else the placer's head holds it until every one
of its units has been placed; with no head it takes the ready launch of the highest priority, the one that became ready
first among equals. -/
def Obligations.LaunchesEnterTheTableAndBecomeReady : Prop :=
  Sys2Proof.Claims.LaunchPacketsAreAcceptedOrRejected ∧
  Sys2Proof.Claims.LaunchesBecomeReadyAndAge

/-- R89, R90, R276, R277: RTAKE takes min(R, max(M, ⌈R/D⌉)) from the range unit of the core's truss that belongs to its
context, and returns the start and the length; any other unit gives zeros. VSRW makes the old current value the previous
one; VSRR reads either and leaves no line in the L1 data cache. R81, R84, R89, R353 to R355: RANGEINIT gives the range
unit of the core's truss to its context; CNTWAIT ends with the counter's status when it has completed or is not to wait,
seals it if asked, waits otherwise; CANCEL stops a unit by its core number and ends when its core has been released (a
unit whose EXIT is over has exited, and is not counted), and marks a launch that has not begun cancelled; a level that
names nothing ends with status 17, one that has completed with status 16. -/
def Obligations.WorkCommandsAndRangeUnitsFollowTheirRules : Prop :=
  Sys2Proof.Claims.RangeAndVersionedRegistersFollowTheirRules ∧
  Sys2Proof.Claims.WorkCommandsActOnRangesCountersAndUnits

/-- R151, R255, R383: ECALL at supervisor level performs the call that g4 names and completes; a number that names none
answers status 1; a core of no partition is answered 2. The call reads g4 to g7: where g4 is the destination of a held
batched atomic it is cause 13 before the arrival, and waits after it (the wait is the model's reading, log 29). R42,
R48, R60, R163, R208, R341, R382, R383: INFO stores the partition record; SHMPAGE and PRICEBANK pass a page or a bank of
the partition to a context, zeroed when its owner changes; TREE writes one entry; SLICE clamps at 24,000 and answers in
g5; PEER names a remote context. A number out of its range is status 3, a thing of another partition 2. -/
def Obligations.MonitorCallsAnswerAndConfigure : Prop :=
  Sys2Proof.Claims.EcallPerformsTheCallThatG4Names ∧
  Sys2Proof.Claims.MonitorCallsConfigureThePartition

/-- R382, R384: ATTEST reads 32 bytes of nonce and stores the report: version, firmware version and digest, the
partition's measurement, the nonce, the partition record, and the signature over the digest of those 168 bytes; a nonce
that cannot be read, or a report that is misaligned or cannot be written, is status 3 with nothing written. R55, R383:
WDRING with a ring of the partition writes PROD and CONS zero and the count of lost records, and the ring is the
partition's. A ring outside the partition's ranges is status 2. A message of the host reaches the partition's mailbox;
while the package is frozen it is answered with configuration-retry status instead. R67, R386: the report of an
uncorrectable line marks its location bad and sets POI in every descriptor of a page present in a tree in use that maps
it; no other byte changes. Which trees the monitor looks through, and that it does so in the step of the report, are the
model's choices (logs 24 and 26). -/
def Obligations.ReportsRingsAndScrubbersActOnTheirPlaces : Prop :=
  Sys2Proof.Claims.AttestStoresTheSignedReport ∧
  Sys2Proof.Claims.RingsAndMailboxesBelongToTheirPartition ∧
  Sys2Proof.Claims.ScrubReportsPoisonTheirPages

/-- R154, R155, R157, R160: the lanes of a port bring a flit, which steps its descramblers and nothing else of the port.
A data flit with a right CRC, the sequence number expected and room in its class's buffer is accepted and acknowledged;
any other is discarded with one NAK of the number expected for each run of them; the classes held OFF follow the free
room. IDLE changes nothing more. R154, R155, R160, R161: an ACK drops its flit and every earlier one from the replay
buffer; a NAK makes the sender replay from the named flit, and the sixteenth replay of one flit begins retraining; FLOW
gives the classes that are ON; a refresh of FLOW is due 64 flit times after the last while a class is OFF, else 1,024. A
control flit with a wrong CRC only steps the descramblers. R160, R162: a message leaves as a packet with the next number
of its hub and class, once one of the ports its traffic may use is up: the first of the route list. The destination
discards a duplicate, delivers any packet of classes 0 to 2 as it comes, and those of class 3 in sequence, however they
arrive. That a packet carries one message, packed in the order handed over, and what its data are, is the model's choice
(log 30). -/
def Obligations.FlitsArriveInOrderAndAreReplayed : Prop :=
  Sys2Proof.Claims.DataFlitsAreAcceptedInOrderOrAskedForAgain ∧
  Sys2Proof.Claims.ReplayAndFlowFollowTheControlWords ∧
  Sys2Proof.Claims.PacketsArriveOnceAndPostingsInSequence

/-- R155, R159: a PROBE is answered by an ECHO of its stamp; an ECHO gives a round trip of 0.32 ns for each flit time
from stamp to receipt; the next PROBE goes 1,024 flit times after the last, four in all. No flit is taken from the lanes
of a port that is neither up nor measures (log 30). R158, R159, R161: a port moves between down, training, up,
retraining and failed by the events of R161's table and through the phases of R159: all-zero data from the seeds; then
training blocks, once every lane's descrambler has predicted 4,096 bits; READY once every lane's marker has been found
16 times and the four lanes are known; flits, once READY has been received for 64 blocks and sent for 64; the blocks
follow one another on every lane. A port that fails hands its unacknowledged flits to the route list; one that retrains
replays from its first unacknowledged flit. That LOCK_LOSS in training begins phase 1 again and counts no failure is the
model's choice (log 30). -/
def Obligations.PortsTrainAndMeasure : Prop :=
  Sys2Proof.Claims.ProbesMeasureTheRoundTrip ∧
  Sys2Proof.Claims.PortsMoveByTheTrainingTable

/-- R160, R385: a freeze turns every class OFF on every port that is up, and changes nothing else; a second one has no
effect; a resume sends the classes' state again, and the monitor is told of a freeze by heat (R387). A readout by scan
changes nothing; a write by scan is refused unless the debug-enable bit is fused. Which places the chains reach is the
model's choice (log 32). R387: power above the cap, or a junction at 105 °C, withholds a further sixteenth of arithmetic
issue; a junction at 115 °C freezes the package; the throttle ends when neither holds. No register and no memory
changes. -/
def Obligations.FreezePowerAndHeatKeepTheState : Prop :=
  Sys2Proof.Claims.FreezeAndResumeChangeNothingButTheLinks ∧
  Sys2Proof.Claims.PowerAndHeatThrottleOrFreeze

/-- R223 to R227: decoding the encoding of a well-formed instruction gives it back, with every operand at every value
the encoding admits. R223, R229: each assigned word has one meaning: the instruction a word decodes to encodes to that
word, so that no bit of a word is passed over. -/
def Obligations.DecodeAndEncodeAgree : Prop :=
  Sys2Proof.Claims.DecodeOfEncode ∧
  Sys2Proof.Claims.EncodeOfDecode
end

