-- ==== Sys2Proof/Laws/Memory.lean ====
section
/-!
SUPPORT. The laws of the memory list: a read after a write, and that every operation keeps the canonical form.
-/
namespace Sys2Proof.Machine

open Sys2Proof

/-- A location below every listed one reads as unlisted. -/
theorem Memory.read_lt {k a : Nat} {b : Byte} {t : List Host.Cell} (h : k < a) :
    Memory.read k ((a, b) :: t) = Memory.unlisted k := by
  simp [Memory.read, h, Nat.ne_of_gt h]

/-- In a canonical list the tail is canonical. -/
theorem Memory.wf_tail {c : Host.Cell} {t : List Host.Cell} (h : Memory.wf (c :: t) = true) : Memory.wf t = true := by
  obtain ⟨a, b⟩ := c
  simp only [Memory.wf, Bool.and_eq_true] at h
  exact h.2

/-- In a canonical list every later address is greater. -/
theorem Memory.wf_lt {a : Nat} {b : Byte} : ∀ {t : List Host.Cell}, Memory.wf ((a, b) :: t) = true → ∀ c ∈ t, a < c.1
  | [], _, c, hc => by simp at hc
  | (a', b') :: t, h, c, hc => by
    have h1 : a < a' := by
      simp only [Memory.wf, Bool.and_eq_true, decide_eq_true_eq] at h
      exact h.1.2
    rcases List.mem_cons.1 hc with rfl | hc
    · exact h1
    · exact Nat.lt_trans h1 (Memory.wf_lt (Memory.wf_tail h) c hc)

/-- A list is canonical when its head is listed, below the tail, and the tail is canonical. -/
theorem Memory.wf_cons {a : Nat} {b : Byte} {t : List Host.Cell} (hb : b ≠ Memory.unlisted a)
    (hl : ∀ c ∈ t, a < c.1) (ht : Memory.wf t = true) : Memory.wf ((a, b) :: t) = true := by
  cases t with
  | nil => simp [Memory.wf, hb]
  | cons c t =>
    obtain ⟨a', b'⟩ := c
    have := hl (a', b') (by simp)
    simp only [Memory.wf, Bool.and_eq_true, decide_eq_true_eq] at ht ⊢
    exact ⟨⟨hb, this⟩, ht⟩

/-- The head of a canonical list is not what an unlisted address reads as. -/
theorem Memory.wf_head {a : Nat} {b : Byte} {t : List Host.Cell} (h : Memory.wf ((a, b) :: t) = true) :
    b ≠ Memory.unlisted a := by
  simp only [Memory.wf, Bool.and_eq_true, decide_eq_true_eq] at h
  exact h.1.1

/-- Writing lists no address but the old ones and its own. -/
theorem Memory.mem_write {k : Nat} {x : Byte} : ∀ {m : List Host.Cell} {c : Host.Cell},
    c ∈ Memory.write k x m → c.1 = k ∨ c ∈ m
  | [], c, h => by
    simp only [Memory.write] at h
    split at h
    · simp at h
    · simp only [List.mem_singleton] at h; exact .inl (by rw [h])
  | (a, b) :: t, c, h => by
    simp only [Memory.write] at h
    split at h
    · split at h
      · exact .inr h
      · rcases List.mem_cons.1 h with rfl | h
        · exact .inl rfl
        · exact .inr h
    · split at h
      · split at h
        · exact .inr (List.mem_cons_of_mem _ h)
        · rcases List.mem_cons.1 h with rfl | h
          · exact .inl rfl
          · exact .inr (List.mem_cons_of_mem _ h)
      · rcases List.mem_cons.1 h with rfl | h
        · exact .inr (List.mem_cons_self ..)
        · rcases Memory.mem_write h with h | h
          · exact .inl h
          · exact .inr (List.mem_cons_of_mem _ h)

/-- Writing one byte keeps the canonical form. -/
theorem Memory.wf_write {k : Nat} {x : Byte} : ∀ {m : List Host.Cell}, Memory.wf m = true → Memory.wf (Memory.write k x m) = true
  | [], _ => by
    simp only [Memory.write]
    split
    · rfl
    · next h => exact Memory.wf_cons h (by simp) rfl
  | (a, b) :: t, h => by
    have ht := Memory.wf_tail h
    have hl := Memory.wf_lt h
    simp only [Memory.write]
    split
    · next hk =>
      split
      · exact h
      · next hx =>
        refine Memory.wf_cons hx ?_ h
        intro c hc
        rcases List.mem_cons.1 hc with rfl | hc
        · exact hk
        · exact Nat.lt_trans hk (hl c hc)
    · split
      · next hk =>
        split
        · exact ht
        · next hx => exact Memory.wf_cons hx (fun c hc => hk ▸ hl c hc) ht
      · next hk1 hk2 =>
        refine Memory.wf_cons (Memory.wf_head h) ?_ (Memory.wf_write ht)
        intro c hc
        rcases Memory.mem_write hc with rfl | hc
        · omega
        · exact hl c hc

/-- Writing bytes keeps the canonical form. -/
theorem Memory.wf_writeBytes {m : List Host.Cell} {k : Nat} {bs : List Byte} (h : Memory.wf m = true) :
    Memory.wf (Memory.writeBytes m k bs) = true := by
  induction bs generalizing m k with
  | nil => exact h
  | cons b bs ih => exact ih (Memory.wf_write h)

/-- Leaving out entries keeps the canonical form. -/
theorem Memory.wf_filter {p : Host.Cell → Bool} : ∀ {m : List Host.Cell}, Memory.wf m = true → Memory.wf (m.filter p) = true
  | [], _ => rfl
  | (a, b) :: t, h => by
    have ih := Memory.wf_filter (p := p) (Memory.wf_tail h)
    simp only [List.filter_cons]
    split
    · exact Memory.wf_cons (Memory.wf_head h) (fun c hc => Memory.wf_lt h c (List.mem_filter.1 hc).1) ih
    · exact ih

/-- Clearing a range keeps the canonical form. -/
theorem Memory.wf_clear {m : List Host.Cell} {lo hi : Nat} (h : Memory.wf m = true) :
    Memory.wf (Memory.clear m lo hi) = true := Memory.wf_filter h

/-- A location below every listed address reads as unlisted. -/
theorem Memory.read_below {k : Nat} {m : List Host.Cell} (h : ∀ c ∈ m, k < c.1) :
    Memory.read k m = Memory.unlisted k := by
  cases m with
  | nil => rfl
  | cons c t => exact Memory.read_lt (h c (by simp))

/-- A byte reads back as written. -/
theorem Memory.read_write_same {k : Nat} {x : Byte} : ∀ {m : List Host.Cell}, Memory.wf m = true →
    Memory.read k (Memory.write k x m) = x
  | [], _ => by
    simp only [Memory.write]
    split
    · next h => exact h.symm
    · simp [Memory.read]
  | (a, b) :: t, h => by
    simp only [Memory.write]
    split
    · next hk =>
      split
      · next hx => rw [Memory.read_lt hk]; exact hx.symm
      · simp [Memory.read]
    · split
      · next hk =>
        split
        · next hx =>
          rw [Memory.read_below (fun c hc => hk ▸ Memory.wf_lt h c hc)]
          exact hx.symm
        · simp [Memory.read]
      · next hk1 hk2 =>
        simp only [Memory.read, hk2, hk1, if_false]
        exact Memory.read_write_same (Memory.wf_tail h)

/-- A write of one byte leaves every other byte as it was. -/
theorem Memory.read_write_other {j k : Nat} {x : Byte} (hj : j ≠ k) : ∀ {m : List Host.Cell}, Memory.wf m = true →
    Memory.read j (Memory.write k x m) = Memory.read j m
  | [], _ => by
    simp only [Memory.write]
    split
    · rfl
    · simp only [Memory.read, Ne.symm hj, if_false, ite_self]
  | (a, b) :: t, h => by
    simp only [Memory.write]
    split
    · next hk =>
      split
      · rfl
      · by_cases hjk : j < k
        · rw [Memory.read_lt hjk, Memory.read_lt (Nat.lt_trans hjk hk)]
        · rw [show Memory.read j ((k, x) :: (a, b) :: t) = Memory.read j ((a, b) :: t) by
            simp only [Memory.read, Ne.symm hj, hjk, if_false]]
    · split
      · next hk =>
        subst hk
        have e : Memory.read j ((a, b) :: t) = Memory.read j t := by
          by_cases hja : j < a
          · rw [Memory.read_lt hja, Memory.read_below (fun c hc => Nat.lt_trans hja (Memory.wf_lt h c hc))]
          · simp only [Memory.read, Ne.symm hj, hja, if_false]
        split
        · exact e.symm
        · by_cases hja : j < a
          · rw [Memory.read_lt hja, Memory.read_lt hja]
          · simp only [Memory.read, Ne.symm hj, hja, if_false]
      · simp only [Memory.read]
        split
        · rfl
        · split
          · rfl
          · exact Memory.read_write_other hj (Memory.wf_tail h)

/-- Writing bytes leaves every byte outside them as it was. -/
theorem Memory.read_writeBytes_other {m : List Host.Cell} {j k : Nat} {bs : List Byte} (h : Memory.wf m = true)
    (hj : j < k ∨ k + bs.length ≤ j) : Memory.read j (Memory.writeBytes m k bs) = Memory.read j m := by
  induction bs generalizing m k with
  | nil => rfl
  | cons b bs ih =>
    have hl : (b :: bs).length = bs.length + 1 := rfl
    rw [hl] at hj
    rw [Memory.writeBytes, ih (Memory.wf_write h) (by omega), Memory.read_write_other (by omega) h]

/-- Each byte written reads back. -/
theorem Memory.read_writeBytes_same {m : List Host.Cell} {k i : Nat} {bs : List Byte} (h : Memory.wf m = true)
    (hi : i < bs.length) : Memory.read (k + i) (Memory.writeBytes m k bs) = bs[i] := by
  induction bs generalizing m k i with
  | nil => simp at hi
  | cons b bs ih =>
    rw [Memory.writeBytes]
    cases i with
    | zero =>
      rw [Nat.add_zero, Memory.read_writeBytes_other (Memory.wf_write h) (by omega), Memory.read_write_same h]
      rfl
    | succ i =>
      have hi' : i < bs.length := by simpa using hi
      rw [show k + (i + 1) = k + 1 + i by omega, ih (Memory.wf_write h) hi']
      rfl

/-- As many bytes are read as asked for. -/
@[simp] theorem Memory.length_readBytes {m : List Host.Cell} {k n : Nat} : (Memory.readBytes m k n).length = n := by
  induction n generalizing k with
  | zero => rfl
  | succ n ih => rw [Memory.readBytes, List.length_cons, ih]

/-- The bytes read are those at the locations. -/
theorem Memory.getElem_readBytes {m : List Host.Cell} {k n i : Nat} (h : i < (Memory.readBytes m k n).length) :
    (Memory.readBytes m k n)[i] = Memory.read (k + i) m := by
  induction n generalizing k i with
  | zero => simp at h
  | succ n ih =>
    cases i with
    | zero => rfl
    | succ i =>
      have h' : i < (Memory.readBytes m (k + 1) n).length := by simpa using h
      have := ih h'
      simp only [Memory.readBytes, List.getElem_cons_succ]
      rw [this, show k + 1 + i = k + (i + 1) by omega]

/-- What was written is what is read. -/
theorem Memory.readBytes_writeBytes_same {m : List Host.Cell} {k : Nat} {bs : List Byte} (h : Memory.wf m = true) :
    Memory.readBytes (Memory.writeBytes m k bs) k bs.length = bs := by
  apply List.ext_getElem
  · simp
  · intro i h1 h2
    rw [Memory.getElem_readBytes, Memory.read_writeBytes_same h h2]

/-- A write elsewhere leaves a range of bytes as it was. -/
theorem Memory.readBytes_writeBytes_other {m : List Host.Cell} {j n k : Nat} {bs : List Byte} (h : Memory.wf m = true)
    (hd : j + n ≤ k ∨ k + bs.length ≤ j) :
    Memory.readBytes (Memory.writeBytes m k bs) j n = Memory.readBytes m j n := by
  apply List.ext_getElem
  · simp
  · intro i h1 h2
    have : i < n := by simpa using h1
    rw [Memory.getElem_readBytes, Memory.getElem_readBytes, Memory.read_writeBytes_other h (by omega)]

/-- A write of the state keeps its memory canonical. -/
theorem State.writeMem_wf {s : State} {k : Nat} {bs : List Byte} (h : Memory.wf s.mem = true) :
    Memory.wf (s.writeMem k bs).mem = true := Memory.wf_writeBytes h

/-- Zeroing a range keeps the memory canonical. -/
theorem State.zeroRange_wf {s : State} {lo hi : Nat} (h : Memory.wf s.mem = true) :
    Memory.wf (s.zeroRange lo hi).mem = true := Memory.wf_clear h

/-- The memory at reset is canonical. -/
theorem State.reset_wf : Memory.wf State.reset.mem = true := rfl

end Sys2Proof.Machine
end

