-- ==== Sys2Proof/Laws/Ops.lean ====
section
/-!
SUPPORT. What the shared operations do: the body monad, the frame of an instruction, registers and ports.
-/
namespace Sys2Proof.Machine

open Sys2Proof

/-! ## The body of an instruction -/

@[simp] theorem M.pure_apply {α : Type} (a : α) (s : State) : (pure a : M α) s = .ok (a, s) := rfl
@[simp] theorem M.trap_apply {α : Type} (c : Nat) (v : Word) (s : State) : (trap c v : M α) s = .error (.trap c v) := rfl
@[simp] theorem M.trapWord_apply {α : Type} (c : Nat) (s : State) : (trapWord c : M α) s = .error (.trapWord c) := rfl
@[simp] theorem M.stall_apply {α : Type} (k : WaitKind) (rd : BitVec 5) (s : State) :
    (stall k rd : M α) s = .error (.stall k rd) := rfl
@[simp] theorem M.change_apply (f : State → State) (s : State) : change f s = .ok ((), f s) := rfl
@[simp] theorem M.look_apply (s : State) : look s = .ok (s, s) := rfl
@[simp] theorem M.meM_apply (s : State) : meM s = .ok (s.me, s) := rfl
@[simp] theorem M.changeMe_apply (f : Core → Core) (s : State) : changeMe f s = .ok ((), s.updMe f) := rfl

/-- A sequence whose first part goes on. -/
theorem M.bind_ok {α β : Type} {x : M α} {f : α → M β} {s t : State} {a : α} (h : x s = .ok (a, t)) :
    (x >>= f) s = f a t := by
  change (StateT.bind x f) s = _
  simp only [StateT.bind, h]
  rfl

/-- A sequence whose first part stops. -/
theorem M.bind_error {α β : Type} {x : M α} {f : α → M β} {s : State} {e : Stop} (h : x s = .error e) :
    (x >>= f) s = .error e := by
  change (StateT.bind x f) s = _
  simp only [StateT.bind, h]
  rfl

/-- A sequence goes on exactly when both parts do. -/
theorem M.bind_ok_iff {α β : Type} {x : M α} {f : α → M β} {s t : State} {b : β} :
    (x >>= f) s = .ok (b, t) ↔ ∃ a u, x s = .ok (a, u) ∧ f a u = .ok (b, t) := by
  refine ⟨fun h => ?_, fun ⟨_, _, hx, hf⟩ => (M.bind_ok hx).trans hf⟩
  match hx : x s with
  | .ok (a, u) => exact ⟨a, u, rfl, (M.bind_ok hx).symm.trans h⟩
  | .error _ => exact nomatch (M.bind_error hx).symm.trans h

@[simp] theorem M.bind_pure_apply {α β : Type} (a : α) (f : α → M β) : (pure a >>= f) = f a := rfl
@[simp] theorem M.bind_change {β : Type} (g : State → State) (f : Unit → M β) (s : State) : (change g >>= f) s = f () (g s) := rfl
@[simp] theorem M.bind_changeMe {β : Type} (g : Core → Core) (f : Unit → M β) (s : State) :
    (changeMe g >>= f) s = f () (s.updMe g) := rfl
@[simp] theorem M.bind_look {β : Type} (f : State → M β) (s : State) : (look >>= f) s = f s s := rfl
@[simp] theorem M.bind_meM {β : Type} (f : Core → M β) (s : State) : (meM >>= f) s = f s.me s := rfl

/-! ## The frame of an instruction -/

/-- A well-formed instruction whose body goes on completes with what follows the body. -/
theorem run_ok {α : Type} {i : Instr} {body : M α} {fin : α → State → State} {s t : State} {a : α}
    (hi : i.wellFormed = true) (h : body s = .ok (a, t)) : run i body fin s = .next (fin a t) := by
  simp only [run, hi, h, if_true]

/-- A well-formed instruction whose body traps takes that trap, and nothing of the body has happened. -/
theorem run_trap {α : Type} {i : Instr} {body : M α} {fin : α → State → State} {s : State} {c : Nat} {v : Word}
    (hi : i.wellFormed = true) (h : body s = .error (.trap c v)) : run i body fin s = .next (s.takeTrap c v) := by
  simp only [run, hi, h, if_true]

/-- The same for a trap whose value is the instruction word. -/
theorem run_trapWord {α : Type} {i : Instr} {body : M α} {fin : α → State → State} {s : State} {c : Nat}
    (hi : i.wellFormed = true) (h : body s = .error (.trapWord c)) : run i body fin s = .next (s.takeTrap c (wordOf i)) := by
  simp only [run, hi, h, if_true]

/-- A well-formed instruction whose body waits parks the core, and nothing of the body has happened. -/
theorem run_stall {α : Type} {i : Instr} {body : M α} {fin : α → State → State} {s : State} {k : WaitKind} {rd : BitVec 5}
    (hi : i.wellFormed = true) (h : body s = .error (.stall k rd)) : run i body fin s = .next (s.park k rd) := by
  simp only [run, hi, h, if_true]

/-- An ill-formed instruction takes cause 0 with its word. -/
theorem run_illegal {α : Type} {i : Instr} {body : M α} {fin : α → State → State} {s : State}
    (hi : i.wellFormed = false) : run i body fin s = .next (s.takeTrap 0 (wordOf i)) := by
  simp [run, hi]

/-- All that an instruction can do: complete, trap or wait. -/
theorem run_cases {α : Type} {i : Instr} {body : M α} {fin : α → State → State} {s t : State}
    (h : run i body fin s = .next t) :
    (i.wellFormed = true ∧ ∃ a u, body s = .ok (a, u) ∧ t = fin a u) ∨ (∃ c v, t = s.takeTrap c v) ∨ (∃ k rd, t = s.park k rd) := by
  unfold run at h
  split at h
  · split at h
    · next a u hb => exact .inl ⟨by assumption, a, u, hb, by simpa using h.symm⟩
    · exact .inr (.inl ⟨_, _, by simpa using h.symm⟩)
    · exact .inr (.inl ⟨_, _, by simpa using h.symm⟩)
    · exact .inr (.inr ⟨_, _, by simpa using h.symm⟩)
  · exact .inr (.inl ⟨_, _, by simpa using h.symm⟩)

/-- An instruction always answers a next state. -/
theorem run_next {α : Type} (i : Instr) (body : M α) (fin : α → State → State) (s : State) : ∃ t, run i body fin s = .next t := by
  unfold run
  split
  · split <;> exact ⟨_, rfl⟩
  · exact ⟨_, rfl⟩

/-- An instruction that goes on at pc + 4. -/
theorem runI_ok {i : Instr} {body : M Unit} {s t : State} (hi : i.wellFormed = true) (h : body s = .ok ((), t)) :
    runI i body s = .next t.retire := run_ok hi h

/-- An instruction whose body gives the next pc. -/
theorem runJ_ok {i : Instr} {body : M Word} {s t : State} {w : Word} (hi : i.wellFormed = true) (h : body s = .ok (w, t)) :
    runJ i body s = .next (t.retireTo w) := run_ok hi h

/-! ## Registers -/

/-- A register in its ordinary form is no port. -/
theorem Core.plainReg_port {c : Core} {r : BitVec 5} (h : c.plainReg r = true) : c.isPort r.toNat = false := by
  simp only [Core.plainReg, Bool.and_eq_true, Bool.not_eq_true'] at h; exact h.1

/-- A register in its ordinary form is not pending. -/
theorem Core.plainReg_pending {c : Core} {r : BitVec 5} (h : c.plainReg r = true) : c.pendingRegs.contains (c.bankReg r.toNat) = false := by
  simp only [Core.plainReg, Bool.and_eq_true, Bool.not_eq_true'] at h; exact h.2

/-- The check of a register that is not pending passes. -/
theorem pendingCheck_ok {s : State} {n : Nat} (h : s.me.pendingRegs.contains (s.me.bankReg n) = false) : pendingCheck n s = .ok ((), s) := by
  simp only [pendingCheck, M.bind_meM, h]
  rfl

/-- Reading an ordinary register gives its value and changes nothing. -/
theorem readReg_plain {s : State} {r : BitVec 5} (h : s.me.plainReg r = true) : readReg r s = .ok (s.gr r, s) := by
  simp only [readReg, M.bind_meM, Core.plainReg_port h]
  exact M.bind_ok (pendingCheck_ok (Core.plainReg_pending h))

/-- Writing an ordinary register writes it and changes nothing else. -/
theorem writeReg_plain {s : State} {r : BitVec 5} {w : Word} (h : s.me.plainReg r = true) :
    writeReg r w s = .ok ((), s.updMe (fun c => c.withG r w)) := by
  simp only [writeReg, M.bind_meM, Core.plainReg_port h]
  exact M.bind_ok (pendingCheck_ok (Core.plainReg_pending h))

/-- g0 reads zero. -/
@[simp] theorem Core.gpr_zero (c : Core) : c.gpr 0 = 0 := rfl

/-- A write to g0 is discarded. -/
@[simp] theorem Core.setGpr_zero (c : Core) (w : Word) : c.setGpr 0 w = c := rfl

/-- A register other than g0 reads as written. -/
theorem Core.gpr_setGpr_same {c : Core} {n : Nat} {w : Word} (h0 : n ≠ 0) (h : n < 32) : (c.setGpr n w).gpr n = w := by
  simp [Core.gpr, Core.setGpr, h0, h]

/-- A write leaves every other register as it was. -/
theorem Core.gpr_setGpr_other {c : Core} {m n : Nat} {w : Word} (h : m ≠ n) : (c.setGpr n w).gpr m = c.gpr m := by
  by_cases hn : n = 0
  · simp [Core.setGpr, hn]
  · by_cases hm : m = 0
    · simp [Core.gpr, hm]
    · simp only [Core.gpr, Core.setGpr, hn, hm, if_false]
      rw [Vector.getElem?_setIfInBounds]
      simp [Ne.symm h]

/-- Predicate p0 reads all ones. -/
@[simp] theorem Core.pr_zero (c : Core) : c.pr 0 = 0xFFFFFFFFFFFFFFFF := rfl

/-- A write to p0 is discarded. -/
@[simp] theorem Core.setPr_zero (c : Core) (x : Word) : c.setPr 0 x = c := rfl

/-! ## Sorting -/

/-- Putting an element into a list keeps the elements. -/
theorem insertBy_perm {α : Type} (le : α → α → Bool) (a : α) (l : List α) : (insertBy le a l).Perm (a :: l) := by
  have h := List.takeWhile_append_dropWhile (p := fun b => !le a b) (l := l)
  exact List.perm_middle.trans (by rw [h])

/-- Sorting keeps the elements. -/
theorem sortBy_perm {α : Type} (le : α → α → Bool) : ∀ l : List α, (sortBy le l).Perm l
  | [] => .nil
  | a :: l => (insertBy_perm le a (sortBy le l)).trans ((sortBy_perm le l).cons a)

/-- Putting an element into a sorted list leaves it sorted. -/
theorem insertBy_pairwise {α : Type} {le : α → α → Bool} (total : ∀ a b, le a b = false → le b a = true)
    (trans : ∀ a b c, le a b = true → le b c = true → le a c = true) (a : α) {l : List α} (h : l.Pairwise (fun x y => le x y = true)) :
    (insertBy le a l).Pairwise (fun x y => le x y = true) := by
  have hs := List.takeWhile_append_dropWhile (p := fun b => !le a b) (l := l)
  rw [← hs, List.pairwise_append] at h
  obtain ⟨front, back, cross⟩ := h
  have before : ∀ x ∈ l.takeWhile (fun b => !le a b), le x a = true := fun x hx =>
    total _ _ (by simpa using List.mem_takeWhile_imp hx)
  have after : ∀ y ∈ l.dropWhile (fun b => !le a b), le a y = true := by
    intro y hy
    cases hd : l.dropWhile (fun b => !le a b) with
    | nil => simp [hd] at hy
    | cons z zs =>
      have hz : le a z = true := by simpa [hd] using List.dropWhile_get_zero_not (fun b => !le a b) l (by simp [hd])
      rw [hd] at hy back
      rcases List.mem_cons.mp hy with rfl | hy
      · exact hz
      · exact trans _ _ _ hz (List.rel_of_pairwise_cons back hy)
  refine List.pairwise_append.mpr ⟨front, List.pairwise_cons.mpr ⟨after, back⟩, fun x hx y hy => ?_⟩
  rcases List.mem_cons.mp hy with rfl | hy
  · exact before x hx
  · exact cross x hx y hy

/-- Sorting leaves a list sorted. -/
theorem sortBy_pairwise {α : Type} {le : α → α → Bool} (total : ∀ a b, le a b = false → le b a = true)
    (trans : ∀ a b c, le a b = true → le b c = true → le a c = true) : ∀ l : List α, (sortBy le l).Pairwise (fun x y => le x y = true)
  | [] => .nil
  | a :: l => insertBy_pairwise total trans a (sortBy_pairwise total trans l)

end Sys2Proof.Machine
end

