-- ==== Sys2Proof/Laws/State.lean ====
section
/-!
SUPPORT. What each update of the state and of a core leaves: one lemma for each field.
-/
namespace Sys2Proof.Machine

open Sys2Proof

/-! ## A change of the current core -/

@[simp] theorem State.updMe_me (s : State) (f : Core → Core) : (s.updMe f).me = f s.me := rfl
@[simp] theorem State.updMe_others (s : State) (f : Core → Core) : (s.updMe f).others = s.others := rfl
@[simp] theorem State.updMe_mem (s : State) (f : Core → Core) : (s.updMe f).mem = s.mem := rfl
@[simp] theorem State.updMe_cycle (s : State) (f : Core → Core) : (s.updMe f).cycle = s.cycle := rfl
@[simp] theorem State.updMe_agenda (s : State) (f : Core → Core) : (s.updMe f).agenda = s.agenda := rfl
@[simp] theorem State.updMe_engineTurn (s : State) (f : Core → Core) : (s.updMe f).engineTurn = s.engineTurn := rfl
@[simp] theorem State.updMe_fresh (s : State) (f : Core → Core) : (s.updMe f).fresh = s.fresh := rfl
@[simp] theorem State.updMe_stamp (s : State) (f : Core → Core) : (s.updMe f).stamp = s.stamp := rfl
@[simp] theorem State.updMe_frozen (s : State) (f : Core → Core) : (s.updMe f).frozen = s.frozen := rfl
@[simp] theorem State.updMe_boot (s : State) (f : Core → Core) : (s.updMe f).boot = s.boot := rfl
@[simp] theorem State.updMe_power (s : State) (f : Core → Core) : (s.updMe f).power = s.power := rfl
@[simp] theorem State.updMe_harvest (s : State) (f : Core → Core) : (s.updMe f).harvest = s.harvest := rfl
@[simp] theorem State.updMe_debugEnable (s : State) (f : Core → Core) : (s.updMe f).debugEnable = s.debugEnable := rfl
@[simp] theorem State.updMe_pkgId (s : State) (f : Core → Core) : (s.updMe f).pkgId = s.pkgId := rfl
@[simp] theorem State.updMe_routes (s : State) (f : Core → Core) : (s.updMe f).routes = s.routes := rfl
@[simp] theorem State.updMe_cables (s : State) (f : Core → Core) : (s.updMe f).cables = s.cables := rfl
@[simp] theorem State.updMe_eccBad (s : State) (f : Core → Core) : (s.updMe f).eccBad = s.eccBad := rfl
@[simp] theorem State.updMe_parts (s : State) (f : Core → Core) : (s.updMe f).parts = s.parts := rfl
@[simp] theorem State.updMe_contexts (s : State) (f : Core → Core) : (s.updMe f).contexts = s.contexts := rfl
@[simp] theorem State.updMe_tags (s : State) (f : Core → Core) : (s.updMe f).tags = s.tags := rfl
@[simp] theorem State.updMe_pageOwner (s : State) (f : Core → Core) : (s.updMe f).pageOwner = s.pageOwner := rfl
@[simp] theorem State.updMe_frames (s : State) (f : Core → Core) : (s.updMe f).frames = s.frames := rfl
@[simp] theorem State.updMe_banks (s : State) (f : Core → Core) : (s.updMe f).banks = s.banks := rfl
@[simp] theorem State.updMe_ranges (s : State) (f : Core → Core) : (s.updMe f).ranges = s.ranges := rfl
@[simp] theorem State.updMe_channels (s : State) (f : Core → Core) : (s.updMe f).channels = s.channels := rfl
@[simp] theorem State.updMe_waiters (s : State) (f : Core → Core) : (s.updMe f).waiters = s.waiters := rfl
@[simp] theorem State.updMe_l2tlb (s : State) (f : Core → Core) : (s.updMe f).l2tlb = s.l2tlb := rfl
@[simp] theorem State.updMe_arbiter (s : State) (f : Core → Core) : (s.updMe f).arbiter = s.arbiter := rfl
@[simp] theorem State.updMe_coll (s : State) (f : Core → Core) : (s.updMe f).coll = s.coll := rfl
@[simp] theorem State.updMe_ports (s : State) (f : Core → Core) : (s.updMe f).ports = s.ports := rfl
@[simp] theorem State.updMe_outbox (s : State) (f : Core → Core) : (s.updMe f).outbox = s.outbox := rfl
@[simp] theorem State.updMe_departed (s : State) (f : Core → Core) : (s.updMe f).departed = s.departed := rfl
@[simp] theorem State.updMe_linkQueue (s : State) (f : Core → Core) : (s.updMe f).linkQueue = s.linkQueue := rfl
@[simp] theorem State.updMe_pairs (s : State) (f : Core → Core) : (s.updMe f).pairs = s.pairs := rfl
@[simp] theorem State.updMe_inFlits (s : State) (f : Core → Core) : (s.updMe f).inFlits = s.inFlits := rfl
@[simp] theorem State.updMe_inbox (s : State) (f : Core → Core) : (s.updMe f).inbox = s.inbox := rfl

/-! ## Completing and going on at pc + 4 -/

@[simp] theorem State.retire_me (s : State) : (s.retire).me = { s.me.count with pc := s.me.pc + 4, wait := none } := rfl
@[simp] theorem State.retire_others (s : State) : (s.retire).others = s.others := rfl
@[simp] theorem State.retire_mem (s : State) : (s.retire).mem = s.mem := rfl
@[simp] theorem State.retire_cycle (s : State) : (s.retire).cycle = s.cycle := rfl
@[simp] theorem State.retire_agenda (s : State) : (s.retire).agenda = s.agenda := rfl
@[simp] theorem State.retire_engineTurn (s : State) : (s.retire).engineTurn = s.engineTurn := rfl
@[simp] theorem State.retire_fresh (s : State) : (s.retire).fresh = s.fresh := rfl
@[simp] theorem State.retire_stamp (s : State) : (s.retire).stamp = s.stamp := rfl
@[simp] theorem State.retire_frozen (s : State) : (s.retire).frozen = s.frozen := rfl
@[simp] theorem State.retire_boot (s : State) : (s.retire).boot = s.boot := rfl
@[simp] theorem State.retire_power (s : State) : (s.retire).power = s.power := rfl
@[simp] theorem State.retire_harvest (s : State) : (s.retire).harvest = s.harvest := rfl
@[simp] theorem State.retire_debugEnable (s : State) : (s.retire).debugEnable = s.debugEnable := rfl
@[simp] theorem State.retire_pkgId (s : State) : (s.retire).pkgId = s.pkgId := rfl
@[simp] theorem State.retire_routes (s : State) : (s.retire).routes = s.routes := rfl
@[simp] theorem State.retire_cables (s : State) : (s.retire).cables = s.cables := rfl
@[simp] theorem State.retire_eccBad (s : State) : (s.retire).eccBad = s.eccBad := rfl
@[simp] theorem State.retire_parts (s : State) : (s.retire).parts = s.parts := rfl
@[simp] theorem State.retire_contexts (s : State) : (s.retire).contexts = s.contexts := rfl
@[simp] theorem State.retire_tags (s : State) : (s.retire).tags = s.tags := rfl
@[simp] theorem State.retire_pageOwner (s : State) : (s.retire).pageOwner = s.pageOwner := rfl
@[simp] theorem State.retire_frames (s : State) : (s.retire).frames = s.frames := rfl
@[simp] theorem State.retire_banks (s : State) : (s.retire).banks = s.banks := rfl
@[simp] theorem State.retire_ranges (s : State) : (s.retire).ranges = s.ranges := rfl
@[simp] theorem State.retire_channels (s : State) : (s.retire).channels = s.channels := rfl
@[simp] theorem State.retire_waiters (s : State) : (s.retire).waiters = s.waiters := rfl
@[simp] theorem State.retire_l2tlb (s : State) : (s.retire).l2tlb = s.l2tlb := rfl
@[simp] theorem State.retire_arbiter (s : State) : (s.retire).arbiter = s.arbiter := rfl
@[simp] theorem State.retire_coll (s : State) : (s.retire).coll = s.coll := rfl
@[simp] theorem State.retire_ports (s : State) : (s.retire).ports = s.ports := rfl
@[simp] theorem State.retire_outbox (s : State) : (s.retire).outbox = s.outbox := rfl
@[simp] theorem State.retire_departed (s : State) : (s.retire).departed = s.departed := rfl
@[simp] theorem State.retire_linkQueue (s : State) : (s.retire).linkQueue = s.linkQueue := rfl
@[simp] theorem State.retire_pairs (s : State) : (s.retire).pairs = s.pairs := rfl
@[simp] theorem State.retire_inFlits (s : State) : (s.retire).inFlits = s.inFlits := rfl
@[simp] theorem State.retire_inbox (s : State) : (s.retire).inbox = s.inbox := rfl

/-! ## Completing and going on at a target -/

@[simp] theorem State.retireTo_me (s : State) (w : Word) : (s.retireTo w).me = { s.me.count with pc := s.me.lead.getD w, wait := none } := rfl
@[simp] theorem State.retireTo_others (s : State) (w : Word) : (s.retireTo w).others = s.others := rfl
@[simp] theorem State.retireTo_mem (s : State) (w : Word) : (s.retireTo w).mem = s.mem := rfl
@[simp] theorem State.retireTo_cycle (s : State) (w : Word) : (s.retireTo w).cycle = s.cycle := rfl
@[simp] theorem State.retireTo_agenda (s : State) (w : Word) : (s.retireTo w).agenda = s.agenda := rfl
@[simp] theorem State.retireTo_engineTurn (s : State) (w : Word) : (s.retireTo w).engineTurn = s.engineTurn := rfl
@[simp] theorem State.retireTo_fresh (s : State) (w : Word) : (s.retireTo w).fresh = s.fresh := rfl
@[simp] theorem State.retireTo_stamp (s : State) (w : Word) : (s.retireTo w).stamp = s.stamp := rfl
@[simp] theorem State.retireTo_frozen (s : State) (w : Word) : (s.retireTo w).frozen = s.frozen := rfl
@[simp] theorem State.retireTo_boot (s : State) (w : Word) : (s.retireTo w).boot = s.boot := rfl
@[simp] theorem State.retireTo_power (s : State) (w : Word) : (s.retireTo w).power = s.power := rfl
@[simp] theorem State.retireTo_harvest (s : State) (w : Word) : (s.retireTo w).harvest = s.harvest := rfl
@[simp] theorem State.retireTo_debugEnable (s : State) (w : Word) : (s.retireTo w).debugEnable = s.debugEnable := rfl
@[simp] theorem State.retireTo_pkgId (s : State) (w : Word) : (s.retireTo w).pkgId = s.pkgId := rfl
@[simp] theorem State.retireTo_routes (s : State) (w : Word) : (s.retireTo w).routes = s.routes := rfl
@[simp] theorem State.retireTo_cables (s : State) (w : Word) : (s.retireTo w).cables = s.cables := rfl
@[simp] theorem State.retireTo_eccBad (s : State) (w : Word) : (s.retireTo w).eccBad = s.eccBad := rfl
@[simp] theorem State.retireTo_parts (s : State) (w : Word) : (s.retireTo w).parts = s.parts := rfl
@[simp] theorem State.retireTo_contexts (s : State) (w : Word) : (s.retireTo w).contexts = s.contexts := rfl
@[simp] theorem State.retireTo_tags (s : State) (w : Word) : (s.retireTo w).tags = s.tags := rfl
@[simp] theorem State.retireTo_pageOwner (s : State) (w : Word) : (s.retireTo w).pageOwner = s.pageOwner := rfl
@[simp] theorem State.retireTo_frames (s : State) (w : Word) : (s.retireTo w).frames = s.frames := rfl
@[simp] theorem State.retireTo_banks (s : State) (w : Word) : (s.retireTo w).banks = s.banks := rfl
@[simp] theorem State.retireTo_ranges (s : State) (w : Word) : (s.retireTo w).ranges = s.ranges := rfl
@[simp] theorem State.retireTo_channels (s : State) (w : Word) : (s.retireTo w).channels = s.channels := rfl
@[simp] theorem State.retireTo_waiters (s : State) (w : Word) : (s.retireTo w).waiters = s.waiters := rfl
@[simp] theorem State.retireTo_l2tlb (s : State) (w : Word) : (s.retireTo w).l2tlb = s.l2tlb := rfl
@[simp] theorem State.retireTo_arbiter (s : State) (w : Word) : (s.retireTo w).arbiter = s.arbiter := rfl
@[simp] theorem State.retireTo_coll (s : State) (w : Word) : (s.retireTo w).coll = s.coll := rfl
@[simp] theorem State.retireTo_ports (s : State) (w : Word) : (s.retireTo w).ports = s.ports := rfl
@[simp] theorem State.retireTo_outbox (s : State) (w : Word) : (s.retireTo w).outbox = s.outbox := rfl
@[simp] theorem State.retireTo_departed (s : State) (w : Word) : (s.retireTo w).departed = s.departed := rfl
@[simp] theorem State.retireTo_linkQueue (s : State) (w : Word) : (s.retireTo w).linkQueue = s.linkQueue := rfl
@[simp] theorem State.retireTo_pairs (s : State) (w : Word) : (s.retireTo w).pairs = s.pairs := rfl
@[simp] theorem State.retireTo_inFlits (s : State) (w : Word) : (s.retireTo w).inFlits = s.inFlits := rfl
@[simp] theorem State.retireTo_inbox (s : State) (w : Word) : (s.retireTo w).inbox = s.inbox := rfl

/-! ## Drawing a free value -/

@[simp] theorem State.draw_me (s : State) : (s.draw).me = s.me := rfl
@[simp] theorem State.draw_others (s : State) : (s.draw).others = s.others := rfl
@[simp] theorem State.draw_mem (s : State) : (s.draw).mem = s.mem := rfl
@[simp] theorem State.draw_cycle (s : State) : (s.draw).cycle = s.cycle := rfl
@[simp] theorem State.draw_agenda (s : State) : (s.draw).agenda = s.agenda := rfl
@[simp] theorem State.draw_engineTurn (s : State) : (s.draw).engineTurn = s.engineTurn := rfl
@[simp] theorem State.draw_fresh (s : State) : (s.draw).fresh = s.fresh + 1 := rfl
@[simp] theorem State.draw_stamp (s : State) : (s.draw).stamp = s.stamp := rfl
@[simp] theorem State.draw_frozen (s : State) : (s.draw).frozen = s.frozen := rfl
@[simp] theorem State.draw_boot (s : State) : (s.draw).boot = s.boot := rfl
@[simp] theorem State.draw_power (s : State) : (s.draw).power = s.power := rfl
@[simp] theorem State.draw_harvest (s : State) : (s.draw).harvest = s.harvest := rfl
@[simp] theorem State.draw_debugEnable (s : State) : (s.draw).debugEnable = s.debugEnable := rfl
@[simp] theorem State.draw_pkgId (s : State) : (s.draw).pkgId = s.pkgId := rfl
@[simp] theorem State.draw_routes (s : State) : (s.draw).routes = s.routes := rfl
@[simp] theorem State.draw_cables (s : State) : (s.draw).cables = s.cables := rfl
@[simp] theorem State.draw_eccBad (s : State) : (s.draw).eccBad = s.eccBad := rfl
@[simp] theorem State.draw_parts (s : State) : (s.draw).parts = s.parts := rfl
@[simp] theorem State.draw_contexts (s : State) : (s.draw).contexts = s.contexts := rfl
@[simp] theorem State.draw_tags (s : State) : (s.draw).tags = s.tags := rfl
@[simp] theorem State.draw_pageOwner (s : State) : (s.draw).pageOwner = s.pageOwner := rfl
@[simp] theorem State.draw_frames (s : State) : (s.draw).frames = s.frames := rfl
@[simp] theorem State.draw_banks (s : State) : (s.draw).banks = s.banks := rfl
@[simp] theorem State.draw_ranges (s : State) : (s.draw).ranges = s.ranges := rfl
@[simp] theorem State.draw_channels (s : State) : (s.draw).channels = s.channels := rfl
@[simp] theorem State.draw_waiters (s : State) : (s.draw).waiters = s.waiters := rfl
@[simp] theorem State.draw_l2tlb (s : State) : (s.draw).l2tlb = s.l2tlb := rfl
@[simp] theorem State.draw_arbiter (s : State) : (s.draw).arbiter = s.arbiter := rfl
@[simp] theorem State.draw_coll (s : State) : (s.draw).coll = s.coll := rfl
@[simp] theorem State.draw_ports (s : State) : (s.draw).ports = s.ports := rfl
@[simp] theorem State.draw_outbox (s : State) : (s.draw).outbox = s.outbox := rfl
@[simp] theorem State.draw_departed (s : State) : (s.draw).departed = s.departed := rfl
@[simp] theorem State.draw_linkQueue (s : State) : (s.draw).linkQueue = s.linkQueue := rfl
@[simp] theorem State.draw_pairs (s : State) : (s.draw).pairs = s.pairs := rfl
@[simp] theorem State.draw_inFlits (s : State) : (s.draw).inFlits = s.inFlits := rfl
@[simp] theorem State.draw_inbox (s : State) : (s.draw).inbox = s.inbox := rfl

/-! ## A write of memory -/

@[simp] theorem State.writeMem_me (s : State) (k : Nat) (bs : List Byte) : (s.writeMem k bs).me = s.me := rfl
@[simp] theorem State.writeMem_others (s : State) (k : Nat) (bs : List Byte) : (s.writeMem k bs).others = s.others := rfl
@[simp] theorem State.writeMem_mem (s : State) (k : Nat) (bs : List Byte) : (s.writeMem k bs).mem = Memory.writeBytes s.mem k bs := rfl
@[simp] theorem State.writeMem_cycle (s : State) (k : Nat) (bs : List Byte) : (s.writeMem k bs).cycle = s.cycle := rfl
@[simp] theorem State.writeMem_agenda (s : State) (k : Nat) (bs : List Byte) : (s.writeMem k bs).agenda = s.agenda := rfl
@[simp] theorem State.writeMem_engineTurn (s : State) (k : Nat) (bs : List Byte) : (s.writeMem k bs).engineTurn = s.engineTurn := rfl
@[simp] theorem State.writeMem_fresh (s : State) (k : Nat) (bs : List Byte) : (s.writeMem k bs).fresh = s.fresh := rfl
@[simp] theorem State.writeMem_stamp (s : State) (k : Nat) (bs : List Byte) : (s.writeMem k bs).stamp = s.stamp := rfl
@[simp] theorem State.writeMem_frozen (s : State) (k : Nat) (bs : List Byte) : (s.writeMem k bs).frozen = s.frozen := rfl
@[simp] theorem State.writeMem_boot (s : State) (k : Nat) (bs : List Byte) : (s.writeMem k bs).boot = s.boot := rfl
@[simp] theorem State.writeMem_power (s : State) (k : Nat) (bs : List Byte) : (s.writeMem k bs).power = s.power := rfl
@[simp] theorem State.writeMem_harvest (s : State) (k : Nat) (bs : List Byte) : (s.writeMem k bs).harvest = s.harvest := rfl
@[simp] theorem State.writeMem_debugEnable (s : State) (k : Nat) (bs : List Byte) : (s.writeMem k bs).debugEnable = s.debugEnable := rfl
@[simp] theorem State.writeMem_pkgId (s : State) (k : Nat) (bs : List Byte) : (s.writeMem k bs).pkgId = s.pkgId := rfl
@[simp] theorem State.writeMem_routes (s : State) (k : Nat) (bs : List Byte) : (s.writeMem k bs).routes = s.routes := rfl
@[simp] theorem State.writeMem_cables (s : State) (k : Nat) (bs : List Byte) : (s.writeMem k bs).cables = s.cables := rfl
@[simp] theorem State.writeMem_parts (s : State) (k : Nat) (bs : List Byte) : (s.writeMem k bs).parts = s.parts := rfl
@[simp] theorem State.writeMem_contexts (s : State) (k : Nat) (bs : List Byte) : (s.writeMem k bs).contexts = s.contexts := rfl
@[simp] theorem State.writeMem_tags (s : State) (k : Nat) (bs : List Byte) : (s.writeMem k bs).tags = s.tags := rfl
@[simp] theorem State.writeMem_pageOwner (s : State) (k : Nat) (bs : List Byte) : (s.writeMem k bs).pageOwner = s.pageOwner := rfl
@[simp] theorem State.writeMem_frames (s : State) (k : Nat) (bs : List Byte) : (s.writeMem k bs).frames = s.frames := rfl
@[simp] theorem State.writeMem_banks (s : State) (k : Nat) (bs : List Byte) : (s.writeMem k bs).banks = s.banks := rfl
@[simp] theorem State.writeMem_ranges (s : State) (k : Nat) (bs : List Byte) : (s.writeMem k bs).ranges = s.ranges := rfl
@[simp] theorem State.writeMem_channels (s : State) (k : Nat) (bs : List Byte) : (s.writeMem k bs).channels = s.channels := rfl
@[simp] theorem State.writeMem_l2tlb (s : State) (k : Nat) (bs : List Byte) : (s.writeMem k bs).l2tlb = s.l2tlb := rfl
@[simp] theorem State.writeMem_arbiter (s : State) (k : Nat) (bs : List Byte) : (s.writeMem k bs).arbiter = s.arbiter := rfl
@[simp] theorem State.writeMem_coll (s : State) (k : Nat) (bs : List Byte) : (s.writeMem k bs).coll = s.coll := rfl
@[simp] theorem State.writeMem_ports (s : State) (k : Nat) (bs : List Byte) : (s.writeMem k bs).ports = s.ports := rfl
@[simp] theorem State.writeMem_outbox (s : State) (k : Nat) (bs : List Byte) : (s.writeMem k bs).outbox = s.outbox := rfl
@[simp] theorem State.writeMem_departed (s : State) (k : Nat) (bs : List Byte) : (s.writeMem k bs).departed = s.departed := rfl
@[simp] theorem State.writeMem_linkQueue (s : State) (k : Nat) (bs : List Byte) : (s.writeMem k bs).linkQueue = s.linkQueue := rfl
@[simp] theorem State.writeMem_pairs (s : State) (k : Nat) (bs : List Byte) : (s.writeMem k bs).pairs = s.pairs := rfl
@[simp] theorem State.writeMem_inFlits (s : State) (k : Nat) (bs : List Byte) : (s.writeMem k bs).inFlits = s.inFlits := rfl
@[simp] theorem State.writeMem_inbox (s : State) (k : Nat) (bs : List Byte) : (s.writeMem k bs).inbox = s.inbox := rfl

/-! ## Zeroing a range -/

@[simp] theorem State.zeroRange_me (s : State) (lo hi : Nat) : (s.zeroRange lo hi).me = s.me := rfl
@[simp] theorem State.zeroRange_others (s : State) (lo hi : Nat) : (s.zeroRange lo hi).others = s.others := rfl
@[simp] theorem State.zeroRange_mem (s : State) (lo hi : Nat) : (s.zeroRange lo hi).mem = Memory.clear s.mem lo hi := rfl
@[simp] theorem State.zeroRange_cycle (s : State) (lo hi : Nat) : (s.zeroRange lo hi).cycle = s.cycle := rfl
@[simp] theorem State.zeroRange_agenda (s : State) (lo hi : Nat) : (s.zeroRange lo hi).agenda = s.agenda := rfl
@[simp] theorem State.zeroRange_engineTurn (s : State) (lo hi : Nat) : (s.zeroRange lo hi).engineTurn = s.engineTurn := rfl
@[simp] theorem State.zeroRange_fresh (s : State) (lo hi : Nat) : (s.zeroRange lo hi).fresh = s.fresh := rfl
@[simp] theorem State.zeroRange_stamp (s : State) (lo hi : Nat) : (s.zeroRange lo hi).stamp = s.stamp := rfl
@[simp] theorem State.zeroRange_frozen (s : State) (lo hi : Nat) : (s.zeroRange lo hi).frozen = s.frozen := rfl
@[simp] theorem State.zeroRange_boot (s : State) (lo hi : Nat) : (s.zeroRange lo hi).boot = s.boot := rfl
@[simp] theorem State.zeroRange_power (s : State) (lo hi : Nat) : (s.zeroRange lo hi).power = s.power := rfl
@[simp] theorem State.zeroRange_harvest (s : State) (lo hi : Nat) : (s.zeroRange lo hi).harvest = s.harvest := rfl
@[simp] theorem State.zeroRange_debugEnable (s : State) (lo hi : Nat) : (s.zeroRange lo hi).debugEnable = s.debugEnable := rfl
@[simp] theorem State.zeroRange_pkgId (s : State) (lo hi : Nat) : (s.zeroRange lo hi).pkgId = s.pkgId := rfl
@[simp] theorem State.zeroRange_routes (s : State) (lo hi : Nat) : (s.zeroRange lo hi).routes = s.routes := rfl
@[simp] theorem State.zeroRange_cables (s : State) (lo hi : Nat) : (s.zeroRange lo hi).cables = s.cables := rfl
@[simp] theorem State.zeroRange_parts (s : State) (lo hi : Nat) : (s.zeroRange lo hi).parts = s.parts := rfl
@[simp] theorem State.zeroRange_contexts (s : State) (lo hi : Nat) : (s.zeroRange lo hi).contexts = s.contexts := rfl
@[simp] theorem State.zeroRange_tags (s : State) (lo hi : Nat) : (s.zeroRange lo hi).tags = s.tags := rfl
@[simp] theorem State.zeroRange_pageOwner (s : State) (lo hi : Nat) : (s.zeroRange lo hi).pageOwner = s.pageOwner := rfl
@[simp] theorem State.zeroRange_frames (s : State) (lo hi : Nat) : (s.zeroRange lo hi).frames = s.frames := rfl
@[simp] theorem State.zeroRange_banks (s : State) (lo hi : Nat) : (s.zeroRange lo hi).banks = s.banks := rfl
@[simp] theorem State.zeroRange_ranges (s : State) (lo hi : Nat) : (s.zeroRange lo hi).ranges = s.ranges := rfl
@[simp] theorem State.zeroRange_channels (s : State) (lo hi : Nat) : (s.zeroRange lo hi).channels = s.channels := rfl
@[simp] theorem State.zeroRange_waiters (s : State) (lo hi : Nat) : (s.zeroRange lo hi).waiters = s.waiters := rfl
@[simp] theorem State.zeroRange_l2tlb (s : State) (lo hi : Nat) : (s.zeroRange lo hi).l2tlb = s.l2tlb := rfl
@[simp] theorem State.zeroRange_arbiter (s : State) (lo hi : Nat) : (s.zeroRange lo hi).arbiter = s.arbiter := rfl
@[simp] theorem State.zeroRange_coll (s : State) (lo hi : Nat) : (s.zeroRange lo hi).coll = s.coll := rfl
@[simp] theorem State.zeroRange_ports (s : State) (lo hi : Nat) : (s.zeroRange lo hi).ports = s.ports := rfl
@[simp] theorem State.zeroRange_outbox (s : State) (lo hi : Nat) : (s.zeroRange lo hi).outbox = s.outbox := rfl
@[simp] theorem State.zeroRange_departed (s : State) (lo hi : Nat) : (s.zeroRange lo hi).departed = s.departed := rfl
@[simp] theorem State.zeroRange_linkQueue (s : State) (lo hi : Nat) : (s.zeroRange lo hi).linkQueue = s.linkQueue := rfl
@[simp] theorem State.zeroRange_pairs (s : State) (lo hi : Nat) : (s.zeroRange lo hi).pairs = s.pairs := rfl
@[simp] theorem State.zeroRange_inFlits (s : State) (lo hi : Nat) : (s.zeroRange lo hi).inFlits = s.inFlits := rfl
@[simp] theorem State.zeroRange_inbox (s : State) (lo hi : Nat) : (s.zeroRange lo hi).inbox = s.inbox := rfl

/-! ## A change of a partition -/

@[simp] theorem State.updPart_me (s : State) (n : Nat) (f : Partition → Partition) : (s.updPart n f).me = s.me := rfl
@[simp] theorem State.updPart_others (s : State) (n : Nat) (f : Partition → Partition) : (s.updPart n f).others = s.others := rfl
@[simp] theorem State.updPart_mem (s : State) (n : Nat) (f : Partition → Partition) : (s.updPart n f).mem = s.mem := rfl
@[simp] theorem State.updPart_cycle (s : State) (n : Nat) (f : Partition → Partition) : (s.updPart n f).cycle = s.cycle := rfl
@[simp] theorem State.updPart_agenda (s : State) (n : Nat) (f : Partition → Partition) : (s.updPart n f).agenda = s.agenda := rfl
@[simp] theorem State.updPart_engineTurn (s : State) (n : Nat) (f : Partition → Partition) : (s.updPart n f).engineTurn = s.engineTurn := rfl
@[simp] theorem State.updPart_fresh (s : State) (n : Nat) (f : Partition → Partition) : (s.updPart n f).fresh = s.fresh := rfl
@[simp] theorem State.updPart_stamp (s : State) (n : Nat) (f : Partition → Partition) : (s.updPart n f).stamp = s.stamp := rfl
@[simp] theorem State.updPart_frozen (s : State) (n : Nat) (f : Partition → Partition) : (s.updPart n f).frozen = s.frozen := rfl
@[simp] theorem State.updPart_boot (s : State) (n : Nat) (f : Partition → Partition) : (s.updPart n f).boot = s.boot := rfl
@[simp] theorem State.updPart_power (s : State) (n : Nat) (f : Partition → Partition) : (s.updPart n f).power = s.power := rfl
@[simp] theorem State.updPart_harvest (s : State) (n : Nat) (f : Partition → Partition) : (s.updPart n f).harvest = s.harvest := rfl
@[simp] theorem State.updPart_debugEnable (s : State) (n : Nat) (f : Partition → Partition) : (s.updPart n f).debugEnable = s.debugEnable := rfl
@[simp] theorem State.updPart_pkgId (s : State) (n : Nat) (f : Partition → Partition) : (s.updPart n f).pkgId = s.pkgId := rfl
@[simp] theorem State.updPart_routes (s : State) (n : Nat) (f : Partition → Partition) : (s.updPart n f).routes = s.routes := rfl
@[simp] theorem State.updPart_cables (s : State) (n : Nat) (f : Partition → Partition) : (s.updPart n f).cables = s.cables := rfl
@[simp] theorem State.updPart_eccBad (s : State) (n : Nat) (f : Partition → Partition) : (s.updPart n f).eccBad = s.eccBad := rfl
@[simp] theorem State.updPart_contexts (s : State) (n : Nat) (f : Partition → Partition) : (s.updPart n f).contexts = s.contexts := rfl
@[simp] theorem State.updPart_tags (s : State) (n : Nat) (f : Partition → Partition) : (s.updPart n f).tags = s.tags := rfl
@[simp] theorem State.updPart_pageOwner (s : State) (n : Nat) (f : Partition → Partition) : (s.updPart n f).pageOwner = s.pageOwner := rfl
@[simp] theorem State.updPart_frames (s : State) (n : Nat) (f : Partition → Partition) : (s.updPart n f).frames = s.frames := rfl
@[simp] theorem State.updPart_banks (s : State) (n : Nat) (f : Partition → Partition) : (s.updPart n f).banks = s.banks := rfl
@[simp] theorem State.updPart_ranges (s : State) (n : Nat) (f : Partition → Partition) : (s.updPart n f).ranges = s.ranges := rfl
@[simp] theorem State.updPart_channels (s : State) (n : Nat) (f : Partition → Partition) : (s.updPart n f).channels = s.channels := rfl
@[simp] theorem State.updPart_waiters (s : State) (n : Nat) (f : Partition → Partition) : (s.updPart n f).waiters = s.waiters := rfl
@[simp] theorem State.updPart_l2tlb (s : State) (n : Nat) (f : Partition → Partition) : (s.updPart n f).l2tlb = s.l2tlb := rfl
@[simp] theorem State.updPart_arbiter (s : State) (n : Nat) (f : Partition → Partition) : (s.updPart n f).arbiter = s.arbiter := rfl
@[simp] theorem State.updPart_coll (s : State) (n : Nat) (f : Partition → Partition) : (s.updPart n f).coll = s.coll := rfl
@[simp] theorem State.updPart_ports (s : State) (n : Nat) (f : Partition → Partition) : (s.updPart n f).ports = s.ports := rfl
@[simp] theorem State.updPart_outbox (s : State) (n : Nat) (f : Partition → Partition) : (s.updPart n f).outbox = s.outbox := rfl
@[simp] theorem State.updPart_departed (s : State) (n : Nat) (f : Partition → Partition) : (s.updPart n f).departed = s.departed := rfl
@[simp] theorem State.updPart_linkQueue (s : State) (n : Nat) (f : Partition → Partition) : (s.updPart n f).linkQueue = s.linkQueue := rfl
@[simp] theorem State.updPart_pairs (s : State) (n : Nat) (f : Partition → Partition) : (s.updPart n f).pairs = s.pairs := rfl
@[simp] theorem State.updPart_inFlits (s : State) (n : Nat) (f : Partition → Partition) : (s.updPart n f).inFlits = s.inFlits := rfl
@[simp] theorem State.updPart_inbox (s : State) (n : Nat) (f : Partition → Partition) : (s.updPart n f).inbox = s.inbox := rfl

/-! ## A change of a context -/

@[simp] theorem State.updCtx_me (s : State) (n : Nat) (f : Context → Context) : (s.updCtx n f).me = s.me := rfl
@[simp] theorem State.updCtx_others (s : State) (n : Nat) (f : Context → Context) : (s.updCtx n f).others = s.others := rfl
@[simp] theorem State.updCtx_mem (s : State) (n : Nat) (f : Context → Context) : (s.updCtx n f).mem = s.mem := rfl
@[simp] theorem State.updCtx_cycle (s : State) (n : Nat) (f : Context → Context) : (s.updCtx n f).cycle = s.cycle := rfl
@[simp] theorem State.updCtx_agenda (s : State) (n : Nat) (f : Context → Context) : (s.updCtx n f).agenda = s.agenda := rfl
@[simp] theorem State.updCtx_engineTurn (s : State) (n : Nat) (f : Context → Context) : (s.updCtx n f).engineTurn = s.engineTurn := rfl
@[simp] theorem State.updCtx_fresh (s : State) (n : Nat) (f : Context → Context) : (s.updCtx n f).fresh = s.fresh := rfl
@[simp] theorem State.updCtx_stamp (s : State) (n : Nat) (f : Context → Context) : (s.updCtx n f).stamp = s.stamp := rfl
@[simp] theorem State.updCtx_frozen (s : State) (n : Nat) (f : Context → Context) : (s.updCtx n f).frozen = s.frozen := rfl
@[simp] theorem State.updCtx_boot (s : State) (n : Nat) (f : Context → Context) : (s.updCtx n f).boot = s.boot := rfl
@[simp] theorem State.updCtx_power (s : State) (n : Nat) (f : Context → Context) : (s.updCtx n f).power = s.power := rfl
@[simp] theorem State.updCtx_harvest (s : State) (n : Nat) (f : Context → Context) : (s.updCtx n f).harvest = s.harvest := rfl
@[simp] theorem State.updCtx_debugEnable (s : State) (n : Nat) (f : Context → Context) : (s.updCtx n f).debugEnable = s.debugEnable := rfl
@[simp] theorem State.updCtx_pkgId (s : State) (n : Nat) (f : Context → Context) : (s.updCtx n f).pkgId = s.pkgId := rfl
@[simp] theorem State.updCtx_routes (s : State) (n : Nat) (f : Context → Context) : (s.updCtx n f).routes = s.routes := rfl
@[simp] theorem State.updCtx_cables (s : State) (n : Nat) (f : Context → Context) : (s.updCtx n f).cables = s.cables := rfl
@[simp] theorem State.updCtx_eccBad (s : State) (n : Nat) (f : Context → Context) : (s.updCtx n f).eccBad = s.eccBad := rfl
@[simp] theorem State.updCtx_parts (s : State) (n : Nat) (f : Context → Context) : (s.updCtx n f).parts = s.parts := rfl
@[simp] theorem State.updCtx_tags (s : State) (n : Nat) (f : Context → Context) : (s.updCtx n f).tags = s.tags := rfl
@[simp] theorem State.updCtx_pageOwner (s : State) (n : Nat) (f : Context → Context) : (s.updCtx n f).pageOwner = s.pageOwner := rfl
@[simp] theorem State.updCtx_frames (s : State) (n : Nat) (f : Context → Context) : (s.updCtx n f).frames = s.frames := rfl
@[simp] theorem State.updCtx_banks (s : State) (n : Nat) (f : Context → Context) : (s.updCtx n f).banks = s.banks := rfl
@[simp] theorem State.updCtx_ranges (s : State) (n : Nat) (f : Context → Context) : (s.updCtx n f).ranges = s.ranges := rfl
@[simp] theorem State.updCtx_channels (s : State) (n : Nat) (f : Context → Context) : (s.updCtx n f).channels = s.channels := rfl
@[simp] theorem State.updCtx_waiters (s : State) (n : Nat) (f : Context → Context) : (s.updCtx n f).waiters = s.waiters := rfl
@[simp] theorem State.updCtx_l2tlb (s : State) (n : Nat) (f : Context → Context) : (s.updCtx n f).l2tlb = s.l2tlb := rfl
@[simp] theorem State.updCtx_arbiter (s : State) (n : Nat) (f : Context → Context) : (s.updCtx n f).arbiter = s.arbiter := rfl
@[simp] theorem State.updCtx_coll (s : State) (n : Nat) (f : Context → Context) : (s.updCtx n f).coll = s.coll := rfl
@[simp] theorem State.updCtx_ports (s : State) (n : Nat) (f : Context → Context) : (s.updCtx n f).ports = s.ports := rfl
@[simp] theorem State.updCtx_outbox (s : State) (n : Nat) (f : Context → Context) : (s.updCtx n f).outbox = s.outbox := rfl
@[simp] theorem State.updCtx_departed (s : State) (n : Nat) (f : Context → Context) : (s.updCtx n f).departed = s.departed := rfl
@[simp] theorem State.updCtx_linkQueue (s : State) (n : Nat) (f : Context → Context) : (s.updCtx n f).linkQueue = s.linkQueue := rfl
@[simp] theorem State.updCtx_pairs (s : State) (n : Nat) (f : Context → Context) : (s.updCtx n f).pairs = s.pairs := rfl
@[simp] theorem State.updCtx_inFlits (s : State) (n : Nat) (f : Context → Context) : (s.updCtx n f).inFlits = s.inFlits := rfl
@[simp] theorem State.updCtx_inbox (s : State) (n : Nat) (f : Context → Context) : (s.updCtx n f).inbox = s.inbox := rfl

/-! ## A change of a channel -/

@[simp] theorem State.updChannel_me (s : State) (n : Nat) (f : Channel → Channel) : (s.updChannel n f).me = s.me := rfl
@[simp] theorem State.updChannel_others (s : State) (n : Nat) (f : Channel → Channel) : (s.updChannel n f).others = s.others := rfl
@[simp] theorem State.updChannel_mem (s : State) (n : Nat) (f : Channel → Channel) : (s.updChannel n f).mem = s.mem := rfl
@[simp] theorem State.updChannel_cycle (s : State) (n : Nat) (f : Channel → Channel) : (s.updChannel n f).cycle = s.cycle := rfl
@[simp] theorem State.updChannel_agenda (s : State) (n : Nat) (f : Channel → Channel) : (s.updChannel n f).agenda = s.agenda := rfl
@[simp] theorem State.updChannel_engineTurn (s : State) (n : Nat) (f : Channel → Channel) : (s.updChannel n f).engineTurn = s.engineTurn := rfl
@[simp] theorem State.updChannel_fresh (s : State) (n : Nat) (f : Channel → Channel) : (s.updChannel n f).fresh = s.fresh := rfl
@[simp] theorem State.updChannel_stamp (s : State) (n : Nat) (f : Channel → Channel) : (s.updChannel n f).stamp = s.stamp := rfl
@[simp] theorem State.updChannel_frozen (s : State) (n : Nat) (f : Channel → Channel) : (s.updChannel n f).frozen = s.frozen := rfl
@[simp] theorem State.updChannel_boot (s : State) (n : Nat) (f : Channel → Channel) : (s.updChannel n f).boot = s.boot := rfl
@[simp] theorem State.updChannel_power (s : State) (n : Nat) (f : Channel → Channel) : (s.updChannel n f).power = s.power := rfl
@[simp] theorem State.updChannel_harvest (s : State) (n : Nat) (f : Channel → Channel) : (s.updChannel n f).harvest = s.harvest := rfl
@[simp] theorem State.updChannel_debugEnable (s : State) (n : Nat) (f : Channel → Channel) : (s.updChannel n f).debugEnable = s.debugEnable := rfl
@[simp] theorem State.updChannel_pkgId (s : State) (n : Nat) (f : Channel → Channel) : (s.updChannel n f).pkgId = s.pkgId := rfl
@[simp] theorem State.updChannel_routes (s : State) (n : Nat) (f : Channel → Channel) : (s.updChannel n f).routes = s.routes := rfl
@[simp] theorem State.updChannel_cables (s : State) (n : Nat) (f : Channel → Channel) : (s.updChannel n f).cables = s.cables := rfl
@[simp] theorem State.updChannel_eccBad (s : State) (n : Nat) (f : Channel → Channel) : (s.updChannel n f).eccBad = s.eccBad := rfl
@[simp] theorem State.updChannel_parts (s : State) (n : Nat) (f : Channel → Channel) : (s.updChannel n f).parts = s.parts := rfl
@[simp] theorem State.updChannel_contexts (s : State) (n : Nat) (f : Channel → Channel) : (s.updChannel n f).contexts = s.contexts := rfl
@[simp] theorem State.updChannel_tags (s : State) (n : Nat) (f : Channel → Channel) : (s.updChannel n f).tags = s.tags := rfl
@[simp] theorem State.updChannel_pageOwner (s : State) (n : Nat) (f : Channel → Channel) : (s.updChannel n f).pageOwner = s.pageOwner := rfl
@[simp] theorem State.updChannel_frames (s : State) (n : Nat) (f : Channel → Channel) : (s.updChannel n f).frames = s.frames := rfl
@[simp] theorem State.updChannel_banks (s : State) (n : Nat) (f : Channel → Channel) : (s.updChannel n f).banks = s.banks := rfl
@[simp] theorem State.updChannel_ranges (s : State) (n : Nat) (f : Channel → Channel) : (s.updChannel n f).ranges = s.ranges := rfl
@[simp] theorem State.updChannel_waiters (s : State) (n : Nat) (f : Channel → Channel) : (s.updChannel n f).waiters = s.waiters := rfl
@[simp] theorem State.updChannel_l2tlb (s : State) (n : Nat) (f : Channel → Channel) : (s.updChannel n f).l2tlb = s.l2tlb := rfl
@[simp] theorem State.updChannel_arbiter (s : State) (n : Nat) (f : Channel → Channel) : (s.updChannel n f).arbiter = s.arbiter := rfl
@[simp] theorem State.updChannel_coll (s : State) (n : Nat) (f : Channel → Channel) : (s.updChannel n f).coll = s.coll := rfl
@[simp] theorem State.updChannel_ports (s : State) (n : Nat) (f : Channel → Channel) : (s.updChannel n f).ports = s.ports := rfl
@[simp] theorem State.updChannel_outbox (s : State) (n : Nat) (f : Channel → Channel) : (s.updChannel n f).outbox = s.outbox := rfl
@[simp] theorem State.updChannel_departed (s : State) (n : Nat) (f : Channel → Channel) : (s.updChannel n f).departed = s.departed := rfl
@[simp] theorem State.updChannel_linkQueue (s : State) (n : Nat) (f : Channel → Channel) : (s.updChannel n f).linkQueue = s.linkQueue := rfl
@[simp] theorem State.updChannel_pairs (s : State) (n : Nat) (f : Channel → Channel) : (s.updChannel n f).pairs = s.pairs := rfl
@[simp] theorem State.updChannel_inFlits (s : State) (n : Nat) (f : Channel → Channel) : (s.updChannel n f).inFlits = s.inFlits := rfl
@[simp] theorem State.updChannel_inbox (s : State) (n : Nat) (f : Channel → Channel) : (s.updChannel n f).inbox = s.inbox := rfl

/-! ## A change of every core and saved image -/

@[simp] theorem State.mapUnits_me (s : State) (f : Core → Core) : (s.mapUnits f).me = f s.me := rfl
@[simp] theorem State.mapUnits_mem (s : State) (f : Core → Core) : (s.mapUnits f).mem = s.mem := rfl
@[simp] theorem State.mapUnits_cycle (s : State) (f : Core → Core) : (s.mapUnits f).cycle = s.cycle := rfl
@[simp] theorem State.mapUnits_agenda (s : State) (f : Core → Core) : (s.mapUnits f).agenda = s.agenda := rfl
@[simp] theorem State.mapUnits_engineTurn (s : State) (f : Core → Core) : (s.mapUnits f).engineTurn = s.engineTurn := rfl
@[simp] theorem State.mapUnits_fresh (s : State) (f : Core → Core) : (s.mapUnits f).fresh = s.fresh := rfl
@[simp] theorem State.mapUnits_stamp (s : State) (f : Core → Core) : (s.mapUnits f).stamp = s.stamp := rfl
@[simp] theorem State.mapUnits_frozen (s : State) (f : Core → Core) : (s.mapUnits f).frozen = s.frozen := rfl
@[simp] theorem State.mapUnits_boot (s : State) (f : Core → Core) : (s.mapUnits f).boot = s.boot := rfl
@[simp] theorem State.mapUnits_power (s : State) (f : Core → Core) : (s.mapUnits f).power = s.power := rfl
@[simp] theorem State.mapUnits_harvest (s : State) (f : Core → Core) : (s.mapUnits f).harvest = s.harvest := rfl
@[simp] theorem State.mapUnits_debugEnable (s : State) (f : Core → Core) : (s.mapUnits f).debugEnable = s.debugEnable := rfl
@[simp] theorem State.mapUnits_pkgId (s : State) (f : Core → Core) : (s.mapUnits f).pkgId = s.pkgId := rfl
@[simp] theorem State.mapUnits_routes (s : State) (f : Core → Core) : (s.mapUnits f).routes = s.routes := rfl
@[simp] theorem State.mapUnits_cables (s : State) (f : Core → Core) : (s.mapUnits f).cables = s.cables := rfl
@[simp] theorem State.mapUnits_eccBad (s : State) (f : Core → Core) : (s.mapUnits f).eccBad = s.eccBad := rfl
@[simp] theorem State.mapUnits_parts (s : State) (f : Core → Core) : (s.mapUnits f).parts = s.parts := rfl
@[simp] theorem State.mapUnits_tags (s : State) (f : Core → Core) : (s.mapUnits f).tags = s.tags := rfl
@[simp] theorem State.mapUnits_pageOwner (s : State) (f : Core → Core) : (s.mapUnits f).pageOwner = s.pageOwner := rfl
@[simp] theorem State.mapUnits_frames (s : State) (f : Core → Core) : (s.mapUnits f).frames = s.frames := rfl
@[simp] theorem State.mapUnits_banks (s : State) (f : Core → Core) : (s.mapUnits f).banks = s.banks := rfl
@[simp] theorem State.mapUnits_ranges (s : State) (f : Core → Core) : (s.mapUnits f).ranges = s.ranges := rfl
@[simp] theorem State.mapUnits_channels (s : State) (f : Core → Core) : (s.mapUnits f).channels = s.channels := rfl
@[simp] theorem State.mapUnits_waiters (s : State) (f : Core → Core) : (s.mapUnits f).waiters = s.waiters := rfl
@[simp] theorem State.mapUnits_l2tlb (s : State) (f : Core → Core) : (s.mapUnits f).l2tlb = s.l2tlb := rfl
@[simp] theorem State.mapUnits_arbiter (s : State) (f : Core → Core) : (s.mapUnits f).arbiter = s.arbiter := rfl
@[simp] theorem State.mapUnits_coll (s : State) (f : Core → Core) : (s.mapUnits f).coll = s.coll := rfl
@[simp] theorem State.mapUnits_ports (s : State) (f : Core → Core) : (s.mapUnits f).ports = s.ports := rfl
@[simp] theorem State.mapUnits_outbox (s : State) (f : Core → Core) : (s.mapUnits f).outbox = s.outbox := rfl
@[simp] theorem State.mapUnits_departed (s : State) (f : Core → Core) : (s.mapUnits f).departed = s.departed := rfl
@[simp] theorem State.mapUnits_linkQueue (s : State) (f : Core → Core) : (s.mapUnits f).linkQueue = s.linkQueue := rfl
@[simp] theorem State.mapUnits_pairs (s : State) (f : Core → Core) : (s.mapUnits f).pairs = s.pairs := rfl
@[simp] theorem State.mapUnits_inFlits (s : State) (f : Core → Core) : (s.mapUnits f).inFlits = s.inFlits := rfl
@[simp] theorem State.mapUnits_inbox (s : State) (f : Core → Core) : (s.mapUnits f).inbox = s.inbox := rfl

/-! ## A change of a port -/

@[simp] theorem State.updPort_me (s : State) (n : Nat) (f : LinkPort → LinkPort) : (s.updPort n f).me = s.me := rfl
@[simp] theorem State.updPort_others (s : State) (n : Nat) (f : LinkPort → LinkPort) : (s.updPort n f).others = s.others := rfl
@[simp] theorem State.updPort_mem (s : State) (n : Nat) (f : LinkPort → LinkPort) : (s.updPort n f).mem = s.mem := rfl
@[simp] theorem State.updPort_cycle (s : State) (n : Nat) (f : LinkPort → LinkPort) : (s.updPort n f).cycle = s.cycle := rfl
@[simp] theorem State.updPort_agenda (s : State) (n : Nat) (f : LinkPort → LinkPort) : (s.updPort n f).agenda = s.agenda := rfl
@[simp] theorem State.updPort_engineTurn (s : State) (n : Nat) (f : LinkPort → LinkPort) : (s.updPort n f).engineTurn = s.engineTurn := rfl
@[simp] theorem State.updPort_fresh (s : State) (n : Nat) (f : LinkPort → LinkPort) : (s.updPort n f).fresh = s.fresh := rfl
@[simp] theorem State.updPort_stamp (s : State) (n : Nat) (f : LinkPort → LinkPort) : (s.updPort n f).stamp = s.stamp := rfl
@[simp] theorem State.updPort_frozen (s : State) (n : Nat) (f : LinkPort → LinkPort) : (s.updPort n f).frozen = s.frozen := rfl
@[simp] theorem State.updPort_boot (s : State) (n : Nat) (f : LinkPort → LinkPort) : (s.updPort n f).boot = s.boot := rfl
@[simp] theorem State.updPort_power (s : State) (n : Nat) (f : LinkPort → LinkPort) : (s.updPort n f).power = s.power := rfl
@[simp] theorem State.updPort_harvest (s : State) (n : Nat) (f : LinkPort → LinkPort) : (s.updPort n f).harvest = s.harvest := rfl
@[simp] theorem State.updPort_debugEnable (s : State) (n : Nat) (f : LinkPort → LinkPort) : (s.updPort n f).debugEnable = s.debugEnable := rfl
@[simp] theorem State.updPort_pkgId (s : State) (n : Nat) (f : LinkPort → LinkPort) : (s.updPort n f).pkgId = s.pkgId := rfl
@[simp] theorem State.updPort_routes (s : State) (n : Nat) (f : LinkPort → LinkPort) : (s.updPort n f).routes = s.routes := rfl
@[simp] theorem State.updPort_cables (s : State) (n : Nat) (f : LinkPort → LinkPort) : (s.updPort n f).cables = s.cables := rfl
@[simp] theorem State.updPort_eccBad (s : State) (n : Nat) (f : LinkPort → LinkPort) : (s.updPort n f).eccBad = s.eccBad := rfl
@[simp] theorem State.updPort_parts (s : State) (n : Nat) (f : LinkPort → LinkPort) : (s.updPort n f).parts = s.parts := rfl
@[simp] theorem State.updPort_contexts (s : State) (n : Nat) (f : LinkPort → LinkPort) : (s.updPort n f).contexts = s.contexts := rfl
@[simp] theorem State.updPort_tags (s : State) (n : Nat) (f : LinkPort → LinkPort) : (s.updPort n f).tags = s.tags := rfl
@[simp] theorem State.updPort_pageOwner (s : State) (n : Nat) (f : LinkPort → LinkPort) : (s.updPort n f).pageOwner = s.pageOwner := rfl
@[simp] theorem State.updPort_frames (s : State) (n : Nat) (f : LinkPort → LinkPort) : (s.updPort n f).frames = s.frames := rfl
@[simp] theorem State.updPort_banks (s : State) (n : Nat) (f : LinkPort → LinkPort) : (s.updPort n f).banks = s.banks := rfl
@[simp] theorem State.updPort_ranges (s : State) (n : Nat) (f : LinkPort → LinkPort) : (s.updPort n f).ranges = s.ranges := rfl
@[simp] theorem State.updPort_channels (s : State) (n : Nat) (f : LinkPort → LinkPort) : (s.updPort n f).channels = s.channels := rfl
@[simp] theorem State.updPort_waiters (s : State) (n : Nat) (f : LinkPort → LinkPort) : (s.updPort n f).waiters = s.waiters := rfl
@[simp] theorem State.updPort_l2tlb (s : State) (n : Nat) (f : LinkPort → LinkPort) : (s.updPort n f).l2tlb = s.l2tlb := rfl
@[simp] theorem State.updPort_arbiter (s : State) (n : Nat) (f : LinkPort → LinkPort) : (s.updPort n f).arbiter = s.arbiter := rfl
@[simp] theorem State.updPort_coll (s : State) (n : Nat) (f : LinkPort → LinkPort) : (s.updPort n f).coll = s.coll := rfl
@[simp] theorem State.updPort_outbox (s : State) (n : Nat) (f : LinkPort → LinkPort) : (s.updPort n f).outbox = s.outbox := rfl
@[simp] theorem State.updPort_departed (s : State) (n : Nat) (f : LinkPort → LinkPort) : (s.updPort n f).departed = s.departed := rfl
@[simp] theorem State.updPort_linkQueue (s : State) (n : Nat) (f : LinkPort → LinkPort) : (s.updPort n f).linkQueue = s.linkQueue := rfl
@[simp] theorem State.updPort_pairs (s : State) (n : Nat) (f : LinkPort → LinkPort) : (s.updPort n f).pairs = s.pairs := rfl
@[simp] theorem State.updPort_inFlits (s : State) (n : Nat) (f : LinkPort → LinkPort) : (s.updPort n f).inFlits = s.inFlits := rfl
@[simp] theorem State.updPort_inbox (s : State) (n : Nat) (f : LinkPort → LinkPort) : (s.updPort n f).inbox = s.inbox := rfl

/-! ## Counting an instruction -/

@[simp] theorem Core.count_id (c : Core) : (c.count).id = c.id := rfl
@[simp] theorem Core.count_run (c : Core) : (c.count).run = c.run := rfl
@[simp] theorem Core.count_held (c : Core) : (c.count).held = c.held := rfl
@[simp] theorem Core.count_expired (c : Core) : (c.count).expired = c.expired := rfl
@[simp] theorem Core.count_super (c : Core) : (c.count).super = c.super := rfl
@[simp] theorem Core.count_pc (c : Core) : (c.count).pc = c.pc := rfl
@[simp] theorem Core.count_g (c : Core) : (c.count).g = c.g := rfl
@[simp] theorem Core.count_shadow (c : Core) : (c.count).shadow = c.shadow := rfl
@[simp] theorem Core.count_v (c : Core) : (c.count).v = c.v := rfl
@[simp] theorem Core.count_p (c : Core) : (c.count).p = c.p := rfl
@[simp] theorem Core.count_user (c : Core) : (c.count).user = { c.user with instret := c.user.instret + 1 } := rfl
@[simp] theorem Core.count_sup (c : Core) : (c.count).sup = c.sup := rfl
@[simp] theorem Core.count_unit (c : Core) : (c.count).unit = c.unit := rfl
@[simp] theorem Core.count_lastLaunch (c : Core) : (c.count).lastLaunch = c.lastLaunch := rfl
@[simp] theorem Core.count_zeroCtx (c : Core) : (c.count).zeroCtx = c.zeroCtx := rfl
@[simp] theorem Core.count_ports (c : Core) : (c.count).ports = c.ports := rfl
@[simp] theorem Core.count_wait (c : Core) : (c.count).wait = c.wait := rfl
@[simp] theorem Core.count_fwd (c : Core) : (c.count).fwd = c.fwd := rfl
@[simp] theorem Core.count_lead (c : Core) : (c.count).lead = c.lead := rfl
@[simp] theorem Core.count_entries (c : Core) : (c.count).entries = c.entries := rfl
@[simp] theorem Core.count_events (c : Core) : (c.count).events = c.events := rfl
@[simp] theorem Core.count_heldEvents (c : Core) : (c.count).heldEvents = c.heldEvents := rfl
@[simp] theorem Core.count_notices (c : Core) : (c.count).notices = c.notices := rfl
@[simp] theorem Core.count_noticeOverflow (c : Core) : (c.count).noticeOverflow = c.noticeOverflow := rfl
@[simp] theorem Core.count_wdNotice (c : Core) : (c.count).wdNotice = c.wdNotice := rfl
@[simp] theorem Core.count_staleTags (c : Core) : (c.count).staleTags = c.staleTags := rfl
@[simp] theorem Core.count_faultWords (c : Core) : (c.count).faultWords = c.faultWords := rfl
@[simp] theorem Core.count_copyTurn (c : Core) : (c.count).copyTurn = c.copyTurn := rfl
@[simp] theorem Core.count_kerfHead (c : Core) : (c.count).kerfHead = c.kerfHead := rfl
@[simp] theorem Core.count_kerfBad (c : Core) : (c.count).kerfBad = c.kerfBad := rfl
@[simp] theorem Core.count_kerfRB (c : Core) : (c.count).kerfRB = c.kerfRB := rfl
@[simp] theorem Core.count_kerfBB (c : Core) : (c.count).kerfBB = c.kerfBB := rfl
@[simp] theorem Core.count_kerfOp (c : Core) : (c.count).kerfOp = c.kerfOp := rfl
@[simp] theorem Core.count_waves (c : Core) : (c.count).waves = c.waves := rfl
@[simp] theorem Core.count_fifoA (c : Core) : (c.count).fifoA = c.fifoA := rfl
@[simp] theorem Core.count_fifoB (c : Core) : (c.count).fifoB = c.fifoB := rfl
@[simp] theorem Core.count_accum (c : Core) : (c.count).accum = c.accum := rfl
@[simp] theorem Core.count_accumBad (c : Core) : (c.count).accumBad = c.accumBad := rfl
@[simp] theorem Core.count_deficit (c : Core) : (c.count).deficit = c.deficit := rfl
@[simp] theorem Core.count_runTile (c : Core) : (c.count).runTile = c.runTile := rfl
@[simp] theorem Core.count_tileLog (c : Core) : (c.count).tileLog = c.tileLog := rfl
@[simp] theorem Core.count_exchange (c : Core) : (c.count).exchange = c.exchange := rfl
@[simp] theorem Core.count_batch (c : Core) : (c.count).batch = c.batch := rfl
@[simp] theorem Core.count_pendingRegs (c : Core) : (c.count).pendingRegs = c.pendingRegs := rfl
@[simp] theorem Core.count_portResults (c : Core) : (c.count).portResults = c.portResults := rfl
@[simp] theorem Core.count_portSince (c : Core) : (c.count).portSince = c.portSince := rfl
@[simp] theorem Core.count_portRefused (c : Core) : (c.count).portRefused = c.portRefused := rfl
@[simp] theorem Core.count_batchArrived (c : Core) : (c.count).batchArrived = c.batchArrived := rfl
@[simp] theorem Core.count_awaited (c : Core) : (c.count).awaited = c.awaited := rfl
@[simp] theorem Core.count_preq (c : Core) : (c.count).preq = c.preq := rfl
@[simp] theorem Core.count_forced (c : Core) : (c.count).forced = c.forced := rfl
@[simp] theorem Core.count_saveFrom (c : Core) : (c.count).saveFrom = c.saveFrom := rfl
@[simp] theorem Core.count_wdBase (c : Core) : (c.count).wdBase = c.wdBase := rfl
@[simp] theorem Core.count_itlb (c : Core) : (c.count).itlb = c.itlb := rfl
@[simp] theorem Core.count_dtlb (c : Core) : (c.count).dtlb = c.dtlb := rfl
@[simp] theorem Core.count_l1d (c : Core) : (c.count).l1d = c.l1d := rfl
@[simp] theorem Core.count_l1i (c : Core) : (c.count).l1i = c.l1i := rfl

/-! ## Writing a vector register -/

@[simp] theorem Core.setVr_id (c : Core) (n : Nat) (x : VReg) : (c.setVr n x).id = c.id := rfl
@[simp] theorem Core.setVr_run (c : Core) (n : Nat) (x : VReg) : (c.setVr n x).run = c.run := rfl
@[simp] theorem Core.setVr_held (c : Core) (n : Nat) (x : VReg) : (c.setVr n x).held = c.held := rfl
@[simp] theorem Core.setVr_expired (c : Core) (n : Nat) (x : VReg) : (c.setVr n x).expired = c.expired := rfl
@[simp] theorem Core.setVr_super (c : Core) (n : Nat) (x : VReg) : (c.setVr n x).super = c.super := rfl
@[simp] theorem Core.setVr_pc (c : Core) (n : Nat) (x : VReg) : (c.setVr n x).pc = c.pc := rfl
@[simp] theorem Core.setVr_g (c : Core) (n : Nat) (x : VReg) : (c.setVr n x).g = c.g := rfl
@[simp] theorem Core.setVr_shadow (c : Core) (n : Nat) (x : VReg) : (c.setVr n x).shadow = c.shadow := rfl
@[simp] theorem Core.setVr_v (c : Core) (n : Nat) (x : VReg) : (c.setVr n x).v = c.v.setIfInBounds n x := rfl
@[simp] theorem Core.setVr_p (c : Core) (n : Nat) (x : VReg) : (c.setVr n x).p = c.p := rfl
@[simp] theorem Core.setVr_user (c : Core) (n : Nat) (x : VReg) : (c.setVr n x).user = c.user := rfl
@[simp] theorem Core.setVr_sup (c : Core) (n : Nat) (x : VReg) : (c.setVr n x).sup = c.sup := rfl
@[simp] theorem Core.setVr_unit (c : Core) (n : Nat) (x : VReg) : (c.setVr n x).unit = c.unit := rfl
@[simp] theorem Core.setVr_lastLaunch (c : Core) (n : Nat) (x : VReg) : (c.setVr n x).lastLaunch = c.lastLaunch := rfl
@[simp] theorem Core.setVr_zeroCtx (c : Core) (n : Nat) (x : VReg) : (c.setVr n x).zeroCtx = c.zeroCtx := rfl
@[simp] theorem Core.setVr_ports (c : Core) (n : Nat) (x : VReg) : (c.setVr n x).ports = c.ports := rfl
@[simp] theorem Core.setVr_wait (c : Core) (n : Nat) (x : VReg) : (c.setVr n x).wait = c.wait := rfl
@[simp] theorem Core.setVr_fwd (c : Core) (n : Nat) (x : VReg) : (c.setVr n x).fwd = c.fwd := rfl
@[simp] theorem Core.setVr_lead (c : Core) (n : Nat) (x : VReg) : (c.setVr n x).lead = c.lead := rfl
@[simp] theorem Core.setVr_entries (c : Core) (n : Nat) (x : VReg) : (c.setVr n x).entries = c.entries := rfl
@[simp] theorem Core.setVr_events (c : Core) (n : Nat) (x : VReg) : (c.setVr n x).events = c.events := rfl
@[simp] theorem Core.setVr_heldEvents (c : Core) (n : Nat) (x : VReg) : (c.setVr n x).heldEvents = c.heldEvents := rfl
@[simp] theorem Core.setVr_notices (c : Core) (n : Nat) (x : VReg) : (c.setVr n x).notices = c.notices := rfl
@[simp] theorem Core.setVr_noticeOverflow (c : Core) (n : Nat) (x : VReg) : (c.setVr n x).noticeOverflow = c.noticeOverflow := rfl
@[simp] theorem Core.setVr_wdNotice (c : Core) (n : Nat) (x : VReg) : (c.setVr n x).wdNotice = c.wdNotice := rfl
@[simp] theorem Core.setVr_staleTags (c : Core) (n : Nat) (x : VReg) : (c.setVr n x).staleTags = c.staleTags := rfl
@[simp] theorem Core.setVr_faultWords (c : Core) (n : Nat) (x : VReg) : (c.setVr n x).faultWords = c.faultWords := rfl
@[simp] theorem Core.setVr_copyTurn (c : Core) (n : Nat) (x : VReg) : (c.setVr n x).copyTurn = c.copyTurn := rfl
@[simp] theorem Core.setVr_kerfHead (c : Core) (n : Nat) (x : VReg) : (c.setVr n x).kerfHead = c.kerfHead := rfl
@[simp] theorem Core.setVr_kerfBad (c : Core) (n : Nat) (x : VReg) : (c.setVr n x).kerfBad = c.kerfBad := rfl
@[simp] theorem Core.setVr_kerfRB (c : Core) (n : Nat) (x : VReg) : (c.setVr n x).kerfRB = c.kerfRB := rfl
@[simp] theorem Core.setVr_kerfBB (c : Core) (n : Nat) (x : VReg) : (c.setVr n x).kerfBB = c.kerfBB := rfl
@[simp] theorem Core.setVr_kerfOp (c : Core) (n : Nat) (x : VReg) : (c.setVr n x).kerfOp = c.kerfOp := rfl
@[simp] theorem Core.setVr_waves (c : Core) (n : Nat) (x : VReg) : (c.setVr n x).waves = c.waves := rfl
@[simp] theorem Core.setVr_fifoA (c : Core) (n : Nat) (x : VReg) : (c.setVr n x).fifoA = c.fifoA := rfl
@[simp] theorem Core.setVr_fifoB (c : Core) (n : Nat) (x : VReg) : (c.setVr n x).fifoB = c.fifoB := rfl
@[simp] theorem Core.setVr_accum (c : Core) (n : Nat) (x : VReg) : (c.setVr n x).accum = c.accum := rfl
@[simp] theorem Core.setVr_accumBad (c : Core) (n : Nat) (x : VReg) : (c.setVr n x).accumBad = c.accumBad := rfl
@[simp] theorem Core.setVr_deficit (c : Core) (n : Nat) (x : VReg) : (c.setVr n x).deficit = c.deficit := rfl
@[simp] theorem Core.setVr_runTile (c : Core) (n : Nat) (x : VReg) : (c.setVr n x).runTile = c.runTile := rfl
@[simp] theorem Core.setVr_tileLog (c : Core) (n : Nat) (x : VReg) : (c.setVr n x).tileLog = c.tileLog := rfl
@[simp] theorem Core.setVr_exchange (c : Core) (n : Nat) (x : VReg) : (c.setVr n x).exchange = c.exchange := rfl
@[simp] theorem Core.setVr_batch (c : Core) (n : Nat) (x : VReg) : (c.setVr n x).batch = c.batch := rfl
@[simp] theorem Core.setVr_pendingRegs (c : Core) (n : Nat) (x : VReg) : (c.setVr n x).pendingRegs = c.pendingRegs := rfl
@[simp] theorem Core.setVr_portResults (c : Core) (n : Nat) (x : VReg) : (c.setVr n x).portResults = c.portResults := rfl
@[simp] theorem Core.setVr_portSince (c : Core) (n : Nat) (x : VReg) : (c.setVr n x).portSince = c.portSince := rfl
@[simp] theorem Core.setVr_portRefused (c : Core) (n : Nat) (x : VReg) : (c.setVr n x).portRefused = c.portRefused := rfl
@[simp] theorem Core.setVr_batchArrived (c : Core) (n : Nat) (x : VReg) : (c.setVr n x).batchArrived = c.batchArrived := rfl
@[simp] theorem Core.setVr_awaited (c : Core) (n : Nat) (x : VReg) : (c.setVr n x).awaited = c.awaited := rfl
@[simp] theorem Core.setVr_preq (c : Core) (n : Nat) (x : VReg) : (c.setVr n x).preq = c.preq := rfl
@[simp] theorem Core.setVr_forced (c : Core) (n : Nat) (x : VReg) : (c.setVr n x).forced = c.forced := rfl
@[simp] theorem Core.setVr_saveFrom (c : Core) (n : Nat) (x : VReg) : (c.setVr n x).saveFrom = c.saveFrom := rfl
@[simp] theorem Core.setVr_wdBase (c : Core) (n : Nat) (x : VReg) : (c.setVr n x).wdBase = c.wdBase := rfl
@[simp] theorem Core.setVr_itlb (c : Core) (n : Nat) (x : VReg) : (c.setVr n x).itlb = c.itlb := rfl
@[simp] theorem Core.setVr_dtlb (c : Core) (n : Nat) (x : VReg) : (c.setVr n x).dtlb = c.dtlb := rfl
@[simp] theorem Core.setVr_l1d (c : Core) (n : Nat) (x : VReg) : (c.setVr n x).l1d = c.l1d := rfl
@[simp] theorem Core.setVr_l1i (c : Core) (n : Nat) (x : VReg) : (c.setVr n x).l1i = c.l1i := rfl

/-! ## Writing a general register -/

@[simp] theorem Core.setGpr_id (c : Core) (n : Nat) (w : Word) : (c.setGpr n w).id = c.id := by unfold Core.setGpr; split <;> rfl
@[simp] theorem Core.setGpr_run (c : Core) (n : Nat) (w : Word) : (c.setGpr n w).run = c.run := by unfold Core.setGpr; split <;> rfl
@[simp] theorem Core.setGpr_held (c : Core) (n : Nat) (w : Word) : (c.setGpr n w).held = c.held := by unfold Core.setGpr; split <;> rfl
@[simp] theorem Core.setGpr_expired (c : Core) (n : Nat) (w : Word) : (c.setGpr n w).expired = c.expired := by unfold Core.setGpr; split <;> rfl
@[simp] theorem Core.setGpr_super (c : Core) (n : Nat) (w : Word) : (c.setGpr n w).super = c.super := by unfold Core.setGpr; split <;> rfl
@[simp] theorem Core.setGpr_pc (c : Core) (n : Nat) (w : Word) : (c.setGpr n w).pc = c.pc := by unfold Core.setGpr; split <;> rfl
@[simp] theorem Core.setGpr_shadow (c : Core) (n : Nat) (w : Word) : (c.setGpr n w).shadow = c.shadow := by unfold Core.setGpr; split <;> rfl
@[simp] theorem Core.setGpr_v (c : Core) (n : Nat) (w : Word) : (c.setGpr n w).v = c.v := by unfold Core.setGpr; split <;> rfl
@[simp] theorem Core.setGpr_p (c : Core) (n : Nat) (w : Word) : (c.setGpr n w).p = c.p := by unfold Core.setGpr; split <;> rfl
@[simp] theorem Core.setGpr_user (c : Core) (n : Nat) (w : Word) : (c.setGpr n w).user = c.user := by unfold Core.setGpr; split <;> rfl
@[simp] theorem Core.setGpr_sup (c : Core) (n : Nat) (w : Word) : (c.setGpr n w).sup = c.sup := by unfold Core.setGpr; split <;> rfl
@[simp] theorem Core.setGpr_unit (c : Core) (n : Nat) (w : Word) : (c.setGpr n w).unit = c.unit := by unfold Core.setGpr; split <;> rfl
@[simp] theorem Core.setGpr_lastLaunch (c : Core) (n : Nat) (w : Word) : (c.setGpr n w).lastLaunch = c.lastLaunch := by unfold Core.setGpr; split <;> rfl
@[simp] theorem Core.setGpr_zeroCtx (c : Core) (n : Nat) (w : Word) : (c.setGpr n w).zeroCtx = c.zeroCtx := by unfold Core.setGpr; split <;> rfl
@[simp] theorem Core.setGpr_ports (c : Core) (n : Nat) (w : Word) : (c.setGpr n w).ports = c.ports := by unfold Core.setGpr; split <;> rfl
@[simp] theorem Core.setGpr_wait (c : Core) (n : Nat) (w : Word) : (c.setGpr n w).wait = c.wait := by unfold Core.setGpr; split <;> rfl
@[simp] theorem Core.setGpr_fwd (c : Core) (n : Nat) (w : Word) : (c.setGpr n w).fwd = c.fwd := by unfold Core.setGpr; split <;> rfl
@[simp] theorem Core.setGpr_lead (c : Core) (n : Nat) (w : Word) : (c.setGpr n w).lead = c.lead := by unfold Core.setGpr; split <;> rfl
@[simp] theorem Core.setGpr_entries (c : Core) (n : Nat) (w : Word) : (c.setGpr n w).entries = c.entries := by unfold Core.setGpr; split <;> rfl
@[simp] theorem Core.setGpr_events (c : Core) (n : Nat) (w : Word) : (c.setGpr n w).events = c.events := by unfold Core.setGpr; split <;> rfl
@[simp] theorem Core.setGpr_heldEvents (c : Core) (n : Nat) (w : Word) : (c.setGpr n w).heldEvents = c.heldEvents := by unfold Core.setGpr; split <;> rfl
@[simp] theorem Core.setGpr_notices (c : Core) (n : Nat) (w : Word) : (c.setGpr n w).notices = c.notices := by unfold Core.setGpr; split <;> rfl
@[simp] theorem Core.setGpr_noticeOverflow (c : Core) (n : Nat) (w : Word) : (c.setGpr n w).noticeOverflow = c.noticeOverflow := by unfold Core.setGpr; split <;> rfl
@[simp] theorem Core.setGpr_wdNotice (c : Core) (n : Nat) (w : Word) : (c.setGpr n w).wdNotice = c.wdNotice := by unfold Core.setGpr; split <;> rfl
@[simp] theorem Core.setGpr_staleTags (c : Core) (n : Nat) (w : Word) : (c.setGpr n w).staleTags = c.staleTags := by unfold Core.setGpr; split <;> rfl
@[simp] theorem Core.setGpr_faultWords (c : Core) (n : Nat) (w : Word) : (c.setGpr n w).faultWords = c.faultWords := by unfold Core.setGpr; split <;> rfl
@[simp] theorem Core.setGpr_copyTurn (c : Core) (n : Nat) (w : Word) : (c.setGpr n w).copyTurn = c.copyTurn := by unfold Core.setGpr; split <;> rfl
@[simp] theorem Core.setGpr_kerfHead (c : Core) (n : Nat) (w : Word) : (c.setGpr n w).kerfHead = c.kerfHead := by unfold Core.setGpr; split <;> rfl
@[simp] theorem Core.setGpr_kerfBad (c : Core) (n : Nat) (w : Word) : (c.setGpr n w).kerfBad = c.kerfBad := by unfold Core.setGpr; split <;> rfl
@[simp] theorem Core.setGpr_kerfRB (c : Core) (n : Nat) (w : Word) : (c.setGpr n w).kerfRB = c.kerfRB := by unfold Core.setGpr; split <;> rfl
@[simp] theorem Core.setGpr_kerfBB (c : Core) (n : Nat) (w : Word) : (c.setGpr n w).kerfBB = c.kerfBB := by unfold Core.setGpr; split <;> rfl
@[simp] theorem Core.setGpr_kerfOp (c : Core) (n : Nat) (w : Word) : (c.setGpr n w).kerfOp = c.kerfOp := by unfold Core.setGpr; split <;> rfl
@[simp] theorem Core.setGpr_waves (c : Core) (n : Nat) (w : Word) : (c.setGpr n w).waves = c.waves := by unfold Core.setGpr; split <;> rfl
@[simp] theorem Core.setGpr_fifoA (c : Core) (n : Nat) (w : Word) : (c.setGpr n w).fifoA = c.fifoA := by unfold Core.setGpr; split <;> rfl
@[simp] theorem Core.setGpr_fifoB (c : Core) (n : Nat) (w : Word) : (c.setGpr n w).fifoB = c.fifoB := by unfold Core.setGpr; split <;> rfl
@[simp] theorem Core.setGpr_accum (c : Core) (n : Nat) (w : Word) : (c.setGpr n w).accum = c.accum := by unfold Core.setGpr; split <;> rfl
@[simp] theorem Core.setGpr_accumBad (c : Core) (n : Nat) (w : Word) : (c.setGpr n w).accumBad = c.accumBad := by unfold Core.setGpr; split <;> rfl
@[simp] theorem Core.setGpr_deficit (c : Core) (n : Nat) (w : Word) : (c.setGpr n w).deficit = c.deficit := by unfold Core.setGpr; split <;> rfl
@[simp] theorem Core.setGpr_runTile (c : Core) (n : Nat) (w : Word) : (c.setGpr n w).runTile = c.runTile := by unfold Core.setGpr; split <;> rfl
@[simp] theorem Core.setGpr_tileLog (c : Core) (n : Nat) (w : Word) : (c.setGpr n w).tileLog = c.tileLog := by unfold Core.setGpr; split <;> rfl
@[simp] theorem Core.setGpr_exchange (c : Core) (n : Nat) (w : Word) : (c.setGpr n w).exchange = c.exchange := by unfold Core.setGpr; split <;> rfl
@[simp] theorem Core.setGpr_batch (c : Core) (n : Nat) (w : Word) : (c.setGpr n w).batch = c.batch := by unfold Core.setGpr; split <;> rfl
@[simp] theorem Core.setGpr_pendingRegs (c : Core) (n : Nat) (w : Word) : (c.setGpr n w).pendingRegs = c.pendingRegs := by unfold Core.setGpr; split <;> rfl
@[simp] theorem Core.setGpr_portResults (c : Core) (n : Nat) (w : Word) : (c.setGpr n w).portResults = c.portResults := by unfold Core.setGpr; split <;> rfl
@[simp] theorem Core.setGpr_portSince (c : Core) (n : Nat) (w : Word) : (c.setGpr n w).portSince = c.portSince := by unfold Core.setGpr; split <;> rfl
@[simp] theorem Core.setGpr_portRefused (c : Core) (n : Nat) (w : Word) : (c.setGpr n w).portRefused = c.portRefused := by unfold Core.setGpr; split <;> rfl
@[simp] theorem Core.setGpr_batchArrived (c : Core) (n : Nat) (w : Word) : (c.setGpr n w).batchArrived = c.batchArrived := by unfold Core.setGpr; split <;> rfl
@[simp] theorem Core.setGpr_awaited (c : Core) (n : Nat) (w : Word) : (c.setGpr n w).awaited = c.awaited := by unfold Core.setGpr; split <;> rfl
@[simp] theorem Core.setGpr_preq (c : Core) (n : Nat) (w : Word) : (c.setGpr n w).preq = c.preq := by unfold Core.setGpr; split <;> rfl
@[simp] theorem Core.setGpr_forced (c : Core) (n : Nat) (w : Word) : (c.setGpr n w).forced = c.forced := by unfold Core.setGpr; split <;> rfl
@[simp] theorem Core.setGpr_saveFrom (c : Core) (n : Nat) (w : Word) : (c.setGpr n w).saveFrom = c.saveFrom := by unfold Core.setGpr; split <;> rfl
@[simp] theorem Core.setGpr_wdBase (c : Core) (n : Nat) (w : Word) : (c.setGpr n w).wdBase = c.wdBase := by unfold Core.setGpr; split <;> rfl
@[simp] theorem Core.setGpr_itlb (c : Core) (n : Nat) (w : Word) : (c.setGpr n w).itlb = c.itlb := by unfold Core.setGpr; split <;> rfl
@[simp] theorem Core.setGpr_dtlb (c : Core) (n : Nat) (w : Word) : (c.setGpr n w).dtlb = c.dtlb := by unfold Core.setGpr; split <;> rfl
@[simp] theorem Core.setGpr_l1d (c : Core) (n : Nat) (w : Word) : (c.setGpr n w).l1d = c.l1d := by unfold Core.setGpr; split <;> rfl
@[simp] theorem Core.setGpr_l1i (c : Core) (n : Nat) (w : Word) : (c.setGpr n w).l1i = c.l1i := by unfold Core.setGpr; split <;> rfl

/-! ## Writing a predicate register -/

@[simp] theorem Core.setPr_id (c : Core) (n : Nat) (w : Word) : (c.setPr n w).id = c.id := by unfold Core.setPr; split <;> rfl
@[simp] theorem Core.setPr_run (c : Core) (n : Nat) (w : Word) : (c.setPr n w).run = c.run := by unfold Core.setPr; split <;> rfl
@[simp] theorem Core.setPr_held (c : Core) (n : Nat) (w : Word) : (c.setPr n w).held = c.held := by unfold Core.setPr; split <;> rfl
@[simp] theorem Core.setPr_expired (c : Core) (n : Nat) (w : Word) : (c.setPr n w).expired = c.expired := by unfold Core.setPr; split <;> rfl
@[simp] theorem Core.setPr_super (c : Core) (n : Nat) (w : Word) : (c.setPr n w).super = c.super := by unfold Core.setPr; split <;> rfl
@[simp] theorem Core.setPr_pc (c : Core) (n : Nat) (w : Word) : (c.setPr n w).pc = c.pc := by unfold Core.setPr; split <;> rfl
@[simp] theorem Core.setPr_g (c : Core) (n : Nat) (w : Word) : (c.setPr n w).g = c.g := by unfold Core.setPr; split <;> rfl
@[simp] theorem Core.setPr_shadow (c : Core) (n : Nat) (w : Word) : (c.setPr n w).shadow = c.shadow := by unfold Core.setPr; split <;> rfl
@[simp] theorem Core.setPr_v (c : Core) (n : Nat) (w : Word) : (c.setPr n w).v = c.v := by unfold Core.setPr; split <;> rfl
@[simp] theorem Core.setPr_user (c : Core) (n : Nat) (w : Word) : (c.setPr n w).user = c.user := by unfold Core.setPr; split <;> rfl
@[simp] theorem Core.setPr_sup (c : Core) (n : Nat) (w : Word) : (c.setPr n w).sup = c.sup := by unfold Core.setPr; split <;> rfl
@[simp] theorem Core.setPr_unit (c : Core) (n : Nat) (w : Word) : (c.setPr n w).unit = c.unit := by unfold Core.setPr; split <;> rfl
@[simp] theorem Core.setPr_lastLaunch (c : Core) (n : Nat) (w : Word) : (c.setPr n w).lastLaunch = c.lastLaunch := by unfold Core.setPr; split <;> rfl
@[simp] theorem Core.setPr_zeroCtx (c : Core) (n : Nat) (w : Word) : (c.setPr n w).zeroCtx = c.zeroCtx := by unfold Core.setPr; split <;> rfl
@[simp] theorem Core.setPr_ports (c : Core) (n : Nat) (w : Word) : (c.setPr n w).ports = c.ports := by unfold Core.setPr; split <;> rfl
@[simp] theorem Core.setPr_wait (c : Core) (n : Nat) (w : Word) : (c.setPr n w).wait = c.wait := by unfold Core.setPr; split <;> rfl
@[simp] theorem Core.setPr_fwd (c : Core) (n : Nat) (w : Word) : (c.setPr n w).fwd = c.fwd := by unfold Core.setPr; split <;> rfl
@[simp] theorem Core.setPr_lead (c : Core) (n : Nat) (w : Word) : (c.setPr n w).lead = c.lead := by unfold Core.setPr; split <;> rfl
@[simp] theorem Core.setPr_entries (c : Core) (n : Nat) (w : Word) : (c.setPr n w).entries = c.entries := by unfold Core.setPr; split <;> rfl
@[simp] theorem Core.setPr_events (c : Core) (n : Nat) (w : Word) : (c.setPr n w).events = c.events := by unfold Core.setPr; split <;> rfl
@[simp] theorem Core.setPr_heldEvents (c : Core) (n : Nat) (w : Word) : (c.setPr n w).heldEvents = c.heldEvents := by unfold Core.setPr; split <;> rfl
@[simp] theorem Core.setPr_notices (c : Core) (n : Nat) (w : Word) : (c.setPr n w).notices = c.notices := by unfold Core.setPr; split <;> rfl
@[simp] theorem Core.setPr_noticeOverflow (c : Core) (n : Nat) (w : Word) : (c.setPr n w).noticeOverflow = c.noticeOverflow := by unfold Core.setPr; split <;> rfl
@[simp] theorem Core.setPr_wdNotice (c : Core) (n : Nat) (w : Word) : (c.setPr n w).wdNotice = c.wdNotice := by unfold Core.setPr; split <;> rfl
@[simp] theorem Core.setPr_staleTags (c : Core) (n : Nat) (w : Word) : (c.setPr n w).staleTags = c.staleTags := by unfold Core.setPr; split <;> rfl
@[simp] theorem Core.setPr_faultWords (c : Core) (n : Nat) (w : Word) : (c.setPr n w).faultWords = c.faultWords := by unfold Core.setPr; split <;> rfl
@[simp] theorem Core.setPr_copyTurn (c : Core) (n : Nat) (w : Word) : (c.setPr n w).copyTurn = c.copyTurn := by unfold Core.setPr; split <;> rfl
@[simp] theorem Core.setPr_kerfHead (c : Core) (n : Nat) (w : Word) : (c.setPr n w).kerfHead = c.kerfHead := by unfold Core.setPr; split <;> rfl
@[simp] theorem Core.setPr_kerfBad (c : Core) (n : Nat) (w : Word) : (c.setPr n w).kerfBad = c.kerfBad := by unfold Core.setPr; split <;> rfl
@[simp] theorem Core.setPr_kerfRB (c : Core) (n : Nat) (w : Word) : (c.setPr n w).kerfRB = c.kerfRB := by unfold Core.setPr; split <;> rfl
@[simp] theorem Core.setPr_kerfBB (c : Core) (n : Nat) (w : Word) : (c.setPr n w).kerfBB = c.kerfBB := by unfold Core.setPr; split <;> rfl
@[simp] theorem Core.setPr_kerfOp (c : Core) (n : Nat) (w : Word) : (c.setPr n w).kerfOp = c.kerfOp := by unfold Core.setPr; split <;> rfl
@[simp] theorem Core.setPr_waves (c : Core) (n : Nat) (w : Word) : (c.setPr n w).waves = c.waves := by unfold Core.setPr; split <;> rfl
@[simp] theorem Core.setPr_fifoA (c : Core) (n : Nat) (w : Word) : (c.setPr n w).fifoA = c.fifoA := by unfold Core.setPr; split <;> rfl
@[simp] theorem Core.setPr_fifoB (c : Core) (n : Nat) (w : Word) : (c.setPr n w).fifoB = c.fifoB := by unfold Core.setPr; split <;> rfl
@[simp] theorem Core.setPr_accum (c : Core) (n : Nat) (w : Word) : (c.setPr n w).accum = c.accum := by unfold Core.setPr; split <;> rfl
@[simp] theorem Core.setPr_accumBad (c : Core) (n : Nat) (w : Word) : (c.setPr n w).accumBad = c.accumBad := by unfold Core.setPr; split <;> rfl
@[simp] theorem Core.setPr_deficit (c : Core) (n : Nat) (w : Word) : (c.setPr n w).deficit = c.deficit := by unfold Core.setPr; split <;> rfl
@[simp] theorem Core.setPr_runTile (c : Core) (n : Nat) (w : Word) : (c.setPr n w).runTile = c.runTile := by unfold Core.setPr; split <;> rfl
@[simp] theorem Core.setPr_tileLog (c : Core) (n : Nat) (w : Word) : (c.setPr n w).tileLog = c.tileLog := by unfold Core.setPr; split <;> rfl
@[simp] theorem Core.setPr_exchange (c : Core) (n : Nat) (w : Word) : (c.setPr n w).exchange = c.exchange := by unfold Core.setPr; split <;> rfl
@[simp] theorem Core.setPr_batch (c : Core) (n : Nat) (w : Word) : (c.setPr n w).batch = c.batch := by unfold Core.setPr; split <;> rfl
@[simp] theorem Core.setPr_pendingRegs (c : Core) (n : Nat) (w : Word) : (c.setPr n w).pendingRegs = c.pendingRegs := by unfold Core.setPr; split <;> rfl
@[simp] theorem Core.setPr_portResults (c : Core) (n : Nat) (w : Word) : (c.setPr n w).portResults = c.portResults := by unfold Core.setPr; split <;> rfl
@[simp] theorem Core.setPr_portSince (c : Core) (n : Nat) (w : Word) : (c.setPr n w).portSince = c.portSince := by unfold Core.setPr; split <;> rfl
@[simp] theorem Core.setPr_portRefused (c : Core) (n : Nat) (w : Word) : (c.setPr n w).portRefused = c.portRefused := by unfold Core.setPr; split <;> rfl
@[simp] theorem Core.setPr_batchArrived (c : Core) (n : Nat) (w : Word) : (c.setPr n w).batchArrived = c.batchArrived := by unfold Core.setPr; split <;> rfl
@[simp] theorem Core.setPr_awaited (c : Core) (n : Nat) (w : Word) : (c.setPr n w).awaited = c.awaited := by unfold Core.setPr; split <;> rfl
@[simp] theorem Core.setPr_preq (c : Core) (n : Nat) (w : Word) : (c.setPr n w).preq = c.preq := by unfold Core.setPr; split <;> rfl
@[simp] theorem Core.setPr_forced (c : Core) (n : Nat) (w : Word) : (c.setPr n w).forced = c.forced := by unfold Core.setPr; split <;> rfl
@[simp] theorem Core.setPr_saveFrom (c : Core) (n : Nat) (w : Word) : (c.setPr n w).saveFrom = c.saveFrom := by unfold Core.setPr; split <;> rfl
@[simp] theorem Core.setPr_wdBase (c : Core) (n : Nat) (w : Word) : (c.setPr n w).wdBase = c.wdBase := by unfold Core.setPr; split <;> rfl
@[simp] theorem Core.setPr_itlb (c : Core) (n : Nat) (w : Word) : (c.setPr n w).itlb = c.itlb := by unfold Core.setPr; split <;> rfl
@[simp] theorem Core.setPr_dtlb (c : Core) (n : Nat) (w : Word) : (c.setPr n w).dtlb = c.dtlb := by unfold Core.setPr; split <;> rfl
@[simp] theorem Core.setPr_l1d (c : Core) (n : Nat) (w : Word) : (c.setPr n w).l1d = c.l1d := by unfold Core.setPr; split <;> rfl
@[simp] theorem Core.setPr_l1i (c : Core) (n : Nat) (w : Word) : (c.setPr n w).l1i = c.l1i := by unfold Core.setPr; split <;> rfl

end Sys2Proof.Machine
end

