-- ==== Sys2Proof/Laws/Frame.lean ====
section
/-!
SUPPORT. What the shared operations leave of memory: changes of cores, traps, waits and the frame of an instruction.
-/
namespace Sys2Proof.Machine

open Sys2Proof

@[simp] theorem State.setCore_mem (s : State) (n : Nat) (c : Core) : (s.setCore n c).mem = s.mem := by
  unfold State.setCore; split <;> rfl

@[simp] theorem State.updCore_mem (s : State) (n : Nat) (f : Core → Core) : (s.updCore n f).mem = s.mem :=
  State.setCore_mem s n _

@[simp] theorem State.updCores_mem (s : State) (ns : List Nat) (f : Core → Core) : (s.updCores ns f).mem = s.mem := by
  unfold State.updCores
  induction ns generalizing s with
  | nil => rfl
  | cons n ns ih => simp [List.foldl_cons, ih]

@[simp] theorem State.switchTo_mem (s : State) (n : Nat) : (s.switchTo n).mem = s.mem := by
  unfold State.switchTo; split <;> rfl

/-- Splitting a fused gang changes no byte of memory. -/
@[simp] theorem State.splitGang_mem (s : State) : s.splitGang.mem = s.mem := by
  unfold State.splitGang
  cases s.me.unit with
  | none => rfl
  | some u => dsimp only; split <;> rfl

/-- Taking a trap changes no byte of memory. -/
@[simp] theorem State.takeTrapAt_mem (s : State) (c : Nat) (v pc : Word) : (s.takeTrapAt c v pc).mem = s.mem := by
  unfold State.takeTrapAt; dsimp only; split <;> simp

@[simp] theorem State.takeTrap_mem (s : State) (c : Nat) (v : Word) : (s.takeTrap c v).mem = s.mem :=
  State.takeTrapAt_mem s c v _

/-- Waiting changes no byte of memory. -/
@[simp] theorem State.park_mem (s : State) (k : WaitKind) (rd : BitVec 5) : (s.park k rd).mem = s.mem := by
  unfold State.park; dsimp only; split
  · split <;> simp
  · rfl

/-- A body that keeps memory canonical when it goes on. -/
def M.KeepsMem {α : Type} (x : M α) : Prop :=
  ∀ s a t, Memory.wf s.mem = true → x s = .ok (a, t) → Memory.wf t.mem = true

theorem M.KeepsMem.pure {α : Type} (a : α) : M.KeepsMem (Pure.pure a : M α) := by
  intro s b t hs h; simp only [M.pure_apply, Except.ok.injEq, Prod.mk.injEq] at h; rw [← h.2]; exact hs

theorem M.KeepsMem.trap {α : Type} (c : Nat) (v : Word) : M.KeepsMem (Machine.trap c v : M α) := by
  intro s b t _ h; cases h

theorem M.KeepsMem.trapWord {α : Type} (c : Nat) : M.KeepsMem (Machine.trapWord c : M α) := by
  intro s b t _ h; cases h

theorem M.KeepsMem.stall {α : Type} (k : WaitKind) (rd : BitVec 5) : M.KeepsMem (Machine.stall k rd : M α) := by
  intro s b t _ h; cases h

theorem M.KeepsMem.look : M.KeepsMem Machine.look := by
  intro s b t hs h; simp only [M.look_apply, Except.ok.injEq, Prod.mk.injEq] at h; rw [← h.2]; exact hs

theorem M.KeepsMem.meM : M.KeepsMem Machine.meM := by
  intro s b t hs h; simp only [M.meM_apply, Except.ok.injEq, Prod.mk.injEq] at h; rw [← h.2]; exact hs

theorem M.KeepsMem.change {f : State → State} (hf : ∀ s, Memory.wf s.mem = true → Memory.wf (f s).mem = true) :
    M.KeepsMem (Machine.change f) := by
  intro s b t hs h; simp only [M.change_apply, Except.ok.injEq, Prod.mk.injEq] at h; rw [← h.2]; exact hf s hs

theorem M.KeepsMem.changeMe (f : Core → Core) : M.KeepsMem (Machine.changeMe f) :=
  M.KeepsMem.change (fun _ hs => hs)

theorem M.KeepsMem.bind {α β : Type} {x : M α} {f : α → M β} (hx : M.KeepsMem x) (hf : ∀ a, M.KeepsMem (f a)) :
    M.KeepsMem (x >>= f) := by
  intro s b t hs h
  obtain ⟨a, u, h1, h2⟩ := M.bind_ok_iff.mp h
  exact hf a u b t (hx s a u hs h1) h2

/-- An instruction whose body and ending keep memory canonical keeps it, whether it completes, traps or waits. -/
theorem run_keepsMem {α : Type} {i : Instr} {body : M α} {fin : α → State → State} {s t : State} (hb : M.KeepsMem body)
    (hf : ∀ a u, Memory.wf u.mem = true → Memory.wf (fin a u).mem = true) (hs : Memory.wf s.mem = true)
    (h : run i body fin s = .next t) : Memory.wf t.mem = true := by
  obtain ⟨_, a, u, h1, rfl⟩ | ⟨c, v, rfl⟩ | ⟨k, rd, rfl⟩ := run_cases h
  · exact hf a u (hb s a u hs h1)
  · simpa using hs
  · simpa using hs

/-- The same for an instruction that goes on at pc + 4. -/
theorem runI_keepsMem {i : Instr} {body : M Unit} {s t : State} (hb : M.KeepsMem body) (hs : Memory.wf s.mem = true)
    (h : runI i body s = .next t) : Memory.wf t.mem = true :=
  run_keepsMem (fin := fun _ u => u.retire) hb (fun _ _ hu => hu) hs h

/-- The same for a branch or jump. -/
theorem runJ_keepsMem {i : Instr} {body : M Word} {s t : State} (hb : M.KeepsMem body) (hs : Memory.wf s.mem = true)
    (h : runJ i body s = .next t) : Memory.wf t.mem = true :=
  run_keepsMem (fin := fun w u => u.retireTo w) hb (fun _ _ hu => hu) hs h

/-- Delivering a word to a port keeps memory canonical. -/
theorem State.portDeliver_wf (s : State) (core q : Nat) (w : Word) (hs : Memory.wf s.mem = true) :
    Memory.wf (s.portDeliver core q w).mem = true := by
  unfold State.portDeliver; dsimp only; split
  · exact hs
  · split
    · simpa using hs
    · exact State.writeMem_wf (by simpa using hs)

/-- Taking a word from a receive queue changes no byte of memory. -/
theorem State.portTake_mem {s t : State} {q : Nat} {w : Word} (h : s.portTake q = some (w, t)) : t.mem = s.mem := by
  unfold State.portTake at h
  split at h
  · split at h
    · cases h
    · simp only [Option.some.injEq, Prod.mk.injEq] at h; rw [← h.2]
  · cases h

/-- Reading a register as an operand keeps memory canonical. -/
theorem portRead_keepsMem (n : Nat) : M.KeepsMem (portRead n) := by
  intro s w t hs h
  have key : ∀ x : M Word, (x = match s.portTake (n - 24) with
      | none => (Machine.stall (.portRead n) : M Word)
      | some (w, s') => (do Machine.change (fun _ => s'); Pure.pure w)) → x s = .ok (w, t) → Memory.wf t.mem = true := by
    rintro x rfl h
    cases hx : s.portTake (n - 24) with
    | none => rw [hx] at h; cases h
    | some p =>
      rw [hx] at h
      simp only [M.bind_change, M.pure_apply, Except.ok.injEq, Prod.mk.injEq] at h
      rw [← h.2, State.portTake_mem (t := p.2) (w := p.1) hx]; exact hs
  unfold portRead at h
  simp only [M.bind_look] at h
  by_cases hn : n < 28
  · cases hb : neighbour s.me.id (n - 24) with
    | none => simp only [hn, hb, if_true] at h; cases h
    | some m =>
      by_cases ho : s.partnerOk m = true
      · simp only [hn, hb, ho, if_true] at h; exact key _ rfl h
      · simp only [hn, hb, ho, if_true] at h; cases h
  · simp only [hn, if_false] at h; exact key _ rfl h

theorem pendingCheck_keepsMem (n : Nat) : M.KeepsMem (pendingCheck n) := by
  intro s w t hs h
  unfold pendingCheck at h
  simp only [M.bind_meM] at h
  by_cases hc : s.me.pendingRegs.contains (s.me.bankReg n) = true
  · rw [if_pos hc] at h
    by_cases hb : s.me.batchArrived = true
    · rw [if_pos hb] at h; cases h
    · rw [if_neg hb] at h; cases h
  · rw [if_neg hc] at h
    simp only [M.pure_apply, Except.ok.injEq, Prod.mk.injEq] at h; rw [← h.2]; exact hs

theorem readReg_keepsMem (r : BitVec 5) : M.KeepsMem (readReg r) := by
  unfold readReg
  refine M.KeepsMem.bind M.KeepsMem.meM (fun c => ?_)
  split
  · exact portRead_keepsMem _
  · exact M.KeepsMem.bind (pendingCheck_keepsMem _) (fun _ => M.KeepsMem.pure _)

/-- Looking up a port's partner changes nothing. -/
theorem portPartner_keepsMem (n : Nat) : M.KeepsMem (portPartner n) := by
  unfold portPartner
  refine M.KeepsMem.bind M.KeepsMem.look (fun s => ?_)
  split
  · exact M.KeepsMem.trap _ _
  · split
    · exact M.KeepsMem.pure _
    · exact M.KeepsMem.trap _ _

/-- Writing a register as a destination keeps memory canonical. -/
theorem writeReg_keepsMem (r : BitVec 5) (w : Word) : M.KeepsMem (writeReg r w) := by
  unfold writeReg
  refine M.KeepsMem.bind M.KeepsMem.meM (fun c => ?_)
  split
  · unfold portWrite
    refine M.KeepsMem.bind (portPartner_keepsMem _) (fun p => M.KeepsMem.bind M.KeepsMem.look (fun s => ?_))
    split
    · exact M.KeepsMem.stall _ _
    · split
      · exact M.KeepsMem.stall _ _
      · exact M.KeepsMem.change (fun u hu => State.portDeliver_wf u _ _ _ hu)
  · exact M.KeepsMem.bind (pendingCheck_keepsMem _) (fun _ => M.KeepsMem.changeMe _)

end Sys2Proof.Machine
end

