-- ==== Sys2Proof/Laws/Link.lean ====
section
/-!
SUPPORT. What a flit made with its CRC holds: the bits it was made from, and a CRC that a receiver finds right (R153,
R155, R156).
-/
namespace Sys2Proof.Machine

open Sys2Proof

/-- The CRC depends on bits 255 to 24 alone. -/
theorem flitCrc_congr {f g : BitVec 256} (h : ∀ k, 24 ≤ k → f.getLsbD k = g.getLsbD k) : flitCrc f = flitCrc g := by
  unfold flitCrc
  refine List.foldl_ext _ _ _ (fun c i hi => ?_)
  rw [h (255 - i) (by have := List.mem_range.mp hi; omega)]

/-- A flit without its CRC. -/
def flitTop (body : BitVec 224) (ctl : Bool) (seq : Nat) : BitVec 256 :=
  (body ++ (BitVec.ofBool ctl) ++ BitVec.ofNat 7 seq) ++ (0 : BitVec 24)

theorem mkFlit_eq (body : BitVec 224) (ctl : Bool) (seq : Nat) :
    mkFlit body ctl seq = flitTop body ctl seq ||| (flitCrc (flitTop body ctl seq)).zeroExtend 256 := rfl

/-- Above the CRC, a flit is what it was made from. -/
theorem mkFlit_getLsbD (body : BitVec 224) (ctl : Bool) (seq k : Nat) (h : 24 ≤ k) :
    (mkFlit body ctl seq).getLsbD k = (flitTop body ctl seq).getLsbD k := by
  rw [mkFlit_eq, BitVec.getLsbD_or, BitVec.zeroExtend_eq_setWidth, BitVec.getLsbD_setWidth, BitVec.getLsbD_of_ge _ _ h]
  simp

theorem mkFlit_extract (body : BitVec 224) (ctl : Bool) (seq lo n : Nat) (h : 24 ≤ lo) :
    (mkFlit body ctl seq).extractLsb' lo n = (flitTop body ctl seq).extractLsb' lo n := by
  apply BitVec.eq_of_getLsbD_eq
  intro i hi
  simp only [BitVec.getLsbD_extractLsb', mkFlit_getLsbD body ctl seq (lo + i) (by omega)]

/-- A flit carries its CRC. -/
theorem mkFlit_crc (body : BitVec 224) (ctl : Bool) (seq : Nat) :
    (mkFlit body ctl seq).extractLsb' 0 24 = flitCrc (mkFlit body ctl seq) := by
  rw [flitCrc_congr (fun k hk => mkFlit_getLsbD body ctl seq k hk)]
  apply BitVec.eq_of_getLsbD_eq
  intro i hi
  rw [mkFlit_eq]
  have hz : (flitTop body ctl seq).getLsbD i = false := by
    unfold flitTop
    rw [BitVec.getLsbD_append]
    simp [hi]
  simp only [BitVec.getLsbD_extractLsb', hi, decide_true, Bool.true_and, Nat.zero_add, BitVec.getLsbD_or, hz, Bool.false_or,
    BitVec.zeroExtend_eq_setWidth, BitVec.getLsbD_setWidth]
  simp; omega

/-- A flit passes the receiver's check (R156). -/
theorem crcOk_mkFlit (body : BitVec 224) (ctl : Bool) (seq : Nat) : crcOk (mkFlit body ctl seq) = true :=
  beq_iff_eq.mpr (mkFlit_crc body ctl seq)

end Sys2Proof.Machine
end

