-- ==== Sys2Proof/Tests/Slice0.lean ====
section
/-!
SUPPORT. Tests: the checks of WellFormed with an ill-formed term each, words written out from the spec's encodings, single
steps on small states, and for every statement a state and operands that meet its hypotheses.
-/
namespace Sys2Proof.Tests

set_option Elab.async false

open Sys2Proof Sys2Proof.Machine Sys2Proof.Claims

/-! ## Small states -/

/-- What a next state must pass; a fault or a refusal passes nothing. -/
def ends (o : Host.Outcome State Fault Refusal) (f : State → Bool) : Bool :=
  match o with
  | .next t => f t
  | .fault _ => false
  | .refused _ => false

/-- The value of a body that goes on. -/
def okWith {α : Type} (x : Except Stop (α × State)) (f : α → State → Bool) : Bool :=
  match x with
  | .ok (a, t) => f a t
  | .error _ => false

/-- A body that stops as said. -/
def stopsWith {α : Type} (x : Except Stop (α × State)) (e : Stop) : Bool :=
  match x with
  | .ok _ => false
  | .error e' => e' == e

/-- The boot is over and core 0 runs at supervisor level at pc 0, whose page it may read, write and execute. -/
def base : State := State.reset.withFetchWord 32 0

/-- General registers set. -/
def regs (l : List (Nat × Word)) (s : State) : State := s.updMe (fun c => l.foldl (fun c x => c.setGpr x.1 x.2) c)

/-- A unit of a launch of context 1 that holds channels 0 and 5. -/
def unit0 : UnitCfg where
  launch := ⟨1, 1, 1, 1⟩
  ctx := 1
  unit := 0
  nunits := 2
  gangSize := 1
  gangPos := 0
  gang := []
  det := false
  tilerec := 0
  tileslice := 0
  privKiB := 64
  sharedKiB := 64
  accKiB := 32
  kerfKiB := 4
  weight := 1
  ports := 0
  channels := [0, 5]

/-- Core 0 runs a unit at user level under context 1. -/
def user : State := base.updMe (fun c =>
  { c with super := false, unit := some unit0, sup := { c.sup with ctxid := 1 } })

/-- The answer is this next state. -/
def nexts (o : Host.Outcome State Fault Refusal) (t : State) : Bool := ends o (fun u => u == t)

/-- The answer of an instruction is this stop of it. -/
def stopped (i : Instr) (s : State) (x : Stop) : Bool := nexts (exec i s) (s.stopped i x)

/-- A core of the launch of unit 0, running unit 1 under context 1. -/
def mate (n : Nat) : Core :=
  { Core.fresh n with run := .running, unit := some { unit0 with unit := 1 }, sup := { SupRegs.reset with ctxid := 1 } }

/-- Core 0 runs a unit, with ports 1 (east), 2 (south) and 4 mapped; core 1 runs its launch's other unit; context 1 owns
page 0 of die 0's shared memory. -/
def duo : State :=
  { user.updMe (fun c => { c with user := { c.user with portmap := 0x116 }, unit := some { unit0 with ports := 4 } }) with
    others := [(1, mate 1)]
    pageOwner := [(0, 1)] }

/-- Words in a receive queue. -/
def queue (j : Nat) (q : PortQueue) (s : State) : State := s.updMe (fun c => { c with ports := c.ports.setIfInBounds j q })

/-- Bytes of memory. -/
def bytesAt (k : Nat) (bs : List Byte) (s : State) : State := { s with mem := Memory.writeBytes s.mem k bs }

/-- Deterministic mode. -/
def det (s : State) : State := s.updMe (fun c => { c with unit := c.unit.map (fun u => { u with det := true }) })

/-! ## Words of the manual: each decodes to its instruction, which encodes to it -/

/-- Scalar ALU (R233 to R235), decoded. -/
theorem test_decode_scalar :
    decode 0x04A60017 = .ok (.clz 5 6) ∧ decode 0x04A60018 = .ok (.ctz 5 6) ∧ decode 0x04A60019 = .ok (.popc 5 6) ∧
    decode 0x04A6001C = .ok (.bswap 5 6) ∧ decode 0x04A6081A = .ok (.sext 5 6 1) ∧ decode 0x04A6101B = .ok (.zext 5 6 2) ∧
    decode 0x04A63800 = .ok (.add 5 6 7) ∧ decode 0x04A63801 = .ok (.sub 5 6 7) ∧ decode 0x04A63802 = .ok (.and 5 6 7) ∧
    decode 0x04A63803 = .ok (.or 5 6 7) ∧ decode 0x04A63804 = .ok (.xor 5 6 7) ∧ decode 0x04A63805 = .ok (.andn 5 6 7) ∧
    decode 0x04A63806 = .ok (.sll 5 6 7) ∧ decode 0x04A63807 = .ok (.srl 5 6 7) ∧ decode 0x04A63808 = .ok (.sra 5 6 7) ∧
    decode 0x04A63809 = .ok (.ror 5 6 7) ∧ decode 0x04A6380A = .ok (.slt 5 6 7) ∧ decode 0x04A6380B = .ok (.sltu 5 6 7) ∧
    decode 0x04A6380C = .ok (.min 5 6 7) ∧ decode 0x04A6380D = .ok (.max 5 6 7) ∧ decode 0x04A6380E = .ok (.minu 5 6 7) ∧
    decode 0x04A6380F = .ok (.maxu 5 6 7) ∧ decode 0x04A63810 = .ok (.mul 5 6 7) ∧ decode 0x04A63811 = .ok (.mulh 5 6 7) ∧
    decode 0x04A63812 = .ok (.mulhu 5 6 7) ∧ decode 0x04A63813 = .ok (.div 5 6 7) ∧ decode 0x04A63814 = .ok (.divu 5 6 7) ∧
    decode 0x04A63815 = .ok (.rem 5 6 7) ∧ decode 0x04A63816 = .ok (.remu 5 6 7) ∧ decode 0x04C5381D = .ok (.sel 6 5 7) := by decide +kernel

/-- Scalar ALU (R233 to R235), encoded. -/
theorem test_encode_scalar :
    encode (.clz 5 6) = some 0x04A60017 ∧ encode (.ctz 5 6) = some 0x04A60018 ∧ encode (.popc 5 6) = some 0x04A60019 ∧
    encode (.bswap 5 6) = some 0x04A6001C ∧ encode (.sext 5 6 1) = some 0x04A6081A ∧ encode (.zext 5 6 2) = some 0x04A6101B ∧
    encode (.add 5 6 7) = some 0x04A63800 ∧ encode (.sub 5 6 7) = some 0x04A63801 ∧ encode (.and 5 6 7) = some 0x04A63802 ∧
    encode (.or 5 6 7) = some 0x04A63803 ∧ encode (.xor 5 6 7) = some 0x04A63804 ∧ encode (.andn 5 6 7) = some 0x04A63805 ∧
    encode (.sll 5 6 7) = some 0x04A63806 ∧ encode (.srl 5 6 7) = some 0x04A63807 ∧ encode (.sra 5 6 7) = some 0x04A63808 ∧
    encode (.ror 5 6 7) = some 0x04A63809 ∧ encode (.slt 5 6 7) = some 0x04A6380A ∧ encode (.sltu 5 6 7) = some 0x04A6380B ∧
    encode (.min 5 6 7) = some 0x04A6380C ∧ encode (.max 5 6 7) = some 0x04A6380D ∧ encode (.minu 5 6 7) = some 0x04A6380E ∧
    encode (.maxu 5 6 7) = some 0x04A6380F ∧ encode (.mul 5 6 7) = some 0x04A63810 ∧ encode (.mulh 5 6 7) = some 0x04A63811 ∧
    encode (.mulhu 5 6 7) = some 0x04A63812 ∧ encode (.div 5 6 7) = some 0x04A63813 ∧ encode (.divu 5 6 7) = some 0x04A63814 ∧
    encode (.rem 5 6 7) = some 0x04A63815 ∧ encode (.remu 5 6 7) = some 0x04A63816 ∧ encode (.sel 6 5 7) = some 0x04C5381D := by decide +kernel

/-- Immediates, shifts, LUI and INSH (R236 to R238), decoded. -/
theorem test_decode_immediate :
    decode 0x08A5FFFF = .ok (.addi 5 5 0xFFFF) ∧ decode 0x0CC5003F = .ok (.andi 6 5 63) ∧ decode 0x10A01000 = .ok (.ori 5 0 0x1000) ∧
    decode 0x14A50001 = .ok (.xori 5 5 1) ∧ decode 0x18E50020 = .ok (.slli 7 5 32) ∧ decode 0x18E54020 = .ok (.srli 7 5 32) ∧
    decode 0x18E58020 = .ok (.srai 7 5 32) ∧ decode 0x18E5C020 = .ok (.rori 7 5 32) ∧ decode 0x1CC50064 = .ok (.slti 6 5 0x64) ∧
    decode 0x20C50001 = .ok (.sltui 6 5 1) ∧ decode 0x24A08001 = .ok (.lui 5 0x8001) ∧ decode 0x28A38001 = .ok (.insh 5 3 0x8001) := by decide +kernel

/-- Immediates, shifts, LUI and INSH (R236 to R238), encoded. -/
theorem test_encode_immediate :
    encode (.addi 5 5 0xFFFF) = some 0x08A5FFFF ∧ encode (.andi 6 5 63) = some 0x0CC5003F ∧ encode (.ori 5 0 0x1000) = some 0x10A01000 ∧
    encode (.xori 5 5 1) = some 0x14A50001 ∧ encode (.slli 7 5 32) = some 0x18E50020 ∧ encode (.srli 7 5 32) = some 0x18E54020 ∧
    encode (.srai 7 5 32) = some 0x18E58020 ∧ encode (.rori 7 5 32) = some 0x18E5C020 ∧ encode (.slti 6 5 0x64) = some 0x1CC50064 ∧
    encode (.sltui 6 5 1) = some 0x20C50001 ∧ encode (.lui 5 0x8001) = some 0x24A08001 ∧ encode (.insh 5 3 0x8001) = some 0x28A38001 := by decide +kernel

/-- Loads and stores (R240, R242), decoded. -/
theorem test_decode_loads :
    decode 0x2CA60000 = .ok (.lb 5 6 0) ∧ decode 0x2CA62002 = .ok (.lh 5 6 2) ∧ decode 0x2CA68003 = .ok (.lbu 5 6 3) ∧
    decode 0x2CA6A002 = .ok (.lhu 5 6 2) ∧ decode 0x2CA6C004 = .ok (.lwu 5 6 4) ∧ decode 0x2CEA4000 = .ok (.lw 7 10 0) ∧
    decode 0x2D056010 = .ok (.ld 8 5 16) ∧ decode 0x30E51FFF = .ok (.sb 7 5 0x1FFF) ∧ decode 0x30E52002 = .ok (.sh 7 5 2) ∧
    decode 0x30E66028 = .ok (.sd 7 6 40) ∧ decode 0x31494000 = .ok (.sw 10 9 0) := by decide +kernel

/-- Loads and stores (R240, R242), encoded. -/
theorem test_encode_loads :
    encode (.lb 5 6 0) = some 0x2CA60000 ∧ encode (.lh 5 6 2) = some 0x2CA62002 ∧ encode (.lbu 5 6 3) = some 0x2CA68003 ∧
    encode (.lhu 5 6 2) = some 0x2CA6A002 ∧ encode (.lwu 5 6 4) = some 0x2CA6C004 ∧ encode (.lw 7 10 0) = some 0x2CEA4000 ∧
    encode (.ld 8 5 16) = some 0x2D056010 ∧ encode (.sb 7 5 0x1FFF) = some 0x30E51FFF ∧ encode (.sh 7 5 2) = some 0x30E52002 ∧
    encode (.sd 7 6 40) = some 0x30E66028 ∧ encode (.sw 10 9 0) = some 0x31494000 := by decide +kernel

/-- LDA, STL, FENCE and the atomics (R263 to R269), decoded. -/
theorem test_decode_ordered :
    decode 0x3400023F = .ok (.fence 3 1 1 1 1) ∧ decode 0x34000245 = .ok (.fence 4 0 1 0 1) ∧ decode 0x34063930 = .ok (.stlW 6 7 3) ∧
    decode 0x34063990 = .ok (.stlD 6 7 1) ∧ decode 0x34A60040 = .ok (.ldaW 5 6 4) ∧ decode 0x35060090 = .ok (.ldaD 8 6 1) ∧
    decode 0x38063881 = .ok (.amoOr 0 6 7 0 0 1) ∧ decode 0x38063B03 = .ok (.amoFadd 0 6 7 0 0 3) ∧ decode 0x38A63875 = .ok (.amoAnd 5 6 7 1 2 5) ∧
    decode 0x38A638CC = .ok (.amoXor 5 6 7 0 1 4) ∧ decode 0x38A6393B = .ok (.amoMin 5 6 7 1 3 3) ∧ decode 0x38A63940 = .ok (.amoMax 5 6 7 0 0 0) ∧
    decode 0x38A639A2 = .ok (.amoMinu 5 6 7 1 0 2) ∧ decode 0x38A639E1 = .ok (.amoMaxu 5 6 7 1 0 1) ∧
    decode 0x38A63A3C = .ok (.amoSwap 5 6 7 1 3 4) ∧ decode 0x38A63A81 = .ok (.amoIncb 5 6 7 0 0 1) ∧
    decode 0x38A63AF3 = .ok (.amoAddt 5 6 7 1 2 3) ∧ decode 0x39063823 = .ok (.amoAdd 8 6 7 1 0 3) ∧
    decode 0x39064B6B = .ok (.amoWaitw 8 6 9 1 1 3) ∧ decode 0x3906526B = .ok (.amoCas 8 6 10 1 1 3) := by decide +kernel

/-- LDA, STL, FENCE and the atomics (R263 to R269), encoded. -/
theorem test_encode_ordered :
    encode (.fence 3 1 1 1 1) = some 0x3400023F ∧ encode (.fence 4 0 1 0 1) = some 0x34000245 ∧ encode (.stlW 6 7 3) = some 0x34063930 ∧
    encode (.stlD 6 7 1) = some 0x34063990 ∧ encode (.ldaW 5 6 4) = some 0x34A60040 ∧ encode (.ldaD 8 6 1) = some 0x35060090 ∧
    encode (.amoOr 0 6 7 0 0 1) = some 0x38063881 ∧ encode (.amoFadd 0 6 7 0 0 3) = some 0x38063B03 ∧
    encode (.amoAnd 5 6 7 1 2 5) = some 0x38A63875 ∧ encode (.amoXor 5 6 7 0 1 4) = some 0x38A638CC ∧
    encode (.amoMin 5 6 7 1 3 3) = some 0x38A6393B ∧ encode (.amoMax 5 6 7 0 0 0) = some 0x38A63940 ∧
    encode (.amoMinu 5 6 7 1 0 2) = some 0x38A639A2 ∧ encode (.amoMaxu 5 6 7 1 0 1) = some 0x38A639E1 ∧
    encode (.amoSwap 5 6 7 1 3 4) = some 0x38A63A3C ∧ encode (.amoIncb 5 6 7 0 0 1) = some 0x38A63A81 ∧
    encode (.amoAddt 5 6 7 1 2 3) = some 0x38A63AF3 ∧ encode (.amoAdd 8 6 7 1 0 3) = some 0x39063823 ∧
    encode (.amoWaitw 8 6 9 1 1 3) = some 0x39064B6B ∧ encode (.amoCas 8 6 10 1 1 3) = some 0x3906526B := by decide +kernel

/-- Branches and jumps (R243 to R245), decoded. -/
theorem test_decode_branches :
    decode 0x3CA61FFF = .ok (.beq 5 6 0x1FFF) ∧ decode 0x3CA63FFF = .ok (.bne 5 6 0x1FFF) ∧ decode 0x3CA65FFF = .ok (.blt 5 6 0x1FFF) ∧
    decode 0x3CA67FFF = .ok (.bge 5 6 0x1FFF) ∧ decode 0x3CA69FFF = .ok (.bltu 5 6 0x1FFF) ∧ decode 0x3CA6BFFF = .ok (.bgeu 5 6 0x1FFF) ∧
    decode 0x42000001 = .ok (.j 0x2000001) ∧ decode 0x47FFFFFF = .ok (.jal 0x3FFFFFF) ∧ decode 0x4829FFFC = .ok (.jalr 1 9 0xFFFC) := by decide +kernel

/-- Branches and jumps (R243 to R245), encoded. -/
theorem test_encode_branches :
    encode (.beq 5 6 0x1FFF) = some 0x3CA61FFF ∧ encode (.bne 5 6 0x1FFF) = some 0x3CA63FFF ∧ encode (.blt 5 6 0x1FFF) = some 0x3CA65FFF ∧
    encode (.bge 5 6 0x1FFF) = some 0x3CA67FFF ∧ encode (.bltu 5 6 0x1FFF) = some 0x3CA69FFF ∧ encode (.bgeu 5 6 0x1FFF) = some 0x3CA6BFFF ∧
    encode (.j 0x2000001) = some 0x42000001 ∧ encode (.jal 0x3FFFFFF) = some 0x47FFFFFF ∧ encode (.jalr 1 9 0xFFFC) = some 0x4829FFFC := by decide +kernel

/-- CSR and system instructions (R248, R254), decoded. -/
theorem test_decode_system :
    decode 0x4C050011 = .ok (.csrw 5 1) ∧ decode 0x4C050023 = .ok (.csrc 5 2) ∧ decode 0x4C0502C2 = .ok (.csrs 5 44) ∧
    decode 0x4CA00030 = .ok (.csrr 5 3) ∧ decode 0x50000000 = .ok .ecall ∧ decode 0x50000001 = .ok (.ebreak) ∧ decode 0x50000002 = .ok (.sret) ∧
    decode 0x50000003 = .ok (.uiret) ∧ decode 0x50000004 = .ok (.yield) ∧ decode 0x50000005 = .ok (.idle) ∧ decode 0x50000006 = .ok (.mark) ∧
    decode 0x50000007 = .ok (.split) ∧ decode 0x50000008 = .ok (.fuse) ∧ decode 0x50000009 = .ok (.exit) ∧ decode 0x5000000A = .ok (.ifence) := by decide +kernel

/-- CSR and system instructions (R248, R254), encoded. -/
theorem test_encode_system :
    encode (.csrw 5 1) = some 0x4C050011 ∧ encode (.csrc 5 2) = some 0x4C050023 ∧ encode (.csrs 5 44) = some 0x4C0502C2 ∧
    encode (.csrr 5 3) = some 0x4CA00030 ∧ encode .ecall = some 0x50000000 ∧ encode (.ebreak) = some 0x50000001 ∧ encode (.sret) = some 0x50000002 ∧
    encode (.uiret) = some 0x50000003 ∧ encode (.yield) = some 0x50000004 ∧ encode (.idle) = some 0x50000005 ∧ encode (.mark) = some 0x50000006 ∧
    encode (.split) = some 0x50000007 ∧ encode (.fuse) = some 0x50000008 ∧ encode (.exit) = some 0x50000009 ∧ encode (.ifence) = some 0x5000000A := by decide +kernel

/-- Barriers, ranges and versioned registers (R270 to R277), decoded. -/
theorem test_decode_sync :
    decode 0x5400001F = .ok (.arrive 31) ∧ decode 0x54000107 = .ok (.arriveG 7) ∧ decode 0x54000506 = .ok (.bcancel 6) ∧
    decode 0x54090406 = .ok (.expect 9 6) ∧ decode 0x54A00206 = .ok (.wait 5 6) ∧ decode 0x54A00306 = .ok (.btest 5 6) ∧
    decode 0x58050230 = .ok (.vsrw 5 3) ∧ decode 0x58A00131 = .ok (.vsrr 5 3 1) ∧ decode 0x59450000 = .ok (.rtake 10 5) := by decide +kernel

/-- Barriers, ranges and versioned registers (R270 to R277), encoded. -/
theorem test_encode_sync :
    encode (.arrive 31) = some 0x5400001F ∧ encode (.arriveG 7) = some 0x54000107 ∧ encode (.bcancel 6) = some 0x54000506 ∧
    encode (.expect 9 6) = some 0x54090406 ∧ encode (.wait 5 6) = some 0x54A00206 ∧ encode (.btest 5 6) = some 0x54A00306 ∧
    encode (.vsrw 5 3) = some 0x58050230 ∧ encode (.vsrr 5 3 1) = some 0x58A00131 ∧ encode (.rtake 10 5) = some 0x59450000 := by decide +kernel

/-- Queues and waves (R278, R280), decoded. -/
theorem test_decode_queues :
    decode 0x5C080000 = .ok (.enq 8 0) ∧ decode 0x5C090102 = .ok (.enqm 9 2) ∧ decode 0x5C0C0001 = .ok (.enq 12 1) ∧
    decode 0x5CA00302 = .ok (.qwait 5 0 2) ∧ decode 0x5CA90200 = .ok (.qstat 5 9 0 0) ∧ decode 0x5CA90300 = .ok (.qwait 5 9 0) ∧
    decode 0x60053000 = .ok (.cput 5 6) ∧ decode 0x60E03100 = .ok (.cget 7 6) ∧ decode 0x60E03200 = .ok (.ctest 7 6) := by decide +kernel

/-- Queues and waves (R278, R280), encoded. -/
theorem test_encode_queues :
    encode (.enq 8 0) = some 0x5C080000 ∧ encode (.enqm 9 2) = some 0x5C090102 ∧ encode (.enq 12 1) = some 0x5C0C0001 ∧
    encode (.qwait 5 0 2) = some 0x5CA00302 ∧ encode (.qstat 5 9 0 0) = some 0x5CA90200 ∧ encode (.qwait 5 9 0) = some 0x5CA90300 ∧
    encode (.cput 5 6) = some 0x60053000 ∧ encode (.cget 7 6) = some 0x60E03100 ∧ encode (.ctest 7 6) = some 0x60E03200 := by decide +kernel

/-- Vector floating point (R282 to R294), decoded. -/
theorem test_decode_vector_fp :
    decode 0x8022184A = .ok (.vfadd 1 2 3 1 0 1 0 2) ∧ decode 0x80221920 = .ok (.vfsub 1 2 3 0 2 0 0 0) ∧
    decode 0x80221B30 = .ok (.vfdiv 1 2 3 0 3 0 0 0) ∧ decode 0x80221C00 = .ok (.vfmin 1 2 3 0 0 0 0) ∧
    decode 0x80221D00 = .ok (.vfmax 1 2 3 0 0 0 0) ∧ decode 0x80853210 = .ok (.vfmul 4 5 6 0 1 0 0 0) ∧
    decode 0x80E80601 = .ok (.vfsqrt 7 8 0 0 0 0 1) ∧ decode 0x812A0703 = .ok (.vfsgn 9 10 0 0 0 3) ∧
    decode 0x84221800 = .ok (.vfma 1 2 3 0 0 0 0 0) ∧ decode 0x84221910 = .ok (.vfms 1 2 3 0 1 0 0 0) ∧
    decode 0x84221A00 = .ok (.vfnma 1 2 3 0 0 0 0 0) ∧ decode 0x84850400 = .ok (.vfrcp 4 5 0 0 0 0 0) ∧
    decode 0x84850600 = .ok (.vfexp2 4 5 0 0 0 0 0) ∧ decode 0x84850700 = .ok (.vflog2 4 5 0 0 0 0 0) ∧
    decode 0x84C70510 = .ok (.vfrsq 6 7 0 1 0 0 0) ∧ decode 0x85095330 = .ok (.vfdot2 8 9 10 0 1 0 0 0) ∧
    decode 0x88221300 = .ok (.vfun 1 2 2 0 0 0) ∧ decode 0x88221800 = .ok (.vfeq 1 2 3 0 0 0) ∧ decode 0x88221C20 = .ok (.vfne 1 2 3 0 2 0) ∧
    decode 0x88432100 = .ok (.vflt 2 3 4 0 0 0) ∧ decode 0x88621A10 = .ok (.vfle 3 2 3 0 1 0) ∧ decode 0x88A60520 = .ok (.vfclass 5 6 0 2) := by decide +kernel

/-- Vector floating point (R282 to R294), encoded. -/
theorem test_encode_vector_fp :
    encode (.vfadd 1 2 3 1 0 1 0 2) = some 0x8022184A ∧ encode (.vfsub 1 2 3 0 2 0 0 0) = some 0x80221920 ∧
    encode (.vfdiv 1 2 3 0 3 0 0 0) = some 0x80221B30 ∧ encode (.vfmin 1 2 3 0 0 0 0) = some 0x80221C00 ∧
    encode (.vfmax 1 2 3 0 0 0 0) = some 0x80221D00 ∧ encode (.vfmul 4 5 6 0 1 0 0 0) = some 0x80853210 ∧
    encode (.vfsqrt 7 8 0 0 0 0 1) = some 0x80E80601 ∧ encode (.vfsgn 9 10 0 0 0 3) = some 0x812A0703 ∧
    encode (.vfma 1 2 3 0 0 0 0 0) = some 0x84221800 ∧ encode (.vfms 1 2 3 0 1 0 0 0) = some 0x84221910 ∧
    encode (.vfnma 1 2 3 0 0 0 0 0) = some 0x84221A00 ∧ encode (.vfrcp 4 5 0 0 0 0 0) = some 0x84850400 ∧
    encode (.vfexp2 4 5 0 0 0 0 0) = some 0x84850600 ∧ encode (.vflog2 4 5 0 0 0 0 0) = some 0x84850700 ∧
    encode (.vfrsq 6 7 0 1 0 0 0) = some 0x84C70510 ∧ encode (.vfdot2 8 9 10 0 1 0 0 0) = some 0x85095330 ∧
    encode (.vfun 1 2 2 0 0 0) = some 0x88221300 ∧ encode (.vfeq 1 2 3 0 0 0) = some 0x88221800 ∧ encode (.vfne 1 2 3 0 2 0) = some 0x88221C20 ∧
    encode (.vflt 2 3 4 0 0 0) = some 0x88432100 ∧ encode (.vfle 3 2 3 0 1 0) = some 0x88621A10 ∧ encode (.vfclass 5 6 0 2) = some 0x88A60520 := by decide +kernel

/-- Conversions (R297), decoded. -/
theorem test_decode_convert :
    decode 0x8C223480 = .ok (.vcvtE8F32 1 2 6 0 0 0) ∧ decode 0x8C430011 = .ok (.vcvtF32F64 2 3 1 0 0 1) ∧
    decode 0x8C430048 = .ok (.vcvtF64F32 2 3 0 1 0 0) ∧ decode 0x8C430090 = .ok (.vcvtF16F32 2 3 1 0 0 0) ∧
    decode 0x8C4300C4 = .ok (.vcvtF32F16 2 3 0 0 1 0) ∧ decode 0x8C430101 = .ok (.vcvtBf16F32 2 3 0 0 0 1) ∧
    decode 0x8C430170 = .ok (.vcvtF32Bf16 2 3 3 0 0 0) ∧ decode 0x8C4301C3 = .ok (.vcvtE5m2F32 2 3 0 0 0 3) ∧
    decode 0x8C430220 = .ok (.vcvtF32E4m3 2 3 2 0 0 0) ∧ decode 0x8C430242 = .ok (.vcvtF32E5m2 2 3 0 0 0 2) ∧
    decode 0x8C430341 = .ok (.vcvtF32I32 2 3 0 0 0 1) ∧ decode 0x8C430390 = .ok (.vcvtI64F64 2 3 1 0 0 0) ∧
    decode 0x8C4303C3 = .ok (.vcvtF64I64 2 3 0 0 0 3) ∧ decode 0x8C430460 = .ok (.vcvtI16I32 2 3 2) ∧
    decode 0x8C432AC8 = .ok (.vcvtF32E2m1 2 3 5 1 0 0) ∧ decode 0x8C444CC4 = .ok (.vcvtE4m3F32Bs 2 4 9 0 1 0) ∧
    decode 0x8C620A80 = .ok (.vcvtE2m1F32 3 2 1 0 0 0) ∧ decode 0x8C850180 = .ok (.vcvtE4m3F32 4 5 0 0 0 0) ∧
    decode 0x8CC70302 = .ok (.vcvtI32F32 6 7 0 0 0 2) ∧ decode 0x8CC70400 = .ok (.vcvtI8I32 6 7 0) ∧
    decode 0x8D440D00 = .ok (.vcvtF32E4m3Bs 10 4 1 0 0 0) := by decide +kernel

/-- Conversions (R297), encoded. -/
theorem test_encode_convert :
    encode (.vcvtE8F32 1 2 6 0 0 0) = some 0x8C223480 ∧ encode (.vcvtF32F64 2 3 1 0 0 1) = some 0x8C430011 ∧
    encode (.vcvtF64F32 2 3 0 1 0 0) = some 0x8C430048 ∧ encode (.vcvtF16F32 2 3 1 0 0 0) = some 0x8C430090 ∧
    encode (.vcvtF32F16 2 3 0 0 1 0) = some 0x8C4300C4 ∧ encode (.vcvtBf16F32 2 3 0 0 0 1) = some 0x8C430101 ∧
    encode (.vcvtF32Bf16 2 3 3 0 0 0) = some 0x8C430170 ∧ encode (.vcvtE5m2F32 2 3 0 0 0 3) = some 0x8C4301C3 ∧
    encode (.vcvtF32E4m3 2 3 2 0 0 0) = some 0x8C430220 ∧ encode (.vcvtF32E5m2 2 3 0 0 0 2) = some 0x8C430242 ∧
    encode (.vcvtF32I32 2 3 0 0 0 1) = some 0x8C430341 ∧ encode (.vcvtI64F64 2 3 1 0 0 0) = some 0x8C430390 ∧
    encode (.vcvtF64I64 2 3 0 0 0 3) = some 0x8C4303C3 ∧ encode (.vcvtI16I32 2 3 2) = some 0x8C430460 ∧
    encode (.vcvtF32E2m1 2 3 5 1 0 0) = some 0x8C432AC8 ∧ encode (.vcvtE4m3F32Bs 2 4 9 0 1 0) = some 0x8C444CC4 ∧
    encode (.vcvtE2m1F32 3 2 1 0 0 0) = some 0x8C620A80 ∧ encode (.vcvtE4m3F32 4 5 0 0 0 0) = some 0x8C850180 ∧
    encode (.vcvtI32F32 6 7 0 0 0 2) = some 0x8CC70302 ∧ encode (.vcvtI8I32 6 7 0) = some 0x8CC70400 ∧
    encode (.vcvtF32E4m3Bs 10 4 1 0 0 0) = some 0x8D440D00 := by decide +kernel

/-- Vector integers (R304), decoded. -/
theorem test_decode_vector_int :
    decode 0x90221808 = .ok (.vadd 1 2 3 0 2 0) ∧ decode 0x90221848 = .ok (.vsub 1 2 3 0 2 0) ∧ decode 0x90221888 = .ok (.vmul 1 2 3 0 2 0) ∧
    decode 0x902218C8 = .ok (.vmulh 1 2 3 0 2 0) ∧ decode 0x90221908 = .ok (.vmin 1 2 3 0 2 0) ∧ decode 0x90221948 = .ok (.vmax 1 2 3 0 2 0) ∧
    decode 0x90221988 = .ok (.vminu 1 2 3 0 2 0) ∧ decode 0x902219C8 = .ok (.vmaxu 1 2 3 0 2 0) ∧ decode 0x90221A08 = .ok (.vand 1 2 3 0 2 0) ∧
    decode 0x90221A48 = .ok (.vor 1 2 3 0 2 0) ∧ decode 0x90221A88 = .ok (.vxor 1 2 3 0 2 0) ∧ decode 0x90221AC8 = .ok (.vsll 1 2 3 0 2 0) ∧
    decode 0x90221B08 = .ok (.vsrl 1 2 3 0 2 0) ∧ decode 0x90221B48 = .ok (.vsra 1 2 3 0 2 0) ∧ decode 0x90221B88 = .ok (.vsadd 1 2 3 0 2 0) ∧
    decode 0x90221B94 = .ok (.vsadd 1 2 3 1 1 0) ∧ decode 0x90221BC8 = .ok (.vssub 1 2 3 0 2 0) ∧ decode 0x90221C00 = .ok (.vabsd 1 2 3 0 0 0) ∧
    decode 0x90221C08 = .ok (.vabsd 1 2 3 0 2 0) ∧ decode 0x90221C48 = .ok (.vcmpeq 1 2 3 0 2 0) ∧ decode 0x90221C88 = .ok (.vcmplt 1 2 3 0 2 0) ∧
    decode 0x90221CC8 = .ok (.vcmpltu 1 2 3 0 2 0) ∧ decode 0x9022FB46 = .ok (.vsra 1 2 31 0 1 2) ∧ decode 0x90851ACA = .ok (.vsll 4 5 3 0 2 2) ∧
    decode 0x9085388D = .ok (.vmul 4 5 7 0 3 1) := by decide +kernel

/-- Vector integers (R304), encoded. -/
theorem test_encode_vector_int :
    encode (.vadd 1 2 3 0 2 0) = some 0x90221808 ∧ encode (.vsub 1 2 3 0 2 0) = some 0x90221848 ∧ encode (.vmul 1 2 3 0 2 0) = some 0x90221888 ∧
    encode (.vmulh 1 2 3 0 2 0) = some 0x902218C8 ∧ encode (.vmin 1 2 3 0 2 0) = some 0x90221908 ∧ encode (.vmax 1 2 3 0 2 0) = some 0x90221948 ∧
    encode (.vminu 1 2 3 0 2 0) = some 0x90221988 ∧ encode (.vmaxu 1 2 3 0 2 0) = some 0x902219C8 ∧ encode (.vand 1 2 3 0 2 0) = some 0x90221A08 ∧
    encode (.vor 1 2 3 0 2 0) = some 0x90221A48 ∧ encode (.vxor 1 2 3 0 2 0) = some 0x90221A88 ∧ encode (.vsll 1 2 3 0 2 0) = some 0x90221AC8 ∧
    encode (.vsrl 1 2 3 0 2 0) = some 0x90221B08 ∧ encode (.vsra 1 2 3 0 2 0) = some 0x90221B48 ∧ encode (.vsadd 1 2 3 0 2 0) = some 0x90221B88 ∧
    encode (.vsadd 1 2 3 1 1 0) = some 0x90221B94 ∧ encode (.vssub 1 2 3 0 2 0) = some 0x90221BC8 ∧ encode (.vabsd 1 2 3 0 0 0) = some 0x90221C00 ∧
    encode (.vabsd 1 2 3 0 2 0) = some 0x90221C08 ∧ encode (.vcmpeq 1 2 3 0 2 0) = some 0x90221C48 ∧ encode (.vcmplt 1 2 3 0 2 0) = some 0x90221C88 ∧
    encode (.vcmpltu 1 2 3 0 2 0) = some 0x90221CC8 ∧ encode (.vsra 1 2 31 0 1 2) = some 0x9022FB46 ∧ encode (.vsll 4 5 3 0 2 2) = some 0x90851ACA ∧
    encode (.vmul 4 5 7 0 3 1) = some 0x9085388D := by decide +kernel

/-- Permutes and reductions (R308), decoded. -/
theorem test_decode_permute :
    decode 0x94200358 = .ok (.viota 1 1 2) ∧ decode 0x94202809 = .ok (.vbcast 1 5 0 2 1) ∧ decode 0x94220188 = .ok (.vredsum 1 2 0 2) ∧
    decode 0x942201C1 = .ok (.vredfsum 1 2 0 0 1) ∧ decode 0x94220208 = .ok (.vredmax 1 2 0 2) ∧ decode 0x94220248 = .ok (.vredmin 1 2 0 2) ∧
    decode 0x94220288 = .ok (.vscan 1 2 0 2) ∧ decode 0x942202D8 = .ok (.vcmpr 1 2 1 2) ∧ decode 0x942218C8 = .ok (.vperm 1 2 3 0 2) ∧
    decode 0x94221B28 = .ok (.vsel 1 2 3 2 2 0) ∧ decode 0x9422210A = .ok (.vsldn 1 2 4 0 2 2) ∧ decode 0x94223149 = .ok (.vslup 1 2 6 0 2 1) ∧
    decode 0x9425188A = .ok (.vins 1 5 3 0 2 2) ∧ decode 0x94A2184A = .ok (.vext 5 2 3 2 2) := by decide +kernel

/-- Permutes and reductions (R308), encoded. -/
theorem test_encode_permute :
    encode (.viota 1 1 2) = some 0x94200358 ∧ encode (.vbcast 1 5 0 2 1) = some 0x94202809 ∧ encode (.vredsum 1 2 0 2) = some 0x94220188 ∧
    encode (.vredfsum 1 2 0 0 1) = some 0x942201C1 ∧ encode (.vredmax 1 2 0 2) = some 0x94220208 ∧ encode (.vredmin 1 2 0 2) = some 0x94220248 ∧
    encode (.vscan 1 2 0 2) = some 0x94220288 ∧ encode (.vcmpr 1 2 1 2) = some 0x942202D8 ∧ encode (.vperm 1 2 3 0 2) = some 0x942218C8 ∧
    encode (.vsel 1 2 3 2 2 0) = some 0x94221B28 ∧ encode (.vsldn 1 2 4 0 2 2) = some 0x9422210A ∧ encode (.vslup 1 2 6 0 2 1) = some 0x94223149 ∧
    encode (.vins 1 5 3 0 2 2) = some 0x9425188A ∧ encode (.vext 5 2 3 2 2) = some 0x94A2184A := by decide +kernel

/-- Predicates (R311), decoded. -/
theorem test_decode_predicate :
    decode 0x98202989 = .ok (.pset 1 5 2 1) ∧ decode 0x982200C0 = .ok (.pnot 1 2 0 0) ∧ decode 0x98221800 = .ok (.pand 1 2 3 0 0) ∧
    decode 0x98221840 = .ok (.por 1 2 3 0 0) ∧ decode 0x98221880 = .ok (.pxor 1 2 3 0 0) ∧ decode 0x98A20108 = .ok (.pcnt 5 2 0 2) ∧
    decode 0x98A20148 = .ok (.pfirst 5 2 0 2) ∧ decode 0x98A201C0 = .ok (.pget 5 2) := by decide +kernel

/-- Predicates (R311), encoded. -/
theorem test_encode_predicate :
    encode (.pset 1 5 2 1) = some 0x98202989 ∧ encode (.pnot 1 2 0 0) = some 0x982200C0 ∧ encode (.pand 1 2 3 0 0) = some 0x98221800 ∧
    encode (.por 1 2 3 0 0) = some 0x98221840 ∧ encode (.pxor 1 2 3 0 0) = some 0x98221880 ∧ encode (.pcnt 5 2 0 2) = some 0x98A20108 ∧
    encode (.pfirst 5 2 0 2) = some 0x98A20148 ∧ encode (.pget 5 2) = some 0x98A201C0 := by decide +kernel

/-- Vector memory (R314), decoded. -/
theorem test_decode_vector_mem :
    decode 0x9C250020 = .ok (.vld 1 5 0 2 0) ∧ decode 0x9C250121 = .ok (.vst 1 5 0 2 1) ∧ decode 0x9C453230 = .ok (.vlds 2 5 6 0 3) ∧
    decode 0x9C453320 = .ok (.vsts 2 5 6 0 2) ∧ decode 0x9C652420 = .ok (.vgath 3 5 4 0 0) ∧ decode 0x9C652570 = .ok (.vscat 3 5 4 1 1) ∧
    decode 0x9CA50620 = .ok (.vldb 5 5 0 2 0) ∧ decode 0x9CC50721 = .ok (.vstaFadd 6 5 0 0) ∧ decode 0x9CC50770 = .ok (.vstaAdd 6 5 1 3) ∧
    decode 0x9CC50772 = .ok (.vstaMax 6 5 1 3) ∧ decode 0x9CC50773 = .ok (.vstaMin 6 5 1 3) := by decide +kernel

/-- Vector memory (R314), encoded. -/
theorem test_encode_vector_mem :
    encode (.vld 1 5 0 2 0) = some 0x9C250020 ∧ encode (.vst 1 5 0 2 1) = some 0x9C250121 ∧ encode (.vlds 2 5 6 0 3) = some 0x9C453230 ∧
    encode (.vsts 2 5 6 0 2) = some 0x9C453320 ∧ encode (.vgath 3 5 4 0 0) = some 0x9C652420 ∧ encode (.vscat 3 5 4 1 1) = some 0x9C652570 ∧
    encode (.vldb 5 5 0 2 0) = some 0x9CA50620 ∧ encode (.vstaFadd 6 5 0 0) = some 0x9CC50721 ∧ encode (.vstaAdd 6 5 1 3) = some 0x9CC50770 ∧
    encode (.vstaMax 6 5 1 3) = some 0x9CC50772 ∧ encode (.vstaMin 6 5 1 3) = some 0x9CC50773 := by decide +kernel

/-- The reversible class (R328), decoded. -/
theorem test_decode_reversible :
    decode 0xA0050300 = .ok (.kmark 5) ∧ decode 0xA0050340 = .ok (.kdrop 5) ∧ decode 0xA0221800 = .ok (.rmulf 1 2 3 0) ∧
    decode 0xA0221888 = .ok (.rmulq 1 2 3 0 8) ∧ decode 0xA0221A80 = .ok (.raddf 1 2 3 0) ∧ decode 0xA0411840 = .ok (.umulf 2 1 3 0) ∧
    decode 0xA04118C8 = .ok (.umulq 2 1 3 0 8) ∧ decode 0xA0411AC0 = .ok (.uaddf 2 1 3 0) ∧ decode 0xA0850103 = .ok (.rshra 4 5 0 3) ∧
    decode 0xA0A40143 = .ok (.ushra 5 4 0 3) ∧ decode 0xA0C70180 = .ok (.rnrw 6 7 0) ∧ decode 0xA0E00380 = .ok (.kchk 7) ∧
    decode 0xA0E601C0 = .ok (.unrw 7 6 0) ∧ decode 0xA1090210 = .ok (.rselz 8 9 1) ∧ decode 0xA1280250 = .ok (.uselz 9 8 1) := by decide +kernel

/-- The reversible class (R328), encoded. -/
theorem test_encode_reversible :
    encode (.kmark 5) = some 0xA0050300 ∧ encode (.kdrop 5) = some 0xA0050340 ∧ encode (.rmulf 1 2 3 0) = some 0xA0221800 ∧
    encode (.rmulq 1 2 3 0 8) = some 0xA0221888 ∧ encode (.raddf 1 2 3 0) = some 0xA0221A80 ∧ encode (.umulf 2 1 3 0) = some 0xA0411840 ∧
    encode (.umulq 2 1 3 0 8) = some 0xA04118C8 ∧ encode (.uaddf 2 1 3 0) = some 0xA0411AC0 ∧ encode (.rshra 4 5 0 3) = some 0xA0850103 ∧
    encode (.ushra 5 4 0 3) = some 0xA0A40143 ∧ encode (.rnrw 6 7 0) = some 0xA0C70180 ∧ encode (.kchk 7) = some 0xA0E00380 ∧
    encode (.unrw 7 6 0) = some 0xA0E601C0 ∧ encode (.rselz 8 9 1) = some 0xA1090210 ∧ encode (.uselz 9 8 1) = some 0xA1280250 := by decide +kernel

/-! ## Scalar instructions -/

/-- Two operands with their high bits set apart. -/
def alu0 : State := regs [(5, 0xFFFFFFFFFFFFFFF0), (6, 0x0123456789ABCDEF), (7, 0x13)] base

/-- R234, R235: each ALU instruction on -16 and 19. -/
theorem test_alu_table : alu0.me.plainReg 6 = true ∧ alu0.me.plainReg 5 = true ∧ alu0.me.plainReg 7 = true ∧
    aluTable.all (fun e => nexts (exec (e.1 6 5 7) alu0)
      (alu0.completes (fun c => c.withG 6 (e.2 0xFFFFFFFFFFFFFFF0 0x13)))) = true := by
  decide +kernel

/-- R235: by zero, and the most negative number by -1; never a trap. -/
theorem test_div_corners :
    (let s := regs [(5, 0x8000000000000000), (7, 0xFFFFFFFFFFFFFFFF)] base
     ends (exec (.div 6 5 7) s) (fun t => t.me.gpr 6 == 0x8000000000000000) &&
     ends (exec (.rem 6 5 7) s) (fun t => t.me.gpr 6 == 0) &&
     ends (exec (.div 6 5 0) s) (fun t => t.me.gpr 6 == 0xFFFFFFFFFFFFFFFF) &&
     ends (exec (.remu 6 5 0) s) (fun t => t.me.gpr 6 == 0x8000000000000000)) = true := by decide +kernel

/-- R236, R237: each one-source instruction; SEL both ways, LUI, INSH at each place. -/
theorem test_one_source : alu0.me.plainReg 6 = true ∧ alu0.me.plainReg 5 = true ∧ alu0.me.plainReg 0 = true ∧
    (unaryTable.all (fun e => nexts (exec (e.1 6 5 0x8003) alu0)
      (alu0.completes (fun c => c.withG 6 (e.2 0xFFFFFFFFFFFFFFF0 0x8003)))) &&
    ends (exec (.sel 6 5 7) alu0) (fun t => t.me.gpr 6 == 0xFFFFFFFFFFFFFFF0) &&
    ends (exec (.sel 0 5 7) alu0) (fun t => t.me.gpr 0 == 0) &&
    ends (exec (.sel 1 5 7) alu0) (fun t => t.me.gpr 1 == 0x13) &&
    ends (exec (.lui 6 0x8001) alu0) (fun t => t.me.gpr 6 == 0xFFFFFFFF80010000) &&
    ends (exec (.insh 6 3 0xBEEF) alu0) (fun t => t.me.gpr 6 == 0xBEEF456789ABCDEF) &&
    ends (exec (.insh 6 0 0xBEEF) alu0) (fun t => t.me.gpr 6 == 0x0123456789ABBEEF)) = true := by decide +kernel

/-- Witness of AluOperandsAreTakenInOrderInEveryForm: two port sources and a port destination; a source that waits, a
second source that traps, a destination that traps. -/
theorem witness_alu_forms :
    (let s := queue 1 ⟨[3], 0, 0⟩ (queue 2 ⟨[4], 0, 0⟩ (duo.updMe (fun c => { c with user := { c.user with chancfg := Vector.replicate 4 0x8001 } })))
     okWith (readReg 25 { s with others := [(1, mate 1), (4, mate 4)] }) (fun a u => okWith (readReg 26 u) (fun b v =>
       okWith (writeReg 28 (a + b) v) (fun _ t => a == 3 && b == 4 && nexts (exec (.add 28 25 26) { s with others := [(1, mate 1), (4, mate 4)] }) t.retire))) &&
     stopsWith (readReg 25 duo) (.stall (.portRead 25) 0) && stopped (.add 6 25 7) duo (.stall (.portRead 25) 0) &&
     okWith (readReg 5 s) (fun _ u => stopsWith (readReg 26 u) (.trap 3 26)) && stopped (.add 6 5 26) s (.trap 3 26) &&
     okWith (readReg 5 duo) (fun _ u => okWith (readReg 7 u) (fun _ v => stopsWith (writeReg 28 0 v) (.trap 3 28))) &&
     stopped (.and 28 5 7) duo (.trap 3 28)) = true := by decide +kernel

/-- Witness of OneSourceOperandsAreTakenInOrderInEveryForm: port sources and a port destination, g0 as source and
destination; a source that waits, a pending source, a last source that traps, a destination that traps. -/
theorem witness_one_source_forms :
    (let s := { queue 1 ⟨[3, 6], 0, 0⟩ (queue 2 ⟨[4], 0, 0⟩ (duo.updMe (fun c => { c with user := { c.user with chancfg := Vector.replicate 4 0x8001 } }))) with others := [(1, mate 1), (4, mate 4)] }
     let p := user.updMe (fun c => { c with pendingRegs := [9] })
     okWith (readAll [25] s) (fun ws u => okWith (writeReg 28 (ws.headD 0 + 5) u) (fun _ t => ws == [3] && nexts (exec (.addi 28 25 5) s) t.retire)) &&
     okWith (readAll [25, 26, 0] s) (fun ws u => okWith (writeReg 0 4 u) (fun _ t => ws == [3, 4, 0] && nexts (exec (.sel 0 25 26) s) t.retire)) &&
     okWith (readAll [25] s) (fun ws u => okWith (writeReg 25 ((3 : Word) ||| 0x70000) u) (fun _ t => ws == [3] && nexts (exec (.insh 25 1 7) s) t.retire)) &&
     okWith (readAll [] duo) (fun ws u => ws == [] && stopsWith (writeReg 28 0x10000 u) (.trap 3 28)) && stopped (.lui 28 1) duo (.trap 3 28) &&
     stopsWith (readAll [25] duo) (.stall (.portRead 25) 0) && stopped (.clz 6 25) duo (.stall (.portRead 25) 0) &&
     stopsWith (readAll [9] p) (.trapWord 13) && stopped (.ori 6 9 1) p (.trapWord 13) && stopped (.insh 9 0 1) p (.trapWord 13) &&
     stopsWith (readAll [5, 6, 26] duo) (.trap 3 26) && stopped (.sel 26 5 6) duo (.trap 3 26)) = true := by decide +kernel

/-- Witness of RegisterInstructionsKeepTheirFrame: a word that is spilled, one that is not, and one that goes to no port. -/
theorem witness_register_frame :
    (let full := { duo with others := [(1, { mate 1 with ports := Vector.replicate 8 ⟨List.replicate 16 0, 63, 2⟩, user := { (mate 1).user with portmap := 0x108 } })] }
     let at' := localKey 1 ((full.core 1).spillBase 3 + 8 * ((63 + 2) % 64))
     (.add 25 5 7 : Instr).wellFormed && full.me.isPort 25 && full.me.portTarget 1 == some (1, 3) && (full.core 1).portRoom 3 && Memory.wf full.mem &&
     ends (exec (.add 25 5 7) (regs [(5, 8)] full)) (fun t => t.peek at' 8 == 8 && (t.core 1).ports[3]?.map (·.spillCount) == some 3 && t.me.pc == 4) &&
     ends (exec (.add 25 5 7) (regs [(5, 8)] duo)) (fun t => t.mem == duo.mem && (t.core 1).ports[3]?.map (·.hw) == some [8]) &&
     ends (exec (.lui 6 1) duo) (fun t => t.others == duo.others && t.mem == duo.mem)) = true := by decide +kernel

/-- Witness of PortRegisterReadsTakeTheHeadWord: no neighbour and no partner; an empty queue; a head without and with a
spill area behind it, at the ring's edge. -/
theorem witness_port_reads :
    (let north := duo.updMe (fun c => { c with user := { c.user with portmap := 0x117 } })
     let q := bytesAt (localKey 0 (duo.me.spillBase 1 + 8 * 63)) (leBytes 8 0x1122334455667788) (queue 1 ⟨[7, 8], 63, 2⟩ duo)
     north.me.isPort 24 && neighbour north.me.id 0 == none && stopsWith (readReg 24 north) (.trap 3 24) &&
     duo.me.isPort 26 && neighbour duo.me.id 2 == some 4 && !duo.partnerOk 4 && stopsWith (readReg 26 duo) (.trap 3 26) &&
     neighbour duo.me.id 1 == some 1 && duo.partnerOk 1 && stopsWith (readReg 25 duo) (.stall (.portRead 25) 0) &&
     okWith (readReg 28 (queue 4 ⟨[9], 0, 0⟩ duo)) (fun w t => w == 9 && t.me.ports[4]? == some ⟨[], 0, 0⟩) &&
     okWith (readReg 25 q) (fun w t => w == 7 && t.me.ports[1]? == some ⟨[8, 0x1122334455667788], 0, 1⟩)) = true := by decide +kernel

/-- Witness of PortRegisterWritesSendOneWord: no target, no partner, retry, full, room. -/
theorem witness_port_writes :
    (let full := { duo with others := [(1, { mate 1 with ports := Vector.replicate 8 ⟨List.replicate 16 0, 0, 0⟩ })] }
     let away := { duo with tags := [(1, 1, ⟨1, 1, 1, 1⟩, 1)], others := [] }
     duo.me.isPort 28 && duo.me.portTarget 4 == none && stopsWith (writeReg 28 5 duo) (.trap 3 28) &&
     duo.me.portTarget 2 == some (4, 0) && !duo.partnerOk 4 && stopsWith (writeReg 26 5 duo) (.trap 3 26) &&
     duo.me.portTarget 1 == some (1, 3) && away.partnerOk 1 && away.retries 1 away.me.ctx &&
     stopsWith (writeReg 25 5 away) (.stall (.portRetry 25) 0) &&
     full.partnerOk 1 && !full.retries 1 full.me.ctx && !(full.core 1).portRoom 3 && stopsWith (writeReg 25 5 full) (.stall (.portWrite 25) 0) &&
     duo.partnerOk 1 && !duo.retries 1 duo.me.ctx && (duo.core 1).portRoom 3 &&
     okWith (writeReg 25 5 duo) (fun _ t => (t.core 1).ports[3]? == some ⟨[5], 0, 0⟩ && t.mem == duo.mem)) = true := by decide +kernel

/-- Witness of PendingRegistersTrapBeforeArrivalAndWaitAfter. -/
theorem witness_pending :
    (let s := user.updMe (fun c => { c with pendingRegs := [9] })
     let t := s.updMe (fun c => { c with batchArrived := true })
     !s.me.isPort 9 && s.me.pendingRegs.contains 9 && stopsWith (readReg 9 s) (.trapWord 13) && stopsWith (writeReg 9 1 s) (.trapWord 13) &&
     stopsWith (readReg 9 t) (.stall (.pendingReg 9) 0) && stopsWith (writeReg 9 1 t) (.stall (.pendingReg 9) 0)) = true := by
  decide +kernel

/-- R217: g0 and p0. -/
theorem test_hardwired :
    (let s := regs [(5, 7)] base
     ends (exec (.add 0 5 5) s) (fun t => t.me.gpr 0 == 0 && t.me.g == s.me.g && t.me.pc == 4) &&
     (s.me.setPr 0 0).pr 0 == 0xFFFFFFFFFFFFFFFF) = true := by decide +kernel

/-! ## Loads and stores -/

/-- Core 0 with g5 in its local store and bytes there and in its page. -/
def mem0 : State :=
  bytesAt (stackedKey 0x2FFF8) [0x88, 0x77, 0x66, 0x55, 0x44, 0x33, 0x22, 0x91]
    (bytesAt (localKey 0 0x3FFF8) [0x80, 0x81, 0x82, 0x83, 0x84, 0x85, 0x86, 0x87]
      (regs [(5, 0x90000003FFF8), (6, 0xFFF8), (7, 0x1122334455667788)] user))

/-- Witness of LoadsWriteTheExtendedBytesOfTheirPlace and of StoresWriteTheLowBytesAtTheirPlace: each of them at the end
of the local store and in a page. -/
theorem witness_loads_stores :
    mem0.me.plainReg 8 = true ∧ mem0.me.plainReg 5 = true ∧ mem0.me.plainReg 6 = true ∧ mem0.me.plainReg 7 = true ∧
    Memory.wf mem0.mem = true ∧
    (loadTable.all (fun e =>
      okWith (place (addrOf mem0 5 0) e.2.1 .load true mem0) (fun p u => !u.eccError p.key e.2.1 && !p.paged &&
        ends (exec (e.1 8 5 0) mem0) (fun t => t.me.gpr 8 == e.2.2 (BitVec.ofNat 64 (leVal (Memory.readBytes mem0.mem (localKey 0 0x3FFF8) e.2.1))))) &&
      okWith (place (addrOf mem0 6 0) e.2.1 .load true mem0) (fun p u => !u.eccError p.key e.2.1 && p.paged &&
        ends (exec (e.1 8 6 0) mem0) (fun t => t.me.gpr 8 == e.2.2 (BitVec.ofNat 64 (leVal (Memory.readBytes mem0.mem (stackedKey 0x2FFF8) e.2.1)))))) &&
    storeTable.all (fun e =>
      okWith (place (addrOf mem0 5 0) e.2 .store true mem0) (fun p _ => p.key == localKey 0 0x3FFF8 &&
        ends (exec (e.1 7 5 0) mem0) (fun t => Memory.readBytes t.mem p.key 8 ==
          (leBytes 8 0x1122334455667788).take e.2 ++ ([0x80, 0x81, 0x82, 0x83, 0x84, 0x85, 0x86, 0x87] : List Byte).drop e.2)))) = true := by
  decide +kernel

/-- Witness of FailedChecksPerformNothingOfTheAccess: a misaligned load and store, a write to a migrating page, an
uncorrectable error. -/
theorem witness_failed_accesses :
    (let bad := { mem0 with eccBad := [(localKey 0 0x3FFE0, 32)] }
     let mig := bytesAt (stackedKey 0x18000) (leBytes 8 0x2009F) mem0
     stopsWith (place (addrOf mem0 5 1) 2 .load true mem0) (.trap 2 0x90000003FFF9) && stopped (.lh 8 5 1) mem0 (.trap 2 0x90000003FFF9) &&
     stopsWith (place (addrOf mem0 5 1) 4 .store true mem0) (.trap 2 0x90000003FFF9) && stopped (.sw 7 5 1) mem0 (.trap 2 0x90000003FFF9) &&
     stopsWith (place (addrOf mig 6 0) 8 .store true mig) (.stall (.migWrite 0xFFF8) 0) && stopped (.sd 7 6 0) mig (.stall (.migWrite 0xFFF8) 0) &&
     okWith (place (addrOf bad 5 0) 8 .load true bad) (fun p u => u.eccError p.key 8) &&
     nexts (exec (.ld 8 5 0) bad) (bad.takeTrap 22 0x90000003FFF8)) = true := by decide +kernel

/-- Witness of AccessChecksComeInTheirOrder: each clause at the edges of its range. -/
theorem witness_access_checks :
    (let d := det duo
     let me (o : Nat) : Word := BitVec.ofNat 64 (0x800000000000 + o)
     stopsWith (place 0xFFFF800000000001 2 .load true duo) (.trap 2 0xFFFF800000000001) &&
     windowOf 0xC00000000000 == .outside && stopsWith (place 0xC00000000000 8 .load true duo) (.trap 3 0xC00000000000) &&
     windowOf 0xB00000007FF8 == .trigger 4095 && stopsWith (place 0xB00000007FF8 8 .store true duo) (.trap 3 0xB00000007FF8) &&
     windowOf 0x800000110000 == .global 1 0x10000 && stopsWith (place (me 0x110000) 8 .load true d) (.trapWord 13) &&
     windowOf 0xA00000000000 == .shared 0 0 && stopsWith (place 0xA00000000000 8 .load true d) (.trapWord 13) &&
     okWith (place 0xA0000001FFF8 8 .amo true duo) (fun p _ => p.key == sharedKey 0 0x1FFF8) &&
     duo.ownsPage duo.me.ctx 0 0x20000 == false && stopsWith (place 0xA00000020000 8 .load true duo) (.trap 3 0xA00000020000) &&
     okWith (place 0x90000003FFC0 64 .store true d) (fun p _ => p.key == localKey 0 0x3FFC0) &&
     duo.router 1 1 0x10000 8 == .ok && okWith (place (me 0x110000) 8 .load true duo) (fun p _ => p.key == localKey 1 0x10000) &&
     duo.router 1 1 0x1FFF8 16 == .fault && stopsWith (place (me 0x10FFF8) 8 .load true duo) (.trap 3 (me 0x10FFF8)) &&
     (let a := { duo with tags := [(1, 1, ⟨1, 1, 1, 1⟩, 1)], others := [] }
      a.router 1 1 0x10000 8 == .retry && stopsWith (place (me 0x110000) 8 .load true a) (.stall (.retry (me 0x110000)) 0))) = true := by
  decide +kernel

/-- R57: the windows at their edges. -/
theorem witness_windows :
    (windowOf 0x7FFFFFFFFFFF == .paged && windowOf 0x800000000000 == .global 0 0 && windowOf 0x8000FFF3FFFF == .global 4095 0x3FFFF &&
     windowOf 0x800000040000 == .outside && windowOf 0x900000000000 == .self 0 && windowOf 0x90000003FFFF == .self 0x3FFFF &&
     windowOf 0x900000040000 == .outside && windowOf 0x9FFFFFFFFFFF == .outside && windowOf 0xA00000000000 == .shared 0 0 &&
     windowOf 0xA00037FFFFFF == .shared 3 0x7FFFFFF && windowOf 0xA00008000000 == .outside && windowOf 0xB00000000000 == .trigger 0 &&
     windowOf 0xB00000007FFF == .trigger 4095 && windowOf 0xB00000008000 == .outside && windowOf 0xC00000000000 == .outside &&
     windowOf 0xFFFFFFFFFFFFFFFF == .outside) = true := by decide +kernel

/-- A cached translation with a descriptor. -/
def desc (d : Word) : TlbEntry := { ctx := 1, page := 0, big := false, desc := d }

/-- Witness of PageDescriptorChecksComeInTheirOrder: a walk that meets V clear, a reserved bit, P clear; and steps 3 to 7. -/
theorem witness_page_checks :
    (let w (d : Nat) : State := bytesAt (stackedKey 0x18000) (leBytes 8 d) user
     let walked (d : Nat) : Option Nat := match (w d).walk 0x8000 0x10 with | .error c => some c | .ok _ => none
     let at0 (d : Nat) : Bool := match (w d).descriptor 0x8000 0x10 with | .ok x => x == (false, d) | .error _ => false
     at0 0x2001E && walked 0x2001E == some 3 && at0 0x2021F && walked 0x2021F == some 3 && at0 0x2001D && walked 0x2001D == some 4 &&
     at0 0x2001F && walked 0x2001F == none &&
     checkDesc (desc 0x1000000011F) 0x10 .load == .fault 3 && checkDesc (desc 0x10000000003F) 0x10 .load == .fault 3 &&
     checkDesc (desc 0x2011F) 0x10 .load == .fault 6 && checkDesc (desc 0x2001B) 0x10 .load == .fault 5 &&
     checkDesc (desc 0x20017) 0x10 .store == .fault 5 && checkDesc (desc 0x2003F) 0x10 .amo == .fault 5 &&
     checkDesc (desc 0x2005F) 0x10 .fetch == .fault 5 && checkDesc (desc 0x2009F) 0x10 .amo == .migrating &&
     checkDesc (desc 0x2009F) 0x10 .load == .ok 0x20010 && checkDesc (desc 0x2003F) 0xFFFF .store == .ok (2 ^ 46 + 0x2FFFF)) = true := by
  decide +kernel

/-! ## Ordered accesses and atomics -/

/-- The registers of an atomic on die shared memory: g5 the address, g6 and g7 the operands. -/
def amo0 : State := regs [(5, 0xA00000000100), (6, 0x3F800000), (7, 0xFFFFFFFF80000001), (9, 0xA0000001FFF8)]
  (bytesAt (sharedKey 0 0x100) (leBytes 8 0x3F80000080000005) duo)

/-- Witness of AcquireLoadsAndReleaseStoresComplete: both sizes, scopes CORE and SYSTEM. -/
theorem witness_lda_stl :
    (let s := amo0.updMe (fun c => { c with l1d := [⟨0x20000, []⟩] })
     okWith (place (s.gr 5) 4 .load true s) (fun p u => !u.eccError p.key 4) && s.me.plainReg 8 && s.me.plainReg 5 && s.me.plainReg 7 &&
     ends (exec (.ldaW 8 5 0) s) (fun t => t.me.gpr 8 == 0xFFFFFFFF80000005 && !t.me.l1d.isEmpty && t.me.pc == 4) &&
     okWith (place (s.gr 5) 8 .load true s) (fun p u => !u.eccError p.key 8) &&
     ends (exec (.ldaD 8 5 5) s) (fun t => t.me.gpr 8 == 0x3F80000080000005 && t.me.l1d.isEmpty) &&
     okWith (place (s.gr 9) 4 .store true s) (fun _ _ => true) && okWith (place (s.gr 9) 8 .store true s) (fun _ _ => true) &&
     ends (exec (.stlW 9 7 0) s) (fun t => t.peek (sharedKey 0 0x1FFF8) 8 == 0x80000001) &&
     ends (exec (.stlD 9 7 5) s) (fun t => t.peek (sharedKey 0 0x1FFF8) 8 == 0xFFFFFFFF80000001)) = true := by decide +kernel

/-- Witness of AtomicsReadModifyWriteTheirPlace: every operation at both sizes, with rd g7 and g0, order acquire. -/
theorem witness_atomics : amo0.me.plainReg 7 = true ∧ amo0.me.plainReg 5 = true ∧ amo0.me.plainReg 6 = true ∧ amo0.me.plainReg 0 = true ∧
    amoTable.all (fun e => [(0 : BitVec 1), 1].all (fun size =>
      let n := if size = 0 then 4 else 8
      let r := e.2.2 (8 * n) (amo0.peek (sharedKey 0 0x100) n) (0x3F800000 % 2 ^ (8 * n)) (0xFFFFFFFF80000001 % 2 ^ (8 * n))
      !amo0.me.batches e.2.1 7 && okWith (amoPlace (amo0.gr 5) n e.2.1 7 amo0) (fun p u => p.key == sharedKey 0 0x100 && !u.eccError p.key n) &&
      ends (exec (e.1 7 5 6 size 1 3) amo0) (fun t => t.me.gpr 7 == r.2.2 && t.me.l1d.isEmpty && t.me.pc == 4 &&
        t.mem == (if r.2.1 then Memory.writeBytes amo0.mem (sharedKey 0 0x100) (leBytes n r.1) else amo0.mem)) &&
      ends (exec (e.1 0 5 6 size 0 0) amo0) (fun t => t.me.g == amo0.me.g))) = true := by decide +kernel

/-- Witness of AtomicChecksComeInTheirOrder. -/
theorem witness_atomic_checks : amoTable.all (fun e => [(0 : BitVec 1), 1].all (fun size =>
      let odd := regs [(5, 0xA00000000102)] amo0
      let out := regs [(5, 0xB00000000008)] amo0
      let bad := { amo0 with eccBad := [(sharedKey 0 0x100, 32)] }
      let n := if size = 0 then 4 else 8
      nexts (exec (e.1 7 5 6 size 1 3) odd) (odd.takeTrap 2 0xA00000000102) && nexts (exec (e.1 7 5 6 size 1 3) out) (out.takeTrap 3 0xB00000000008) &&
      okWith (amoPlace (bad.gr 5) n e.2.1 7 bad) (fun p u => u.eccError p.key n) && nexts (exec (e.1 7 5 6 size 1 3) bad) (bad.takeTrap 22 0xA00000000100))) = true ∧
    (let s := regs [(5, 0x90000000000)] amo0
     nexts (exec (.amoFadd 7 5 6 1 1 3) s) (s.takeTrap 3 0x90000000000)) = true := by decide +kernel

/-- R269: CAS that fails writes nothing; INCB at its bound sets bit 63; MIN is signed. -/
theorem test_atomics :
    (ends (exec (.amoCas 7 5 6 1 0 0) amo0) (fun t => t.mem == amo0.mem && t.me.gpr 7 == 0x3F80000080000005) &&
     ends (exec (.amoIncb 7 5 6 1 0 0) amo0) (fun t => t.mem == amo0.mem && t.me.gpr 7 == 0xBF80000080000005) &&
     ends (exec (.amoMin 7 5 7 0 0 0) amo0) (fun t => t.peek (sharedKey 0 0x100) 4 == 0x80000001)) = true := by decide +kernel

/-- The waiters of a full bank. -/
def bankFull : List Waiter := (List.range 64).map (fun i => { core := 2 + i, pc := 0, level := 0, key := sharedKey 0 0x108, size := 8, target := 1, woken := false })

/-- Witness of WaitwReturnsItsStatus: at its target, a full bank, waiting anew, woken, out of time, waiting on. -/
theorem witness_waitw :
    (let s := regs [(6, 0x3F80000080000006)] amo0
     let k := sharedKey 0 0x100
     let full := { s with waiters := bankFull }
     let w : Waiter := { core := 0, pc := 0, level := 0, key := k, size := 8, target := 0x3F80000080000006, woken := false }
     let woken := { s with waiters := [{ w with woken := true }, { w with core := 2 }] }
     let waiting := { s with waiters := [{ w with core := 2 }, w] }
     let late := waiting.updMe (fun c => { c with wait := some ⟨.word k 5 6 1 1 1, 0, 1, 10, 7, true, none⟩, l1d := [⟨0x20000, []⟩] })
     okWith (amoPlace (s.gr 5) 8 13 7 s) (fun p u => p.key == k && u == s && !s.eccError p.key 8) && s.me.level == 0 &&
     (amo0.waiterOf k).isNone && sintN 64 (amo0.gr 6).toNat ≤ sintN 64 (amo0.peek k 8) &&
     ends (exec (.amoWaitw 7 5 6 1 0 0) amo0) (fun t => t.me.gpr 7 == 0 && t.me.pc == 4) &&
     okWith (amoPlace (full.gr 5) 8 13 7 full) (fun _ u => u == full) && (full.waiterOf k).isNone &&
     !(decide (sintN 64 (s.gr 6).toNat ≤ sintN 64 (s.peek k 8))) && 64 ≤ full.bankWaiters k &&
     ends (exec (.amoWaitw 7 5 6 1 0 0) full) (fun t => t.me.gpr 7 == 2 && t.me.pc == 4) &&
     s.bankWaiters k < 64 && nexts (exec (.amoWaitw 7 5 6 1 0 0) s) ({ s with waiters := [w] }.park (.word k 5 6 1 0 0) 7) &&
     okWith (amoPlace (woken.gr 5) 8 13 7 woken) (fun _ u => u == woken) && (woken.waiterOf k).map (·.woken) == some true &&
     ends (exec (.amoWaitw 7 5 6 1 0 0) woken) (fun t => t.me.gpr 7 == 1 && t.waiters.length == 1) &&
     okWith (amoPlace (late.gr 5) 8 13 7 late) (fun _ u => u == late) && (late.waiterOf k).map (·.woken) == some false && late.me.waitReady &&
     ends (exec (.amoWaitw 7 5 6 1 1 1) late) (fun t => t.me.gpr 7 == 3 && t.waiters.length == 1 && t.me.l1d.isEmpty) &&
     (waiting.waiterOf k).map (·.woken) == some false && !waiting.me.waitReady &&
     nexts (exec (.amoWaitw 7 5 6 1 0 0) waiting) (waiting.park (.word k 5 6 1 0 0) 7)) = true := by decide +kernel

/-- Witness of AddtThatCrossesWakesEveryWaiterOfItsWord: up to the threshold, and down to it. -/
theorem witness_addt :
    (let s := { regs [(6, 2), (7, 7)] (bytesAt (sharedKey 0 0x100) (leBytes 8 5) duo |> regs [(5, 0xA00000000100)]) with
       waiters := [{ core := 1, pc := 0, level := 0, key := sharedKey 0 0x100, size := 8, target := 100, woken := false }] }
     let d := regs [(6, 0xFFFFFFFFFFFFFFFE), (7, 3)] s
     okWith (amoPlace (s.gr 5) 8 11 7 s) (fun p u => p.key == sharedKey 0 0x100 && !u.eccError p.key 8) && s.peek (sharedKey 0 0x100) 8 == 5 &&
     ends (exec (.amoAddt 7 5 6 1 0 0) s) (fun t => t.waiters.all (·.woken) && t.peek (sharedKey 0 0x100) 8 == 7) &&
     ends (exec (.amoAddt 7 5 6 1 0 0) d) (fun t => t.waiters.all (·.woken) && t.peek (sharedKey 0 0x100) 8 == 3)) = true := by decide +kernel

/-! ## Fences, branches, jumps -/

/-- R267, R129, R263: FENCE with and without RA, IFENCE, MARK. -/
theorem test_fences :
    (let s := amo0.updMe (fun c => { c with l1d := [⟨0x20000, []⟩], l1i := [⟨0x20000, []⟩], itlb := [desc 0x2001F] })
     let s := { s with cycle := 77 }
     ends (exec (.fence 5 1 1 1 1) s) (fun t => t.me.l1d.isEmpty && t.me.pc == 4) && ends (exec (.fence 5 1 1 0 1) s) (fun t => !t.me.l1d.isEmpty) &&
     ends (exec .ifence s) (fun t => t.me.l1i.isEmpty && t.me.itlb.isEmpty && !t.me.l1d.isEmpty) &&
     nexts (exec .mark s) (s.completes (fun c => { c with wdBase := 77 }))) = true := by decide +kernel

/-- Witness of BranchesGoToTheirTargetExactlyWhenTaken: signed and unsigned order apart, and backwards. -/
theorem witness_branches : alu0.me.plainReg 5 = true ∧ alu0.me.plainReg 7 = true ∧
    branchTable.map (fun e => match exec (e.1 5 7 0x1FFE) { alu0 with me := { alu0.me with pc := 64 } } with | .next t => t.me.pc.toNat | _ => 0) =
      [68, 56, 56, 68, 68, 56] := by decide +kernel

/-- Witness of JumpsLinkAndGoToTheirTarget: the link register as source and destination, a misaligned target. -/
theorem witness_jumps :
    (let s := regs [(1, 0x100), (5, 0x102)] alu0
     s.me.plainReg 1 && s.me.plainReg 5 && nexts (exec (.j 0x3FFFFFF) s) (goesTo s 0xFFFFFFFFFFFFFFFC) &&
     ends (exec (.jal 3) s) (fun t => t.me.pc == 12 && t.me.gpr 1 == 4) &&
     ends (exec (.jalr 1 1 0xFFFC) s) (fun t => t.me.pc == 0xFC && t.me.gpr 1 == 4) &&
     nexts (exec (.jalr 6 5 0) s) (s.takeTrap 2 0x102)) = true := by decide +kernel

/-! ## Control registers -/

/-- Witness of ControlRegisterReadsAndTheirChecks: a user register, a supervisor register at both levels, a number that
names none, CORESTAT. -/
theorem witness_csr_reads :
    (let s := user.updMe (fun c => { c with user := { c.user with restored := true, diverge := true } })
     s.me.plainReg 6 && base.me.plainReg 6 && user.csrValue 0x018 == some 0x33 && ends (exec (.csrr 6 0x018) user) (fun t => t.me.gpr 6 == 0x33) &&
     base.csrValue 0x40C == some 64 && base.me.super && ends (exec (.csrr 6 0x40C) base) (fun t => t.me.gpr 6 == 64) &&
     user.csrValue 0x40C == some 64 && !user.me.super && nexts (exec (.csrr 6 0x40C) user) (user.takeTrap 1 (wordOf (.csrr 6 0x40C))) &&
     base.csrValue 0x03F == none && nexts (exec (.csrr 6 0x03F) base) (base.takeTrap 0 (wordOf (.csrr 6 0x03F))) &&
     ends (exec (.csrr 6 0x048) s) (fun t => t.me.gpr 6 == 0x18 && !t.me.user.restored) && ends (exec (.corestatRead 6) s) (fun t => t.me.gpr 6 == 0x18)) = true := by
  decide +kernel

/-- Witness of ControlRegisterWritesKeepOnlyTheWritableBits: every register of the table, each form, all bits written. -/
theorem witness_csr_writes : (regs [(5, 0xFFFFFFFFFFFFFFFF)] base).me.plainReg 5 = true ∧
    csrTable.all (fun e => [CsrOp.write, .set, .clear].all (fun op =>
      let s := regs [(5, 0xFFFFFFFFFFFFFFFF)] base
      let u := regs [(5, 0xFFFFFFFFFFFFFFFF)] user
      (s.csrValue e.1.toNat).isSome &&
      ends (exec (writingForm op 5 e.1) s) (fun t => t.csrValue e.1.toNat == (s.csrValue e.1.toNat).map (fun old => newValue op old 0xFFFFFFFFFFFFFFFF &&& e.2)) &&
      (decide (e.1.toNat < 0x400) || nexts (exec (writingForm op 5 e.1) u) (u.takeTrap 1 (wordOf (writingForm op 5 e.1)))))) = true := by
  decide +kernel

/-- Witness of WritesOfRegistersWithRulesOfTheirOwn: each clause, at the last value allowed and the first refused. -/
theorem witness_special_writes :
    (let w (x : Word) : State := regs [(5, x)] base
     let refused (i : Instr) (ra : BitVec 12) (s : State) : Bool := nexts (exec i s) (s.takeTrap 0 (wordOf (writingForm .write 5 ra)))
     let busy := (w 0).updMe (fun c => { c with kerfBB := 8 })
     (w 0).me.plainReg 5 && ends (exec (.fctlWrite .write 5) (w 0xFFC)) (fun t => t.me.user.fctl == 0x1F4) && refused (.fctlWrite .write 5) 0x001 (w 5) &&
     ends (exec (.fflagsWrite .set 5) (w 0x1FF)) (fun t => t.me.user.fflags == 0xFF) &&
     ends (exec (.mfmtWrite .write 5) (w 0x777)) (fun t => t.me.user.mfmt == 0x77) && refused (.mfmtWrite .write 5) 0x018 (w 0x78) &&
     refused (.mfmtWrite .write 5) 0x018 (w 0x87) && ends (exec (.instretWrite .write 5) (w 9)) (fun t => t.me.user.instret == 9) &&
     ends (exec (.kbackWrite .write 5) (w 0x7FFFFFFFF001)) (fun t => t.me.user.kback == 0x7FFFFFFFF001) && refused (.kbackWrite .write 5) 0x024 (w 0x7FFFFFFFF002) &&
     refused (.kbackWrite .write 5) 0x024 busy) = true := by decide +kernel

/-- Witness of PortAndBarrierMaskWrites: ports within and beyond the launch's, a spill area at and past the private part's
end, a port that holds words; a channel the launch does not hold, a bit cleared and a bit set. -/
theorem witness_port_and_mask_writes :
    (let w (x : Word) (s : State) : State := regs [(5, x)] s
     let s := user.updMe (fun c => { c with unit := some { unit0 with ports := 2 } })
     let held := queue 0 ⟨[1], 0, 0⟩ (s.updMe (fun c => { c with user := { c.user with portmap := 0x101 } }))
     let ch (n : Nat) : Channel := { num := n, holder := ⟨1, 1, 1, 1⟩, ctx := 1, epoch := 0, count := 0, nextCount := 0, marks := [], stalled := [], gathered := [], phase := false, failed := false, failedEpochs := [], failing := false, cancelAt := none, gatherDue := none, recentAt := 0, recentMarks := [], recentBytes := 0 }
     let m := { s.updMe (fun c => { c with user := { c.user with bmask := 0x1 } }) with channels := [ch 0, ch 5] }
     let no (i : Instr) (r : BitVec 12) (s : State) : Bool := nexts (exec i s) (s.takeTrap 0 (wordOf (writingForm .write 5 r)))
     ends (exec (.portmapWrite .write 5) (w 0x7E03 s)) (fun t => t.me.user.portmap == 0x7E03) && no (.portmapWrite .write 5) 0x008 (w 0x7F03 s) &&
     no (.portmapWrite .write 5) 0x008 (w 0x0007 s) && no (.portmapWrite .write 5) 0x008 (w 0x0201 held) && no (.portmapWrite .write 5) 0x008 (w 0x0100 held) &&
     ends (exec (.portmapWrite .write 5) (w 0x0103 held)) (fun t => t.me.user.portmap == 0x103) &&
     m.me.holds 0 && m.me.holds 5 && !m.me.holds 31 && no (.bmaskWrite .write 5) 0x010 (w 0x80000000 m) &&
     ends (exec (.bmaskWrite .write 5) (w 0x20 m)) (fun t => t.me.user.bmask == 0x20 && t.channels.map (·.marks) == [[0], []])) = true := by
  decide +kernel

/-- Context 1, resident. -/
def ctx0 : Context := { id := 1, part := 1, state := .resident, ptroot := 0x8000, sets := [], images := [], peers := [] }

/-- Witness of TlbinvLeavesNoCoveredTranslation: user level; each kind at the page 0x30000. -/
theorem witness_tlbinv :
    (let e (p : Nat) : TlbEntry := { ctx := 1, page := p, big := false, desc := 0x2001F }
     let s := { regs [(5, 0x30000)] (user.updMe (fun c => { c with super := true, itlb := [e 3, e 4], dtlb := [e 3, e 200] })) with l2tlb := [(0, e 3), (0, e 200), (7, e 3)] }
     let u := s.updMe (fun c => { c with super := false })
     let page (va : Nat) : Frame := ⟨stackedKey 0x200000, 0x10000, 1, va⟩
     let gone := { bytesAt (stackedKey 0x20FFFF) [7] s with frames := [page 0x30000, { page 0x400000 with key := stackedKey 0x210000 }], contexts := [{ ctx0 with ptroot := 0x3FFFFFFF8000 }] }
     ends (exec (.tlbinvPage 5) gone) (fun t => t.frames == [{ page 0x400000 with key := stackedKey 0x210000 }] && t.peek (stackedKey 0x20FFFF) 1 == 0) &&
     ends (exec (.tlbinvPage 5) { gone with frames := gone.frames ++ [{ page 0x500000 with ctx := 2 }] }) (fun t => t.peek (stackedKey 0x20FFFF) 1 == 7 && t.frames.length == 2) &&
     u.me.plainReg 5 && nexts (exec (.tlbinvPage 5) u) (u.takeTrap 1 (wordOf (.csrw 5 0x40D))) && nexts (exec (.tlbinvContext 5) u) (u.takeTrap 1 (wordOf (.csrw 5 0x40D))) &&
     ends (exec (.tlbinvPage 5) s) (fun t => t.me.itlb == [e 4] && t.me.dtlb == [e 200] && t.me.pc == 4) &&
     ends (exec (.tlbinvRegion 5) (regs [(5, 0x4000000000030000)] s)) (fun t => t.me.itlb == [] && t.me.dtlb == [e 200] && t.l2tlb == [(0, e 200), (7, e 3)]) &&
     ends (exec (.tlbinvContext 5) (regs [(5, 0x8000000000000000)] s)) (fun t => t.me.itlb == [] && t.me.dtlb == [] && t.l2tlb == [])) = true := by decide +kernel

/-- A partition 1 of truss 0 and a context 1 of it. -/
def part0 : Partition where
  id := 1
  trusses := [0]
  pages := []
  banks := []
  channels := []
  groups := [3]
  lpddr := [0]
  stacked := [0]
  ports := [(0, 100)]
  head := none
  sliceLen := 0
  sliceClamped := false
  versioned := Vector.replicate 16 (0, 0)
  measurement := 0
  supCore := 0
  supBooted := true
  launches := []
  graphs := []
  phases := []
  jobs := []
  readyNext := 0
  wdRing := none
  wdHeld := []
  wdPoll := 0
  wdLost := 0
  mailbox := []

/-- The two cores in partition 1 and context 1. -/
def house : State := { duo with parts := [part0], contexts := [ctx0] }

/-- Witness of UinoteReachesTheNoticeQueueOfItsTarget: STATUS 3, a full queue, nobody, a core, a stalled writer. -/
theorem witness_uinote :
    (let s := regs [(5, 0x12348001)] (house.updMe (fun c => { c with super := true }))
     let full := { s with others := [(1, { mate 1 with notices := List.replicate 8 ⟨0, 0, 0⟩ })] }
     let waits := s.updMe (fun c => { c with wait := some ⟨.uinote 1, 0, 1, 0, 0, false, none⟩ })
     s.me.plainReg 5 && s.me.super && nexts (exec (.uinote 5) (regs [(5, 0xC001)] s)) ((regs [(5, 0xC001)] s).takeTrap 0 (wordOf (.csrw 5 0x40E))) &&
     full.noticeTarget 1 == .full && nexts (exec (.uinote 5) full) (full.park (.uinote 1) 0) &&
     (regs [(5, 64)] s).noticeTarget 64 == .nobody && ends (exec (.uinote 5) (regs [(5, 64)] s)) (fun t => t.stamp == 1 && t.me.pc == 4) &&
     s.noticeTarget 1 == .core && ends (exec (.uinote 5) s) (fun t => (t.core 1).notices == [⟨0, 0x1234, 2⟩]) &&
     waits.noticeTarget 1 != .full && ends (exec .uinoteStallRelease waits) (fun t => t.me.waitReady)) = true := by decide +kernel

/-! ## Traps, returns, units -/

/-- Core 0 at user level with cause 15 and 14 delegated and TRAP set. -/
def ui0 : State := house.updMe (fun c => { c with
  pc := 0x40
  g := c.g.setIfInBounds 16 0x1616
  shadow := c.shadow.setIfInBounds 0 0x2020
  sup := { c.sup with sdeleg := 0xC000, stvec := 0x100 }
  user := { c.user with uienable := 0x1F, uivec := 0x200 } })

/-- Witness of TrapsEnterTheSupervisorOrTheUserInterruptContext: delegated, and not for each reason. -/
theorem witness_traps :
    (!ui0.fused && ui0.me.sup.sdeleg.getLsbD 15 && !ui0.me.super && ui0.me.user.uienable.getLsbD 4 && !ui0.me.sup.uia &&
     (let t := ui0.takeTrap 15 7
      t.me.pc == 0x200 && t.me.user.uipc == 0x40 && t.me.user.uicause == 15 && t.me.user.uival == 7 && t.me.gpr 16 == 0x2020 && !t.me.super) &&
     (let t := ui0.takeTrap 3 7
      t.me.pc == 0x100 && t.me.sup.sepc == 0x40 && t.me.sup.scause == 3 && t.me.super && !t.me.sup.spp && !t.me.sup.sie && t.me.gpr 16 == 0x1616) &&
     (let u := ui0.updMe (fun c => { c with sup := { c.sup with uia := true, sie := true } })
      (u.takeTrap 15 7).me.pc == 0x100 && (u.takeTrap 15 7).me.sup.spie)) = true := by decide +kernel

/-- Witness of CallsAndBreakpointsTrapAndCount. -/
theorem witness_calls :
    (!ui0.me.super && ends (exec .ecall ui0) (fun t => t.me.sup.scause == 17 && t.me.user.instret == 1 && t.me.pc == 0x100) &&
     ends (exec .ebreak ui0) (fun t => t.me.sup.scause == 18 && t.me.user.instret == 1) &&
     ends (exec (.illegalInstruction 6 0x77) ui0) (fun t => t.me.sup.scause == 6 && t.me.sup.sval == 0x77 && t.me.user.instret == 0) &&
     base.me.super && 13 ≤ ((regs [(4, 13)] base).me.gpr 4).toNat && (regs [(4, 13)] base).me.pendingRegs == [] && ends (exec .ecall (regs [(4, 13)] base)) (fun t => t.me.gpr 4 == 1 && t.me.pc == 4)) = true := by
  decide +kernel

/-- Witness of ReturnsRestoreWhatTheTrapSaved: both returns, and each where it is not allowed. -/
theorem witness_returns :
    (let s := base.updMe (fun c => { c with sup := { c.sup with spp := false, spie := true, sepc := 0x88, uia := true } })
     let u := ui0.updMe (fun c => { c with sup := { c.sup with uia := true }, user := { c.user with uipc := 0x44 } })
     s.me.lead == none && s.me.super && ends (exec .sret s) (fun t => !t.me.super && t.me.sup.sie && t.me.sup.spie && !t.me.sup.spp && t.me.pc == 0x88 && t.me.sup.uia && t.me.g == s.me.g) &&
     u.me.lead == none && !u.me.super && nexts (exec .sret u) (u.takeTrap 1 0x50000002) &&
     u.me.sup.uia && ends (exec .uiret u) (fun t => t.me.pc == 0x44 && !t.me.sup.uia && t.me.gpr 16 == 0x2020 && t.me.shadow[0]? == some 0x1616) &&
     nexts (exec .uiret s) (s.takeTrap 0 0x50000003) && nexts (exec .uiret ui0) (ui0.takeTrap 0 0x50000003)) = true := by decide +kernel

/-- Witness of YieldSavesOnRequestAndIdleEndsOnAnEvent. -/
theorem witness_yield_idle :
    (let e : EngineEvent := { stamp := 0, remaining := 0, kind := 0, cause := 0, qid := 0, tag := 0 }
     let p := house.updMe (fun c => { c with preq := some (0, 3) })
     let i := house.updMe (fun c => { c with events := [e] })
     let w := i.updMe (fun c => { c with wait := some ⟨.idle, 0, 1, 0, 0, false, none⟩ })
     house.me.preq == none && nexts (exec .yield house) (house.completes id) &&
     p.me.unit.isSome && ends (exec .yield p) (fun t => t.me.run == .saving && t.me.pc == 4 && t.tags == [(0, 1, ⟨1, 1, 1, 1⟩, 0)]) &&
     i.me.idleEnds && !i.me.eventToUi e && nexts (exec .idle i) (i.completes id) && !house.me.idleEnds && house.me.wait == none &&
     nexts (exec .idle house) (house.park .idle 0) &&
     w.me.idles && w.me.idleEnds && w.me.fwd.isEmpty && !w.fused && nexts (exec .idleWake w) (w.completes id)) = true := by decide +kernel

/-- A launch entry of two units in one gang, on cores 0 and 1. -/
def launch0 : Launch where
  key := ⟨1, 1, 1, 1⟩
  ctx := 1
  phase := 0
  job := 0
  state := .placed
  pushedBy := 0
  pusher := none
  tag := 0
  irq := false
  det := false
  ragged := false
  persistent := false
  startPc := 0
  args := 0
  unitCount := 2
  gangSize := 2
  privKiB := 64
  sharedKiB := 64
  accKiB := 32
  kerfKiB := 4
  weight := 1
  prio := 0
  ports := 0
  channels := [0, 5]
  kback := 0
  records := []
  crec := 0
  depCount := 0
  succ := []
  kept := []
  readyAt := 0
  readySeq := 0
  aged := false
  nunits := 2
  units := [(0, .on 0), (1, .on 1)]
  status := 0
  recordDue := none
  recorded := false

/-- The unit of a gang of two. -/
def gangUnit (n : Nat) : UnitCfg := { unit0 with unit := n, gangSize := 2, gangPos := n, gang := [0, 1] }

/-- A fused gang of two on cores 0 and 1. -/
def gang : State :=
  { house.updMe (fun c => { c with unit := some (gangUnit 0) }) with
    others := [(1, { mate 1 with unit := some (gangUnit 1) })]
    parts := [{ part0 with launches := [launch0], channels := [0, 5], graphs := [{ id := 1, ctx := 1, parent := 0, sealed := true, cancelled := false, status := 0, outstanding := 1 }] }] }

/-- The gang, split: core 1 waits at its FUSE. -/
def apart (waits : Bool) : State :=
  { gang.updMe (fun c => { c with pc := 0x80, user := { c.user with diverge := true } }) with
    others := [(1, { mate 1 with
      unit := some (gangUnit 1)
      pc := 0x90
      user := { UserRegs.reset with diverge := true }
      wait := if waits then some ⟨.fuse, 0, 1, 0, 0, false, none⟩ else none })] }

/-- Witness of SplitAndFuseMoveTheGangBetweenItsModes. -/
theorem witness_split_fuse :
    (gang.fused && ends (exec .split gang) (fun t => t.me.user.diverge && t.me.pc == 4) && !house.fused && nexts (exec .split house) (house.completes id) &&
     nexts (exec .fuse house) (house.completes id) && nexts (exec .fuse gang) (gang.completes id) && base.me.unit == none && nexts (exec .fuse base) (base.completes id) &&
     (apart true).othersAtFuse && (apart true).leader?.isSome &&
     ends (exec .fuse (apart true)) (fun t => t.me.pc == 0x84 && (t.core 1).pc == 0x84 && !(t.core 1).user.diverge && (t.core 1).user.instret == 1) &&
     !(apart false).othersAtFuse && (apart false).leader?.isSome && nexts (exec .fuse (apart false)) ((apart false).park .fuse 0)) = true := by
  decide +kernel

/-- A held atomic. -/
def atom : Batched := { key := sharedKey 0 0, va := 0xA00000000000, size := 8, op := 0, operand := 1, rd := 9, ui := false }

/-- Witness of ExitEndsTheUnitWhenItsWaitsAreOver. -/
theorem witness_exit :
    (let one := { house with parts := [{ part0 with launches := [{ launch0 with gangSize := 1 }], graphs := [{ id := 1, ctx := 1, parent := 0, sealed := true, cancelled := false, status := 0, outstanding := 1 }] }] }
     let b := one.updMe (fun c => { c with batch := [atom] })
     let p := one.updMe (fun c => { c with pendingRegs := [9] })
     let w := one.updMe (fun c => { c with wait := some ⟨.exit, 0, 1, 0, 0, false, none⟩ })
     nexts (exec .exit base) (base.takeTrap 0 0x50000009) && !b.me.batchArrived && nexts (exec .exit b) (b.takeTrap 13 0x50000009) &&
     p.me.batch.isEmpty && !p.me.exitReady && nexts (exec .exit p) (p.park .exit 0) &&
     one.me.exitReady && !one.fused && one.me.unit.isSome &&
     ends (exec .exit one) (fun t => (t.core 0).unit == none && (t.core 0).run == .free && (t.core 0).lastLaunch == some ⟨1, 1, 1, 1⟩ &&
       (t.launch? ⟨1, 1, 1, 1⟩).map (·.units) == some [(0, .exited), (1, .on 1)]) &&
     (let last := { one with parts := [{ part0 with graphs := [{ id := 1, ctx := 1, parent := 0, sealed := true, cancelled := false, status := 0, outstanding := 1 }], launches := [{ launch0 with gangSize := 1, units := [(0, .on 0), (1, .exited)] }] }] }
      (last.launch? ⟨1, 1, 1, 1⟩).map (fun l => (l.state, l.recordDue, l.recorded)) == some (.placed, none, false) &&
      ends (exec .exit last) (fun t => (t.core 0).unit == none && (t.core 0).run == .zeroing && (t.core 0).zeroCtx == some 1)) &&
     w.me.exitReady && ends (exec .unitEnd w) (fun t => (t.core 0).unit == none && (t.core 0).run == .free)) = true := by decide +kernel

/-! ## Barriers -/

/-- A held channel. -/
def chan (n : Nat) : Channel where
  num := n
  holder := ⟨1, 1, 1, 1⟩
  ctx := 1
  epoch := 3
  count := 0
  nextCount := 0
  marks := []
  stalled := []
  gathered := []
  phase := true
  failed := false
  failedEpochs := [2]
  failing := false
  cancelAt := none
  gatherDue := none
  recentAt := 0
  recentMarks := []
  recentBytes := 0

/-- Core 0 is a member of channels 0 and 5. -/
def bar0 : State :=
  { gang.updMe (fun c => { c with unit := some unit0, user := { c.user with bmask := 0x21 } }) with
    channels := [chan 0, { chan 5 with marks := [0] }] }

/-- Witness of BarrierInstructionsActOnTheOpenEpisode: each clause. -/
theorem witness_barriers :
    (let s := bar0
     let old := s.updMe (fun c => { c with awaited := [(0, 2)] })
     let five := regs [(6, 0x7FFFFFFFFF)] s
     !s.me.holds 1 && [Instr.arrive 1, .arriveG 1, .wait 6 1, .btest 6 1, .bcancel 1].all (fun i => nexts (exec i s) (s.takeTrap 3 1)) &&
     s.me.holds 0 && s.me.member 0 && s.channel? 0 == some (chan 0) && s.me.wait == none && s.me.unitNum == 0 &&
     ends (exec (.arrive 0) s) (fun t => (t.channel? 0).map (·.marks) == some [0] && t.me.pc == 4) &&
     ends (exec (.arriveG 0) s) (fun t => (t.channel? 0).map (·.gathered) == some [s.me.gathered]) &&
     s.me.member 5 && (s.channel? 5).map (·.marks) == some [0] && ends (exec (.arrive 5) s) (fun t => t.me.wait.map (·.kind) == some (.arrive 5 false)) &&
     old.me.awaitedOn (chan 0) == 2 && !old.me.user.bmask.getLsbD 32 && old.me.plainReg 6 &&
     ends (exec (.wait 6 0) old) (fun t => t.me.gpr 6 == 0xC000000000000002 && t.me.pc == 4) &&
     s.me.awaitedOn (chan 0) == 3 && nexts (exec (.wait 6 0) s) (s.park (.barrier 0 3) 6) &&
     ends (exec (.btest 6 0) s) (fun t => t.me.gpr 6 == 3) && ends (exec (.btest 6 0) old) (fun t => t.me.gpr 6 == 0xC000000000000002) &&
     ends (exec (.expect 6 0) five) (fun t => (t.channel? 0).map (·.count) == some 0x7FFFFFFFFF) &&
     ends (exec (.expect 6 5) five) (fun t => (t.channel? 5).map (·.nextCount) == some 0x7FFFFFFFFF) &&
     !s.isBatchChannel (chan 0) && ends (exec (.bcancel 0) s) (fun t => (t.channel? 0).map (fun y => (y.epoch, y.failed, y.phase)) == some (4, true, false)) &&
     (let now := { s with cycle := 7, channels := [{ chan 0 with marks := [0], count := -3, nextCount := 4, recentAt := 7, recentMarks := [0], recentBytes := 3 }] }
      ends (exec (.bcancel 0) now) (fun t => (t.channel? 0).map (fun y => (y.epoch, y.failed, y.marks, y.count)) == some (4, true, [0], 1))) &&
     (let done := { s with cycle := 7, channels := [{ chan 0 with marks := [0, 1], nextCount := 4 }] }
      done.episodeReady { chan 0 with marks := [0, 1], nextCount := 4 } &&
      ends (exec (.bcancel 0) done) (fun t => (t.channel? 0).map (fun y => (y.epoch, y.failed, y.failedEpochs.contains 4, y.failedEpochs.contains 3, y.phase)) == some (5, true, true, false, true)))) = true := by
  decide +kernel

/-- Witness of EpisodesCountBytesCompleteAndTimeOut: each clause. -/
theorem witness_episodes :
    (let s := bar0
     let m := { s with channels := [{ chan 0 with marks := [0, 1], nextCount := 4 }] }
     let w := { s.updMe (fun c => { c with wait := some ⟨.barrier 0 3, 0, 1, 10, 6, false, none⟩ }) with cycle := 10 }
     let past := w.updMe (fun c => { c with wait := some ⟨.barrier 0 2, 0, 1, 10, 6, false, some (0, 2)⟩, l1d := [⟨0x20000, []⟩] })
     let key := sharedKey 0 0x100
     let k := { regs [(6, 0x3F80000080000006)] (amo0.updMe (fun c => { c with wait := some ⟨.word key 5 6 1 1 1, 0, 1, 10, 7, false, none⟩ })) with
       cycle := 10, waiters := [⟨0, 0, 0, key, 8, 0x3F80000080000006, false⟩] }
     ends (exec (.boundBytesLand 0 5) s) (fun t => (t.channel? 0).map (·.count) == some (-5)) &&
     ends (exec (.boundBytesLand 0 5) m) (fun t => (t.channel? 0).map (fun y => (y.count, y.nextCount)) == some (0, -1)) &&
     ends (exec (.boundBytesLand 0 5) { m with channels := m.channels.map (fun y => { y with gatherDue := some (9, false) }) }) (fun t => (t.channel? 0).map (fun y => (y.count, y.nextCount)) == some (-5, 4)) &&
     m.episodeReady { chan 0 with marks := [0, 1], nextCount := 4 } && !m.isBatchChannel (chan 0) &&
     ends (exec (.episodeComplete 0) m) (fun t => (t.channel? 0).map (fun y => (y.epoch, y.failed, y.phase, y.count)) == some (4, false, false, 4)) &&
     w.me.waittoDue 10 && w.me.plainReg 6 && !w.fused && w.me.holds 0 && w.me.member 0 && (chan 0).epoch ≤ w.me.awaitedOn (chan 0) &&
     ends (exec .waittoExpiry w) (fun t => t.me.gpr 6 == 0x2000000000000003 && t.me.pc == 4 && t.me.wait.isNone) &&
     past.me.awaitedOn (chan 0) < (chan 0).epoch && !past.me.user.bmask.getLsbD 32 &&
     ends (exec .waittoExpiry past) (fun t => (t.me.gpr 6).getLsbD 63 && !(t.me.gpr 6).getLsbD 61 && t.me.l1d.isEmpty && t.me.wait.isNone) &&
     k.me.waittoDue 10 && !k.fused && ends (exec .waittoExpiry k) (fun t => t.me.gpr 7 == 3 && t.waiters.isEmpty && t.me.wait.isNone)) = true := by
  decide +kernel

/-! ## Vectors -/

/-- Vector registers. -/
def vregs (l : List (Nat × VReg)) (s : State) : State := s.updMe (fun c => l.foldl (fun c x => c.setVr x.1 x.2) c)

/-- Predicate registers. -/
def pregs (l : List (Nat × Word)) (s : State) : State := s.updMe (fun c => l.foldl (fun c x => c.setPr x.1 x.2) c)

/-- FCTL. -/
def fctl (x : Word) (s : State) : State := s.updMe (fun c => { c with user := { c.user with fctl := x } })

/-- The vector state: v1 and v2 with signs, carries and full-width shift counts in their elements, v3 the old
destination, p1 with every third byte. -/
def vec0 : State :=
  pregs [(1, 0x9249249249249249), (2, 0), (3, 0x00FF00FF0F0F3333)] (regs [(7, 0xFFFFFFFFFFFFFF85), (8, 3)]
    (vregs [
      (1, 0xE3BE99744F2A05E0BB96714C2702DDB8936E4924FFDAB5906B4621FCD7B28D68431EF9D4AF8A65401BF6D1AC87623D18F3CEA9845F3A15F0CBA6815C3712EDC8),
      (2, 0xE27D18B34EE9841FBA55F08B26C15CF7922DC863FE9934CF6A05A03BD6710CA742DD7813AE49E47F1AB550EB8621BC57F28D28C35EF9942FCA65009B36D16C07),
      (3, 0x3F3E3D3C3B3A393837363534333231302F2E2D2C2B2A292827262524232221201F1E1D1C1B1A191817161514131211100F0E0D0C0B0A09080706050403020100)] user))

/-- Element k of the result of an instruction is f k; no flag is set. -/
def vecIs (s : State) (i : Instr) (vd : BitVec 5) (w : Nat) (f : Nat → Nat) : Bool :=
  ends (exec i s) (fun t => t.me.vr vd.toNat == vecOf w ((List.range (512 / w)).map f) && t.me.pc == s.me.pc + 4 && t.me.user.fflags == s.me.user.fflags)

/-- Element k of the predicate an instruction writes is b k. -/
def predIs (s : State) (i : Instr) (pd : BitVec 3) (w : Nat) (b : Nat → Bool) : Bool :=
  ends (exec i s) (fun t => t.me.pr pd.toNat == predOf w ((List.range (512 / w)).map b) && t.me.pc == s.me.pc + 4)

/-- The forms of the last source: a register, g7, an immediate. -/
def lasts : List (BitVec 5 × BitVec 2) := [(2, 0), (7, 1), (0x1D, 2)]

/-- Witness of VectorIntegerInstructionsWriteTheTableResult: each form of the last source, under p1. -/
theorem witness_vector_ints_form : vec0.me.plainReg 7 = true ∧ lasts.all (fun l => decide (l.2 ≠ 3)) = true := by decide +kernel

/-- R306: each vector integer instruction on words of a register. -/
theorem test_vector_ints : vecIntTable.all (fun e =>
    let l : BitVec 5 × BitVec 2 := (2, 0)
    let ty : BitVec 2 := 2
    let w := 32
    vecIs vec0 (e.1 3 1 l.1 1 ty l.2) 3 w (fun k => if activeIn vec0 1 w k then
      wrapCode w (e.2 w (elem (vec0.me.vr 1) k w) (lastB vec0 l.1 l.2 w k)) else elem (vec0.me.vr 3) k w)) = true := by decide +kernel

/-- R306: VSADD and VSSUB clamp, and set SAT only for an active element. -/
theorem test_vector_saturating :
    (let s := vregs [(1, vecOf 8 [0x7F, 0x80, 0x7F]), (2, vecOf 8 [1, 0xFF, 1])] user
     let t := pregs [(1, 0x2)] s
     ends (exec (.vsadd 3 1 2 0 0 0) s) (fun u => elem (u.me.vr 3) 0 8 == 0x7F && elem (u.me.vr 3) 1 8 == 0x80 && u.me.user.fflags == 0x80) &&
     ends (exec (.vssub 3 1 2 1 0 0) t) (fun u => elem (u.me.vr 3) 1 8 == 0x81 && elem (u.me.vr 3) 0 8 == 0 && u.me.user.fflags == 0)) = true := by decide +kernel

/-- Witness of VectorComparesWriteOnlyActiveElements: under p1 and under the empty p2. -/
theorem witness_vector_compares : vecCmpTable.all (fun e => lasts.all (fun l => [(1 : BitVec 2), 2].all (fun pg =>
    predIs vec0 (e.1 4 1 l.1 pg 2 l.2) 4 32 (fun k => activeIn vec0 pg 32 k && e.2 32 (elem (vec0.me.vr 1) k 32) (lastB vec0 l.1 l.2 32 k))))) = true := by
  decide +kernel

/-- Witness of PermuteInstructionsMoveTheNamedElements: the scalar forms, and each instruction under p3. -/
theorem witness_permutes :
    (let s := vec0
     let w := 16
     let A := fun k => elem (s.me.vr 1) k w
     let D := fun k => elem (s.me.vr 3) k w
     let act := activeIn s 3 w
     s.me.plainReg 7 && s.me.plainReg 8 &&
     vecIs s (.vbcast 3 7 3 1 1) 3 w (fun k => if act k then 0xFF85 else D k) && vecIs s (.vsel 3 1 2 3 1 0) 3 w (fun k => if act k then A k else elem (s.me.vr 2) k w) &&
     vecIs s (.vperm 3 1 2 3 1) 3 w (fun k => if act k then A (elem (s.me.vr 2) k w % 32) else D k) &&
     vecIs s (.vsldn 3 1 8 3 1 1) 3 w (fun k => if act k then (if k + 3 < 32 then A (k + 3) else 0) else D k) &&
     vecIs s (.vslup 3 1 8 3 1 1) 3 w (fun k => if act k then (if 3 ≤ k then A (k - 3) else 0) else D k) &&
     vecIs s (.vslup 3 1 7 0 1 1) 3 w (fun _ => 0) &&
     vecIs s (.vins 3 7 8 0 1 1) 3 w (fun k => if k = 3 then 0xFF85 else D k) && vecIs s (.vins 3 7 8 2 1 1) 3 w D &&
     ends (exec (.vext 9 1 8 1 1) s) (fun t => t.me.gpr 9 == (BitVec.ofNat 16 (A 3)).signExtend 64) &&
     vecIs s (.viota 3 3 1) 3 w (fun k => ((List.range k).filter act).length) &&
     vecIs s (.vcmpr 3 1 3 1) 3 w (fun k => match ((List.range 32).filter act)[k]? with | some j => A j | none => 0) &&
     vecIs s (.vscan 3 1 3 1) 3 w (fun k => if act k then (((List.range (k + 1)).filter act).map A).sum % 2 ^ w else D k)) = true := by decide +kernel

/-- R310: the reductions under p1, and with no active element. -/
theorem test_reductions :
    (let s := vregs [(1, vecOf 32 [5, 0xFFFFFFF0, 7])] (pregs [(1, 0xFFF)] vec0)
     vecIs s (.vredsum 3 1 1 2) 3 32 (fun k => if k = 0 then 0xFFFFFFFC else 0) && vecIs s (.vredmax 3 1 1 2) 3 32 (fun k => if k = 0 then 7 else 0) &&
     vecIs s (.vredmin 3 1 1 2) 3 32 (fun k => if k = 0 then 0xFFFFFFF0 else 0) && vecIs s (.vredmax 3 1 2 2) 3 32 (fun k => if k = 0 then 0x80000000 else 0) &&
     vecIs s (.vredmin 3 1 2 2) 3 32 (fun k => if k = 0 then 0x7FFFFFFF else 0) && vecIs s (.vredsum 3 1 2 2) 3 32 (fun _ => 0)) = true := by decide +kernel

/-- R36: 1 + 2 + ... + 16 in F32, and the tree's order: 1e30 - 1e30 first, then + 1. -/
theorem test_vredfsum :
    (let s := vregs [(1, vecOf 32 [0x7149F2CA, 0xF149F2CA, 0x3F800000])] user
     let t := vregs [(1, vecOf 32 [0x7149F2CA, 0x3F800000, 0xF149F2CA])] user
     ends (exec (.vredfsum 3 1 0 0 1) s) (fun u => elem (u.me.vr 3) 0 32 == 0x3F800000) &&
     ends (exec (.vredfsum 3 1 0 0 1) t) (fun u => elem (u.me.vr 3) 0 32 == 0 && u.me.user.fflags == 1)) = true := by decide +kernel

/-- R311, R312: the predicate instructions on p3 and p1 at byte and word elements. -/
theorem test_predicates : vec0.me.plainReg 9 = true ∧ vec0.me.plainReg 7 = true ∧
    (let s := vec0
     let a := s.me.pr 3
     let b := s.me.pr 1
     ends (exec (.pand 4 3 1 0 0) s) (fun t => t.me.pr 4 == a &&& b) && ends (exec (.por 4 3 1 0 0) s) (fun t => t.me.pr 4 == a ||| b) &&
     ends (exec (.pxor 4 3 1 0 0) s) (fun t => t.me.pr 4 == a ^^^ b) && ends (exec (.pnot 4 3 1 0) s) (fun t => t.me.pr 4 == ~~~a &&& b) &&
     ends (exec (.pnot 0 3 1 0) s) (fun t => t.me.p == s.me.p) && ends (exec (.pcnt 9 3 0 0) s) (fun t => t.me.gpr 9 == 32) &&
     ends (exec (.pfirst 9 3 0 2) s) (fun t => t.me.gpr 9 == 0) && ends (exec (.pfirst 9 3 2 2) s) (fun t => t.me.gpr 9 == 16) &&
     ends (exec (.pget 9 3) s) (fun t => t.me.gpr 9 == a) && predIs s (.pset 4 3 1 2) 4 16 (fun k => k < 3) && predIs s (.pset 4 7 0 1) 4 8 (fun _ => true)) = true := by
  decide +kernel

/-! ## Vector floating point -/

/-- F32 vectors: finite values, a subnormal, an infinity, a signalling NaN in lane 6. -/
def vf0 : State := pregs [(1, 0x000000FFFFFFFFFF), (2, 0x0F000000)] (vregs
  [(1, vecOf 32 [0x3F800000, 0xC0200000, 0x00000001, 0x7F800000, 0x40490FDB, 0x80000000, 0x7F800001, 0x7FC00000, 0x41200000, 0x3EAAAAAB]),
   (2, vecOf 32 [0x40000000, 0x3F000000, 0x3F800000, 0xFF800000, 0x40400000, 0x00000000, 0x3F800000, 0x3F800000, 0x00000000, 0x40400000]),
   (3, vecOf 32 [0x3F800000, 0x3F800000, 0x3F800000, 0x3F800000, 0x3F800000])] user)

/-- Both cases of a floating-point instruction on a state: it completes with its lanes, or takes cause 12. -/
def fpIs (s : State) (i : Instr) (vd : BitVec 5) (pg : BitVec 2) (w : Nat) (lane : Nat → Nat × Exc) (post : State → State) : Bool :=
  let es := ((List.range (512 / w)).filter (fun k => activeIn s pg w k)).map (fun k => (k, (lane k).2))
  if es.all (fun e => !e.2.enabled s.me.user.fctl) then
    nexts (exec i s) (post (s.completes (fun c => (c.accrue (es.map (·.2))).setVr vd.toNat
      (vecOf w ((List.range (512 / w)).map (fun k => if activeIn s pg w k then (lane k).1 % 2 ^ w else elem (s.me.vr vd.toNat) k w))))))
  else nexts (exec i s) (s.takeTrap 12 (ieeeValue es s.me.user.fctl))

/-- The arithmetic instructions of VectorFloatInstructionsComputeTheirLanes on one state. -/
def fpArith (ty rm : BitVec 2) (fzi fzo : BitVec 1) (pg : BitVec 2) (s : State) : Bool :=
  let f := fpFmt ty
  let a := fpOperand s f fzi 1
  let b := fpOperand s f fzi 2
  let d := fpOperand s f fzi 3
  fpBinTable.all (fun e => fpIs s (e.1 3 1 2 pg ty fzi fzo rm) 3 pg f.width (fun k =>
    fpOut f fzo [(a k).2, (b k).2] (e.2 f (fpMode s rm) (ufOn s) (a k).1 (b k).1)) id) &&
  fpUnTable.all (fun e => fpIs s (e.1 3 1 pg ty fzi fzo rm) 3 pg f.width (fun k =>
    fpOut f fzo [(a k).2] (e.2 f (fpMode s rm) (ufOn s) (a k).1)) id) &&
  fmaTable.all (fun e => fpIs s (e.1 3 1 2 pg ty fzi fzo rm) 3 pg f.width (fun k =>
    let x := unpack f (a k).1
    let y := unpack f (b k).1
    let z := unpack f (d k).1
    fpOut f fzo [(a k).2, (b k).2, (d k).2] (fmaOp f (fpMode s rm) (ufOn s)
      ((mulVals x y).map (fun v => if e.2.1 then v.negate else v)) (x.isSnan || y.isSnan || z.isSnan) (if e.2.2 then z.negate else z))) id)

/-- Witness of VectorFloatInstructionsComputeTheirLanes: no exception enabled; every exception enabled; NV enabled and no
active lane raises it. -/
theorem witness_fp_arith : fpArith 0 0 0 0 1 vf0 = true ∧ fpArith 0 2 1 1 0 (fctl 0x1F0 vf0) = true ∧ fpArith 2 1 0 1 2 (fctl 0x103 vf0) = true := by
  decide +kernel

/-- R293: 2^3 and log2 of 10; 2^x of an integer is exact. -/
theorem test_exp_log :
    (let s := vregs [(1, vecOf 32 [0x40400000, 0xC0000000]), (2, vecOf 32 [0x41200000, 0x3F800000])] (pregs [(1, 0xFF)] user)
     ends (exec (.vfexp2 3 1 1 0 0 0 0) s) (fun t => elem (t.me.vr 3) 0 32 == 0x41000000 && elem (t.me.vr 3) 1 32 == 0x3E800000 && t.me.user.fflags == 0) &&
     ends (exec (.vflog2 3 2 1 0 0 0 0) s) (fun t => elem (t.me.vr 3) 0 32 == 0x40549A78 && elem (t.me.vr 3) 1 32 == 0 && t.me.user.fflags == 1)) = true := by decide +kernel

/-- R287: 1 + 2, 10 / 0 raises DZ, infinity - infinity raises NV, the square root of 2. -/
theorem test_fp_values :
    (let s := vregs [(1, vecOf 32 [0x3F800000, 0x41200000, 0x7F800000, 0x40000000]), (2, vecOf 32 [0x40000000, 0, 0xFF800000, 0x3F800000])] (pregs [(1, 0xFFFF)] user)
     ends (exec (.vfadd 3 1 2 1 0 0 0 0) s) (fun t => elem (t.me.vr 3) 0 32 == 0x40400000 && elem (t.me.vr 3) 2 32 == 0x7FC00000 && t.me.user.fflags == 0x10) &&
     ends (exec (.vfdiv 3 1 2 1 0 0 0 0) s) (fun t => elem (t.me.vr 3) 1 32 == 0x7F800000 && elem (t.me.vr 3) 0 32 == 0x3F000000) &&
     ends (exec (.vfsqrt 3 1 1 0 0 0 0) s) (fun t => elem (t.me.vr 3) 3 32 == 0x3FB504F3)) = true := by decide +kernel

/-- Witness of SignDotAndClassComputeTheirLanes: VFSGN by each rm, with vb = 0 for the last; both types of VFDOT2. -/
theorem witness_sign_dot_class :
    (let A := fun k => elem (vf0.me.vr 1) k 32
     [(0 : BitVec 2), 1, 2, 3].all (fun rm => let vb : BitVec 5 := if rm = 3 then 0 else 2
       fpIs vf0 (.vfsgn 3 1 vb 1 0 rm) 3 1 32 (fun k => if (unpack .f32 (A k)).isNan then (0x7FC00000, { nv := (unpack .f32 (A k)).isSnan })
         else
           let sb := (elem (vf0.me.vr vb.toNat) k 32).testBit 31
           let neg := if rm = 0 then sb else if rm = 1 then !sb else if rm = 2 then (A k).testBit 31 != sb else false
           (A k % 2 ^ 31 + (if neg then 2 ^ 31 else 0), .none)) id) &&
     ends (exec (.vfclass 3 1 1 0) vf0) (fun t => (List.range 10).map (fun k => elem (t.me.vr 3) k 32) == [64, 2, 32, 128, 64, 8, 256, 512, 64, 64]) &&
     (let s := vregs [(1, vecOf 16 [0x3C00, 0x4000, 0x4200]), (2, vecOf 16 [0x4000, 0x4000, 0x3C00]), (3, vecOf 32 [0x3F800000])] user
      ends (exec (.vfdot2 3 1 2 0 0 0 0 1) s) (fun t => elem (t.me.vr 3) 0 32 == 0x40E00000 && elem (t.me.vr 3) 1 32 == 0x40400000)) &&
     (let s := vregs [(1, vecOf 16 [0x3F80, 0x4000]), (2, vecOf 16 [0x4000, 0x4000])] user
      ends (exec (.vfdot2 3 1 2 0 1 0 0 1) s) (fun t => elem (t.me.vr 3) 0 32 == 0x40C00000))) = true := by decide +kernel

/-- Witness of VectorFloatComparesWriteOnlyActiveElements: with no exception enabled, and with NV enabled and a NaN in an
active lane. -/
theorem witness_fp_compares : fpCmpTable.all (fun e => [vf0, fctl 0x100 vf0].all (fun s =>
    let a := fpOperand s .f32 0 1
    let b := fpOperand s .f32 0 2
    let nv := fun k => let x := unpack .f32 (a k).1; let y := unpack .f32 (b k).1
      if e.2.2 then x.isNan || y.isNan else x.isSnan || y.isSnan
    let es := ((List.range 16).filter (fun k => activeIn s 1 32 k)).map (fun k => (k, ((a k).2.or (b k).2).or { nv := nv k }))
    if es.all (fun x => !x.2.enabled s.me.user.fctl) then
      nexts (exec (e.1 4 1 2 1 0 0) s) (s.completes (fun c => (c.accrue (es.map (·.2))).setPr 4
        (predOf 32 ((List.range 16).map (fun k => activeIn s 1 32 k && e.2.1 (unpack .f32 (a k).1) (unpack .f32 (b k).1))))))
    else nexts (exec (e.1 4 1 2 1 0 0) s) (s.takeTrap 12 (ieeeValue es s.me.user.fctl)))) = true := by decide +kernel

/-! ## Conversions -/

/-- Witness of FloatConversionsRoundEachElementOnce: each conversion under p1 with no exception enabled and with all. -/
theorem witness_conversions : cvtTable.all (fun e => [vf0, fctl 0x1F0 vf0].all (fun s =>
    let src := e.2.1
    let dst := e.2.2.1
    let n := e.2.2.2.1
    let lane := fun k =>
      let a := flushIn src false (elem (s.me.vr 1) k src.width)
      fpOut dst 0 [a.2] (toFormat dst (fpMode s 0) (ufOn s && !e.2.2.2.2) (unpack src a.1))
    let es := ((List.range n).filter (fun k => activeIn s 1 src.width k)).map (fun k => (k, (lane k).2))
    if es.all (fun x => !x.2.enabled s.me.user.fctl) then
      nexts (exec (e.1 3 1 1 0 0 0) s) (s.completes (fun c => (c.accrue (es.map (·.2))).setVr 3 (vecOf dst.width ((List.range (512 / dst.width)).map
        (fun k => if k < n ∧ activeIn s 1 src.width k = true then (lane k).1 % 2 ^ dst.width else 0)))))
    else nexts (exec (e.1 3 1 1 0 0 0) s) (s.takeTrap 12 (ieeeValue es s.me.user.fctl)))) = true := by decide +kernel

/-- R298 to R300: values: 1/3 to F16, 500 to E4M3 and E5M2, 2.5 and -1e10 to I32, 7 to F64, saturation to I8. -/
theorem test_conversions :
    (let s := vregs [(1, vecOf 32 [0x3EAAAAAB, 0x43FA0000, 0x40200000, 0xD01502F9]), (2, vecOf 32 [0x7F, 0x80, 0xFFFFFF00, 5]), (4, vecOf 64 [7])] user
     ends (exec (.vcvtF16F32 3 1 0 0 0 1) s) (fun t => elem (t.me.vr 3) 0 16 == 0x3555) && ends (exec (.vcvtE4m3F32 3 1 0 0 0 1) s) (fun t => elem (t.me.vr 3) 1 8 == 0x7E) &&
     ends (exec (.vcvtE5m2F32 3 1 0 0 0 1) s) (fun t => elem (t.me.vr 3) 1 8 == 0x60) &&
     ends (exec (.vcvtI32F32 3 1 0 0 0 1) s) (fun t => elem (t.me.vr 3) 2 32 == 2 && elem (t.me.vr 3) 3 32 == 0x80000000 && t.me.user.fflags.getLsbD 4) &&
     ends (exec (.vcvtF64I64 3 4 0 0 0 1) s) (fun t => elem (t.me.vr 3) 0 64 == 0x401C000000000000) &&
     ends (exec (.vcvtI8I32 3 2 0) s) (fun t => (List.range 4).map (fun k => elem (t.me.vr 3) k 8) == [0x7F, 0x7F, 0x80, 5] && t.me.user.fflags == 0x80)) = true := by decide +kernel

/-- Witness of IntegerConversionsRoundOrSaturate: an enabled NV takes cause 12, and an inactive lane raises nothing. -/
theorem witness_integer_conversions :
    (ends (exec (.vcvtI32F32 3 1 1 0 0 2) (fctl 0x100 vf0)) (fun t => t.me.sup.scause == 12 && t.me.vr 3 == vf0.me.vr 3) &&
     ends (exec (.vcvtI32F32 3 1 3 0 0 2) (fctl 0x1F0 vf0)) (fun t => t.me.pc == 4) &&
     ends (exec (.vcvtI16I32 3 1 2) vf0) (fun t => t.me.pc == 4) && ends (exec (.vcvtF32I32 3 2 1 0 0 1) vf0) (fun t => t.me.pc == 4)) = true := by decide +kernel

/-- Witness of BlockConversionsApplyTheirScale: the last register pair, each block conversion, an enabled exception, and
VCVT.E8.F32 with a NaN, of zeros, and of finite values. -/
theorem witness_block_conversions :
    (let s := vregs [(30, vecOf 32 [0x40C00000, 0x3F800000]), (31, vecOf 32 [0x41400000]), (2, vecOf 8 [128])] user
     let z := vregs [(30, 0), (31, 0)] s
     ends (exec (.vcvtE2m1F32 3 30 2 0 0 1) s) (fun t => elem (t.me.vr 3) 0 4 == 5 && elem (t.me.vr 3) 1 4 == 1 && elem (t.me.vr 3) 16 4 == 7 && t.me.pc == 4) &&
     ends (exec (.vcvtE4m3F32Bs 3 30 2 0 0 1) s) (fun t => elem (t.me.vr 3) 0 8 == 0x44 && t.me.pc == 4) &&
     ends (exec (.vcvtF32E2m1 30 2 2 0 0 1) s) (fun t => t.me.pc == 4 && elem (t.me.vr 30) 1 32 == 0x80000000) &&
     ends (exec (.vcvtF32E4m3Bs 30 2 2 0 0 1) (fctl 0x1F0 (vregs [(2, vecOf 8 [128, 0x7F])] s))) (fun t => t.me.pc == 4) &&
     ends (exec (.vcvtE4m3F32Bs 3 30 2 0 0 1) (fctl 0x10 (vregs [(30, vecOf 32 [0x3F8CCCCD])] s))) (fun t => t.me.sup.scause == 12) &&
     ends (exec (.vcvtE8F32 3 30 6 0 0 1) s) (fun t => t.me.vr 3 == 128) && ends (exec (.vcvtE8F32 3 30 4 0 0 1) z) (fun t => t.me.vr 3 == 127) &&
     ends (exec (.vcvtE8F32 3 30 5 0 0 1) (vregs [(31, vecOf 32 [0x7FC00000])] s)) (fun t => t.me.vr 3 == 255)) = true := by decide +kernel

/-- Witness of RoundingIsCorrectInEveryMode: magnitudes that round, overflow, underflow, and that are subnormal and exact with
the underflow trap off and on; operations on 2, 3 and 1/2. -/
theorem witness_rounding :
    ((roundTo .e4m3 .rne false false 17 0 false).2.of == false && (roundTo .e4m3 .rne false false 17 0 false).1 == 0x58 &&
     (roundTo .e4m3 .odd false false 17 0 false).1 == 0x59 && (roundTo .e4m3 .rtz false true 479 0 false).1 == 0xFE &&
     (roundTo .e4m3 .rne false false 1000 0 false).2.of && (roundTo .f16 .rup false false 65520 0 false).1 == 0x7C00 &&
     (roundTo .f16 .rdn false false 65520 0 false).1 == 0x7BFF &&
     roundTo .f16 .rne false false 1 (-25) false == (0, { nx := true, uf := true }) && roundTo .f16 .rne false false 3 (-24) false == (3, {}) &&
     roundTo .f16 .rne true false 3 (-24) false == (3, { uf := true }) &&
     (let two : FVal := .fin false 1 1
      let three : FVal := .fin true 3 0
      let half : FVal := .fin false 1 (-1)
      addVals .f16 .rne false two three == (0xBC00, {}) && mulOp .f16 .rne false three half == (0xBE00, {}) && divOp .f16 .rtz false half three == (0xB155, { nx := true }) &&
      sqrtOp .f16 .rup false two == (0x3DA9, { nx := true }) && rcpOp .f16 false three == (0xB555, { nx := true }) && rsqOp .f16 false half == (0x3DA8, { nx := true }) &&
      toIntOp 32 .rdn (.fin true 5 (-1)) == (0xFFFFFFFD, { nx := true }) && toIntOp 8 .rne (.fin false 1 7) == (0x7F, { nv := true }) &&
      divOp .f16 .rne false two (.fin true 0 0) == (0xFC00, { dz := true }))) = true := by decide +kernel

/-! ## Vector memory -/

/-- g5 points into the core's own store, v4 holds offsets, p1 chooses lanes; bytes lie at 0x3FC0 on. -/
def vm0 : State := bytesAt (localKey 0 0x3FC0) ((List.range 64).map (fun k => BitVec.ofNat 8 (k + 1)))
  (pregs [(1, 0x0F0F0000000000FF), (2, 0)] (regs [(5, 0x900000003FC0), (6, 0xFFFFFFFFFFFFFFFC), (9, 0xA00000000000)]
    (vregs [(3, 0x1111111122222222333333334444444455555555666666667777777788888888), (4, 0xFFFFFFFC0000000800000004)] duo)))

/-- Witness of VectorLoadsReadTheActiveElements: each load and element size, under p1; the check of an active element that
fails, and of an inactive one that would. -/
theorem witness_vector_loads :
    (let s := vm0
     let m := regs [(5, 0x90000003FFC0)] s
     s.me.plainReg 5 && s.me.plainReg 6 &&
     [(0 : BitVec 2), 1, 2, 3].all (fun z => (vmemTable true s 3 5 6 1 z 0).all (fun e =>
       !okWith (checkElems e.2.1 .load e.2.2.1 (activesAt s 1 e.2.1) s) (fun ps _ => ps.length == (activesAt s 1 e.2.1).length) ||
       ends (exec e.1 s) (fun t => t.me.pc == 4 && (activesAt s 1 e.2.1).all (fun k =>
         match windowOf (e.2.2.1 k).toNat with | .self o => elem (t.me.vr 3) k (8 * e.2.1) == leVal (Memory.readBytes s.mem (localKey 0 o) e.2.1) | _ => false)))) &&
     (vmemTable true s 3 5 6 1 2 0).all (fun e => okWith (checkElems e.2.1 .load e.2.2.1 (activesAt s 1 e.2.1) s) (fun _ _ => true)) &&
     stopsWith (checkElems 4 .load (fun k => 0x900000040000 + BitVec.ofNat 64 (4 * k)) (activesAt m 1 4) m) (.trap 3 0x900000040000) &&
     stopped (.vld 3 5 1 2 1) m (.trap 3 0x900000040000) &&
     ends (exec (.vld 3 5 2 2 1) m) (fun t => t.me.vr 3 == m.me.vr 3 && t.me.pc == 4)) = true := by decide +kernel

/-- Witness of VectorStoresWriteTheActiveElementsInOrder: each store; a stride of zero leaves the highest element; a
failing check stores nothing. -/
theorem witness_vector_stores :
    (let s := vm0
     let z := regs [(6, 0)] s
     let m := regs [(5, 0x90000003FFC0)] s
     s.me.plainReg 5 && s.me.plainReg 6 && (vmemTable false s 3 5 6 1 2 0).all (fun e => okWith (checkElems e.2.1 .store e.2.2.1 (activesAt s 1 e.2.1) s) (fun _ _ => true)) &&
     ends (exec (.vst 3 5 1 2 0) s) (fun t => t.peek (localKey 0 0x3FC0) 4 == 0x88888888 && t.peek (localKey 0 0x3FC4) 4 == 0x77777777 && t.peek (localKey 0 0x3FC8) 4 == s.peek (localKey 0 0x3FC8) 4) &&
     ends (exec (.vscat 3 5 4 1 0) s) (fun t => t.peek (localKey 0 0x3FC4) 4 == 0x88888888 && t.peek (localKey 0 0x3FC8) 4 == 0x77777777) &&
     ends (exec (.vsts 3 5 6 0 2) z) (fun t => t.peek (localKey 0 0x3FC0) 4 == elem (s.me.vr 3) 15 32) &&
     stopsWith (checkElems 4 .store (fun k => 0x900000040000 + BitVec.ofNat 64 (4 * k)) (activesAt m 1 4) m) (.trap 3 0x900000040000) &&
     stopped (.vst 3 5 1 2 1) m (.trap 3 0x900000040000)) = true := by decide +kernel

/-- Witness of VldbBroadcastsOneElement: an element, no active lane, a failing check. -/
theorem witness_vldb :
    (let s := vm0
     let m := regs [(5, 0x90000003FFC1)] s
     s.me.plainReg 5 && activesAt s 2 4 == [] && nexts (exec (.vldb 3 5 2 2 0) s) (s.completes id) && activesAt s 1 4 != [] &&
     okWith (place 0x900000003FC0 4 .load true s) (fun p u => !u.eccError p.key 4) && ends (exec (.vldb 3 5 1 2 0) s) (fun t =>
       elem (t.me.vr 3) 0 32 == 0x04030201 && elem (t.me.vr 3) 2 32 == elem (s.me.vr 3) 2 32 && elem (t.me.vr 3) 14 32 == 0x04030201) &&
     stopsWith (place 0x90000003FFC1 4 .load true m) (.trap 2 0x90000003FFC1) && stopped (.vldb 3 5 1 2 0) m (.trap 2 0x90000003FFC1)) = true := by decide +kernel

/-- Witness of VstaPerformsOneBankOperationPerElement: each operation; misaligned, foreign, FADD in deterministic mode. -/
theorem witness_vsta :
    (let s := regs [(5, 0xA00000000000)] vm0
     let odd := regs [(5, 0xA00000000002)] vm0
     let own := vm0
     s.me.plainReg 5 && !s.me.det && activesAt s 1 4 == [0, 1, 12, 14] && s.ownsPage s.me.ctx 0 0 && windowOf 0xA00000000038 == .shared 0 0x38 &&
     ends (exec (.vstaAdd 3 5 1 2) s) (fun t => t.peek (sharedKey 0 4) 4 == 0x77777777 && t.me.pc == 4) &&
     ends (exec (.vstaMin 3 5 1 2) s) (fun t => t.peek (sharedKey 0 0) 4 == 0x88888888 && t.peek (sharedKey 0 4) 4 == 0) &&
     ends (exec (.vstaMax 3 5 1 2) s) (fun t => t.peek (sharedKey 0 0) 4 == 0 && t.peek (sharedKey 0 4) 4 == 0x77777777) &&
     ends (exec (.vstaFadd 3 5 1 0) s) (fun t => t.peek (sharedKey 0 0) 4 == 0x88888888 && t.me.pc == 4) &&
     nexts (exec (.vstaAdd 3 5 1 2) odd) (odd.takeTrap 2 0xA00000000002) && nexts (exec (.vstaMax 3 5 1 2) own) (own.takeTrap 3 0x900000003FC0) &&
     nexts (exec (.vstaFadd 3 5 1 0) (det s)) ((det s).takeTrap 13 (wordOf (.vstaFadd 3 5 1 0)))) = true := by decide +kernel

/-! ## The reversible class -/

/-- Lanes for the pairs, all active. -/
def kerf0 : State := vregs [(1, 0x3F80000040490FDB3DCCCCCD), (2, 0x40000000402DF854BF800000), (4, 0x00000007FFFFFFF900010000), (5, 0x000000030000000500000100)]
  (pregs [(1, 0xFFF)] (user.updMe (fun c => { c with user := { c.user with kseq := 0x1234 } })))

/-- A forward instruction, then its undo on the result with the lanes of the operand: the head is as before and every
active lane is restored. -/
def roundTrip (e : Pair) (va vb : BitVec 5) (k : BitVec 4) : Bool :=
  ends (exec (e.fwd 3 va vb 1 k) kerf0) (fun t => t.me.kerfHead.length == 8 + 16 * e.slot && t.me.user.kseq == 0x1235 && t.me.pc == 4 &&
    ends (exec (e.undo 6 3 vb 1 k) t) (fun u => u.me.kerfHead.isEmpty && (List.range 3).all (fun j => elem (u.me.vr 6) j 32 == elem (kerf0.me.vr va.toNat) j 32)))

/-- Witness of ForwardInstructionsPushWhatTheyDiscard and of EveryUndoRestoresItsForwardInput: each pair forth and back;
the header; a lane that faults. -/
theorem witness_forward :
    (kerf0.me.kerfOp == none && pairTable.all (fun e => if e.useK then roundTrip e 4 5 8 else roundTrip e 1 2 8) &&
     ends (exec (.rmulq 3 4 5 1 8) kerf0) (fun t => leVal (t.me.kerfHead.drop 32) == header 2 2 8 32 0x1234 7 && leVal (t.me.kerfHead.take 2) == 0) &&
     (let z := vregs [(5, 0)] kerf0
      faultsOf z 1 (fun j => laneRmulq 8 (elem (z.me.vr 4) j 32) (elem (z.me.vr 5) j 32)) == 7 && nexts (exec (.rmulq 3 4 5 1 8) z) (z.takeTrap 11 7)) &&
     laneRmulf 0x3DCCCCCD 0xBF800000 == some (0xBDCCCCCD, 0) && laneRaddf 0x40490FDB 0x402DF854 != none) = true := by decide +kernel

/-- A head with one record. -/
def head (bs : List Byte) (s : State) : State := s.updMe (fun c => { c with kerfHead := bs })

/-- Witness of UndoInstructionsPopTheirOwnRecord: empty, another record, one's own, a lane that faults. -/
theorem witness_undo :
    (let rec4 := List.replicate 32 (0 : Byte) ++ leBytes 8 (header 4 2 8 32 5 7)
     let bad := [(0 : Byte), 1] ++ List.replicate 30 (0 : Byte) ++ leBytes 8 (header 4 2 8 32 5 7)
     kerf0.me.kerfRB == 0 && kerf0.me.kerfBB == 0 && pairTable.all (fun e => nexts (exec (e.undo 3 1 2 1 8) kerf0) (kerf0.takeTrap 10 kerf0.me.ksp)) &&
     nexts (exec (.umulq 3 1 2 1 8) (head rec4 kerf0)) ((head rec4 kerf0).takeTrap 8 (BitVec.ofNat 64 (header 4 2 8 32 5 7))) &&
     nexts (exec (.ushra 3 4 1 9) (head rec4 kerf0)) ((head rec4 kerf0).takeTrap 8 (BitVec.ofNat 64 (header 4 2 8 32 5 7))) &&
     ends (exec (.ushra 3 4 1 8) (head ([7, 7, 7, 7, 7, 7, 7, 7] ++ rec4) kerf0)) (fun t => t.me.kerfHead == [7, 7, 7, 7, 7, 7, 7, 7] && elem (t.me.vr 3) 0 32 == 0x01000000) &&
     nexts (exec (.ushra 3 4 1 8) (head bad kerf0)) ((head bad kerf0).takeTrap 11 1)) = true := by decide +kernel

/-- Witness of NarrowAndSelectPairsPushAndPop: both pairs forth and back under p1. -/
theorem witness_narrow_select :
    (kerf0.me.kerfHead.length + 80 ≤ 4096 &&
     ends (exec (.rnrw 3 1 1) kerf0) (fun t => elem (t.me.vr 3) 0 16 == 0x3DCC && t.me.kerfHead.length == 40 &&
       ends (exec (.unrw 6 3 1) t) (fun u => u.me.kerfHead.isEmpty && elem (u.me.vr 6) 0 32 == 0x3DCCCCCD && elem (u.me.vr 6) 3 32 == 0)) &&
     ends (exec (.rselz 3 2 1) kerf0) (fun t => elem (t.me.vr 3) 0 32 == 0 && elem (t.me.vr 3) 1 32 == 0x402DF854 && t.me.kerfHead.length == 24 &&
       leVal (t.me.kerfHead.drop 16) == header 8 2 0 16 0x1234 7 &&
       ends (exec (.uselz 6 3 1) t) (fun u => u.me.kerfHead.isEmpty && elem (u.me.vr 6) 0 32 == 0xBF800000))) = true := by decide +kernel

/-- Witness of MarkersDelimitTheKerfStack: push, read, drop past other records, the empty stack. -/
theorem witness_markers :
    (let s := regs [(5, 0x70009)] kerf0
     let m := leBytes 8 (header 0xFF 0 0 0 1 9) ++ leBytes 8 (header 0xFF 0 0 0 2 8) ++ List.replicate 32 (0 : Byte) ++ leBytes 8 (header 4 2 8 32 5 7)
     s.me.plainReg 5 && s.me.plainReg 8 && ends (exec (.kmark 5) s) (fun t => leVal t.me.kerfHead == header 0xFF 0 0 0 0x1234 9 && t.me.pc == 4) &&
     ends (exec (.kchk 8) s) (fun t => t.me.gpr 8 == 0) && nexts (exec (.kdrop 5) s) (s.takeTrap 10 s.me.ksp) &&
     ends (exec (.kchk 8) (head m s)) (fun t => t.me.gpr 8 == BitVec.ofNat 64 (header 4 2 8 32 5 7) && t.me.kerfHead == m) &&
     ends (exec (.kdrop 5) (head ([1, 2, 3, 4, 5, 6, 7, 8] ++ m) s)) (fun t => t.me.kerfHead == [1, 2, 3, 4, 5, 6, 7, 8])) = true := by decide +kernel

/-- The head full, at given levels. -/
def fullHead (rb bb kback : Nat) : State := (regs [(5, 9)] user).updMe (fun c => { c with
  kerfHead := List.replicate 4096 0, kerfRB := rb, kerfBB := bb, user := { c.user with kback := BitVec.ofNat 64 kback } })

/-- Witness of KerfLevelsMoveAsTheStackGrowsAndShrinks, its pushes: room in the region, none and no backing, a spill. -/
theorem witness_full_head (rb kback : Nat) : (fullHead rb 0 kback).me.plainReg 5 = true ∧ (fullHead rb 0 kback).me.kerfOp = none ∧
    (fullHead rb 0 kback).me.kerfHead.length = 4096 ∧ (fullHead rb 0 kback).me.kerfRS = 4096 ∧ (fullHead rb 0 kback).me.kerfRB = rb ∧
    (fullHead rb 0 kback).me.kerfBB = 0 :=
  ⟨by rfl, by rfl, List.length_replicate, by rfl, by rfl, by rfl⟩

/-- The levels of those three cases. -/
theorem witness_full_head_levels : 3072 + 1024 ≤ 4096 ∧ 4096 < 4096 + 1024 ∧ (fullHead 4096 0 0).me.backCap = 0 ∧ (fullHead 4096 0 2).me.backCap = 8192 := by
  decide +kernel

/-- Channel 63 moves a block one way. -/
def moving (spill : Bool) (f : Option (Nat × Word)) : State := user.updMe (fun c => { c with
  kerfRB := if spill then 4096 else 0, kerfBB := if spill then 0 else 4096, kerfOp := some ⟨spill, 4096, false, none, f⟩, user := { c.user with kback := 2 } })

/-- Witness of KerfLevelsMoveAsTheStackGrowsAndShrinks, its transfers: KDROP starts a refill; a spill, a refill and a block of
KDROP's search are done; a block not yet moved; a transfer that has failed. -/
theorem witness_kerf_transfers :
    (let deep := (regs [(5, 9)] user).updMe (fun c => { c with kerfBB := 4096, user := { c.user with kback := 2 } })
     let op (s : State) (f : KerfOp → KerfOp) : State := s.updMe (fun c => { c with kerfOp := c.kerfOp.map f })
     deep.me.plainReg 5 && deep.me.kerfOp == none && deep.me.kerfHead == [] && deep.me.kerfRB == 0 &&
     nexts (exec (.kdrop 5) deep) ((deep.updMe (fun c => { c with kerfOp := some ⟨false, 0, false, some [], none⟩ })).park .kerf 0) &&
     (moving true none).kerfDue true && !(moving true none).regionBad 0 4096 && (moving false none).kerfDue false &&
     ends (exec .kerfSpillComplete (moving true none)) (fun t => t.me.kerfBB == 4096 && t.me.kerfRB == 0 && t.me.kerfOp.map (·.done) == some true) &&
     ends (exec .kerfRefillComplete (moving false none)) (fun t => t.me.kerfBB == 0 && t.me.kerfRB == 4096 && t.me.kerfOp.map (·.done) == some true) &&
     (let found := op (moving false none) (fun k => { k with search := some [1, 2] })
      ends (exec .kerfRefillComplete found) (fun t => t.me.kerfBB == 4096 && t.me.kerfRB == 0 && t.me.kerfOp.map (fun k => (k.done, k.search)) == some (true, some [1, 2]))) &&
     (let early := op (moving true none) (fun k => { k with moved := 4032 })
      nexts (exec .kerfSpillComplete early) early && nexts (exec .kerfRefillComplete early) early) &&
     nexts (exec (.kmark 5) (moving true (some (4, 0)))) ((moving true none).updMe (fun c => { c with kerfOp := none }) |>.takeTrap 9 (moving true none).me.ksp) &&
     nexts (exec (.kchk 5) (moving false (some (22, 0)))) (((moving false none).updMe (fun c => { c with kerfOp := none })).takeTrap 22 0)) = true := by decide +kernel

/-- Witness of ChannelSixtyThreeMovesOnePacketAService: a spill, a refill, KDROP's search, a fault; the last packet of each. -/
theorem witness_kerf_services :
    (let at63 (s : State) (f : KerfOp → KerfOp) : State := s.updMe (fun c => { c with kerfOp := c.kerfOp.map (fun k => f { k with moved := 4032 }) })
     let spill := at63 (moving true none) id
     let refill := bytesAt 0x20FC0 [7, 8] (at63 (moving false none) id)
     let search := bytesAt 0x20FC0 [7, 8] (at63 (moving false none) (fun k => { k with search := some (List.replicate 4032 1) }))
     let bad := { refill with eccBad := [(0x20000 + 4032, 32)] }
     spill.nextChannel == some 63 && refill.nextChannel == some 63 && search.nextChannel == some 63 && bad.nextChannel == some 63 &&
     !spill.eccError (spill.me.regionKey 4032) 64 && ends (exec .copyEngineService spill) (fun t => t.me.kerfOp.map (·.moved) == some 4096) &&
     ends (exec .copyEngineService refill) (fun t => t.me.kerfOp.map (·.moved) == some 4096 && t.peek (refill.me.regionKey 4032) 2 == 0x807) &&
     ends (exec .copyEngineService search) (fun t => t.me.kerfOp.map (fun k => (k.moved, k.search.map (·.drop 4030))) == some (4096, some ([1, 1, 7, 8] ++ List.replicate 62 0))) &&
     ends (exec .copyEngineService bad) (fun t => (t.me.kerfOp.bind (·.failed)).map (·.1) == some 22 && t.me.faultWords.map (·.qid) == [63])) = true := by decide +kernel

/-- What a block access needs of its page. -/
def movesOk (x : EngRes) : Bool := match x with | .ok k => k == 0x20000 | _ => false

/-- The page of the backing answers, for either transfer. -/
theorem witness_kerf_backing : (movesOk ((moving true none).engPlace (moving true none).me 0 4096 .store) &&
    movesOk ((moving false none).engPlace (moving false none).me 0 4096 .load)) = true := by decide +kernel

/-! ## Ranges, versioned registers, queues -/

/-- Witness of RangeAndVersionedRegistersFollowTheirRules: a unit of the context, of another, none; both versions; a core in
no partition. -/
theorem witness_ranges :
    (let r : RangeUnit := { truss := 0, unit := 3, ctx := 1, next := 0xFFFFFFFFFFFFFFFF, left := 10, div := 4, chunk := 2 }
     let s := { regs [(5, 0x13)] house with ranges := [r] }
     let o := { s with ranges := [{ r with ctx := 2 }] }
     let w := { regs [(5, 77)] house with parts := [{ part0 with versioned := Vector.replicate 16 (5, 4) }] }
     s.me.plainReg 6 && s.me.plainReg 7 && s.me.plainReg 5 && s.range? 0 3 == some r && r.ctx == s.me.ctx &&
     ends (exec (.rtake 6 5) s) (fun t => t.me.gpr 6 == 0xFFFFFFFFFFFFFFFF && t.me.gpr 7 == 3 && t.range? 0 3 == some { r with next := 2, left := 7 }) &&
     ends (exec (.rtake 6 5) o) (fun t => t.me.gpr 6 == 0 && t.me.gpr 7 == 0 && t.range? 0 3 == some { r with ctx := 2 }) &&
     house.range? 0 3 == none && (w.partOf 0).isSome && ends (exec (.vsrr 6 15 0) w) (fun t => t.me.gpr 6 == 5) && ends (exec (.vsrr 6 15 1) w) (fun t => t.me.gpr 6 == 4) &&
     ends (exec (.vsrw 5 15) w) (fun t => (t.partOf 0).map (fun p => p.versioned[15]?) == some (some (77, 5))) &&
     duo.partOf 0 == none && nexts (exec (.vsrw 5 15) duo) (duo.completes id) && ends (exec (.vsrr 6 15 1) duo) (fun t => t.me.pc == 4)) = true := by decide +kernel

/-- A command's common fields. -/
def plain : CmdHead := { irq := false, bar := false, wantsRecord := false, chan := 0, tag := 0x1234, crec := 0 }

/-- COPY of 100 bytes of the core's own store on channel 2. -/
def copy0 : Cmd := .copy { qch := 2, len := 100, src := 0x900000001000, dst := 0x900000002000, pkg := 0, rp := false }

/-- FILL of 100 bytes of the core's own store on channel 2. -/
def fill0 : Cmd := .fill { qch := 2, len := 100, dst := 0x900000002001, pat := 0x8877665544332211 }

/-- A command in four registers from g8. -/
def inRegs (h : CmdHead) (c : Cmd) (s : State) : State :=
  let w := encodeTcw h c
  regs [(8, w.extractLsb' 0 64), (9, w.extractLsb' 64 64), (10, w.extractLsb' 128 64), (11, w.extractLsb' 192 64)] s

/-- An entry of a core's queues. -/
def ent (field : Nat) (h : CmdHead) (c : Cmd) (st : EState) : Entry := { newEntry field c.channel h c with state := st }

/-- The core's queues. -/
def queues (es : List Entry) (s : State) : State := s.updMe (fun c => { c with entries := es })

/-- Witness of EnqPushesTheDecodedCommand: a command, one that decodes to none, one forbidden in a compute stretch, a full
issue queue; ENQM. -/
theorem witness_enq :
    (let s := inRegs plain copy0 house
     let bad := regs [(8, 0xFFFFFFFFFF001234)] s
     let far := det (inRegs plain (.fill { qch := 2, len := 100, dst := 0xA00000000000, pat := 0 }) house)
     let full := queues [ent 0 plain copy0 .issued, ent 0 plain fill0 .issued] s
     let m := bytesAt (localKey 0 0x100) (leBytes 32 (encodeTcw plain copy0).toNat) (regs [(5, 0x900000000100)] house)
     [(8 : BitVec 5), 9, 10, 11].all (fun r => s.me.plainReg r) && decodeTcw 0 (encodeTcw plain copy0) == some (plain, copy0) && !s.enqForbidden copy0 &&
     ends (exec (.enq 8 0) s) (fun t => t.me.entries == [ent 0 plain copy0 .issued] && t.me.pc == 4) &&
     decodeTcw 0 (bad.gr 11 ++ bad.gr 10 ++ bad.gr 9 ++ bad.gr 8) == none && nexts (exec (.enq 8 0) bad) (bad.takeTrap 19 0xFF001234) &&
     far.enqForbidden (.fill { qch := 2, len := 100, dst := 0xA00000000000, pat := 0 }) && nexts (exec (.enq 8 0) far) (far.takeTrap 13 (wordOf (.enq 8 0))) &&
     full.me.issueCount 0 == 2 && nexts (exec (.enq 8 0) full) (full.park (.enq 0) 0) &&
     m.me.plainReg 5 && okWith (loadM (m.gr 5) 32 m) (fun x u => decodeTcw 0 (BitVec.ofNat 256 x) == some (plain, copy0) && !u.enqForbidden copy0) &&
     ends (exec (.enqm 5 0) m) (fun t => t.me.entries == [ent 0 plain copy0 .issued])) = true := by decide +kernel

/-- Witness of QstatAndQwaitReportTheQueue: an active and an empty queue, a selector, a settled and an unsettled one, a stale
shard. -/
theorem witness_qstat :
    (let a := queues [{ ent 0 plain copy0 .active with pos := 64 }] (regs [(5, 2), (6, 1)] house)
     let p := queues [ent 0 plain copy0 .suspended] (regs [(5, 2)] house)
     let st := (regs [(5, 2)] house).updMe (fun c => { c with staleTags := [(2, 0x77)] })
     a.me.plainReg 7 && a.me.plainReg 5 && a.me.plainReg 0 &&
     ends (exec (.qstat 7 5 0 0) a) (fun t => t.me.gpr 7 == 0x4100123400000024) && ends (exec (.qstat 7 6 0 0) a) (fun t => t.me.gpr 7 == 0) &&
     ends (exec (.qstat 7 5 6 0) a) (fun t => t.me.gpr 7 == 0x900000001000) && ends (exec (.qstat 7 0 6 2) a) (fun t => t.me.gpr 7 == 0) &&
     p.me.queueSettled 2 && ends (exec (.qwait 7 5 0) p) (fun t => (t.me.gpr 7).toNat / 2 ^ 61 == 3) &&
     !a.me.queueSettled 2 && nexts (exec (.qwait 7 5 0) a) (a.park (.qwait 2) 7) &&
     st.me.queueSettled 2 && nexts (exec (.qwait 7 5 0) st) ((st.updMe (fun c => { c with staleTags := [] })).takeTrap 21 0x20077)) = true := by decide +kernel

/-- QFENCE over copy channel 2 and the matrix queue. -/
def fence0 : QfenceCmd := { qch := 2, qset := 1, cset := 4 }

/-- Witness of QueueEventsMoveEntriesAndEvents: each clause. -/
theorem witness_queue_events :
    (let done (h : CmdHead) : Entry := { ent 0 h copy0 .finishing with count := 100 }
     let irq := { plain with irq := true }
     let recd := { plain with wantsRecord := true, crec := 0x900000003000 }
     let x : Cmd := .xsched { qch := 2, jig := 0x900000004000 }
     let ev : EngineEvent := { stamp := 9, remaining := 0, kind := 0, cause := 4, qid := 2, tag := 0x1234 }
     let f (q : Nat) (st : EState) : Entry := { ent (if q < 64 then 0 else q - 63) plain (.qfence { fence0 with qch := if q < 64 then 2 else 0 }) st with qid := q }
     let both := queues [f 2 .fenced, f 64 .fenced] house
     let acc := queues [ent 0 { plain with bar := true, chan := 5 } x .issued] house
     acc.me.heldAt 2 < qidCap 2 && ends (exec (.entryAccepted 0) acc) (fun t => t.me.entries.map (·.state) == [.accepted] && t.me.exchange.map (·.1) == [5]) &&
     nexts (exec (.entryComplete 2) (queues [done plain] house)) (queues [] house) &&
     ends (exec (.entryComplete 2) (queues [done irq] house)) (fun t => t.me.entries.isEmpty && t.me.events == [{ stamp := 0, remaining := 0, kind := 2, cause := 0, qid := 2, tag := 0x1234 }]) &&
     ends (exec (.entryComplete 2) (queues [done recd] house)) (fun t => t.me.entries.isEmpty && t.peek (localKey 0 0x3000) 8 == 0x0000123400020000 && t.peek (localKey 0 0x3008) 8 == 100) &&
     (let full := { irq with tag := 7 }
      let crowd := (queues [done full] house).updMe (fun c => { c with events := List.replicate 16 ev })
      16 ≤ crowd.me.events.length && nexts (exec (.entryComplete 2) crowd) crowd) &&
     (let g (q : Nat) (st : EState) (qs : BitVec 4) : Entry := { f q st with cmd := .qfence { fence0 with qch := if q < 64 then 2 else 0, qset := qs } }
      let odd := queues [g 2 .accepted 1, g 64 .fenced 2] house
      odd.me.headEntry 64 == some (g 64 .fenced 2) && ends (exec (.qfence plain fence0) odd) (fun t => t.me.entries.map (fun e => (e.state, e.status, e.mismatch)) == [(.finishing, 2, true), (.finishing, 2, true)])) &&
     ends (exec .heldEventEnqueue (house.updMe (fun c => { c with heldEvents := [ev] }))) (fun t => t.me.events == [ev] && t.me.heldEvents.isEmpty) &&
     ends (exec (.qfence plain fence0) (queues [f 2 .accepted] house)) (fun t => t.me.entries.map (·.state) == [.fenced]) &&
     both.me.fenceReady 0x1234 && ends (exec (.qfenceRelease 0x1234) both) (fun t => t.me.entries.map (·.state) == [.finishing, .finishing]) &&
     (let d := house.updMe (fun c => { c with events := [ev], pc := 0x40, sup := { c.sup with stvec := 0x100 } })
      !d.fused && d.me.delivery == some (.engine ev) && !d.me.eventToUi ev && ends (exec .asyncEventDelivery d) (fun t => t.me.pc == 0x100 && t.me.sup.scause == 0x800000000000000E && t.me.events.isEmpty)) &&
     (let e2 := { ev with kind := 2 }
      let d := house.updMe (fun c => { c with events := [e2], pc := 0x40, user := { c.user with uienable := 1, uivec := 0x200 } })
      d.me.delivery == some (.engine e2) && d.me.eventToUi e2 && ends (exec .asyncEventDelivery d) (fun t => t.me.pc == 0x200 && t.me.sup.uia && t.me.user.uipc == 0x40))) = true := by decide +kernel

/-! ## The copy engine -/

/-- The head of channel 2 waits to be taken up. -/
def waiting (h : CmdHead) (c : Cmd) : State := queues [ent 0 h c .accepted] house

/-- Witness of CopyCommandsAreCheckedAndTakenUpAtTheirHead: a failing check, an unheld channel, an empty one, one without and
one with a block, and every command's form. -/
theorem witness_copy_heads :
    (let over' : CopyCmd := { qch := 2, len := 100, src := 0x900000001000, dst := 0x900000001063, pkg := 0, rp := false }
     let c : CopyCmd := { qch := 2, len := 100, src := 0x900000001000, dst := 0x900000001064, pkg := 0, rp := false }
     let s := waiting plain (.copy c)
     !(waiting plain (.copy over')).copyHeadOk (.copy over') && ends (exec (.copy plain over') (waiting plain (.copy over'))) (fun t => t.me.entries.map (fun e => (e.state, e.status)) == [(.finishing, 2)]) &&
     !house.me.bindOk { plain with bar := true, chan := 1 } && ends (exec (.copy { plain with bar := true, chan := 1 } c) (waiting { plain with bar := true, chan := 1 } (.copy c))) (fun t => t.me.entries.map (·.status) == [2]) &&
     cmdEmpty (.copy { c with len := 0 }) && ends (exec (.copy plain { c with len := 0 }) (waiting plain (.copy { c with len := 0 }))) (fun t => t.me.entries.map (fun e => (e.state, e.status)) == [(.finishing, 0)]) &&
     s.me.bindOk plain && s.copyHeadOk (.copy c) && ends (exec (.copy plain c) s) (fun t => t.me.entries.map (·.state) == [.active] && t.mem == s.mem) &&
     ends (exec (.fill plain { qch := 2, len := 8, dst := 0x900000002000, pat := 0 }) (waiting plain (.fill { qch := 2, len := 8, dst := 0x900000002000, pat := 0 }))) (fun t => t.me.entries.map (·.state) == [.active]) &&
     ends (exec (.feeda plain { qch := 2, len := 8, src := 0x900000002000 }) (waiting plain (.feeda { qch := 2, len := 8, src := 0x900000002000 }))) (fun t => t.me.entries.map (·.state) == [.active]) &&
     ends (exec (.feedb plain { qch := 2, len := 8, src := 0x900000002000 }) (waiting plain (.feedb { qch := 2, len := 8, src := 0x900000002000 }))) (fun t => t.me.entries.map (·.state) == [.active]) &&
     (let d : DrainCmd := { qch := 2, rows := 1, words := 4, abase := 0, apitch := 4, dst := 0x900000002000, dpitch := 16 }
      ends (exec (.drain plain d) (waiting plain (.drain d))) (fun t => t.me.entries.map (·.state) == [.active]))) = true := by decide +kernel

/-- A descriptor of 2 planes of 2 rows of 8 bytes, a row block, an offset block, a generation block, a jig, in the store. -/
def blocks : State :=
  bytesAt (localKey 0 0x4000) (leBytes 8 0x900000001000 ++ leBytes 8 0x900000002000 ++ leBytes 4 8 ++ leBytes 4 2 ++ leBytes 4 2 ++ leBytes 4 0 ++ leBytes 8 16 ++ leBytes 8 64 ++ leBytes 8 8 ++ leBytes 8 16)
  (bytesAt (localKey 0 0x4040) (leBytes 8 0x900000001000 ++ leBytes 8 0x900000001100 ++ leBytes 8 0x900000002000 ++ leBytes 4 8 ++ leBytes 4 4)
  (bytesAt (localKey 0 0x4080) (leBytes 8 0x900000001000 ++ leBytes 8 0x900000001020 ++ leBytes 8 0x900000001100 ++ leBytes 8 0x900000002000 ++ leBytes 8 0 ++ leBytes 4 8)
  (bytesAt (localKey 0 0x40C0) (leBytes 8 0x900000001000 ++ leBytes 8 0x900000002000 ++ leBytes 8 0x900000003000 ++ leBytes 8 0)
  (bytesAt (localKey 0 0x4100) (leBytes 2 1 ++ leBytes 14 0 ++ leBytes 4 3 ++ leBytes 2 1 ++ leBytes 2 1 ++ leBytes 4 0x1000 ++ leBytes 4 0x10000)
  (bytesAt (localKey 0 0x1000) ((List.range 16).map (fun k => BitVec.ofNat 8 (k + 1))) house)))))

/-- The commands with a block take it up. -/
theorem witness_copy_blocks :
    (let up (h : CmdHead) (c : Cmd) : State := queues [ent 0 h c .accepted] blocks
     let ok (i : Instr) (s : State) : Bool := ends (exec i s) (fun t => t.me.entries.map (·.state) == [.active] && t.mem == s.mem)
     ok (.copynd plain { qch := 2, desc := 0x900000004000 }) (up plain (.copynd { qch := 2, desc := 0x900000004000 })) &&
     ok (.gathr plain { qch := 2, n := 2, parm := 0x900000004040 }) (up plain (.gathr { qch := 2, n := 2, parm := 0x900000004040 })) &&
     ok (.scatr plain { qch := 2, ntok := 1, parm := 0x900000004080, ne := 1 }) (up plain (.scatr { qch := 2, ntok := 1, parm := 0x900000004080, ne := 1 })) &&
     ok (.copyg plain { qch := 2, len := 16, parm := 0x9000000040C0 }) (up plain (.copyg { qch := 2, len := 16, parm := 0x9000000040C0 })) &&
     (let h := { plain with bar := true, chan := 5 }
      ok (.xsched h { qch := 2, jig := 0x900000004100 }) (up h (.xsched { qch := 2, jig := 0x900000004100 })))) = true := by decide +kernel

/-- The head of channel 2 is active with a job. -/
def serving (c : Cmd) (job : Job) (pos : Nat) (s : State) : State := queues [{ ent 0 plain c .active with job := job, pos := pos }] s

/-- Witness of TheCopyEngineMovesOnePacketOfItsCommand: the first packet and the last of a COPY, and each other command. -/
theorem witness_copy_packets :
    (let nd : NdDesc := { src := 0x900000001000, dst := 0x900000002000, e0 := 8, e1 := 2, e2 := 2, ss1 := 4, ss2 := 64, ds1 := 8, ds2 := 16 }
     let pk (s : State) (f : State → Bool) : Bool := s.nextChannel == some 2 && ends (exec .copyEngineService s) f
     let at2 (t : State) (o : Nat) : Nat := t.peek (localKey 0 o) 8
     pk (serving copy0 .none 0 blocks) (fun t => at2 t 0x2000 == 0x0807060504030201 && t.me.entries.map (fun e => (e.pos, e.state)) == [(64, .active)] && t.me.copyTurn == 3) &&
     pk (serving copy0 .none 64 blocks) (fun t => t.me.entries.map (fun e => (e.pos, e.state, e.status)) == [(100, .finishing, 0)]) &&
     pk (serving fill0 .none 0 blocks) (fun t => at2 t 0x2000 == 0x8877665544332200 && t.me.entries.map (·.pos) == [64]) &&
     pk (serving (.copynd { qch := 2, desc := 0x900000004000 }) (.nd nd) 8 blocks) (fun t => at2 t 0x2008 == 0x0C0B0A0908070605 && t.me.entries.map (·.pos) == [16]) &&
     pk (serving (.gathr { qch := 2, n := 2, parm := 0 }) (.rows { idx := 0, offs := 0, src := 0x900000001000, dst := 0x900000002000, imap := 0, rowb := 8, nsrc := 2 } (some 1)) 0 blocks) (fun t => at2 t 0x2000 == 0x100F0E0D0C0B0A09) &&
     pk (serving (.scatr { qch := 2, ntok := 2, parm := 0, ne := 1 }) (.scatter { idx := 0, offs := 0, src := 0x900000001000, dst := 0x900000002000, imap := 0, rowb := 8, nsrc := 0 } [4] (some 3)) 8 blocks) (fun t => at2 t 0x2018 == 0x100F0E0D0C0B0A09) &&
     pk (serving (.copyg { qch := 2, len := 8, parm := 0 }) (.gen 0x900000001000 0x900000002000 0x900000003000 0) 0 blocks) (fun t => at2 t 0x2000 == 0x0807060504030201) &&
     pk (serving (.xsched { qch := 2, jig := 0 }) (.jig [⟨0, 1, 64, 0x1000, 0x10000⟩] none (some 0) 0 true) 0 blocks) (fun t => t.peek (localKey 1 0x10000) 8 == 0x0807060504030201) &&
     pk (serving (.feeda { qch := 2, len := 10, src := 0x900000001000 }) .none 8 blocks) (fun t => t.me.fifoA.bytes == [9, 10] && t.me.fifoB.bytes == []) &&
     pk (serving (.feedb { qch := 2, len := 10, src := 0x900000001000 }) .none 8 blocks) (fun t => t.me.fifoB.bytes == [9, 10]) &&
     pk ((serving (.drain { qch := 2, rows := 2, words := 2, abase := 3, apitch := 4, dst := 0x900000002000, dpitch := 16 }) .none 8 blocks).updMe (fun c => { c with accum := [(7, 0x77), (8, 0x88)] })) (fun t => at2 t 0x2010 == 0x8800000077) &&
     pk (serving (.copy { qch := 2, len := 8, src := 0x900000001000, dst := 0x100, pkg := 3, rp := true }) .none 0 blocks) (fun t => t.outbox == [⟨some 1, .copyWrite 3 0 0 0x100 [1, 2, 3, 4, 5, 6, 7, 8]⟩] && t.me.entries.map (fun e => (e.pos, e.job)) == [(0, .remote 0 8)])) = true := by decide +kernel

/-- Witness of AnswersOfAnotherPackageMoveItsCopy: a packet answered, the last one, a fault, none on its way. -/
theorem witness_copy_answers :
    (let c : CopyCmd := { qch := 2, len := 100, src := 0x900000001000, dst := 0x100, pkg := 3, rp := true }
     let on (pos out : Nat) : State := serving (.copy c) (.remote 7 out) pos blocks
     let got (s : State) (f : Option (Nat × Nat)) : Option (Nat × EState × Nat × Nat × Job) := ((s.copyAnswer 7 64 f).me.headEntry 2).map (fun e => (e.pos, e.state, e.status, e.remaining, e.job))
     got (on 0 64) none == some (64, .active, 0, 36, .remote 7 0) && got (on 36 64) none == some (100, .finishing, 0, 0, .remote 7 0) &&
     got (on 0 64) (some (4, 0x100)) == some (0, .finishing, 3, 100, .remote 7 0) && got (on 64 0) none == some (64, .active, 0, 36, .remote 7 0)) = true := by decide +kernel

/-- Witness of WaitingChannelsGoOnWhenTheirEventComes: a slot, a start episode, a translation, a resend, a feed. -/
theorem witness_waiting_channels :
    (let x : Cmd := .xsched { qch := 2, jig := 0x900000004100 }
     let es : List JigEntry := [⟨3, 1, 64, 0x1000, 0x10000⟩]
     let slot := { serving x (.jig es none (some 5) 0 false) 0 blocks with cycle := 8 }
     let start := { serving x (.jig es (some (5, 3)) none 0 false) 0 blocks with cycle := 8, channels := [{ chan 5 with epoch := 4 }] }
     let susp := queues [{ ent 0 plain copy0 .suspended with kick := true }] blocks
     let pend := { queues [{ ent 0 plain copy0 .pending with since := 1 }] blocks with cycle := 4097 }
     ends (exec (.jigEntryIssue 2) slot) (fun t => t.me.entries.map (·.job) == [.jig es none (some 5) 0 true]) &&
     ends (exec (.jigEntryIssue 2) start) (fun t => t.me.entries.map (·.job) == [.jig es (some (5, 3)) (some 8) 0 false]) &&
     susp.retranslateDue 2 && ends (exec (.suspendedRetranslate 2) susp) (fun t => t.me.entries.map (fun e => (e.pos, e.state)) == [(64, .active)]) &&
     pend.resendDue 2 && ends (exec (.engineResend 2) pend) (fun t => t.me.entries.map (fun e => (e.pos, e.state)) == [(64, .active)]) &&
     (serving (.feeda { qch := 2, len := 10, src := 0x900000001000 }) .none 0 blocks).me.canServe 2 &&
     ends (exec (.feedSpaceReleased 2) (serving (.feeda { qch := 2, len := 10, src := 0x900000001000 }) .none 0 blocks)) (fun t => t.me.fifoA.bytes.length == 10)) = true := by decide +kernel

/-! ## The matrix unit -/

/-- MMA and MMAT of 2 rows, 1 column and 4 products, split over a gang. -/
def mma0 : MmaCmd := { m := 2, n := 1, rcnt := 0, gsplit := true, rm := 0, isat := false, k := 4, fzi := false, fzo := false, abase := 6, apitch := 2 }

/-- MZERO of 2 rows of 1 accumulator of two words. -/
def mzero0 : MzeroCmd := { m := 2, n := 1, gsplit := false, ew2 := true, abase := 6, apitch := 2 }

/-- A: rows 1, 2, 3, −1 and 5, 6, 7, 8; B: the codes 1, 3, 0, 2 (or the bytes 0x8D, 2, 0, 0). -/
def fed : State := house.updMe (fun c => { c with
  fifoA := ⟨[1, 2, 3, 0xFF] ++ List.replicate 60 0 ++ [5, 6, 7, 8] ++ List.replicate 60 0, []⟩
  fifoB := ⟨[0x8D, 2] ++ List.replicate 62 0, []⟩
  accum := [(6, 100), (7, 7), (8, 0xFFFFFFFF)] })

/-- Witness of MatrixCommandsAreCheckedAtTheirHead: a follower, a bad pair, a bad shape, each command taken up. -/
theorem witness_matrix_head :
    (let at1 (c : Cmd) (s : State) : State := queues [ent 1 plain c .accepted] s
     let follower := house.updMe (fun c => { c with unit := some { unit0 with gangSize := 2, gangPos := 1 } })
     let badPair := house.updMe (fun c => { c with user := { c.user with mfmt := 0x10 } })
     let int8 := house.updMe (fun c => { c with user := { c.user with mfmt := 0x77 } })
     let hd (t : State) : List (EState × Nat × Job) := t.me.entries.map (fun e => (e.state, e.status, e.job))
     ends (exec (.mma plain mma0) (at1 (.mma mma0) follower)) (fun t => hd t == [(.finishing, 0, .none)]) &&
     ends (exec (.mma plain mma0) (at1 (.mma mma0) badPair)) (fun t => hd t == [(.finishing, 2, .none)]) &&
     ends (exec (.mzero plain { mzero0 with abase := 7 }) (at1 (.mzero { mzero0 with abase := 7 }) house)) (fun t => hd t == [(.finishing, 2, .none)]) &&
     ends (exec (.mma plain mma0) (at1 (.mma mma0) int8)) (fun t => hd t == [(.active, 0, .matrix 7 7)]) &&
     ends (exec (.mmat plain mma0) (at1 (.mmat mma0) badPair)) (fun t => hd t == [(.active, 0, .matrix 7 9)]) &&
     ends (exec (.mzero plain mzero0) (at1 (.mzero mzero0) house)) (fun t => hd t == [(.active, 0, .matrix 0 0)])) = true := by decide +kernel

/-- Witness of MatrixTilesIssueAndWriteTheirAccumulators: an issue; tiles of MZERO, MMAT and MMA that end. -/
theorem witness_matrix_tiles :
    (let work (c : Cmd) (a b : Nat) (s : State) : State := queues [{ ent 1 plain c .active with job := .matrix a b }] s
     let run (a b : Nat) (s : State) : State := s.updMe (fun c => { c with runTile := some ⟨0, a, b, 0, 0, 0, false⟩ })
     let s := work (.mmat mma0) 7 9 fed
     let z := run 0 0 (work (.mzero mzero0) 0 0 fed)
     let t := run 7 9 s
     let m := run 7 7 (work (.mma mma0) 7 7 fed)
     s.me.runTile == none && s.me.tileReady && 1 ≤ s.me.matWeight &&
     (List.range 8).all (fun k => k == s.me.id || (!(s.core k).matrixWaits && !(s.core k).tileReady && (s.core k).runTile == none)) && assoc 0 s.arbiter == none &&
     ends (exec .matrixTileIssue s) (fun t => t.me.runTile == some ⟨0, 7, 9, 0, 0, 0, false⟩) &&
     z.me.headEntry 64 != none && !splits z.me (mzeroShape mzero0) && (mzeroShape mzero0).n * (mzeroShape mzero0).ew ≤ (mzeroShape mzero0).apitch &&
     ends (exec .matrixTileComplete z) (fun t => t.me.runTile == none && t.me.accum == []) &&
     !splits t.me (mmaShape mma0 7 9) && t.me.accumBad == [] &&
     ends (exec .matrixTileComplete t) (fun t => t.me.runTile == none && t.me.accum == [(6, 99), (7, 7), (8, 0xFFFFFFFE)]) &&
     ends (exec .matrixTileComplete m) (fun t => t.me.accum == [(6, 0xFFFFFFF5), (7, 7), (8, 0xFFFFFDCC)])) = true := by decide +kernel

/-- Witness of IntegerElementsAccumulateTheExactDotProduct: both B formats, a code 10, the greatest accumulator. -/
theorem witness_matrix_elements :
    (fed.me.fifoA.bad == [] && fed.me.fifoB.bad == [] && mma0.isat == false &&
     fed.element fed.me mma0 (mmaShape mma0 7 9) ⟨0, 7, 9, 0, 0, 0, false⟩ 0xFFFFFFFF 0 0 == (0xFFFFFFFE, { sat := false, tr := true }) &&
     fed.element fed.me mma0 (mmaShape mma0 7 7) ⟨0, 7, 7, 0, 0, 0, false⟩ 0 1 0 == (0xFFFFFFFF - 562, { sat := false, tr := false })) = true := by decide +kernel

/-! ## The routing engines -/

/-- A routing command at the head of its queue. -/
def routing (h : CmdHead) (c : Cmd) (s : State) : State := queues [ent 2 h c .accepted] s

/-- Bound to a channel the unit does not hold. -/
def foreign : CmdHead := { plain with bar := true, chan := 7 }

/-- The command ends with a status and a count, and the bytes at an offset of the store are these. -/
def routed (i : Instr) (s : State) (status count o : Nat) (bs : List Byte) : Bool :=
  ends (exec i s) (fun t => t.me.entries.map (fun e => (e.state, e.status, e.count)) == [(.finishing, status, count)] &&
    Memory.readBytes t.mem (localKey 0 o) bs.length == bs)

/-- Witness of CountingAndSortingCommandsWriteTheirResults: HIST and PSUM at their boundaries, and a failing check. -/
theorem witness_hist_psum :
    (let ids := bytesAt (localKey 0 0x1000) ([1, 0, 1, 5].flatMap (leBytes 2)) house
     let cnt := bytesAt (localKey 0 0x1000) ([0xFFFFFFFF, 1].flatMap (leBytes 4)) house
     let h : HistCmd := { ntok := 4, ids := 0x900000001000, ne := 2, cnt := 0x900000002000 }
     let p : PsumCmd := { ne := 2, cnt := 0x900000001000, offs := 0x900000002000 }
     !(routeOk house.me foreign [] []) && routeOk ids.me plain [(0x900000001000, 8)] [(0x900000002000, 8)] && routeOk ids.me plain [(0x900000001000, 8)] [(0x900000002000, 12)] &&
     routed (.hist foreign h) (routing foreign (.hist h) ids) 2 0 0x2000 [0, 0, 0, 0] &&
     routed (.hist plain h) (routing plain (.hist h) ids) 0 1 0x2000 [1, 0, 0, 0, 2, 0, 0, 0] &&
     routed (.psum foreign p) (routing foreign (.psum p) cnt) 2 0 0x2000 [0, 0, 0, 0] &&
     routed (.psum plain p) (routing plain (.psum p) cnt) 17 0x100000000 0x2000 [0, 0, 0, 0, 0xFF, 0xFF, 0xFF, 0xFF, 0, 0, 0, 0]) = true := by decide +kernel

/-- Witness of CountingAndSortingCommandsWriteTheirResults: APPORT. -/
theorem witness_apport :
    (let cnt := bytesAt (localKey 0 0x1000) ([1, 2, 0].flatMap (leBytes 4)) house
     let a : ApportCmd := { nb := 4, ne := 3, cnt := 0x900000001000, bays := 0x900000002000 }
     routeOk cnt.me plain [(0x900000001000, 12)] [(0x900000002000, 6)] &&
     routed (.apport foreign a) (routing foreign (.apport a) cnt) 2 0 0x2000 [0, 0, 0, 0] &&
     routed (.apport plain a) (routing plain (.apport a) cnt) 0 4 0x2000 [1, 0, 3, 0, 0, 0]) = true := by decide +kernel

/-- Witness of CountingAndSortingCommandsWriteTheirResults: RSORT, and a pair with reserved bits. -/
theorem witness_rsort :
    (let r : RsortCmd := { np := 2, src := 0xA00000000000, dst := 0xA00000000100 }
     let good := bytesAt (sharedKey 0 0) ([0x500000003, 0x400000003].flatMap (leBytes 8)) house
     let bad := bytesAt (sharedKey 0 0) ([0x500000003, 0x400010003].flatMap (leBytes 8)) house
     routeOk good.me plain [(0xA00000000000, 16)] [(0xA00000000100, 16)] && inDieShared 0 0xA00000000000 16 && inDieShared 0 0xA00000000100 16 &&
     routed (.rsort plain r) (routing plain (.rsort r) bad) 2 0 0 [] &&
     ends (exec (.rsort plain r) (routing plain (.rsort r) good)) (fun t => t.me.entries.map (fun e => (e.status, e.count)) == [(0, 2)] &&
       t.peek (sharedKey 0 0x100) 8 == 0x400000003 && t.peek (sharedKey 0 0x108) 8 == 0x500000003)) = true := by decide +kernel

/-- Witness of TopkChoosesTheGreatestKeysOfEachRow: a tie, and the sign of an integer key. -/
theorem witness_topk :
    (let c : TopkCmd := { nr := 1, nc := 3, kfmt := 1, parm := 0x900000004000, k := 2 }
     let s := bytesAt (localKey 0 0x4000) ([0x900000001000, 0x900000002000, 0x900000003000, 0].flatMap (leBytes 8))
       (bytesAt (localKey 0 0x1000) ([0xFFFFFFFF, 7, 7].flatMap (leBytes 4)) house)
     s.me.bindOk plain && !triggerHit 0x900000004000 32 && routeOk s.me plain [(0x900000001000, 12)] [(0x900000002000, 8), (0x900000003000, 4)] &&
     routed (.topk plain c) (routing plain (.topk c) s) 0 1 0x2000 [6, 0, 0, 0, 0, 0, 0, 0] &&
     routed (.topk plain c) (routing plain (.topk c) s) 0 1 0x3000 [1, 0, 2, 0] &&
     topkSelect (fun x => topkMap 0 (nth 0 [0xBF800000, 0xC0000000, 0x80000000, 0] x)) 32 2 [0, 1, 2, 3] [] == [3, 2]) = true := by decide +kernel

/-- A price bank of context 1. -/
def bank2 : PriceBank := { die := 0, num := 2, owner := some 1, prices := [(3, 5), (1023, 0x7FFFFFFF)], user := none }

/-- Witness of PriceCommandsReadAndWriteTheirRegisters: no bank; each command on the last register. -/
theorem witness_price :
    (let s := { bytesAt (localKey 0 0x1000) [0xFE, 0xFF, 0xFF, 0xFF] house with banks := [bank2] }
     let c : PriceCmd := { dom := 2, first := 1023, num := 1, addr := 0x900000001000, numer := 0xFFFF, shift := 0 }
     let prices (i : Instr) (x : Cmd) (count : Nat) (p : List (Nat × BitVec 32)) : Bool :=
       ends (exec i (routing plain x s)) (fun t => t.me.entries.map (fun e => (e.status, e.count)) == [(0, count)] && t.banks == [{ bank2 with prices := p }])
     house.bankOf 2 == none && s.bankOf 2 == some bank2 && s.me.bindOk plain && routeOk s.me plain [] [(0x900000001000, 4)] && routeOk s.me plain [(0x900000001000, 4)] [] &&
     routed (.priceRead plain c) (routing plain (.priceRead c) house) 2 0 0 [] && routed (.priceWrite plain c) (routing plain (.priceWrite c) house) 2 0 0 [] &&
     routed (.priceScale plain c) (routing plain (.priceScale c) house) 2 0 0 [] && routed (.priceReset plain c) (routing plain (.priceReset c) house) 2 0 0 [] &&
     routed (.priceRead plain c) (routing plain (.priceRead c) s) 0 1 0x1000 [0xFF, 0xFF, 0xFF, 0x7F] &&
     prices (.priceWrite plain c) (.priceWrite c) 1 [(3, 5), (1023, 0xFFFFFFFE)] &&
     prices (.priceScale plain c) (.priceScale c) 1 [(3, 5), (1023, 0x7FFFFFFF)] &&
     prices (.priceReset plain c) (.priceReset c) 1 [(3, 5)] &&
     (let held := { s with banks := [{ bank2 with user := some 1 }] }
      let waits (i : Instr) (x : Cmd) : Bool := ends (exec i (routing plain x held)) (fun t => t.banks == held.banks && t.mem == s.mem && t.me.entries.map (fun e => (e.state, e.job)) == [(.active, .routing [] 0)])
      waits (.priceRead plain c) (.priceRead c) && waits (.priceWrite plain c) (.priceWrite c) && waits (.priceScale plain c) (.priceScale c) && waits (.priceReset plain c) (.priceReset c))) = true := by decide +kernel

/-- Witness of AuctionAssignsEveryTokenWithinCapacity: two tokens want the one place of expert 0; AUCT on the same. -/
theorem witness_auction :
    (let aff : Nat → Nat → Int := fun _ e => if e = 0 then 10 else 4
     let c : AuctCmd := { nt := 2, ne := 2, dom := 2, parm := 0x900000004000, eps := 1, lim := 3, dcol := false, auto := true }
     let s := { bytesAt (localKey 0 0x4000) ([0x900000001000, 0, 0, 0x900000002000, 0x900000003000].flatMap (leBytes 8))
       (bytesAt (localKey 0 0x1000) ([10, 4, 10, 4].flatMap (leBytes 2)) house) with banks := [{ bank2 with prices := [] }] }
     ([0, 1] : List Nat).Nodup && [1, 1].sum == ([0, 1] : List Nat).length &&
     bidOf 1 [0, 1] (aff 0) [0, 0] == (0, 7, false) && bidOf 1 [0, 1] (aff 0) [7, 0] == (1, 2, false) && poolLe ⟨0, 0, 7, 1, false⟩ ⟨1, 0, 7, 1, false⟩ &&
     autoCaps 5 3 == [2, 2, 1] && (takenUp s 65).me.bindOk plain && (takenUp s 65).bankOf 2 == some { bank2 with prices := [] } &&
     (auction 1 3 [1, 1] [0, 1] aff [0, 0]).held.map (fun g => (g.token, g.expert)) == [(0, 0), (1, 1)] &&
     (let full := { c with auto := false }
      let v := bytesAt (localKey 0 0x4008) (leBytes 8 0x900000005000) (bytesAt (localKey 0 0x5008) (leBytes 2 2 ++ leBytes 2 1) s)
      routed (.auct plain full) (routing plain (.auct full) v) 16 0 0x2000 [0, 0, 0, 0]) &&
     routed (.auct plain c) (routing plain (.auct c) s) 0 2 0x2000 (leBytes 4 0x10000 ++ leBytes 4 0x20001)) = true := by decide +kernel

/-! ## Collectives -/

/-- Group 5 spans core 0 (root) and its east neighbour, each a member, combining by INT64 addition. -/
def spanned : State := { house with coll := { house.coll with tree := [((0, 5), 0x87C00005), ((1, 5), 0x80000001)] } }

/-- A slot of core 0 and what stands in it. -/
def slot (g : Nat) (w : WaveState) (s : State) : State := s.updMe (fun c => { c with waves := [(g, w)] })

/-- Witness of WaveInstructionsActOnTheirSlot: each clause; groups 4095 and 4096. -/
theorem witness_wave_instrs :
    (let s := regs [(5, 77), (6, 5)] spanned
     let out := regs [(6, 4096)] s
     let edge := { regs [(6, 4095)] s with coll := { s.coll with tree := [((0, 4095), 0x87C00001)] } }
     s.me.plainReg 7 && s.me.plainReg 5 && s.me.plainReg 6 && s.me.slot 5 == none && (s.coll.entry 0 5).getLsbD 31 && (s.coll.entry 0 5).getLsbD 0 && !s.coll.planned 5 &&
     ends (exec (.cput 5 6) s) (fun t => t.me.slot 5 == some (.posted 77) && t.coll.contrib 5 0 == some 77 && t.me.pc == 4) &&
     ends (exec (.cput 5 6) edge) (fun t => t.me.slot 4095 == some (.posted 77)) &&
     nexts (exec (.cput 5 6) out) (out.takeTrap 3 4096) && nexts (exec (.cput 5 6) (slot 5 (.ready 1) s)) ((slot 5 (.ready 1) s).takeTrap 3 5) &&
     nexts (exec (.cget 7 6) (slot 5 (.posted 1) s)) ((slot 5 (.posted 1) s).park (.cget 5) 7) &&
     ends (exec (.cget 7 6) ((slot 5 (.ready 9) s).updMe (fun c => { c with l1d := [⟨0x20000, []⟩] }))) (fun t => t.me.gpr 7 == 9 && t.me.slot 5 == none && t.me.l1d == [] && t.me.pc == 4) &&
     ends (exec (.cget 7 6) (slot 5 .failed s)) (fun t => t.me.slot 5 == none && t.me.sup.scause == 20 && t.me.sup.sval == 0x1005) &&
     nexts (exec (.cget 7 6) s) (s.takeTrap 3 5) &&
     ends (exec (.ctest 7 6) (slot 5 (.ready 9) s)) (fun t => t.me.gpr 7 == 2) && ends (exec (.ctest 7 6) out) (fun t => t.me.gpr 7 == 0)) = true := by decide +kernel

/-- Witness of WavesCombineEveryContribution: a member missing; all there; a failed node. -/
theorem witness_waves :
    (let both (cs : List (Nat × Nat × Word)) : State :=
       let s := slot 5 (.posted 0xFFFFFFFFFFFFFFFF) spanned
       { s with
         others := [(1, { mate 1 with waves := [(5, .posted 3)] })]
         coll := { s.coll with contribs := cs } }
     let one := both [(5, 0, 0xFFFFFFFFFFFFFFFF)]
     let all := both [(5, 0, 0xFFFFFFFFFFFFFFFF), (5, 1, 3)]
     let value (s : State) (n : Nat) : Option Nat := s.coll.combine 5 (s.waveRemote 5) 4098 n
     one.coll.root? 5 == some 0 && value one 0 == none && nexts (exec (.waveComplete 5 false) one) one && nexts (exec (.waveComplete 5 true) one) one &&
     all.coll.root? 5 == some 0 && treePort 0 1 == some 1 && (List.range 21).filter (fun p => (all.coll.entry 0 5).getLsbD (p + 1)) == [1] &&
     (all.coll.entry 0 5).extractLsb' 27 4 == 0 && (all.coll.entry 1 5).getLsbD 31 && (all.coll.entry 1 5).getLsbD 0 && (List.range 21).all (fun k => !(all.coll.entry 1 5).getLsbD (k + 1)) &&
     (value all 0).map (waveWord 0) == some 2 &&
     ends (exec (.waveComplete 5 false) all) (fun t => (t.core 0).slot 5 == some (.ready 2) && (t.core 1).slot 5 == some (.ready 2) && t.coll.contribs == []) &&
     ends (exec (.treeNodeFailure 5) all) (fun t => (t.core 0).slot 5 == some .failed && (t.core 1).slot 5 == some .failed && t.coll.contribs == [])) = true := by decide +kernel

/-- Witness of WavesCombineEveryContribution where the root is in package 9: nothing to send yet, the part sent, the result. -/
theorem witness_remote_waves :
    (let s := slot 5 (.posted 7) { house with
       cables := [(0, 9)]
       coll := { house.coll with tree := [((hubNode, 5), 0x81000002), ((0, 5), 0x81000001)] } }
     let there := { s with coll := { s.coll with contribs := [(5, 0, 7)] } }
     let back := { there with coll := { there.coll with waveSent := [5], waveIn := [(5, 9, 12)] } }
     s.coll.root? 5 == none && s.treePkg (treeParent (s.coll.entry hubNode 5)) == some 9 && nexts (exec (.waveComplete 5 false) s) s &&
     (there.coll.combine 5 (there.waveRemote 5) 4098 hubNode).map (waveWord 0) == some 7 &&
     ends (exec (.waveComplete 5 false) there) (fun t => t.coll.waveSent == [5] && t.outbox == [⟨s.groupPart 5, .wave 9 5 7⟩]) &&
     back.coll.waveIn.find? (fun x => x.1 == 5 && x.2.1 == 9) == some (5, 9, 12) &&
     ends (exec (.waveComplete 5 true) back) (fun t => t.me.slot 5 == some (.ready 12) && t.coll.contribs == [])) = true := by decide +kernel

/-! ## Plans -/

/-- A plan of cores 0 and 1: an INT64 sum of one element, fanout 2, one instance. -/
def common0 : PlanCommon :=
  { kind := 0, op := 0, fanout := 2, inst := 1, gen := 0, nmem := 2, group := 3, count := 1, membersAddr := 0x900000005000 }

/-- The descriptor's bytes, of a kind and a ring length. -/
def desc0 (kind ring : Nat) : List Byte :=
  leBytes 1 kind ++ leBytes 1 0 ++ leBytes 1 2 ++ leBytes 1 1 ++ leBytes 4 0 ++ leBytes 4 2 ++ leBytes 2 3 ++ leBytes 2 0 ++ leBytes 8 1 ++
    leBytes 8 0x900000005000 ++ leBytes 8 0x1000 ++ leBytes 8 0x2000 ++ leBytes 8 0x7FFFFFFFFFE0 ++ leBytes 1 ring ++ leBytes 7 0

/-- Its local part. -/
def locD : PlanLocal := { src := 0x1000, dst := 0x2000, crec := 0x7FFFFFFFFFE0, cring := 128, barch := none }

/-- A local part with its buffers in the member's own store. -/
def loc0 : PlanLocal := { src := 0x900000001000, dst := 0x900000002000, crec := 0x900000003000, cring := 128, barch := none }

/-- The descriptor and a list of members in core 0's store. -/
def planned (kind ring m0 m1 : Nat) : State :=
  bytesAt (localKey 0 0x4000) (desc0 kind ring) (bytesAt (localKey 0 0x5000) (leBytes 4 m0 ++ leBytes 4 m1) house)

/-- CPLAN at the head. -/
def cplan0 : CplanCmd := { desc := 0x900000004000 }
def cplanAt (s : State) : State := queues [ent 3 plain (.cplan cplan0) .accepted] s

/-- The limits hold of a descriptor with the longest ring. -/
theorem test_descriptor_longest_ring : descriptorOk (desc0 0 128) := by
  simp only [descriptorOk]
  decide +kernel

/-- They do not hold of a ring of 3 or of kind 5. -/
theorem test_descriptor_limits : ∀ k ∈ [(0, 3), (5, 1)], ¬ descriptorOk (desc0 k.1 k.2) := by
  intro k hk h
  simp only [descriptorOk] at h
  revert k
  decide +kernel

/-- Witness of PlanDescriptorsAreCheckedBeforeTheirRound: a bad kind, reserved bits, one core twice; counted here, or sent. -/
theorem witness_cplan :
    (let i := Instr.cplan plain cplan0
     let good := cplanAt (planned 0 128 0 1)
     let away := { good with coll := { good.coll with isDomain := false, domainHub := 9 } }
     let rejected (s : State) : Bool := okWith (.ok ((), s)) (fun _ _ => ends (exec i s) (fun t => t.me.entries.map (fun e => (e.state, e.status)) == [(.finishing, 18)] && t.coll == s.coll))
     let a : PlanArrival := { common := common0, members := [(0, 0), (0, 1)], pkg := 0, core := 0 }
     (match (takenUp good 66).engLoad (takenUp good 66).me 0x900000004000 64 with | .ok bs => planCommonOf bs == common0 && planLocalOf bs == locD | .error _ => false) &&
     (match (takenUp good 66).engLoad (takenUp good 66).me 0x900000005000 8 with | .ok bs => bs == [0, 0, 0, 0, 1, 0, 0, 0] | .error _ => false) &&
     rejected (cplanAt (planned 5 1 0 1)) && rejected (cplanAt (planned 0 1 0 0x4000001)) && rejected (cplanAt (planned 0 1 0 0)) && rejected (cplanAt (planned 0 1 1 2)) &&
     good.pkgId == 0 && good.coordinates [(0, 0), (0, 1)] && !away.coordinates [(0, 0), (0, 1)] &&
     ends (exec i good) (fun t => t.coll.rounds == [{ group := 3, first := a, counted := 1, arrived := [a], differed := false }] && t.me.entries.map (·.job) == [.plan locD 0 3]) &&
     ends (exec i away) (fun t => t.outbox == [⟨some 1, .planArrival 9 a⟩] && t.coll.rounds == [])) = true := by decide +kernel

/-- A core's CPLAN has arrived, of a common part. -/
def arrives (k : PlanCommon) (n : Nat) : PlanArrival := { common := k, members := [(0, 0), (0, 1)], pkg := 0, core := n }

/-- Both cores wait with a CPLAN in a round that counted core 0. -/
def round0 (k : PlanCommon) : State :=
  let e : Entry := { ent 3 plain (.cplan cplan0) .active with job := .plan loc0 0 3 }
  { queues [e] house with
    others := [(1, { mate 1 with entries := [{ e with job := .plan loc0 1 3 }] })]
    coll := { house.coll with rounds := [{ group := 3, first := arrives k 0, counted := 1, arrived := [arrives k 0], differed := false }] } }

/-- Witness of PlanRoundsMatchByGroup: opening, differing (the last, and not), counting, and closing without reservations. -/
theorem witness_rounds :
    (let k3 := { common0 with nmem := 3 }
     let st (t : State) (n : Nat) : List (EState × Nat) := (t.core n).entries.map (fun e => (e.state, e.status))
     let here := round0 common0
     let elsewhere (a : PlanArrival) : PlanArrival := { a with members := [(0, 0), (8, 1)] }
     let wide := { here with coll := { here.coll with rounds := [{ group := 3, first := elsewhere (arrives common0 0), counted := 1, arrived := [elsewhere (arrives common0 0)], differed := false }] } }
     let used := { round0 common0 with coll := { (round0 common0).coll with tree := [((0, 3), 0x87C00001)] } }
     ends (exec (.cplanArrival (arrives common0 0)) house) (fun t => t.coll.rounds.map (fun r => (r.group, r.counted)) == [(3, 1)]) &&
     ends (exec (.cplanArrival (arrives { common0 with gen := 1 } 1)) (round0 common0)) (fun t => st t 0 == [(.finishing, 17)] && st t 1 == [(.finishing, 17)] && t.coll.rounds == []) &&
     ends (exec (.cplanArrival (arrives common0 1)) (round0 k3)) (fun t => st t 1 == [(.finishing, 17)] && t.coll.rounds.map (fun r => (r.counted, r.differed)) == [(2, true)]) &&
     ends (exec (.cplanArrival (arrives k3 1)) (round0 k3)) (fun t => st t 1 == [(.active, 0)] && t.coll.rounds.map (fun r => (r.counted, r.differed)) == [(2, false)]) &&
     !used.canReserve common0 [(0, 0), (0, 1)] 2 && ends (exec (.cplanArrival (arrives common0 1)) used) (fun t => st t 0 == [(.finishing, 16)] && st t 1 == [(.finishing, 16)] && t.coll.plans == []) &&
     (here.planMembers common0 [(0, 0), (0, 1)]).length == 2 && here.canReserve common0 [(0, 0), (0, 1)] 2 &&
     ends (exec (.cplanArrival (arrives common0 1)) here) (fun t => st t 0 == [(.finishing, 0)] && st t 1 == [(.finishing, 0)] &&
       t.coll.plans.map (fun p => (p.live, p.members.length)) == [(true, 2)] && t.coll.tree == here.planEntries common0 [(0, 0), (0, 1)]) &&
     ends (exec (.cplanArrival (elsewhere (arrives common0 1))) wide) (fun t => t.coll.reserving.map (fun w => (w.waiting, w.ok)) == [([8], true)] && t.me == wide.me &&
       t.outbox == [⟨some 1, .planReserve 8 ((t.coll.reserving.map (·.id)).sum) common0 [(0, 0), (8, 1)]⟩])) = true := by decide +kernel

/-- Witness of PlanRoundsMatchByGroup: the last answer of the packages asked. -/
theorem witness_verdict :
    (let w : Reserving := { id := 4, common := common0, members := [(0, 0), (8, 1)], waiting := [8], ok := true }
     let s := { house with coll := { house.coll with reserving := [w] } }
     s.coll.reserving.find? (fun r => r.id == w.id) == some w && (s.planReserved 8 4 true).outbox.contains ⟨some 1, .planVerdict 8 4 0⟩ &&
     (s.planReserved 8 4 false).outbox.contains ⟨some 1, .planVerdict 8 4 16⟩ &&
     (let gone := { s with coll := { s.coll with isDomain := false, domainHub := 9 } }
      !gone.coordinates w.members && (gone.planReserved 8 4 true).outbox.any (fun m => match m.msg with | .roleState 9 false 0 _ [] [] => true | _ => false))) = true := by decide +kernel

/-- Every context has a handle free where there is no plan. -/
theorem witness_rounds_handles : ∀ ctx, ((round0 common0).coll.freeHandle ctx).isSome = true := by
  intro ctx
  unfold Collective.freeHandle
  rw [List.find?_isSome]
  exact ⟨0, List.mem_range.mpr (by omega), rfl⟩

/-- A member of the plan on a core. -/
def member (n : Nat) (out : List (Nat × Word)) : PlanMember where
  rank := n
  core := n
  ctx := 1
  owner := some (⟨1, 1, 1, 1⟩, n)
  handle := 7
  loc := loc0
  triggered := out.length
  outstanding := out
  buffers := 4
  freed := false

/-- The plan is live with core 0's and core 1's instances outstanding. -/
def plan0 (k : PlanCommon) (o0 o1 : List (Nat × Word)) : Plan := { common := k, memberList := [(0, 0), (0, 1)], round := (0, 1), freedRanks := [], live := true, members := [member 0 o0, member 1 o1] }

/-- A state with plans. -/
def withPlan (p : Plan) (s : State) : State := { s with coll := { s.coll with plans := [p] } }

/-- Witness of TriggersPostTheNextInstance: no handle; a bad argument, an instance too many, a plan not live; a posting. -/
theorem witness_triggers :
    (let s := withPlan (plan0 common0 [] []) house
     let full := withPlan (plan0 common0 [(0, 0)] []) house
     let dead := withPlan { plan0 common0 [] [] with live := false } house
     house.memberOf house.me 7 == none && stopsWith (triggerM 7 0xB00000010007 0 house) (.trap 3 0xB00000010007) &&
     s.memberOf s.me 7 == some (plan0 common0 [] [], member 0 []) &&
     stopsWith (triggerM 7 1 4 s) (.trap 3 1) && stopsWith (triggerM 7 1 0x10000 s) (.trap 3 1) && stopsWith (triggerM 7 1 0 full) (.trap 3 1) && stopsWith (triggerM 7 1 0 dead) (.trap 3 1) &&
     !s.me.freeing 7 && s.argOk s.me loc0.src (srcBytes common0) 0xDFF8 && s.argOk s.me loc0.dst (dstBytes common0) 0xDFF8 &&
     okWith (triggerM 7 1 0xDFF8 s) (fun _ t => t.coll.plans == [plan0 common0 [(0, 0xDFF8)] []] &&
       t.coll.localPostings == [{ posting := ⟨3, 0, 0⟩, sent := false, refusedAt := none }])) = true := by decide +kernel

/-- Witness of TriggersPostTheNextInstance: SD to the trigger window, misaligned, with a bad argument, and with a good one. -/
theorem witness_sd_triggers :
    (let s := regs [(5, 0xB00000000038), (7, 0xDFF8)] (withPlan (plan0 common0 [] []) house)
     let bad := regs [(7, 4)] s
     s.me.plainReg 5 && s.me.plainReg 7 && windowOf 0xB00000000038 == .trigger 7 && windowOf 0xB0000000003C == .trigger 7 &&
     nexts (exec (.sd 7 5 4) s) (s.takeTrap 2 0xB0000000003C) &&
     stopsWith (triggerM 7 0xB00000000038 4 bad) (.trap 3 0xB00000000038) && nexts (exec (.sd 7 5 0) bad) (bad.takeTrap 3 0xB00000000038) &&
     okWith (triggerM 7 0xB00000000038 0xDFF8 s) (fun _ t => nexts (exec (.sd 7 5 0) s) t.retire)) = true := by decide +kernel

/-- Witness of PostingsBecomeTicketsInStreamOrder: a hub without the role, for a posting of its own and of another hub; one
that stands behind another; a first posting; the last in a domain; the last above domains. -/
theorem witness_postings :
    (let x : Posting := ⟨3, 0, 1⟩
     let held (s : State) : State := { s with coll := { s.coll with localPostings := [{ posting := x, sent := false, refusedAt := none }] } }
     let s := held (withPlan (plan0 common0 [(0, 0)] [(0, 0)]) house)
     let behind := { s with coll := { s.coll with localPostings := [{ posting := ⟨3, 0, 0⟩, sent := false, refusedAt := none }, { posting := x, sent := false, refusedAt := none }] } }
     let away := { s with coll := { s.coll with isDomain := false } }
     let last := { s with coll := { s.coll with coordTable := [(3, 0, [0])], domainCount := 4 } }
     let wide := held (withPlan { plan0 common0 [(0, 0)] [(0, 0)] with memberList := [(0, 0), (8, 1)] } house)
     let refusing := { wide with coll := { wide.coll with isDomain := false } }
     let root := { wide with coll := { wide.coll with coordTable := [(3, 0, [0])], domains := [(8, 2)], domainHubs := [(2, 8)] } }
     s.coll.plans.find? (fun p => p.common.group == 3 && p.live) != none && !s.refusedAndFreed (plan0 common0 [(0, 0)] [(0, 0)]) x && s.firstPosting x &&
     !behind.firstPosting x && nexts (exec (.postingArrival x) behind) behind &&
     !away.coordinates [(0, 0), (0, 1)] && s.coordinates [(0, 0), (0, 1)] &&
     ends (exec (.postingArrival x) away) (fun t => t.coll.localPostings == [{ posting := x, sent := false, refusedAt := some away.cycle }] && t.coll.coordTable == []) &&
     !refusing.coordinates [(0, 0), (8, 1)] && ends (exec (.postingArrival x) refusing) (fun t => t.outbox == [⟨some 1, .postingAnswer 8 x 1⟩]) &&
     ends (exec (.postingArrival x) s) (fun t => t.coll.localPostings == [] && t.coll.coordTable == [(3, 0, [1])] && t.coll.stream == []) &&
     ends (exec (.postingArrival x) last) (fun t => t.coll.coordTable == [] && t.coll.stream == [⟨3, 0, 5, [0]⟩] && t.coll.domainCount == 5) &&
     root.coordinates [(0, 0), (8, 1)] && root.coll.domainOf 0 8 == 2 && root.coll.domain == 0 && root.coll.isDomain && root.domainCoord 2 [0, 8] == 8 && root.domainCoord 0 [0, 8] == 0 &&
     ends (exec (.postingArrival x) root) (fun t => t.coll.rootCount == 1 && t.coll.stream == [⟨3, 0, 0x8000000000000001, [0, 8]⟩] &&
       t.outbox.contains ⟨some 1, .rootTicket 8 ⟨3, 0, 0x8000000000000001, [0, 8]⟩⟩ && t.outbox.contains ⟨some 1, .postingAnswer 8 x 0⟩)) = true := by decide +kernel

/-- Witness of PostingsBecomeTicketsInStreamOrder: a resend here and elsewhere, root tickets, moves of a role. -/
theorem witness_tickets :
    (let l : LocalPosting := { posting := ⟨3, 0, 1⟩, sent := true, refusedAt := some 9 }
     let base' := withPlan (plan0 common0 [(0, 0)] [(0, 0)]) house
     let s := { base' with coll := { base'.coll with localPostings := [l] } }
     let away := { s with coll := { s.coll with isDomain := false, domainHub := 9 } }
     let tk : Ticket := ⟨3, 0, 0x8000000000000001, [0]⟩
     s.postingHub l.posting == s.pkgId && away.postingHub l.posting == 9 && s.planOf 3 != none && !s.refusedAndFreed (plan0 common0 [(0, 0)] [(0, 0)]) l.posting &&
     ends (exec (.postingResend 0) s) (fun t => t.coll.localPostings == [] && t.coll.coordTable == [(3, 0, [1])]) &&
     ends (exec (.postingResend 9) away) (fun t => t.coll.localPostings == [{ l with refusedAt := none }] && t.outbox == [⟨some 1, .posting 9 l.posting⟩]) &&
     ends (exec (.rootTicketArrival tk) s) (fun t => t.coll.stream == [tk]) &&
     ends (exec (.rootTicketArrival { tk with pkgs := [0, 7] }) s) (fun t => t.coll.stream == [{ tk with pkgs := [0, 7] }] && t.outbox == [⟨some 1, .ticket 7 { tk with pkgs := [0, 7] }⟩]) &&
     s.coll.domainOf 0 7 == s.coll.domain &&
     ends (exec (.coordinatorRoleMove true 0 9) s) (fun t => t.coll.rootHub == 9 && !t.coll.isRoot) &&
     (let busy := { s with coll := { s.coll with coordTable := [(3, 0, [0])], domainCount := 4 } }
      let plans := busy.coll.plans.map Plan.role
      busy.coll.isDomain && ends (exec (.coordinatorRoleMove false 0 9) busy) (fun t => t.coll.coordTable == [] && !t.coll.isDomain && t.coll.domainHub == 9 &&
        t.coll.localPostings == [l] && t.outbox == [⟨none, .roleState 9 false 4 plans [(3, 0, [0])] []⟩]) &&
      (house.takeRole false 4 plans [(3, 0, [0])] []).coll.domainCount == 4 && (house.takeRole false 4 plans [(3, 0, [0])] []).coll.plans.map (·.round) == [(0, 1)]) &&
     ends (exec (.coordinatorRoleMove false 0 0) away) (fun t => t.coll.domainHub == 0 && t.coll.isDomain) &&
     ends (exec (.coordinatorRoleMove false 2 5) away) (fun t => t.coll.domainHubs == [(2, 5)])) = true := by decide +kernel

/-- A started instance at core 0, with both contributions read. -/
def started0 (k : PlanCommon) : State :=
  let s := bytesAt (localKey 0 0x1008) (leBytes 8 0xFFFFFFFFFFFFFFFF) (bytesAt (localKey 1 0x1000) (leBytes 8 5) (withPlan (plan0 k [(0, 8)] [(0, 0)]) house))
  { s with coll := { s.coll with started := [⟨3, 0, 0, 9⟩], arrived := [(3, 0, 0, some (leBytes 8 0xFFFFFFFFFFFFFFFF)), (3, 0, 1, some (leBytes 8 5))] } }

/-- Witness of InstancesStartByTicketAndEndWithTheirResult: a ticket here and for another package; an end with data missing,
with a failed read, with a result and with none; each kind. -/
theorem witness_instances :
    (let s := started0 common0
     let p := plan0 common0 [(0, 8)] [(0, 0)]
     let root := { started0 { common0 with kind := 1 } with coll := { (started0 { common0 with kind := 1 }).coll with started := [⟨3, 0, 1, 9⟩] } }
     let far := { p with memberList := [(0, 0), (8, 1)], members := [member 0 [(0, 8)]] }
     let lone := { s with coll := { s.coll with plans := [far], arrived := [] } }
     let tick (x : Ticket) (s : State) : State := { s with coll := { s.coll with stream := [x] } }
     let lost := { lone with coll := { lone.coll with arrived := [(3, 0, 1, none)] } }
     let bufs := [leBytes 8 0xFFFFFFFFFFFFFFFF ++ leBytes 8 1, leBytes 8 5 ++ leBytes 8 2]
     let k (n : Nat) : PlanCommon := { common0 with kind := n }
     ends (exec (.ticketArrival ⟨3, 0, 7, [0]⟩) (tick ⟨3, 0, 7, [0]⟩ (withPlan (plan0 common0 [(0, 0)] []) house))) (fun t => t.coll.started == [⟨3, 0, 0, 7⟩] && t.outbox == [] &&
       t.coll.arrived == [(3, 0, 0, some (leBytes 8 0))] && t.coll.stream == []) &&
     nexts (exec (.ticketArrival ⟨3, 1, 8, [0]⟩) (tick ⟨3, 0, 7, [0]⟩ s)) (tick ⟨3, 0, 7, [0]⟩ s) &&
     ends (exec (.ticketArrival ⟨3, 0, 7, [0, 8]⟩) (tick ⟨3, 0, 7, [0, 8]⟩ { lone with coll := { lone.coll with started := [] } })) (fun t => t.coll.started == [⟨3, 0, 0, 7⟩] &&
       t.outbox == [⟨some 1, .contribution 8 3 0 0 (some (leBytes 8 0xFFFFFFFFFFFFFFFF))⟩]) &&
     s.coll.startedAt 3 0 == [⟨3, 0, 0, 9⟩] && s.contributions p 0 == some (some [leBytes 8 0xFFFFFFFFFFFFFFFF, leBytes 8 5]) &&
     ends (exec (.instanceEnd 3 0 false) s) (fun t => t.peek (localKey 0 0x2008) 8 == 4 && t.peek (localKey 0 0x3000) 8 == 0x0000000700420000 && t.peek (localKey 0 0x3008) 8 == 9 &&
       t.coll.plans.map (fun p => p.members.map (·.outstanding)) == [[[], [(0, 0)]]]) &&
     lone.contributions far 0 == none && nexts (exec (.instanceEnd 3 0 false) lone) lone &&
     lost.contributions far 0 == some none && ends (exec (.instanceEnd 3 0 true) lost) (fun t => t.peek (localKey 0 0x3000) 8 == 0x0000000714420003 && t.coll.plans.map (fun p => p.members.map (·.outstanding)) == [[[]]]) &&
     (let crowd := lost.updMe (fun c => { c with events := List.replicate 16 { stamp := 9, remaining := 0, kind := 0, cause := 4, qid := 2, tag := 0x1234 } })
      !crowd.memberRoom (member 0 [(0, 8)]) 1 && lost.memberRoom (member 0 [(0, 8)]) 1 &&
      ends (exec (.instanceEnd 3 0 true) crowd) (fun t => t.mem == crowd.mem && t.me.events == crowd.me.events)) &&
     planResult (k 1) bufs 1 == none && root.coll.startedAt 3 0 == [⟨3, 0, 1, 9⟩] &&
     ends (exec (.instanceEnd 3 0 false) root) (fun t => t.peek (localKey 1 0x3008) 8 == 9 && t.peek (localKey 1 0x2000) 8 == 0) &&
     planResult (k 0) bufs 1 == some (leBytes 8 4) && planResult (k 1) bufs 0 == some (leBytes 8 4) && planResult (k 3) bufs 1 == some bufs.flatten &&
     planResult (k 4) bufs 1 == some (leBytes 8 3)) = true := by decide +kernel

/-- Witness of FreedAndFailedPlansAreNotLive: a handle of nobody; nothing outstanding; an instance outstanding; a hub that
fails with an instance started. -/
theorem witness_freed :
    (let c : CfreeCmd := { handle := 7 }
     let at3 (s : State) : State := queues [ent 3 plain (.cfree c) .accepted] s
     let st (t : State) : List (EState × Nat) := t.me.entries.map (fun e => (e.state, e.status))
     let idle := at3 (withPlan (plan0 common0 [] []) house)
     let busy := at3 (withPlan (plan0 common0 [(0, 0)] []) house)
     let solo := { plan0 common0 [(0, 0)] [] with members := [member 0 [(0, 0)]], memberList := [(0, 0), (8, 1)] }
     let h0 := withPlan solo house
     let hub := { h0 with coll := { h0.coll with started := [⟨3, 0, 0, 9⟩] } }
     house.coll.plans == [] && ends (exec (.cfree plain c) (at3 house)) (fun t => st t == [(.finishing, 2)]) &&
     idle.memberOf idle.me 7 == some (plan0 common0 [] [], member 0 []) && (member 0 []).isMe idle.me &&
     (idle.freeingOf (0, 1) 0).map (·.2) == some (member 0 []) && (busy.freeingOf (0, 1) 0).map (·.2) == some (member 0 [(0, 0)]) &&
     ends (exec (.cfree plain c) idle) (fun t => st t == [(.finishing, 0)] && t.memberOf t.me 7 == none) &&
     ends (exec (.cfree plain c) busy) (fun t => st t == [(.active, 0)] && t.me.entries.map (·.job) == [.freeing (0, 1) 0] && t.memberOf t.me 7 == none) &&
     ends (exec (.hubFailure 8) hub) (fun t => t.coll.plans == [] && t.peek (localKey 0 0x3000) 8 == 0x0000000714420003 && t.peek (localKey 0 0x3008) 8 == 9)) = true := by
  decide +kernel

/-! ## Launches -/

/-- The house with channels to give. -/
def barracks : State := { house with parts := [{ part0 with channels := [5, 0], pages := [0, 4095], banks := [(3, 15), (0, 2)], groups := [3, 4095] }] }

/-- A kernel header at 0x1000 whose HLEN is 64, and a packet of one unit at 0x4000 of the store, with a weight. -/
def staged (weight : Nat) : State :=
  bytesAt (stackedKey 0x21000) (leBytes 4 0x4F564B48 ++ leBytes 2 64 ++ leBytes 1 1 ++ leBytes 57 0)
    (bytesAt (localKey 0 0x4000) (leBytes 8 0x1000 ++ leBytes 8 0 ++ leBytes 2 1 ++ leBytes 1 1 ++ leBytes 1 0 ++ leBytes 6 0 ++ leBytes 1 0 ++ leBytes 1 weight ++
      leBytes 1 15 ++ leBytes 1 1 ++ leBytes 2 0 ++ leBytes 4 9 ++ leBytes 2 7 ++ leBytes 2 0 ++ leBytes 8 0 ++ leBytes 8 0x900000010000 ++ leBytes 8 0) barracks)

/-- LAUNCH at the head. -/
def launchCmd0 : LaunchCmd := { nsucc := 0, pkt := 0x900000004000, succ0 := 0, succ1 := 0, succ2 := 0, succ3 := 0 }
def launchAt (s : State) : State := queues [ent 4 plain (.launch launchCmd0) .accepted] s

/-- Witness of LaunchPacketsAreAcceptedOrRejected: weight 15 is accepted, 16 is rejected by its field. -/
theorem witness_launch :
    (let good := takenUp (launchAt (staged 15)) 67
     let bad := takenUp (launchAt (staged 16)) 67
     let p := { part0 with channels := [5, 0], pages := [0, 4095], banks := [(3, 15), (0, 2)], groups := [3, 4095] }
     let key : LaunchKey := ⟨1, 1, 9, 7⟩
     let hd (s : State) : Option KernelHeader := (let x := s.headerBytes s.me 0x1000; headerIn x.1 x.2)
     let pk (s : State) : Packet := match s.engLoad s.me 0x900000004000 64 with | .ok bs => packetOf 0 bs | .error _ => packetOf 0 []
     good.partOf 0 == some p && good.part? 1 == some p && !(pk good).ragged && (pk good).crec == 0x800000010000 && (pk good).weight == 15 &&
     (match good.engPlace good.me 0x800000010000 32 .store with | .retry => false | _ => true) &&
     (hd good).map (·.hlen) == some 64 && good.packetFault good.me p key (pk good) (hd good) none == none &&
     bad.packetFault bad.me p key (pk bad) (hd bad) none == some (27, 0) && good.launch? key == none &&
     ends (exec (.launch plain launchCmd0) (launchAt (staged 15))) (fun t => t.me.entries.map (fun e => (e.state, e.status, e.count)) == [(.finishing, 0, 1)] &&
       (t.launch? key).map (fun l => (l.state, l.startPc, l.prio)) == some (.ready, 0x1040, 15) && t.channels.map (·.num) == [0]) &&
     ends (exec (.launch plain launchCmd0) (launchAt (staged 16))) (fun t => t.me.entries.map (fun e => (e.state, e.status, e.count)) == [(.finishing, 0, 0)] &&
       t.peek (localKey 0 0x10000) 4 == 0x001B0002 && t.launch? key == none)) = true := by decide +kernel

/-- A partition with launches, and graphs that count them. -/
def holding (ls : List Launch) (gs : List Counter) (s : State) : State := { s with parts := [{ part0 with channels := [0, 5], launches := ls, graphs := gs }] }

/-- A launch of one unit that is ready since a cycle. -/
def ready0 (index prio since seq : Nat) : Launch :=
  { launch0 with key := ⟨1, 1, 1, index⟩, state := .ready, unitCount := 1, gangSize := 1, nunits := 1, units := [], prio := prio, readyAt := since, readySeq := seq, startPc := 0x1040 }

/-- Witness of LaunchesBecomeReadyAndAge: a count written to 0 and to 2; ages of 2^20 cycles and one less; the head. -/
theorem witness_ready :
    (let b := holding [{ ready0 1 0 0 0 with state := .blocked, depCount := 3 }] [] house
     let a := { holding [ready0 1 3 1 0, ready0 2 3 0 1] [] house with cycle := 2 ^ 20 }
     let q (t : State) : List (LaunchState × Int) := (match t.part? 1 with | some p => p.launches.map (fun l => (l.state, l.depCount)) | none => [])
     (b.launch? ⟨1, 1, 1, 1⟩).map (·.state) == some .blocked &&
     ends (exec (.dependenceCountWrite 1 ⟨1, 1⟩ 1 0) b) (fun t => q t == [(.ready, 0)]) && ends (exec (.dependenceCountWrite 1 ⟨1, 1⟩ 1 2) b) (fun t => q t == [(.blocked, 2)]) &&
     ends (exec (.launchAging 1) a) (fun t => (t.part? 1).map (fun p => p.launches.map (·.aged)) == some [false, true]) &&
     (Partition.headLaunch { part0 with launches := [ready0 1 3 0 5, ready0 2 9 0 7, ready0 3 9 0 6, { ready0 4 0 0 9 with aged := true }] }).map (fun l => l.key.index) == some 4 &&
     (let few := [ready0 1 3 0 5, ready0 2 9 0 7, ready0 3 9 0 6]
      few.all (fun x => x.state != .placing && x.created != []) && (Partition.headLaunch { part0 with launches := few }).map (fun l => l.key.index) == some 3 &&
      (Partition.headLaunch { part0 with launches := few, head := some ⟨1, 1, 1, 1⟩ }).map (fun l => l.key.index) == some 1 &&
      (let none0 := { ready0 4 0 0 9 with unitCount := 0 }
       none0.created == [] && Partition.headLaunch { part0 with launches := { ready0 5 9 0 0 with state := .placing } :: few ++ [none0] } == some none0))) = true := by decide +kernel

/-- Witness of PlacingStartsUnitsOnTheirCores: one unit, on the first core of the first whole free bay. -/
theorem witness_placing :
    (let l := { ready0 2 3 0 0 with channels := [31, 0] }
     let s := holding [l] [] (bytesAt (localKey 8 0) [7] house)
     (s.part? 1).bind (·.headLaunch) == some l && s.launch? ⟨1, 1, 1, 2⟩ == some l && (s.part? 1).bind (fun p => s.placement p l) == some ([(0, .unplaced)], 1, [0], [8]) &&
     (s.core 8).lastLaunch == none &&
     ends (exec (.placeLaunch 1) s) (fun t => (t.core 8).run == .running && (t.core 8).pc == 0x1040 && !(t.core 8).super && (t.core 8).sup.ctxid == 1 && (t.core 8).sup.ptroot == 0x8000 &&
       (t.core 8).user.bmask == 0x80000001 && (t.core 8).unit.map (fun g => (g.unit, g.nunits)) == some (0, 1) && t.peek (localKey 8 0) 1 == 0 &&
       (t.launch? ⟨1, 1, 1, 2⟩).map (·.units) == some [(0, .on 8)]) &&
     (let l2 := { l with state := .placing, unitCount := 2, nunits := 2, units := [(0, .exited), (1, .unplaced)] }
      let kept := { holding [l2] [] (bytesAt (localKey 8 0) [7] house) with
        others := [(1, mate 1), (8, { Core.fresh 8 with lastLaunch := some l.key, accum := [(1, 2)], sup := { SupRegs.reset with ctxid := 1, ptroot := 0x10000 } })] }
      (kept.part? 1).bind (·.headLaunch) == some l2 && (kept.part? 1).bind (fun p => kept.placement p l2) == some (l2.units, 2, [1], [8]) &&
      ends (exec (.placeLaunch 1) kept) (fun t => (t.core 8).run == .running && (t.core 8).sup.ptroot == 0x10000 && (t.core 8).accum == [(1, 2)] && t.peek (localKey 8 0) 1 == 7))) = true := by decide +kernel

/-- A work command at its head. -/
def working (c : Cmd) (s : State) : State := queues [ent 4 plain c .accepted] s

/-- Witness of WorkCommandsActOnRangesCountersAndUnits: RANGEINIT and CNTWAIT. -/
theorem witness_work :
    (let r : RangeinitCmd := { ru := 15, div := 2, start := 9, length := 0xFFFFFFFF, minc := 1 }
     let g (n : Nat) (sealed : Bool) : Counter := { id := 1, ctx := 1, parent := 0, sealed := sealed, cancelled := false, status := 5, outstanding := n }
     let c (level index : Nat) (shut nowait : Bool) : CntwaitCmd := { level := BitVec.ofNat 3 level, sealIt := shut, nowait := nowait, key := 1, index := BitVec.ofNat 16 index }
     let st (t : State) : List (EState × Nat × Nat) := t.me.entries.map (fun e => (e.state, e.status, e.count))
     let run (c : CntwaitCmd) (s : State) (f : State → Bool) : Bool := ends (exec (.cntwait plain c) (working (.cntwait c) s)) f
     ends (exec (.rangeinit plain r) (working (.rangeinit r) house)) (fun t => st t == [(.finishing, 0, 0xFFFFFFFF)] && t.range? 0 15 == some ⟨0, 15, 1, 9, 0xFFFFFFFF, 2, 1⟩) &&
     house.counterState house.me 2 1 0 == none && run (c 2 0 false false) house (fun t => st t == [(.finishing, 17, 0)]) &&
     (holding [] [g 0 true] house).counterState house.me 2 1 0 == some (5, true) && run (c 2 0 false false) (holding [] [g 0 true] house) (fun t => st t == [(.finishing, 0, 5)]) &&
     (holding [] [g 1 true] house).counterState house.me 2 1 0 == some (5, false) && run (c 2 0 false true) (holding [] [g 1 true] house) (fun t => st t == [(.finishing, 0, 5)]) &&
     run (c 2 0 false false) (holding [] [g 1 true] house) (fun t => st t == [(.active, 0, 0)]) &&
     run (c 2 0 true false) (holding [] [g 0 false] house) (fun t => st t == [(.finishing, 0, 5)] && (t.part? 1).map (fun p => p.graphs.map (·.sealed)) == some [true])) = true := by decide +kernel

/-- Witness of WorkCommandsActOnRangesCountersAndUnits: CANCEL. -/
theorem witness_cancel :
    (let c (level key index : Nat) : CancelCmd := { level := BitVec.ofNat 3 level, key := BitVec.ofNat 32 key, index := BitVec.ofNat 16 index }
     let st (t : State) : List (EState × Nat × Nat) := t.me.entries.map (fun e => (e.state, e.status, e.count))
     let run (c : CancelCmd) (s : State) (f : State → Bool) : Bool := ends (exec (.cancel plain c) (working (.cancel c) s)) f
     let done : Counter := { id := 1, ctx := 1, parent := 0, sealed := true, cancelled := false, status := 0, outstanding := 0 }
     let b := holding [{ ready0 7 0 0 0 with state := .blocked, depCount := 3 }] [{ done with outstanding := 1 }] house
     let two := holding [{ launch0 with gangSize := 1 }] [{ done with outstanding := 1 }] house
     run (c 1 9 9) (holding [] [] house) (fun t => st t == [(.finishing, 17, 0)]) && (holding [] [done] house).counterState house.me 2 1 0 == some (0, true) &&
     run (c 2 1 0) (holding [] [done] house) (fun t => st t == [(.finishing, 16, 0)]) &&
     (two.core 1).unit.map (fun u => (u.ctx, u.gang)) == some (1, []) && !(two.core 1).exiting &&
     (let last := { two with others := [(1, { mate 1 with wait := some ⟨.exit, 0, 1, 0, 0, false, none⟩ })] }
      (last.core 1).exiting && run (c 0 1 0) last (fun t => st t == [(.finishing, 0, 0)] && (t.core 1).unit == none && (t.launch? ⟨1, 1, 1, 1⟩).map (·.units) == some [(0, .on 0), (1, .exited)])) && (two.core 1).id == 1 &&
     two.zeroing == [] && (two.launch? ⟨1, 1, 1, 1⟩).map (fun l => l.running.filter (fun x => x.1 / 1 == 1)) == some [(1, .on 1)] &&
     run (c 0 1 0) two (fun t => t.me.entries.map (fun e => (e.state, e.status, e.count, e.job)) == [(.active, 0, 1, .cancel [1])] && (t.core 1).unit == none && (t.core 1).run == .zeroing) &&
     (b.launch? ⟨1, 1, 1, 7⟩).map (fun l => (l.key, l.ctx, l.state, l.units)) == some (⟨1, 1, 1, 7⟩, 1, .blocked, []) &&
     run (c 1 1 7) b (fun t => st t == [(.finishing, 0, 0)] && (t.launch? ⟨1, 1, 1, 7⟩).map (fun l => (l.status, l.state != .blocked && l.state != .ready)) == some (1, true))) = true := by decide +kernel

/-- Witness of WorkCommandsActOnRangesCountersAndUnits: a CANCEL that waits for core 1, whose stores are zeroed or not yet. -/
theorem witness_cancel_release :
    (let c : CancelCmd := { level := 0, key := 1, index := 0 }
     let s (r : RunState) : State := queues [{ ent 4 plain (.cancel c) .active with job := .cancel [1], status := 0, count := 1 }] { house with others := [(1, { mate 1 with unit := none, run := r })] }
     ends (exec (.cancel plain c) (s .free)) (fun t => t.me.entries.map (fun e => (e.state, e.status, e.count)) == [(.finishing, 0, 1)]) &&
     ends (exec (.cancel plain c) (s .zeroing)) (fun t => t == s .zeroing)) = true := by decide +kernel

/-! ## Monitor calls -/

/-- Core 0 at supervisor level. -/
def boss : State := barracks.updMe (fun c => { c with super := true, unit := none })

/-- Core 0's call. -/
def asks (l : List (Nat × Word)) (s : State) : State := regs l s

/-- Witness of EcallPerformsTheCallThatG4Names: a call, a number of none, a core of no partition. -/
theorem witness_ecall :
    (let s := asks [(4, 4), (5, 30000)] boss
     let n := asks [(4, 13)] boss
     let out := { s with parts := [] }
     s.me.super && s.me.gpr 4 == 4 && ends (exec .ecall s) (fun t => t.me.gpr 4 == 0 && t.me.gpr 5 == 30000 && t.me.pc == 4) &&
     ends (exec .ecall n) (fun t => t.me.gpr 4 == 1 && t.me.pc == 4) && out.partOf 0 == none && ends (exec (.slice 30000) out) (fun t => t.me.gpr 4 == 2) &&
     (let held := s.updMe (fun c => { c with pendingRegs := [4] })
      let late := held.updMe (fun c => { c with batchArrived := true })
      nexts (exec .ecall held) (held.takeTrap 13 0x50000000) && nexts (exec .ecall late) (late.park (.pendingReg 4) 0))) = true := by decide +kernel

/-- The answer of a call, and what else it did. -/
def answers (i : Instr) (s : State) (status : Word) (f : State → Bool) : Bool := ends (exec i s) (fun t => t.me.gpr 4 == status && f t)

/-- Witness of MonitorCallsConfigureThePartition: INFO, SHMPAGE and PRICEBANK at the ends of their ranges. -/
theorem witness_monitor_pages :
    (let s := bytesAt (sharedKey 3 0x7FFFFF8) [9] boss
     let b := { s with banks := [{ die := 3, num := 15, owner := some 9, user := none, prices := [(0, 1)] }] }
     (s.partOf 0).isSome && s.part? 1 == s.partOf 0 && s.ctx? 1 == some ctx0 &&
     answers (.info 0x900000000100) s 0 (fun t => t.peek (localKey 0 0x100) 8 == 0x80) &&
     answers (.shmpage 4096 1) s 3 (fun _ => true) && answers (.shmpage 4094 1) s 2 (fun _ => true) &&
     s.pageOwner.find? (fun y => y.1 == 4095) == none && answers (.shmpage 4095 1) s 0 (fun t => assoc 4095 t.pageOwner == some 1 && t.peek (sharedKey 3 0x7FFFFF8) 1 == 0) &&
     (let held := bytesAt (sharedKey 0 0x1FFFF) [7] s
      let passed := { held with pageOwner := [(0, 2)] }
      held.pageOwner == [(0, 1)] && answers (.shmpage 0 1) held 0 (fun t => t.peek (sharedKey 0 0x1FFFF) 1 == 7) &&
      answers (.shmpage 0 1) passed 0 (fun t => assoc 0 t.pageOwner == some 1 && t.peek (sharedKey 0 0x1FFFF) 1 == 0) &&
      answers (.shmpage 0 0xFFFF) held 0 (fun t => t.pageOwner.find? (fun y => y.1 == 0) == none && t.peek (sharedKey 0 0x1FFFF) 1 == 0)) &&
     answers (.pricebank 4 0 1) s 3 (fun _ => true) && answers (.pricebank 0 16 1) s 3 (fun _ => true) &&
     answers (.pricebank 3 15 1) b 0 (fun t => t.banks == [{ die := 3, num := 15, owner := some 1, user := none, prices := [] }])) = true := by decide +kernel

/-- Witness of MonitorCallsConfigureThePartition: TREE, SLICE and PEER at the ends of their ranges. -/
theorem witness_monitor_rest :
    (let s := boss
     bitsOf (0xC0400001 : Word) 30 27 == 8 && answers (.tree 4095 4096 0xC0400001) s 0 (fun t => t.coll.entry 4096 4095 == 0xC0400001) &&
     answers (.tree 3 63 0xFFFFFFFF) s 3 (fun _ => true) && answers (.tree 3 63 0x87C00001) s 0 (fun t => t.coll.entry 63 3 == 0x87C00001) &&
     answers (.slice 0x100000000) s 3 (fun _ => true) && answers (.slice 0xFFFFFFFF) s 0 (fun t => t.me.gpr 5 == 0xFFFFFFFF) &&
     answers (.slice 24000) s 0 (fun t => t.me.gpr 5 == 24000) && answers (.slice 23999) s 0 (fun t => t.me.gpr 5 == 0x8000000000005DC0) &&
     answers (.peer 0x3FFF 0xFFFF 1) s 0 (fun t => t.peerOf 1 0x3FFF == some 0xFFFF)) = true := by decide +kernel

/-- Witness of AttestStoresTheSignedReport: a misaligned report; a nonce read and a report that can be stored; a nonce that
cannot be read. -/
theorem witness_attest :
    (let s := boss
     answers (.attest 0x900000000100 0x900000000201) s 3 (fun _ => true) &&
     (match s.engLoad s.me 0x900000000100 32 with | .ok n => n == List.replicate 32 0 | .error _ => false) &&
     (match s.engPlace s.me 0x900000000200 2588 .store with | .ok _ => true | _ => false) &&
     answers (.attest 0x900000000100 0x90000003FFF8) s 3 (fun t => t.mem == s.mem) &&
     (match s.engPlace s.me 0x90000003FFF8 2588 .store with | .ok _ => false | _ => true) &&
     (match s.engLoad s.me 0x900000040000 32 with | .ok _ => false | .error _ => true) && answers (.attest 0x900000040000 0x900000000200) s 3 (fun _ => true)) = true := by decide +kernel

/-! ## Contexts, sets, images -/

/-- The house with context 1 as given, core 0 at supervisor level without a unit. -/
def court (x : Context) (s : State) : State := { s with contexts := [x] }

/-- Core 1 as given. -/
def other (f : Core → Core) (s : State) : State := { s with others := [(1, f (mate 1))] }

/-- Witness of ContextCallsMoveContextsAndSets: CTXNEW's premises, CTXFREE, CTXSTATE. -/
theorem witness_contexts :
    (let s := boss
     let gone := { court { ctx0 with state := .loading, sets := [⟨63, .evicted, [], []⟩] } s with tags := [(5, 1, ⟨1, 1, 1, 1⟩, 0)] }
     (s.partOf 0).isSome && s.part? 1 == s.partOf 0 && s.ctx? 65534 == none && s.ctx? 1 == some ctx0 && s.coll.plans == [] &&
     answers (.ctxfree 1) gone 0 (fun t => (t.ctx? 1).map (fun y => (y.state, y.sets)) == some (.destroying, []) && t.tags == []) &&
     (let l := { launch0 with key := ⟨1, 1, 1, 2⟩, gangSize := 1, units := [(0, .on 1)] }
      let u := { unit0 with launch := l.key, unit := 0 }
      let busy := { other (fun c => { c with unit := some u }) s with parts := [{ part0 with launches := [l] }] }
      let three := { busy with parts := [{ part0 with launches := [l, { l with key := ⟨1, 1, 1, 3⟩, state := .placing, units := [(0, .on 2)] }] }] }
      busy.launch? l.key == some l && (busy.core 1).exiting == false && (busy.core 1).unit == some u && (List.range 4096).all (fun n => (busy.core n).id == n) &&
      answers (.ctxfree 1) busy 0 (fun t => (t.core 1).run == .zeroing && (t.core 1).zeroCtx == some 1 && (t.core 1).unit == none &&
        (t.launch? l.key).map (fun x => (x.status, x.units)) == some (1, [(0, .cancelled)]) && (t.ctx? 1).map (·.state) == some .destroying) &&
      answers (.ctxfree 1) three 0 (fun t => (t.core 1).unit == none && (t.core 2).unit == none)) &&
     answers (.ctxfree 65535) s 5 (fun _ => true) && answers (.ctxstate 7 0x900000000100) (bytesAt (localKey 0 0x100) [1] s) 0 (fun t => t.peek (localKey 0 0x100) 8 == 0) &&
     answers (.ctxstate 1 0x900000000100) gone 0 (fun t => t.peek (localKey 0 0x100) 8 == 1 && t.peek (localKey 0 (0x108 + 63)) 1 == 3)) = true := by decide +kernel

/-- Contexts 0 to n − 1. -/
def crowd (n : Nat) : State := { boss with contexts := (List.range n).map (fun i => { ctx0 with id := i }) }

/-- With every id bound, CTXNEW's other premise. -/
theorem witness_ctxnew_full (n k : Nat) (hk : k < n) : (crowd n).ctx? k ≠ none := by
  intro h
  have := List.find?_eq_none.mp h { ctx0 with id := k } (List.mem_map.mpr ⟨k, List.mem_range.mpr hk, rfl⟩)
  simp at this

/-- The tree at 0x8000 maps one page, by its leaf at 0x18000. -/
theorem base_leaf (s : State) (h : s.mem = base.mem) : (stackedKey 0x18000, false) ∈ s.leaves 0x8000 := by
  have hl : s.leaves 0x8000 = base.leaves 0x8000 := by
    unfold State.leaves State.peek
    rw [h]
  rw [hl]
  unfold State.leaves
  rw [if_neg (by decide +kernel)]
  refine List.mem_flatMap.mpr ⟨0, List.mem_range.mpr (by omega), ?_⟩
  rw [if_neg (by decide +kernel)]
  refine List.mem_flatMap.mpr ⟨0, List.mem_range.mpr (by omega), ?_⟩
  rw [if_neg (by decide +kernel)]
  exact List.mem_map.mpr ⟨0, List.mem_range.mpr (by decide +kernel), by decide +kernel⟩

/-- Witness of ScrubReportsPoisonTheirPages: the page of address 0 is mapped by a tree in use, and holds the bad line. -/
theorem witness_scrub : (stackedKey 0x18000, false) ∈ base.roots.flatMap base.leaves ∧
    (Memory.wf base.mem && bitsOf (BitVec.ofNat 64 (base.peek (stackedKey 0x18000) 8)) 1 0 == 3 && mapsKey (base.peek (stackedKey 0x18000) 8) false (stackedKey 0x2FFC0)) = true :=
  ⟨List.mem_flatMap.mpr ⟨0x8000, by decide +kernel, base_leaf base rfl⟩, by decide +kernel⟩

/-- Witness of ContextCallsMoveContextsAndSets: PREEMPT, set and clear. -/
theorem witness_preempt :
    (let s := other id boss
     let parked := other (fun c => { c with wait := some ⟨.idle, 0, 1, 0, 0, false, none⟩ }) boss
     let req := court { ctx0 with sets := [⟨63, .requested, [1], []⟩] } (other (fun c => { c with preq := some (0, 63) }) boss)
     let held := other (fun c => { c with held := true }) boss
     (s.core 1).unit.map (fun u => (u.gang, u.ctx)) == some ([], 1) && (s.core 1).run == .running && (s.core 1).preq == none && s.tagCount 1 == 0 && !(s.core 1).parked && (parked.core 1).parked &&
     answers (.preemptSet 1 63) s 0 (fun t => (t.core 1).preq == some (t.cycle, 63) && (t.core 1).run == .running && (t.ctx? 1).map (·.sets) == some [⟨63, .requested, [1], []⟩]) &&
     answers (.preemptSet 1 63) parked 0 (fun t => (t.core 1).run == .saving && t.tags == [(1, 1, ⟨1, 1, 1, 1⟩, 1)] && (t.ctx? 1).map (fun y => y.sets.map (·.state)) == some [.saving]) &&
     answers (.preemptSet 1 63) req 5 (fun _ => true) &&
     answers (.preemptClear 1 0) held 0 (fun t => !(t.core 1).held) &&
     (let inGang (c : Core) : Core := { c with unit := c.unit.map (fun u => { u with gang := [1, 2] }) }
      let g := { req with others := [(1, inGang (req.core 1)), (2, inGang { mate 2 with run := .saving })] }
      (g.gangCores (g.core 1)) == [1, 2] && answers (.preemptClear 1 63) g 5 (fun t => (t.core 1).preq == some (0, 63))) &&
     answers (.preemptClear 1 63) req 0 (fun t => (t.core 1).preq == none && (t.core 1).run == .running)) = true := by decide +kernel

/-- An image of a core whose unit saved itself in a set. -/
def image0 : Image := { set := 63, fromCore := 7, core := { mate 7 with pc := 0x40 }, store := [(0, 9), (0x3FFFF, 8)] }

/-- Context 1 with a set of one image. -/
def evicted (st : SetState) (targets : List (Nat × Nat)) (s : State) : State := court { ctx0 with sets := [⟨63, st, [], targets⟩], images := [image0] } s

/-- Witness of ContextCallsMoveContextsAndSets: RESTORE onto core 9; a set that is not evicted. -/
theorem witness_restore :
    (let s := bytesAt (localKey 0 0x100) (leBytes 4 1 ++ leBytes 4 9) (evicted .evicted [] boss)
     (match s.engLoad s.me 0x900000000100 8 with | .ok bs => bs == leBytes 4 1 ++ leBytes 4 9 | .error _ => false) && s.coreEnabled 9 && (s.core 9).run == .free &&
     s.accFits [(image0, 9)] && (s.core 9).lastLaunch == none && gangsKept [(image0, 9)] &&
     answers (.restore 1 63 0x900000000100) s 0 (fun t => (t.core 9).run == .restoring && (t.ctx? 1).map (fun y => y.sets) == some [⟨63, .restoring, [], [(7, 9)]⟩]) &&
     (let on9 (c : Core) : State := { s with others := s.others ++ [(9, c)] }
      answers (.restore 1 63 0x900000000100) (on9 { mate 9 with unit := none, run := .zeroing }) 4 (fun _ => true) &&
      answers (.restore 1 63 0x900000000100) (on9 { mate 9 with unit := none, run := .free, lastLaunch := some ⟨1, 1, 1, 1⟩ }) 4 (fun _ => true)) &&
     answers (.restore 7 63 0x900000000100) s 5 (fun _ => true) &&
     answers (.restore 1 63 0x900000000100) (evicted .saving [] s) 5 (fun _ => true)) = true := by decide +kernel

/-- Witness of RestoredCoresResumeWithTheirStores and ResetHoldsTheStatedValues' canonical memory: an image loaded; a core
whose zeroing ends. -/
theorem witness_resume :
    (let s := evicted .restoring [(7, 9)] boss
     let z := bytesAt (localKey 0 5) [3] (boss.updMe (fun c => { c with run := .zeroing }))
     Memory.wf s.mem && (s.ctx? 1).map (fun x => x.imagesOf 63) == some [image0] &&
     ends (exec (.restoreComplete 1 63) s) (fun t => (t.core 9).run == .running && (t.core 9).id == 9 && (t.core 9).pc == 0x40 && (t.core 9).user.restored && (t.core 9).wdBase == t.cycle &&
       t.peek (localKey 9 0) 1 == 9 && t.peek (localKey 9 0x3FFFF) 1 == 8 && (t.ctx? 1).map (fun y => (y.sets, y.images)) == some ([], [])) &&
     Memory.wf z.mem && ends (exec .bufferZeroingComplete z) (fun t => t.me.run == .free && t.peek (localKey 0 5) 1 == 0)) = true := by decide +kernel

/-- Core 0 is asked to save itself in set 63. -/
def leaving : State := court { ctx0 with sets := [⟨63, .requested, [0], []⟩] }
  ({ house with cycle := 0x10001, parts := [{ part0 with launches := [{ launch0 with gangSize := 1 }] }] }.updMe (fun c => { c with preq := some (0, 63) }))

/-- Witness of SavesEndInAnImageOfTheCore: the deadline of 0x10000 has passed at an instruction and in a stalled ARRIVE, has
not, or the core is forced; what may not be left; a save that ends, one of two cores, and one behind a tile. -/
theorem witness_saves :
    (let s := leaving
     let waits (k : WaitKind) (ready : Bool) : State := s.updMe (fun c => { c with wait := some ⟨k, 0, 1, 0, 0, ready, none⟩ })
     let early := { s with cycle := 0x10000 }
     let forced := early.updMe (fun c => { c with forced := true })
     let saving := s.updMe (fun c => { c with run := .saving })
     let two := court { ctx0 with sets := [⟨63, .saving, [0, 1], []⟩] } saving
     let tile := saving.updMe (fun c => { c with runTile := some ⟨0, 7, 7, 0, 0, 0, false⟩ })
     let begins (u : State) : Bool := ends (exec .pdeadlineExpiry u) (fun t => t.me.run == .saving && t.me.wait == none && !t.me.forced && t.tags == [(0, 1, ⟨1, 1, 1, 1⟩, 0)] &&
       (t.ctx? 1).map (fun y => y.sets.map (·.state)) == some [.saving])
     let stays (u : State) : Bool := ends (exec .pdeadlineExpiry u) (fun t => t == u)
     (let banks := { s with banks := [{ bank2 with user := some 0 }] }
      ends (exec .pdeadlineExpiry banks) (fun t => t.me.run == .saving && t.banks == [bank2])) &&
     s.me.unit.isSome && s.me.wait == none && s.me.sup.pdeadline == 0x10000 && begins s && begins (waits (.arrive 5 false) false) && begins (waits .fuse false) && begins forced &&
     stays early && stays (waits (.arrive 5 false) true) && stays (waits (.retry 0) false) && stays (waits .kerf false) &&
     ends (exec .coreSaveComplete tile) (fun t => t == tile) &&
     ends (exec .coreSaveComplete saving) (fun t => t.me.run == .zeroing && t.me.unit == none && (t.ctx? 1).map (fun y => (y.images.map (fun i => (i.set, i.fromCore)), y.sets.map (·.state))) == some ([(63, 0)], [.evicted]) &&
       (t.launch? ⟨1, 1, 1, 1⟩).map (·.units) == some [(0, .saved), (1, .on 1)]) &&
     ends (exec .coreSaveComplete two) (fun t => (t.ctx? 1).map (·.sets) == some [⟨63, .saving, [1], []⟩])) = true := by decide +kernel

/-- A root in no populated memory. -/
def noTree : Word := 0x3FFFFFFF8000

/-- Context 1 is being destroyed, and no other tree is in use. -/
def alone : State := court { ctx0 with state := .destroying } (base.updMe (fun c => { c with sup := { c.sup with ptroot := noTree } }))

/-- Witness of DestroyedContextsGiveEverythingBack: a page of DRAM that the context alone has mapped. -/
theorem witness_dram_page : (stackedKey 0x20000, 0x10000) ∈ alone.dramPages 0x8000 ∧ alone.contexts.map (·.id) = [1] ∧ alone.frames = [] ∧
    alone.allCores.all (fun c => c.unit == none) = true :=
  ⟨List.mem_filterMap.mpr ⟨(stackedKey 0x18000, false), base_leaf alone rfl, by decide +kernel⟩, by decide +kernel, by decide +kernel, by decide +kernel⟩

/-- Witness of DestroyedContextsGiveEverythingBack: the units stopped, or an image left; the zeroing ended, or not. -/
theorem witness_destroyed :
    (let x := { ctx0 with state := .destroying, ptroot := noTree }
     let s := { bytesAt (sharedKey 0 0x1FFFF) [7] (court x (other (fun c => { c with unit := none }) boss)) with
       banks := [bank2], ranges := [⟨0, 3, 1, 0, 1, 1, 1⟩] }
     let two := { bytesAt (stackedKey 0x100000) [5] (bytesAt (stackedKey 0x11FFFF) [6] s) with
       frames := [⟨stackedKey 0x100000, 0x20000, 1, 0⟩, ⟨stackedKey 0x110000, 0x10000, 2, 0⟩] }
     let im := court { x with images := [image0] } s
     let z := court { ctx0 with state := .zeroed } s
     s.allCores.all (fun c => match c.unit with | some u => u.ctx != 1 | none => true) && s.pageOwner == [(0, 1)] &&
     ends (exec (.contextUnitsStopped 1) s) (fun t => (t.ctx? 1).map (·.state) == some .zeroed && t.pageOwner == [] && t.banks == [{ bank2 with owner := none, user := none, prices := [] }] && t.ranges == [] && t.peek (sharedKey 0 0x1FFFF) 1 == 0) &&
     ends (exec (.contextUnitsStopped 1) two) (fun t => t.frames == [⟨stackedKey 0x110000, 0x10000, 2, 0⟩] && t.peek (stackedKey 0x100000) 1 == 0 &&
       t.peek (stackedKey 0x11FFFF) 1 == 6) &&
     (let busy := { z with others := [(1, { mate 1 with unit := none, run := .zeroing, zeroCtx := some 1 })] }
      ends (exec (.contextZeroingComplete 1) busy) (fun t => t == busy)) &&
     ends (exec (.contextUnitsStopped 1) im) (fun t => (t.ctx? 1).map (·.state) == some .destroying) &&
     ends (exec (.contextZeroingComplete 1) z) (fun t => t.contexts == []) && ends (exec (.contextZeroingComplete 1) s) (fun t => (t.ctx? 1).isSome)) = true := by decide +kernel

/-- Core 0's watchdog count has reached its limit of 5, in truss 0 of partition 1. -/
def overdue (held : List (List Byte)) (ring : Option (Nat × Nat × Nat)) : State :=
  { house with cycle := 9, parts := [{ part0 with wdHeld := held, wdRing := ring }] }.updMe (fun c => { c with wdBase := 4, sup := { c.sup with wdlimit := 5 } })

/-- Witness of WatchdogExpirySavesOrHoldsAndTells: a tag free, none free, before the limit; the ring with room, full. -/
theorem witness_watchdog :
    (let s := overdue [] none
     let full := { s with tags := (List.range 8).map (fun i => (0, 2 + i, ⟨1, 1, 1, 1⟩, i)) }
     let early := { s with cycle := 8 }
     let k := lpddrKey 0x1000
     let rec' := wdBytes s.me false false 0
     let ring := overdue [rec'] (some (k, 4, 3))
     let none' := overdue [rec'] (some (k, 4, 4))
     let inside := s.updMe (fun c => { c with wait := some ⟨.kerf, 0, 1, 0, 0, false, none⟩ })
     let parked := s.updMe (fun c => { c with wait := some ⟨.idle, 0, 1, 0, 0, false, none⟩, sup := { c.sup with wdlimit := 0, wdpark := 5 } })
     let lost := overdue (List.replicate 64 rec') none
     s.me.unit.map (·.gang) == some [] && s.me.preq == none && s.me.run == .running && !s.me.wdParked && (s.ctx? 1).bind (·.freeSet) == some 0 && s.tagCount 0 == 0 && full.tagCount 0 == 8 &&
     ends (exec .watchdogExpiry s) (fun t => t.me.run == .saving && t.me.preq == some (9, 0) && t.me.sup.scause == 0x8000000000000010 && (t.part? 1).map (·.wdHeld) == some [rec']) &&
     ends (exec .watchdogExpiry full) (fun t => t.me.held && t.me.run == .running && (t.part? 1).map (·.wdHeld) == some [wdBytes s.me false true 0xFF]) &&
     s.me.atBoundary && !inside.me.atBoundary && ends (exec .watchdogExpiry inside) (fun t => t.me.run == .running && t.me.forced && t.me.wait == inside.me.wait && t.tags == []) &&
     ends (exec .watchdogExpiry inside) (fun t => t.me.expired == some (0, false) && (t.part? 1).map (·.wdHeld) == some [] && (t.ctx? 1).map (fun y => y.sets.map (·.state)) == some [.saving]) &&
     (let noTag := { inside with tags := full.tags }
      ends (exec .watchdogExpiry noTag) (fun t => t.me.expired == some (0xFF, false) && !t.me.held && (t.part? 1).map (·.wdHeld) == some [])) &&
     (let due := court { ctx0 with sets := [⟨0, .saving, [0], []⟩] } (s.updMe (fun c => { c with pc := 0x44, preq := some (8, 0), forced := true, expired := some (0, true) }))
      let noTag := full.updMe (fun c => { c with pc := 0x44, expired := some (0xFF, true) })
      due.me.atBoundary && ends (exec .pdeadlineExpiry due) (fun t => t.me.run == .saving && t.me.expired == none && t.me.sup.scause == 0x8000000000000010 &&
        (t.part? 1).map (·.wdHeld) == some [wdBytes due.me true false 0]) &&
      ends (exec .watchdogExpiry noTag) (fun t => t.me.held && t.me.expired == none && (t.part? 1).map (·.wdHeld) == some [wdBytes noTag.me true true 0xFF])) &&
     ends (exec .watchdogExpiry parked) (fun t => t.me.run == .saving && (t.part? 1).map (·.wdHeld) == some [wdBytes s.me true false 0]) &&
     ((lost.wdPost 0 rec').part? 1).map (fun p => (p.wdHeld.length, p.wdLost)) == some (64, 1) &&
     ends (exec .watchdogExpiry early) (fun t => t.me.run == .running && !t.me.held) &&
     rec'.length == 16 && Memory.wf ring.mem && ring.peek (k + 8) 8 == 0 &&
     ends (exec (.watchdogRingPoll 1) ring) (fun t => t.peek k 8 == 4 && Memory.readBytes t.mem (k + 64 + 48) 16 == rec' && (t.part? 1).map (·.wdHeld) == some [] && ((t.core 0).wdNotice).map (·.2) == some 4) &&
     ends (exec (.watchdogRingPoll 1) none') (fun t => (t.part? 1).map (fun p => (p.wdHeld, p.wdPoll)) == some ([rec'], 9) && t.peek k 8 == 0)) = true := by decide +kernel

/-- Witness of RingsAndMailboxesBelongToTheirPartition: sizes 0, 3, 4097 and a ring of 4096 records; rings past and at the end
of the partition's stacked range; a message, and one while the package is frozen. -/
theorem witness_ring :
    (let s := boss
     answers (.wdring 0x1000 0 1) s 3 (fun _ => true) && answers (.wdring 0x1000 3 1) s 3 (fun _ => true) && answers (.wdring 0x1000 8192 1) s 3 (fun _ => true) && answers (.wdring 0x1020 4 1) s 3 (fun _ => true) &&
     answers (.wdring 0x1000 4 2) s 3 (fun _ => true) && lpddrPopulated (0x1000 + 63 + 16 * 4096) && (s.partOf 0).map (·.wdHeld) == some [] && (s.partOf 0).bind (fun p => ringPlace p 0x1000 4096 1) == some (lpddrKey 0x1000) &&
     answers (.wdring 0x1000 4096 1) s 0 (fun t => (t.part? 1).map (·.wdRing) == some (some (lpddrKey 0x1000, 4096, 0))) &&
     stackedPopulated 0x40000000 && (s.partOf 0).map (fun p => (ringPlace p 0x40000000 4 0, ringPlace p 0x3FFFFF00 4 0)) == some (none, some (stackedKey 0x3FFFFF00)) &&
     answers (.wdring 0x40000000 4 0) s 2 (fun _ => true) && answers (.wdring 0x3FFFFF00 4 0) s 0 (fun t => (t.part? 1).map (·.wdRing) == some (some (stackedKey 0x3FFFFF00, 4, 0))) &&
     ends (exec (.hostMailbox 1 [1, 2]) s) (fun t => (t.part? 1).map (·.mailbox) == some [[1, 2]]) &&
     ends (exec (.hostMailbox 1 [1, 2]) { s with frozen := true }) (fun t => (t.part? 1).map (·.mailbox) == some [] && t.boot.hostRetries == 1)) = true := by decide +kernel

/-- Core 0 waits, for core 1's queue among others. -/
def stuck (k : WaitKind) (s : State) : State := s.updMe (fun c => { c with wait := some ⟨k, 4, 1, 0, 0, false, none⟩ })

/-- Sixteen words in a receive queue of core 1. -/
def crowded (s : State) : State := { s with others := [(1, { mate 1 with ports := (mate 1).ports.setIfInBounds 3 { hw := List.replicate 16 7, spillCount := 0, spillHead := 0 } })] }

/-- Witness of ResendsAndPortEventsLetTheInstructionTryAgain: each resend, and another wait; a port write. -/
theorem witness_resends :
    (let r (t : State) : Bool := (t.me.wait.map (·.ready)) == some true
     let w := stuck (.portWrite 25) house
     let full := crowded w
     let batch (r : BitVec 5) (s : State) : State := s.updMe (fun c => { c with wait := none, portResults := [(r, 9)], portSince := 4 })
     let late := { full.updMe (fun c => { c with user := { c.user with portwait := 5 } }) with cycle := 9 }
     ends (exec .retryResend (stuck (.retry 8) house)) r && ends (exec .portWriteResend (stuck (.portRetry 24) house)) r && ends (exec .migWriteRetranslate (stuck (.migWrite 8) house)) r &&
     ends (exec .retryResend w) (fun t => !r t) && ends (exec .portWriteResend w) (fun t => !r t) && ends (exec .migWriteRetranslate w) (fun t => !r t) &&
     (batch 26 w).me.portTarget 2 == some (4, 0) && !(batch 26 w).partnerOk 4 && ends (exec .portWriteUnstall (batch 26 w)) (fun t => t.me.sup.scause == 3 && t.me.sup.sval == 26) &&
     (batch 29 w).me.portTarget 5 == none && ends (exec .portWriteUnstall (batch 29 w)) (fun t => t.me.sup.scause == 3 && t.me.sup.sval == 29) &&
     (batch 25 w).partnerOk 1 && ends (exec .portWriteUnstall (batch 25 w)) (fun t => (t.core 1).ports[3]?.map (·.hw) == some [9] && t.me.portResults == []) &&
     ends (exec .portWriteUnstall (batch 25 full)) (fun t => t.me.portResults == [(25, 9)]) && ends (exec .portwaitExpiry (batch 25 late)) (fun t => t.me.sup.scause == 7 && t.me.sup.sval == 25) &&
     (let refused := (batch 25 w).updMe (fun c => { c with portRefused := true })
      let soon := { refused with cycle := 259 }
      let again := { refused with cycle := 260 }
      let away := { again with tags := [(1, 1, ⟨1, 1, 1, 1⟩, 1)], others := [] }
      nexts (exec .portWriteUnstall again) again && nexts (exec .portwaitExpiry again) again && nexts (exec .portWriteResend soon) soon &&
      ends (exec .portWriteResend again) (fun t => !t.me.portRefused && t.me.portSince == 260) &&
      ends (exec .portWriteResend away) (fun t => t.me.portRefused && t.me.portSince == 260) && away.partnerOk 1 &&
      ends (exec .portWriteResend (away.updMe (fun c => { c with portRefused := false }))) (fun t => t.me.portRefused) &&
      nexts (exec .portWriteResend (batch 25 w)) (batch 25 w)) &&
     ends (exec .portwaitExpiry { batch 25 late with cycle := 8 }) (fun t => t.me.pc == 0 && t.me.portResults == [(25, 9)]) &&
     w.me.portTarget 1 == some (1, 3) && (w.core 1).portRoom 3 && ends (exec .portWriteUnstall w) r &&
     !(full.core 1).portRoom 3 && full.partnerOk 1 && !full.retries 1 full.me.ctx && ends (exec .portWriteUnstall full) (fun t => !r t) &&
     ends (exec .portwaitExpiry late) (fun t => t.me.sup.scause == 7 && t.me.sup.sval == 25) && ends (exec .portwaitExpiry { late with cycle := 8 }) (fun t => t.me.pc == 0 && !t.me.super) &&
     ends (exec .portwaitExpiry (late.updMe (fun c => { c with user := { c.user with portwait := 0 } }))) (fun t => !t.me.super)) = true := by decide +kernel

/-- Witness of ResendsAndPortEventsLetTheInstructionTryAgain: a word to a queue with room, to its spill area, to a full one. -/
theorem witness_words :
    (let q (hw n : Nat) (j : Nat) : State := queue j { hw := List.replicate hw 7, spillCount := n, spillHead := 63 } house
     let pq (t : State) (j : Nat) : Nat × Nat := match t.me.ports[j]? with | some p => (p.hw.length, p.spillCount) | none => (0, 0)
     ends (exec (.portWordArrival 0 9) (q 15 0 0)) (fun t => pq t 0 == (16, 0)) && (q 16 0 1).me.user.portmap.getLsbD 1 && !(q 16 0 0).me.user.portmap.getLsbD 0 && Memory.wf house.mem &&
     ends (exec (.portWordArrival 1 9) (q 16 63 1)) (fun t => pq t 1 == (16, 64) && t.peek (localKey 0 (t.me.spillBase 1 + 8 * 62)) 8 == 9) &&
     ends (exec (.portWordArrival 1 9) (q 16 64 1)) (fun t => pq t 1 == (16, 64)) && ends (exec (.portWordArrival 0 9) (q 16 0 0)) (fun t => pq t 0 == (16, 0))) = true := by decide +kernel

/-! ## The link -/

/-- A port and a cycle. -/
def linked (p : LinkPort) (cycle : Nat) : State := { house with ports := [LinkPort.reset 1, p], cycle := cycle }

/-- Port 2 is up, its lanes crossed, inverted and skewed; its descramblers stand where a sender's generators do after reset. -/
def up0 : LinkPort := { LinkPort.reset 2 with
  state := .up, lanes := [⟨3, true, 0⟩, ⟨1, false, 2⟩, ⟨0, false, 64⟩, ⟨2, true, 1⟩]
  recvScr := [0x7FFFFFFC, 0x7FFFFFFE, 0x7FFFFFFF, 0x7FFFFFFD] }

/-- What the lanes bring it when a port after reset sends a flit. -/
def carried (f : BitVec 256) : List (List Level) :=
  up0.lanes.map (fun t =>
    let ls := nth [] ((LinkPort.reset 2).putLine 0 (laneBits f)).line t.number
    List.replicate t.skew .n3 ++ (if t.inverted then ls.map negLevel else ls))

/-- A flit, lane by lane. -/
theorem takeFlit_four (q : LinkPort) (k : Nat) (rx : List (List Level)) (a b c d : TrainedLane) (x y z w : BitVec 31)
    (hl : q.lanes = [a, b, c, d]) (hx : q.recvScr = [x, y, z, w]) (h0 : k - q.rxAt = 0) : (q.takeFlit k rx).1 = flitOfLanes ((List.range 4).map (fun l =>
      match [(a.number, laneData (nth [] rx 0) a.skew 32 a.inverted x), (b.number, laneData (nth [] rx 1) b.skew 32 b.inverted y),
        (c.number, laneData (nth [] rx 2) c.skew 32 c.inverted z), (d.number, laneData (nth [] rx 3) d.skew 32 d.inverted w)].find? (fun o => o.1 == l) with
      | some o => o.2.1 | none => [])) := by
  simp only [LinkPort.takeFlit, hl, hx, h0, List.map_cons, List.map_nil, List.mapIdx_cons, List.mapIdx_nil, nth, Nat.mul_zero, scrAfter]
  rfl

/-- The lanes bring a flit to a port trained like this one, where each brings its bits. -/
theorem brought (f : BitVec 256) (h : ((laneData (nth [] (carried f) 2) 64 32 false 0x7FFFFFFF).1 == laneBits f 0 &&
      (laneData (nth [] (carried f) 1) 2 32 false 0x7FFFFFFE).1 == laneBits f 1 && (laneData (nth [] (carried f) 3) 1 32 true 0x7FFFFFFD).1 == laneBits f 2 &&
      (laneData (nth [] (carried f) 0) 0 32 true 0x7FFFFFFC).1 == laneBits f 3 && flitOfLanes [laneBits f 0, laneBits f 1, laneBits f 2, laneBits f 3] == f) = true)
    (q : LinkPort) (k : Nat) (hl : q.lanes = up0.lanes) (hx : q.recvScr = up0.recvScr) (h0 : k - q.rxAt = 0) : (q.takeFlit k (carried f)).1 = f := by
  simp only [Bool.and_eq_true, beq_iff_eq] at h
  obtain ⟨⟨⟨⟨a, b⟩, c⟩, d⟩, hf⟩ := h
  rw [takeFlit_four q k (carried f) ⟨3, true, 0⟩ ⟨1, false, 2⟩ ⟨0, false, 64⟩ ⟨2, true, 1⟩ 0x7FFFFFFC 0x7FFFFFFE 0x7FFFFFFF 0x7FFFFFFD hl hx h0]
  dsimp only
  generalize laneData (nth [] (carried f) 2) 64 32 false 0x7FFFFFFF = A at *
  generalize laneData (nth [] (carried f) 1) 2 32 false 0x7FFFFFFE = B at *
  generalize laneData (nth [] (carried f) 3) 1 32 true 0x7FFFFFFD = C at *
  generalize laneData (nth [] (carried f) 0) 0 32 true 0x7FFFFFFC = D at *
  refine (congrArg flitOfLanes (show _ = [A.1, B.1, C.1, D.1] from rfl)).trans ?_
  rw [a, b, c, d, hf]

/-- Port 2 as a step leaves it. -/
def port2 (o : Host.Outcome State Fault Refusal) (f : LinkPort → Bool) : Bool := ends o (fun t => (t.port? 2).map f == some true)

/-- A control flit made with a type and a field is one of that type. -/
theorem control_flit (type field width : Nat)
    (h : ((flitTop (BitVec.ofNat 224 (type * 2 ^ 216 + (field % 2 ^ width) * 2 ^ (216 - width))) true 0).extractLsb' 31 1 == 1 &&
      (flitTop (BitVec.ofNat 224 (type * 2 ^ 216 + (field % 2 ^ width) * 2 ^ (216 - width))) true 0).extractLsb' 24 7 == 0 &&
      ((flitTop (BitVec.ofNat 224 (type * 2 ^ 216 + (field % 2 ^ width) * 2 ^ (216 - width))) true 0).extractLsb' 248 8).toNat == type) = true) :
    isControl (ctlFlit type field width) type := by
  simp only [Bool.and_eq_true, beq_iff_eq] at h
  refine ⟨mkFlit_crc _ _ _, ?_, ?_, ?_⟩
  · rw [ctlFlit, mkFlit_getLsbD _ _ _ _ (by omega)]
    have := congrArg (fun x => x.getLsbD 0) h.1.1
    simpa [BitVec.getLsbD_extractLsb'] using this
  · rw [ctlFlit, mkFlit_extract _ _ _ _ _ (by omega)]; exact h.1.2
  · rw [ctlFlit, mkFlit_extract _ _ _ _ _ (by omega)]; exact h.2

/-- ACK and NAK of 127, ACK of 5, FLOW with classes 0 and 3 OFF, PROBE and ECHO of the last stamp are control flits; a flit
whose CRC has one bit changed is wrong. -/
theorem witness_control_flits : isControl (ctlFlit 1 127 7) 1 ∧ isControl (ctlFlit 2 127 7) 2 ∧ isControl (ctlFlit 1 5 7) 1 ∧ isControl (ctlFlit 3 6 4) 3 ∧
    isControl (ctlFlit 0x10 0xFFFFFFFF 32) 0x10 ∧ isControl (ctlFlit 0x11 0xFFFFFFFF 32) 0x11 :=
  ⟨control_flit _ _ _ (by decide +kernel), control_flit _ _ _ (by decide +kernel), control_flit _ _ _ (by decide +kernel), control_flit _ _ _ (by decide +kernel),
    control_flit _ _ _ (by decide +kernel), control_flit _ _ _ (by decide +kernel)⟩

/-- Each of these flits, and one whose CRC is wrong, is brought by the lanes. -/
theorem witness_brings (q : LinkPort) (k : Nat) (hl : q.lanes = up0.lanes) (hx : q.recvScr = up0.recvScr) (h0 : k - q.rxAt = 0) :
    ∀ f ∈ [ctlFlit 1 127 7, ctlFlit 2 127 7, ctlFlit 1 5 7, ctlFlit 3 6 4, ctlFlit 0x10 0xFFFFFFFF 32, ctlFlit 0x11 0xFFFFFFFF 32,
      dataFlitOf 0x1234 127, dataFlitOf 0x1234 0, 0x12347F6030F8], (q.takeFlit k (carried f)).1 = f := by
  intro f hf
  simp only [List.mem_cons, List.not_mem_nil, or_false] at hf
  rcases hf with rfl | rfl | rfl | rfl | rfl | rfl | rfl | rfl | rfl <;> exact brought _ (by decide +kernel) q k hl hx h0

/-- The CRC of the last of them is wrong. -/
theorem witness_bad_crc : (0x12347F6030F8#256).extractLsb' 0 24 ≠ flitCrc 0x12347F6030F8 := by decide +kernel

/-- Witness of DataFlitsAreAcceptedInOrderOrAskedForAgain: the last sequence number with its CRC; a wrong number; a first
and a second one. -/
theorem witness_data_flits :
    let p := { up0 with expectSeq := 127 }
    ((linked p 0).ports.map (·.num) == [1, 2] && (linked p 0).port? 2 == some p && p.free 3 == 8192 && !p.nakSent && (linked p 0).flitCount p - p.rxAt == 0) = true ∧
    (dataFlitOf 0x1234 127).extractLsb' 0 24 = flitCrc (dataFlitOf 0x1234 127) ∧ ((dataFlitOf 0x1234 127).extractLsb' 24 7).toNat = 127 ∧ (dataFlitOf 0x1234 127).getLsbD 31 = false ∧
    ((dataFlitOf 0x1234 0).extractLsb' 24 7).toNat ≠ 127 ∧ (dataFlitOf 0x1234 0).getLsbD 31 = false := by
  refine ⟨by decide +kernel, mkFlit_crc _ _ _, ?_, ?_, ?_, ?_⟩ <;> rw [dataFlitOf]
  · rw [mkFlit_extract _ _ _ _ _ (by omega)]; decide +kernel
  · rw [mkFlit_getLsbD _ _ _ _ (by omega)]; decide +kernel
  · rw [mkFlit_extract _ _ _ _ _ (by omega)]; decide +kernel
  · rw [mkFlit_getLsbD _ _ _ _ (by omega)]; decide +kernel

/-- Three flits not acknowledged, the second sent again n times before. -/
def unacked (n : Nat) : List Unacked := [⟨0x17E000000, 0, 9, none, 0⟩, ⟨0x27F000000, 0, 9, none, n⟩, ⟨0x300000000, 0, 9, none, 0⟩]

/-- Witness of ReplayAndFlowFollowTheControlWords: the second flit acknowledged, and asked for again a fifteenth time and a
sixteenth; a number of none. -/
theorem witness_replay :
    (let p (n : Nat) : LinkPort := { up0 with replay := unacked n }
     (linked (p 0) 0).port? 2 == some (p 0) && (unacked 0).map (·.seq) == [126, 127, 0] && ((p 0).acked 127).replay == (unacked 0).drop 2 && ((p 0).acked 5).replay == unacked 0 &&
     ((p 14).naked 0 0 127).state == .up && ((p 14).naked 0 0 127).sent == ((unacked 0).drop 1).map (·.flit) && ((p 14).naked 0 0 127).replay.map (·.replays) == [0, 15, 1] &&
     ((p 15).naked 0 0 127).state == .retraining) = true := by decide +kernel

/-- Witness of ReplayAndFlowFollowTheControlWords: FLOW again at 1,024 and at 64 flit times, and before. -/
theorem witness_flow_refresh :
    (let p := { up0 with lastFlow := 3, scrAt := 1020 }
     let off := { p with nearOff := [2], scrAt := 60 }
     (linked p 309).flitCount p == 1027 && (linked p 308).flitCount p == 1023 && (linked off 21).flitCount off == 69 &&
     port2 (exec (.flowRefresh 2) (linked p 309)) (fun q => q.lastFlow == 1027 && q.sent.length == 1) &&
     port2 (exec (.flowRefresh 2) (linked p 308)) (fun q => q.lastFlow == 3) && port2 (exec (.flowRefresh 2) (linked off 21)) (fun q => q.lastFlow == 69)) = true := by decide +kernel

/-- Witness of PacketsArriveOnceAndPostingsInSequence: a class 3 packet that two early ones wait for, an old one, one twice;
any order in class 0; a message for package 9, whose second port is up. -/
theorem witness_packets :
    (let m (n : Nat) : OutMsg := .planDrop 9 n
     let e : EndToEnd := { hub := 9, cls := 3, next := 0, expect := 5, early := [(8, m 8), (6, m 6)] }
     let free := { e with cls := 0, early := [] }
     let o : OutItem := ⟨none, m 3⟩
     let s := { linked up0 0 with routes := [(9, [1, 2])], outbox := [o] }
     e.arrive 5 (m 5) == ([m 5, m 6], { e with expect := 7, early := [(8, m 8)] }) && e.arrive 4 (m 4) == ([], e) && e.arrive 6 (m 6) == ([], e) &&
     free.arrive 7 (m 7) == ([m 7], { free with early := [(7, m 7)] }) && s.outbox.find? (fun o => (s.portFor o.part o.msg.dst).isSome) == some o &&
     s.packMessage.map (fun t => ((t.pair 9 3).next, t.departed, t.outbox)) == some (1, [m 3], []) && s.portFor none 9 == some up0) = true := by decide +kernel

/-- Witness of ProbesMeasureTheRoundTrip: the second PROBE, none after the fourth; an ECHO awaited, at a flit time that the
lanes bring; a port that has failed. -/
theorem witness_probes :
    (let m := { up0 with state := .training, phase := 4, probesSent := 1, lastProbe := 0, scrAt := 1020, rxAt := 1027 }
     (linked m 309).flitCount m - m.rxAt == 0 && port2 (exec (.echo 2 []) (linked { up0 with state := .failed } 0)) (fun q => q == { up0 with state := .failed }) &&
     m.echoes.length < m.probesSent && (linked m 309).port? 2 == some m && (linked up0 0).port? 2 == some up0 && (BitVec.ofNat 32 ((linked m 309).flitCount m) - 0xFFFFFFFF).toNat * 32 == 1028 * 32 &&
     port2 (exec (.probeInterval 2) (linked m 309)) (fun q => q.probesSent == 2 && q.lastProbe == 1024 && q.sent.length == 1) &&
     port2 (exec (.probeInterval 2) (linked { m with probesSent := 4 } 309)) (fun q => q.sent == [])) = true := by decide +kernel

/-- A generator at zero gives only zeros. -/
theorem scrStep_zero : scrStep 0 = (0, false) := by decide +kernel

theorem scrAfter_zero (n : Nat) : scrAfter n 0 = 0 := by
  induction n with
  | zero => rfl
  | succ n ih => rw [scrAfter, scrStep_zero, ih]

theorem scramble_zero (ds : List Bool) : scramble ds 0 = (ds, 0) := by
  induction ds with
  | nil => rfl
  | cons d ds ih => simp only [scramble, scrStep_zero, ih, Bool.xor_false]

theorem follows_zero (n : Nat) : follows (List.replicate n false) 0 = some 0 := by
  induction n with
  | zero => rfl
  | succ n ih => simp only [List.replicate_succ, follows, scrStep_zero, if_true, ih]

/-- Symbols carry the bits they were made of. -/
theorem lineBits_symbolsOf : ∀ (n : Nat) (bits : List Bool), bits.length = 2 * n →
    lineBits (symbolsOf bits) = bits ∧ (symbolsOf bits).length = n
  | 0, bits, h => by rw [List.length_eq_zero_iff.mp (by omega : bits.length = 0)]; exact ⟨rfl, rfl⟩
  | n + 1, [], h => by simp at h
  | n + 1, [a], h => by simp at h; omega
  | n + 1, a :: b :: rest, h => by
    have := lineBits_symbolsOf n rest (by simp at h; omega)
    refine ⟨?_, by simp [symbolsOf, this.2]⟩
    rw [symbolsOf, lineBits, List.flatMap_cons, show (symbolsOf rest).flatMap levelPair = rest from this.1]
    cases a <;> cases b <;> rfl

/-- Blocks sent one after another are received as such. -/
theorem blocksOf_replicate (b : BitVec 64) (h : blockOf (blockBits b) = b) (n : Nat) :
    blocksOf n (List.replicate n (blockBits b)).flatten = List.replicate n b := by
  have hl : (blockBits b).length = 64 := by simp [blockBits]
  induction n with
  | zero => rfl
  | succ n ih => rw [List.replicate_succ, List.flatten_cons, blocksOf, List.take_left' hl, List.drop_left' hl, ih, h]; rfl

/-- n training blocks of a lane of port 2 as symbols. -/
def trainRun (n lane : Nat) (ready : Bool) : List Level := symbolsOf (List.replicate n (blockBits (trainBlock lane 2 ready))).flatten

theorem laneData_trainRun (n m lane : Nat) (ready : Bool) (hm : m = 32 * n) (h : blockOf (blockBits (trainBlock lane 2 ready)) = trainBlock lane 2 ready) :
    (trainRun n lane ready).length = m ∧ (laneData (trainRun n lane ready) 0 m false 0).2 = 0 ∧
    blocksOf n (laneData (trainRun n lane ready) 0 m false 0).1 = List.replicate n (trainBlock lane 2 ready) := by
  subst hm
  have hl : (blockBits (trainBlock lane 2 ready)).length = 64 := by simp [blockBits]
  obtain ⟨h1, h2⟩ := lineBits_symbolsOf (32 * n) (List.replicate n (blockBits (trainBlock lane 2 ready))).flatten (by simp [hl]; omega)
  have ht : (trainRun n lane ready).take (32 * n) = trainRun n lane ready := List.take_of_length_le (Nat.le_of_eq h2)
  refine ⟨h2, ?_⟩
  simp only [laneData, List.drop_zero, ht, Bool.false_eq_true, if_false, scramble_zero, true_and]
  rw [show lineBits (trainRun n lane ready) = _ from h1]
  exact blocksOf_replicate _ h n

/-- Witness of PortsMoveByTheTrainingTable: a lane of zeros locks, and one with no symbols does not. -/
theorem witness_lock : lockLane (List.replicate 2064 .n3) = some 0 ∧ lockLane [] = none := by
  have h : lineBits (List.replicate 2064 .n3) = List.replicate 4128 false := by
    have : ∀ n, lineBits (List.replicate n .n3) = List.replicate (2 * n) false := by
      intro n
      induction n with
      | zero => rfl
      | succ n ih => rw [List.replicate_succ, lineBits, List.flatMap_cons]; rw [lineBits] at ih; rw [ih]; rfl
    exact this 2064
  refine ⟨?_, by decide +kernel⟩
  unfold lockLane lockBits
  rw [h, if_pos (by rw [List.length_replicate]; decide), List.drop_replicate, List.take_replicate, show loadScr (List.replicate (min 31 4128) false) = 0 by decide +kernel, follows_zero]

/-- Phase 2 at a lane whose first position holds the marker 16 times. -/
theorem alignLane_first (rx : List Level) (gap n : Nat) (x y z : BitVec 31) (hl : 512 ≤ rx.length) (hz : scrAfter (2 * gap) x = z)
    (hy : (laneData rx 0 512 false z).2 = y) (hs : sameLane (blocksOf 16 (laneData rx 0 512 false z).1) = some n) :
    alignLane rx gap x = some (⟨n, false, 0⟩, y) := by
  have hc : (List.range 65).flatMap (fun k => [(k, false), (k, true)]) = (0, false) :: (0, true) :: ((List.range 64).map (· + 1)).flatMap (fun k => [(k, false), (k, true)]) := by
    decide +kernel
  unfold alignLane
  rw [hc, List.findSome?_cons]
  simp only [List.drop_zero, Nat.add_zero, if_neg (Nat.not_lt.mpr hl), hz, hs, hy, Option.map_some]

/-- Phase 3 at a lane that brings 64 blocks of its number with READY. -/
theorem startLane_of (rx : List Level) (gap l : Nat) (x y z : BitVec 31) (hl : 2048 ≤ rx.length) (hz : scrAfter (2 * gap) x = z)
    (hy : (laneData rx 0 2048 false z).2 = y)
    (hs : sameLane (blocksOf 64 (laneData rx 0 2048 false z).1) = some l ∧ (blocksOf 64 (laneData rx 0 2048 false z).1).all (fun b => b.getLsbD 38) = true) :
    startLane ⟨l, false, 0⟩ rx gap x = some y := by
  unfold startLane
  simp only [List.drop_zero, if_neg (Nat.not_lt.mpr hl), hz, if_pos hs, hy]

/-- Witness of PortsMoveByTheTrainingTable: 16 blocks of each lane are found, and none among none. -/
theorem witness_align : (∀ l < 4, alignLane (trainRun 16 l false) 5 0 = some (⟨l, false, 0⟩, 0)) ∧ alignLane [] 5 0 = none := by
  refine ⟨fun l h => ?_, by decide +kernel⟩
  have hb : blockOf (blockBits (trainBlock l 2 false)) = trainBlock l 2 false ∧ sameLane (List.replicate 16 (trainBlock l 2 false)) = some l := by
    revert l; decide +kernel
  obtain ⟨h1, h2, h3⟩ := laneData_trainRun 16 512 l false rfl hb.1
  exact alignLane_first _ _ _ _ _ _ (Nat.le_of_eq h1.symm) (scrAfter_zero _) h2 (by rw [h3, hb.2])

/-- Witness of PortsMoveByTheTrainingTable: 64 blocks of each lane with READY, and none. -/
theorem witness_start : (∀ l < 4, startLane ⟨l, false, 0⟩ (trainRun 64 l true) 5 0 = some 0) ∧ startLane ⟨0, false, 0⟩ [] 5 0 = none := by
  refine ⟨fun l h => ?_, by decide +kernel⟩
  have hb : blockOf (blockBits (trainBlock l 2 true)) = trainBlock l 2 true ∧ sameLane (List.replicate 64 (trainBlock l 2 true)) = some l ∧
      (List.replicate 64 (trainBlock l 2 true)).all (fun b => b.getLsbD 38) = true := by
    revert l; decide +kernel
  obtain ⟨h1, h2, h3⟩ := laneData_trainRun 64 2048 l true rfl hb.1
  exact startLane_of _ _ _ _ _ _ (Nat.le_of_eq h1.symm) (scrAfter_zero _) h2
    ⟨(congrArg sameLane h3).trans hb.2.1, (congrArg (fun (b : List (BitVec 64)) => b.all (fun b => b.getLsbD 38)) h3).trans hb.2.2⟩

/-- Witness of PortsMoveByTheTrainingTable: enabling and disabling; the phases, which three lanes, empty ones or too early
an end do not pass. -/
theorem witness_ports :
    (let dn := LinkPort.reset 2
     let tr (ph : Nat) : LinkPort := { dn with state := .training, phase := ph, recvScr := [0, 0, 0, 0], ready := true, lanes := (List.range 4).map (fun l => ⟨l, false, 0⟩) }
     let same (i : Instr) (p : LinkPort) (cycle : Nat) : Bool := port2 (exec i (linked p cycle)) (fun q => q == p)
     port2 (exec (.portEnable 2) (linked dn 5)) (fun q => q.state == .training && q.phase == 1 && q.phaseSince == 5) && same (.portEnable 2) up0 5 &&
     port2 (exec (.portDisable 2) (linked { dn with state := .failed } 5)) (fun q => q == dn) && same (.portDisable 2) up0 5 &&
     same (.lockPhaseEnd 2 [[], [], []]) (tr 1) 5 && same (.lockPhaseEnd 2 [[], [], [], []]) (tr 1) 5 && same (.alignPhaseEnd 2 ⟨5, [[], [], [], []]⟩) (tr 2) 5 &&
     same (.startPhaseEnd ⟨2, 5, [[], [], [], []]⟩) (tr 3) 20 && same (.startPhaseEnd ⟨2, 5, []⟩) { tr 3 with blocks := 60 } 1 &&
     (linked (tr 3) 1).flitCount (tr 3) == 3 && (tr 3).scrAt == 0) = true := by decide +kernel

/-- Witness of PortsMoveByTheTrainingTable: the blocks that a port in training sends one after another. -/
theorem witness_training_blocks :
    (let tr (ph : Nat) : LinkPort := { LinkPort.reset 2 with state := .training, phase := ph, blocks := 60 }
     let sent (ph : Nat) : Option (Nat × Nat × List Nat) := ((linked (tr ph) 1).idlePorts.port? 2).map (fun q => (q.blocks, q.sent.length, q.line.map (·.length)))
     [1, 2, 3].all (fun ph => sent ph == some (63, 0, [32, 32, 32, 32]))) = true := by decide +kernel

/-- Witness of PortsMoveByTheTrainingTable: round trips of 1,300 ns and more, timeouts, lost locks. -/
theorem witness_port_ends :
    (let dn := LinkPort.reset 2
     let m (st : PortState) (rt : Nat) : LinkPort := { dn with state := st, phase := 4, echoes := [1, rt, 2, 3], replay := unacked 7, recvScr := [1, 2, 3, 4] }
     port2 (exec (.measurePhaseEnd 2) (linked (m .training 130000) 0)) (fun q => q.state == .up && q.roundTrip == 130000) &&
     port2 (exec (.measurePhaseEnd 2) (linked (m .training 130001) 0)) (fun q => q.state == .failed && q.tooLong) &&
     port2 (exec (.measurePhaseEnd 2) (linked (m .retraining 130001) 0)) (fun q => q.state == .up && q.sent == (unacked 0).map (·.flit)) &&
     port2 (exec (.trainingPhaseTimeout 2) (linked { m .training 0 with failures := 1 } 940000)) (fun q => q.state == .training && q.failures == 2 && q.phase == 1) &&
     port2 (exec (.trainingPhaseTimeout 2) (linked { m .retraining 0 with failures := 1 } 940000)) (fun q => q.state == .retraining && q.failures == 2 && q.phase == 2) &&
     ends (exec (.trainingPhaseTimeout 2) (linked { m .training 0 with failures := 2 } 940000)) (fun t => (t.port? 2).map (·.state) == some .failed && t.linkQueue.map (·.body) == [1, 2, 3]) &&
     port2 (exec (.lockLoss 2) (linked { up0 with replay := unacked 7 } 0)) (fun q => q.state == .retraining && q.phase == 1 && q.recvScr == [] && q.replay == unacked 7) &&
     port2 (exec (.lockLoss 2) (linked (m .training 0) 0)) (fun q => q.state == .training && q.phase == 1 && q.failures == 0) &&
     port2 (exec (.lockLoss 2) (linked dn 0)) (fun q => q == dn) && port2 (exec (.trainingPhaseTimeout 2) (linked dn 940000)) (fun q => q == dn)) = true := by decide +kernel

/-- Witness of FlitsSurviveTheLineAndSingleErrorsAreSeen: a port after reset sends to one whose lanes are crossed. -/
theorem witness_crossing (f : BitVec 256) : (LinkPort.reset 2).sendScr.length = 4 ∧ up0.lanes.length = 4 ∧ up0.recvScr.length = 4 ∧
    (∀ l < 4, ∃ t ∈ up0.lanes, t.number = l) ∧
    ∀ (i : Nat) t x y, up0.lanes[i]? = some t → up0.recvScr[i]? = some x → (LinkPort.reset 2).sendScr[t.number]? = some y →
      scrAfter (64 * (0 - up0.rxAt)) x = scrAfter (64 * (0 - (LinkPort.reset 2).scrAt)) y ∧
      ∃ before ls after, (carried f)[i]? = some (before ++ ls ++ after) ∧ before.length = t.skew ∧
        ((LinkPort.reset 2).putLine 0 (laneBits f)).line[t.number]? = some (if t.inverted then ls.map negLevel else ls) := by
  refine ⟨rfl, rfl, rfl, by decide +kernel, fun i t x y ht hx hy => ?_⟩
  have hn : ∀ ls : List Level, (ls.map negLevel).map negLevel = ls := fun ls => by
    rw [List.map_map]
    exact (List.map_congr_left (fun a _ => by cases a <;> rfl)).trans (List.map_id ls)
  have hi : i < 4 := (List.getElem?_eq_some_iff.mp ht).1
  have line : ∀ l < 4, ((LinkPort.reset 2).putLine 0 (laneBits f)).line[l]? = some (nth [] ((LinkPort.reset 2).putLine 0 (laneBits f)).line l) := by
    intro l hl
    have hq : ((LinkPort.reset 2).putLine 0 (laneBits f)).line.length = 4 := by simp [LinkPort.putLine, LinkPort.reset]
    rw [nth, List.getElem?_eq_getElem (by omega), Option.getD_some]
  unfold carried
  generalize ((LinkPort.reset 2).putLine 0 (laneBits f)).line = ls at *
  obtain rfl | rfl | rfl | rfl : i = 0 ∨ i = 1 ∨ i = 2 ∨ i = 3 := by omega
  all_goals
    obtain rfl := Option.some.inj ht.symm
    obtain rfl := Option.some.inj hx.symm
    obtain rfl := Option.some.inj hy.symm
    refine ⟨rfl, _, _, [], congrArg some (List.append_nil _).symm, List.length_replicate .., ?_⟩
    rw [line _ (by decide)]
    simp [hn]

/-- Witness of FlitsSurviveTheLineAndSingleErrorsAreSeen: a flit with its CRC. -/
theorem witness_crc : (dataFlitOf 0xDEADBEEF 9).extractLsb' 0 24 = flitCrc (dataFlitOf 0xDEADBEEF 9) := mkFlit_crc _ _ _

/-! ## Platform -/

/-- An image whose key is the fused one. -/
def image1 : FwImage := { body := [1], sig := [2], keyHash := 0, version := 3, parts := [], pkgId := 0, routes := [], cables := [], cap := 1800, domain := 0, domains := [], domainHub := 0, rootHub := 0 }

/-- Boot states. -/
def booting (stage rollback : Nat) (recovery : Bool) : State :=
  { State.reset with boot := { State.reset.boot with stage := stage, recovery := recovery, flash := some image1, rollback := rollback } }

/-- Witness of ResetBootAndRecoveryFollowTheirStages: the stages and the counter; what the signature check answers is a
value of Config. -/
theorem witness_boot :
    (let run := { booting 7 3 false with boot := { (booting 7 3 false).boot with running := some image1 } }
     image1.keyHash == (booting 1 0 true).boot.vendorKey && (booting 1 3 true).boot.rollback ≤ image1.version && (booting 1 0 true).boot.recovery &&
     (booting 1 0 false).boot.selfTestOk && (booting 1 0 false).bootStep.boot.stage == 2 && (booting 3 3 false).bootStep.boot.stage == 4 && (booting 3 4 false).bootStep.boot.recovery &&
     (booting 1 0 true).bootStep.boot.stage == 1 &&
     ends (exec (.rollbackAdvance 4) run) (fun t => t.boot.rollback == 4) && ends (exec (.rollbackAdvance 3) run) (fun t => t.boot.rollback == 3) &&
     ends (exec (.rollbackAdvance 4) (booting 7 3 false)) (fun t => t.boot.rollback == 3) && ends (exec (.recoveryImage image1) (booting 2 0 false)) (fun t => t.boot.stage == 2) &&
     ends (exec (.recoveryImage image1) { booting 2 0 true with frozen := true }) (fun t => t.boot.hostRetries == 1 && t.boot.recovery) &&
     (let empty (n : Nat) : State := { booting n 0 false with boot := { (booting n 0 false).boot with flash := none } }
      let dead := { booting 1 0 false with boot := { (booting 1 0 false).boot with selfTestOk := false } }
      [empty 1, empty 2, empty 3, dead].all (fun s => s.bootStep.boot.recovery && s.bootStep.boot.stage == s.boot.stage)) &&
     (let at' (n : Nat) (ok : Bool) : State := bytesAt (localKey 3 0) [7] { booting n 0 false with boot := { (booting n 0 false).boot with running := some image1, trainOk := ok, toFlash := true } }
      (at' 4 false).bootStep.boot.halted.isSome && (at' 4 false).bootStep.mem == (at' 4 false).mem && (at' 4 true).bootStep.boot.stage == 5 && (at' 4 true).bootStep.mem == [] &&
      Memory.wf (at' 4 true).mem && (at' 5 true).bootStep.boot.stage == 6 && (at' 5 true).parts == [] && (at' 6 true).bootStep.boot.stage == 7) &&
     (let p : PartPolicy := ⟨[0], [], [], [], [], [0], [0], [], [1, 2], [3], [(0x1000, [1, 2])], 0x8000, 0x900000000000⟩
      let s := { booting 6 0 false with parts := [{ part0 with supBooted := false }] }
      (s.part? 1).map (·.supBooted) == some false && (s.bootSup 1 p 1).parts == s.parts) &&
     ends (exec .packageReset run) (fun t => t.boot.stage == 1 && t.boot.rollback == 3 && t.boot.running == none)) = true := by decide +kernel

/-- An image is good, or is not, as its signature is. -/
theorem witness_signatures : (Config.mlDsaVerify image1.keyHash (Config.sha3 image1.body) image1.sig = true ∧ (booting 2 0 false).bootStep.boot.stage = 3) ∨
    (Config.mlDsaVerify image1.keyHash (Config.sha3 image1.body) image1.sig = false ∧ (booting 2 0 false).bootStep.boot.recovery = true) := by
  have h : (booting 2 0 false).bootStep = if (booting 2 0 false).signed image1.body image1.sig image1.keyHash then { booting 2 0 false with boot := { (booting 2 0 false).boot with stage := 3 } } else { booting 2 0 false with boot := { (booting 2 0 false).boot with recovery := true, running := none } } := rfl
  have k : (booting 2 0 false).signed image1.body image1.sig image1.keyHash = Config.mlDsaVerify image1.keyHash (Config.sha3 image1.body) image1.sig := rfl
  rw [h, k]
  cases Config.mlDsaVerify image1.keyHash (Config.sha3 image1.body) image1.sig
  · exact Or.inr ⟨rfl, rfl⟩
  · exact Or.inl ⟨rfl, rfl⟩

/-- Witness of FreezeAndResumeChangeNothingButTheLinks. -/
theorem witness_freeze :
    (let s := linked up0 0
     let f := { s with frozen := true, debugEnable := true, channels := [chan 5] }
     let hot := { f with power := { f.power with frozeHot := true } }
     ends (exec .freeze s) (fun t => t.frozen && (t.port? 2).map (fun q => q.sent.length) == some 1 && (t.port? 1).map (·.sent) == some []) &&
     ends (exec .freeze f) (fun t => t.ports == f.ports) && ends (exec .resume s) (fun t => t.ports == s.ports) &&
     ends (exec .resume f) (fun t => !t.frozen && (t.port? 2).map (fun q => q.sent.length) == some 1) &&
     ends (exec (.scanChainAccess (.read (.mem 5))) s) (fun t => t.mem == s.mem) && Memory.wf f.mem && (s.scanRead (.gpr 0 8)).isSome && (f.channel? 5).isSome &&
     ends (exec .resume hot) (fun t => t.power.toldHot == 1 && !t.power.frozeHot) &&
     ends (exec (.scanChainAccess (.write (.mem 5) 9)) s) (fun t => t.mem == s.mem) && ends (exec (.scanChainAccess (.write (.mem 5) 9)) f) (fun t => Memory.read 5 t.mem == 9) &&
     ends (exec (.scanChainAccess (.write (.gpr 0 31) 9)) f) (fun t => t.me.gpr 31 == 9) && ends (exec (.scanChainAccess (.write (.channel 5 1) 9)) f) (fun t => (t.channel? 5).map (·.count) == some 9)) = true := by decide +kernel

/-- Witness of PowerAndHeatThrottleOrFreeze: at and past each threshold. -/
theorem witness_power :
    (let s := house
     let hot := { s with power := { s.power with throttle := 15 } }
     s.power.cap == 1800 && s.power.celsius.length == 5 &&
     ends (exec (.powerCapExceeded 1801) s) (fun t => t.power.throttle == 1 && t.power.watts == 1801) && ends (exec (.powerCapExceeded 1801) hot) (fun t => t.power.throttle == 15) &&
     ends (exec (.powerCapExceeded 1800) s) (fun t => t.power.throttle == 0) &&
     ends (exec (.junctionThrottle 4 105) s) (fun t => t.power.throttle == 1 && t.power.celsius[4]? == some 105) && ends (exec (.junctionThrottle 4 104) s) (fun t => t.power.throttle == 0) &&
     ends (exec (.junctionFreeze 4 115) s) (fun t => t.frozen && t.power.frozeHot) && ends (exec (.junctionFreeze 4 114) s) (fun t => !t.frozen) &&
     ends (exec (.throttleEnd 1800 [104, 0, 0, 0, 0]) hot) (fun t => t.power.throttle == 0) && ends (exec (.throttleEnd 1800 [105, 0, 0, 0, 0]) hot) (fun t => t.power.throttle == 15)) = true := by decide +kernel

/-! ## Well-formedness: each check refuses a term -/

/-- Scopes 6 and 7 (R135), sizes of SEXT and ZEXT (R233), RTAKE's destination (R275), VSRR's version (R90), ENQ's registers
and queues (R230, R278). -/
theorem test_wellformed_scalar :
    (!Instr.wellFormed (.sext 5 6 3) && !Instr.wellFormed (.zext 5 6 31) && !Instr.wellFormed (.ldaW 5 6 6) && !Instr.wellFormed (.ldaD 5 6 7) &&
     !Instr.wellFormed (.stlW 5 6 6) && !Instr.wellFormed (.stlD 5 6 7) && !Instr.wellFormed (.fence 6 1 1 1 1) && !Instr.wellFormed (.amoAdd 5 6 7 1 0 6) &&
     !Instr.wellFormed (.amoAnd 5 6 7 1 0 7) && !Instr.wellFormed (.amoOr 5 6 7 1 0 6) && !Instr.wellFormed (.amoXor 5 6 7 1 0 6) &&
     !Instr.wellFormed (.amoMin 5 6 7 1 0 6) && !Instr.wellFormed (.amoMax 5 6 7 1 0 6) && !Instr.wellFormed (.amoMinu 5 6 7 1 0 6) &&
     !Instr.wellFormed (.amoMaxu 5 6 7 1 0 6) && !Instr.wellFormed (.amoSwap 5 6 7 1 0 6) && !Instr.wellFormed (.amoCas 5 6 7 1 0 6) &&
     !Instr.wellFormed (.amoIncb 5 6 7 1 0 6) && !Instr.wellFormed (.amoAddt 5 6 7 1 0 6) && !Instr.wellFormed (.amoFadd 5 6 7 1 0 6) &&
     !Instr.wellFormed (.amoWaitw 5 6 7 1 0 6) && !Instr.wellFormed (.rtake 0 5) && !Instr.wellFormed (.rtake 31 5) && !Instr.wellFormed (.vsrr 5 3 2) &&
     !Instr.wellFormed (.enq 9 0) && !Instr.wellFormed (.enq 0 0) && !Instr.wellFormed (.enq 8 5) && !Instr.wellFormed (.enqm 9 5) &&
     !Instr.wellFormed (.qstat 5 9 0 5) && !Instr.wellFormed (.qstat 5 9 0 1) && !Instr.wellFormed (.qwait 5 9 7) && !Instr.wellFormed (.qwait 5 9 2)) = true := by decide +kernel

/-- VFSGN's abs (R285), register pairs and codes of VCVT (R297, R301), the aux field (R304, R308, R311), RSHRA's k (R328). -/
theorem test_wellformed_vector :
    (!Instr.wellFormed (.vfsgn 1 2 3 0 0 3) && !Instr.wellFormed (.vcvtE2m1F32 1 31 3 0 0 0) && !Instr.wellFormed (.vcvtF32E2m1 31 1 3 0 0 0) &&
     !Instr.wellFormed (.vcvtE8F32 1 31 4 0 0 0) && !Instr.wellFormed (.vcvtE8F32 1 2 3 0 0 0) && !Instr.wellFormed (.vcvtE4m3F32Bs 1 31 3 0 0 0) &&
     !Instr.wellFormed (.vcvtF32E4m3Bs 31 1 3 0 0 0) && !Instr.wellFormed (.vadd 1 2 3 0 2 3) && !Instr.wellFormed (.vsub 1 2 3 0 2 3) &&
     !Instr.wellFormed (.vmul 1 2 3 0 2 3) && !Instr.wellFormed (.vmulh 1 2 3 0 2 3) && !Instr.wellFormed (.vmin 1 2 3 0 2 3) &&
     !Instr.wellFormed (.vmax 1 2 3 0 2 3) && !Instr.wellFormed (.vminu 1 2 3 0 2 3) && !Instr.wellFormed (.vmaxu 1 2 3 0 2 3) &&
     !Instr.wellFormed (.vand 1 2 3 0 2 3) && !Instr.wellFormed (.vor 1 2 3 0 2 3) && !Instr.wellFormed (.vxor 1 2 3 0 2 3) &&
     !Instr.wellFormed (.vsll 1 2 3 0 2 3) && !Instr.wellFormed (.vsrl 1 2 3 0 2 3) && !Instr.wellFormed (.vsra 1 2 3 0 2 3) &&
     !Instr.wellFormed (.vsadd 1 2 3 0 2 3) && !Instr.wellFormed (.vssub 1 2 3 0 2 3) && !Instr.wellFormed (.vabsd 1 2 3 0 2 3) &&
     !Instr.wellFormed (.vcmpeq 1 2 3 0 2 3) && !Instr.wellFormed (.vcmplt 1 2 3 0 2 3) && !Instr.wellFormed (.vcmpltu 1 2 3 0 2 3) &&
     !Instr.wellFormed (.vbcast 1 2 0 2 3) && !Instr.wellFormed (.vext 5 2 3 2 0) && !Instr.wellFormed (.vins 1 5 3 0 2 3) &&
     !Instr.wellFormed (.vsldn 1 2 4 0 2 0) && !Instr.wellFormed (.vslup 1 2 4 0 2 3) && !Instr.wellFormed (.vredfsum 1 2 0 0 3) &&
     !Instr.wellFormed (.vsel 1 2 3 2 2 3) && !Instr.wellFormed (.pset 1 5 2 0) && !Instr.wellFormed (.rshra 4 5 0 0) && !Instr.wellFormed (.ushra 5 4 0 0)) = true := by decide +kernel

/-! ## Decoding, stepping, reset -/

/-- Witness of DecodeOfEncode, EncodeOfDecode and CommandWordsRoundTrip: an instruction and a command within their limits. -/
theorem witness_round_trips :
    (Instr.wellFormed (.amoWaitw 31 31 31 1 3 5) && encode (.amoWaitw 31 31 31 1 3 5) == some 0x3BFFFB7D && tcwOk 0 plain copy0 && (decodeTcw 0 (encodeTcw plain copy0)).isSome &&
     encode (.copyEngineService) == none && (match decode 0 with | .error _ => true | .ok _ => false)) = true := by decide +kernel

/-- Witness of StepRunsTheDecodedInstruction: a word that decodes, one that decodes to none, a pc that is no multiple of 4. -/
theorem witness_step :
    (let s := State.reset.withFetchWord 32 0x08A5FFFF
     let bad := State.reset.withFetchWord 32 0xFFFFFFFF
     let odd := s.updMe (fun c => { c with pc := 2 })
     let ready (s : State) : Bool := s.agenda == [] && !s.frozen && s.boot.halted == none && 7 ≤ s.boot.stage && !s.engineTurn && s.canRun && !s.asyncDue && !s.isFollower
     ready s && ready bad && ready odd && windowOf 0 == .paged && okWith (xlatM 0 .fetch s) (fun k u => k == stackedKey 0x20000 && !u.eccError k 4 && cachedBytes u.me.l1i k 4 == none) &&
     ends (step s) (fun t => t.me.gpr 5 == 0xFFFFFFFFFFFFFFFF && t.me.pc == 4 && t.me.user.instret == 1 && t.cycle == 1 && t.engineTurn) &&
     ends (step bad) (fun t => t.me.sup.scause == 0 && t.me.sup.sval == 0xFFFFFFFF && t.me.sup.sepc == 0) &&
     ends (step odd) (fun t => t.me.sup.scause == 2 && t.me.sup.sval == 2)) = true := by decide +kernel

/-- Witness of StepRunsTheDecodedInstruction and OnlyAHaltedBootStopsTheMachine: the agenda first; a frozen package; a halt. -/
theorem witness_agenda :
    (let s := { base with agenda := [(0, .junctionThrottle 0 105)] }
     let f := { base with frozen := true }
     ends (step s) (fun t => t.power.throttle == 1 && t.agenda == [] && t.cycle == 0 && t.me.id == 0) && ends (step f) (fun t => t.cycle == 0) &&
     (match step { base with boot := { base.boot with halted := some 4 } } with | .fault (.bootHalted n) => n == 4 | _ => false)) = true := by decide +kernel

/-- Witness of EveryStepKeepsMemoryCanonical: a store's step. -/
theorem witness_canonical :
    (let s := regs [(7, 0x55), (5, 0x90000003FFFF)] (State.reset.withFetchWord 32 0x30E50000)
     Memory.wf s.mem && ends (step s) (fun t => t.peek (localKey 0 0x3FFFF) 1 == 0x55 && t.me.pc == 4)) = true := by decide +kernel

/-- The words the host asks about: the table's first and last instruction. -/
theorem test_table_words :
    decodeTableWord 32 0x04A63800 = some (.add 5 6 7) ∧ decodeTableWord 32 0xA0E00380 = some (.kchk 7) ∧ decodeTableWord 32 0 = none := by decide +kernel

end Sys2Proof.Tests
end

section
/-!
SUPPORT and PROOFS. The reset state (O60).
-/
namespace Sys2Proof.Machine

open Sys2Proof

/-! ## Reset -/

/-- At reset a location outside the host tier reads zero (log 2). -/
theorem State.reset_read {a : Nat} (h : isHostKey a = false) : Memory.read a State.reset.mem = 0 := by
  simp [State.reset, Memory.read, Memory.unlisted, h]

/-- Every general register of a fresh core is zero. -/
@[simp] theorem Core.fresh_gpr (id n : Nat) : (Core.fresh id).gpr n = 0 := by
  simp only [Core.gpr, Core.fresh, Vector.getElem?_replicate]
  split
  · rfl
  · split <;> rfl

/-- Every vector register of a fresh core is zero. -/
@[simp] theorem Core.fresh_vr (id n : Nat) : (Core.fresh id).vr n = 0 := by
  simp only [Core.vr, Core.fresh, Vector.getElem?_replicate]
  split <;> rfl

/-- Every predicate register of a fresh core but p0 is zero. -/
theorem Core.fresh_pr (id : Nat) {n : Nat} (h : n ≠ 0) : (Core.fresh id).pr n = 0 := by
  simp only [Core.pr, if_neg h, Core.fresh, Vector.getElem?_replicate]
  split <;> rfl

/-- Every port of the package is down at reset (R161). -/
theorem State.reset_ports_down : ∀ p ∈ State.reset.ports, p.state = .down := by
  intro p hp
  obtain ⟨n, -, rfl⟩ := List.mem_map.1 hp
  rfl

/-- Every event counter is zero at reset (R31). -/
theorem UserRegs.reset_evcnt : ∀ x ∈ UserRegs.reset.evcnt.toList, x = 0 := by
  simp [UserRegs.reset]

/-- Settles O60: the registers, the memory and the ports have their lemmas above, and every other clause is a field of
the reset state. -/
theorem resetHoldsTheStatedValues : Obligations.ResetHoldsTheStatedValues :=
  ⟨State.reset_wf, fun _ h => State.reset_read h, rfl, rfl, rfl, Core.fresh_gpr 0, Core.fresh_vr 0, fun _ h => Core.fresh_pr 0 h,
    Core.pr_zero _, rfl, rfl, UserRegs.reset_evcnt, rfl, rfl, rfl, rfl, rfl, rfl, rfl, rfl, rfl, rfl, rfl, rfl, rfl, rfl, rfl, rfl,
    State.reset_ports_down⟩

end Sys2Proof.Machine
end

section
/-!
SUPPORT. The magnitudes of the codes of a format, and what the rounding of a magnitude to a code is (R17, R25).
-/
namespace Sys2Proof.Numbers

open Sys2Proof Sys2Proof.Machine Sys2Proof.Claims

/-! ## The codes of a format as a rising sequence of magnitudes (R17) -/

/-- Every format has a fraction bit. -/
theorem fbits_pos (f : Fmt) : 0 < f.fbits := by cases f <;> decide

/-- The magnitude of step q of binade j: the codes of a binade step by one unit in the last place (R17). -/
theorem codeVal_grid (f : Fmt) {j q : ℕ} (hlo : 2 ^ f.fbits ≤ q ∨ j = 0) (hhi : q ≤ 2 ^ (f.fbits + 1)) :
    codeVal f (j * 2 ^ f.fbits + q) = q * (2 : ℚ) ^ (f.emin - f.fbits + j) := by
  have hP : 0 < 2 ^ f.fbits := Nat.two_pow_pos _
  rw [pow_succ] at hhi
  unfold codeVal
  rcases lt_or_ge q (2 ^ f.fbits) with hq | hq
  · obtain rfl : j = 0 := by omega
    simp [hq]
  · have hc : ¬ j * 2 ^ f.fbits + q < 2 ^ f.fbits := by omega
    rw [if_neg hc]
    obtain ⟨r, rfl⟩ := Nat.exists_eq_add_of_le hq
    have hsplit : j * 2 ^ f.fbits + (2 ^ f.fbits + r) = r + 2 ^ f.fbits * (j + 1) := by ring
    rw [hsplit, Nat.add_mul_mod_self_left, Nat.add_mul_div_left _ _ hP]
    rcases lt_or_ge r (2 ^ f.fbits) with hr | hr
    · rw [Nat.mod_eq_of_lt hr, Nat.div_eq_of_lt hr]
      congr 2
      push_cast [Fmt.emin]
      ring
    · obtain rfl : r = 2 ^ f.fbits := by omega
      have h2 : ((0 + (j + 1) + 1 : ℕ) : ℤ) - f.bias - f.fbits = (f.emin - f.fbits + j) + 1 := by
        push_cast [Fmt.emin]
        ring
      rw [Nat.mod_self, Nat.div_self hP, add_comm 1 (j + 1), ← zero_add (j + 1), h2, zpow_add_one₀ two_ne_zero]
      push_cast
      ring

/-- Every code is a step of a binade. -/
theorem code_split (f : Fmt) (c : ℕ) :
    ∃ j q, c = j * 2 ^ f.fbits + q ∧ (2 ^ f.fbits ≤ q ∨ j = 0) ∧ q < 2 ^ (f.fbits + 1) := by
  have hP : 0 < 2 ^ f.fbits := Nat.two_pow_pos _
  rw [pow_succ]
  rcases lt_or_ge c (2 ^ f.fbits) with hc | hc
  · exact ⟨0, c, by omega, .inr rfl, by omega⟩
  · have hd : 1 ≤ c / 2 ^ f.fbits := (Nat.one_le_div_iff hP).2 hc
    have hm := Nat.mod_lt c hP
    have hdm := Nat.div_add_mod' c (2 ^ f.fbits)
    obtain ⟨j, hj⟩ := Nat.exists_eq_add_of_le hd
    refine ⟨j, 2 ^ f.fbits + c % 2 ^ f.fbits, ?_, .inl (Nat.le_add_right _ _), by omega⟩
    rw [hj, add_mul] at hdm
    omega

/-- The magnitude of a code rises with the code. -/
theorem codeVal_strictMono (f : Fmt) : StrictMono (fun c => (codeVal f c : ℝ)) := by
  refine strictMono_nat_of_lt_succ fun c => ?_
  obtain ⟨j, q, rfl, hlo, hhi⟩ := code_split f c
  have hlt : codeVal f (j * 2 ^ f.fbits + q) < codeVal f (j * 2 ^ f.fbits + (q + 1)) := by
    rw [codeVal_grid f hlo hhi.le, codeVal_grid f (hlo.imp_left Nat.le_succ_of_le) hhi]
    have : (0 : ℚ) < 2 ^ (f.emin - f.fbits + j) := by positivity
    push_cast
    linarith
  exact_mod_cast hlt

/-! ## The rounding of a magnitude to an integer (R25) -/

/-- A mode takes a magnitude that lies the fraction ρ above the integer t, and is no integer, to t + 1 (R25). -/
def RoundsUp (mode : Mode) (neg : Bool) (t : ℕ) (ρ : ℝ) : Prop :=
  match mode with
  | .rne => 1 / 2 < ρ ∨ (ρ = 1 / 2 ∧ t % 2 = 1)
  | .rmm => 1 / 2 ≤ ρ
  | .rdn => neg = true
  | .rup => neg = false
  | .rtz => False
  | .odd => t % 2 = 0

/-- Only the parity of the integer below counts. -/
theorem roundsUp_congr {mode : Mode} {neg : Bool} {t t' : ℕ} {ρ : ℝ} (h : t % 2 = t' % 2) :
    RoundsUp mode neg t ρ ↔ RoundsUp mode neg t' ρ := by
  cases mode <;> simp [RoundsUp, h]

open Classical in
/-- A magnitude rounded to an integer under a mode, for a value of the sign neg (R25). -/
noncomputable def roundNat (mode : Mode) (neg : Bool) (y : ℝ) : ℕ :=
  if (⌊y⌋₊ : ℝ) < y ∧ RoundsUp mode neg ⌊y⌋₊ (y - ⌊y⌋₊) then ⌊y⌋₊ + 1 else ⌊y⌋₊

/-- An integer rounds to itself. -/
@[simp] theorem roundNat_natCast (mode : Mode) (neg : Bool) (t : ℕ) : roundNat mode neg t = t := by
  simp [roundNat]

open Classical in
/-- The rounding of what lies strictly between two integers. -/
theorem roundNat_between {mode : Mode} {neg : Bool} {y : ℝ} {t : ℕ} (h1 : (t : ℝ) < y) (h2 : y < t + 1) :
    roundNat mode neg y = if RoundsUp mode neg t (y - t) then t + 1 else t := by
  have ht : ⌊y⌋₊ = t := (Nat.floor_eq_iff (le_trans t.cast_nonneg h1.le)).2 ⟨h1.le, h2⟩
  simp [roundNat, ht, h1]

/-- What lies between two integers rounds to one of them. -/
theorem roundNat_mem {mode : Mode} {neg : Bool} {y : ℝ} {t : ℕ} (h1 : (t : ℝ) ≤ y) (h2 : y < t + 1) :
    t ≤ roundNat mode neg y ∧ roundNat mode neg y ≤ t + 1 := by
  rcases h1.eq_or_lt with rfl | h1
  · simp
  · rw [roundNat_between h1 h2]
    split <;> omega

/-- A rounding is the value itself exactly when that is an integer. -/
theorem roundNat_ne {mode : Mode} {neg : Bool} {y : ℝ} {t : ℕ} (h1 : (t : ℝ) < y) (h2 : y < t + 1) :
    (roundNat mode neg y : ℝ) ≠ y := by
  rw [roundNat_between h1 h2]
  split
  · push_cast; exact h2.ne'
  · exact h1.ne

/-! ## The rounding of a magnitude to a code -/

section
variable {f : Fmt} {mode : Mode} {neg : Bool} {x : ℝ}

/-- A code at or below the greatest one not above x is at least as far from x, and a lower one is farther. -/
theorem dist_of_le {c d : ℕ} (hc : (codeVal f c : ℝ) ≤ x) (hd : d ≤ c) :
    x - codeVal f c ≤ |(codeVal f d : ℝ) - x| ∧ (d ≠ c → x - codeVal f c < |(codeVal f d : ℝ) - x|) := by
  have hle : (codeVal f d : ℝ) ≤ codeVal f c := (codeVal_strictMono f).monotone hd
  rw [abs_of_nonpos (by linarith)]
  refine ⟨by linarith, fun hne => ?_⟩
  have hlt : (codeVal f d : ℝ) < codeVal f c := codeVal_strictMono f (lt_of_le_of_ne hd hne)
  linarith

/-- A code at or above the least one above x is at least as far from x, and a higher one is farther. -/
theorem dist_of_ge {c d : ℕ} (hc : x ≤ codeVal f c) (hd : c ≤ d) :
    codeVal f c - x ≤ |(codeVal f d : ℝ) - x| ∧ (d ≠ c → codeVal f c - x < |(codeVal f d : ℝ) - x|) := by
  have hle : (codeVal f c : ℝ) ≤ codeVal f d := (codeVal_strictMono f).monotone hd
  rw [abs_of_nonneg (by linarith)]
  refine ⟨by linarith, fun hne => ?_⟩
  have hlt : (codeVal f c : ℝ) < codeVal f d := codeVal_strictMono f (lt_of_le_of_ne hd (Ne.symm hne))
  linarith

/-- A magnitude that a code stands for rounds to that code. -/
theorem roundsTo_exact (f : Fmt) (mode : Mode) (neg : Bool) (c : ℕ) : RoundsTo f mode neg (codeVal f c) c := by
  have hsucc : (codeVal f c : ℝ) < codeVal f (c + 1) := codeVal_strictMono f (Nat.lt_succ_self c)
  have hpred : 0 < c → (codeVal f (c - 1) : ℝ) < codeVal f c := fun h => codeVal_strictMono f (by omega)
  have htie : ∀ d, ¬ (d ≠ c ∧ |(codeVal f c : ℝ) - codeVal f c| = |(codeVal f d : ℝ) - codeVal f c|) := by
    rintro d ⟨hne, h⟩
    rw [sub_self, abs_zero, eq_comm, abs_eq_zero, sub_eq_zero] at h
    exact hne ((codeVal_strictMono f).injective h)
  cases mode with
  | rtz => exact ⟨le_rfl, hsucc⟩
  | rdn => cases neg <;> [exact ⟨le_rfl, hsucc⟩; exact ⟨le_rfl, hpred⟩]
  | rup => cases neg <;> [exact ⟨le_rfl, hpred⟩; exact ⟨le_rfl, hsucc⟩]
  | rne => exact ⟨fun d => by simp, fun d h => absurd h (htie d)⟩
  | rmm => exact ⟨fun d => by simp, fun d h => absurd h (htie d)⟩
  | odd => exact ⟨c, ⟨le_rfl, hsucc⟩, (if_pos rfl).symm⟩

/-- x lies the fraction ρ of a gap of width u above code c, strictly within the gap. -/
structure InGap (f : Fmt) (c : ℕ) (ρ u x : ℝ) : Prop where
  width : 0 < u
  next : (codeVal f (c + 1) : ℝ) = codeVal f c + u
  place : x = codeVal f c + ρ * u
  above : 0 < ρ
  below : ρ < 1

namespace InGap
variable {c : ℕ} {ρ u : ℝ}

/-- The code below is less. -/
theorem lo (h : InGap f c ρ u x) : (codeVal f c : ℝ) < x := by
  linarith [h.place, mul_pos h.above h.width]

/-- The code above is greater. -/
theorem hi (h : InGap f c ρ u x) : x < codeVal f (c + 1) := by
  linarith [h.place, h.next, mul_pos (sub_pos.2 h.below) h.width]

/-- From the middle on the code above is nearest, and a tie is in the middle. -/
theorem nearest_above (h : InGap f c ρ u x) (hm : 1 / 2 ≤ ρ) :
    (∀ d, |(codeVal f (c + 1) : ℝ) - x| ≤ |(codeVal f d : ℝ) - x|) ∧
    ∀ d, (d ≠ c + 1 ∧ |(codeVal f (c + 1) : ℝ) - x| = |(codeVal f d : ℝ) - x|) → ρ = 1 / 2 := by
  have hd : |(codeVal f (c + 1) : ℝ) - x| = (1 - ρ) * u := by
    rw [abs_of_nonneg (by linarith [h.hi]), h.next, h.place]; ring
  have hu : (1 - ρ) * u ≤ ρ * u := mul_le_mul_of_nonneg_right (by linarith) h.width.le
  refine ⟨fun d => ?_, fun d ⟨hne, he⟩ => ?_⟩
  · rcases le_or_gt d c with hdc | hdc
    · linarith [(dist_of_le h.lo.le hdc).1, h.place]
    · linarith [(dist_of_ge h.hi.le hdc).1, h.place, h.next]
  · rcases le_or_gt d c with hdc | hdc
    · have : ρ * u ≤ (1 - ρ) * u := by linarith [(dist_of_le h.lo.le hdc).1, h.place]
      linarith [le_of_mul_le_mul_right this h.width]
    · linarith [(dist_of_ge h.hi.le hdc).2 hne, h.place, h.next]

/-- Up to the middle the code below is nearest, and a tie is in the middle. -/
theorem nearest_below (h : InGap f c ρ u x) (hm : ρ ≤ 1 / 2) :
    (∀ d, |(codeVal f c : ℝ) - x| ≤ |(codeVal f d : ℝ) - x|) ∧
    ∀ d, (d ≠ c ∧ |(codeVal f c : ℝ) - x| = |(codeVal f d : ℝ) - x|) → ρ = 1 / 2 := by
  have hd : |(codeVal f c : ℝ) - x| = ρ * u := by
    rw [abs_of_nonpos (by linarith [h.lo]), h.place]; ring
  have hu : ρ * u ≤ (1 - ρ) * u := mul_le_mul_of_nonneg_right (by linarith) h.width.le
  refine ⟨fun d => ?_, fun d ⟨hne, he⟩ => ?_⟩
  · rcases le_or_gt d c with hdc | hdc
    · linarith [(dist_of_le h.lo.le hdc).1, h.place]
    · linarith [(dist_of_ge h.hi.le hdc).1, h.place, h.next]
  · rcases le_or_gt d c with hdc | hdc
    · linarith [(dist_of_le h.lo.le hdc).2 hne, h.place]
    · have : (1 - ρ) * u ≤ ρ * u := by linarith [(dist_of_ge h.hi.le hdc).1, h.place, h.next]
      linarith [le_of_mul_le_mul_right this h.width]

/-- A magnitude that the mode takes up rounds to the code above. -/
theorem roundsTo_up (h : InGap f c ρ u x) (hup : RoundsUp mode neg c ρ) : RoundsTo f mode neg x (c + 1) := by
  have above : x ≤ codeVal f (c + 1) ∧ (0 < c + 1 → (codeVal f (c + 1 - 1) : ℝ) < x) := ⟨h.hi.le, fun _ => h.lo⟩
  cases mode with
  | rtz => exact hup.elim
  | rdn => cases hup; exact above
  | rup => cases hup; exact above
  | rne =>
    obtain ⟨hnear, htie⟩ := h.nearest_above (hup.elim le_of_lt fun h => h.1.ge)
    refine ⟨hnear, fun d hd => ?_⟩
    have hodd : c % 2 = 1 := hup.elim (fun h => absurd (htie d hd) h.ne') And.right
    omega
  | rmm => exact ⟨(h.nearest_above hup).1, fun _ _ => h.hi⟩
  | odd =>
    have hc : c % 2 = 0 := hup
    exact ⟨c, ⟨h.lo.le, h.hi⟩, by rw [if_neg h.lo.ne]; omega⟩

/-- A magnitude that the mode does not take up rounds to the code below. -/
theorem roundsTo_down (h : InGap f c ρ u x) (hup : ¬ RoundsUp mode neg c ρ) : RoundsTo f mode neg x c := by
  have below : (codeVal f c : ℝ) ≤ x ∧ x < codeVal f (c + 1) := ⟨h.lo.le, h.hi⟩
  cases mode with
  | rtz => exact below
  | rdn => cases neg <;> [exact below; exact absurd rfl hup]
  | rup => cases neg <;> [exact absurd rfl hup; exact below]
  | rne =>
    obtain ⟨hle, hodd⟩ := not_or.1 hup
    obtain ⟨hnear, htie⟩ := h.nearest_below (not_lt.1 hle)
    refine ⟨hnear, fun d hd => ?_⟩
    have : c % 2 ≠ 1 := fun hc => hodd ⟨htie d hd, hc⟩
    omega
  | rmm =>
    have hlt : ρ < 1 / 2 := not_le.1 hup
    obtain ⟨hnear, htie⟩ := h.nearest_below hlt.le
    exact ⟨hnear, fun d hd => absurd (htie d hd) hlt.ne⟩
  | odd =>
    have hc : c % 2 ≠ 0 := hup
    exact ⟨c, below, by rw [if_neg h.lo.ne]; omega⟩

end InGap

/-- Two codes to which a magnitude rounds are not one below the other. -/
theorem roundsTo_not_lt {c d : ℕ} (hc : RoundsTo f mode neg x c) (hd : RoundsTo f mode neg x d) : ¬ c < d := by
  intro hcd
  have hv : (codeVal f c : ℝ) < codeVal f d := codeVal_strictMono f hcd
  have hsucc : (codeVal f (c + 1) : ℝ) ≤ codeVal f d := (codeVal_strictMono f).monotone hcd
  have hpred : (codeVal f c : ℝ) ≤ codeVal f (d - 1) := (codeVal_strictMono f).monotone (by omega)
  have below_below : (x < codeVal f (c + 1)) → (codeVal f d : ℝ) ≤ x → False := fun h h' => by linarith
  have above_above : x ≤ codeVal f c → (0 < d → (codeVal f (d - 1) : ℝ) < x) → False := fun h h' => by
    linarith [h' (by omega)]
  -- two nearest codes lie on both sides of x, at one distance
  have sides : (∀ e, |(codeVal f c : ℝ) - x| ≤ |(codeVal f e : ℝ) - x|) → (∀ e, |(codeVal f d : ℝ) - x| ≤ |(codeVal f e : ℝ) - x|) →
      |(codeVal f c : ℝ) - x| = |(codeVal f d : ℝ) - x| ∧ x - codeVal f c = codeVal f d - x := fun h h' => by
    have he := le_antisymm (h d) (h' c)
    refine ⟨he, ?_⟩
    rcases abs_eq_abs.1 he with h1 | h1 <;> linarith
  cases mode with
  | rtz => exact below_below hc.2 hd.1
  | rdn => cases neg <;> [exact below_below hc.2 hd.1; exact above_above hc.1 hd.2]
  | rup => cases neg <;> [exact above_above hc.1 hd.2; exact below_below hc.2 hd.1]
  | rne =>
    obtain ⟨hnear, heven⟩ := hc
    obtain ⟨hnear', heven'⟩ := hd
    obtain ⟨he, hmid⟩ := sides hnear hnear'
    have h1 := heven d ⟨hcd.ne', he⟩
    have h2 := heven' c ⟨hcd.ne, he.symm⟩
    have hl : (codeVal f c : ℝ) < codeVal f (c + 1) := codeVal_strictMono f (Nat.lt_succ_self c)
    have hr : (codeVal f (c + 1) : ℝ) < codeVal f d := codeVal_strictMono f (by omega)
    have hc1 := hnear (c + 1)
    rw [abs_of_nonpos (by linarith : (codeVal f c : ℝ) - x ≤ 0)] at hc1
    rcases le_abs.1 hc1 with h | h <;> linarith
  | rmm =>
    obtain ⟨hnear, haway⟩ := hc
    obtain ⟨he, hmid⟩ := sides hnear hd.1
    linarith [haway d ⟨hcd.ne', he⟩]
  | odd =>
    obtain ⟨t, ht, hct⟩ := hc
    obtain ⟨t', ht', hdt⟩ := hd
    have : t = t' := by
      rcases lt_trichotomy t t' with h | h | h
      · exact absurd (((codeVal_strictMono f).monotone (Nat.succ_le_of_lt h)).trans ht'.1) (not_le.2 ht.2)
      · exact h
      · exact absurd (((codeVal_strictMono f).monotone (Nat.succ_le_of_lt h)).trans ht.1) (not_le.2 ht'.2)
    subst this
    exact hcd.ne (hct.trans hdt.symm)

/-- A magnitude rounds to one code only. -/
theorem roundsTo_unique {c d : ℕ} (hc : RoundsTo f mode neg x c) (hd : RoundsTo f mode neg x d) : c = d :=
  le_antisymm (not_lt.1 (roundsTo_not_lt hd hc)) (not_lt.1 (roundsTo_not_lt hc hd))

/-- y lies in binade j, counted in units in the last place of that binade. -/
structure InBinade (f : Fmt) (j : ℕ) (y : ℝ) : Prop where
  nonneg : 0 ≤ y
  low : (2 : ℝ) ^ f.fbits ≤ y ∨ j = 0
  high : y < 2 ^ (f.fbits + 1)

/-- The integer below a magnitude of a binade is a step of it. -/
theorem InBinade.floor_mem {j : ℕ} {y : ℝ} (h : InBinade f j y) :
    (2 ^ f.fbits ≤ ⌊y⌋₊ ∨ j = 0) ∧ ⌊y⌋₊ < 2 ^ (f.fbits + 1) :=
  ⟨h.low.imp_left fun hl => Nat.le_floor (by exact_mod_cast hl), (Nat.floor_lt h.nonneg).2 (by exact_mod_cast h.high)⟩

/-- The rounded magnitude of a binade is a step of it, or the first of the next. -/
theorem InBinade.roundNat_mem {j : ℕ} {y : ℝ} (h : InBinade f j y) (mode : Mode) (neg : Bool) :
    (2 ^ f.fbits ≤ roundNat mode neg y ∨ j = 0) ∧ roundNat mode neg y ≤ 2 ^ (f.fbits + 1) := by
  obtain ⟨h1, h2⟩ := Numbers.roundNat_mem (mode := mode) (neg := neg) (Nat.floor_le h.nonneg) (Nat.lt_floor_add_one y)
  obtain ⟨h3, h4⟩ := h.floor_mem
  exact ⟨h3.imp_left fun h3 => h3.trans h1, h2.trans h4⟩

/-- A magnitude of a binade rounds to the code of its rounded multiple of the unit in the last place. -/
theorem roundsTo_roundNat {j : ℕ} {y : ℝ} (h : InBinade f j y) :
    RoundsTo f mode neg (y * 2 ^ (f.emin - f.fbits + j)) (j * 2 ^ f.fbits + roundNat mode neg y) := by
  obtain ⟨hlo, hhi⟩ := h.floor_mem
  have hv : (codeVal f (j * 2 ^ f.fbits + ⌊y⌋₊) : ℝ) = ⌊y⌋₊ * 2 ^ (f.emin - f.fbits + j) := by
    rw [codeVal_grid f hlo hhi.le]; push_cast; rfl
  rcases (Nat.floor_le h.nonneg).eq_or_lt with he | hlt
  · have hx : y * 2 ^ (f.emin - f.fbits + j) = (codeVal f (j * 2 ^ f.fbits + ⌊y⌋₊) : ℝ) := by rw [hv, he]
    have hr : roundNat mode neg y = ⌊y⌋₊ := by rw [← he]; simp
    rw [hx, hr]
    exact roundsTo_exact f mode neg _
  · have hgap : (codeVal f (j * 2 ^ f.fbits + ⌊y⌋₊ + 1) : ℝ) = codeVal f (j * 2 ^ f.fbits + ⌊y⌋₊) + 2 ^ (f.emin - f.fbits + j) := by
      rw [hv, add_assoc, codeVal_grid f (hlo.imp_left Nat.le_succ_of_le) hhi]; push_cast; ring
    have hpar : (j * 2 ^ f.fbits + ⌊y⌋₊) % 2 = ⌊y⌋₊ % 2 := by
      obtain ⟨p, hp⟩ := Nat.exists_eq_succ_of_ne_zero (fbits_pos f).ne'
      rw [hp, pow_succ, ← mul_assoc]
      omega
    have hin : InGap f (j * 2 ^ f.fbits + ⌊y⌋₊) (y - ⌊y⌋₊) (2 ^ (f.emin - f.fbits + j)) (y * 2 ^ (f.emin - f.fbits + j)) :=
      ⟨by positivity, hgap, by rw [hv]; ring, by linarith, by linarith [Nat.lt_floor_add_one y]⟩
    rw [roundNat_between hlt (Nat.lt_floor_add_one y)]
    by_cases hup : RoundsUp mode neg ⌊y⌋₊ (y - ⌊y⌋₊)
    · rw [if_pos hup]
      exact hin.roundsTo_up ((roundsUp_congr hpar).2 hup)
    · rw [if_neg hup]
      exact hin.roundsTo_down (mt (roundsUp_congr hpar).1 hup)

end

end Sys2Proof.Numbers
end

section
/-!
SUPPORT. What the model's shiftRound does (R25).
-/
namespace Sys2Proof.Numbers

open Sys2Proof Sys2Proof.Machine Sys2Proof.Claims

/-! ## The model's rounding of a magnitude to an integer -/

/-- Without a shift to the right nothing is dropped. -/
theorem shiftRound_exact (mode : Mode) (neg : Bool) (m : ℕ) {sh : ℤ} (h : sh ≤ 0) :
    shiftRound mode neg m sh false = (m * 2 ^ (-sh).toNat, false) := by
  simp [shiftRound, h]

section
variable {r k : ℕ} {θ : ℝ}

/-- What is dropped, r and a fraction θ, is more than half of 2^(k+1) units. -/
theorem half_lt_dropped_iff (h0 : 0 ≤ θ) (h1 : θ < 1) :
    1 / 2 < ((r : ℝ) + θ) / 2 ^ (k + 1) ↔ 2 ^ k < r ∨ (r = 2 ^ k ∧ θ ≠ 0) := by
  have hd : (2 : ℝ) ^ (k + 1) = 2 * ((2 ^ k : ℕ) : ℝ) := by push_cast; ring
  rw [lt_div_iff₀ (by positivity), hd]
  constructor
  · intro h
    rcases lt_trichotomy r (2 ^ k) with hr | hr | hr
    · have : ((r + 1 : ℕ) : ℝ) ≤ (2 ^ k : ℕ) := by exact_mod_cast hr
      push_cast at this h
      linarith
    · refine .inr ⟨hr, fun ht => ?_⟩
      rw [hr, ht] at h
      linarith
    · exact .inl hr
  · rintro (h | ⟨rfl, h⟩)
    · have : ((2 ^ k : ℕ) : ℝ) < r := by exact_mod_cast h
      linarith
    · linarith [lt_of_le_of_ne h0 (Ne.symm h)]

/-- What is dropped is half of 2^(k+1) units. -/
theorem dropped_eq_half_iff (h0 : 0 ≤ θ) (h1 : θ < 1) :
    ((r : ℝ) + θ) / 2 ^ (k + 1) = 1 / 2 ↔ r = 2 ^ k ∧ θ = 0 := by
  have hd : (2 : ℝ) ^ (k + 1) = 2 * ((2 ^ k : ℕ) : ℝ) := by push_cast; ring
  rw [div_eq_iff (by positivity), hd]
  constructor
  · intro h
    have hle : (r : ℝ) ≤ (2 ^ k : ℕ) := by linarith
    have hlt : ((2 ^ k : ℕ) : ℝ) < (r + 1 : ℕ) := by push_cast at *; linarith
    obtain rfl : r = 2 ^ k := le_antisymm (by exact_mod_cast hle) (Nat.lt_succ_iff.1 (by exact_mod_cast hlt))
    exact ⟨rfl, by linarith⟩
  · rintro ⟨rfl, rfl⟩
    ring

/-- What is dropped is half of 2^(k+1) units or more. -/
theorem half_le_dropped_iff (h0 : 0 ≤ θ) (h1 : θ < 1) : 1 / 2 ≤ ((r : ℝ) + θ) / 2 ^ (k + 1) ↔ 2 ^ k ≤ r := by
  rw [le_iff_lt_or_eq, half_lt_dropped_iff h0 h1, eq_comm (a := (1 / 2 : ℝ)), dropped_eq_half_iff h0 h1, le_iff_lt_or_eq,
    eq_comm (a := 2 ^ k)]
  by_cases ht : θ = 0 <;> simp [ht]

end

open Classical in
/-- With a shift of s places and θ < 1 above m dropped with it, the rounding is up exactly as the mode says of what is
dropped. -/
theorem shiftRound_inexact {mode : Mode} {neg : Bool} {m s : ℕ} {sticky : Bool} {θ : ℝ} (hs : 1 ≤ s) (h0 : 0 ≤ θ)
    (h1 : θ < 1) (hθ : sticky = true ↔ θ ≠ 0) (hr : ¬ (m % 2 ^ s = 0 ∧ θ = 0)) :
    shiftRound mode neg m s sticky =
      (if RoundsUp mode neg (m / 2 ^ s) (((m % 2 ^ s : ℕ) + θ) / 2 ^ s) then m / 2 ^ s + 1 else m / 2 ^ s, true) := by
  obtain ⟨k, rfl⟩ := Nat.exists_eq_add_of_le' hs
  have hsh : ¬ ((k + 1 : ℕ) : ℤ) ≤ 0 := by omega
  have hr' : ¬ (m % 2 ^ (k + 1) = 0 ∧ (!sticky) = true) := by
    cases sticky <;> simp_all
  have hhalf : 2 ^ (k + 1) / 2 = 2 ^ k := by rw [pow_succ, Nat.mul_div_cancel _ two_pos]
  simp only [shiftRound, if_neg hsh, Int.toNat_natCast, if_neg hr', hhalf]
  congr 1
  refine ite_congr (propext ?_) (fun _ => rfl) (fun _ => rfl)
  cases mode with
  | rtz => simp [RoundsUp]
  | rdn => rfl
  | rup => simp [RoundsUp]
  | rmm => simp only [RoundsUp, half_le_dropped_iff h0 h1, decide_eq_true_eq]
  | odd => simp [RoundsUp]
  | rne =>
    simp only [RoundsUp, half_lt_dropped_iff h0 h1, dropped_eq_half_iff h0 h1, Bool.or_eq_true, Bool.and_eq_true,
      decide_eq_true_eq, hθ, beq_iff_eq]
    tauto

/-- With a shift of s places the model's rounding of m, and of θ < 1 above it when sticky is set, is the rounding of what is
shifted, and says whether it is inexact. -/
theorem shiftRound_right {mode : Mode} {neg : Bool} {m s : ℕ} {sticky : Bool} {θ : ℝ} (hs : 1 ≤ s) (h0 : 0 ≤ θ) (h1 : θ < 1)
    (hθ : sticky = true ↔ θ ≠ 0) :
    (shiftRound mode neg m s sticky).1 = roundNat mode neg ((m + θ) / 2 ^ s) ∧
    ((shiftRound mode neg m s sticky).2 = true ↔ (roundNat mode neg ((m + θ) / 2 ^ s) : ℝ) ≠ (m + θ) / 2 ^ s) := by
  have hd : (0 : ℝ) < 2 ^ s := by positivity
  have hmod : ((m % 2 ^ s : ℕ) : ℝ) + 1 ≤ 2 ^ s := by exact_mod_cast Nat.mod_lt m (Nat.two_pow_pos s)
  have hmod0 := (m % 2 ^ s).cast_nonneg (α := ℝ)
  have hy : ((m : ℝ) + θ) / 2 ^ s = (m / 2 ^ s : ℕ) + ((m % 2 ^ s : ℕ) + θ) / 2 ^ s := by
    have hdiv : (m : ℝ) = 2 ^ s * (m / 2 ^ s : ℕ) + (m % 2 ^ s : ℕ) := by exact_mod_cast (Nat.div_add_mod m (2 ^ s)).symm
    field_simp
    linarith
  by_cases hr : m % 2 ^ s = 0 ∧ θ = 0
  · obtain ⟨hr, rfl⟩ := hr
    have hst : sticky = false := by simpa using hθ
    have hs0 : s ≠ 0 := by omega
    rw [hy, hr]
    simp [shiftRound, hs0, hr, hst]
  · have hlo : ((m / 2 ^ s : ℕ) : ℝ) < (m + θ) / 2 ^ s := by
      have hpos : (0 : ℝ) < (m % 2 ^ s : ℕ) + θ := by
        refine lt_of_le_of_ne (by linarith) fun he => hr ⟨?_, by linarith⟩
        exact_mod_cast (by linarith : ((m % 2 ^ s : ℕ) : ℝ) = 0)
      rw [hy]
      linarith [div_pos hpos hd]
    have hhi : ((m : ℝ) + θ) / 2 ^ s < (m / 2 ^ s : ℕ) + 1 := by
      have : ((m % 2 ^ s : ℕ) + θ) / 2 ^ s < 1 := by rw [div_lt_one hd]; linarith
      linarith
    rw [shiftRound_inexact hs h0 h1 hθ hr]
    refine ⟨?_, by simpa using roundNat_ne hlo hhi⟩
    rw [roundNat_between hlo hhi, hy, add_sub_cancel_left]

/-- The model's rounding of m·2^(−sh), or of what lies above it by less than one unit when sticky is set and a place is
dropped, is the rounding of the magnitude y, and says whether it is inexact. -/
theorem shiftRound_roundNat {mode : Mode} {neg : Bool} {m : ℕ} {sh : ℤ} {sticky : Bool} {y : ℝ}
    (h1 : m * (2 : ℝ) ^ (-sh) ≤ y) (h2 : y < (m + 1) * 2 ^ (-sh)) (hs : sticky = true ↔ m * (2 : ℝ) ^ (-sh) ≠ y)
    (hsh : sticky = true → 1 ≤ sh) :
    (shiftRound mode neg m sh sticky).1 = roundNat mode neg y ∧
    ((shiftRound mode neg m sh sticky).2 = true ↔ (roundNat mode neg y : ℝ) ≠ y) := by
  rcases le_or_gt sh 0 with h | h
  · have hst : sticky = false := by
      by_contra hc
      have := hsh (by simpa using hc)
      omega
    have hy : y = ((m * 2 ^ (-sh).toNat : ℕ) : ℝ) := by
      have := not_not.1 (mt hs.2 (by simp [hst]))
      rw [← this, ← Int.toNat_of_nonneg (by omega : 0 ≤ -sh), zpow_natCast, Int.toNat_natCast]
      push_cast
      rfl
    rw [hst, shiftRound_exact mode neg m h, hy, roundNat_natCast]
    simp
  · obtain ⟨s, rfl⟩ := Int.eq_ofNat_of_zero_le h.le
    have hd : (0 : ℝ) < 2 ^ s := by positivity
    rw [zpow_neg, zpow_natCast, ← div_eq_mul_inv] at h1 h2 hs
    rw [div_le_iff₀ hd] at h1
    rw [lt_div_iff₀ hd] at h2
    rw [ne_eq, div_eq_iff hd.ne', ← ne_eq, ne_comm, ← sub_ne_zero] at hs
    have hy : y = (m + (y * 2 ^ s - m)) / 2 ^ s := by
      rw [add_sub_cancel, mul_div_cancel_right₀ _ hd.ne']
    rw [hy]
    exact shiftRound_right (by omega) (by linarith) (by linarith) hs

end Sys2Proof.Numbers
end

section
/-!
SUPPORT. What the model's roundTo does: the code, NX, UF and OF (R23, R25, R299).
-/
namespace Sys2Proof.Numbers

open Sys2Proof Sys2Proof.Machine Sys2Proof.Claims

/-! ## The model's rounding of a magnitude to a code -/

section
variable {f : Fmt} {mode : Mode} {u neg sticky : Bool} {m : ℕ} {e : ℤ} {x : ℝ}

/-- The code the model forms from step q of binade j, the first step of the next binade included. -/
theorem code_of_step {j q : ℕ} (hlo : 2 ^ f.fbits ≤ q ∨ j = 0) (hhi : q ≤ 2 ^ (f.fbits + 1)) :
    (let q' := if 2 ^ (f.fbits + 1) ≤ q then q / 2 else q
     let lsb' := if 2 ^ (f.fbits + 1) ≤ q then f.emin - f.fbits + j + 1 else f.emin - f.fbits + j
     let ex : ℤ := if q' < 2 ^ f.fbits then 0 else lsb' + f.fbits + f.bias
     if q' < 2 ^ f.fbits then (q' : ℤ) else ex * 2 ^ f.fbits + (q' - 2 ^ f.fbits)) = ((j * 2 ^ f.fbits + q : ℕ) : ℤ) := by
  have hP : 0 < 2 ^ f.fbits := Nat.two_pow_pos _
  rw [pow_succ] at *
  rcases hhi.eq_or_lt with rfl | hlt
  · simp only [le_refl, if_true, Nat.mul_div_cancel _ two_pos, lt_irrefl, if_false]
    push_cast [Fmt.emin]
    ring
  · simp only [not_le.2 hlt, if_false]
    split
    · obtain rfl : j = 0 := by omega
      simp
    · push_cast [Fmt.emin]
      ring

/-- The model's rounding in terms of the step q it takes. -/
theorem roundTo_of_step {j q : ℕ} {inexact tiny : Bool} (hm : m ≠ 0)
    (hj : max (e + m.log2) f.emin - f.fbits = f.emin - f.fbits + j)
    (hq : shiftRound mode neg m (f.emin - f.fbits + j - e) sticky = (q, inexact))
    (hlo : 2 ^ f.fbits ≤ q ∨ j = 0) (hhi : q ≤ 2 ^ (f.fbits + 1))
    (ht : (decide (e + m.log2 < f.emin) && decide (((shiftRound mode neg m (e + m.log2 - f.fbits - e) sticky).1 : ℤ) <
      2 ^ (f.emin - (e + m.log2) + f.fbits).toNat)) = tiny) :
    roundTo f mode u neg m e sticky =
      if f.maxCode < j * 2 ^ f.fbits + q then (overflowCode f mode neg, { of := true, nx := true })
      else (f.sign neg + (j * 2 ^ f.fbits + q), { nx := inexact, uf := tiny && (inexact || u) }) := by
  have hcode := code_of_step (f := f) hlo hhi
  simp only at hcode
  simp only [roundTo, hm, false_and, if_false, hj, hq, hcode, ht, Int.toNat_natCast, Nat.cast_lt]

/-- A magnitude below 2^(big+1), counted in units of 2^lsb or more, lies in binade j; in a binade of normals it is a
magnitude from 2^big on, counted in units of 2^(big − fbits). -/
theorem inBinade_of_lt {big lsb : ℤ} {j : ℕ} (h0 : 0 ≤ x) (h2 : x < 2 ^ (big + 1)) (hl : big - f.fbits ≤ lsb)
    (hj : (2 : ℝ) ^ big ≤ x ∧ lsb = big - f.fbits ∨ j = 0) : InBinade f j (x / 2 ^ lsb) := by
  have hpos : (0 : ℝ) < 2 ^ lsb := by positivity
  refine ⟨by positivity, ?low, ?high⟩
  case low =>
    refine hj.imp_left fun ⟨h1, he⟩ => ?_
    rwa [le_div_iff₀ hpos, ← zpow_natCast, ← zpow_add₀ two_ne_zero, he, add_sub_cancel]
  case high =>
    rw [div_lt_iff₀ hpos, ← zpow_natCast, ← zpow_add₀ two_ne_zero]
    refine h2.trans_le (zpow_le_zpow_right₀ one_le_two ?_)
    push_cast
    linarith

section
variable {big : ℤ} {k : ℕ}

/-- A magnitude scaled into the lowest binade of normals rounds there to the step to which it rounds at the precision of
the format. -/
theorem roundsTo_scaled (h1 : (2 : ℝ) ^ big ≤ x) (h2 : x < 2 ^ (big + 1)) (hk : big + k = f.emin) :
    RoundsTo f mode neg (x * 2 ^ k) (roundNat mode neg (x / 2 ^ (big - f.fbits))) := by
  have hin : InBinade f 0 (x / 2 ^ (big - f.fbits)) :=
    inBinade_of_lt ((zpow_pos two_pos big).le.trans h1) h2 le_rfl (.inr rfl)
  have hx : x / 2 ^ (big - f.fbits) * 2 ^ (f.emin - f.fbits + (0 : ℕ)) = x * 2 ^ k := by
    rw [div_mul_eq_mul_div, mul_div_assoc, ← zpow_sub₀ two_ne_zero, ← zpow_natCast, ← hk]
    congr 2
    push_cast
    ring
  have hr := roundsTo_roundNat (mode := mode) (neg := neg) hin
  rwa [hx, zero_mul, zero_add] at hr

/-- A step of the lowest binade is less than 2^k times the smallest normal exactly when it is less than as many units. -/
theorem codeVal_lt_iff {q : ℕ} (hk : big + k = f.emin) (hq : q ≤ 2 ^ (f.fbits + 1)) :
    (codeVal f q : ℝ) < 2 ^ f.emin * 2 ^ k ↔ q < 2 ^ (f.emin - big + f.fbits).toNat := by
  have hg := codeVal_grid f (j := 0) (.inr rfl) hq
  rw [zero_mul, zero_add] at hg
  have ht : (f.emin - big + f.fbits).toNat = k + f.fbits := by omega
  have he : (2 : ℝ) ^ f.emin * 2 ^ k = ((2 ^ (k + f.fbits) : ℕ) : ℝ) * 2 ^ (f.emin - f.fbits + (0 : ℕ)) := by
    push_cast
    rw [← zpow_natCast, ← zpow_natCast, ← zpow_add₀ two_ne_zero, ← zpow_add₀ two_ne_zero]
    congr 1
    push_cast
    ring
  rw [hg, ht, he]
  push_cast
  rw [mul_lt_mul_iff_left₀ (by positivity)]
  exact_mod_cast Iff.rfl

/-- A rounded magnitude is tiny exactly when its rounding to the precision of the format lies below the smallest normal
(R23). -/
theorem tiny_iff (h1 : (2 : ℝ) ^ big ≤ x) (h2 : x < 2 ^ (big + 1)) :
    Tiny f mode neg x ↔
      big < f.emin ∧ roundNat mode neg (x / 2 ^ (big - f.fbits)) < 2 ^ (f.emin - big + f.fbits).toNat := by
  have hin : InBinade f 0 (x / 2 ^ (big - f.fbits)) :=
    inBinade_of_lt ((zpow_pos two_pos big).le.trans h1) h2 le_rfl (.inr rfl)
  have hstep := (hin.roundNat_mem mode neg).2
  constructor
  · rintro ⟨hlt, k, c, hk1, hk2, hc, hv⟩
    have hbig : big < f.emin := (zpow_lt_zpow_iff_right₀ one_lt_two).1 (h1.trans_lt hlt)
    have hk : big + k = f.emin := by
      have hlo : (2 : ℝ) ^ (big + k) < 2 ^ (f.emin + 1) := by
        rw [zpow_add₀ two_ne_zero, zpow_add_one₀ two_ne_zero, zpow_natCast]
        have := mul_le_mul_of_nonneg_right h1 (by positivity : (0 : ℝ) ≤ 2 ^ k)
        linarith
      have hhi : (2 : ℝ) ^ f.emin < 2 ^ (big + 1 + k) := by
        rw [zpow_add₀ two_ne_zero, zpow_natCast]
        exact hk1.trans_lt (mul_lt_mul_of_pos_right h2 (by positivity))
      rw [zpow_lt_zpow_iff_right₀ one_lt_two] at hlo hhi
      omega
    rw [roundsTo_unique hc (roundsTo_scaled h1 h2 hk)] at hv
    exact ⟨hbig, (codeVal_lt_iff hk hstep).1 hv⟩
  · rintro ⟨hbig, hlt⟩
    obtain ⟨k, hk⟩ := Int.le.dest hbig.le
    have hx : x * 2 ^ k < 2 * 2 ^ f.emin := by
      rw [← hk, zpow_add₀ two_ne_zero, zpow_natCast, ← mul_assoc, ← zpow_one_add₀ two_ne_zero, add_comm]
      exact mul_lt_mul_of_pos_right h2 (by positivity)
    refine ⟨h2.trans_le (zpow_le_zpow_right₀ one_le_two hbig), k, _, ?_, hx, roundsTo_scaled h1 h2 hk, (codeVal_lt_iff hk hstep).2 hlt⟩
    rw [← hk, zpow_add₀ two_ne_zero, zpow_natCast]
    exact mul_le_mul_of_nonneg_right h1 (by positivity)

end

/-- The model's overflow gives an infinity exactly where the format has one and the mode rounds away from zero (R25, R299). -/
theorem overflowCode_eq (f : Fmt) (mode : Mode) (neg : Bool) :
    overflowCode f mode neg = f.sign neg + (if f.hasInf = true ∧ (mode = .rne ∨ mode = .rmm ∨ (mode = .rdn ∧ neg = true) ∨
      (mode = .rup ∧ neg = false)) then f.infCode else f.maxCode) := by
  cases mode <;> cases neg <;> simp [overflowCode]

/-- A magnitude is less than the next multiple of its power of two. -/
theorem mul_zpow_lt_succ (m : ℕ) (e : ℤ) : (m : ℝ) * 2 ^ e < (m + 1) * 2 ^ e :=
  mul_lt_mul_of_pos_right (lt_add_one _) (by positivity)

/-- The binade of (m + a fraction)·2^e is that of its leading bit. -/
theorem leading_bit (hm : m ≠ 0) (h1 : m * (2 : ℝ) ^ e ≤ x) (h2 : x < (m + 1) * 2 ^ e) :
    (2 : ℝ) ^ (e + m.log2) ≤ x ∧ x < 2 ^ (e + m.log2 + 1) := by
  have he : (0 : ℝ) < 2 ^ e := by positivity
  have hlo : (2 : ℝ) ^ m.log2 ≤ m := by exact_mod_cast Nat.log2_self_le hm
  have hhi : (m : ℝ) + 1 ≤ 2 ^ (m.log2 + 1) := by exact_mod_cast Nat.lt_log2_self
  rw [add_assoc, zpow_add₀ two_ne_zero, zpow_add₀ two_ne_zero, zpow_natCast]
  refine ⟨?_, h2.trans_le ?_⟩
  · nlinarith
  · have hz : (2 : ℝ) ^ ((m.log2 : ℤ) + 1) = 2 ^ (m.log2 + 1) := by exact_mod_cast zpow_natCast (2 : ℝ) (m.log2 + 1)
    rw [hz]
    nlinarith

/-- Counted in units of 2^lsb of which none is finer than the precision of the format, a magnitude is rounded by shiftRound. -/
theorem shiftRound_units {lsb : ℤ} (h1 : m * (2 : ℝ) ^ e ≤ x) (h2 : x < (m + 1) * 2 ^ e)
    (hs : sticky = true ↔ m * (2 : ℝ) ^ e ≠ x) (hp : sticky = true → f.fbits < m.log2) (hl : e + m.log2 - f.fbits ≤ lsb) :
    (shiftRound mode neg m (lsb - e) sticky).1 = roundNat mode neg (x / 2 ^ lsb) ∧
    ((shiftRound mode neg m (lsb - e) sticky).2 = true ↔ (roundNat mode neg (x / 2 ^ lsb) : ℝ) ≠ x / 2 ^ lsb) := by
  have hpos : (0 : ℝ) < 2 ^ lsb := by positivity
  have hsh : (2 : ℝ) ^ (-(lsb - e)) = 2 ^ e / 2 ^ lsb := by rw [neg_sub, zpow_sub₀ two_ne_zero]
  refine shiftRound_roundNat ?_ ?_ ?_ fun h => by have := hp h; omega
  · rw [hsh, ← mul_div_assoc]; exact div_le_div_of_nonneg_right h1 hpos.le
  · rw [hsh, ← mul_div_assoc]; exact div_lt_div_of_pos_right h2 hpos
  · rw [hs, hsh, ← mul_div_assoc, ne_eq, ne_eq, div_left_inj' hpos.ne']

/-- The model's rounding is correct (R23, R25, R299): of m·2^e, or of a magnitude less than one unit above it when sticky is
set and m has more bits than the format. -/
theorem roundTo_rounded (hm : m ≠ 0) (h1 : m * (2 : ℝ) ^ e ≤ x) (h2 : x < (m + 1) * 2 ^ e)
    (hs : sticky = true ↔ m * (2 : ℝ) ^ e ≠ x) (hp : sticky = true → f.fbits < m.log2) :
    Rounded f mode u neg x (roundTo f mode u neg m e sticky) := by
  obtain ⟨hb1, hb2⟩ := leading_bit hm h1 h2
  have hx0 : 0 ≤ x := (zpow_pos two_pos _).le.trans hb1
  have hround := fun (lsb : ℤ) (hl : e + m.log2 - f.fbits ≤ lsb) =>
    shiftRound_units (mode := mode) (neg := neg) h1 h2 hs hp hl
  obtain ⟨j, hj⟩ : ∃ j : ℕ, f.emin + j = max (e + m.log2) f.emin := Int.le.dest (le_max_right _ _)
  have hlsb : max (e + m.log2) f.emin - f.fbits = f.emin - f.fbits + j := by omega
  have hin : InBinade f j (x / 2 ^ (f.emin - f.fbits + j)) := by
    refine inBinade_of_lt hx0 hb2 (by omega) ?_
    rcases le_total (e + m.log2) f.emin with h | h
    · right; omega
    · exact .inl ⟨hb1, by omega⟩
  obtain ⟨hq, hinexact⟩ := hround (f.emin - f.fbits + j) (by omega)
  obtain ⟨hlo, hhi⟩ := hin.roundNat_mem mode neg
  have hto := roundsTo_roundNat (mode := mode) (neg := neg) hin
  have hunit : (0 : ℝ) < 2 ^ (f.emin - f.fbits + (j : ℤ)) := by positivity
  rw [div_mul_cancel₀ _ hunit.ne'] at hto
  have htiny := tiny_iff (f := f) (mode := mode) (neg := neg) hb1 hb2
  have hstep := roundTo_of_step (u := u) (q := roundNat mode neg (x / 2 ^ (f.emin - f.fbits + j))) hm hlsb (Prod.ext hq rfl) hlo hhi rfl
  refine ⟨_, hto, fun hle => ?_, fun hlt => ?_⟩
  · rw [hstep, if_neg (not_lt.2 hle)]
    refine ⟨_, _, rfl, ?_, ?_⟩
    · rw [hinexact, codeVal_grid f hlo hhi, ne_eq, ne_eq, eq_div_iff hunit.ne']
      push_cast
      rfl
    · rw [htiny, (hround (e + m.log2 - f.fbits) le_rfl).1]
      simp only [Bool.and_eq_true, Bool.or_eq_true, decide_eq_true_eq]
      norm_cast
  · rw [hstep, if_pos hlt, overflowCode_eq]

end

end Sys2Proof.Numbers
end

section
/-!
SUPPORT. Unpacking, exact values, sums and products (R17, R287, R291).
-/
namespace Sys2Proof.Numbers

open Sys2Proof Sys2Proof.Machine Sys2Proof.Claims

/-! ## A finite code stands for its value (R17) -/

/-- The fraction and exponent fields of a code with its sign. -/
theorem fields_of_sign {f : Fmt} (neg : Bool) {c : ℕ} (hc : c < 2 ^ (f.ebits + f.fbits)) :
    (f.sign neg + c).testBit (f.width - 1) = neg ∧ (f.sign neg + c) / 2 ^ f.fbits % 2 ^ f.ebits = c / 2 ^ f.fbits ∧
    (f.sign neg + c) % 2 ^ f.fbits = c % 2 ^ f.fbits := by
  have hdiv : c / 2 ^ f.fbits < 2 ^ f.ebits := Nat.div_lt_of_lt_mul (by rwa [← pow_add, add_comm])
  have hw : f.width - 1 = f.ebits + f.fbits := rfl
  cases neg with
  | false => simp [Fmt.sign, hw, Nat.testBit_lt_two_pow hc, Nat.mod_eq_of_lt hdiv]
  | true =>
    have hs : f.sign true + c = c + 2 ^ f.fbits * 2 ^ f.ebits := by
      rw [Fmt.sign, if_pos rfl, hw, pow_add, add_comm, mul_comm]
    refine ⟨?_, ?_, ?_⟩
    · rw [Fmt.sign, if_pos rfl, hw, Nat.testBit_two_pow_add_eq, Nat.testBit_lt_two_pow hc]
      rfl
    · rw [hs, Nat.add_mul_div_left _ _ (Nat.two_pow_pos _), Nat.add_mod_right, Nat.mod_eq_of_lt hdiv]
    · rw [hs, Nat.add_mul_mod_self_left]

/-- A code up to the largest finite one is below the sign bit. -/
theorem maxCode_lt (f : Fmt) : f.maxCode < 2 ^ (f.ebits + f.fbits) := by cases f <;> decide

/-- A finite code of either sign unpacks to that sign and the magnitude of the code. -/
theorem unpack_finite (f : Fmt) (neg : Bool) {c : ℕ} (hc : c ≤ f.maxCode) :
    ∃ m e, unpack f (f.sign neg + c) = .fin neg m e ∧ m * (2 : ℚ) ^ e = codeVal f c := by
  have hP : 0 < 2 ^ f.fbits := Nat.two_pow_pos _
  obtain ⟨hneg, hex, hfr⟩ := fields_of_sign neg (hc.trans_lt (maxCode_lt f))
  refine ⟨if c / 2 ^ f.fbits = 0 then c % 2 ^ f.fbits else c % 2 ^ f.fbits + 2 ^ f.fbits,
    (max (c / 2 ^ f.fbits : ℕ) 1 : ℤ) - f.bias - f.fbits, ?_, ?_⟩
  · simp only [unpack, hneg, hex, hfr]
    cases f with
    | e2m1 => rfl
    | _ => exact if_neg (by norm_num [Fmt.maxCode, Fmt.ebits, Fmt.fbits] at hc ⊢; omega)
  · unfold codeVal
    rcases lt_or_ge c (2 ^ f.fbits) with h | h
    · simp [h, Nat.div_eq_of_lt h, Nat.mod_eq_of_lt h, Fmt.emin]
    · have hd : 1 ≤ c / 2 ^ f.fbits := (Nat.one_le_div_iff hP).2 h
      have hmax : max ((c / 2 ^ f.fbits : ℕ) : ℤ) 1 = (c / 2 ^ f.fbits : ℕ) := max_eq_left (by exact_mod_cast hd)
      rw [if_neg (by omega), if_neg (by omega), hmax, add_comm]

/-! ## Exact values -/

/-- The number that an integer times a power of two stands for. -/
noncomputable def dyadicVal (x : ℤ × ℤ) : ℝ := x.1 * 2 ^ x.2

/-- It is zero when the integer is. -/
theorem dyadicVal_eq_zero {x : ℤ × ℤ} : dyadicVal x = 0 ↔ x.1 = 0 := by
  simp [dyadicVal, zpow_ne_zero]

/-- The model's sum of two is their sum. -/
theorem dyadicVal_add (x y : ℤ × ℤ) : dyadicVal (dyadicAdd x y) = dyadicVal x + dyadicVal y := by
  have shift : ∀ (z e e' : ℤ), e ≤ e' → ((z * 2 ^ (e' - e).toNat : ℤ) : ℝ) * 2 ^ e = z * 2 ^ e' := by
    intro z e e' h
    push_cast
    rw [mul_assoc, ← zpow_natCast, ← zpow_add₀ two_ne_zero, Int.toNat_of_nonneg (by omega)]
    congr 2
    ring
  simp only [dyadicVal, dyadicAdd]
  rw [Int.cast_add, add_mul, shift _ _ _ (min_le_left _ _), shift _ _ _ (min_le_right _ _)]

/-- The model's sum of several is their sum. -/
theorem dyadicVal_sum (xs : List (ℤ × ℤ)) : dyadicVal (dyadicSum xs) = (xs.map dyadicVal).sum := by
  have fold : ∀ a, dyadicVal (xs.foldl dyadicAdd a) = dyadicVal a + (xs.map dyadicVal).sum := by
    induction xs with
    | nil => simp
    | cons x xs ih => intro a; simp [ih, dyadicVal_add, add_assoc]
  have h0 : dyadicVal (0, 0) = 0 := dyadicVal_eq_zero.2 rfl
  rw [dyadicSum, fold, h0, zero_add]

/-- A finite value is the exact dyadic of its sign and magnitude. -/
theorem valueOf_fin (a : Bool) (m : ℕ) (e : ℤ) : ((valueOf (.fin a m e) : ℚ) : ℝ) = dyadicVal (signedInt a m, e) := by
  cases a <;> simp [valueOf, dyadicVal, signedInt]

/-- A finite value is its magnitude with its sign. -/
theorem valueOf_sign (a : Bool) (m : ℕ) (e : ℤ) :
    ((valueOf (.fin a m e) : ℚ) : ℝ) = if a then -(m * (2 : ℝ) ^ e) else m * 2 ^ e := by
  cases a <;> simp [valueOf]

/-- An integer times a power of two as a finite value. -/
theorem valueOf_natAbs (z e : ℤ) : ((valueOf (.fin (decide (z < 0)) z.natAbs e) : ℚ) : ℝ) = dyadicVal (z, e) := by
  rw [valueOf_fin]
  congr 2
  rcases lt_or_ge z 0 with h | h
  · simp [signedInt, h, abs_of_neg h]
  · simp [signedInt, not_lt.2 h, abs_of_nonneg h]

/-- A signed integer is zero when its magnitude is. -/
@[simp] theorem signedInt_eq_zero {a : Bool} {m : ℕ} : signedInt a m = 0 ↔ m = 0 := by
  cases a <;> simp [signedInt]

/-- The exact product of finite values. -/
theorem valueOf_mul (a b : Bool) (m n : ℕ) (j k : ℤ) :
    ((valueOf (.fin (a != b) (m * n) (j + k)) : ℚ) : ℝ) = valueOf (.fin a m j) * valueOf (.fin b n k) := by
  simp only [valueOf_sign, zpow_add₀ (two_ne_zero (α := ℝ))]
  cases a <;> cases b <;> simp <;> ring

/-- A finite value is zero when its magnitude is. -/
theorem valueOf_ne_zero {a : Bool} {m : ℕ} {e : ℤ} (hm : m ≠ 0) : ((valueOf (.fin a m e) : ℚ) : ℝ) ≠ 0 := by
  rw [valueOf_fin, ne_eq, dyadicVal_eq_zero]
  simpa using hm

section
variable {f : Fmt} {mode : Mode} {u neg : Bool} {x : ℝ} {r : ℕ × Exc}

/-- A rounded positive magnitude with its sign is a real number rounded once. -/
theorem onceRounded_sign (hx : 0 < x) (h : Rounded f mode u neg x r) : OnceRounded f mode u (if neg then -x else x) r := by
  cases neg with
  | false => exact .inl ⟨hx, h⟩
  | true => exact .inr ⟨by simpa using hx, by simpa using h⟩

/-- An exact magnitude is rounded by the model's rounding. -/
theorem roundTo_exact {m : ℕ} {e : ℤ} (hm : m ≠ 0) : Rounded f mode u neg (m * (2 : ℝ) ^ e) (roundTo f mode u neg m e false) :=
  roundTo_rounded hm le_rfl (mul_zpow_lt_succ m e) (by simp) (by simp)

/-- A real number given as an integer, and what it lies above that integer, times a power of two is rounded by the model's
rounding when the integer has more bits than the format. -/
theorem roundTo_above {m : ℕ} {e : ℤ} {y : ℝ} {sticky : Bool} (h1 : (m : ℝ) ≤ y) (h2 : y < m + 1)
    (hs : sticky = true ↔ (m : ℝ) ≠ y) (hp : 2 ^ (f.fbits + 1) ≤ m) :
    Rounded f mode u neg (y * 2 ^ e) (roundTo f mode u neg m e sticky) := by
  have he : (0 : ℝ) < 2 ^ e := by positivity
  have hm : m ≠ 0 := fun h => by simp [h] at hp
  refine roundTo_rounded hm (mul_le_mul_of_nonneg_right h1 he.le) (mul_lt_mul_of_pos_right h2 he) ?_ fun _ => (Nat.le_log2 hm).2 hp
  rw [hs, ne_eq, ne_eq, mul_left_inj' he.ne']

/-- A finite value that is not zero is rounded once. -/
theorem roundTo_value {a : Bool} {m : ℕ} {e : ℤ} (hm : m ≠ 0) :
    OnceRounded f mode u (valueOf (.fin a m e) : ℚ) (roundTo f mode u a m e false) := by
  rw [valueOf_sign]
  exact onceRounded_sign (by positivity) (roundTo_exact hm)

/-- An exact dyadic that is not zero is rounded once. -/
theorem roundDyadic_onceRounded {x : ℤ × ℤ} (hx : x.1 ≠ 0) : OnceRounded f mode u (dyadicVal x) (roundDyadic f mode u x) := by
  rw [← valueOf_natAbs x.1 x.2]
  exact roundTo_value (Int.natAbs_ne_zero.2 hx)

/-! ## Sums, products, fused products and group sums (R287, R291, R292) -/

/-- A sum of finite values that is not zero is rounded once. -/
theorem addVals_onceRounded {a b : Bool} {m n : ℕ} {j k : ℤ}
    (h : ((valueOf (.fin a m j) : ℚ) : ℝ) + (valueOf (.fin b n k) : ℚ) ≠ 0) :
    OnceRounded f mode u ((valueOf (.fin a m j) : ℚ) + (valueOf (.fin b n k) : ℚ)) (addVals f mode u (.fin a m j) (.fin b n k)) := by
  simp only [valueOf_fin, ← dyadicVal_add] at h ⊢
  have hs := mt dyadicVal_eq_zero.2 h
  have hmn : ¬ (m = 0 ∧ n = 0) := by
    rintro ⟨rfl, rfl⟩
    exact hs (by simp [dyadicAdd, signedInt])
  simp only [addVals, hmn, if_false, hs]
  exact roundDyadic_onceRounded hs

/-- An exact zero sum has the sign of IEEE 754. -/
theorem addVals_zero {a b : Bool} {m n : ℕ} {j k : ℤ}
    (h : ((valueOf (.fin a m j) : ℚ) : ℝ) + (valueOf (.fin b n k) : ℚ) = 0) :
    addVals f mode u (.fin a m j) (.fin b n k) = (f.sign (if m = 0 ∧ a = b then a else mode == .rdn), {}) := by
  by_cases hm : m = 0
  · subst hm
    have hn : n = 0 := by
      by_contra hn
      exact valueOf_ne_zero hn (by simpa [valueOf] using h)
    simp [addVals, hn, Exc.none, zeroNeg]
  · simp only [valueOf_fin, ← dyadicVal_add, dyadicVal_eq_zero] at h
    simp [addVals, hm, h, Exc.none, zeroNeg]

/-- A product of finite values that is not zero is rounded once. -/
theorem mulOp_onceRounded {a b : Bool} {m n : ℕ} {j k : ℤ}
    (h : ((valueOf (.fin a m j) : ℚ) : ℝ) * (valueOf (.fin b n k) : ℚ) ≠ 0) :
    OnceRounded f mode u ((valueOf (.fin a m j) : ℚ) * (valueOf (.fin b n k) : ℚ)) (mulOp f mode u (.fin a m j) (.fin b n k)) := by
  have hmn : m * n ≠ 0 := by
    intro h0
    rcases Nat.mul_eq_zero.1 h0 with rfl | rfl <;> exact h (by simp [valueOf])
  rw [← valueOf_mul]
  exact roundTo_value hmn

/-- A zero product has the sign of its factors. -/
theorem mulOp_zero {a b : Bool} {m n : ℕ} {j k : ℤ}
    (h : ((valueOf (.fin a m j) : ℚ) : ℝ) * (valueOf (.fin b n k) : ℚ) = 0) :
    mulOp f mode u (.fin a m j) (.fin b n k) = (f.sign (a != b), {}) := by
  have hmn : m * n = 0 := by
    by_contra hmn
    exact valueOf_ne_zero (a := a != b) (e := j + k) hmn (by rw [valueOf_mul, h])
  simp [mulOp, mulVals, roundVal, hmn, roundTo, Exc.none]

/-- A fused product and sum that is not zero is rounded once. -/
theorem fmaOp_onceRounded {a b d : Bool} {m n l : ℕ} {j k i : ℤ}
    (h : ((valueOf (.fin a m j) : ℚ) : ℝ) * (valueOf (.fin b n k) : ℚ) + (valueOf (.fin d l i) : ℚ) ≠ 0) :
    OnceRounded f mode u ((valueOf (.fin a m j) : ℚ) * (valueOf (.fin b n k) : ℚ) + (valueOf (.fin d l i) : ℚ))
      (fmaOp f mode u (mulVals (.fin a m j) (.fin b n k)) false (.fin d l i)) := by
  rw [← valueOf_mul] at h ⊢
  exact addVals_onceRounded h

end

end Sys2Proof.Numbers
end

section
/-!
SUPPORT. Group sums, quotients, roots and reciprocals (R287, R292, R293).
-/
namespace Sys2Proof.Numbers

open Sys2Proof Sys2Proof.Machine Sys2Proof.Claims

section
variable {f : Fmt} {mode : Mode} {u : Bool}

/-- The finite value that a sign, a magnitude and an exponent give. -/
def finOf (p : Bool × ℕ × ℤ) : FVal := .fin p.1 p.2.1 p.2.2

/-- The integer times a power of two that they give. -/
def dyadicOf (p : Bool × ℕ × ℤ) : ℤ × ℤ := (signedInt p.1 p.2.1, p.2.2)

/-- The sum of finite values, as the model adds them. -/
theorem sum_valueOf (ps : List (Bool × ℕ × ℤ)) :
    ((((ps.map finOf).map valueOf).sum : ℚ) : ℝ) = dyadicVal (dyadicSum (ps.map dyadicOf)) := by
  rw [dyadicVal_sum]
  induction ps with
  | nil => simp
  | cons p ps ih =>
    simp only [List.map_cons, List.sum_cons] at ih ⊢
    rw [Rat.cast_add, ih]
    exact congrArg (· + _) (valueOf_fin p.1 p.2.1 p.2.2)

/-- The sum of zeros is zero. -/
theorem dyadicSum_zeros {ps : List (Bool × ℕ × ℤ)} (h : (ps.map finOf).all FVal.isZero = true) :
    dyadicVal (dyadicSum (ps.map dyadicOf)) = 0 := by
  rw [dyadicVal_sum]
  refine List.sum_eq_zero fun x hx => ?_
  simp only [List.mem_map] at hx
  obtain ⟨-, ⟨p, hp, rfl⟩, rfl⟩ := hx
  have hz : p.2.1 = 0 := by simpa [finOf, FVal.isZero] using List.all_eq_true.1 h (finOf p) (List.mem_map_of_mem hp)
  simp [dyadicVal_eq_zero, dyadicOf, hz]

/-- The group sum of finite products is a finite value, the exact sum scaled, and raises nothing. -/
theorem groupSum_finite (mode : Mode) (ps : List (Bool × ℕ × ℤ)) (scale : ℤ) :
    ∃ b m e, groupSum mode ((ps.map finOf).map some) false scale = (.fin b m e, false) ∧
      ((valueOf (.fin b m e) : ℚ) : ℝ) = 2 ^ scale * (((ps.map finOf).map valueOf).sum : ℚ) := by
  have hfil : ((ps.map finOf).map some).filterMap id = ps.map finOf := by simp [List.filterMap_map]
  have hnone : ((ps.map finOf).map some).any Option.isNone = false := by simp
  have hinf : ∀ b, (ps.map finOf).any (· == .inf b) = false := by simp [finOf]
  have hnan : (ps.map finOf).any FVal.isNan = false := by simp [finOf, FVal.isNan]
  have hfind : (ps.map finOf).find? FVal.isInf = none := by simp [finOf, FVal.isInf]
  rw [sum_valueOf]
  have hzero : ∀ b, ((valueOf (zeroVal b) : ℚ) : ℝ) = 0 := fun b => by simp [valueOf, zeroVal]
  simp only [groupSum, hfil, hnone, hinf, hnan, hfind, Bool.false_and, Bool.or_false, Bool.false_eq_true, if_false]
  by_cases hall : (ps.map finOf).all FVal.isZero = true
  · rw [if_pos hall, dyadicSum_zeros hall, mul_zero]
    exact ⟨_, _, _, rfl, hzero _⟩
  · rw [if_neg hall]
    have hof : (fun p : Bool × ℕ × ℤ => (signedInt p.1 p.2.1, p.2.2)) = dyadicOf := rfl
    simp only [List.filterMap_map, Function.comp_def, finOf, List.filterMap_eq_map', hof]
    generalize dyadicSum (ps.map dyadicOf) = s
    by_cases hs : s.1 = 0
    · rw [if_pos hs, dyadicVal_eq_zero.2 hs, mul_zero]
      exact ⟨_, _, _, rfl, hzero _⟩
    · rw [if_neg hs]
      refine ⟨_, _, _, rfl, ?_⟩
      rw [valueOf_natAbs, dyadicVal, dyadicVal, zpow_add₀ two_ne_zero]
      ring

/-- An accumulator and a group sum of finite products, when they are not zero together, are rounded once. -/
theorem accumulate_onceRounded {d : Bool} {l : ℕ} {i : ℤ} {ps : List (Bool × ℕ × ℤ)} {scale : ℤ}
    (h : ((valueOf (.fin d l i) : ℚ) : ℝ) + 2 ^ scale * (((ps.map finOf).map valueOf).sum : ℚ) ≠ 0) :
    OnceRounded f mode u ((valueOf (.fin d l i) : ℚ) + 2 ^ scale * (((ps.map finOf).map valueOf).sum : ℚ))
      (accumulate f mode u (.fin d l i) (groupSum mode ((ps.map finOf).map some) false scale)) := by
  obtain ⟨b, m, e, hg, hv⟩ := groupSum_finite mode ps scale
  rw [← hv] at h ⊢
  rw [hg]
  exact addVals_onceRounded h

/-! ## Quotients, square roots and their reciprocals (R287, R293) -/

/-- A quotient of naturals lies between their integer quotient and the next integer, and is the former only without a
remainder. -/
theorem natDiv_bounds {a n : ℕ} (hn : n ≠ 0) :
    ((a / n : ℕ) : ℝ) ≤ a / n ∧ (a : ℝ) / n < (a / n : ℕ) + 1 ∧ (a % n ≠ 0 ↔ ((a / n : ℕ) : ℝ) ≠ a / n) := by
  have h0 : (0 : ℝ) ≤ a / n := by positivity
  have hn' : (n : ℝ) ≠ 0 := by exact_mod_cast hn
  rw [← Nat.floor_div_eq_div (K := ℝ)]
  refine ⟨Nat.floor_le h0, Nat.lt_floor_add_one _, ?_⟩
  rw [Nat.floor_div_eq_div (K := ℝ), ne_eq, ne_eq, eq_div_iff hn', not_iff_not, ← Nat.dvd_iff_mod_eq_zero, Nat.dvd_iff_div_mul_eq]
  exact_mod_cast Iff.rfl

/-- The number of bits by which the model widens a dividend gives a quotient of more bits than the format. -/
theorem quotient_bits {m n : ℕ} (hm : m ≠ 0) (hn : n ≠ 0) :
    2 ^ (f.fbits + 1) ≤ m * 2 ^ (f.fbits + 4 + n.log2 - m.log2) / n := by
  rw [Nat.le_div_iff_mul_le (Nat.pos_of_ne_zero hn)]
  calc 2 ^ (f.fbits + 1) * n ≤ 2 ^ (f.fbits + 1) * 2 ^ (n.log2 + 1) := Nat.mul_le_mul_left _ Nat.lt_log2_self.le
    _ = 2 ^ (f.fbits + 1 + (n.log2 + 1)) := (pow_add _ _ _).symm
    _ ≤ 2 ^ (m.log2 + (f.fbits + 4 + n.log2 - m.log2)) := Nat.pow_le_pow_right two_pos (by omega)
    _ = 2 ^ m.log2 * 2 ^ (f.fbits + 4 + n.log2 - m.log2) := pow_add _ _ _
    _ ≤ m * 2 ^ (f.fbits + 4 + n.log2 - m.log2) := Nat.mul_le_mul_right _ (Nat.log2_self_le hm)

/-- A quotient of non-zero finite values is rounded once. -/
theorem divOp_onceRounded {a b : Bool} {m n : ℕ} {j k : ℤ} (hm : m ≠ 0) (hn : n ≠ 0) :
    OnceRounded f mode u (((valueOf (.fin a m j) : ℚ) : ℝ) / (valueOf (.fin b n k) : ℚ))
      (divOp f mode u (.fin a m j) (.fin b n k)) := by
  have hsign : ((valueOf (.fin a m j) : ℚ) : ℝ) / (valueOf (.fin b n k) : ℚ) =
      if (a != b) = true then -((m : ℝ) * 2 ^ j / (n * 2 ^ k)) else (m : ℝ) * 2 ^ j / (n * 2 ^ k) := by
    rw [valueOf_sign, valueOf_sign]
    cases a <;> cases b <;> simp [neg_div, div_neg]
  rw [hsign]
  refine onceRounded_sign (by positivity) ?_
  simp only [divOp, hm, hn, if_false]
  obtain ⟨w, hw⟩ : ∃ w, w = f.fbits + 4 + n.log2 - m.log2 := ⟨_, rfl⟩
  have hbits := quotient_bits (f := f) hm hn
  rw [← hw] at hbits ⊢
  obtain ⟨h1, h2, h3⟩ := natDiv_bounds (a := m * 2 ^ w) hn
  have hn' : (n : ℝ) ≠ 0 := by exact_mod_cast hn
  have hx : (m : ℝ) * 2 ^ j / (n * 2 ^ k) = ((m * 2 ^ w : ℕ) : ℝ) / n * 2 ^ (j - k - w) := by
    rw [zpow_sub₀ two_ne_zero, zpow_sub₀ two_ne_zero, zpow_natCast]
    push_cast
    field_simp
  rw [hx]
  exact roundTo_above h1 h2 (by simpa using h3) hbits

/-- The bitwise search finds the integer square root. -/
theorem isqrtFrom_eq_sqrt {n : ℕ} : ∀ {k r : ℕ}, r * r ≤ n → n < (r + 2 ^ (k + 1)) * (r + 2 ^ (k + 1)) → isqrtFrom n k r = n.sqrt
  | 0, r, h1, h2 => by
    rw [isqrtFrom]
    split
    next h => exact Nat.eq_sqrt.2 ⟨h, by simpa [add_assoc] using h2⟩
    next h => exact Nat.eq_sqrt.2 ⟨h1, not_le.1 h⟩
  | k + 1, r, h1, h2 => by
    rw [isqrtFrom]
    split
    next h =>
      refine isqrtFrom_eq_sqrt h ?_
      rwa [add_assoc, ← two_mul, ← pow_succ']
    next h => exact isqrtFrom_eq_sqrt h1 (not_le.1 h)

/-- The model's integer square root. -/
theorem isqrt_eq_sqrt (n : ℕ) : isqrt n = n.sqrt := by
  refine isqrtFrom_eq_sqrt (by simp) ?_
  rw [zero_add, ← pow_add]
  exact Nat.lt_log2_self.trans_le (Nat.pow_le_pow_right two_pos (by omega))

/-- The square root of a natural lies between the integer square root and the next integer, and is the former only for a
square. -/
theorem natSqrt_bounds (n : ℕ) :
    (n.sqrt : ℝ) ≤ √n ∧ √(n : ℝ) < n.sqrt + 1 ∧ (n.sqrt * n.sqrt ≠ n ↔ (n.sqrt : ℝ) ≠ √n) := by
  refine ⟨Real.nat_sqrt_le_real_sqrt, Real.real_sqrt_lt_nat_sqrt_succ, ?_⟩
  rw [ne_eq, ne_eq, not_iff_not, eq_comm, eq_comm (b := √(n : ℝ)), Real.sqrt_eq_iff_mul_self_eq n.cast_nonneg (Nat.cast_nonneg _)]
  exact_mod_cast Iff.rfl

/-- A power of two with an even exponent has half the exponent under the root. -/
theorem sqrt_mul_two_zpow {y : ℝ} (hy : 0 ≤ y) (h : ℤ) : √(y * 2 ^ (2 * h)) = √y * 2 ^ h := by
  rw [Real.sqrt_mul hy, mul_comm 2 h, zpow_mul, zpow_ofNat, Real.sqrt_sq (by positivity)]

/-- The square root of a positive finite value is rounded once. -/
theorem sqrtOp_onceRounded {m : ℕ} {e : ℤ} (hm : m ≠ 0) :
    OnceRounded f mode u (√((valueOf (.fin false m e) : ℚ) : ℝ)) (sqrtOp f mode u (.fin false m e)) := by
  simp only [sqrtOp, hm, if_false, Bool.false_eq_true, isqrt_eq_sqrt]
  obtain ⟨sh, hsh⟩ : ∃ sh : ℕ, sh = if (e - (2 * (f.fbits + 4) : ℕ)) % 2 = 0 then 2 * (f.fbits + 4) else 2 * (f.fbits + 4) + 1 := ⟨_, rfl⟩
  rw [← hsh]
  have hk : 2 * (f.fbits + 1) ≤ sh ∧ (e - sh) % 2 = 0 := by split at hsh <;> omega
  obtain ⟨h, hh⟩ : ∃ h : ℤ, e - sh = 2 * h := ⟨(e - sh) / 2, by omega⟩
  obtain ⟨h1, h2, h3⟩ := natSqrt_bounds (m * 2 ^ sh)
  have hx : √((valueOf (.fin false m e) : ℚ) : ℝ) = √((m * 2 ^ sh : ℕ) : ℝ) * 2 ^ h := by
    rw [← sqrt_mul_two_zpow (Nat.cast_nonneg _), ← hh, valueOf_sign, zpow_sub₀ two_ne_zero, zpow_natCast]
    congr 1
    push_cast
    field_simp
  have hbits : 2 ^ (f.fbits + 1) ≤ (m * 2 ^ sh).sqrt := by
    rw [Nat.le_sqrt, ← pow_add, ← two_mul]
    exact (Nat.pow_le_pow_right two_pos hk.1).trans (Nat.le_mul_of_pos_left _ (Nat.pos_of_ne_zero hm))
  have hpos : 0 < √((m * 2 ^ sh : ℕ) : ℝ) := Real.sqrt_pos.2 (by positivity)
  rw [hx, hh, Int.mul_ediv_cancel_left _ two_ne_zero]
  exact .inl ⟨by positivity, roundTo_above h1 h2 (by simpa using h3) hbits⟩

/-- The reciprocal of a non-zero finite value is rounded once. -/
theorem rcpOp_onceRounded {a : Bool} {m : ℕ} {e : ℤ} (hm : m ≠ 0) :
    OnceRounded f .rne u (((valueOf (.fin a m e) : ℚ) : ℝ)⁻¹) (rcpOp f u (.fin a m e)) := by
  have h := divOp_onceRounded (f := f) (mode := .rne) (u := u) (a := false) (j := 0) (b := a) (k := e) one_ne_zero hm
  have h1 : ((valueOf (.fin false 1 0) : ℚ) : ℝ) = 1 := by simp [valueOf]
  rwa [h1, one_div] at h

/-- The reciprocal root of m, 2^k times as large, lies between the integer that the model finds and the next, and is the
former only where its square says so. -/
theorem rsqrt_bounds {m k : ℕ} (hm : m ≠ 0) :
    let r := (2 ^ (2 * k) / m).sqrt
    (r : ℝ) ≤ 2 ^ k / √m ∧ 2 ^ k / √(m : ℝ) < r + 1 ∧ (r * r * m ≠ 2 ^ (2 * k) ↔ (r : ℝ) ≠ 2 ^ k / √m) := by
  intro r
  have hm0 : (0 : ℝ) < m := by positivity
  have hs : 0 < √(m : ℝ) := Real.sqrt_pos.2 hm0
  have hsq : ∀ c : ℕ, ((c : ℝ) * √m) ^ 2 = (c * c * m : ℕ) := fun c => by
    rw [mul_pow, Real.sq_sqrt hm0.le]; push_cast; ring
  have hpow : ((2 : ℝ) ^ k) ^ 2 = (2 ^ (2 * k) : ℕ) := by push_cast; ring
  refine ⟨?_, ?_, ?_⟩
  · rw [le_div_iff₀ hs, ← sq_le_sq₀ (by positivity) (by positivity), hsq, hpow]
    exact_mod_cast (Nat.le_div_iff_mul_le (Nat.pos_of_ne_zero hm)).1 (Nat.sqrt_le _)
  · rw [div_lt_iff₀ hs, ← Nat.cast_succ, ← sq_lt_sq₀ (by positivity) (by positivity), hsq, hpow]
    exact_mod_cast (Nat.div_lt_iff_lt_mul (Nat.pos_of_ne_zero hm)).1 (Nat.lt_succ_sqrt _)
  · rw [ne_eq, ne_eq, not_iff_not, eq_div_iff hs.ne', ← sq_eq_sq₀ (a := (r : ℝ) * √m) (by positivity) (by positivity), hsq, hpow]
    exact_mod_cast Iff.rfl

/-- The reciprocal root of a positive finite value is rounded once. -/
theorem rsqOp_onceRounded {m : ℕ} {e : ℤ} (hm : m ≠ 0) :
    OnceRounded f .rne u ((√((valueOf (.fin false m e) : ℚ) : ℝ))⁻¹) (rsqOp f u (.fin false m e)) := by
  simp only [rsqOp, hm, if_false, Bool.false_eq_true, isqrt_eq_sqrt]
  obtain ⟨m', hm'⟩ : ∃ m', m' = if e % 2 = 0 then m else 2 * m := ⟨_, rfl⟩
  obtain ⟨e', he'⟩ : ∃ e', e' = if e % 2 = 0 then e else e - 1 := ⟨_, rfl⟩
  rw [← hm', ← he']
  have hm0 : m' ≠ 0 := by split at hm' <;> omega
  obtain ⟨h, rfl⟩ : ∃ h, e' = 2 * h := ⟨e' / 2, by split at he' <;> omega⟩
  obtain ⟨k, hk⟩ : ∃ k, k = f.fbits + 4 + m'.log2 := ⟨_, rfl⟩
  rw [← hk]
  obtain ⟨h1, h2, h3⟩ := rsqrt_bounds (k := k) hm0
  have hv : ((valueOf (.fin false m e) : ℚ) : ℝ) = m' * 2 ^ (2 * h) := by
    rw [valueOf_sign, if_neg Bool.false_ne_true]
    split at hm'
    next he => rw [hm', he', if_pos he]
    next he => rw [hm', he', if_neg he, zpow_sub_one₀ two_ne_zero]; push_cast; ring
  have hs : 0 < √(m' : ℝ) := Real.sqrt_pos.2 (by positivity)
  have hx : (√((valueOf (.fin false m e) : ℚ) : ℝ))⁻¹ = 2 ^ k / √(m' : ℝ) * 2 ^ (-h - k) := by
    rw [hv, sqrt_mul_two_zpow (Nat.cast_nonneg _), zpow_sub₀ two_ne_zero, zpow_neg, zpow_natCast]
    field_simp
  have hbits : 2 ^ (f.fbits + 1) ≤ (2 ^ (2 * k) / m').sqrt := by
    rw [Nat.le_sqrt, ← pow_add, Nat.le_div_iff_mul_le (Nat.pos_of_ne_zero hm0)]
    calc 2 ^ (f.fbits + 1 + (f.fbits + 1)) * m' ≤ 2 ^ (f.fbits + 1 + (f.fbits + 1)) * 2 ^ (m'.log2 + 1) :=
          Nat.mul_le_mul_left _ Nat.lt_log2_self.le
      _ = 2 ^ (f.fbits + 1 + (f.fbits + 1) + (m'.log2 + 1)) := (pow_add _ _ _).symm
      _ ≤ 2 ^ (2 * k) := Nat.pow_le_pow_right two_pos (by omega)
  rw [hx, Int.mul_ediv_cancel_left _ two_ne_zero]
  exact .inl ⟨by positivity, roundTo_above h1 h2 (by simpa using h3) hbits⟩

end

end Sys2Proof.Numbers
end

section
/-!
SUPPORT. Conversion of a float to an integer (R300).
-/
namespace Sys2Proof.Numbers

open Sys2Proof Sys2Proof.Machine Sys2Proof.Claims

/-! ## Conversion to an integer (R300) -/

section
variable {mode : Mode} {neg : Bool} {y : ℝ} {t : ℕ}

/-- An integer is a rounding of itself. -/
theorem roundsToInt_self (mode : Mode) (q : ℤ) : RoundsToInt mode (q : ℝ) q := by
  cases mode with
  | rtz => exact ⟨fun _ => ⟨le_rfl, by linarith⟩, fun _ => ⟨le_rfl, by linarith⟩⟩
  | rdn => exact ⟨le_rfl, by linarith⟩
  | rup => exact ⟨le_rfl, by linarith⟩
  | rne => simp [RoundsToInt]
  | rmm => simp [RoundsToInt]
  | odd => exact .inl rfl

/-- The sign of an integer does not change whether it is odd. -/
@[simp] theorem odd_signedInt {t : ℕ} : Odd (signedInt neg t) ↔ Odd t := by
  cases neg <;> simp [signedInt]

/-- Nor whether it is even. -/
@[simp] theorem even_signedInt {t : ℕ} : Even (signedInt neg t) ↔ Even t := by
  cases neg <;> simp [signedInt]

/-- Nor its magnitude. -/
@[simp] theorem abs_signedInt {t : ℕ} : |(signedInt neg t : ℝ)| = t := by
  cases neg <;> simp [signedInt]

/-- The distance of a signed magnitude from a signed integer is that of the magnitudes. -/
theorem abs_signedInt_sub (neg : Bool) (t : ℕ) (y : ℝ) : |(signedInt neg t : ℝ) - if neg then -y else y| = |(t : ℝ) - y| := by
  cases neg with
  | false => simp [signedInt]
  | true => simp [signedInt, abs_sub_comm, neg_add_eq_sub]

/-- What lies strictly between two integers is none. -/
theorem ne_intCast (h1 : (t : ℝ) < y) (h2 : y < t + 1) (p : ℤ) : (if neg then -y else y) ≠ (p : ℝ) := by
  have no_int : ∀ p : ℤ, y ≠ p := by
    rintro p rfl
    have : (t : ℤ) < p := by exact_mod_cast h1
    have : p < (t : ℤ) + 1 := by exact_mod_cast h2
    omega
  cases neg with
  | false => exact no_int p
  | true => exact fun h => no_int (-p) (by rw [if_pos rfl] at h; push_cast; linarith)

/-- A magnitude between two integers that the mode takes up rounds to the greater. -/
theorem roundsToInt_up (h1 : (t : ℝ) < y) (h2 : y < t + 1) (hup : RoundsUp mode neg t (y - t)) :
    RoundsToInt mode (if neg then -y else y) (signedInt neg (t + 1)) := by
  have hd : |((t + 1 : ℕ) : ℝ) - y| = 1 - (y - t) := by push_cast; rw [abs_of_pos (by linarith)]; ring
  cases mode with
  | rtz => exact hup.elim
  | rdn =>
    cases hup
    exact ⟨by simpa [signedInt] using h2.le, by simpa [signedInt] using h1⟩
  | rup =>
    cases hup
    exact ⟨by simpa [signedInt] using h2.le, by simpa [signedInt] using h1⟩
  | rne =>
    simp only [RoundsToInt, abs_signedInt_sub, hd, even_signedInt]
    refine ⟨by linarith [hup.elim le_of_lt fun h => h.1.ge], fun htie => ?_⟩
    have hodd : t % 2 = 1 := hup.elim (fun h => by linarith) And.right
    exact (Nat.odd_iff.2 hodd).add_one
  | rmm =>
    have hle : 1 / 2 ≤ y - t := hup
    have hy : |if neg then -y else y| = y := by
      rw [apply_ite abs, abs_neg, ite_self, abs_of_pos (by linarith [t.cast_nonneg (α := ℝ)])]
    simp only [RoundsToInt, abs_signedInt_sub, hd, abs_signedInt, hy]
    exact ⟨by linarith, fun _ => by exact_mod_cast h2⟩
  | odd =>
    have heven : t % 2 = 0 := hup
    simp only [RoundsToInt, abs_signedInt_sub, hd, odd_signedInt]
    exact .inr ⟨(Nat.even_iff.2 heven).add_one, by linarith, ne_intCast h1 h2⟩

/-- A magnitude between two integers that the mode does not take up rounds to the lesser. -/
theorem roundsToInt_down (h1 : (t : ℝ) < y) (h2 : y < t + 1) (hup : ¬ RoundsUp mode neg t (y - t)) :
    RoundsToInt mode (if neg then -y else y) (signedInt neg t) := by
  have hd : |(t : ℝ) - y| = y - t := by rw [abs_of_neg (by linarith)]; ring
  have ht := t.cast_nonneg (α := ℝ)
  cases mode with
  | rtz =>
    cases neg with
    | false =>
      refine ⟨fun _ => ?_, fun h => absurd h (not_lt.2 (ht.trans h1.le))⟩
      exact ⟨by simpa [signedInt] using h1.le, by simpa [signedInt] using h2⟩
    | true =>
      refine ⟨fun h => absurd (neg_nonneg.1 h) (not_le.2 (ht.trans_lt h1)), fun _ => ?_⟩
      exact ⟨by simpa [signedInt] using h1.le, by simp [signedInt]; linarith⟩
  | rdn =>
    cases neg <;> [skip; exact absurd rfl hup]
    exact ⟨by simpa [signedInt] using h1.le, by simpa [signedInt] using h2⟩
  | rup =>
    cases neg <;> [exact absurd rfl hup; skip]
    exact ⟨by simpa [signedInt] using h1.le, by simp [signedInt]; linarith⟩
  | rne =>
    obtain ⟨hle, hodd⟩ := not_or.1 hup
    simp only [RoundsToInt, abs_signedInt_sub, hd, even_signedInt]
    exact ⟨not_lt.1 hle, fun htie => Nat.not_odd_iff_even.1 fun h => hodd ⟨htie, Nat.odd_iff.1 h⟩⟩
  | rmm =>
    have hlt : y - t < 1 / 2 := not_le.1 hup
    simp only [RoundsToInt, abs_signedInt_sub, hd]
    exact ⟨hlt.le, fun htie => absurd htie hlt.ne⟩
  | odd =>
    simp only [RoundsToInt, abs_signedInt_sub, hd, odd_signedInt]
    exact .inr ⟨Nat.not_even_iff_odd.1 fun h => hup (Nat.even_iff.1 h), by linarith, ne_intCast h1 h2⟩

/-- The rounded magnitude with its sign is the rounding of the signed value. -/
theorem roundsToInt_roundNat (mode : Mode) (neg : Bool) (h0 : 0 ≤ y) :
    RoundsToInt mode (if neg then -y else y) (signedInt neg (roundNat mode neg y)) := by
  rcases (Nat.floor_le h0).eq_or_lt with he | hlt
  · have hq : (if neg then -y else y) = (signedInt neg (roundNat mode neg y) : ℝ) := by
      rw [← he, roundNat_natCast]
      cases neg <;> simp [signedInt]
    rw [hq]
    exact roundsToInt_self mode _
  · have hhi := Nat.lt_floor_add_one y
    rw [roundNat_between hlt hhi]
    by_cases hup : RoundsUp mode neg ⌊y⌋₊ (y - ⌊y⌋₊)
    · rw [if_pos hup]
      exact roundsToInt_up hlt hhi hup
    · rw [if_neg hup]
      exact roundsToInt_down hlt hhi hup

end

/-- A finite value becomes the integer to which it rounds, or the end of the range nearer to it with NV. -/
theorem toIntOp_rounds (mode : Mode) (a : Bool) (m : ℕ) (e : ℤ) (w : ℕ) :
    ∃ q, RoundsToInt mode ((valueOf (.fin a m e) : ℚ) : ℝ) q ∧
      (q < -2 ^ (w - 1) → toIntOp w mode (.fin a m e) = ((-2 ^ (w - 1) % 2 ^ w : ℤ).toNat, { nv := true })) ∧
      (2 ^ (w - 1) - 1 < q → toIntOp w mode (.fin a m e) = (((2 ^ (w - 1) - 1) % 2 ^ w : ℤ).toNat, { nv := true })) ∧
      (-2 ^ (w - 1) ≤ q → q ≤ 2 ^ (w - 1) - 1 → toIntOp w mode (.fin a m e) =
        ((q % 2 ^ w).toNat, { nx := decide ((q : ℚ) ≠ valueOf (.fin a m e)) })) := by
  obtain ⟨y, hy⟩ : ∃ y : ℝ, y = m * 2 ^ e := ⟨_, rfl⟩
  have he : (0 : ℝ) < 2 ^ e := by positivity
  have hv : ((valueOf (.fin a m e) : ℚ) : ℝ) = if a then -y else y := by rw [hy, valueOf_sign]
  obtain ⟨hq, hnx⟩ := shiftRound_roundNat (mode := mode) (neg := a) (m := m) (sh := -e) (sticky := false) (y := y)
    (by rw [hy, neg_neg]) (by rw [hy, neg_neg]; linarith) (by simp [hy]) (by simp)
  have hnx' : (shiftRound mode a m (-e) false).2 = decide (((signedInt a (roundNat mode a y) : ℤ) : ℚ) ≠ valueOf (.fin a m e)) := by
    rw [Bool.eq_iff_iff, hnx, decide_eq_true_iff, ne_eq, ne_eq, not_iff_not, ← Rat.cast_inj (α := ℝ), hv, Rat.cast_intCast]
    cases a <;> simp [signedInt]
  refine ⟨signedInt a (roundNat mode a y), ?_, fun hlo => ?_, fun hhi => ?_, fun hlo hhi => ?_⟩
  · rw [hv]
    exact roundsToInt_roundNat mode a (by rw [hy]; positivity)
  · simp only [toIntOp, hq, if_pos hlo]
  · have h2 : (0 : ℤ) < 2 ^ (w - 1) := by positivity
    simp only [toIntOp, hq, if_neg (show ¬ signedInt a (roundNat mode a y) < -2 ^ (w - 1) by omega), if_pos hhi]
  · simp only [toIntOp, hq, if_neg (not_lt.2 hlo), if_neg (not_lt.2 hhi), hnx']

/-- The ends of the range of a w-bit integer, as codes. -/
theorem range_ends {w : ℕ} (hw : 1 ≤ w) :
    ((-2 ^ (w - 1) : ℤ) % 2 ^ w).toNat = 2 ^ (w - 1) ∧ ((2 ^ (w - 1) - 1 : ℤ) % 2 ^ w).toNat = 2 ^ (w - 1) - 1 := by
  obtain ⟨v, rfl⟩ := Nat.exists_eq_add_of_le' hw
  have hp : 0 < 2 ^ v := Nat.two_pow_pos v
  simp only [Nat.add_sub_cancel, pow_succ]
  have hc : ((2 : ℤ) ^ v) = ((2 ^ v : ℕ) : ℤ) := by push_cast; rfl
  rw [hc]
  generalize 2 ^ v = p at *
  constructor
  · have : (-(p : ℤ)) % (p * 2) = p := by
      rw [← Int.add_mul_emod_self_left (-(p : ℤ)) (p * 2) 1, Int.emod_eq_of_lt (by omega) (by omega)]
      ring
    omega
  · rw [Int.emod_eq_of_lt (by omega) (by omega)]
    omega

end Sys2Proof.Numbers
end

section
/-!
SUPPORT. Rounding a value that is known between two bounds (R27, R293).
-/
namespace Sys2Proof.Numbers

open Sys2Proof Sys2Proof.Machine Sys2Proof.Claims

/-! ## Values that no format represents, between two bounds (R27, R293) -/

section
variable {f : Fmt} {u neg : Bool} {x : ℝ}

/-- A grid point at or below x·2^a, with the next one above it. -/
theorem toGrid_bounds (n : ℕ) (a b : ℤ) :
    (toGrid n a b : ℝ) * 2 ^ b ≤ n * 2 ^ a ∧ (n : ℝ) * 2 ^ a < (toGrid n a b + 1) * 2 ^ b := by
  have hb : (0 : ℝ) < 2 ^ b := by positivity
  unfold toGrid
  split
  next h =>
    have he : (n : ℝ) * 2 ^ a = ((n * 2 ^ (a - b).toNat : ℕ) : ℝ) * 2 ^ b := by
      push_cast
      rw [mul_assoc, ← zpow_natCast, ← zpow_add₀ two_ne_zero, Int.toNat_of_nonneg (by omega), sub_add_cancel]
    rw [he]
    exact ⟨le_rfl, mul_lt_mul_of_pos_right (by linarith) hb⟩
  next h =>
    obtain ⟨h1, h2, -⟩ := natDiv_bounds (a := n) (n := 2 ^ (b - a).toNat) (Nat.two_pow_pos _).ne'
    have he : (n : ℝ) * 2 ^ a = n / (2 ^ (b - a).toNat : ℕ) * 2 ^ b := by
      push_cast
      rw [← zpow_natCast, Int.toNat_of_nonneg (by omega), zpow_sub₀ two_ne_zero]
      field_simp
    rw [he]
    exact ⟨mul_le_mul_of_nonneg_right h1 hb.le, mul_lt_mul_of_pos_right h2 hb⟩

/-- The search finds the integer below a value that lies between its bounds. -/
theorem greatestBelow_spec {below : ℕ → Bool} {y : ℝ} (hb : ∀ g, below g = true ↔ y < g) :
    ∀ {t lo hi : ℕ}, (lo : ℝ) ≤ y → y < hi + 1 → hi < lo + 2 ^ t →
      (greatestBelow below t lo hi : ℝ) ≤ y ∧ y < greatestBelow below t lo hi + 1 ∧ lo ≤ greatestBelow below t lo hi
  | 0, lo, hi, h1, h2, hd => by
    have hle : ((hi : ℕ) : ℝ) ≤ lo := by exact_mod_cast (by simpa using hd : hi ≤ lo)
    exact ⟨h1, by rw [greatestBelow]; linarith, le_rfl⟩
  | t + 1, lo, hi, h1, h2, hd => by
    rw [pow_succ] at hd
    rw [greatestBelow]
    split
    next h =>
      have : ((hi : ℕ) : ℝ) ≤ lo := by exact_mod_cast h
      exact ⟨h1, by linarith, le_rfl⟩
    next h =>
      simp only
      split
      next hmid =>
        have hlt := (hb _).1 hmid
        refine greatestBelow_spec hb h1 ?_ (by omega)
        rw [Nat.cast_sub (by omega)]
        simpa using hlt
      next hmid =>
        obtain ⟨h3, h4, h5⟩ := greatestBelow_spec hb (not_lt.1 (mt (hb _).2 hmid)) h2 (t := t) (by omega)
        exact ⟨h3, h4, by omega⟩

/-- A value between lo·2^e and hi·2^e that lies on no grid point is rounded once. -/
theorem roundBetween_rounded {lo hi : ℕ} {e : ℤ} {below : ℕ → ℤ → Bool} (hlo : lo ≠ 0) (h1 : lo * (2 : ℝ) ^ e ≤ x)
    (h2 : x ≤ hi * 2 ^ e) (hb : ∀ g q, below g q = true ↔ x < g * (2 : ℝ) ^ q) (hne : ∀ (g : ℕ) (q : ℤ), x ≠ g * 2 ^ q) :
    Rounded f .rne u neg x (roundBetween f u neg lo hi e below) := by
  obtain ⟨q, hq⟩ : ∃ q : ℤ, q = e + lo.log2 - f.fbits - 2 := ⟨_, rfl⟩
  have hpos : (0 : ℝ) < 2 ^ q := by positivity
  obtain ⟨ha, ha'⟩ := toGrid_bounds lo e q
  obtain ⟨-, hb'⟩ := toGrid_bounds hi e q
  have hbits : 2 ^ (f.fbits + 2) ≤ toGrid lo e q := by
    have hlead : (2 : ℝ) ^ (e + lo.log2) < (toGrid lo e q + 1) * 2 ^ q :=
      (leading_bit hlo le_rfl (mul_zpow_lt_succ lo e)).1.trans_lt ha'
    have he : (2 : ℝ) ^ (e + lo.log2) = ((2 ^ (f.fbits + 2) : ℕ) : ℝ) * 2 ^ q := by
      push_cast
      rw [← zpow_natCast, ← zpow_add₀ two_ne_zero, hq]
      congr 1
      push_cast
      ring
    rw [he] at hlead
    exact Nat.lt_succ_iff.1 (by exact_mod_cast lt_of_mul_lt_mul_right hlead hpos.le)
  have hbelow : ∀ g : ℕ, below g q = true ↔ x / 2 ^ q < g := fun g => by rw [hb, div_lt_iff₀ hpos]
  have hfuel : toGrid hi e q < toGrid lo e q + 2 ^ ((toGrid hi e q - toGrid lo e q).log2 + 2) := by
    have h := Nat.lt_log2_self (n := toGrid hi e q - toGrid lo e q)
    rw [pow_succ] at h ⊢
    rw [pow_succ]
    omega
  obtain ⟨h3, h4, h5⟩ := greatestBelow_spec hbelow (by rw [le_div_iff₀ hpos]; exact ha.trans h1)
    (by rw [div_lt_iff₀ hpos]; exact h2.trans_lt hb') hfuel
  have hx : x = x / 2 ^ q * 2 ^ q := by rw [div_mul_cancel₀ _ hpos.ne']
  simp only [roundBetween, ← hq]
  nth_rewrite 1 [hx]
  refine roundTo_above h3 h4 ?_ ((Nat.pow_le_pow_right two_pos (by omega)).trans (hbits.trans h5))
  simp only [true_iff]
  exact fun h => hne _ q (by rw [h, div_mul_cancel₀ _ hpos.ne'])

/-! ## Values beyond the range of every format -/

/-- A positive magnitude lies in some binade. -/
theorem exists_binade (f : Fmt) (hx : 0 < x) :
    ∃ (j : ℕ) (big : ℤ), (2 : ℝ) ^ big ≤ x ∧ x < 2 ^ (big + 1) ∧ max big f.emin = f.emin + j ∧
      InBinade f j (x / 2 ^ (f.emin - f.fbits + j)) := by
  obtain ⟨big, h1, h2⟩ := exists_mem_Ico_zpow hx one_lt_two
  obtain ⟨j, hj⟩ : ∃ j : ℕ, f.emin + j = max big f.emin := Int.le.dest (le_max_right _ _)
  refine ⟨j, big, h1, h2, hj.symm, inBinade_of_lt hx.le h2 (by omega) ?_⟩
  rcases le_total big f.emin with h | h
  · right; omega
  · exact .inl ⟨h1, by omega⟩

/-- What is 2^4096 or more overflows to the nearest. -/
theorem rounded_huge (hx : (2 : ℝ) ^ 4096 ≤ x) : Rounded f .rne u false x (roundTo f .rne u false 1 5000 true) := by
  obtain ⟨j, big, h1, h2, hj, hin⟩ := exists_binade f ((pow_pos two_pos 4096).trans_le hx)
  have hbig : 4096 ≤ big := by
    have : (2 : ℝ) ^ (4096 : ℤ) < 2 ^ (big + 1) := by exact_mod_cast hx.trans_lt h2
    have := (zpow_lt_zpow_iff_right₀ one_lt_two).1 this
    omega
  have hunit : (0 : ℝ) < 2 ^ (f.emin - f.fbits + (j : ℤ)) := by positivity
  have hto := roundsTo_roundNat (mode := .rne) (neg := false) hin
  rw [div_mul_cancel₀ _ hunit.ne'] at hto
  have hbound : f.emin + 2048 ≤ 4096 ∧ f.maxCode < 2048 * 2 ^ f.fbits := by cases f <;> decide
  have hover : f.maxCode < j * 2 ^ f.fbits + roundNat .rne false (x / 2 ^ (f.emin - f.fbits + j)) :=
    hbound.2.trans_le ((Nat.mul_le_mul_right _ (by omega)).trans (Nat.le_add_right _ _))
  have heval : roundTo f .rne u false 1 5000 true = (overflowCode f .rne false, { of := true, nx := true }) := by
    cases f <;> cases u <;> decide +kernel
  refine ⟨_, hto, fun h => absurd hover (not_lt.2 h), fun _ => ?_⟩
  rw [heval, overflowCode_eq]

/-- Less than one half rounds to zero. -/
theorem roundNat_rne_small {y : ℝ} (h0 : 0 < y) (h1 : y < 1 / 2) : roundNat .rne neg y = 0 := by
  rw [roundNat_between (t := 0) (by simpa using h0) (by push_cast; linarith), if_neg]
  rintro (h | ⟨h, -⟩) <;> push_cast at h <;> linarith

/-- What is positive and 2^(−4096) or less underflows to zero. -/
theorem rounded_minute (h0 : 0 < x) (hx : x ≤ (2 : ℝ) ^ (-4096 : ℤ)) :
    Rounded f .rne u false x (roundTo f .rne u false 1 (-5000) true) := by
  have hbound : -4096 + f.fbits + 2 ≤ f.emin := by cases f <;> decide
  obtain ⟨j, big, h1, h2, hj, hin⟩ := exists_binade f h0
  have hbig : big ≤ -4096 := (zpow_le_zpow_iff_right₀ one_lt_two).1 (h1.trans hx)
  obtain rfl : j = 0 := by omega
  have hunit : (0 : ℝ) < 2 ^ (f.emin - f.fbits + ((0 : ℕ) : ℤ)) := by positivity
  -- x is less than half the smallest subnormal
  have hy : x / 2 ^ (f.emin - f.fbits + ((0 : ℕ) : ℤ)) < 1 / 2 := by
    have hz : (2 : ℝ) ^ (-4096 : ℤ) < 1 / 2 * 2 ^ (f.emin - f.fbits + ((0 : ℕ) : ℤ)) := by
      rw [one_div, ← zpow_neg_one, ← zpow_add₀ two_ne_zero]
      exact zpow_lt_zpow_right₀ one_lt_two (by push_cast; omega)
    rw [div_lt_iff₀ hunit]
    exact hx.trans_lt hz
  have hzero := roundNat_rne_small (neg := false) (div_pos h0 hunit) hy
  have hto := roundsTo_roundNat (mode := .rne) (neg := false) hin
  rw [div_mul_cancel₀ _ hunit.ne', hzero] at hto
  have hval : codeVal f (0 * 2 ^ f.fbits + 0) = 0 := by
    rw [codeVal_grid f (.inr rfl) (Nat.zero_le _)]
    simp
  have htiny : Tiny f .rne false x := by
    refine (tiny_iff h1 h2).2 ⟨by omega, ?_⟩
    have hstep := ((inBinade_of_lt (f := f) (j := 0) h0.le h2 le_rfl (.inr rfl)).roundNat_mem .rne false).2
    exact hstep.trans_lt (Nat.pow_lt_pow_right one_lt_two (by omega))
  have heval : roundTo f .rne u false 1 (-5000) true = (0, { nx := true, uf := true }) := by
    cases f <;> cases u <;> decide +kernel
  refine ⟨_, hto, fun _ => ⟨true, true, ?_, ?_, ?_⟩, fun h => absurd h (by simp)⟩
  · rw [heval]
    simp [Fmt.sign]
  · rw [hval]
    simpa using h0.ne
  · simpa using htiny

end

end Sys2Proof.Numbers
end

section
/-!
SUPPORT. The series of artanh and exp in fixed point (R293).
-/
namespace Sys2Proof.Numbers

open Sys2Proof Sys2Proof.Machine Sys2Proof.Claims Finset

/-! ## The series in fixed point (R293) -/

/-- What the model's fixed-point numbers are scaled by, written with exponents that evaluate. -/
theorem scale_eq : (2 : ℝ) ^ seriesBits = (2 ^ 160) ^ 2 := pow_mul 2 160 2

/-- A quotient of naturals is within one of the integer quotient. -/
theorem natDiv_near {a n : ℕ} (hn : n ≠ 0) : ((a / n : ℕ) : ℝ) ≤ a / n ∧ (a : ℝ) / n ≤ (a / n : ℕ) + 1 :=
  ⟨(natDiv_bounds hn).1, (natDiv_bounds hn).2.1.le⟩

/-- The fixed-point sum of P·w^i/(k + 2i) for w = (a/b)², each term cut off, from a power known to within δ: it is at most
the sum, and less by at most one more unit a term than δ. -/
theorem atanhSeries_bounds {a b : ℕ} (hb : b ≠ 0) (hab : a ≤ b) : ∀ {t pow k acc δ : ℕ} {P : ℝ}, k ≠ 0 → (pow : ℝ) ≤ P → P ≤ pow + δ →
    (atanhSeries a b t pow k acc : ℝ) ≤ acc + ∑ i ∈ range t, P * ((a / b : ℝ) ^ 2) ^ i / (k + 2 * i) ∧
    (acc : ℝ) + ∑ i ∈ range t, P * ((a / b : ℝ) ^ 2) ^ i / (k + 2 * i) ≤ atanhSeries a b t pow k acc + t * (δ + t)
  | 0, pow, k, acc, δ, P, hk, h1, h2 => by simp [atanhSeries]
  | t + 1, pow, k, acc, δ, P, hk, h1, h2 => by
    have hw : ((a / b : ℝ) ^ 2) ≤ 1 := by
      rw [sq_le_one_iff₀ (by positivity), div_le_one (by positivity)]
      exact_mod_cast hab
    have hpow0 := pow.cast_nonneg (α := ℝ)
    have hδ := δ.cast_nonneg (α := ℝ)
    have hk1 : (1 : ℝ) ≤ k := by exact_mod_cast Nat.one_le_iff_ne_zero.2 hk
    obtain ⟨hp1, hp2⟩ := natDiv_near (a := pow * a * a) (n := b * b) (Nat.mul_ne_zero hb hb)
    have hpw : ((pow * a * a : ℕ) : ℝ) / (b * b : ℕ) = pow * (a / b : ℝ) ^ 2 := by push_cast; field_simp
    rw [hpw] at hp1 hp2
    obtain ⟨ht1, ht2⟩ := natDiv_near (a := pow) hk
    have hPk : P / k ≤ (pow / k : ℕ) + 1 + δ := by
      have : P / k ≤ (pow : ℝ) / k + δ / k := by rw [← add_div]; gcongr
      have : (δ : ℝ) / k ≤ δ := div_le_self hδ hk1
      linarith
    have hkP : ((pow / k : ℕ) : ℝ) ≤ P / k := ht1.trans (by gcongr)
    obtain ⟨ih1, ih2⟩ := atanhSeries_bounds hb hab (t := t) (pow := pow * a * a / (b * b)) (k := k + 2) (acc := acc + pow / k)
      (δ := δ + 1) (P := P * (a / b : ℝ) ^ 2) (by omega) (hp1.trans (by gcongr)) (by
        have := mul_le_mul_of_nonneg_right h2 (by positivity : (0 : ℝ) ≤ (a / b : ℝ) ^ 2)
        have := mul_le_mul_of_nonneg_left hw hδ
        push_cast
        linarith)
    have hsum : ∑ i ∈ range (t + 1), P * ((a / b : ℝ) ^ 2) ^ i / (k + 2 * i) =
        P / k + ∑ i ∈ range t, P * (a / b : ℝ) ^ 2 * ((a / b : ℝ) ^ 2) ^ i / ((k + 2 : ℕ) + 2 * i) := by
      rw [sum_range_succ', add_comm]
      congr 1
      · simp
      · refine sum_congr rfl fun i _ => ?_
        push_cast
        ring
    rw [hsum, atanhSeries]
    push_cast at ih1 ih2 ⊢
    have ht0 := t.cast_nonneg (α := ℝ)
    constructor
    · linarith
    · nlinarith

/-- The model's artanh (a/b) for a/b ≤ 1/3 is at most the exact one, and less by less than 2^14 units. -/
theorem atanhFix_bounds {a b : ℕ} (hb : b ≠ 0) (hab : 3 * a ≤ b) :
    (atanhFix a b : ℝ) ≤ 2 ^ seriesBits * (1 / 2 * Real.log ((1 + a / b) / (1 - a / b))) ∧
    2 ^ seriesBits * (1 / 2 * Real.log ((1 + a / b) / (1 - a / b))) ≤ atanhFix a b + 2 ^ 14 := by
  have hz0 : (0 : ℝ) ≤ a / b := by positivity
  have hz : (a / b : ℝ) ≤ 1 / 3 := by
    rw [div_le_div_iff₀ (by positivity) (by norm_num)]
    exact_mod_cast (by omega : a * 3 ≤ 1 * b)
  obtain ⟨hp1, hp2⟩ := natDiv_near (a := a * 2 ^ seriesBits) hb
  have hP : ((a * 2 ^ seriesBits : ℕ) : ℝ) / b = 2 ^ seriesBits * (a / b) := by push_cast; ring
  rw [hP] at hp1 hp2
  obtain ⟨h1, h2⟩ := atanhSeries_bounds hb (by omega : a ≤ b) (t := 110) (acc := 0) (δ := 1) one_ne_zero hp1 (by simpa using hp2)
  have hsum : ∑ i ∈ range 110, (2 : ℝ) ^ seriesBits * (a / b) * ((a / b : ℝ) ^ 2) ^ i / ((1 : ℕ) + 2 * i) =
      2 ^ seriesBits * ∑ i ∈ range 110, (a / b : ℝ) ^ (2 * i + 1) / (2 * i + 1) := by
    rw [mul_sum]
    refine sum_congr rfl fun i _ => ?_
    rw [← pow_mul, pow_succ]
    push_cast
    ring
  rw [hsum, Nat.cast_zero, zero_add] at h1 h2
  have hlo := Real.sum_range_le_log_div hz0 (by linarith) 110
  have hhi := Real.log_div_le_sum_range_add hz0 (by linarith) 110
  have htail : (2 : ℝ) ^ seriesBits * ((a / b : ℝ) ^ (2 * 110 + 1) / (1 - (a / b) ^ 2)) ≤ 1 := by
    have hnum : (a / b : ℝ) ^ (2 * 110 + 1) ≤ (1 / 3) ^ (2 * 110 + 1) := pow_le_pow_left₀ hz0 hz _
    have hden : (8 / 9 : ℝ) ≤ 1 - (a / b) ^ 2 := by nlinarith
    calc (2 : ℝ) ^ seriesBits * ((a / b : ℝ) ^ (2 * 110 + 1) / (1 - (a / b) ^ 2))
        ≤ (2 ^ 160) ^ 2 * ((1 / 3) ^ (2 * 110 + 1) / (8 / 9)) := by rw [scale_eq]; gcongr
      _ ≤ 1 := by norm_num
  have hA : (0 : ℝ) ≤ 2 ^ seriesBits := by positivity
  have hlo' := mul_le_mul_of_nonneg_left hlo hA
  have hhi' := mul_le_mul_of_nonneg_left hhi hA
  rw [mul_add] at hhi'
  simp only [atanhFix]
  constructor
  · linarith
  · norm_num at h2 ⊢
    linarith

/-- The model's ln 2 is at most the exact one, and less by less than 2^15 units. -/
theorem ln2Fix_bounds : (ln2Fix : ℝ) ≤ 2 ^ seriesBits * Real.log 2 ∧ 2 ^ seriesBits * Real.log 2 ≤ ln2Fix + 2 ^ 15 := by
  obtain ⟨h1, h2⟩ := atanhFix_bounds (a := 1) (b := 3) (by decide) (by decide)
  have hlog : (1 + ((1 : ℕ) : ℝ) / (3 : ℕ)) / (1 - ((1 : ℕ) : ℝ) / (3 : ℕ)) = 2 := by norm_num
  rw [hlog] at h1 h2
  rw [ln2Fix]
  push_cast
  constructor <;> linarith

/-- Twice the model's artanh of (m − 2^k)/(m + 2^k) is at most ln (m/2^k), and less by less than 2^15 units. -/
theorem lnFix_bounds {m k : ℕ} (hlo : 2 ^ k ≤ m) (hhi : m < 2 ^ (k + 1)) :
    ((2 * atanhFix (m - 2 ^ k) (m + 2 ^ k) : ℕ) : ℝ) ≤ 2 ^ seriesBits * Real.log (m / 2 ^ k) ∧
    2 ^ seriesBits * Real.log (m / 2 ^ k) ≤ (2 * atanhFix (m - 2 ^ k) (m + 2 ^ k) : ℕ) + 2 ^ 15 := by
  have hp : 0 < 2 ^ k := Nat.two_pow_pos k
  rw [pow_succ] at hhi
  obtain ⟨h1, h2⟩ := atanhFix_bounds (a := m - 2 ^ k) (b := m + 2 ^ k) (by omega) (by omega)
  have hlog : (1 + ((m - 2 ^ k : ℕ) : ℝ) / (m + 2 ^ k : ℕ)) / (1 - ((m - 2 ^ k : ℕ) : ℝ) / (m + 2 ^ k : ℕ)) = m / 2 ^ k := by
    have hm : (0 : ℝ) < m + 2 ^ k := by positivity
    rw [Nat.cast_sub hlo]
    push_cast
    rw [one_add_div hm.ne', one_sub_div hm.ne', div_div_div_cancel_right₀ hm.ne']
    rw [div_eq_div_iff (by ring_nf; positivity) (by positivity)]
    ring
  rw [hlog] at h1 h2
  push_cast
  constructor <;> linarith

/-- The fixed-point sum of P·w^i/(k(k+1)…(k+i−1)) for w = x/2^seriesBits, each term cut off, from a term known to within δ:
it is at most the sum, and less by at most one more unit a term than δ. -/
theorem expSeries_bounds {x : ℕ} (hx : x ≤ 2 ^ seriesBits) : ∀ {t term k acc δ : ℕ} {P : ℝ}, k ≠ 0 → (term : ℝ) ≤ P → P ≤ term + δ →
    (expSeries x t term k acc : ℝ) ≤ acc + ∑ i ∈ range t, P * (x / 2 ^ seriesBits : ℝ) ^ i / k.ascFactorial i ∧
    (acc : ℝ) + ∑ i ∈ range t, P * (x / 2 ^ seriesBits : ℝ) ^ i / k.ascFactorial i ≤ expSeries x t term k acc + t * (δ + t)
  | 0, term, k, acc, δ, P, hk, h1, h2 => by simp [expSeries]
  | t + 1, term, k, acc, δ, P, hk, h1, h2 => by
    have hw0 : (0 : ℝ) ≤ x / 2 ^ seriesBits := by positivity
    have hw : (x / 2 ^ seriesBits : ℝ) / k ≤ 1 := by
      have hk1 : (1 : ℝ) ≤ k := by exact_mod_cast Nat.one_le_iff_ne_zero.2 hk
      refine (div_le_self hw0 hk1).trans ?_
      rw [div_le_one (by positivity)]
      exact_mod_cast hx
    have hδ := δ.cast_nonneg (α := ℝ)
    obtain ⟨hp1, hp2⟩ := natDiv_near (a := term * x) (n := 2 ^ seriesBits * k) (Nat.mul_ne_zero (Nat.two_pow_pos _).ne' hk)
    have hpw : ((term * x : ℕ) : ℝ) / (2 ^ seriesBits * k : ℕ) = term * (x / 2 ^ seriesBits / k) := by push_cast; field_simp
    rw [hpw] at hp1 hp2
    obtain ⟨ih1, ih2⟩ := expSeries_bounds hx (t := t) (term := term * x / (2 ^ seriesBits * k)) (k := k + 1) (acc := acc + term)
      (δ := δ + 1) (P := P * (x / 2 ^ seriesBits / k)) (by omega) (hp1.trans (by gcongr)) (by
        have := mul_le_mul_of_nonneg_right h2 (by positivity : (0 : ℝ) ≤ x / 2 ^ seriesBits / k)
        have := mul_le_mul_of_nonneg_left hw hδ
        push_cast
        linarith)
    have hsum : ∑ i ∈ range (t + 1), P * (x / 2 ^ seriesBits : ℝ) ^ i / k.ascFactorial i =
        P + ∑ i ∈ range t, P * (x / 2 ^ seriesBits / k) * (x / 2 ^ seriesBits : ℝ) ^ i / (k + 1).ascFactorial i := by
      rw [sum_range_succ', add_comm]
      congr 1
      · simp
      · refine sum_congr rfl fun i _ => ?_
        have hk' : (k : ℝ) ≠ 0 := by exact_mod_cast hk
        have ha : ((k + 1).ascFactorial i : ℝ) ≠ 0 := by exact_mod_cast (Nat.ascFactorial_pos _ _).ne'
        have hs : (k.ascFactorial (i + 1) : ℝ) = k * (k + 1).ascFactorial i := by
          rw [Nat.ascFactorial_succ, ← Nat.succ_ascFactorial]; push_cast; rfl
        rw [hs, pow_succ]
        field_simp
    rw [hsum, expSeries]
    push_cast at ih1 ih2 ⊢
    have ht0 := t.cast_nonneg (α := ℝ)
    constructor
    · linarith
    · nlinarith

/-- The model's exponential of a fraction is at most the exact one, and less by less than 2^13 units. -/
theorem expFix_bounds {x : ℕ} (hx : x ≤ 2 ^ seriesBits) :
    (expFix x : ℝ) ≤ 2 ^ seriesBits * Real.exp (x / 2 ^ seriesBits) ∧
    2 ^ seriesBits * Real.exp (x / 2 ^ seriesBits) ≤ expFix x + 2 ^ 13 := by
  have hw0 : (0 : ℝ) ≤ x / 2 ^ seriesBits := by positivity
  have hw : (x / 2 ^ seriesBits : ℝ) ≤ 1 := by
    rw [div_le_one (by positivity)]
    exact_mod_cast hx
  obtain ⟨h1, h2⟩ := expSeries_bounds hx (t := 90) (term := 2 ^ seriesBits) (k := 1) (acc := 0) (δ := 0) (P := 2 ^ seriesBits)
    one_ne_zero (by push_cast; rfl) (by push_cast; simp)
  have hsum : ∑ i ∈ range 90, (2 : ℝ) ^ seriesBits * (x / 2 ^ seriesBits : ℝ) ^ i / Nat.ascFactorial 1 i =
      2 ^ seriesBits * ∑ i ∈ range 90, (x / 2 ^ seriesBits : ℝ) ^ i / i.factorial := by
    simp only [Nat.one_ascFactorial, mul_sum, mul_div_assoc]
  rw [hsum, Nat.cast_zero, zero_add] at h1 h2
  have hlo := Real.sum_le_exp_of_nonneg hw0 90
  have hhi := Real.exp_bound' hw0 hw (n := 90) (by decide)
  have htail : (2 : ℝ) ^ seriesBits * ((x / 2 ^ seriesBits : ℝ) ^ 90 * ((90 : ℕ) + 1) / (Nat.factorial 90 * (90 : ℕ))) ≤ 1 := by
    calc (2 : ℝ) ^ seriesBits * ((x / 2 ^ seriesBits : ℝ) ^ 90 * ((90 : ℕ) + 1) / (Nat.factorial 90 * (90 : ℕ)))
        ≤ 2 ^ seriesBits * (1 * ((90 : ℕ) + 1) / (Nat.factorial 90 * (90 : ℕ))) := by gcongr; exact pow_le_one₀ hw0 hw
      _ ≤ 1 := by rw [scale_eq]; norm_num [Nat.factorial]
  have hA : (0 : ℝ) ≤ 2 ^ seriesBits := by positivity
  have hlo' := mul_le_mul_of_nonneg_left hlo hA
  have hhi' := mul_le_mul_of_nonneg_left hhi hA
  rw [mul_add] at hhi'
  simp only [expFix]
  constructor
  · linarith
  · norm_num at h2 ⊢
    linarith

end Sys2Proof.Numbers
end

section
/-!
SUPPORT. 2^a is rounded once (R293).
-/
namespace Sys2Proof.Numbers

open Sys2Proof Sys2Proof.Machine Sys2Proof.Claims

section
variable {f : Fmt} {u : Bool}

/-! ## 2^a (R293) -/

/-- A power of a natural that is a power of two is one of a power of two. -/
theorem eq_two_pow_of_pow {g D n : ℕ} (hD : D ≠ 0) (h : g ^ D = 2 ^ n) : ∃ s, g = 2 ^ s ∧ s * D = n := by
  obtain ⟨s, -, rfl⟩ := (Nat.dvd_prime_pow Nat.prime_two).1 (h ▸ dvd_pow_self g hD)
  exact ⟨s, rfl, Nat.pow_right_injective le_rfl (show 2 ^ (s * D) = 2 ^ n by rw [pow_mul, h])⟩

/-- Raised to the power 2^d, 2^(v·2^(−d)) is 2^(v − q·2^d) times as large as 2^q. -/
theorem exp2_pow (v : ℤ) (d : ℕ) (q : ℤ) :
    ((2 : ℝ) ^ ((v : ℝ) / 2 ^ d)) ^ 2 ^ d = 2 ^ (v - q * 2 ^ d) * (2 ^ q) ^ 2 ^ d := by
  have hD : ((2 ^ d : ℕ) : ℝ) ≠ 0 := by positivity
  have hq : ((2 : ℝ) ^ q) ^ 2 ^ d = 2 ^ (q * 2 ^ d) := by
    rw [zpow_mul, ← zpow_natCast]
    push_cast
    rfl
  rw [hq, ← zpow_add₀ two_ne_zero, sub_add_cancel, ← Real.rpow_mul_natCast two_pos.le, ← Real.rpow_intCast]
  push_cast at hD ⊢
  rw [div_mul_cancel₀ _ hD]

/-- The model's comparison of 2^(v·2^(−d)) with a grid point is exact. -/
theorem exp2Below_iff (v : ℤ) (d g : ℕ) (q : ℤ) : exp2Below v d g q = true ↔ (2 : ℝ) ^ ((v : ℝ) / 2 ^ d) < g * 2 ^ q := by
  rw [← pow_lt_pow_iff_left₀ (by positivity) (by positivity) (Nat.two_pow_pos d).ne', exp2_pow v d q, mul_pow,
    mul_lt_mul_iff_left₀ (by positivity)]
  unfold exp2Below
  simp only
  generalize v - q * 2 ^ d = n
  split
  next hn =>
    have h1 : (2 : ℝ) ^ n < 1 := zpow_lt_one_of_neg₀ one_lt_two hn
    rw [decide_eq_true_iff]
    constructor
    · exact fun hg => h1.trans_le (one_le_pow₀ (by exact_mod_cast hg))
    · intro h
      by_contra hg
      obtain rfl : g = 0 := by omega
      have : (0 : ℝ) < 2 ^ n := by positivity
      simp at h
      linarith
  next hn =>
    obtain ⟨k, rfl⟩ := Int.eq_ofNat_of_zero_le (not_lt.1 hn)
    rw [decide_eq_true_iff, Int.toNat_natCast, zpow_natCast]
    exact_mod_cast Iff.rfl

/-- 2 to a power that is no integer lies on no grid point. -/
theorem exp2_ne {v : ℤ} {d : ℕ} (hv : v % 2 ^ d ≠ 0) (g : ℕ) (q : ℤ) : (2 : ℝ) ^ ((v : ℝ) / 2 ^ d) ≠ g * 2 ^ q := by
  intro h
  have hp := exp2_pow v d q
  rw [h, mul_pow, mul_left_inj' (by positivity)] at hp
  have hg : g ≠ 0 := by
    rintro rfl
    have : (0 : ℝ) < 2 ^ (v - q * 2 ^ d) := by positivity
    simp at hp
    linarith
  have hn : 0 ≤ v - q * 2 ^ d := by
    by_contra hn
    have h1 : (2 : ℝ) ^ (v - q * 2 ^ d) < 1 := zpow_lt_one_of_neg₀ one_lt_two (not_le.1 hn)
    have : (1 : ℝ) ≤ (g : ℝ) ^ 2 ^ d := one_le_pow₀ (by exact_mod_cast Nat.one_le_iff_ne_zero.2 hg)
    linarith
  obtain ⟨n, hn⟩ := Int.eq_ofNat_of_zero_le hn
  rw [hn, zpow_natCast] at hp
  obtain ⟨s, -, hs⟩ := eq_two_pow_of_pow (Nat.two_pow_pos d).ne' (by exact_mod_cast hp : g ^ 2 ^ d = 2 ^ n)
  refine hv (Int.emod_eq_zero_of_dvd ⟨s + q, ?_⟩)
  have : v = n + q * 2 ^ d := by omega
  rw [this, ← hs]
  push_cast
  ring

/-- The scale of the fixed-point numbers is large beside every error of the series. -/
theorem scale_large : (2 : ℝ) ^ 30 ≤ 2 ^ seriesBits := pow_le_pow_right₀ one_le_two (by decide)

/-- The model's ln 2 lies below its scale. -/
theorem ln2Fix_lt : ln2Fix < 2 ^ seriesBits := by
  have hA : (0 : ℝ) < 2 ^ seriesBits := by positivity
  have h1 := mul_lt_mul_of_pos_left Real.log_two_lt_d9 hA
  have h2 := ln2Fix_bounds.1
  generalize ln2Fix = l at *
  have : (l : ℝ) < 2 ^ seriesBits := by linarith
  exact_mod_cast this

/-- The model's product of a fraction cut off and of its ln 2 is below the exact one by less than 2^16 units. -/
theorem mul_ln2Fix_bounds {φ : ℝ} {fr : ℕ} (h0 : 0 ≤ φ) (h1 : φ ≤ 1) (hf : (fr : ℝ) ≤ 2 ^ seriesBits * φ)
    (hf' : 2 ^ seriesBits * φ ≤ fr + 1) :
    ((fr * ln2Fix / 2 ^ seriesBits : ℕ) : ℝ) ≤ 2 ^ seriesBits * (φ * Real.log 2) ∧
    2 ^ seriesBits * (φ * Real.log 2) ≤ (fr * ln2Fix / 2 ^ seriesBits : ℕ) + 2 ^ 16 := by
  obtain ⟨hl1, hl2⟩ := ln2Fix_bounds
  obtain ⟨hx1, hx2⟩ := natDiv_near (a := fr * ln2Fix) (n := 2 ^ seriesBits) (Nat.two_pow_pos _).ne'
  have hlt : (ln2Fix : ℝ) < (2 ^ seriesBits : ℕ) := Nat.cast_lt.2 ln2Fix_lt
  have hlog : 0 < Real.log 2 := Real.log_pos one_lt_two
  have hA : (0 : ℝ) < 2 ^ seriesBits := by positivity
  push_cast at hx1 hx2 hlt
  generalize (2 : ℝ) ^ seriesBits = A at *
  constructor
  · refine hx1.trans ?_
    rw [div_le_iff₀ hA]
    calc (fr : ℝ) * ln2Fix ≤ A * φ * (A * Real.log 2) := by gcongr
      _ = A * (φ * Real.log 2) * A := by ring
  · have hd : A * (φ * Real.log 2) - (2 ^ 15 + 1) ≤ (fr : ℝ) * ln2Fix / A := by
      rw [le_div_iff₀ hA]
      have e1 : (A * φ - 1) * ln2Fix ≤ fr * ln2Fix := mul_le_mul_of_nonneg_right (by linarith) (Nat.cast_nonneg _)
      have e2 : A * φ * (A * Real.log 2 - 2 ^ 15) ≤ A * φ * ln2Fix := mul_le_mul_of_nonneg_left (by linarith) (by positivity)
      have e3 : A * φ ≤ A := mul_le_of_le_one_right hA.le h1
      linarith
    linarith

/-- The model's bounds of 2^φ for a fraction φ: the exponential of φ·ln 2, cut off at each step. -/
theorem exp2Fix_bounds {φ : ℝ} {fr : ℕ} (h0 : 0 ≤ φ) (h1 : φ ≤ 1) (hf : (fr : ℝ) ≤ 2 ^ seriesBits * φ)
    (hf' : 2 ^ seriesBits * φ ≤ fr + 1) :
    (expFix (fr * ln2Fix / 2 ^ seriesBits) : ℝ) ≤ 2 ^ seriesBits * 2 ^ φ ∧
    2 ^ seriesBits * (2 : ℝ) ^ φ ≤ (expFix (fr * ln2Fix / 2 ^ seriesBits) + 2 ^ 24 : ℕ) ∧ expFix (fr * ln2Fix / 2 ^ seriesBits) ≠ 0 := by
  obtain ⟨hx1, hx2⟩ := mul_ln2Fix_bounds h0 h1 hf hf'
  generalize fr * ln2Fix / 2 ^ seriesBits = x at *
  have hlog : 0 < Real.log 2 := Real.log_pos one_lt_two
  have hA := scale_large
  have hφ : φ * Real.log 2 ≤ Real.log 2 := mul_le_of_le_one_left hlog.le h1
  have hxle : x ≤ 2 ^ seriesBits := by
    have : (2 : ℝ) ^ seriesBits * (φ * Real.log 2) ≤ 2 ^ seriesBits :=
      mul_le_of_le_one_right (by positivity) (by linarith [Real.log_two_lt_d9])
    exact_mod_cast hx1.trans this
  obtain ⟨he1, he2⟩ := expFix_bounds hxle
  rw [Real.rpow_def_of_pos two_pos, mul_comm (Real.log 2)]
  push_cast
  generalize (2 : ℝ) ^ seriesBits = A at *
  have hA0 : 0 < A := by linarith
  have hexp : Real.exp (x / A) ≤ Real.exp (φ * Real.log 2) := Real.exp_le_exp.2 (by rw [div_le_iff₀ hA0]; linarith)
  have hexp2 : Real.exp (φ * Real.log 2) ≤ 2 := (Real.exp_le_exp.2 hφ).trans_eq (Real.exp_log two_pos)
  have hd : (2 : ℝ) ^ 16 / A ≤ 1 := by rw [div_le_one hA0]; linarith
  have hnear : Real.exp (2 ^ 16 / A) ≤ 1 + 2 * (2 ^ 16 / A) := by
    have := Real.abs_exp_sub_one_le (x := 2 ^ 16 / A) (by rwa [abs_of_pos (by positivity)])
    rw [abs_of_pos (by positivity : (0 : ℝ) < 2 ^ 16 / A)] at this
    linarith [le_abs_self (Real.exp (2 ^ 16 / A) - 1)]
  have hsplit : Real.exp (φ * Real.log 2) ≤ Real.exp (x / A) * (1 + 2 * (2 ^ 16 / A)) := by
    refine (Real.exp_le_exp.2 ?_).trans ((Real.exp_add _ _).le.trans (mul_le_mul_of_nonneg_left hnear (Real.exp_pos _).le))
    rw [← add_div, le_div_iff₀ hA0]
    linarith
  refine ⟨he1.trans (mul_le_mul_of_nonneg_left hexp hA0.le), ?_, ?_⟩
  · calc A * Real.exp (φ * Real.log 2) ≤ A * (Real.exp (x / A) * (1 + 2 * (2 ^ 16 / A))) := mul_le_mul_of_nonneg_left hsplit hA0.le
      _ = A * Real.exp (x / A) + 2 * 2 ^ 16 * Real.exp (x / A) := by field_simp
      _ ≤ expFix x + 16777216 := by linarith
  · intro h
    have h1 : 1 ≤ Real.exp (x / A) := Real.one_le_exp (by positivity)
    have := mul_le_mul_of_nonneg_left h1 hA0.le
    rw [h] at he2
    norm_num at he2 hA
    linarith

/-- 2 to a value of magnitude 2^12 or more leaves the range of every format. -/
theorem exp2_large {a : Bool} {m : ℕ} {e : ℤ} (hm : m ≠ 0) (hbig : 12 ≤ e + (m.log2 : ℤ)) :
    Rounded f .rne u false ((2 : ℝ) ^ ((valueOf (.fin a m e) : ℚ) : ℝ))
      (if a = true then roundTo f .rne u false 1 (-5000) true else roundTo f .rne u false 1 5000 true) := by
  have habs : (4096 : ℝ) ≤ m * 2 ^ e := by
    calc (4096 : ℝ) = 2 ^ (12 : ℤ) := by norm_num
      _ ≤ 2 ^ (e + m.log2) := zpow_le_zpow_right₀ one_le_two hbig
      _ ≤ m * 2 ^ e := (leading_bit hm le_rfl (mul_zpow_lt_succ m e)).1
  rw [valueOf_sign]
  generalize (m : ℝ) * 2 ^ e = y at *
  cases a with
  | true =>
    rw [if_pos rfl, if_pos rfl]
    refine rounded_minute (by positivity) ?_
    rw [← Real.rpow_intCast]
    exact Real.rpow_le_rpow_of_exponent_le one_le_two (by push_cast; linarith)
  | false =>
    rw [if_neg Bool.false_ne_true, if_neg Bool.false_ne_true]
    refine rounded_huge ?_
    rw [← Real.rpow_natCast]
    exact Real.rpow_le_rpow_of_exponent_le one_le_two (by push_cast; linarith)

/-- 2 to an integer is exact. -/
theorem exp2_integer (v : ℤ) : Rounded f .rne u false ((2 : ℝ) ^ (v : ℝ)) (roundTo f .rne u false 1 v false) := by
  simpa using roundTo_exact (f := f) (mode := .rne) (u := u) (neg := false) (e := v) one_ne_zero

/-- 2 to v·2^(−d), no integer, is rounded between the bounds of its fraction's series. -/
theorem exp2_fraction {v : ℤ} {d : ℕ} (hv : v % 2 ^ d ≠ 0) :
    let lo := expFix ((v % 2 ^ d).toNat * 2 ^ seriesBits / 2 ^ d * ln2Fix / 2 ^ seriesBits)
    Rounded f .rne u false ((2 : ℝ) ^ ((v : ℝ) / 2 ^ d))
      (roundBetween f u false lo (lo + 2 ^ 24) (v / 2 ^ d - seriesBits) (exp2Below v d)) := by
  have hD : (0 : ℝ) < 2 ^ d := by positivity
  obtain ⟨r, hr⟩ := Int.eq_ofNat_of_zero_le (Int.emod_nonneg v (by positivity : (2 : ℤ) ^ d ≠ 0))
  have hlt : (r : ℝ) ≤ 2 ^ d := by
    have := Int.emod_lt_of_pos v (by positivity : (0 : ℤ) < 2 ^ d)
    rw [hr] at this
    exact_mod_cast this.le
  obtain ⟨hf1, hf2⟩ := natDiv_near (a := r * 2 ^ seriesBits) (n := 2 ^ d) (Nat.two_pow_pos d).ne'
  have hφ : ((r * 2 ^ seriesBits : ℕ) : ℝ) / (2 ^ d : ℕ) = 2 ^ seriesBits * (r / 2 ^ d) := by push_cast; ring
  rw [hφ] at hf1 hf2
  obtain ⟨h1, h2, h3⟩ := exp2Fix_bounds (φ := r / 2 ^ d) (by positivity) ((div_le_one hD).2 hlt) hf1 hf2
  -- the integer part of the exponent scales, the fraction gives the leading bits
  have hx : (2 : ℝ) ^ ((v : ℝ) / 2 ^ d) = 2 ^ seriesBits * 2 ^ ((r : ℝ) / 2 ^ d) * 2 ^ (v / 2 ^ d - seriesBits : ℤ) := by
    have hsplit : (v : ℝ) = (v / 2 ^ d : ℤ) * 2 ^ d + r := by
      exact_mod_cast hr ▸ (Int.ediv_mul_add_emod v (2 ^ d)).symm
    rw [hsplit, add_div, mul_div_cancel_right₀ _ hD.ne', Real.rpow_add two_pos, Real.rpow_intCast, zpow_sub₀ two_ne_zero,
      zpow_natCast]
    field_simp
  have hpos : (0 : ℝ) < 2 ^ (v / 2 ^ d - seriesBits : ℤ) := by positivity
  simp only [hr, Int.toNat_natCast]
  refine roundBetween_rounded h3 ?_ ?_ (fun g q => exp2Below_iff v d g q) (exp2_ne hv)
  · rw [hx]
    exact mul_le_mul_of_nonneg_right h1 hpos.le
  · rw [hx]
    exact mul_le_mul_of_nonneg_right h2 hpos.le

/-- 2 to a finite value is rounded once. -/
theorem exp2Op_onceRounded (a : Bool) (m : ℕ) (e : ℤ) :
    OnceRounded f .rne u ((2 : ℝ) ^ ((valueOf (.fin a m e) : ℚ) : ℝ)) (exp2Op f u (.fin a m e)) := by
  refine .inl ⟨by positivity, ?_⟩
  by_cases hm : m = 0
  · subst hm
    simpa [exp2Op, valueOf] using exp2_integer (f := f) (u := u) 0
  simp only [exp2Op, hm, if_false]
  by_cases hbig : 12 ≤ e + (m.log2 : ℤ)
  · rw [if_pos hbig]
    exact exp2_large hm hbig
  rw [if_neg hbig, valueOf_fin]
  generalize signedInt a m = v
  by_cases he : 0 ≤ e
  · have hv : dyadicVal (v, e) = (v * 2 ^ e.toNat : ℤ) := by
      rw [dyadicVal, ← Int.toNat_of_nonneg he, zpow_natCast, Int.toNat_natCast]
      push_cast
      rfl
    simp only [he, if_true, decide_true, Bool.true_or, hv]
    exact exp2_integer _
  · obtain ⟨d, hd⟩ := Int.eq_ofNat_of_zero_le (by omega : 0 ≤ -e)
    have hv : dyadicVal (v, e) = (v : ℝ) / 2 ^ d := by
      rw [dyadicVal, show e = -(d : ℤ) by omega, zpow_neg, zpow_natCast, div_eq_mul_inv]
    simp only [he, if_false, decide_false, Bool.false_or, decide_eq_true_eq, hd, Int.toNat_natCast, hv]
    by_cases hr : v % 2 ^ d = 0
    · have hint : (v : ℝ) / 2 ^ d = (v / 2 ^ d : ℤ) := by
        rw [div_eq_iff (by positivity)]
        exact_mod_cast (Int.ediv_mul_cancel (Int.dvd_of_emod_eq_zero hr)).symm
      rw [if_pos hr, hint]
      exact exp2_integer _
    · rw [if_neg hr]
      exact exp2_fraction hr

end

end Sys2Proof.Numbers
end

section
/-!
SUPPORT. log2 a is rounded once (R293).
-/
namespace Sys2Proof.Numbers

open Sys2Proof Sys2Proof.Machine Sys2Proof.Claims

section
variable {f : Fmt} {u neg : Bool}

/-! ## log2 a (R293) -/

/-- A grid point as a quotient of an integer by a power of two. -/
theorem gridPoint_eq (g : ℕ) (q : ℤ) : (g : ℝ) * 2 ^ q = ((g * 2 ^ q.toNat : ℤ) : ℝ) / (2 ^ (-q).toNat : ℕ) := by
  rcases le_total 0 q with h | h
  · obtain ⟨k, rfl⟩ := Int.eq_ofNat_of_zero_le h
    simp
  · obtain ⟨k, hk⟩ := Int.eq_ofNat_of_zero_le (by omega : 0 ≤ -q)
    obtain rfl : q = -(k : ℤ) := by omega
    simp [div_eq_mul_inv]

/-- The logarithm of m·2^e. -/
theorem logb_mul_zpow {m : ℕ} (hm : m ≠ 0) (e : ℤ) : Real.logb 2 (m * 2 ^ e) = Real.logb 2 m + e := by
  rw [Real.logb_mul (by exact_mod_cast hm) (by positivity), ← Real.rpow_intCast, Real.logb_rpow two_pos (by norm_num)]

/-- The sign of a logarithm's side of 1, applied to the logarithm. -/
noncomputable def sideLog (neg : Bool) (m : ℕ) (e : ℤ) : ℝ := if neg then -(Real.logb 2 m + e) else Real.logb 2 m + e

/-- Below 1. -/
theorem sideLog_true (m : ℕ) (e : ℤ) : sideLog true m e = -(Real.logb 2 m + e) := rfl

/-- Above 1. -/
theorem sideLog_false (m : ℕ) (e : ℤ) : sideLog false m e = Real.logb 2 m + e := rfl

/-- The model's comparison of a logarithm with a grid point is exact. -/
theorem log2Below_iff {m : ℕ} (hm : m ≠ 0) (e : ℤ) (g : ℕ) (q : ℤ) :
    log2Below neg m e g q = true ↔ sideLog neg m e < g * 2 ^ q := by
  have hm1 : (1 : ℝ) ≤ m := by exact_mod_cast Nat.one_le_iff_ne_zero.2 hm
  have hd : (0 : ℝ) < (2 ^ (-q).toNat : ℕ) := by positivity
  rw [gridPoint_eq, lt_div_iff₀ hd]
  unfold log2Below
  simp only
  generalize 2 ^ (-q).toNat = d at *
  generalize (g : ℤ) * 2 ^ q.toNat = bound
  have hlog : Real.logb 2 ((m : ℝ) ^ d) = d * Real.logb 2 m := Real.logb_pow _ _ _
  have hpow : (1 : ℝ) ≤ (m : ℝ) ^ d := one_le_pow₀ hm1
  have hneg : ∀ n : ℤ, n < 0 → (2 : ℝ) ^ n < 1 := fun n hn => zpow_lt_one_of_neg₀ one_lt_two hn
  cases neg with
  | true =>
    have hiff : sideLog true m e * d < bound ↔ (2 : ℝ) ^ (-bound - e * d) < (m : ℝ) ^ d := by
      rw [← Real.rpow_intCast, ← Real.lt_logb_iff_rpow_lt one_lt_two (by linarith), hlog]
      push_cast [sideLog_true]
      constructor <;> intro h <;> linarith
    rw [hiff, if_pos rfl]
    generalize -bound - e * (d : ℤ) = n
    split
    next hn => simpa [Nat.one_le_iff_ne_zero.2 hm, Nat.pos_of_ne_zero hm] using (hneg n hn).trans_le hpow
    next hn =>
      obtain ⟨k, rfl⟩ := Int.eq_ofNat_of_zero_le (not_lt.1 hn)
      rw [decide_eq_true_iff, Int.toNat_natCast, zpow_natCast]
      exact_mod_cast Iff.rfl
  | false =>
    have hiff : sideLog false m e * d < bound ↔ (m : ℝ) ^ d < (2 : ℝ) ^ (bound - e * d) := by
      rw [← Real.rpow_intCast, ← Real.logb_lt_iff_lt_rpow one_lt_two (by linarith), hlog]
      push_cast [sideLog_false]
      constructor <;> intro h <;> linarith
    rw [hiff, if_neg Bool.false_ne_true]
    generalize bound - e * (d : ℤ) = n
    split
    next hn => simpa using ((hneg n hn).trans_le hpow).le
    next hn =>
      obtain ⟨k, rfl⟩ := Int.eq_ofNat_of_zero_le (not_lt.1 hn)
      rw [decide_eq_true_iff, Int.toNat_natCast, zpow_natCast]
      exact_mod_cast Iff.rfl

/-- The logarithm of what is no power of two lies on no grid point. -/
theorem sideLog_ne {m : ℕ} (hm : m ≠ 2 ^ m.log2) (hm0 : m ≠ 0) (e : ℤ) (g : ℕ) (q : ℤ) : sideLog neg m e ≠ g * 2 ^ q := by
  intro h
  have hd : (0 : ℝ) < (2 ^ (-q).toNat : ℕ) := by positivity
  rw [gridPoint_eq, eq_div_iff hd.ne'] at h
  have hd0 : (2 ^ (-q).toNat : ℕ) ≠ 0 := (Nat.two_pow_pos _).ne'
  generalize 2 ^ (-q).toNat = d at *
  generalize (g : ℤ) * 2 ^ q.toNat = bound at h
  obtain ⟨n, hn⟩ : ∃ n : ℤ, Real.logb 2 ((m : ℝ) ^ d) = n := by
    rw [Real.logb_pow]
    cases neg with
    | true => exact ⟨-bound - e * d, by push_cast [sideLog_true] at h ⊢; linarith⟩
    | false => exact ⟨bound - e * d, by push_cast [sideLog_false] at h ⊢; linarith⟩
  have hm1 : (1 : ℝ) ≤ (m : ℝ) ^ d := one_le_pow₀ (by exact_mod_cast Nat.one_le_iff_ne_zero.2 hm0)
  have hn0 : 0 ≤ n := by
    have := Real.logb_nonneg one_lt_two hm1
    rw [hn] at this
    exact_mod_cast this
  obtain ⟨k, rfl⟩ := Int.eq_ofNat_of_zero_le hn0
  rw [Real.logb_eq_iff_rpow_eq two_pos (by norm_num) (by linarith)] at hn
  push_cast at hn
  rw [Real.rpow_natCast] at hn
  obtain ⟨s, rfl, -⟩ := eq_two_pow_of_pow hd0 (by exact_mod_cast hn.symm : m ^ d = 2 ^ k)
  exact hm (by rw [Nat.log2_two_pow])

/-- The model's bounds of log2 (m/2^k), from twice its artanh. -/
def log2Lo (t : ℕ) : ℕ := t * 2 ^ seriesBits / (ln2Fix + 2 ^ 17)
/-- The bound from above. -/
def log2Hi (t : ℕ) : ℕ := (t + 2 ^ 17) * 2 ^ seriesBits / ln2Fix + 1

/-- The model's ln 2 is no zero. -/
theorem ln2Fix_pos : 2 ^ 20 ≤ ln2Fix := by
  have h1 := ln2Fix_bounds.2
  have h2 := mul_le_mul_of_nonneg_left Real.log_two_gt_d9.le (by positivity : (0 : ℝ) ≤ 2 ^ seriesBits)
  have h3 := scale_large
  generalize ln2Fix = l at *
  have : (2 : ℝ) ^ 20 ≤ l := by linarith
  exact_mod_cast this

/-- They hold. -/
theorem log2Fix_bounds {t : ℕ} {y : ℝ} (hy : 0 ≤ Real.log y) (h1 : (t : ℝ) ≤ 2 ^ seriesBits * Real.log y)
    (h2 : 2 ^ seriesBits * Real.log y ≤ t + 2 ^ 15) :
    (log2Lo t : ℝ) ≤ 2 ^ seriesBits * Real.logb 2 y ∧ 2 ^ seriesBits * Real.logb 2 y ≤ log2Hi t := by
  obtain ⟨hl1, hl2⟩ := ln2Fix_bounds
  have hpos := (Nat.two_pow_pos 20).trans_le ln2Fix_pos
  have hlog : 0 < Real.log 2 := Real.log_pos one_lt_two
  unfold log2Lo log2Hi
  generalize ln2Fix = l at *
  have hln : (0 : ℝ) < l := by exact_mod_cast hpos
  obtain ⟨hq1, -⟩ := natDiv_near (a := t * 2 ^ seriesBits) (n := l + 2 ^ 17) (by omega)
  obtain ⟨-, hq2⟩ := natDiv_near (a := (t + 2 ^ 17) * 2 ^ seriesBits) (n := l) hpos.ne'
  have hA : (0 : ℝ) < 2 ^ seriesBits := by positivity
  rw [← Real.log_div_log, ← mul_div_assoc]
  push_cast at hq1 hq2 ⊢
  generalize (2 : ℝ) ^ seriesBits = A at *
  constructor
  · refine hq1.trans ?_
    rw [div_le_div_iff₀ (by positivity) hlog]
    calc (t : ℝ) * A * Real.log 2 = t * (A * Real.log 2) := by ring
      _ ≤ A * Real.log y * (l + 131072) := by
        refine mul_le_mul h1 (by linarith) (by positivity) (by positivity)
  · refine le_trans ?_ hq2
    rw [div_le_div_iff₀ hlog hln]
    calc A * Real.log y * l ≤ (t + 131072) * (A * Real.log 2) := by
          refine mul_le_mul (by linarith) hl1 hln.le (by positivity)
      _ = (t + 131072) * A * Real.log 2 := by ring

/-- The logarithms of y and of 2/y, for y = m/2^k strictly between 1 and 2, are at least 2^(−k−1). -/
theorem log_gap {m k : ℕ} (hlo : 2 ^ k < m) (hhi : m < 2 ^ (k + 1)) :
    1 / 2 ^ (k + 1) ≤ Real.log (m / 2 ^ k) ∧ Real.log (m / 2 ^ k) ≤ Real.log 2 - 1 / 2 ^ (k + 1) := by
  have hp : (0 : ℝ) < 2 ^ k := by positivity
  have hm : (0 : ℝ) < m := by exact_mod_cast (Nat.zero_lt_of_lt hlo)
  have h1 : (2 : ℝ) ^ k + 1 ≤ m := by exact_mod_cast hlo
  have h2 : (m : ℝ) + 1 ≤ 2 * 2 ^ k := by rw [← pow_succ']; exact_mod_cast hhi
  constructor
  · refine le_trans ?_ (Real.one_sub_inv_le_log_of_pos (by positivity))
    rw [inv_div, one_sub_div hm.ne', div_le_div_iff₀ (by positivity) hm, pow_succ]
    have : (0 : ℝ) ≤ (m - 2 ^ k - 1) * 2 ^ k := mul_nonneg (by linarith) hp.le
    linarith [(by linarith : (2 : ℝ) ^ k * (m - 2 ^ k) ≥ 2 ^ k), this]
  · have hlog : Real.log (m / 2 ^ k) = Real.log 2 + Real.log (m / (2 * 2 ^ k)) := by
      rw [← Real.log_mul two_ne_zero (by positivity)]
      congr 1
      field_simp
    have hle := Real.log_le_sub_one_of_pos (show 0 < (m : ℝ) / (2 * 2 ^ k) by positivity)
    have hq : (m : ℝ) / (2 * 2 ^ k) ≤ 1 - 1 / 2 ^ (k + 1) := by
      rw [pow_succ', le_sub_iff_add_le, ← add_div, div_le_one (by positivity)]
      exact h2
    linarith

/-- The model's bounds of log2 y, for y of no more bits than the format, lie strictly between 0 and 1. -/
theorem log2Fix_range {m k t : ℕ} (hlo : 2 ^ k < m) (hhi : m < 2 ^ (k + 1)) (hk : k ≤ 52)
    (h1 : (t : ℝ) ≤ 2 ^ seriesBits * Real.log (m / 2 ^ k)) (h2 : 2 ^ seriesBits * Real.log (m / 2 ^ k) ≤ t + 2 ^ 15) :
    0 < log2Lo t ∧ log2Hi t < 2 ^ seriesBits := by
  obtain ⟨hg1, hg2⟩ := log_gap hlo hhi
  obtain ⟨-, hl2⟩ := ln2Fix_bounds
  have hlt := ln2Fix_lt
  have hpos := (Nat.two_pow_pos 20).trans_le ln2Fix_pos
  have hscale : (2 : ℝ) ^ 20 ≤ 2 ^ seriesBits * (1 / 2 ^ (k + 1)) := by
    rw [mul_one_div, le_div_iff₀ (by positivity), ← pow_add]
    exact pow_le_pow_right₀ one_le_two (by simp only [seriesBits]; omega)
  have hA : (0 : ℝ) < 2 ^ seriesBits := by positivity
  have hg1' := mul_le_mul_of_nonneg_left hg1 hA.le
  have hg2' := mul_le_mul_of_nonneg_left hg2 hA.le
  have hA20 : 2 ^ 20 ≤ 2 ^ seriesBits := Nat.pow_le_pow_right (n := 2) two_pos (show 20 ≤ seriesBits by decide)
  unfold log2Lo log2Hi
  rw [mul_sub] at hg2'
  have ht : 2 ≤ t := by
    have : (2 : ℝ) ≤ t := by linarith
    exact_mod_cast this
  have htl : t + 2 ^ 17 + 1 ≤ ln2Fix := by
    generalize ln2Fix = l at *
    have : (t : ℝ) + 2 ^ 17 + 1 ≤ l := by linarith
    exact_mod_cast this
  generalize ln2Fix = l at *
  generalize 2 ^ seriesBits = A at hlt hA20 ⊢
  constructor
  · refine Nat.div_pos ?_ (by omega)
    calc l + 2 ^ 17 ≤ 2 * A := by omega
      _ ≤ t * A := Nat.mul_le_mul_right _ ht
  · have hq : (t + 2 ^ 17) * A / l < A - 1 := by
      rw [Nat.div_lt_iff_lt_mul hpos]
      calc (t + 2 ^ 17) * A ≤ (l - 1) * A := Nat.mul_le_mul_right _ (by omega)
        _ = l * A - A := by rw [Nat.sub_mul, one_mul]
        _ < A * l - l := by
          rw [mul_comm l A]
          have : A ≤ A * l := Nat.le_mul_of_pos_right _ hpos
          omega
        _ = (A - 1) * l := by rw [Nat.sub_mul, one_mul]
    omega

/-- A real number whose magnitude lies between two positive fixed-point bounds, on no grid point, is rounded once. -/
theorem roundBetween_fixed {zlo zhi : ℤ} {x : ℝ} {below : ℕ → ℤ → Bool} (h0 : 0 < zlo) (h1 : (zlo : ℝ) ≤ 2 ^ seriesBits * x)
    (h2 : 2 ^ seriesBits * x ≤ zhi) (hb : ∀ g q, below g q = true ↔ x < g * (2 : ℝ) ^ q) (hne : ∀ (g : ℕ) (q : ℤ), x ≠ g * 2 ^ q) :
    OnceRounded f .rne u (if neg then -x else x) (roundBetween f u neg zlo.toNat zhi.toNat (-seriesBits) below) := by
  have hA : (0 : ℝ) < 2 ^ seriesBits := by positivity
  have hle : zlo ≤ zhi := by exact_mod_cast h1.trans h2
  have h0' : (0 : ℝ) < zlo := by exact_mod_cast h0
  have hcast : ∀ z : ℤ, 0 ≤ z → ((z.toNat : ℕ) : ℝ) = z := fun z hz => by
    exact_mod_cast congrArg (Int.cast (R := ℝ)) (Int.toNat_of_nonneg hz)
  refine onceRounded_sign (pos_of_mul_pos_right (h0'.trans_le h1) hA.le) (roundBetween_rounded (by omega) ?_ ?_ hb hne)
  · rw [hcast _ h0.le, zpow_neg, zpow_natCast, ← div_eq_mul_inv, div_le_iff₀ hA]
    linarith
  · rw [hcast _ (by omega), zpow_neg, zpow_natCast, ← div_eq_mul_inv, le_div_iff₀ hA]
    linarith

/-- The model's logarithm of what is no power of two: the exponent and the bounds of the fraction's logarithm together, rounded
on the side of 1 on which the value lies. -/
def log2Between (f : Fmt) (u : Bool) (m : ℕ) (e : ℤ) : ℕ × Exc :=
  let ip : ℤ := e + m.log2
  let t := 2 * atanhFix (m - 2 ^ m.log2) (m + 2 ^ m.log2)
  let slo : ℤ := ip * 2 ^ seriesBits + (log2Lo t : ℤ)
  let shi : ℤ := ip * 2 ^ seriesBits + (log2Hi t : ℤ)
  if 0 ≤ ip then roundBetween f u false slo.toNat shi.toNat (-seriesBits) (log2Below false m e)
  else roundBetween f u true (-shi).toNat (-slo).toNat (-seriesBits) (log2Below true m e)

/-- The model's logarithm of a positive value, by its cases. -/
theorem log2Op_eq {m : ℕ} (hm : m ≠ 0) (e : ℤ) :
    log2Op f u (.fin false m e) =
      if m = 2 ^ m.log2 then roundTo f .rne u (decide (e + (m.log2 : ℤ) < 0)) (e + (m.log2 : ℤ)).natAbs 0 false
      else log2Between f u m e := by
  simp only [log2Op, hm, if_false, Bool.false_eq_true, log2Between, log2Lo, log2Hi]

/-- The logarithm of a power of two is the exact exponent. -/
theorem logb_two_pow {m : ℕ} {e : ℤ} (hm : m = 2 ^ m.log2) : Real.logb 2 m + e = ((e + m.log2 : ℤ) : ℝ) := by
  have h : Real.logb 2 m = m.log2 := by
    conv_lhs => rw [hm]
    push_cast
    rw [← Real.rpow_natCast, Real.logb_rpow two_pos (by norm_num)]
  rw [h]
  push_cast
  ring

/-- log2 of 1 is zero. -/
theorem log2Op_one {m : ℕ} {e : ℤ} (hm : m ≠ 0) (h : ((valueOf (.fin false m e) : ℚ) : ℝ) = 1) :
    log2Op f u (.fin false m e) = (0, {}) := by
  rw [valueOf_sign, if_neg Bool.false_ne_true] at h
  have he : 0 < (2 : ℝ) ^ e := by positivity
  obtain ⟨h1, h2⟩ := leading_bit hm (x := 1) h.le (by linarith)
  have hip : e + (m.log2 : ℤ) = 0 := by
    have h1' := (zpow_le_zpow_iff_right₀ one_lt_two).1 (h1.trans_eq (zpow_zero (2 : ℝ)).symm)
    have h2' := (zpow_lt_zpow_iff_right₀ one_lt_two).1 ((zpow_zero (2 : ℝ)).trans_lt h2)
    omega
  have hpow : m = 2 ^ m.log2 := by
    rw [show e = -(m.log2 : ℤ) by omega, zpow_neg, zpow_natCast, mul_inv_eq_one₀ (by positivity)] at h
    exact_mod_cast h
  rw [log2Op_eq hm, if_pos hpow, hip]
  simp [roundTo, Fmt.sign, Exc.none]

/-- The logarithm of what is no power of two, of no more bits than the widest format, lies between the model's bounds and is
rounded once. -/
theorem log2Between_onceRounded {m : ℕ} (e : ℤ) (hm : m ≠ 0) (hpow : m ≠ 2 ^ m.log2) (hk : m.log2 ≤ 52) :
    OnceRounded f .rne u (Real.logb 2 m + e) (log2Between f u m e) := by
  unfold log2Between
  extract_lets ip t slo shi
  have hlo : 2 ^ m.log2 < m := lt_of_le_of_ne (Nat.log2_self_le hm) (Ne.symm hpow)
  have hhi : m < 2 ^ (m.log2 + 1) := Nat.lt_log2_self
  obtain ⟨ht1, ht2⟩ := lnFix_bounds hlo.le hhi
  have hlog : 0 ≤ Real.log (m / 2 ^ m.log2) := (by positivity : (0 : ℝ) ≤ 1 / 2 ^ (m.log2 + 1)).trans (log_gap hlo hhi).1
  obtain ⟨hb1, hb2⟩ := log2Fix_bounds (t := t) hlog ht1 ht2
  obtain ⟨hr1, hr2⟩ := log2Fix_range (t := t) hlo hhi hk ht1 ht2
  have hsplit : Real.logb 2 m + e = ip + Real.logb 2 (m / 2 ^ m.log2) := by
    rw [Real.logb_div (by exact_mod_cast hm) (by positivity), Real.logb_pow, Real.logb_self_eq_one one_lt_two]
    push_cast [ip]
    ring
  have hA : (0 : ℤ) < 2 ^ seriesBits := by positivity
  have hr2' : (log2Hi t : ℤ) < 2 ^ seriesBits := by exact_mod_cast hr2
  by_cases hip : 0 ≤ ip
  · have hz : 0 < slo := by
      have := mul_nonneg hip hA.le
      omega
    have hround := roundBetween_fixed (f := f) (u := u) (neg := false) (x := sideLog false m e) (zhi := shi) hz
      (by rw [sideLog_false, hsplit, mul_add]; push_cast [slo]; linarith)
      (by rw [sideLog_false, hsplit, mul_add]; push_cast [shi]; linarith) (log2Below_iff hm e) (sideLog_ne hpow hm e)
    rwa [if_pos hip]
  · have hz : 0 < -shi := by
      have := mul_le_mul_of_nonneg_right (by omega : ip ≤ -1) hA.le
      omega
    have hround := roundBetween_fixed (f := f) (u := u) (neg := true) (x := sideLog true m e) (zhi := -slo) hz
      (by rw [sideLog_true, hsplit, mul_neg, mul_add]; push_cast [shi]; linarith)
      (by rw [sideLog_true, hsplit, mul_neg, mul_add]; push_cast [slo]; linarith) (log2Below_iff hm e) (sideLog_ne hpow hm e)
    rw [if_neg hip]
    rwa [if_pos rfl, sideLog_true, neg_neg] at hround

/-- log2 of a positive finite value that is not 1 is rounded once. -/
theorem log2Op_onceRounded {m : ℕ} {e : ℤ} (hm : m ≠ 0) (hbits : m < 2 ^ (f.fbits + 1))
    (h1 : ((valueOf (.fin false m e) : ℚ) : ℝ) ≠ 1) :
    OnceRounded f .rne u (Real.logb 2 ((valueOf (.fin false m e) : ℚ) : ℝ)) (log2Op f u (.fin false m e)) := by
  rw [valueOf_sign, if_neg Bool.false_ne_true] at h1 ⊢
  rw [log2Op_eq hm, logb_mul_zpow hm]
  by_cases hpow : m = 2 ^ m.log2
  · have hip : (e + m.log2 : ℤ) ≠ 0 := by
      intro h0
      refine h1 ?_
      rw [hpow]
      push_cast
      rw [← zpow_natCast, ← zpow_add₀ two_ne_zero, add_comm, h0, zpow_zero]
    have hv := valueOf_natAbs (e + m.log2) 0
    rw [dyadicVal, zpow_zero, mul_one] at hv
    rw [if_pos hpow, logb_two_pow hpow, ← hv]
    exact roundTo_value (Int.natAbs_ne_zero.2 hip)
  · have hk : m.log2 ≤ 52 := by
      have := (Nat.log2_lt hm).2 hbits
      have : f.fbits ≤ 52 := by cases f <;> decide
      omega
    rw [if_neg hpow]
    exact log2Between_onceRounded e hm hpow hk

end

end Sys2Proof.Numbers
end

section
/-!
PROOFS. Rounding and arithmetic (O21).
-/
namespace Sys2Proof.Numbers

open Sys2Proof Sys2Proof.Machine Sys2Proof.Claims

section
variable (f : Fmt) (mode : Mode) (u : Bool)

/-! ## Special operands (R21, R22, R287) -/

/-- A sum, product or quotient with a NaN operand is the canonical NaN, and invalid when an operand signals. -/
theorem binary_nan {x y : FVal} (h : x.isNan = true ∨ y.isNan = true) :
    ∀ r ∈ [addVals f mode u x y, mulOp f mode u x y, divOp f mode u x y], r = (f.nan, { nv := x.isSnan || y.isSnan }) := by
  cases x with
  | nan s => simp [addVals, mulOp, mulVals, roundVal, divOp, nanRes, FVal.isSnan]
  | inf a =>
    cases y with
    | nan s => simp [addVals, mulOp, mulVals, roundVal, divOp, nanRes, FVal.isSnan]
    | _ => simp [FVal.isNan] at h
  | fin a m e =>
    cases y with
    | nan s => simp [addVals, mulOp, mulVals, roundVal, divOp, nanRes, FVal.isSnan]
    | _ => simp [FVal.isNan] at h

/-- An operation of one operand on a NaN is the canonical NaN, and invalid when it signals. -/
theorem unary_nan (s : Bool) :
    ∀ r ∈ [sqrtOp f mode u (.nan s), rcpOp f u (.nan s), rsqOp f u (.nan s), exp2Op f u (.nan s), log2Op f u (.nan s)],
      r = (f.nan, { nv := s }) := by
  simp [sqrtOp, rcpOp, divOp, rsqOp, exp2Op, log2Op, nanRes]

section
variable (a b : Bool) (m : ℕ) (e : ℤ)

/-- An infinity and a finite value, or two infinities of one sign, add to the infinity. -/
theorem addVals_inf :
    ∀ r ∈ [addVals f mode u (.inf a) (.fin a m e), addVals f mode u (.fin a m e) (.inf a), addVals f mode u (.inf a) (.inf a)],
      r = (f.sign a + f.infCode, {}) := by
  simp [addVals, infRes, Exc.none]

/-- The invalid operations on infinities and zeros. -/
theorem invalid_operations :
    ∀ r ∈ [addVals f mode u (.inf a) (.inf !a), mulOp f mode u (.inf b) (.fin a 0 e), mulOp f mode u (.fin a 0 e) (.inf b),
        divOp f mode u (.inf a) (.inf b), divOp f mode u (.fin a 0 e) (.fin b 0 e), sqrtOp f mode u (.inf true), rsqOp f u (.inf true),
        log2Op f u (.inf true)], r = (f.nan, { nv := true }) := by
  simp [addVals, mulOp, mulVals, divOp, sqrtOp, rsqOp, log2Op, nanRes, FVal.isZero]

/-- An infinity times a value that is not zero. -/
theorem mulOp_inf {m : ℕ} (hm : m ≠ 0) :
    mulOp f mode u (.inf b) (.fin a m e) = (f.sign (a != b) + f.infCode, {}) ∧
    mulOp f mode u (.inf a) (.inf b) = (f.sign (a != b) + f.infCode, {}) := by
  simp [mulOp, mulVals, roundVal, infRes, Exc.none, FVal.isZero, FVal.neg, hm, Bool.xor_comm]

/-- A finite value that is not zero over a zero. -/
theorem divOp_zero {m : ℕ} (hm : m ≠ 0) :
    divOp f mode u (.fin a m e) (.fin b 0 e) = (f.sign (a != b) + f.infCode, { dz := true }) := by
  simp [divOp, hm]

/-- The roots and the logarithm of a negative value. -/
theorem negative_operand {m : ℕ} (hm : m ≠ 0) :
    ∀ r ∈ [sqrtOp f mode u (.fin true m e), rsqOp f u (.fin true m e), log2Op f u (.fin true m e)], r = (f.nan, { nv := true }) := by
  simp [sqrtOp, rsqOp, log2Op, nanRes, hm]

/-- A quotient of an infinity and a finite value. -/
theorem divOp_inf :
    divOp f mode u (.inf b) (.fin a m e) = (f.sign (a != b) + f.infCode, {}) ∧
    divOp f mode u (.fin a m e) (.inf b) = (f.sign (a != b), {}) := by
  simp [divOp, infRes, Exc.none, FVal.neg, Bool.xor_comm]

/-- The reciprocals of infinities and zeros. -/
theorem reciprocals :
    rcpOp f u (.inf b) = (f.sign b, {}) ∧ rsqOp f u (.inf false) = (0, {}) ∧
    rcpOp f u (.fin a 0 e) = (f.sign a + f.infCode, { dz := true }) ∧ rsqOp f u (.fin a 0 e) = (f.sign a + f.infCode, { dz := true }) := by
  simp [rcpOp, rsqOp, divOp, Exc.none, FVal.neg]

/-- The root, the logarithm and the power of infinities and zeros. -/
theorem roots_logs_powers :
    log2Op f u (.fin a 0 e) = (f.sign true + f.infCode, { dz := true }) ∧ sqrtOp f mode u (.fin a 0 e) = (f.sign a, {}) ∧
    sqrtOp f mode u (.inf false) = (f.sign false + f.infCode, {}) ∧ exp2Op f u (.inf false) = (f.sign false + f.infCode, {}) ∧
    exp2Op f u (.inf true) = (0, {}) ∧ log2Op f u (.inf false) = (f.sign false + f.infCode, {}) := by
  simp [log2Op, sqrtOp, exp2Op, infRes, Exc.none]

/-- A NaN becomes the integer 0, an infinity the end of the range on its side, both with NV. -/
theorem toIntOp_special {w : ℕ} (hw : 1 ≤ w) :
    toIntOp w mode (.nan a) = (0, { nv := true }) ∧
    toIntOp w mode (.inf a) = (if a then 2 ^ (w - 1) else 2 ^ (w - 1) - 1, { nv := true }) := by
  obtain ⟨hlo, hhi⟩ := range_ends hw
  refine ⟨rfl, ?_⟩
  cases a <;> simp [toIntOp, hlo, hhi]

end

end

/-- Settles O21. A code stands for its value by its fields; the model's rounding takes the step of a binade that the mode
names, and tininess is the same rounding one scale lower; each operation rounds an exact value, or an integer below it
together with whether it is exact; 2^x and log2 x lie between the bounds of their series and on no grid point, where the
model compares exactly. -/
theorem roundingIsCorrectInEveryMode : Obligations.RoundingIsCorrectInEveryMode := by
  intro f mode u
  refine ⟨fun neg c hc => unpack_finite f neg hc, fun neg m e hm => roundTo_exact hm, ?finite, fun x y h => binary_nan f mode u h,
    unary_nan f mode u, ?special⟩
  case finite =>
    intro a b d m n l j k i x y z vx vy vz exact
    refine ⟨addVals_onceRounded, addVals_zero, mulOp_onceRounded, mulOp_zero, fun hn => ⟨fun h => ?quotient, fun hm => ?zeroQuotient⟩,
      fun ha h => ?root, fmaOp_onceRounded, rcpOp_onceRounded, fun hm ha => ?reciprocalRoot,
      fun hbits => ⟨exp2Op_onceRounded a m j, fun hm ha => ⟨fun h => ?logOfOne, fun h => ?log⟩⟩,
      fun ps scale => accumulate_onceRounded, fun w _ => toIntOp_rounds mode a m j w⟩
    case quotient =>
      refine divOp_onceRounded (fun hm => h ?_) hn
      simp [vx, x, valueOf, hm]
    case zeroQuotient => simp [x, y, divOp, hm, hn, Exc.none]
    case root =>
      subst ha
      refine sqrtOp_onceRounded fun hm => h ?_
      simp [vx, x, valueOf, hm]
    case reciprocalRoot =>
      subst ha
      exact rsqOp_onceRounded hm
    case logOfOne =>
      subst ha
      exact log2Op_one hm h
    case log =>
      subst ha
      exact log2Op_onceRounded hm hbits h
  case special =>
    intro a b m e x inf
    obtain ⟨hdiv, hdiv'⟩ := divOp_inf f mode u a b m e
    obtain ⟨hrcp, hrsq, hrcp', hrsq'⟩ := reciprocals f u a b e
    obtain ⟨hlog, hsqrt, hsqrt', hexp, hexp', hlog'⟩ := roots_logs_powers f mode u a e
    exact ⟨addVals_inf f mode u a m e, invalid_operations f mode u a b e,
      fun hm => ⟨(mulOp_inf f mode u a b e hm).1, divOp_zero f mode u a b e hm, fun ha => ha ▸ negative_operand f mode u e hm⟩,
      (mulOp_inf f mode u a b e one_ne_zero).2, hdiv, hdiv', hrcp, hrsq, hrcp', hrsq', hlog, hsqrt, hsqrt', hexp, hexp', hlog', rfl,
      fun w hw => toIntOp_special mode a hw⟩

end Sys2Proof.Numbers
end

section
/-!
SUPPORT. What each operation of the model leaves of memory: nothing of it changed (`_mem`), or its canonical form kept (`_wf`), in the
order of the definitions.
-/
namespace Sys2Proof.Machine

open Sys2Proof

/-- A fold of changes that each leave memory leaves it. -/
@[simp] theorem State.foldl_mem {α : Type} {f : State → α → State} (h : ∀ s a, (f s a).mem = s.mem) (l : List α) (s : State) :
    (l.foldl f s).mem = s.mem := by
  induction l generalizing s with
  | nil => rfl
  | cons a l ih => rw [List.foldl_cons, ih, h]

/-- A fold of changes that each keep memory canonical keeps it. -/
@[simp] theorem State.foldl_wf {α : Type} {f : State → α → State} (hf : ∀ s a, Memory.wf s.mem = true → Memory.wf (f s a).mem = true)
    (l : List α) {s : State} (h : Memory.wf s.mem = true) : Memory.wf (l.foldl f s).mem = true := by
  induction l generalizing s with
  | nil => exact h
  | cons a l ih => exact ih (hf s a h)

theorem State.asCore_wf {s : State} {n : Nat} {f : State → State} (hf : ∀ t, Memory.wf t.mem = true → Memory.wf (f t).mem = true)
    (h : Memory.wf s.mem = true) : Memory.wf (s.asCore n f).mem = true := by
  simpa [State.asCore] using hf _ (by simpa using h)

@[simp] theorem State.updLaunch_mem (s : State) (k : LaunchKey) (f : Launch → Launch) :
    (s.updLaunch k f).mem = s.mem := by simp [State.updLaunch]

@[simp] theorem State.forward_mem (s : State) (u : UnitCfg) (f : Forwarded) : (s.forward u f).mem = s.mem := by simp [State.forward]

@[simp] theorem State.cacheL2_mem (s : State) (core : Nat) (e : TlbEntry) : (s.cacheL2 core e).mem = s.mem := by
  unfold State.cacheL2
  split <;> simp

@[simp] theorem State.own_mem (s : State) (ctx va : Nat) (e : TlbEntry) : (s.own ctx va e).mem = s.mem := by
  simp only [State.own]
  (repeat' split) <;> simp

@[simp] theorem State.touchPages_mem (c : Core) : ∀ (f va n : Nat) (s : State), (s.touchPages c f va n).mem = s.mem
  | 0, _, _, _ => rfl
  | f + 1, va, n, s => by
    simp only [State.touchPages]
    split
    · rfl
    · rw [State.touchPages_mem c f]
      split <;> simp

@[simp] theorem State.touch_mem (s : State) (c : Core) (va n : Nat) : (s.touch c va n).mem = s.mem := by
  unfold State.touch; split <;> simp

/-- A write that went through, or was cut short, has left canonical memory. -/
def EngKept {ε : Type} : Except (ε × State) State → Prop
  | .ok t => Memory.wf t.mem = true
  | .error (_, t) => Memory.wf t.mem = true

theorem EngKept.ok {ε : Type} {r : Except (ε × State) State} {t : State} (h : EngKept r) (e : r = .ok t) : Memory.wf t.mem = true := by
  subst e; exact h

theorem EngKept.error {ε : Type} {r : Except (ε × State) State} {x : ε} {t : State} (h : EngKept r) (e : r = .error (x, t)) :
    Memory.wf t.mem = true := by
  subst e; exact h

theorem State.engWrite_kept (c : Core) : ∀ (f va : Nat) (bs : List Byte) {s : State}, Memory.wf s.mem = true →
    EngKept (s.engWrite c f va bs)
  | 0, _, _, _, h => by unfold State.engWrite; split <;> exact h
  | f + 1, va, bs, s, h => by
    unfold State.engWrite
    split
    · exact h
    · dsimp only
      split
      · exact State.engWrite_kept c f _ _ (by simp [h, Memory.wf_writeBytes])
      · exact h

theorem State.engStoreAs_kept (c : Core) (va : Nat) (bs : List Byte) {s : State} (h : Memory.wf s.mem = true) :
    EngKept (s.engStoreAs c va bs) := State.engWrite_kept c _ va bs h

theorem State.engStore_kept (core va : Nat) (bs : List Byte) {s : State} (h : Memory.wf s.mem = true) :
    EngKept (s.engStore core va bs) := State.engStoreAs_kept _ va bs h

@[simp] theorem State.drawFor_mem (s : State) (e : Entry) : (s.drawFor e).mem = s.mem := by
  unfold State.drawFor
  split <;> simp

@[simp] theorem State.raise_mem (s : State) (core kind cause qid : Nat) (tag : BitVec 16) (rem : Nat) :
    (s.raise core kind cause qid tag rem).mem = s.mem := by simp [State.raise]

@[simp] theorem State.atUnit_mem (s : State) (k : LaunchKey) (unit : Nat) (f : Core → Core) : (s.atUnit k unit f).mem = s.mem := by
  unfold State.atUnit
  split <;> simp

@[simp] theorem State.landBytes_mem (s : State) (ch n : Nat) : (s.landBytes ch n).mem = s.mem := by simp [State.landBytes]

@[simp] theorem State.landCounted_mem (s : State) (e : Entry) (n : Nat) : (s.landCounted e n).mem = s.mem := by
  unfold State.landCounted
  split <;> simp

@[simp] theorem State.landFor_mem (s : State) (e : Entry) (dst n : Nat) : (s.landFor e dst n).mem = s.mem := by
  unfold State.landFor
  split <;> simp

@[simp] theorem State.finishHead_mem (s : State) (qid status count : Nat) :
    (s.finishHead qid status count).mem = s.mem := by simp [State.finishHead]

@[simp] theorem State.entryWaits_mem (s : State) (qid : Nat) (e : Entry) (st : EState) (addr : Word) (kind cause : Nat) :
    (s.entryWaits qid e st addr kind cause).mem = s.mem := by
  unfold State.entryWaits
  (repeat' split) <;> simp

@[simp] theorem State.engineMet_mem (s : State) (qid : Nat) (r : EngRes) (va : Nat) : (s.engineMet qid r va).mem = s.mem := by
  unfold State.engineMet
  (repeat' split) <;> simp

@[simp] theorem State.raiseFault_mem (s : State) (qid cause : Nat) (e : Entry) :
    (s.raiseFault qid cause e).mem = s.mem := by simp [State.raiseFault]

@[simp] theorem State.reportFault_mem (s : State) (qid : Nat) (e : Entry) : (s.reportFault qid e).mem = s.mem := by
  unfold State.reportFault
  split <;> simp

@[simp] theorem State.reportRecord_wf (s : State) (qid : Nat) (e : Entry) (h : Memory.wf s.mem = true) :
    Memory.wf (s.reportRecord qid e).mem = true := by
  simp only [State.reportRecord]
  split
  · exact h
  · split
    · split
      · next heq => split <;> simp [(State.engStore_kept _ _ _ h).ok heq]
      · simp [h]
      · exact h
      · next t heq => exact (State.engStore_kept _ _ _ h).error (t := t) heq
      · next heq => exact (State.engStore_kept _ _ _ h).error heq
    · exact h

@[simp] theorem State.reportEnd_mem (s : State) (qid : Nat) (e : Entry) : (s.reportEnd qid e).mem = s.mem := by
  simp only [State.reportEnd]
  (repeat' split) <;> simp

theorem State.withHead_wf {s : State} {qid : Nat} {f : State → Entry → State}
    (hf : ∀ e, Memory.wf (f s e).mem = true) (h : Memory.wf s.mem = true) : Memory.wf (s.withHead qid f).mem = true := by
  unfold State.withHead; split
  · exact hf _
  · exact h

@[simp] theorem State.reportHead_wf (s : State) (qid : Nat) (h : Memory.wf s.mem = true) : Memory.wf (s.reportHead qid).mem = true :=
  have fault := State.withHead_wf (qid := qid) (f := fun s e => s.reportFault qid e) (fun e => by simp [h]) h
  have record := State.withHead_wf (qid := qid) (f := fun s e => s.reportRecord qid e) (fun e => by simp [fault]) fault
  State.withHead_wf (fun e => by simp [record]) record

@[simp] theorem State.withdrawArrival_mem (s : State) (c : Core) : (s.withdrawArrival c).mem = s.mem := by
  unfold State.withdrawArrival
  split <;> simp

@[simp] theorem State.withdraw_mem (s : State) (c : Core) : (s.withdraw c).mem = s.mem := by
  unfold State.withdraw
  split <;> simp

@[simp] theorem State.wdFlush_wf (s : State) (part : Nat) (h : Memory.wf s.mem = true) : Memory.wf (s.wdFlush part).mem = true := by
  simp only [State.wdFlush]
  split
  · exact h
  · split
    · exact h
    · next base n prod _ =>
      split
      · simpa using h
      · have records := State.foldl_wf (f := fun t (x : List Byte × Nat) => t.writeMem (base + 64 + 16 * ((prod + x.2) % n)) x.1)
          (fun _ _ ht => Memory.wf_writeBytes ht)
        simp only [State.updCore_mem, State.updPart_mem, State.writeMem_mem]
        exact Memory.wf_writeBytes (Memory.wf_writeBytes (records _ h))

@[simp] theorem State.wdPost_wf (s : State) (core : Nat) (rec : List Byte) (h :
    Memory.wf s.mem = true) : Memory.wf (s.wdPost core rec).mem = true := by
  simp only [State.wdPost]
  (repeat' split) <;> simp [h]

@[simp] theorem State.wdTell_wf (s : State) (n : Nat) (h : Memory.wf s.mem = true) : Memory.wf (s.wdTell n).mem = true := by
  simp only [State.wdTell]
  split <;> simp [h]

@[simp] theorem State.leaveBanks_mem (s : State) (n : Nat) : (s.leaveBanks n).mem = s.mem := by simp [State.leaveBanks]

@[simp] theorem State.beginSave_wf (s : State) (n : Nat) (h : Memory.wf s.mem = true) : Memory.wf (s.beginSave n).mem = true := by
  simp only [State.beginSave]
  (repeat' split) <;> simp [h]

@[simp] theorem State.beginSaves_wf (s : State) (ns : List Nat) (h : Memory.wf s.mem = true) : Memory.wf (s.beginSaves ns).mem = true :=
  State.foldl_wf (fun _ _ ht => by simp [ht]) ns h

@[simp] theorem State.joinSet_mem (s : State) (ctx set : Nat) (ns : List Nat) :
    (s.joinSet ctx set ns).mem = s.mem := by simp [State.joinSet]

@[simp] theorem State.loadStore_wf (s : State) (n : Nat) (cells : List Host.Cell) (h : Memory.wf s.mem = true) :
    Memory.wf (s.loadStore n cells).mem = true :=
  State.foldl_wf (f := fun s (c : Host.Cell) => { s with mem := Memory.write (localKey n c.1) c.2 s.mem })
    (fun _ _ ht => Memory.wf_write ht) cells (State.zeroRange_wf h)

@[simp] theorem State.setPlace_mem (s : State) (k : LaunchKey) (unit : Nat) (p : UnitPlace) :
    (s.setPlace k unit p).mem = s.mem := by simp [State.setPlace]

@[simp] theorem State.saveComplete_mem (s : State) (n : Nat) : (s.saveComplete n).mem = s.mem := by
  simp only [State.saveComplete]
  (repeat' split) <;> simp

@[simp] theorem State.zeroingDone_wf (s : State) (n : Nat) (h : Memory.wf s.mem = true) : Memory.wf (s.zeroingDone n).mem = true := by
  unfold State.zeroingDone
  split <;> simp [h, Memory.wf_clear]

@[simp] theorem State.followUnit_mem (s : State) (u : UnitCfg) (core : Nat) :
    (s.followUnit u core).mem = s.mem := by simp [State.followUnit]

@[simp] theorem State.restoreDone_wf (s : State) (ctx set : Nat) (h : Memory.wf s.mem = true) :
    Memory.wf (s.restoreDone ctx set).mem = true := by
  simp only [State.restoreDone]
  split
  · exact h
  · split
    · exact h
    · split
      · refine State.foldl_wf (fun t p ht => ?_) _ h
        split <;> simp [ht]
      · exact h

@[simp] theorem State.forceSave_wf (s : State) (gang : List Nat) (h :
    Memory.wf s.mem = true) : Memory.wf (s.forceSave gang).mem = true := by simp [State.forceSave, h]

@[simp] theorem State.hold_wf (s : State) (h : Memory.wf s.mem = true) : Memory.wf s.hold.mem = true := by
  unfold State.hold
  split <;> simp [h]

@[simp] theorem State.wdExpire_wf (s : State) (h : Memory.wf s.mem = true) : Memory.wf s.wdExpire.mem = true := by
  simp only [State.wdExpire]
  (repeat' split) <;> simp [h]

@[simp] theorem State.wakeAll_mem (s : State) (k : Nat) : (s.wakeAll k).mem = s.mem := by simp [State.wakeAll]

@[simp] theorem State.dropWaiter_mem (s : State) : s.dropWaiter.mem = s.mem := by simp [State.dropWaiter]

@[simp] theorem State.addWaiter_mem (s : State) (w : Waiter) : (s.addWaiter w).mem = s.mem := by simp [State.addWaiter]

@[simp] theorem State.markIn_mem (s : State) (core ch : Nat) (gather : Bool) : (s.markIn core ch gather).mem = s.mem := by
  unfold State.markIn
  split <;> simp

theorem State.gatherWrite_kept (ch : Channel) {s : State} (h : Memory.wf s.mem = true) : EngKept (s.gatherWrite ch) := by
  unfold State.gatherWrite; split
  · exact h
  · exact State.engStoreAs_kept _ _ _ h

@[simp] theorem State.batchOne_wf (s : State) (core : Nat) (b : Batched) (h : Memory.wf s.mem = true) :
    Memory.wf (s.batchOne core b).mem = true := by
  simp [State.batchOne, h, Memory.wf_writeBytes]

@[simp] theorem State.batchPerform_wf (s : State) (ch : Channel) (failed : Bool) (h :
    Memory.wf s.mem = true) : Memory.wf (s.batchPerform ch failed).mem = true := by
  simp only [State.batchPerform]
  (repeat' split) <;> simp_all

@[simp] theorem State.finishEpisode_wf (s : State) (ch : Channel) (failed : Bool) (h : Memory.wf s.mem = true) :
    Memory.wf (s.finishEpisode ch failed).mem = true := by
  simp only [State.finishEpisode]
  split
  · simp [h]
  · refine State.foldl_wf (fun t u ht => ?_) _ (by simp [h])
    (repeat' split) <;> simp [ht]

@[simp] theorem State.episodeComplete_wf (s : State) (n : Nat) (h : Memory.wf s.mem = true) :
    Memory.wf (s.episodeComplete n).mem = true := by
  unfold State.episodeComplete
  split
  · exact h
  · split
    · split <;> simp [h]
    · split
      · split
        · next heq => simp [(State.gatherWrite_kept _ h).ok heq]
        · simp [h]
        · simp [h]
        · next heq => simp [(State.gatherWrite_kept _ h).error heq]
      · exact h

@[simp] theorem waitFinish_mem (ch : BitVec 5) (traps : Bool) (s : State) : (waitFinish ch traps s).mem = s.mem := by
  unfold waitFinish
  split <;> simp

@[simp] theorem State.markAfter_mem (s : State) (n : Nat) (us : List Nat) (gs : List Gathered) : (s.markAfter n us gs).mem = s.mem := by
  unfold State.markAfter
  split <;> simp

@[simp] theorem State.failEpisode_wf (s : State) (x : Channel) (h : Memory.wf s.mem = true) : Memory.wf (s.failEpisode x).mem = true := by
  simp only [State.failEpisode]
  (repeat' split) <;> simp [h]

@[simp] theorem State.bcancel_wf (s : State) (x : Channel) (h : Memory.wf s.mem = true) : Memory.wf (s.bcancel x).mem = true := by
  simp only [State.bcancel]
  (repeat' split) <;> simp [h]

@[simp] theorem State.sendResult_wf (s : State) (h : Memory.wf s.mem = true) : Memory.wf (s.sendResult).mem = true := by
  simp only [State.sendResult]
  (repeat' split) <;> simp [h, State.portDeliver_wf]

@[simp] theorem State.retryResult_mem (s : State) : s.retryResult.mem = s.mem := by simp [State.retryResult]

@[simp] theorem State.failPort_mem (s : State) (n : Nat) (tooLong : Bool) : (s.failPort n tooLong).mem = s.mem := by
  unfold State.failPort
  split <;> simp

@[simp] theorem State.trainingFails_mem (s : State) (n : Nat) : (s.trainingFails n).mem = s.mem := by
  unfold State.trainingFails
  (repeat' split) <;> simp

@[simp] theorem State.trainingEnds_mem (s : State) (n : Nat) : (s.trainingEnds n).mem = s.mem := by
  simp only [State.trainingEnds]
  (repeat' split) <;> simp

@[simp] theorem State.sendPacket_mem (s : State) : s.sendPacket.mem = s.mem := by
  unfold State.sendPacket
  (repeat' split) <;> simp

@[simp] theorem State.drainPort_mem (s : State) (n : Nat) : (s.drainPort n).mem = s.mem := by
  unfold State.drainPort
  split <;> simp

@[simp] theorem State.idlePorts_mem (s : State) : s.idlePorts.mem = s.mem := by simp [State.idlePorts]

@[simp] theorem State.onFlit_mem (s : State) (n : Nat) (rx : List (List Level)) (f : LinkPort → BitVec 256 → LinkPort) :
    (s.onFlit n rx f).mem = s.mem := by simp [State.onFlit]

@[simp] theorem State.onCtl_mem (s : State) (n : Nat) (rx : List (List Level)) (type : Nat) (f : LinkPort → BitVec 256 → LinkPort) :
    (s.onCtl n rx type f).mem = s.mem := by simp [State.onCtl]

@[simp] theorem State.hubRetranslates_mem (s : State) (ctx : Nat) : (s.hubRetranslates ctx).mem = s.mem := by simp [State.hubRetranslates]

@[simp] theorem State.scrubPages_wf (s : State) (gone : List Frame) (kept : List (Nat × Nat)) (h : Memory.wf s.mem = true) :
    Memory.wf (s.scrubPages gone kept).mem = true :=
  State.foldl_wf (fun _ _ ht => State.zeroRange_wf ht) _ h

@[simp] theorem State.unmapped_wf (s : State) (ctx kind va : Nat) (h :
    Memory.wf s.mem = true) : Memory.wf (s.unmapped ctx kind va).mem = true := by
  unfold State.unmapped
  split <;> simp [h]

@[simp] theorem State.tlbInvalidate_wf (s : State) (scope kind va : Nat) (h :
    Memory.wf s.mem = true) : Memory.wf (s.tlbInvalidate scope kind va).mem = true := by simp [State.tlbInvalidate, h]

@[simp] theorem State.sendNotice_mem (s : State) (n page status : Nat) : (s.sendNotice n page status).mem = s.mem := by
  simp only [State.sendNotice]
  (repeat' split) <;> simp

@[simp] theorem State.regionWrite_wf (s : State) (p : Nat) (bs : List Byte) (h : Memory.wf s.mem = true) :
    Memory.wf (s.regionWrite p bs).mem = true :=
  State.foldl_wf (fun _ _ ht => State.writeMem_wf ht) _ h

@[simp] theorem State.headToRegion_wf (s : State) (h :
    Memory.wf s.mem = true) : Memory.wf s.headToRegion.mem = true := by simp [State.headToRegion, h]

@[simp] theorem State.regionToHead_mem (s : State) : s.regionToHead.mem = s.mem := by simp [State.regionToHead]

@[simp] theorem kerfFinish_wf {s s' : State} {r : KerfRes} (h : Memory.wf s.mem = true) (h' : Memory.wf s'.mem = true) :
    Memory.wf (kerfFinish s r s').mem = true := by
  cases r <;> simp [kerfFinish, h, h']

@[simp] theorem State.backToRegion_wf (s : State) (got : List Byte) (h : Memory.wf s.mem = true) :
    Memory.wf (s.backToRegion got).mem = true := by
  unfold State.backToRegion
  rw [State.updMe_mem]
  exact State.regionWrite_wf _ _ _ h

theorem State.dropTo_wf (d : Nat) : ∀ (got : List Byte) (f : Nat) {s t : State}, s.dropTo d got f = .ok t →
    Memory.wf s.mem = true → Memory.wf t.mem = true
  | _, 0, s, t, e, h => by
    unfold State.dropTo at e
    cases e
    exact h
  | got, f + 1, s, t, e, h => by
    unfold State.dropTo at e
    dsimp only at e
    split at e
    · cases e
    · split at e
      · cases e
        exact h
      · split at e
        · split at e
          · cases e
          · exact State.dropTo_wf d got f e (by simp [h])
        · split at e
          · cases e
          · exact State.dropTo_wf d _ f e (by simp [h])

@[simp] theorem State.kerfFail_mem (s : State) (k : KerfOp) (cause : Nat) (va : Word) :
    (s.kerfFail k cause va).mem = s.mem := by simp [State.kerfFail]

@[simp] theorem State.kerfMoved_mem (s : State) (k : KerfOp) : (s.kerfMoved k).mem = s.mem := by simp [State.kerfMoved]

@[simp] theorem State.kerfService_wf (s : State) (h : Memory.wf s.mem = true) : Memory.wf (s.kerfService).mem = true := by
  simp only [State.kerfService]
  split
  · exact h
  · split
    · exact h
    · split
      · split
        · simp [h]
        · split
          · next heq => simpa using (State.engStore_kept _ _ _ h).ok heq
          · simp [h]
          · exact h
      · split
        · split <;> simp [h, Memory.wf_writeBytes]
        · simp [h]
        · exact h

@[simp] theorem State.kerfComplete_mem (s : State) (spill : Bool) : (s.kerfComplete spill).mem = s.mem := by
  unfold State.kerfComplete
  (repeat' split) <;> simp

@[simp] theorem qwaitFinish_wf {s s' : State} {r : Option (Nat × BitVec 16)} (h : Memory.wf s.mem = true) (h' : Memory.wf s'.mem = true) :
    Memory.wf (qwaitFinish s r s').mem = true := by
  cases r <;> simp [qwaitFinish, h, h']

@[simp] theorem State.acceptEntry_mem (s : State) (field : Nat) : (s.acceptEntry field).mem = s.mem := by
  unfold State.acceptEntry
  (repeat' split) <;> simp

@[simp] theorem State.endFences_mem (s : State) (tag : BitVec 16) : (s.endFences tag).mem = s.mem := by simp [State.endFences]

@[simp] theorem State.breakFences_mem (s : State) (tag : BitVec 16) : (s.breakFences tag).mem = s.mem := by simp [State.breakFences]

@[simp] theorem State.takeFence_mem (s : State) (h : CmdHead) (f : QfenceCmd) : (s.takeFence h f).mem = s.mem := by
  simp only [State.takeFence]
  (repeat' split) <;> simp

theorem State.takeHead_wf {s : State} {qid : Nat} {h : CmdHead} {c : Cmd} {f : Entry → State → State}
    (hf : ∀ e t, Memory.wf t.mem = true → Memory.wf (f e t).mem = true) (hs : Memory.wf s.mem = true) :
    Memory.wf (s.takeHead qid h c f).mem = true := by
  unfold State.takeHead
  split
  · split
    · exact hf _ _ hs
    · exact hs
  · exact hs

@[simp] theorem State.mapSlots_mem (s : State) (group : Nat) (w : WaveState) :
    (s.mapSlots group w).mem = s.mem := by simp [State.mapSlots]

@[simp] theorem cgetFinish_wf {s s' : State} {r : Option Nat} (h : Memory.wf s.mem = true) (h' : Memory.wf s'.mem = true) :
    Memory.wf (cgetFinish s r s').mem = true := by
  cases r <;> simp [cgetFinish, h, h']

@[simp] theorem State.send_mem (s : State) (part : Option Nat) (m : OutMsg) : (s.send part m).mem = s.mem := by simp [State.send]

@[simp] theorem State.sendFor_mem (s : State) (group : Nat) (m : OutMsg) : (s.sendFor group m).mem = s.mem := by simp [State.sendFor]

@[simp] theorem State.waveResult_mem (s : State) (group : Nat) (v : Word) :
    (s.waveResult group v).mem = s.mem := by simp [State.waveResult]

theorem State.waveStep_mem {s t : State} {group : Nat} {remote : Bool} (h : s.waveStep group remote = some t) : t.mem = s.mem := by
  unfold State.waveStep at h
  dsimp only at h
  split at h
  · split at h
    · cases h
    · obtain ⟨v, -, rfl⟩ := Option.map_eq_some_iff.1 h
      simp
  · split at h
    · cases h
    · split at h
      · cases h
      · split at h
        · obtain ⟨v, -, rfl⟩ := Option.map_eq_some_iff.1 h
          simp
        · obtain ⟨v, -, rfl⟩ := Option.map_eq_some_iff.1 h
          simp

@[simp] theorem State.waveComplete_mem (s : State) (group : Nat) (remote : Bool) : (s.waveComplete group remote).mem = s.mem := by
  unfold State.waveComplete
  cases h : s.waveStep group remote with
  | none => rfl
  | some t => exact State.waveStep_mem h

@[simp] theorem State.endCplan_mem (s : State) (core group status count : Nat) :
    (s.endCplan core group status count).mem = s.mem := by simp [State.endCplan]

theorem State.reservePlan_mem {s t : State} {round : Nat × Nat} {k : PlanCommon} {list : List (Nat × Nat)}
    (h : s.reservePlan round k list = some t) : t.mem = s.mem := by
  simp only [State.reservePlan, Option.ite_none_right_eq_some] at h
  obtain ⟨-, h⟩ := h
  cases h
  rfl

@[simp] theorem State.planVerdict_mem (s : State) (round : Nat × Nat) (group : Nat) (list : List (Nat × Nat)) (status : Nat) :
    (s.planVerdict round group list status).mem = s.mem := by
  unfold State.planVerdict
  (repeat' split) <;> simp

@[simp] theorem State.decidePlan_mem (s : State) (r : Reserving) : (s.decidePlan r).mem = s.mem := by
  unfold State.decidePlan
  (repeat' split) <;> simp

@[simp] theorem State.planReserved_mem (s : State) (pkg id : Nat) (ok : Bool) : (s.planReserved pkg id ok).mem = s.mem := by
  simp only [State.planReserved]
  (repeat' split) <;> simp

@[simp] theorem State.setUpPlan_mem (s : State) (k : PlanCommon) (list : List (Nat × Nat)) : (s.setUpPlan k list).mem = s.mem := by
  simp only [State.setUpPlan]
  split
  · next h => simp [State.reservePlan_mem h]
  · simp

@[simp] theorem State.endArrival_mem (s : State) (a : PlanArrival) (status : Nat) : (s.endArrival a status).mem = s.mem := by
  unfold State.endArrival
  split <;> simp

@[simp] theorem State.planArrive_mem (s : State) (a : PlanArrival) : (s.planArrive a).mem = s.mem := by
  simp only [State.planArrive]
  (repeat' split) <;> simp

@[simp] theorem State.cplanRead_mem (s : State) (bs ms : List Byte) : (s.cplanRead bs ms).mem = s.mem := by
  simp only [State.cplanRead]
  (repeat' split) <;> simp

@[simp] theorem State.cplanList_mem (s : State) (bs : List Byte) : (s.cplanList bs).mem = s.mem := by
  simp only [State.cplanList]
  (repeat' split) <;> simp

@[simp] theorem State.takeCplan_mem (s : State) (cmd : CplanCmd) : (s.takeCplan cmd).mem = s.mem := by
  simp only [State.takeCplan]
  (repeat' split) <;> simp

@[simp] theorem State.enterPosting_mem (s : State) (x : Posting) : (s.enterPosting x).mem = s.mem := by simp [State.enterPosting]

@[simp] theorem State.memberEvent_mem (s : State) (m : PlanMember) (cause : Nat) : (s.memberEvent m cause).mem = s.mem := by
  unfold State.memberEvent
  split <;> simp

theorem State.recordAtMember_wf {s t : State} {m : PlanMember} {inst : Nat} {grank : Word} {failed : Bool}
    (e : s.recordAtMember m inst grank failed = .ok t) (h : Memory.wf s.mem = true) : Memory.wf t.mem = true := by
  simp only [State.recordAtMember] at e
  split at e
  · next u heq =>
    have hu : Memory.wf u.mem = true := (State.engStoreAs_kept _ _ _ h).ok heq
    generalize (if failed then [20] else [] : List Nat) = causes at e
    split_ifs at e
    cases e
    simpa using hu
  · next c u heq =>
    have hu : Memory.wf u.mem = true := (State.engStoreAs_kept _ _ _ h).error heq
    generalize (c :: if failed then [20] else [] : List Nat) = causes at e
    split_ifs at e
    cases e
    simpa using hu
  · cases e

theorem State.endAtMember_wf {s t : State} {p : Plan} {m : PlanMember} {inst : Nat} {grank : Word} {failed : Bool}
    (e : s.endAtMember p m inst grank failed = .ok t) (h : Memory.wf s.mem = true) : Memory.wf t.mem = true := by
  unfold State.endAtMember at e
  cases hr : s.recordAtMember m inst grank failed with
  | error b => rw [hr] at e; cases e
  | ok u =>
    rw [hr] at e
    cases e
    exact State.recordAtMember_wf (t := u) hr h

theorem State.deliverTo_wf {s t : State} {p : Plan} {m : PlanMember} {inst : Nat} {grank : Word} {result : Option (Option (List Byte))}
    (e : s.deliverTo p m inst grank result = .ok t) (h : Memory.wf s.mem = true) : Memory.wf t.mem = true := by
  unfold State.deliverTo at e
  split at e
  · exact State.endAtMember_wf e h
  · exact State.endAtMember_wf e h
  · split at e
    · next heq =>
      refine State.endAtMember_wf e ?_
      (repeat' split) <;> simp [(State.engStoreAs_kept _ _ _ h).ok heq]
    · cases e
    · next heq => exact State.endAtMember_wf e ((State.engStoreAs_kept _ _ _ h).error heq)

theorem State.foldl_bind_wf {α : Type} {f : State → α → Option State}
    (hf : ∀ s a t, f s a = some t → Memory.wf s.mem = true → Memory.wf t.mem = true) (l : List α) {o : Option State} {t : State}
    (ho : ∀ s, o = some s → Memory.wf s.mem = true)
    (h : l.foldl (fun acc a => acc.bind (fun s => f s a)) o = some t) : Memory.wf t.mem = true := by
  induction l generalizing o with
  | nil => exact ho t h
  | cons a l ih =>
    refine ih (fun u hu => ?_) h
    obtain ⟨s, hs, hu⟩ := Option.bind_eq_some_iff.1 hu
    exact hf s a u hu (ho s hs)

theorem State.endStarted_wf {s t : State} {group inst : Nat} (e : s.endStarted group inst = some t) (h : Memory.wf s.mem = true) :
    Memory.wf t.mem = true := by
  unfold State.endStarted at e
  split at e
  · cases e
  · split at e
    · cases e
    · next p _ _ bufs _ =>
      refine State.foldl_bind_wf (fun u x v hv hu => ?_) _ (fun u hu => by cases hu; exact h) e
      split at hv
      · cases hv; exact hu
      · next m _ =>
        cases hd : u.deliverTo p m inst x.grank (bufs.map (fun b => planResult p.common b x.rank)) with
        | error b => rw [hd] at hv; cases hv
        | ok v => rw [hd] at hv; cases hv; exact State.deliverTo_wf (t := v) hd hu

@[simp] theorem State.instanceEnd_wf (s : State) (group inst : Nat) (h : Memory.wf s.mem = true) :
    Memory.wf (s.instanceEnd group inst).mem = true := by
  unfold State.instanceEnd
  split
  · next t heq => exact State.endStarted_wf (t := t) heq h
  · exact h

@[simp] theorem State.failInstance_wf (s : State) (p : Plan) (m : PlanMember) (inst : Nat) (grank : Word) (h : Memory.wf s.mem = true) :
    Memory.wf (s.failInstance p m inst grank).mem = true := by
  unfold State.failInstance
  split
  · exact h
  · split
    · next t heq => exact State.endAtMember_wf (t := t) heq h
    · exact h

@[simp] theorem State.reapPlans_mem (s : State) : s.reapPlans.mem = s.mem := by simp [State.reapPlans]

@[simp] theorem State.retryEnd_wf (s : State) (e : EndWait) (h : Memory.wf s.mem = true) : Memory.wf (s.retryEnd e).mem = true := by
  unfold State.retryEnd
  split
  · next t heq =>
    have ht : Memory.wf t.mem = true := State.recordAtMember_wf heq h
    split <;> exact ht
  · exact h

@[simp] theorem State.retryEnds_wf (s : State) (h : Memory.wf s.mem = true) : Memory.wf s.retryEnds.mem = true := by
  unfold State.retryEnds
  rw [State.reapPlans_mem]
  refine State.foldl_wf (fun t e ht => ?_) _ h
  split <;> simp [ht]

@[simp] theorem State.appendTicket_mem (s : State) (t : Ticket) : (s.appendTicket t).mem = s.mem := by
  unfold State.appendTicket
  refine State.foldl_mem (fun u k => ?_) _ s
  split <;> simp

@[simp] theorem State.issueTicket_mem (s : State) (p : Plan) (inst : Nat) : (s.issueTicket p inst).mem = s.mem := by
  simp only [State.issueTicket]
  split
  · simp
  · refine State.foldl_mem (fun u k => ?_) _ _
    split <;> simp

@[simp] theorem State.updPosting_mem (s : State) (x : Posting) (f : LocalPosting → LocalPosting) :
    (s.updPosting x f).mem = s.mem := by simp [State.updPosting]

@[simp] theorem State.dropPosting_mem (s : State) (x : Posting) : (s.dropPosting x).mem = s.mem := by simp [State.dropPosting]

@[simp] theorem State.failInst_wf (s : State) (group inst : Nat) (h : Memory.wf s.mem = true) :
    Memory.wf (s.failInst group inst).mem = true := by
  unfold State.failInst
  split
  · exact h
  · refine State.foldl_wf (fun t m ht => ?_) _ h
    split <;> simp [ht]

@[simp] theorem State.failEverywhere_wf (s : State) (p : Plan) (inst : Nat) (h : Memory.wf s.mem = true) :
    Memory.wf (s.failEverywhere p inst).mem = true := by
  simp [State.failEverywhere, h]

@[simp] theorem State.postingReply_wf (s : State) (x : Posting) (code : Nat) (h :
    Memory.wf s.mem = true) : Memory.wf (s.postingReply x code).mem = true := by
  unfold State.postingReply
  split <;> simp [h]

@[simp] theorem State.answerPosting_wf (s : State) (pkg : Nat) (x : Posting) (code : Nat) (h :
    Memory.wf s.mem = true) : Memory.wf (s.answerPosting pkg x code).mem = true := by
  unfold State.answerPosting
  split <;> simp [h]

@[simp] theorem State.acceptPosting_mem (s : State) (p : Plan) (x : Posting) : (s.acceptPosting p x).mem = s.mem := by
  simp only [State.acceptPosting]
  (repeat' split) <;> simp

@[simp] theorem State.postingArrive_wf (s : State) (x : Posting) (h :
    Memory.wf s.mem = true) : Memory.wf (s.postingArrive x).mem = true := by
  simp only [State.postingArrive]
  (repeat' split) <;> simp [h]

@[simp] theorem State.sendPosting_wf (s : State) (x : Posting) (h : Memory.wf s.mem = true) : Memory.wf (s.sendPosting x).mem = true := by
  simp only [State.sendPosting]
  (repeat' split) <;> simp [h]

@[simp] theorem State.postingResend_wf (s : State) (hub : Nat) (h :
    Memory.wf s.mem = true) : Memory.wf (s.postingResend hub).mem = true := by
  unfold State.postingResend
  (repeat' split) <;> simp [h]

@[simp] theorem State.contribute_mem (s : State) (p : Plan) (inst : Nat) (ms : List PlanMember) :
    (s.contribute p inst ms).mem = s.mem := by
  unfold State.contribute
  refine State.foldl_mem (fun t m => ?_) _ s
  split <;> simp

@[simp] theorem State.startTicket_mem (s : State) (t : Ticket) : (s.startTicket t).mem = s.mem := by
  simp only [State.startTicket]
  (repeat' split) <;> simp

@[simp] theorem State.ticketArrive_mem (s : State) (t : Ticket) : (s.ticketArrive t).mem = s.mem := by
  unfold State.ticketArrive
  split <;> simp

@[simp] theorem State.rankFreed_mem (s : State) (group rank : Nat) : (s.rankFreed group rank).mem = s.mem := by
  simp only [State.rankFreed]
  (repeat' split) <;> simp

@[simp] theorem State.memberFreed_mem (s : State) (p : Plan) (m : PlanMember) : (s.memberFreed p m).mem = s.mem := by
  unfold State.memberFreed
  split <;> simp

@[simp] theorem State.takeCfree_mem (s : State) (cmd : CfreeCmd) : (s.takeCfree cmd).mem = s.mem := by
  unfold State.takeCfree
  split <;> simp

@[simp] theorem State.endCfree_mem (s : State) (h : CmdHead) (cmd : CfreeCmd) : (s.endCfree h cmd).mem = s.mem := by
  unfold State.endCfree
  (repeat' split) <;> simp

@[simp] theorem State.killPlan_wf (s : State) (p : Plan) (unticketed : Bool) (h : Memory.wf s.mem = true) :
    Memory.wf (s.killPlan p unticketed).mem = true := by
  have ends := State.foldl_wf (f := fun (t : State) (m : PlanMember) => m.outstanding.foldl (fun (t : State) o =>
      if unticketed && (s.coll.stream.any (fun t => t.group == p.common.group && t.inst == o.1) ||
        (s.coll.startedAt p.common.group o.1).any (fun x => x.rank == m.rank)) then t
      else t.failInstance p m o.1 (s.rankOfEnd p.common.group o.1 m.rank)) t)
    (fun t m ht => State.foldl_wf (fun u o hu => by split <;> simp [hu]) _ ht) p.members h
  simp only [State.killPlan]
  split <;> exact ends

@[simp] theorem State.hubFail_wf (s : State) (pkg : Nat) (h : Memory.wf s.mem = true) : Memory.wf (s.hubFail pkg).mem = true := by
  unfold State.hubFail
  refine State.foldl_wf (fun t p ht => ?_) _ h
  (repeat' split) <;> simp [ht]

@[simp] theorem State.freePlans_wf (s : State) (ctx : Nat) (h : Memory.wf s.mem = true) : Memory.wf (s.freePlans ctx).mem = true := by
  simp only [State.freePlans]
  exact State.foldl_wf (fun t p ht => by simp [ht]) _ h

@[simp] theorem State.giveRole_mem (s : State) (root : Bool) (hub : Nat) : (s.giveRole root hub).mem = s.mem := by simp [State.giveRole]

@[simp] theorem State.takeRole_mem (s : State) (root : Bool) (count : Nat) (plans : List RolePlan) (table : List (Nat × Nat × List Nat)) (rounds : List PlanRound) :
    (s.takeRole root count plans table rounds).mem = s.mem := by simp [State.takeRole]

@[simp] theorem State.changeJob_mem (s : State) (part ctx id : Nat) (f : Counter → Counter) :
    (s.changeJob part ctx id f).mem = s.mem := by simp [State.changeJob]

@[simp] theorem State.changePhase_mem (s : State) (part ctx id : Nat) (f : Counter → Counter) :
    (s.changePhase part ctx id f).mem = s.mem := by
  simp only [State.changePhase]
  (repeat' split) <;> simp

@[simp] theorem State.changeGraph_mem (s : State) (part ctx id : Nat) (f : Counter → Counter) :
    (s.changeGraph part ctx id f).mem = s.mem := by
  simp only [State.changeGraph]
  (repeat' split) <;> simp

@[simp] theorem State.checkReady_mem (s : State) (k : LaunchKey) : (s.checkReady k).mem = s.mem := by
  unfold State.checkReady
  (repeat' split) <;> simp

@[simp] theorem State.decrement_mem (s : State) (done : Launch) (index : Nat) : (s.decrement done index).mem = s.mem := by
  simp only [State.decrement]
  (repeat' split) <;> simp

@[simp] theorem State.launchIrq_mem (s : State) (l : Launch) : (s.launchIrq l).mem = s.mem := by
  unfold State.launchIrq
  (repeat' split) <;> simp

@[simp] theorem State.launchDone_mem (s : State) (k : LaunchKey) : (s.launchDone k).mem = s.mem := by
  unfold State.launchDone
  (repeat' split) <;> simp

@[simp] theorem State.launchRecordWrite_wf (s : State) (k : LaunchKey) (h : Memory.wf s.mem = true) :
    Memory.wf (s.launchRecordWrite k).mem = true := by
  simp only [State.launchRecordWrite]
  split
  · exact h
  · split
    · next heq => simpa using (State.engStoreAs_kept _ _ _ h).ok heq
    · simp [h]
    · simp [h]
    · next heq => simpa using (State.engStoreAs_kept _ _ _ h).error heq

@[simp] theorem State.freeKept_mem (s : State) (l : Launch) : (s.freeKept l).mem = s.mem := by simp [State.freeKept]

@[simp] theorem State.settleLaunch_wf (s : State) (k : LaunchKey) (h :
    Memory.wf s.mem = true) : Memory.wf (s.settleLaunch k).mem = true := by
  unfold State.settleLaunch
  (repeat' split) <;> simp [h]

@[simp] theorem State.leaveChannels_mem (s : State) (c : Core) : (s.leaveChannels c).mem = s.mem := by
  unfold State.leaveChannels
  split <;> simp

@[simp] theorem State.completeEntries_wf (s : State) (n : Nat) (h :
    Memory.wf s.mem = true) : Memory.wf (s.completeEntries n).mem = true := by
  refine State.asCore_wf (fun t ht => State.foldl_wf (fun u q hu => ?_) _ ht) h
  split
  · split <;> simp [hu]
  · exact hu

@[simp] theorem State.endUnit_wf (s : State) (n : Nat) (exited : Bool) (h :
    Memory.wf s.mem = true) : Memory.wf (s.endUnit n exited).mem = true := by
  simp only [State.endUnit]
  (repeat' split) <;> simp [h]

@[simp] theorem State.dropImage_mem (s : State) (k : LaunchKey) (ctx unit : Nat) : (s.dropImage k ctx unit).mem = s.mem := by
  simp only [State.dropImage]
  (repeat' split) <;> simp

@[simp] theorem State.exitCore_wf (s : State) (n : Nat) (h : Memory.wf s.mem = true) : Memory.wf (s.exitCore n).mem = true := by
  simp only [State.exitCore]
  (repeat' split) <;> simp [h]

@[simp] theorem State.stopUnit_wf (s : State) (l : Launch) (u : Nat × UnitPlace) (h :
    Memory.wf s.mem = true) : Memory.wf (s.stopUnit l u).mem = true := by
  unfold State.stopUnit
  (repeat' split) <;> simp [h]

@[simp] theorem State.stopUnits_wf (s : State) (l : Launch) (us : List (Nat × UnitPlace)) (h : Memory.wf s.mem = true) :
    Memory.wf (s.stopUnits l us).mem = true :=
  State.foldl_wf (fun _ _ ht => by simp [ht]) us h

@[simp] theorem State.cancelLaunch_wf (s : State) (l : Launch) (h :
    Memory.wf s.mem = true) : Memory.wf (s.cancelLaunch l).mem = true := by
  unfold State.cancelLaunch
  (repeat' split) <;> simp [h]

@[simp] theorem State.changeCounter_mem (s : State) (part ctx level key : Nat) (f : Counter → Counter) :
    (s.changeCounter part ctx level key f).mem = s.mem := by
  unfold State.changeCounter
  split <;> simp

@[simp] theorem State.cancelCore_wf (s : State) (n : Nat) (h : Memory.wf s.mem = true) : Memory.wf (s.cancelCore n).1.mem = true := by
  unfold State.cancelCore
  split
  · exact h
  · split
    · split <;> simp [h]
    · simp [h]

@[simp] theorem State.cancelLevel_wf (s : State) (part ctx level key : Nat) (h : Memory.wf s.mem = true) :
    Memory.wf (s.cancelLevel part ctx level key).1.mem = true := by
  unfold State.cancelLevel
  split
  · exact h
  · exact State.foldl_wf (fun t l ht => by simp [ht]) _ (by simpa using h)

@[simp] theorem State.rejectInGraph_mem (s : State) (p : Partition) (ctx : Nat) (k : Packet) : (s.rejectInGraph p ctx k).mem = s.mem := by
  unfold State.rejectInGraph
  (repeat' split) <;> simp

@[simp] theorem State.acceptPacket_mem (s : State) (p : Partition) (c : Core) (h : CmdHead) (cmd : LaunchCmd) (k : Packet) (hd : KernelHeader) (recs : List TileRec) :
    (s.acceptPacket p c h cmd k hd recs).mem = s.mem := by simp [State.acceptPacket]

@[simp] theorem State.rejectRecord_wf (s : State) (crec off index : Nat) (h : Memory.wf s.mem = true) :
    Memory.wf (s.rejectRecord crec off index).mem = true := by
  unfold State.rejectRecord
  split
  · next heq => simpa using (State.engStoreAs_kept _ _ _ h).ok heq
  · simp [h]
  · simp [h]
  · next heq => simpa using (State.engStoreAs_kept _ _ _ h).error heq

@[simp] theorem State.keepBlocks_mem (s : State) (qid : Nat) (read : List (List Byte)) :
    (s.keepBlocks qid read).mem = s.mem := by simp [State.keepBlocks]

@[simp] theorem State.judgeLaunch_wf (s : State) (c : CmdHead) (cmd : LaunchCmd) (bs head splits recs : List Byte)
    (h : Memory.wf s.mem = true) : Memory.wf (s.judgeLaunch c cmd bs head splits recs).mem = true := by
  simp only [State.judgeLaunch]
  (repeat' split) <;> simp [h]

@[simp] theorem State.checkLaunch_wf (s : State) (c : CmdHead) (cmd : LaunchCmd) (bs head splits : List Byte)
    (h : Memory.wf s.mem = true) : Memory.wf (s.checkLaunch c cmd bs head splits).mem = true := by
  simp only [State.checkLaunch]
  split <;> simp [h]

@[simp] theorem State.takeLaunch_wf (s : State) (c : CmdHead) (cmd : LaunchCmd) (h : Memory.wf s.mem = true) :
    Memory.wf (s.takeLaunch c cmd).mem = true := by
  simp only [State.takeLaunch]
  split
  · simp [h]
  · simp [h]
  · simp [h]
  · split <;> simp [h]

@[simp] theorem State.bindCore_mem (s : State) (l : Launch) (n : Nat) : (s.bindCore l n).mem = s.mem := by
  unfold State.bindCore
  (repeat' split) <;> simp

@[simp] theorem State.startUnit_wf (s : State) (l : Launch) (u n : Nat) (gang : List Nat) (h : Memory.wf s.mem = true) :
    Memory.wf (s.startUnit l u n gang).mem = true := by
  simp only [State.startUnit]
  (repeat' split) <;> simp [h, Memory.wf_clear]

@[simp] theorem State.startUnits_wf (s : State) (l : Launch) (units cores : List Nat) (h :
    Memory.wf s.mem = true) : Memory.wf (s.startUnits l units cores).mem = true := by
  simp only [State.startUnits]
  (repeat' split) <;> simp_all

@[simp] theorem State.setHead_mem (s : State) (part : Nat) (k : Option LaunchKey) :
    (s.setHead part k).mem = s.mem := by simp [State.setHead]

@[simp] theorem State.place_wf (s : State) (part : Nat) (h : Memory.wf s.mem = true) : Memory.wf (s.place part).mem = true := by
  unfold State.place
  (repeat' split) <;> simp [h]

@[simp] theorem State.cancelFor_wf (s : State) (c : Core) (level key index : Nat) (h : Memory.wf s.mem = true) :
    Memory.wf (s.cancelFor c level key index).1.mem = true := by
  simp only [State.cancelFor]
  (repeat' split) <;> simp [h]

@[simp] theorem State.takeCancel_wf (s : State) (cmd : CancelCmd) (h :
    Memory.wf s.mem = true) : Memory.wf (s.takeCancel cmd).mem = true := by
  simp only [State.takeCancel]
  split
  · simp [h]
  · split <;> simp [h]

@[simp] theorem State.endCancel_mem (s : State) (h : CmdHead) (cmd : CancelCmd) : (s.endCancel h cmd).mem = s.mem := by
  unfold State.endCancel
  (repeat' split) <;> simp

@[simp] theorem State.takeRangeinit_mem (s : State) (cmd : RangeinitCmd) :
    (s.takeRangeinit cmd).mem = s.mem := by simp [State.takeRangeinit]

@[simp] theorem State.takeCntwait_mem (s : State) (cmd : CntwaitCmd) : (s.takeCntwait cmd).mem = s.mem := by
  simp only [State.takeCntwait]
  (repeat' split) <;> simp

@[simp] theorem State.endCntwait_mem (s : State) (h : CmdHead) (cmd : CntwaitCmd) : (s.endCntwait h cmd).mem = s.mem := by
  unfold State.endCntwait
  (repeat' split) <;> simp

/-- A piece of an engine's work that was done has left canonical memory. -/
def ServedKept (r : Served State) : Prop := ∀ t, r = .ok t → Memory.wf t.mem = true

theorem ServedKept.error (e : EngRes × Nat) : ServedKept (.error e) := fun _ h => by cases h

theorem ServedKept.pure {s : State} (h : Memory.wf s.mem = true) : ServedKept (.ok s) := fun _ e => by cases e; exact h

/-- A read cannot write; what follows it does its own part. -/
theorem ServedKept.bind {α : Type} {x : Served α} {f : α → Served State} (hf : ∀ a, ServedKept (f a)) : ServedKept (x >>= f) := by
  cases x with
  | error e => exact .error e
  | ok a => exact hf a

/-- A write, and what follows it from the memory it left. -/
theorem ServedKept.bindState {x : Served State} {f : State → Served State} (hx : ServedKept x)
    (hf : ∀ t, Memory.wf t.mem = true → ServedKept (f t)) : ServedKept (x >>= f) := by
  cases x with
  | error e => exact .error e
  | ok t => exact hf t (hx t rfl)

theorem ServedKept.ite {c : Prop} [Decidable c] {x y : Served State} (hx : ServedKept x) (hy : ServedKept y) :
    ServedKept (if c then x else y) := by
  split
  · exact hx
  · exact hy

theorem ServedKept.map {α : Type} {x : Served α} {f : α → State} (hf : ∀ a, Memory.wf (f a).mem = true) : ServedKept (x.map f) := by
  cases x with
  | error e => exact .error e
  | ok a => exact .pure (hf a)

theorem State.eput_kept (va : Nat) (bs : List Byte) {s : State} (h : Memory.wf s.mem = true) : ServedKept (s.eput va bs) := by
  unfold State.eput
  split
  · next t heq => exact .pure ((State.engStore_kept _ _ _ h).ok (t := t) heq)
  · exact .error _

@[simp] theorem State.seen_mem (s : State) (va n : Nat) : (s.seen va n).mem = s.mem := by simp [State.seen]

theorem State.emove_kept (src dst n : Nat) {s : State} (h : Memory.wf s.mem = true) : ServedKept (s.emove src dst n) :=
  .bind fun bs => State.eput_kept dst bs (by simpa using h)

@[simp] theorem State.putHead_mem (s : State) (q : Nat) (e : Entry) : (s.putHead q e).mem = s.mem := by simp [State.putHead]

@[simp] theorem State.afterMove_mem (s : State) (q : Nat) (e : Entry) (at' n rows src dst : Nat) :
    (s.afterMove q e at' n rows src dst).mem = s.mem := by simp [State.afterMove]

@[simp] theorem State.withJob_mem (s : State) (q : Nat) (e : Entry) (ok : Bool) (job : Job) (src dst : Nat) :
    (s.withJob q e ok job src dst).mem = s.mem := by simp [State.withJob]

theorem State.prepareNd_kept (q : Nat) (e : Entry) (c : CopyndCmd) {s : State} (h : Memory.wf s.mem = true) : ServedKept (s.prepareNd q e c) :=
  .bind fun _ => .pure (by simpa using h)

theorem State.prepareGathr_kept (q : Nat) (e : Entry) (c : GathrCmd) {s : State} (h : Memory.wf s.mem = true) :
    ServedKept (s.prepareGathr q e c) :=
  .bind fun _ => .pure (by simpa using h)

@[simp] theorem State.keepBlock_mem (s : State) (q : Nat) (e : Entry) (va : Nat) (bs : List Byte) :
    (s.keepBlock q e va bs).mem = s.mem := by simp [State.keepBlock]

theorem State.prepareScatr_kept (q : Nat) (e : Entry) (c : ScatrCmd) (bs : List Byte) {s : State} (h : Memory.wf s.mem = true) :
    ServedKept (s.prepareScatr q e c bs) :=
  .ite (.bind fun _ => .pure (by simpa using h)) (.pure (by simpa using h))

theorem State.prepareGen_kept (q : Nat) (e : Entry) (c : CopygCmd) (bs : List Byte) {s : State} (h : Memory.wf s.mem = true) :
    ServedKept (s.prepareGen q e c bs) :=
  .ite (.bind fun _ => .ite (.pure (by simpa using h)) (.pure (by simpa using h))) (.pure (by simpa using h))

@[simp] theorem State.prepareJig_mem (s : State) (q : Nat) (e : Entry) (c : XschedCmd) : (s.prepareJig q e c).mem = s.mem := by
  simp only [State.prepareJig]
  (repeat' split) <;> simp

theorem State.serveRange_kept (q : Nat) (e : Entry) (src dst : Nat) {s : State} (h : Memory.wf s.mem = true) :
    ServedKept (s.serveRange q e src dst) :=
  .bindState (State.emove_kept _ _ _ h) fun _ ht => .pure (by simpa using ht)

theorem State.serveRemote_kept (q : Nat) (e : Entry) (c : CopyCmd) {s : State} (h : Memory.wf s.mem = true) :
    ServedKept (s.serveRemote q e c) :=
  .ite (.pure h) (.bind fun _ => .pure (by simpa using h))

@[simp] theorem State.copyAnswer_mem (s : State) (id n : Nat) (fault : Option (Nat × Nat)) :
    (s.copyAnswer id n fault).mem = s.mem := by simp [State.copyAnswer]

theorem State.serveFill_kept (q : Nat) (e : Entry) (c : FillCmd) {s : State} (h : Memory.wf s.mem = true) : ServedKept (s.serveFill q e c) :=
  .bindState (State.eput_kept _ _ h) fun _ ht => .pure (by simpa using ht)

theorem State.serveNd_kept (q : Nat) (e : Entry) (d : NdDesc) {s : State} (h : Memory.wf s.mem = true) : ServedKept (s.serveNd q e d) :=
  .bindState (State.emove_kept _ _ _ h) fun _ ht => .pure (by simpa using ht)

theorem State.serveRow_kept (q : Nat) (e : Entry) (src dst rowb : Nat) (after : Job) {s : State} (h : Memory.wf s.mem = true) :
    ServedKept (s.serveRow q e src dst rowb after) :=
  .bindState (State.emove_kept _ _ _ h) fun _ ht => .pure (by simpa using ht)

@[simp] theorem State.skipRow_mem (s : State) (q : Nat) (e : Entry) (rowb : Nat) :
    (s.skipRow q e rowb).mem = s.mem := by simp [State.skipRow]

theorem State.serveGathr_kept (q : Nat) (e : Entry) (p : RowParm) (row : Option Nat) {s : State} (h : Memory.wf s.mem = true) :
    ServedKept (s.serveGathr q e p row) := by
  cases row with
  | some i => exact State.serveRow_kept _ _ _ _ _ _ h
  | none => exact .bind fun _ => .ite (.pure (by simpa using h)) (.pure (by simpa using h))

theorem State.serveScatr_kept (q : Nat) (e : Entry) (c : ScatrCmd) (p : RowParm) (next : List Nat) (row : Option Nat) {s : State}
    (h : Memory.wf s.mem = true) : ServedKept (s.serveScatr q e c p next row) := by
  cases row with
  | some r => exact State.serveRow_kept _ _ _ _ _ _ h
  | none =>
    refine .bind fun _ => .ite (.pure (by simpa using h)) (.ite (.pure (by simpa using h)) ?_)
    dsimp only
    split
    · exact .pure (by simpa using h)
    · exact .bindState (State.eput_kept _ _ (by simpa using h)) fun _ ht => .pure (by simpa using ht)

theorem State.serveFeed_kept (q : Nat) (e : Entry) (isB : Bool) (src : Nat) {s : State} (h : Memory.wf s.mem = true) :
    ServedKept (s.serveFeed q e isB src) :=
  .bind fun _ => .pure (by simpa using h)

theorem State.serveDrain_kept (q : Nat) (e : Entry) (c : DrainCmd) {s : State} (h : Memory.wf s.mem = true) : ServedKept (s.serveDrain q e c) :=
  .ite (.error _) (.bindState (State.eput_kept _ _ h) fun _ ht => .pure (by simpa using ht))

theorem State.serveGen_kept (q : Nat) (e : Entry) (src dst ga : Nat) (word : Word) {s : State} (h : Memory.wf s.mem = true) :
    ServedKept (s.serveGen q e src dst ga word) :=
  .ite (State.serveRange_kept _ _ _ _ h) (.bind fun _ => .pure (by simpa using h))

theorem State.serveJig_kept (q : Nat) (e : Entry) (es : List JigEntry) (await : Option (Nat × Nat)) (start : Option Nat) (cur : Nat) {s : State}
    (h : Memory.wf s.mem = true) : ServedKept (s.serveJig q e es await start cur) := by
  unfold State.serveJig
  split
  · exact .pure (by simpa using h)
  · exact .bindState (State.emove_kept _ _ _ h) fun _ ht => .pure (by simpa using ht)

theorem State.serveEntry_kept (q : Nat) (e : Entry) {s : State} (h : Memory.wf s.mem = true) : ServedKept (s.serveEntry q e) := by
  unfold State.serveEntry
  split
  · exact .ite (State.serveRemote_kept _ _ _ h) (State.serveRange_kept _ _ _ _ h)
  · exact State.serveFill_kept _ _ _ h
  · exact State.serveFeed_kept _ _ _ _ h
  · exact State.serveFeed_kept _ _ _ _ h
  · exact State.serveDrain_kept _ _ _ h
  · exact State.serveNd_kept _ _ _ h
  · exact State.prepareNd_kept _ _ _ h
  · exact State.serveGathr_kept _ _ _ _ h
  · exact State.prepareGathr_kept _ _ _ h
  · exact State.serveScatr_kept _ _ _ _ _ _ h
  · exact State.prepareScatr_kept _ _ _ _ h
  · exact .map fun _ => by simpa using h
  · exact State.serveGen_kept _ _ _ _ _ _ h
  · exact State.prepareGen_kept _ _ _ _ h
  · exact .map fun _ => by simpa using h
  · exact State.serveJig_kept _ _ _ _ _ _ h
  · exact .pure h
  · exact .pure (by simpa using h)
  · exact .pure h

@[simp] theorem State.servePiece_wf (s : State) (q : Nat) (h : Memory.wf s.mem = true) : Memory.wf (s.servePiece q).mem = true := by
  unfold State.servePiece
  split
  · exact h
  · split
    · next t heq => exact State.serveEntry_kept q _ h t heq
    · simp [h]

@[simp] theorem State.serveChannel_wf (s : State) (q : Nat) (h : Memory.wf s.mem = true) : Memory.wf (s.serveChannel q).mem = true := by
  simp only [State.serveChannel]
  (repeat' split) <;> simp [h]

@[simp] theorem State.beginCopy_wf (q : Nat) (e : Entry) (s : State) (h :
    Memory.wf s.mem = true) : Memory.wf (State.beginCopy q e s).mem = true := by
  unfold State.beginCopy
  (repeat' split) <;> simp [h]

@[simp] theorem State.jigStep_mem (s : State) (q : Nat) : (s.jigStep q).mem = s.mem := by
  simp only [State.jigStep]
  (repeat' split) <;> simp

end Sys2Proof.Machine
end

section
/-!
SUPPORT. The bodies of instructions keep memory canonical, each from the parts it is made of.
-/
namespace Sys2Proof.Machine

open Sys2Proof

section simpRules

variable {α β : Type}

@[simp] theorem M.keepsMem_pure (a : α) : M.KeepsMem (pure a : M α) := .pure a

@[simp] theorem M.keepsMem_trap (c : Nat) (v : Word) : M.KeepsMem (trap c v : M α) := .trap c v

@[simp] theorem M.keepsMem_trapWord (c : Nat) : M.KeepsMem (trapWord c : M α) := .trapWord c

@[simp] theorem M.keepsMem_stall (k : WaitKind) (rd : BitVec 5) : M.KeepsMem (stall k rd : M α) := .stall k rd

@[simp] theorem M.keepsMem_look : M.KeepsMem look := .look

@[simp] theorem M.keepsMem_meM : M.KeepsMem meM := .meM

@[simp] theorem M.keepsMem_changeMe (f : Core → Core) : M.KeepsMem (changeMe f) := .changeMe f

@[simp] theorem M.keepsMem_change {f : State → State} (hf : ∀ s, Memory.wf s.mem = true → Memory.wf (f s).mem = true) :
    M.KeepsMem (change f) := .change hf

@[simp] theorem M.keepsMem_bind {x : M α} {f : α → M β} (hx : M.KeepsMem x) (hf : ∀ a, M.KeepsMem (f a)) : M.KeepsMem (x >>= f) :=
  .bind hx hf

@[simp] theorem M.keepsMem_map {x : M α} {f : α → β} (hx : M.KeepsMem x) : M.KeepsMem (f <$> x) := by
  rw [← bind_pure_comp]
  exact .bind hx fun a => .pure (f a)

@[simp] theorem M.KeepsMem.ite {c : Prop} [Decidable c] {x y : M α} (hx : M.KeepsMem x) (hy : M.KeepsMem y) :
    M.KeepsMem (if c then x else y) := by
  split
  · exact hx
  · exact hy

@[simp] theorem M.keepsMem_readReg (r : BitVec 5) : M.KeepsMem (readReg r) := readReg_keepsMem r

@[simp] theorem M.keepsMem_writeReg (r : BitVec 5) (w : Word) : M.KeepsMem (writeReg r w) := writeReg_keepsMem r w

@[simp] theorem M.keepsMem_pendingCheck (n : Nat) : M.KeepsMem (pendingCheck n) := pendingCheck_keepsMem n

@[simp] theorem M.keepsMem_portPartner (n : Nat) : M.KeepsMem (portPartner n) := portPartner_keepsMem n

/-- An instruction's optional part, and what follows it. -/
theorem M.KeepsMem.maybe {c : Prop} [Decidable c] {x : M Unit} {f : Unit → M β} (hx : M.KeepsMem x) (hf : ∀ u, M.KeepsMem (f u)) :
    M.KeepsMem (if c then x >>= f else f ()) := .ite (.bind hx hf) (hf ())

/-- One of two parts, and what follows it. -/
theorem M.KeepsMem.iteBind {c : Prop} [Decidable c] {x y : M α} {f : α → M β} (hx : M.KeepsMem x) (hy : M.KeepsMem y)
    (hf : ∀ a, M.KeepsMem (f a)) : M.KeepsMem (if c then x >>= f else y >>= f) := .ite (.bind hx hf) (.bind hy hf)
end simpRules

@[simp] theorem freeWord_keepsMem : M.KeepsMem freeWord :=
  .bind .look fun _ => .bind (.change fun _ hs => hs) fun _ => .pure _

@[simp] theorem xlatM_keepsMem (va : Nat) (acc : Acc) : M.KeepsMem (xlatM va acc) := by
  refine .bind .look fun s => .maybe (.change fun _ hs => hs) fun _ => ?_
  split
  · simp
  · simp
  · split
    · exact .iteBind (.changeMe _) (.changeMe _) fun _ => .bind (.change fun _ hs => by simpa using hs) fun _ => .pure _
    · simp

@[simp] theorem place_keepsMem (va : Word) (n : Nat) (acc : Acc) (det : Bool) : M.KeepsMem (place va n acc det) := by
  refine .bind .look fun s => .ite (.trap _ _) (.ite (.trap _ _) (.ite (.trap _ _) (.ite (.trapWord _) ?_)))
  split
  · simp
  · split <;> simp
  · simp
  · simp
  · simp

@[simp] theorem loadAt_keepsMem (p : Place) (n : Nat) : M.KeepsMem (loadAt p n) :=
  .bind .look fun _ => .ite (.maybe (.change fun _ hs => hs) fun _ => by simp) (.pure _)

@[simp] theorem storeAt_keepsMem (p : Place) (bs : List Byte) : M.KeepsMem (storeAt p bs) :=
  .bind (.change fun _ hs => State.writeMem_wf hs) fun _ => by simp

@[simp] theorem loadM_keepsMem (va : Word) (n : Nat) : M.KeepsMem (loadM va n) :=
  .bind (place_keepsMem _ _ _ _) fun _ => .bind .look fun _ => by simp

@[simp] theorem storeM_keepsMem (va : Word) (n : Nat) (x : Nat) : M.KeepsMem (storeM va n x) := by
  simp [storeM]

@[simp] theorem acquireM_keepsMem (scope : Nat) : M.KeepsMem (acquireM scope) := by
  simp [acquireM]

@[simp] theorem fetchM_keepsMem : M.KeepsMem fetchM :=
  .bind .look fun _ => .ite (.trap _ _) (.ite (.trap _ _) (.bind (xlatM_keepsMem _ _) fun _ => .bind .look fun _ =>
    .ite (.trap _ _) (.maybe (.change fun _ hs => hs) fun _ => by simp)))

@[simp] theorem aluBody_keepsMem (rd ra rb : BitVec 5) (f : Word → Word → Word) : M.KeepsMem (aluBody rd ra rb f) := by
  simp [aluBody]

@[simp] theorem unaryBody_keepsMem (rd ra : BitVec 5) (f : Word → Word) : M.KeepsMem (unaryBody rd ra f) := by
  simp [unaryBody]

@[simp] theorem extBody_keepsMem (rd ra size : BitVec 5) (f : Nat → Nat → Word) : M.KeepsMem (extBody rd ra size f) := by
  simp [extBody]

@[simp] theorem selBody_keepsMem (rd ra rb : BitVec 5) : M.KeepsMem (selBody rd ra rb) :=
  .bind (readReg_keepsMem _) fun _ => by simp

@[simp] theorem inshBody_keepsMem (rd : BitVec 5) (hw : BitVec 2) (imm : BitVec 16) : M.KeepsMem (inshBody rd hw imm) := by
  simp [inshBody]

@[simp] theorem finishFp_keepsMem (lanes : List (Nat × Exc)) : M.KeepsMem (finishFp lanes) := by
  simp [finishFp]

@[simp] theorem setSat_keepsMem (b : Bool) : M.KeepsMem (setSat b) := by
  simp [setSat]

@[simp] theorem ldaBody_keepsMem (rd ra : BitVec 5) (scope : BitVec 3) (n : Nat) (ext : Nat → Word) :
    M.KeepsMem (ldaBody rd ra scope n ext) :=
  .bind (readReg_keepsMem _) fun _ => by simp

@[simp] theorem stlBody_keepsMem (ra rb : BitVec 5) (n : Nat) : M.KeepsMem (stlBody ra rb n) := by
  simp [stlBody]

@[simp] theorem amoPlace_keepsMem (va : Word) (n op : Nat) (rd : BitVec 5) : M.KeepsMem (amoPlace va n op rd) :=
  .bind .look fun _ => .ite (.trap _ _) (.ite (.trap _ _) (by simp))

/-- The part of an AMO's body after its operands: a batched one is queued, any other performed. -/
@[simp] theorem amoBody_keepsMem (op : Nat) (rd ra rb : BitVec 5) (size : BitVec 1) (order : BitVec 2) (scope : BitVec 3) :
    M.KeepsMem (amoBody op rd ra rb size order scope) := by
  have acquire : M.KeepsMem (acquireM scope.toNat) := acquireM_keepsMem _
  refine .bind (readReg_keepsMem _) fun a => .bind (readReg_keepsMem _) fun x => .iteBind (readReg_keepsMem _) (.pure _) fun e =>
    .bind (amoPlace_keepsMem _ _ _ _) fun p => .bind .look fun s => .ite (.trap _ _) (.ite ?_ ?_)
  · exact .ite (.bind (portPartner_keepsMem _) fun _ => .changeMe _) (.bind (pendingCheck_keepsMem _) fun _ => .changeMe _)
  · exact .maybe (.changeMe _) fun _ => .maybe (.change fun _ hs => State.writeMem_wf hs) fun _ =>
      .maybe (.change fun _ hs => by simpa using hs) fun _ => .maybe acquire fun _ => by simp

@[simp] theorem waitwBody_keepsMem (rd ra rb : BitVec 5) (size : BitVec 1) (order : BitVec 2) (scope : BitVec 3) :
    M.KeepsMem (waitwBody rd ra rb size order scope) := by
  refine .bind (readReg_keepsMem _) fun a => .bind (readReg_keepsMem _) fun x => .bind (amoPlace_keepsMem _ _ _ _) fun p =>
    .bind .look fun s => ?_
  have done (st : Word) : M.KeepsMem (do
      change State.dropWaiter
      if order.getLsbD 0 then acquireM scope.toNat
      if rd ≠ 0 then writeReg rd st
      pure (none : Option Waiter)) :=
    .bind (.change fun _ hs => by simpa using hs) fun _ => .maybe (acquireM_keepsMem _) fun _ =>
      .maybe (writeReg_keepsMem _ _) fun _ => .pure _
  refine .ite (.trap _ _) ?_
  dsimp only
  split
  · exact .ite (done _) (.ite (done _) (.pure _))
  · exact .ite (done _) (.ite (done _) (.pure _))

@[simp] theorem channelCheck_keepsMem (ch : BitVec 5) (member : Bool) : M.KeepsMem (channelCheck ch member) := by
  refine .bind .look fun s => .ite (.trap _ _) ?_
  split <;> simp

@[simp] theorem arriveBody_keepsMem (ch : BitVec 5) (gather : Bool) : M.KeepsMem (arriveBody ch gather) :=
  .bind (channelCheck_keepsMem _ _) fun _ => .bind .meM fun _ => .ite (.pure _) (.ite (.pure _)
    (.bind (.change fun _ hs => by simpa using hs) fun _ => .pure _))

@[simp] theorem waitBody_keepsMem (rd ch : BitVec 5) : M.KeepsMem (waitBody rd ch) :=
  .bind (channelCheck_keepsMem _ _) fun _ => .bind .meM fun _ => .ite
    (.bind (acquireM_keepsMem _) fun _ => .bind (writeReg_keepsMem _ _) fun _ => .pure _) (by simp)

@[simp] theorem btestBody_keepsMem (rd ch : BitVec 5) : M.KeepsMem (btestBody rd ch) :=
  .bind (channelCheck_keepsMem _ _) fun _ => .bind .meM fun _ => .maybe (acquireM_keepsMem _) fun _ => writeReg_keepsMem _ _

@[simp] theorem expectBody_keepsMem (ra ch : BitVec 5) : M.KeepsMem (expectBody ra ch) :=
  .bind (readReg_keepsMem _) fun _ => .bind (channelCheck_keepsMem _ _) fun _ => .bind .meM fun _ => .ite (.trapWord _)
    (.ite (.change fun _ hs => hs) (.change fun _ hs => hs))

@[simp] theorem bcancelBody_keepsMem (ch : BitVec 5) : M.KeepsMem (bcancelBody ch) :=
  .bind (channelCheck_keepsMem _ _) fun _ => .change fun _ hs => by simp [hs]

@[simp] theorem csrAllowed_keepsMem (n : Nat) : M.KeepsMem (csrAllowed n) := by
  refine .bind .look fun s => ?_
  split <;> simp

@[simp] theorem csrForm_keepsMem (op : CsrOp) (n : Nat) : M.KeepsMem (csrForm op n) := by
  simp [csrForm]

@[simp] theorem csrReadBody_keepsMem (rd : BitVec 5) (n : Nat) : M.KeepsMem (csrReadBody rd n) :=
  .bind (csrAllowed_keepsMem _) fun _ => .maybe (.changeMe _) fun _ => writeReg_keepsMem _ _

@[simp] theorem writeFctl_keepsMem (x : Word) : M.KeepsMem (writeFctl x) := by
  simp [writeFctl]

@[simp] theorem writeFflags_keepsMem (x : Word) : M.KeepsMem (writeFflags x) := by
  simp [writeFflags]

@[simp] theorem writePortmap_keepsMem (x : Word) : M.KeepsMem (writePortmap x) :=
  .bind .meM fun _ => .ite (.trapWord _) (.ite (.trapWord _) (.changeMe _))

@[simp] theorem writeBmask_keepsMem (x : Word) : M.KeepsMem (writeBmask x) :=
  .bind .meM fun _ => .ite (.trapWord _)
    (.bind (.change fun _ hs => State.foldl_wf (fun _ _ ht => by simp [ht]) _ hs) fun _ => .bind (.changeMe _) fun _ => .change fun _ hs => hs)

@[simp] theorem writeMfmt_keepsMem (x : Word) : M.KeepsMem (writeMfmt x) := by
  simp [writeMfmt]

@[simp] theorem writeKback_keepsMem (x : Word) : M.KeepsMem (writeKback x) := by
  simp [writeKback]

@[simp] theorem writeInstret_keepsMem (x : Word) : M.KeepsMem (writeInstret x) := by
  simp [writeInstret]

@[simp] theorem writeTlbinv_keepsMem (v : Word) : M.KeepsMem (writeTlbinv v) :=
  .ite (.trapWord _) (.change fun _ hs => by simp [hs])

@[simp] theorem writeUinote_keepsMem (v : Word) : M.KeepsMem (writeUinote v) :=
  .bind .look fun _ => .ite (.trapWord _) (.ite (.stall _ _) (.change fun _ hs => by simpa using hs))

@[simp] theorem setUser_keepsMem (f : UserRegs → UserRegs) : M.KeepsMem (setUser f) := by
  simp [setUser]

@[simp] theorem setSup_keepsMem (f : SupRegs → SupRegs) : M.KeepsMem (setSup f) := by
  simp [setSup]

@[simp] theorem csrWrite_keepsMem (op : CsrOp) (n : Nat) (v : Word) : M.KeepsMem (csrWrite op n v) := by
  refine .bind (csrForm_keepsMem _ _) fun old => ?_
  dsimp only
  split
  case h_29 => exact .ite (.pure _) (.change fun _ hs => hs)
  all_goals simp

@[simp] theorem csrWriteBody_keepsMem (op : CsrOp) (ra : BitVec 5) (n : Nat) : M.KeepsMem (csrWriteBody op ra n) := by
  simp [csrWriteBody]

@[simp] theorem tlbinvBody_keepsMem (ra : BitVec 5) (kind : Nat) : M.KeepsMem (tlbinvBody ra kind) := by
  simp [tlbinvBody]

@[simp] theorem lastSource_keepsMem (vb : BitVec 5) (aux : BitVec 2) (w : Nat) : M.KeepsMem (lastSource vb aux w) := by
  refine .bind .meM fun c => ?_
  split <;> simp

@[simp] theorem scalarSource_keepsMem (vb : BitVec 5) (aux : BitVec 2) : M.KeepsMem (scalarSource vb aux) := by
  simp [scalarSource]

@[simp] theorem writeV_keepsMem (vd : BitVec 5) (x : VReg) : M.KeepsMem (writeV vd x) := by
  simp [writeV]

@[simp] theorem writeP_keepsMem (pd : Nat) (x : Word) : M.KeepsMem (writeP pd x) := by
  simp [writeP]

@[simp] theorem fpWrite_keepsMem (vd : BitVec 5) (pg : BitVec 2) (w : Nat) (lane : Nat → Nat × Exc) :
    M.KeepsMem (fpWrite vd pg w lane) := by
  simp [fpWrite]

@[simp] theorem fpBin_keepsMem (vd va vb : BitVec 5) (pg ty : BitVec 2) (fzi fzo : BitVec 1) (op : Core → Fmt → FVal → FVal → Nat × Exc) :
    M.KeepsMem (fpBin vd va vb pg ty fzi fzo op) := by
  simp [fpBin]

@[simp] theorem fpUn_keepsMem (vd va : BitVec 5) (pg ty : BitVec 2) (fzi fzo : BitVec 1) (op : Core → Fmt → Nat → FVal → Nat × Exc) :
    M.KeepsMem (fpUn vd va pg ty fzi fzo op) := by
  simp [fpUn]

@[simp] theorem minMaxBody_keepsMem (isMax : Bool) (vd va vb : BitVec 5) (pg ty : BitVec 2) (fzi fzo : BitVec 1) :
    M.KeepsMem (minMaxBody isMax vd va vb pg ty fzi fzo) := by
  simp [minMaxBody]

@[simp] theorem sgnBody_keepsMem (vd va vb : BitVec 5) (pg ty : BitVec 2) (rm : BitVec 2) : M.KeepsMem (sgnBody vd va vb pg ty rm) := by
  simp [sgnBody]

@[simp] theorem fmaBody_keepsMem (vd va vb : BitVec 5) (pg ty : BitVec 2) (fzi fzo : BitVec 1) (rm : BitVec 2) (negProd negAdd : Bool) :
    M.KeepsMem (fmaBody vd va vb pg ty fzi fzo rm negProd negAdd) := by
  simp [fmaBody]

@[simp] theorem dot2Body_keepsMem (vd va vb : BitVec 5) (pg : BitVec 2) (ty : BitVec 1) (fzi fzo : BitVec 1) (rm : BitVec 2) :
    M.KeepsMem (dot2Body vd va vb pg ty fzi fzo rm) := by
  simp [dot2Body]

@[simp] theorem fpCompare_keepsMem (pd : BitVec 3) (va vb : BitVec 5) (pg ty : BitVec 2) (fzi : BitVec 1) (op : FVal → FVal → Bool × Bool) :
    M.KeepsMem (fpCompare pd va vb pg ty fzi op) := by
  simp [fpCompare]

@[simp] theorem cvtWrite_keepsMem (vd : BitVec 5) (pg : BitVec 2) (n ws wd : Nat) (lane : Nat → Nat × Exc) :
    M.KeepsMem (cvtWrite vd pg n ws wd lane) := by
  simp [cvtWrite]

@[simp] theorem cvtFp_keepsMem (src dst : Fmt) (n : Nat) (exact : Bool) (vd va : BitVec 5) (pg : BitVec 2) (fzi fzo : BitVec 1) (rm : BitVec 2) :
    M.KeepsMem (cvtFp src dst n exact vd va pg fzi fzo rm) := by
  simp [cvtFp]

@[simp] theorem cvtBlockDown_keepsMem (dst : Fmt) (vd va vb : BitVec 5) (fzi fzo : BitVec 1) (rm : BitVec 2) :
    M.KeepsMem (cvtBlockDown dst vd va vb fzi fzo rm) := by
  simp [cvtBlockDown]

@[simp] theorem cvtBlockUp_keepsMem (src : Fmt) (vd va vb : BitVec 5) (fzi fzo : BitVec 1) (rm : BitVec 2) :
    M.KeepsMem (cvtBlockUp src vd va vb fzi fzo rm) :=
  .bind .meM fun _ => .bind (finishFp_keepsMem _) fun _ => .bind (writeV_keepsMem _ _) fun _ => .changeMe _

@[simp] theorem cvtToInt_keepsMem (src : Fmt) (n : Nat) (vd va : BitVec 5) (pg : BitVec 2) (fzi : BitVec 1) (rm : BitVec 2) :
    M.KeepsMem (cvtToInt src n vd va pg fzi rm) := by
  simp [cvtToInt]

@[simp] theorem cvtFromInt_keepsMem (dst : Fmt) (n : Nat) (vd va : BitVec 5) (pg : BitVec 2) (rm : BitVec 2) :
    M.KeepsMem (cvtFromInt dst n vd va pg rm) := by
  simp [cvtFromInt]

@[simp] theorem cvtNarrow_keepsMem (wd : Nat) (vd va : BitVec 5) (pg : BitVec 2) : M.KeepsMem (cvtNarrow wd vd va pg) := by
  simp [cvtNarrow]

@[simp] theorem cvtE8_keepsMem (vd va vb : BitVec 5) (fzi : BitVec 1) : M.KeepsMem (cvtE8 vd va vb fzi) := by
  simp [cvtE8]

@[simp] theorem headSound_keepsMem (n : Nat) : M.KeepsMem (headSound n) := by
  simp [headSound]

@[simp] theorem pushM_keepsMem (tag ty k mask : Nat) (payload : List Byte) : M.KeepsMem (pushM tag ty k mask payload) :=
  .bind .meM fun _ => .ite (.ite (.trap _ _) (.pure _)) (.maybe (.change fun _ hs => by simp [hs]) fun _ => by simp)

@[simp] theorem fillHead_keepsMem : ∀ f need : Nat, M.KeepsMem (fillHead f need)
  | 0, _ => .pure _
  | f + 1, need => .bind .look fun _ => .ite (.pure _) (.ite
      (.ite (.trap _ _) (.bind (.change fun _ hs => by simpa using hs) fun _ => fillHead_keepsMem f need)) (.pure _))

@[simp] theorem topRecord_keepsMem : M.KeepsMem topRecord :=
  .bind .meM fun _ => .ite (.trap _ _) (.bind (fillHead_keepsMem _ _) fun _ => .ite (.pure _)
    (.bind (headSound_keepsMem _) fun _ => .bind .meM fun _ => .ite (.trap _ _) (.bind (fillHead_keepsMem _ _) fun _ =>
      .ite (.pure _) (by simp))))

@[simp] theorem popM_keepsMem (n : Nat) : M.KeepsMem (popM n) := by
  simp [popM]

@[simp] theorem forwardM_keepsMem (vd : BitVec 5) (p : Word) (fn ty k : Nat) (lane : Nat → Lane) (payload : List Byte) (result : VReg) :
    M.KeepsMem (forwardM vd p fn ty k lane payload result) :=
  .ite (.trap _ _) (.bind (pushM_keepsMem _ _ _ _ _) fun _ => .maybe (writeV_keepsMem _ _) fun _ => .pure _)

@[simp] theorem undoM_keepsMem (vd : BitVec 5) (p : Word) (fn ty k : Nat) (expect : List Byte → Option Nat) (lane : List Byte → Nat → Lane)
    (result : (Nat → Lane) → VReg) : M.KeepsMem (undoM vd p fn ty k expect lane result) := by
  refine .bind topRecord_keepsMem fun r => ?_
  obtain _ | ⟨h, bs⟩ := r
  · exact .pure _
  · exact .ite (.trap _ _) (.ite (.trap _ _) (.bind (popM_keepsMem _) fun _ => by simp))

@[simp] theorem forwardLanes_keepsMem (vd : BitVec 5) (pg : BitVec 2) (fn ty k w : Nat) (lane : Core → Nat → Lane) :
    M.KeepsMem (forwardLanes vd pg fn ty k w lane) := by
  simp [forwardLanes]

@[simp] theorem undoLanes_keepsMem (vd : BitVec 5) (pg : BitVec 2) (fn ty k w : Nat) (lane : Core → Nat → Nat → Lane) :
    M.KeepsMem (undoLanes vd pg fn ty k w lane) := by
  simp [undoLanes]

@[simp] theorem kdropBody_keepsMem (ra : BitVec 5) (got : List Byte) : M.KeepsMem (kdropBody ra got) := by
  refine .bind (readReg_keepsMem _) fun a s b u hs h => ?_
  rw [M.bind_look] at h
  generalize ht : Except.bind _ _ = r at h
  obtain (⟨c, v⟩ | _) | t := r
  · cases h
  · cases h
    exact hs
  · cases h
    cases hd : s.dropSearch got (a.toNat % 2 ^ 16) (s.me.kerfDepth / 8 + 1) s.me.kerfDepth with
    | error e => rw [hd] at ht; cases ht
    | ok d =>
      rw [hd] at ht
      exact State.dropTo_wf d _ _ (t := t) ht hs

@[simp] theorem pushWord_keepsMem (field : Nat) (w : TcwWord) : M.KeepsMem (pushWord field w) := by
  unfold pushWord
  split
  · simp
  · exact .bind .look fun _ => .ite (.trapWord _) (by simp)

@[simp] theorem enqBody_keepsMem (ra : BitVec 5) (q : BitVec 3) : M.KeepsMem (enqBody ra q) :=
  .bind (readReg_keepsMem _) fun _ => .bind (readReg_keepsMem _) fun _ => .bind (readReg_keepsMem _) fun _ => by simp

@[simp] theorem enqmBody_keepsMem (ra : BitVec 5) (q : BitVec 3) : M.KeepsMem (enqmBody ra q) := by
  simp [enqmBody]

@[simp] theorem statusWord_keepsMem (qid : Nat) : M.KeepsMem (statusWord qid) := by
  refine .bind .meM fun c => .ite (.pure _) ?_
  split
  · simp
  · exact .bind .look fun _ => .bind (.change fun _ hs => by simpa using hs) fun _ => .pure _

@[simp] theorem qstatBody_keepsMem (rd ra rb : BitVec 5) (q : BitVec 3) : M.KeepsMem (qstatBody rd ra rb q) :=
  .bind (readReg_keepsMem _) fun _ => .bind (readReg_keepsMem _) fun _ => .bind .meM fun _ =>
    .ite (.bind (statusWord_keepsMem _) fun _ => writeReg_keepsMem _ _) (.ite (by simp) (by simp))

@[simp] theorem qwaitBody_keepsMem (rd ra : BitVec 5) (q : BitVec 3) : M.KeepsMem (qwaitBody rd ra q) := by
  refine .bind (readReg_keepsMem _) fun a => .bind .meM fun c => .ite (.stall _ _) ?_
  split
  · simp
  · exact .bind (statusWord_keepsMem _) fun _ => by simp

@[simp] theorem cputBody_keepsMem (ra rb : BitVec 5) : M.KeepsMem (cputBody ra rb) :=
  .bind (readReg_keepsMem _) fun _ => .bind (readReg_keepsMem _) fun _ => .bind .look fun _ => .ite (.change fun _ hs => hs) (.trap _ _)

@[simp] theorem cgetBody_keepsMem (rd rb : BitVec 5) : M.KeepsMem (cgetBody rd rb) := by
  refine .bind (readReg_keepsMem _) fun g => .bind .meM fun c => ?_
  split
  · simp
  · exact .bind (.changeMe _) fun _ => .bind (acquireM_keepsMem _) fun _ => by simp
  · simp
  · simp

@[simp] theorem ctestBody_keepsMem (rd rb : BitVec 5) : M.KeepsMem (ctestBody rd rb) := by
  simp [ctestBody]

@[simp] theorem triggerM_keepsMem (handle : Nat) (va arg : Word) : M.KeepsMem (triggerM handle va arg) := by
  refine .bind .look fun s => ?_
  split
  · simp
  · exact .ite (.trap _ _) (.bind (.change fun _ hs => hs) fun _ => .change fun _ hs => by simpa using hs)

@[simp] theorem idleBody_keepsMem : M.KeepsMem idleBody := by
  simp [idleBody]

@[simp] theorem splitBody_keepsMem : M.KeepsMem splitBody := by
  simp [splitBody]

@[simp] theorem fuseBody_keepsMem : M.KeepsMem fuseBody := by
  refine .bind .look fun s => ?_
  split
  · simp
  · refine .ite (.pure _) (.ite (.pure _) (.ite ?_ (.stall _ _)))
    split <;> simp

@[simp] theorem exitBody_keepsMem : M.KeepsMem exitBody :=
  .bind .meM fun _ => .ite (.trapWord _) (.ite (.trapWord _) (by simp))

theorem M.KeepsMem.forM {α : Type} {f : α → M PUnit} (hf : ∀ a, M.KeepsMem (f a)) : ∀ l : List α, M.KeepsMem (l.forM f)
  | [] => .pure _
  | a :: l => .bind (hf a) fun _ => M.KeepsMem.forM hf l

@[simp] theorem ecallBody_keepsMem : M.KeepsMem ecallBody :=
  .bind .meM fun _ => .ite (.bind (pendingCheck_keepsMem _) fun _ => .forM pendingCheck_keepsMem _) (.pure _)

@[simp] theorem branchBody_keepsMem (ra rb : BitVec 5) (off : BitVec 13) (taken : Word → Word → Bool) :
    M.KeepsMem (branchBody ra rb off taken) :=
  .bind (readReg_keepsMem _) fun _ => by simp

@[simp] theorem jalBody_keepsMem (off : BitVec 26) : M.KeepsMem (jalBody off) := by
  simp [jalBody]

@[simp] theorem jalrBody_keepsMem (rd ra : BitVec 5) (imm : BitVec 16) : M.KeepsMem (jalrBody rd ra imm) :=
  .bind (readReg_keepsMem _) fun _ => .bind .meM fun _ => .ite (.trap _ _) (by simp)

@[simp] theorem loadBody_keepsMem (rd ra : BitVec 5) (off : BitVec 13) (n : Nat) (ext : Nat → Word) :
    M.KeepsMem (loadBody rd ra off n ext) := by
  simp [loadBody]

@[simp] theorem storeBody_keepsMem (rs ra : BitVec 5) (off : BitVec 13) (n : Nat) : M.KeepsMem (storeBody rs ra off n) := by
  simp [storeBody]

@[simp] theorem storeDBody_keepsMem (rs ra : BitVec 5) (off : BitVec 13) : M.KeepsMem (storeDBody rs ra off) := by
  refine .bind (readReg_keepsMem _) fun a => .bind (readReg_keepsMem _) fun x => ?_
  dsimp only
  split <;> simp

@[simp] theorem rtakeBody_keepsMem (rd ra : BitVec 5) : M.KeepsMem (rtakeBody rd ra) := by
  refine .bind (readReg_keepsMem _) fun a => .bind .look fun s => ?_
  have rest (x : Word × Nat) : M.KeepsMem (do
      changeMe (fun c => c.progress s.cycle)
      writeReg rd x.1
      writeReg (rd + 1) (BitVec.ofNat 64 x.2)) := .bind (.changeMe _) fun _ => by simp
  dsimp only
  split
  · split
    · exact .bind (.change fun _ hs => hs) fun _ => rest _
    · exact rest _
  · exact rest _

@[simp] theorem vsrrBody_keepsMem (rd : BitVec 5) (reg ver : BitVec 4) : M.KeepsMem (vsrrBody rd reg ver) := by
  have rest (w : Word) : M.KeepsMem (do acquireM 4; writeReg rd w) := by simp
  refine .bind .look fun s => ?_
  dsimp only
  split
  · exact .bind (.pure _) rest
  · exact .bind freeWord_keepsMem rest

@[simp] theorem vsrwBody_keepsMem (ra : BitVec 5) (reg : BitVec 4) : M.KeepsMem (vsrwBody ra reg) := by
  refine .bind (readReg_keepsMem _) fun x => .change fun s hs => ?_
  split <;> simpa using hs

@[simp] theorem viBody_keepsMem (vd va vb : BitVec 5) (pg ty aux : BitVec 2) (op : Nat → Nat → Nat → Nat × Bool) :
    M.KeepsMem (viBody vd va vb pg ty aux op) :=
  .bind (lastSource_keepsMem _ _ _) fun _ => .bind .meM fun _ => .bind (setSat_keepsMem _) fun _ => writeV_keepsMem _ _

@[simp] theorem viCompare_keepsMem (pd : BitVec 3) (va vb : BitVec 5) (pg ty aux : BitVec 2) (op : Nat → Nat → Nat → Bool) :
    M.KeepsMem (viCompare pd va vb pg ty aux op) := by
  simp [viCompare]

@[simp] theorem eachM_keepsMem {α β : Type} {f : α → M β} (hf : ∀ a, M.KeepsMem (f a)) : ∀ l : List α, M.KeepsMem (eachM f l)
  | [] => .pure _
  | a :: l => .bind (hf a) fun _ => .bind (eachM_keepsMem hf l) fun _ => .pure _

@[simp] theorem checkElems_keepsMem (z : Nat) (acc : Acc) (addr : Nat → Word) (act : List Nat) : M.KeepsMem (checkElems z acc addr act) :=
  eachM_keepsMem (fun _ => .bind (place_keepsMem _ _ _ _) fun _ => .bind .look fun _ => by simp) act

@[simp] theorem vloadBody_keepsMem (vd : BitVec 5) (pg : BitVec 2) (z : Nat) (addr : Nat → Word) : M.KeepsMem (vloadBody vd pg z addr) :=
  .bind .meM fun _ => .bind (checkElems_keepsMem _ _ _ _) fun _ => .bind (eachM_keepsMem (fun _ => by simp) _) fun _ => writeV_keepsMem _ _

@[simp] theorem vstoreBody_keepsMem (vs : BitVec 5) (pg : BitVec 2) (z : Nat) (addr : Nat → Word) :
    M.KeepsMem (vstoreBody vs pg z addr) :=
  .bind .meM fun _ => .bind (checkElems_keepsMem _ _ _ _) fun _ => .bind (eachM_keepsMem (fun _ => storeAt_keepsMem _ _) _) fun _ => .pure _

@[simp] theorem vldbBody_keepsMem (vd : BitVec 5) (pg : BitVec 2) (z : Nat) (addr : Word) : M.KeepsMem (vldbBody vd pg z addr) := by
  refine .bind .meM fun c => ?_
  dsimp only
  split
  · simp
  · exact .bind (checkElems_keepsMem _ _ _ _) fun _ => .bind (eachM_keepsMem (fun _ => by simp) _) fun _ => writeV_keepsMem _ _

@[simp] theorem vstaPlace_keepsMem (z : Nat) (isFp : Bool) (va : Word) : M.KeepsMem (vstaPlace z isFp va) :=
  .bind .meM fun _ => .ite (.trap _ _) (.ite (.trap _ _) (by simp))

@[simp] theorem vstaBody_keepsMem (vs ra : BitVec 5) (pg : BitVec 2) (z : Nat) (isFp : Bool) (op : Nat → Nat → Nat → Nat) :
    M.KeepsMem (vstaBody vs ra pg z isFp op) :=
  .bind (readReg_keepsMem _) fun _ => .bind .meM fun _ =>
    .bind (eachM_keepsMem (fun _ => .bind (vstaPlace_keepsMem _ _ _) fun _ => .pure _) _) fun _ =>
    .bind (eachM_keepsMem (fun _ => .change fun _ hs => State.writeMem_wf hs) _) fun _ => .pure _

@[simp] theorem bcastBody_keepsMem (vd vb : BitVec 5) (pg ty aux : BitVec 2) : M.KeepsMem (bcastBody vd vb pg ty aux) := by
  simp [bcastBody]

@[simp] theorem vextBody_keepsMem (rd va vb : BitVec 5) (ty aux : BitVec 2) : M.KeepsMem (vextBody rd va vb ty aux) := by
  simp [vextBody]

@[simp] theorem insBody_keepsMem (vd va vb : BitVec 5) (pg ty aux : BitVec 2) : M.KeepsMem (insBody vd va vb pg ty aux) :=
  .bind (readReg_keepsMem _) fun _ => .bind (scalarSource_keepsMem _ _) fun _ => .bind .meM fun _ => by simp

@[simp] theorem permBody_keepsMem (vd : BitVec 5) (pg ty : BitVec 2) (f : Core → Nat → Nat → Nat) : M.KeepsMem (permBody vd pg ty f) := by
  simp [permBody]

@[simp] theorem slideAmount_keepsMem (vb : BitVec 5) (ty aux : BitVec 2) : M.KeepsMem (slideAmount vb ty aux) := by
  simp [slideAmount]

@[simp] theorem reduceBody_keepsMem (vd va : BitVec 5) (pg ty : BitVec 2) (unit : Nat → Int) (op : Int → Int → Int) :
    M.KeepsMem (reduceBody vd va pg ty unit op) := by
  simp [reduceBody]

@[simp] theorem redFsumBody_keepsMem (vd va : BitVec 5) (pg ty aux : BitVec 2) : M.KeepsMem (redFsumBody vd va pg ty aux) := by
  simp [redFsumBody]

@[simp] theorem scanBody_keepsMem (vd va : BitVec 5) (pg ty : BitVec 2) : M.KeepsMem (scanBody vd va pg ty) := by
  simp [scanBody]

@[simp] theorem predBody_keepsMem (pd pa pb : BitVec 3) (pg ty : BitVec 2) (op : Word → Word → Word) :
    M.KeepsMem (predBody pd pa pb pg ty op) := by
  simp [predBody]

end Sys2Proof.Machine
end

section
/-!
SUPPORT. What each operation of the monitor, the platform, the boot, the engines and the hub leaves of memory.
-/
namespace Sys2Proof.Machine

open Sys2Proof

@[simp] theorem yieldFinish_wf (s : State) (h : Memory.wf s.mem = true) : Memory.wf (yieldFinish s).mem = true := by
  simp only [yieldFinish]
  (repeat' split) <;> simp [h]

@[simp] theorem fuseFinish_wf {s s' : State} {r : Option Word} (h : Memory.wf s.mem = true) (h' : Memory.wf s'.mem = true) :
    Memory.wf (fuseFinish s r s').mem = true := by
  cases r <;> simp [fuseFinish, h, h']

@[simp] theorem State.deliver_mem (s : State) : s.deliver.mem = s.mem := by
  unfold State.deliver
  split <;> simp

@[simp] theorem refuseCall_mem (s : State) (status : Nat) : (refuseCall s status).2.2.mem = s.mem := rfl

@[simp] theorem State.inPart_wf {s : State} {f : Partition → MonRes} (hf : ∀ p, Memory.wf (f p).2.2.mem = true)
    (h : Memory.wf s.mem = true) : Memory.wf (s.inPart f).2.2.mem = true := by
  unfold State.inPart
  split
  · exact hf _
  · exact h

@[simp] theorem State.monWrite_wf {s : State} (va : Word) (bs : List Byte) (h : Memory.wf s.mem = true) :
    Memory.wf (s.monWrite va bs).2.2.mem = true := by
  unfold State.monWrite
  split
  · next t heq => exact (State.engStore_kept _ _ _ h).ok (t := t) heq
  · exact h

@[simp] theorem monInfo_wf (addr : Word) {s : State} (h : Memory.wf s.mem = true) : Memory.wf (monInfo addr s).2.2.mem = true :=
  State.inPart_wf (fun _ => State.monWrite_wf _ _ h) h

@[simp] theorem State.givePage_wf (s : State) (page : Nat) (owner : Option Nat) (h : Memory.wf s.mem = true) :
    Memory.wf (s.givePage page owner).mem = true := by
  simp only [State.givePage]
  split
  · exact h
  · exact State.zeroRange_wf h

@[simp] theorem monShmpage_wf (page ctx : Word) {s : State} (h :
    Memory.wf s.mem = true) : Memory.wf (monShmpage page ctx s).2.2.mem = true := by
  refine State.inPart_wf (fun p => ?_) h
  (repeat' split) <;> simp [h]

@[simp] theorem State.giveBank_mem (s : State) (die num : Nat) (owner : Option Nat) : (s.giveBank die num owner).mem = s.mem := by
  unfold State.giveBank
  split <;> simp

@[simp] theorem monPricebank_wf (die bank ctx : Word) {s : State} (h : Memory.wf s.mem = true) :
    Memory.wf (monPricebank die bank ctx s).2.2.mem = true := by
  refine State.inPart_wf (fun p => ?_) h
  (repeat' split) <;> simp [h]

@[simp] theorem monTree_wf (group node entry : Word) {s : State} (h : Memory.wf s.mem = true) :
    Memory.wf (monTree group node entry s).2.2.mem = true := by
  refine State.inPart_wf (fun p => ?_) h
  dsimp only
  (repeat' split) <;> simp [h]

@[simp] theorem monSlice_wf (len : Word) {s : State} (h : Memory.wf s.mem = true) : Memory.wf (monSlice len s).2.2.mem = true := by
  refine State.inPart_wf (fun p => ?_) h
  dsimp only
  split <;> simp [h]

@[simp] theorem monPeer_wf (pkg remote loc : Word) {s : State} (h : Memory.wf s.mem = true) :
    Memory.wf (monPeer pkg remote loc s).2.2.mem = true := by
  refine State.inPart_wf (fun p => ?_) h
  (repeat' split) <;> simp [h]

@[simp] theorem monAttest_wf (nonce report : Word) {s : State} (h : Memory.wf s.mem = true) :
    Memory.wf (monAttest nonce report s).2.2.mem = true := by
  refine State.inPart_wf (fun p => ?_) h
  (repeat' split) <;> simp [h]

@[simp] theorem monPreemptSet_wf (core set : Word) {s : State} (h : Memory.wf s.mem = true) :
    Memory.wf (monPreemptSet core set s).2.2.mem = true := by
  refine State.inPart_wf (fun p => ?_) h
  dsimp only
  (repeat' split) <;> simp [h]

@[simp] theorem monPreemptClear_wf (core set : Word) {s : State} (h : Memory.wf s.mem = true) :
    Memory.wf (monPreemptClear core set s).2.2.mem = true := by
  refine State.inPart_wf (fun p => ?_) h
  dsimp only
  (repeat' split) <;> simp [h]

@[simp] theorem monCtxnew_wf (root : Word) {s : State} (h : Memory.wf s.mem = true) : Memory.wf (monCtxnew root s).2.2.mem = true := by
  refine State.inPart_wf (fun p => ?_) h
  split <;> simp [h]

@[simp] theorem State.destroyCtx_wf (s : State) (x : Context) (h : Memory.wf s.mem = true) : Memory.wf (s.destroyCtx x).mem = true := by
  simp only [State.destroyCtx]
  (repeat' split) <;> simp_all

@[simp] theorem monCtxfree_wf (ctx : Word) {s : State} (h : Memory.wf s.mem = true) : Memory.wf (monCtxfree ctx s).2.2.mem = true := by
  refine State.inPart_wf (fun p => ?_) h
  (repeat' split) <;> simp [h]

@[simp] theorem monRestore_wf (ctx set list : Word) {s : State} (h : Memory.wf s.mem = true) :
    Memory.wf (monRestore ctx set list s).2.2.mem = true := by
  refine State.inPart_wf (fun p => ?_) h
  by_cases hs : 64 ≤ set.toNat
  · simp [hs, h]
  · rw [if_neg hs]
    split
    · simp [h]
    · split
      · simp [h]
      · dsimp only
        split
        · simp [h]
        · (repeat' split) <;> simp [h]

@[simp] theorem monCtxstate_wf (ctx addr : Word) {s : State} (h : Memory.wf s.mem = true) :
    Memory.wf (monCtxstate ctx addr s).2.2.mem = true := by
  refine State.inPart_wf (fun p => ?_) h
  (repeat' split) <;> simp [h]

@[simp] theorem monWdring_wf (base entries tier : Word) {s : State} (h : Memory.wf s.mem = true) :
    Memory.wf (monWdring base entries tier s).2.2.mem = true := by
  refine State.inPart_wf (fun p => ?_) h
  dsimp only
  (repeat' split) <;> simp [h, Memory.wf_writeBytes]

@[simp] theorem answer_mem (r : MonRes) : (answer r).mem = r.2.2.mem := rfl

@[simp] theorem monitorCall_wf {s : State} (h : Memory.wf s.mem = true) : Memory.wf (monitorCall s).2.2.mem = true := by
  unfold monitorCall
  dsimp only
  split
  case h_8 => (repeat' split) <;> simp [h]
  all_goals simp [h]

@[simp] theorem State.zeroDram_wf (s : State) (ctx : Nat) (h : Memory.wf s.mem = true) : Memory.wf (s.zeroDram ctx).mem = true := by
  unfold State.zeroDram
  split <;> simp [h]

@[simp] theorem State.zeroCtx_wf (s : State) (ctx : Nat) (h : Memory.wf s.mem = true) : Memory.wf (s.zeroCtx ctx).mem = true := by
  simp only [State.zeroCtx, State.updCtx_mem]
  exact State.foldl_wf (fun _ _ ht => by simp [ht]) _ (by simp [h])

@[simp] theorem State.freeCtxId_mem (s : State) (ctx : Nat) : (s.freeCtxId ctx).mem = s.mem := by simp [State.freeCtxId]

@[simp] theorem State.wake_mem (s : State) (f : WaitRec → Bool) : (s.wake f).mem = s.mem := by simp [State.wake]

@[simp] theorem State.hostRequest_wf {s : State} {f : State → State} (hf : Memory.wf (f s).mem = true) (h : Memory.wf s.mem = true) :
    Memory.wf (s.hostRequest f).mem = true := by
  unfold State.hostRequest
  split
  · exact h
  · exact hf

@[simp] theorem State.poison_wf (s : State) (k : Nat) (h : Memory.wf s.mem = true) : Memory.wf (s.poison k).mem = true := by
  simp only [State.poison, State.foldl_mem, State.hubRetranslates_mem, implies_true]
  exact State.foldl_wf (fun _ _ ht => State.writeMem_wf ht) _ h

@[simp] theorem State.buildParts_mem (s : State) (ps : List PartPolicy) : (s.buildParts ps).mem = s.mem := by
  refine State.foldl_mem (fun t x => ?_) _ s
  split
  · rfl
  · split <;> rfl

@[simp] theorem State.bootSup_wf (s : State) (part : Nat) (p : PartPolicy) (keyHash : BitVec 256) (h : Memory.wf s.mem = true) :
    Memory.wf (s.bootSup part p keyHash).mem = true := by
  have loaded : Memory.wf (p.supLoad.foldl (fun (s : State) (x : Nat × List Byte) => s.writeMem (stackedKey x.1) x.2) s).mem = true :=
    State.foldl_wf (fun _ _ ht => State.writeMem_wf ht) _ h
  simp only [State.bootSup]
  split
  · exact h
  · split
    · split
      · next t heq => exact (State.engStore_kept _ _ _ (by simpa using loaded)).ok (t := t) heq
      · simpa using loaded
    · exact h

@[simp] theorem State.toRecovery_mem (s : State) : s.toRecovery.mem = s.mem := by simp [State.toRecovery]

@[simp] theorem State.stage4_wf (s : State) (img : FwImage) (h : Memory.wf s.mem = true) : Memory.wf (s.stage4 img).mem = true := by
  simp [State.stage4, Memory.wf_filter, h]

@[simp] theorem State.bootStep_wf (s : State) (h : Memory.wf s.mem = true) : Memory.wf s.bootStep.mem = true := by
  simp only [State.bootStep]
  (repeat' split) <;> simp_all

@[simp] theorem State.freeze_mem (s : State) : s.freeze.mem = s.mem := by
  unfold State.freeze
  split <;> simp

@[simp] theorem State.beginMatrix_mem (pair : Option (Nat × Nat)) (shape : Nat → Nat → MatShape) (gsplit : Bool) (s : State) :
    (State.beginMatrix pair shape gsplit s).mem = s.mem := by
  simp only [State.beginMatrix]
  (repeat' split) <;> simp

theorem State.arbVisit_mem (bay : Nat) : ∀ (f pos : Nat) (topUp : Bool) {s t : State} {n : Nat}, s.arbVisit bay f pos topUp = some (n, t) →
    t.mem = s.mem
  | 0, _, _, _, _, _, h => by unfold State.arbVisit at h; cases h
  | f + 1, pos, topUp, s, t, n, h => by
    simp only [State.arbVisit] at h
    split at h
    · simpa using State.arbVisit_mem bay f _ _ h
    · generalize (if topUp = true then _ else _ : Nat) = d at h
      split at h
      · cases h
        simp
      · simpa using State.arbVisit_mem bay f _ _ h

@[simp] theorem State.endMatrix_mem (s : State) (core : Nat) (x : MatShape) (f : Entry → Entry) :
    (s.endMatrix core x f).mem = s.mem := by simp [State.endMatrix]

@[simp] theorem State.startTile_mem (s : State) (core : Nat) : (s.startTile core).mem = s.mem := by
  simp only [State.startTile]
  (repeat' split) <;> simp

@[simp] theorem State.accPut_mem (s : State) (c : Core) (x : MatShape) (i j v : Nat) : (s.accPut c x i j v).mem = s.mem := by
  unfold State.accPut
  split <;> simp

@[simp] theorem State.tileMma_mem (s : State) (c : Core) (e : Entry) (cmd : MmaCmd) (x : MatShape) (r : RunTile) :
    (s.tileMma c e cmd x r).mem = s.mem := by
  have elems (l : List (Nat × Nat)) (st : State × Exc) : (l.foldl (fun (st : State × Exc) p =>
      let y := s.element c cmd x r ((st.1.accHolder c x p.1).accRead (accIndex c x p.1 p.2) x.ew) p.1 p.2
      (st.1.accPut c x p.1 p.2 y.1, st.2.or y.2)) st).1.mem = st.1.mem := by
    induction l generalizing st with
    | nil => rfl
    | cons p l ih => simp [ih]
  unfold State.tileMma
  dsimp only
  split
  · simp
  · split
    · simp [elems]
    · simp [elems]

@[simp] theorem State.tileZero_mem (s : State) (c : Core) (e : Entry) (x : MatShape) (r : RunTile) :
    (s.tileZero c e x r).mem = s.mem := by
  unfold State.tileZero
  split <;> simp

/-- The outputs of a routing command that were written, all or up to the one that failed, have left canonical memory. -/
def OutsKept : Except (EngRes × Nat × Nat × State) State → Prop
  | .ok t => Memory.wf t.mem = true
  | .error (_, _, _, t) => Memory.wf t.mem = true

theorem State.writeOuts_kept : ∀ (l : List (Nat × List Byte)) {s : State}, Memory.wf s.mem = true → OutsKept (s.writeOuts l)
  | [], _, h => h
  | (va, bs) :: rest, s, h => by
    unfold State.writeOuts
    split
    · next t heq =>
      have ih := State.writeOuts_kept rest ((State.engStore_kept _ _ _ h).ok (t := t) heq)
      split
      · next hr => rw [hr] at ih; exact ih
      · next hr => rw [hr] at ih; exact ih
    · next t heq => exact (State.engStore_kept _ _ _ h).error (t := t) heq

@[simp] theorem State.putBank_mem (s : State) (b : PriceBank) : (s.putBank b).mem = s.mem := by simp [State.putBank]

@[simp] theorem State.keepRouted_mem (s : State) (read : List (List Byte)) (written : Nat) :
    (s.keepRouted read written).mem = s.mem := by simp [State.keepRouted]

@[simp] theorem State.takeBanks_mem (s : State) (ds : List Nat) : (s.takeBanks ds).mem = s.mem := by simp [State.takeBanks]

@[simp] theorem State.routingMet_mem (s : State) (m : EngRes) (va : Nat) (ds : List Nat) : (s.routingMet m va ds).mem = s.mem := by
  unfold State.routingMet
  split <;> simp

@[simp] theorem State.endRouting_wf (s : State) (r : Rd Routed) (h : Memory.wf s.mem = true) : Memory.wf (s.endRouting r).mem = true := by
  unfold State.endRouting
  dsimp only
  generalize r (RdState.start s.me.routed.1) = x
  obtain ⟨res, st⟩ := x
  have seen : Memory.wf (st.seen.foldl (fun (s : State) x => s.seen x.1 x.2) s).mem = true := by simpa using h
  dsimp only
  split
  · simpa using h
  · next x =>
    have outs := State.writeOuts_kept (x.writes.drop s.me.routed.2) seen
    split
    · next t hr =>
      have ht : Memory.wf t.mem = true := by rw [hr] at outs; exact outs
      simpa using ht
    · next t hr =>
      have ht : Memory.wf t.mem = true := by rw [hr] at outs; exact outs
      simpa using ht

@[simp] theorem State.redo_wf (s : State) (qid : Nat) (h : Memory.wf s.mem = true) : Memory.wf (s.redo qid).mem = true := by
  unfold State.redo
  dsimp only
  split
  · exact h
  · split
    · simp [h]
    · simp [h]
    · split <;> simp [h]

@[simp] theorem State.resend_wf (s : State) (qid : Nat) (h : Memory.wf s.mem = true) : Memory.wf (s.resend qid).mem = true := by
  simp only [State.resend]
  (repeat' split) <;> simp [h]

@[simp] theorem State.putCsr_wf (s : State) (num : Nat) (v : Word) (h :
    Memory.wf s.mem = true) : Memory.wf (s.putCsr num v).mem = true := by
  unfold State.putCsr
  dsimp only
  split
  case h_16 =>
    split
    · next t heq => exact csrWrite_keepsMem _ _ _ _ _ t (by simpa using h) heq
    · exact h
  all_goals exact h

/-- A place of the scan chain that writes no memory out of its canonical form. -/
def ScanKept (o : Option Scanned) : Prop := ∀ x, o = some x → ∀ v, Memory.wf (x.2 v).mem = true

theorem ScanKept.some {x : Scanned} (h : ∀ v, Memory.wf (x.2 v).mem = true) : ScanKept (some x) := fun _ e => by cases e; exact h

theorem ScanKept.map {α : Type} {o : Option α} {f : α → Scanned} (h : ∀ a v, Memory.wf ((f a).2 v).mem = true) : ScanKept (o.map f) := by
  intro x e
  obtain ⟨a, -, rfl⟩ := Option.map_eq_some_iff.1 e
  exact h a

theorem ScanKept.bind {α : Type} {o : Option α} {f : α → Option Scanned} (h : ∀ a, ScanKept (f a)) : ScanKept (o.bind f) := by
  intro x e
  obtain ⟨a, -, e⟩ := Option.bind_eq_some_iff.1 e
  exact h a x e

theorem scanAt_kept (p : ScanPlace) {s : State} (h : Memory.wf s.mem = true) : ScanKept (scanAt p s) := by
  cases p with
  | mem k => exact .some fun _ => State.writeMem_wf h
  | csr => exact .map fun _ _ => by simp [h]
  | fifo => exact .map fun _ _ => by simp [h]
  | image => exact .bind fun _ => .bind fun _ => .map fun _ _ => h
  | tickets part =>
    unfold scanAt
    split <;> exact .some fun _ => h
  | kerfLevel core part =>
    unfold scanAt
    split <;> exact .some fun _ => by simpa using h
  | launch => exact .bind fun _ => .map fun _ _ => h
  | counter => exact .bind fun _ => .map fun _ _ => h
  | evictSet => exact .bind fun _ => .map fun _ _ => h
  | member => exact .bind fun _ => .map fun _ _ => h
  | gpr | shadow | vec | pred | pc | level | accum | tree => exact .some fun _ => by simpa using h
  | portWord | entry | channel | price | range | port | versioned | event | notice | wave | kerfHead | tlb | l2tlb | line | context | plan =>
    exact .map fun _ _ => by simpa [Slot.within] using h

@[simp] theorem State.scanWrite_wf (s : State) (p : ScanPlace) (v : Nat) (h : Memory.wf s.mem = true) :
    Memory.wf (s.scanWrite p v).mem = true := by
  unfold State.scanWrite
  split
  · next x hx => exact scanAt_kept p h x hx v
  · exact h

@[simp] theorem State.setPair_mem (s : State) (e : EndToEnd) : (s.setPair e).mem = s.mem := by simp [State.setPair]

@[simp] theorem State.queuePacket_mem (s : State) (part : Option Nat) (p : HubPacket) :
    (s.queuePacket part p).mem = s.mem := by simp [State.queuePacket]

theorem State.packMessage_mem {s t : State} (h : s.packMessage = some t) : t.mem = s.mem := by
  obtain ⟨o, -, rfl⟩ := Option.map_eq_some_iff.1 h
  simp

@[simp] theorem State.copyWriteArrives_wf (s : State) (src ctx id addr : Nat) (bs : List Byte) (h : Memory.wf s.mem = true) :
    Memory.wf (s.copyWriteArrives src ctx id addr bs).mem = true := by
  unfold State.copyWriteArrives
  dsimp only
  split
  · simpa using h
  · split
    · next t heq =>
      have ht : Memory.wf t.mem = true := (State.engStoreAs_kept _ _ _ h).ok heq
      simpa using ht
    · next t heq =>
      have ht : Memory.wf t.mem = true := (State.engStoreAs_kept _ _ _ h).error heq
      simpa using ht
    · next t _ heq => exact (State.engStoreAs_kept _ _ _ h).error (t := t) heq

@[simp] theorem State.planReserveArrives_mem (s : State) (src id : Nat) (k : PlanCommon) (list : List (Nat × Nat)) :
    (s.planReserveArrives src id k list).mem = s.mem := by
  unfold State.planReserveArrives
  split
  · next h => simp [State.reservePlan_mem h]
  · simp

@[simp] theorem State.deliverMsg_wf (s : State) (src : Nat) (m : OutMsg) (h : Memory.wf s.mem = true) :
    Memory.wf (s.deliverMsg src m).mem = true := by
  cases m with
  | planArrival | planFreed | planKill | posting | contribution =>
    simp only [State.deliverMsg]
    (repeat' split) <;> simp [h]
  | _ => simp [State.deliverMsg, h]

@[simp] theorem State.packetArrives_wf (s : State) (p : HubPacket) (h :
    Memory.wf s.mem = true) : Memory.wf (s.packetArrives p).mem = true := by
  unfold State.packetArrives
  dsimp only
  split
  · simpa using h
  · exact State.foldl_wf (fun _ _ ht => by simp [ht]) _ (by simpa using h)

theorem State.takePacket_wf {s t : State} (e : s.takePacket = some t) (h : Memory.wf s.mem = true) : Memory.wf t.mem = true := by
  obtain ⟨c, -, hc⟩ := List.exists_of_findSome?_eq_some e
  split at hc
  · cases hc
  · obtain ⟨r, -, hr⟩ := Option.bind_eq_some_iff.1 hc
    split_ifs at hr
    cases hr
    exact State.packetArrives_wf _ _ h

theorem State.retryInbox_wf {s t : State} (e : s.retryInbox = some t) (h : Memory.wf s.mem = true) : Memory.wf t.mem = true := by
  obtain ⟨w, -, rfl⟩ := Option.map_eq_some_iff.1 e
  exact State.deliverMsg_wf _ _ _ h

theorem State.linkDue_wf {s u : State} {f : State → State} (e : s.linkDue = some f) (h : Memory.wf s.mem = true)
    (hu : Memory.wf u.mem = true) : Memory.wf (f u).mem = true := by
  unfold State.linkDue at e
  split at e
  · cases e
    simpa using hu
  · split at e
    · next ht =>
      cases e
      exact State.takePacket_wf ht h
    · split at e
      · cases e
        simp [hu]
      · split at e
        · next ht =>
          cases e
          rw [State.packMessage_mem ht]
          exact h
        · split at e
          · next ht =>
            cases e
            exact State.retryInbox_wf ht h
          · split at e
            · cases e
              simp [hu]
            · cases e

@[simp] theorem State.afterFollower_mem (s : State) : s.afterFollower.mem = s.mem := by
  unfold State.afterFollower
  split <;> simp

@[simp] theorem State.afterLeader_mem (w : IWord) (pc : Word) (split : Bool) (s : State) :
    (State.afterLeader w pc split s).mem = s.mem := by
  unfold State.afterLeader
  (repeat' split) <;> simp

@[simp] theorem State.nextTurn_mem (s : State) : s.nextTurn.mem = s.mem := by
  simp only [State.nextTurn]
  (repeat' split) <;> simp

theorem State.takeAgenda_mem {s t : State} {x : Nat × Instr} (h : s.takeAgenda = some (x, t)) : t.mem = s.mem := by
  unfold State.takeAgenda at h
  split at h
  · split at h <;> cases h
    rfl
  · split at h <;> cases h
    rfl

@[simp] theorem State.afterTurn_mem (s : State) : s.afterTurn.mem = s.mem := by simp [State.afterTurn]

@[simp] theorem State.afterEvent_wf (s : State) (h : Memory.wf s.mem = true) : Memory.wf s.afterEvent.mem = true := by
  unfold State.afterEvent
  split <;> simp [h]

end Sys2Proof.Machine
end

section
/-!
SUPPORT. Every instruction and every step goes on to a next state and keeps memory canonical (O58, O59).
-/
namespace Sys2Proof.Machine

open Sys2Proof

/-- An outcome that goes on to a next state, which keeps memory canonical when the state before was. -/
def Goes (s : State) (o : Host.Outcome State Fault Refusal) : Prop :=
  ∃ t, o = .next t ∧ (Memory.wf s.mem = true → Memory.wf t.mem = true)

section

variable {α : Type} {s : State}

theorem Goes.next {t : State} (h : Memory.wf s.mem = true → Memory.wf t.mem = true) : Goes s (.next t) := ⟨t, rfl, h⟩

theorem Goes.event {f : State → State} (h : Memory.wf s.mem = true → Memory.wf (f s).mem = true) : Goes s (Machine.event f s) := .next h

theorem Goes.run {i : Instr} {body : M α} {fin : α → State → State} (hb : M.KeepsMem body)
    (hf : ∀ a u, Memory.wf s.mem = true → Memory.wf u.mem = true → Memory.wf (fin a u).mem = true) : Goes s (Machine.run i body fin s) := by
  obtain ⟨t, e⟩ := run_next i body fin s
  exact ⟨t, e, fun h => run_keepsMem hb (fun a u => hf a u h) h e⟩

theorem Goes.runI {i : Instr} {body : M Unit} (hb : M.KeepsMem body) : Goes s (Machine.runI i body s) := .run hb fun _ _ _ hu => hu

theorem Goes.runJ {i : Instr} {body : M Word} (hb : M.KeepsMem body) : Goes s (Machine.runJ i body s) := .run hb fun _ _ _ hu => hu

theorem Goes.ite {c : Prop} [Decidable c] {x y : Host.Outcome State Fault Refusal} (hx : Goes s x) (hy : Goes s y) :
    Goes s (if c then x else y) := by
  split
  · exact hx
  · exact hy

/-- A reversible instruction drops what its last transfer left, and runs from there. -/
theorem Goes.runK {i : Instr} {body : M KerfRes} (hb : M.KeepsMem body) : Goes s (Machine.runK i body s) := by
  unfold Machine.runK
  dsimp only
  split
  · exact .next fun h => by split <;> simpa using h
  · have from_ (u : State) (hu : u.mem = s.mem) : Goes s (Machine.run i body (kerfFinish (s.updMe fun c => { c with kerfOp := none })) u) := by
      obtain ⟨t, e, k⟩ := Goes.run (s := u) (i := i) hb fun a v (h : Memory.wf u.mem = true) hv =>
        kerfFinish_wf (s := s.updMe fun c => { c with kerfOp := none }) (r := a) (by simpa [hu] using h) hv
      exact ⟨t, e, fun h => k (by simpa [hu] using h)⟩
    split
    · exact from_ _ rfl
    · exact from_ _ rfl

end

/-- A choice of two states whose memory is canonical. -/
theorem wf_ite {c : Prop} [Decidable c] {t u : State} (ht : Memory.wf t.mem = true) (hu : Memory.wf u.mem = true) :
    Memory.wf (if c then t else u).mem = true := by
  split
  · exact ht
  · exact hu

/-- The wait is over: the instruction is performed, or a fused gang's turn performs it. -/
theorem Goes.endWait {s : State} {f : State → Host.Outcome State Fault Refusal} (h : ∀ t, Goes t (f t)) : Goes s (s.endWait f) := by
  unfold State.endWait
  refine .ite (.next id) ?_
  obtain ⟨u, e, k⟩ := h { s with me := { s.me with wait := s.me.wait.map (fun w => { w with ready := true }) } }
  exact ⟨u, e, k⟩

theorem waitwRun_goes (rd ra rb : BitVec 5) (size : BitVec 1) (order : BitVec 2) (scope : BitVec 3) (s : State) :
    Goes s (waitwRun rd ra rb size order scope s) := by
  refine .run (by simp) fun r u h hu => ?_
  cases r with
  | none => exact hu
  | some w => simpa using wf_ite h (by simpa using h)

theorem arriveRun_goes (i : Instr) (ch : BitVec 5) (gather : Bool) (s : State) : Goes s (arriveRun i ch gather s) := by
  refine .run (by simp) fun stalls u h hu => ?_
  cases stalls with
  | false => exact hu
  | true => simpa using h

theorem execWaittoExpiry_goes (s : State) : Goes s (execWaittoExpiry s) := by
  unfold execWaittoExpiry
  split
  · exact .ite (.endWait fun _ => .run (by simp) fun _ _ _ hu => by simp [hu]) (.next id)
  · exact .ite (.endWait fun _ => waitwRun_goes ..) (.next id)
  · exact .next id

/-- Every instruction and step of the table goes on, and keeps memory canonical. -/
theorem exec_goes (i : Instr) (s : State) : Goes s (exec i s) := by
  unfold exec
  cases i with
  | add | sub | and | or | xor | andn | sll | srl | sra | ror | slt | sltu | min | max | minu | maxu | mul | mulh | mulhu
    | div | divu | rem | remu | clz | ctz | popc | sext | zext | bswap | sel | addi | andi | ori | xori | slli | srli |
    srai | rori | slti | sltui | lui | insh | lb | lh | lw | ld | lbu | lhu | lwu | sb | sh | sw | sd | ldaW | ldaD | stlW
    | stlD | fence | amoAdd | amoAnd | amoOr | amoXor | amoMin | amoMax | amoMinu | amoMaxu | amoSwap | amoCas | amoIncb |
    amoAddt | amoFadd | csrr | csrw | csrs | csrc | idle | split | ifence | btest | expect | bcancel | rtake | vsrr | vsrw
    | enq | enqm | qstat | cput | ctest | vfadd | vfsub | vfmul | vfdiv | vfmin | vfmax | vfsqrt | vfsgn | vfma | vfms |
    vfnma | vfdot2 | vfrcp | vfrsq | vfexp2 | vflog2 | vfeq | vflt | vfle | vfun | vfne | vfclass | vcvtF32F64 |
    vcvtF64F32 | vcvtF16F32 | vcvtF32F16 | vcvtBf16F32 | vcvtF32Bf16 | vcvtE4m3F32 | vcvtE5m2F32 | vcvtF32E4m3 |
    vcvtF32E5m2 | vcvtE2m1F32 | vcvtF32E2m1 | vcvtI32F32 | vcvtF32I32 | vcvtI64F64 | vcvtF64I64 | vcvtI8I32 | vcvtI16I32 |
    vcvtE8F32 | vcvtE4m3F32Bs | vcvtF32E4m3Bs | vadd | vsub | vmul | vmulh | vmin | vmax | vminu | vmaxu | vand | vor |
    vxor | vsll | vsrl | vsra | vsadd | vssub | vabsd | vcmpeq | vcmplt | vcmpltu | vbcast | vext | vins | vperm | vsldn |
    vslup | vredsum | vredfsum | vredmax | vredmin | vscan | vcmpr | vsel | viota | pand | por | pxor | pnot | pcnt |
    pfirst | pset | pget | vld | vst | vlds | vsts | vgath | vscat | vldb | vstaAdd | vstaFadd | vstaMax | vstaMin |
    fctlWrite | fflagsWrite | portmapWrite | bmaskWrite | mfmtWrite | kbackWrite | instretWrite | corestatRead |
    tlbinvPage | tlbinvRegion | tlbinvContext | uinote =>
    exact .runI (by simp)
  | beq | bne | blt | bge | bltu | bgeu | j | jal | jalr =>
    exact .runJ (by simp)
  | rmulf | umulf | rmulq | umulq | rshra | ushra | rnrw | unrw | rselz | uselz | raddf | uaddf | kmark | kdrop =>
    exact .runK (by simp)
  | ebreak | sret | uiret | yield | fuse | exit | wait | qwait | cget =>
    exact .run (by simp) fun _ _ h hu => by simp [h, hu]
  | boundBytesLand | episodeComplete | waveComplete | treeNodeFailure | kerfSpillComplete | kerfRefillComplete |
    entryAccepted | asyncEventDelivery | heldEventEnqueue | cplanArrival | postingArrival | postingResend |
    rootTicketArrival | ticketArrival | hubFailure | launchAging | placeLaunch | qfence | restoreComplete |
    bufferZeroingComplete | watchdogRingPoll | retryResend | migWriteRetranslate | ack | nak | flow | flowRefresh | probe
    | echo | idleFlit | portEnable | portDisable | lockPhaseEnd | alignPhaseEnd | startPhaseEnd | lockLoss | hostMailbox |
    info | shmpage | pricebank | tree | slice | peer | attest | preemptSet | preemptClear | ctxnew | ctxfree | restore |
    ctxstate | wdring | scrubReport | freeze | dependenceCountWrite | throttleEnd | probeInterval =>
    exact .event fun h => by simp [h]
  | copy | copynd | gathr | scatr | fill | feeda | feedb | drain | copyg | xsched | mma | mmat | mzero | hist | psum |
    topk | auct | apport | rsort | priceRead | priceWrite | priceScale | priceReset | cplan | launch | rangeinit =>
    exact .event fun h => State.takeHead_wf (fun _ _ ht => by simp [ht]) h
  | rollbackAdvance | resume | powerCapExceeded | junctionThrottle => exact .event fun h => wf_ite h h
  | unitEnd | entryComplete | suspendedRetranslate | engineResend | qfenceRelease | jigEntryIssue | pdeadlineExpiry | coreSaveComplete
    | contextUnitsStopped | dataFlit | junctionFreeze => exact .event fun h => wf_ite (by simp [h]) h
  | portWordArrival => exact .event fun h => wf_ite (State.portDeliver_wf _ _ _ _ h) h
  | watchdogExpiry | portWriteResend => exact .event fun h => wf_ite (by simp [h]) (by simp [h])
  | portWriteUnstall => exact .event fun h => wf_ite (by simp [h]) (wf_ite (by simp [h]) h)
  | ecall => exact .run (by simp) fun _ u _ hu => wf_ite (by simp [hu]) (by simp [hu])
  | mark => exact .runI (.change fun _ h => h)
  | kchk rd =>
    exact .runK (.bind .meM fun _ => .ite (by simp) (.bind (fillHead_keepsMem _ _) fun _ =>
      .ite (.pure _) (.bind (headSound_keepsMem _) fun _ => .bind .meM fun _ => by simp)))
  | illegalInstruction => exact .next fun h => by simpa using h
  | arrive ch | arriveG ch => exact arriveRun_goes ..
  | amoWaitw => exact waitwRun_goes ..
  | waittoExpiry => exact execWaittoExpiry_goes s
  | idleWake => exact .ite (.endWait fun _ => .runI (by simp)) (.next id)
  | cfree =>
    refine .event fun h => ?_
    rw [State.endCfree_mem]
    exact State.takeHead_wf (fun _ _ ht => by simp [ht]) h
  | cancel =>
    refine .event fun h => ?_
    rw [State.endCancel_mem]
    exact State.takeHead_wf (fun _ _ ht => by simp [ht]) h
  | cntwait =>
    refine .event fun h => ?_
    rw [State.endCntwait_mem]
    exact State.takeHead_wf (fun _ _ ht => by simp [ht]) h
  | uinoteStallRelease =>
    refine .event fun h => ?_
    (repeat' split) <;> exact h
  | copyEngineService | coordinatorRoleMove =>
    refine .event fun h => ?_
    dsimp only
    (repeat' split) <;> simp [h]
  | feedSpaceReleased | matrixTileComplete | contextZeroingComplete | measurePhaseEnd | trainingPhaseTimeout | portwaitExpiry =>
    refine .event fun h => ?_
    (repeat' split) <;> simp [h]
  | matrixTileIssue =>
    refine .event fun h => ?_
    dsimp only
    split
    · exact h
    · split
      · split
        · next hv => simpa [State.arbVisit_mem _ _ _ _ hv] using h
        · exact h
      · split
        · next hv => simpa [State.arbVisit_mem _ _ _ _ hv] using h
        · exact h
  | instanceEnd =>
    refine .event fun h => ?_
    rw [State.reapPlans_mem]
    exact wf_ite (by simp [h]) h
  | packageReset => exact .event fun h => by simp [h, Memory.wf_filter]
  | recoveryImage => exact .event fun h => State.hostRequest_wf (wf_ite h (wf_ite h h)) h
  | scanChainAccess a =>
    cases a with
    | read => exact .event id
    | write => exact .event fun h => wf_ite (by simp [h]) h

/-- What is due goes on, and keeps memory canonical when it was where the step was found and is where it is taken. -/
def DueGoes (s : State) (o : Option (State → Host.Outcome State Fault Refusal)) : Prop :=
  ∀ f, o = some f → ∀ u, ∃ t, f u = .next t ∧ (Memory.wf s.mem = true → Memory.wf u.mem = true → Memory.wf t.mem = true)

section

variable {s : State}

theorem DueGoes.none : DueGoes s none := fun _ h => by cases h

theorem DueGoes.some {f : State → Host.Outcome State Fault Refusal} (h : ∀ u, Goes u (f u)) : DueGoes s (Option.some f) := by
  intro _ e u
  cases e
  obtain ⟨t, e, k⟩ := h u
  exact ⟨t, e, fun _ => k⟩

/-- A step of the table. -/
theorem DueGoes.exec (i : Instr) : DueGoes s (Option.some (Machine.exec i)) := .some (exec_goes i)

theorem DueGoes.ite {c : Prop} [Decidable c] {x y : Option (State → Host.Outcome State Fault Refusal)} (hx : DueGoes s x) (hy : DueGoes s y) :
    DueGoes s (if c then x else y) := by
  split
  · exact hx
  · exact hy

theorem DueGoes.first {α : Type} {f : α → Option (State → Host.Outcome State Fault Refusal)} (h : ∀ a, DueGoes s (f a)) (l : List α) :
    DueGoes s (firstDue f l) := by
  intro g e
  obtain ⟨a, -, ha⟩ := List.exists_of_findSome?_eq_some e
  exact h a g ha

theorem takeUp_goes (h : CmdHead) (c : Cmd) (u : State) : Goes u (takeUp h c u) := by
  unfold takeUp
  cases c with
  | cfree =>
    refine .event fun h => ?_
    rw [State.endCfree_mem]
    exact State.takeHead_wf (fun _ _ ht => by simp [ht]) h
  | cancel =>
    refine .event fun h => ?_
    rw [State.endCancel_mem]
    exact State.takeHead_wf (fun _ _ ht => by simp [ht]) h
  | cntwait =>
    refine .event fun h => ?_
    rw [State.endCntwait_mem]
    exact State.takeHead_wf (fun _ _ ht => by simp [ht]) h
  | qfence => exact .event fun h => by simp [h]
  | _ => exact .event fun h => State.takeHead_wf (fun _ _ ht => by simp [ht]) h

theorem entryDue_goes (q : Nat) : DueGoes s (s.entryDue q) := by
  unfold State.entryDue
  split
  · exact .none
  · next e _ =>
    exact .ite (.some (takeUp_goes _ _)) (.ite (.exec (.entryComplete q)) (.ite (.exec (.qfenceRelease _)) (.ite (.some (takeUp_goes _ _))
      (.ite (.exec (.suspendedRetranslate q)) (.ite (.exec (.engineResend q)) (.ite (.exec (.jigEntryIssue q)) .none))))))

theorem waitDue_goes : DueGoes s s.waitDue := by
  unfold State.waitDue
  split
  · exact .none
  · next w _ =>
    refine .ite .none (.ite (.some execWaittoExpiry_goes) ?_)
    cases w.kind with
    | portWrite => exact .ite (.exec .portWriteUnstall) (.ite (.exec .portwaitExpiry) .none)
    | retry => exact .ite (.exec .retryResend) .none
    | portRetry => exact .ite (.exec .portWriteResend) .none
    | migWrite => exact .ite (.exec .migWriteRetranslate) .none
    | idle => exact .ite (.exec .idleWake) .none
    | exit => exact .ite (.exec .unitEnd) .none
    | uinote => exact .ite .none (.exec .uinoteStallRelease)
    | _ => exact .none

/-- What is due at a running core when its own wait is not over: its kerf transfer, its tile, its queues. -/
theorem meDue_goes : DueGoes s s.meDue := by
  unfold State.meDue
  split
  · exact .none
  · exact .exec .bufferZeroingComplete
  · exact .none
  · exact .ite (.exec .matrixTileComplete) (.ite (.exec .coreSaveComplete) .none)
  · refine .ite (.exec .pdeadlineExpiry) ?_
    refine .ite (.exec .watchdogExpiry) ?_
    refine .ite (.exec .portWriteUnstall) ?_
    refine .ite (.exec .portWriteResend) ?_
    refine .ite (.exec .portwaitExpiry) ?_
    split
    · next f h => exact h ▸ waitDue_goes
    · refine .ite (.exec .kerfSpillComplete) (.ite (.exec .kerfRefillComplete) (.ite (.exec .matrixTileComplete) ?_))
      split
      · next f _ => exact .exec (.entryAccepted f)
      · split
        · next f h => exact h ▸ DueGoes.first entryDue_goes _
        · exact .ite (.exec .heldEventEnqueue) (.ite (.exec .copyEngineService) (.ite (.exec .matrixTileIssue) .none))

theorem partDue_goes (p : Partition) : DueGoes s (s.partDue p) := by
  unfold State.partDue
  refine .ite (.exec (.launchAging _)) (.ite (.exec (.placeLaunch _)) ?_)
  split
  · exact .some fun u => .event fun h => by simp [h]
  · split
    · exact .some fun u => .event fun h => by simp [h]
    · exact .ite (.exec (.watchdogRingPoll _)) .none

theorem ctxDue_goes (x : Context) : DueGoes s (s.ctxDue x) := by
  unfold State.ctxDue
  split
  · exact .exec (.restoreComplete _ _)
  · exact .ite (.exec (.contextUnitsStopped _)) (.ite (.exec (.contextZeroingComplete _)) .none)

theorem collDue_goes : DueGoes s s.collDue := by
  unfold State.collDue
  split
  · exact .exec (.waveComplete _ _)
  · split
    · exact .ite (.exec (.postingArrival _)) (.some fun u => .event fun h => by simp [h])
    · split
      · exact .exec (.ticketArrival _)
      · split
        · exact .exec (.postingResend _)
        · intro f e
          obtain ⟨x, -, rfl⟩ := Option.map_eq_some_iff.1 e
          exact DueGoes.exec (.instanceEnd _ _ _) _ rfl

theorem episodeDue_goes : DueGoes s s.episodeDue := by
  intro f e
  obtain ⟨c, -, rfl⟩ := Option.map_eq_some_iff.1 e
  exact DueGoes.exec (.episodeComplete _) _ rfl

theorem portDue_goes (p : LinkPort) : DueGoes s (s.portDue p) :=
  .ite (.exec (.measurePhaseEnd _)) (.ite (.exec (.trainingPhaseTimeout _)) (.ite (.exec (.probeInterval _)) (.ite (.exec (.flowRefresh _)) .none)))

theorem linkDue_goes : DueGoes s (s.linkDue.map event) := by
  intro f e u
  obtain ⟨g, hg, rfl⟩ := Option.map_eq_some_iff.1 e
  exact ⟨g u, rfl, fun h hu => State.linkDue_wf hg h hu⟩

theorem hubDue_goes : DueGoes s s.hubDue := by
  unfold State.hubDue
  split
  · next h => exact h ▸ DueGoes.first partDue_goes _
  · split
    · next h => exact h ▸ DueGoes.first ctxDue_goes _
    · split
      · next h => exact h ▸ collDue_goes
      · split
        · next h => exact h ▸ DueGoes.first portDue_goes _
        · exact linkDue_goes

theorem coresDue_goes {c : Nat} {f : State → Host.Outcome State Fault Refusal} (e : s.coresDue = some (c, f)) : DueGoes s (some f) := by
  unfold State.coresDue at e
  split at e
  · next h =>
    cases e
    exact h ▸ meDue_goes
  · obtain ⟨x, -, hx⟩ := List.exists_of_findSome?_eq_some e
    obtain ⟨g, hg, hx⟩ := Option.map_eq_some_iff.1 hx
    cases hx
    intro _ e u
    cases e
    simpa using meDue_goes (s := s.switchTo x.1) f hg u

theorem dueEvent_goes {c : Nat} {f : State → Host.Outcome State Fault Refusal} (e : s.dueEvent = some (c, f)) : DueGoes s (some f) := by
  have hub {c f} (e : s.hubDue.map (fun f => (s.me.id, f)) = some (c, f)) : DueGoes s (some f) := by
    obtain ⟨g, hg, h⟩ := Option.map_eq_some_iff.1 e
    cases h
    exact hg ▸ hubDue_goes
  simp only [State.dueEvent] at e
  split at e
  · next h =>
    cases e
    exact h ▸ episodeDue_goes
  · split at e
    · split at e
      · next h =>
        cases e
        exact coresDue_goes h
      · exact hub e
    · split at e
      · next h =>
        cases e
        exact hub h
      · exact coresDue_goes e

theorem Goes.onCore {n : Nat} {f : State → Host.Outcome State Fault Refusal} (h : Goes (s.switchTo n) (f (s.switchTo n))) :
    Goes s (Machine.onCore n f s) := by
  obtain ⟨t, e, k⟩ := h
  exact ⟨t.switchTo s.me.id, by simp [Machine.onCore, e], fun hs => by simpa using k (by simpa using hs)⟩

theorem Goes.thenDo {g : State → State} {o : Host.Outcome State Fault Refusal} (hg : ∀ t, Memory.wf t.mem = true → Memory.wf (g t).mem = true)
    (h : Goes s o) : Goes s (Machine.thenDo g o) := by
  obtain ⟨t, rfl, k⟩ := h
  exact .next fun hs => hg t (k hs)

theorem runWord_goes (w : IWord) (s : State) : Goes s (runWord w s) := by
  unfold runWord
  split
  · exact exec_goes _ s
  · exact exec_goes (.illegalInstruction 0 (w.zeroExtend 64)) s

theorem coreStep_goes (s : State) : Goes s (coreStep s) := by
  unfold coreStep
  refine .ite (.next id) (.ite (exec_goes .asyncEventDelivery s) (.ite ?_ ?_))
  · split
    · exact .next id
    · exact .thenDo (fun t ht => by simp [ht]) (runWord_goes _ { s with me := _ })
  · split
    · next w s' hf =>
      obtain ⟨t, e, k⟩ := runWord_goes w s'
      exact .thenDo (fun t ht => by simp [ht]) ⟨t, e, fun hs => k (fetchM_keepsMem s w s' hs hf)⟩
    · exact exec_goes (.illegalInstruction _ _) s
    · exact exec_goes (.illegalInstruction _ _) s
    · exact .next fun h => by simpa using h

theorem engineStep_goes (s : State) : Goes s (engineStep s) := by
  unfold engineStep
  split
  · next c f e =>
    obtain ⟨t, ht, k⟩ := dueEvent_goes e f rfl (s.switchTo c)
    exact .thenDo (fun t ht => by simp [ht]) (.onCore ⟨t, ht, fun hs => k (by simpa using hs) hs⟩)
  · exact .next fun h => by simpa using h

/-- A step goes on, and keeps memory canonical, or the boot has halted. -/
theorem step_goes (s : State) : Goes s (step s) ∨ ∃ code, s.boot.halted = some code ∧ step s = .fault (.bootHalted code) := by
  unfold step
  split
  · next c i t h =>
    obtain ⟨u, e, k⟩ := Goes.onCore (s := t) (n := c) (exec_goes i (t.switchTo c))
    exact .inl ⟨u, e, fun hs => k (by rwa [State.takeAgenda_mem h])⟩
  · split
    · exact .inl (.next id)
    · split
      · next code h => exact .inr ⟨code, h, rfl⟩
      · refine .inl (.ite (.next fun h => by simp [h]) (.ite (engineStep_goes s) (.thenDo (fun t ht => ht) (coreStep_goes s))))

end

/-- Settles O59: what each step does, instruction by instruction, goes on from canonical memory to canonical memory. -/
theorem everyStepKeepsMemoryCanonical : Obligations.EveryStepKeepsMemoryCanonical := by
  intro s t h e
  obtain ⟨u, hu, k⟩ | ⟨code, -, hf⟩ := step_goes s
  · rw [hu] at e
    cases e
    exact k h
  · rw [hf] at e
    cases e

/-- Settles O58: every instruction goes on, and a step does but for a boot that has halted. -/
theorem onlyAHaltedBootStopsTheMachine : Obligations.OnlyAHaltedBootStopsTheMachine := by
  refine ⟨fun i s => ?_, fun s => ?_⟩
  · obtain ⟨t, e, -⟩ := exec_goes i s
    exact ⟨t, e⟩
  · obtain ⟨t, e, -⟩ | halted := step_goes s
    · exact .inl ⟨t, e⟩
    · exact .inr halted

end Sys2Proof.Machine
end

section
/-!
SUPPORT. Cores by number and contexts by id: what a read returns after an update of the same and of another one.
-/
namespace Sys2Proof.Machine

open Sys2Proof

theorem assoc_append {α : Type} {n : Nat} {l l' : List (Nat × α)} (h : ∀ x ∈ l, x.1 ≠ n) : assoc n (l ++ l') = assoc n l' := by
  induction l with
  | nil => rfl
  | cons x l ih =>
    rw [List.cons_append, assoc, if_neg (h x (by simp)), ih fun y hy => h y (by simp [hy])]

theorem assoc_filter_ne {α : Type} {k n : Nat} (hk : k ≠ n) (l : List (Nat × α)) : assoc k (l.filter (fun x => x.1 != n)) = assoc k l := by
  induction l with
  | nil => rfl
  | cons x l ih =>
    obtain ⟨i, a⟩ := x
    rw [List.filter_cons]
    by_cases hi : i = n
    · simp only [hi, bne_self_eq_false, Bool.false_eq_true, if_false, assoc, ih, if_neg hk.symm]
    · simp only [bne_iff_ne.2 hi, if_true, assoc, ih]

@[simp] theorem assoc_setAssoc_same {α : Type} (n : Nat) (a : α) (l : List (Nat × α)) : assoc n (setAssoc n a l) = some a := by
  rw [setAssoc, assoc_append fun x hx => ?_, assoc, if_pos rfl]
  have := List.mem_takeWhile_imp hx
  have : x.1 < n := by simpa using this
  omega

theorem assoc_setAssoc_other {α : Type} {k n : Nat} (hk : k ≠ n) (a : α) (l : List (Nat × α)) : assoc k (setAssoc n a l) = assoc k l := by
  have tail : assoc k ((n, a) :: (l.dropWhile (fun x => x.1 < n)).filter (fun x => x.1 != n)) = assoc k (l.dropWhile (fun x => x.1 < n)) := by
    rw [assoc, if_neg hk.symm, assoc_filter_ne hk]
  have whole : ∀ l' : List (Nat × α), assoc k (l' ++ (n, a) :: (l.dropWhile (fun x => x.1 < n)).filter (fun x => x.1 != n)) =
      assoc k (l' ++ l.dropWhile (fun x => x.1 < n)) := by
    intro l'
    induction l' with
    | nil => exact tail
    | cons x l' ih => simp only [List.cons_append, assoc, ih]
  rw [setAssoc, whole, List.takeWhile_append_dropWhile]

section
variable {s t : State} {k n : Nat} {c : Core}

/-- A core is read from the current core and the list of the others alone. -/
theorem State.core_congr (hm : t.me = s.me) (ho : t.others = s.others) (n : Nat) : t.core n = s.core n := by
  simp [State.core, hm, ho]

@[simp] theorem State.core_me : s.core s.me.id = s.me := by simp [State.core]

theorem State.setCore_me : s.setCore s.me.id c = { s with me := c } := by simp [State.setCore]

/-- Only the current core's number must be kept. -/
theorem State.core_setCore_same (h : n = s.me.id → c.id = n) : (s.setCore n c).core n = c := by
  unfold State.setCore
  split
  · next e => simp [State.core, h e]
  · next e => simp [State.core, e]

theorem State.core_setCore_other (h : n = s.me.id → c.id = n) (hk : k ≠ n) : (s.setCore n c).core k = s.core k := by
  unfold State.setCore
  split
  · next e =>
    simp only [State.core, h e, if_neg hk]
    rw [if_neg (by omega)]
  · simp only [State.core, assoc_setAssoc_other hk]

theorem State.me_setCore_other (h : n ≠ s.me.id) : (s.setCore n c).me = s.me := by simp [State.setCore, h]

section
variable {f : Core → Core}

theorem State.core_updCore_same (hf : n = s.me.id → (f s.me).id = s.me.id) : (s.updCore n f).core n = f (s.core n) := by
  refine State.core_setCore_same fun e => ?_
  subst e
  simpa using hf rfl

theorem State.core_updCore_other (hf : n = s.me.id → (f s.me).id = s.me.id) (hk : k ≠ n) : (s.updCore n f).core k = s.core k := by
  refine State.core_setCore_other (fun e => ?_) hk
  subst e
  simpa using hf rfl

theorem State.updCore_me : s.updCore s.me.id f = s.updMe f := by simp [State.updCore, State.setCore_me, State.updMe]

theorem State.me_updCore_other (h : n ≠ s.me.id) : (s.updCore n f).me = s.me := State.me_setCore_other h
end
end

/-! ## What an update of a core leaves unchanged -/

section
variable (s : State) (n : Nat) (c : Core) (f : Core → Core)

@[simp] theorem State.setCore_cycle : (s.setCore n c).cycle = s.cycle := by unfold State.setCore; split <;> rfl
@[simp] theorem State.setCore_stamp : (s.setCore n c).stamp = s.stamp := by unfold State.setCore; split <;> rfl
@[simp] theorem State.setCore_contexts : (s.setCore n c).contexts = s.contexts := by unfold State.setCore; split <;> rfl
@[simp] theorem State.setCore_tags : (s.setCore n c).tags = s.tags := by unfold State.setCore; split <;> rfl
@[simp] theorem State.setCore_parts : (s.setCore n c).parts = s.parts := by unfold State.setCore; split <;> rfl
@[simp] theorem State.setCore_banks : (s.setCore n c).banks = s.banks := by unfold State.setCore; split <;> rfl
@[simp] theorem State.setCore_waiters : (s.setCore n c).waiters = s.waiters := by unfold State.setCore; split <;> rfl
@[simp] theorem State.setCore_frames : (s.setCore n c).frames = s.frames := by unfold State.setCore; split <;> rfl
@[simp] theorem State.setCore_pageOwner : (s.setCore n c).pageOwner = s.pageOwner := by unfold State.setCore; split <;> rfl
@[simp] theorem State.setCore_ranges : (s.setCore n c).ranges = s.ranges := by unfold State.setCore; split <;> rfl
@[simp] theorem State.setCore_coll : (s.setCore n c).coll = s.coll := by unfold State.setCore; split <;> rfl
@[simp] theorem State.setCore_channels : (s.setCore n c).channels = s.channels := by unfold State.setCore; split <;> rfl
@[simp] theorem State.setCore_harvest : (s.setCore n c).harvest = s.harvest := by unfold State.setCore; split <;> rfl
@[simp] theorem State.setCore_l2tlb : (s.setCore n c).l2tlb = s.l2tlb := by unfold State.setCore; split <;> rfl
@[simp] theorem State.setCore_pkgId : (s.setCore n c).pkgId = s.pkgId := by unfold State.setCore; split <;> rfl
@[simp] theorem State.updCore_cycle : (s.updCore n f).cycle = s.cycle := State.setCore_cycle s n _
@[simp] theorem State.updCore_stamp : (s.updCore n f).stamp = s.stamp := State.setCore_stamp s n _
@[simp] theorem State.updCore_contexts : (s.updCore n f).contexts = s.contexts := State.setCore_contexts s n _
@[simp] theorem State.updCore_tags : (s.updCore n f).tags = s.tags := State.setCore_tags s n _
@[simp] theorem State.updCore_parts : (s.updCore n f).parts = s.parts := State.setCore_parts s n _
@[simp] theorem State.updCore_banks : (s.updCore n f).banks = s.banks := State.setCore_banks s n _
@[simp] theorem State.updCore_waiters : (s.updCore n f).waiters = s.waiters := State.setCore_waiters s n _
@[simp] theorem State.updCore_frames : (s.updCore n f).frames = s.frames := State.setCore_frames s n _
@[simp] theorem State.updCore_pageOwner : (s.updCore n f).pageOwner = s.pageOwner := State.setCore_pageOwner s n _
@[simp] theorem State.updCore_ranges : (s.updCore n f).ranges = s.ranges := State.setCore_ranges s n _
@[simp] theorem State.updCore_coll : (s.updCore n f).coll = s.coll := State.setCore_coll s n _
@[simp] theorem State.updCore_channels : (s.updCore n f).channels = s.channels := State.setCore_channels s n _
@[simp] theorem State.updCore_harvest : (s.updCore n f).harvest = s.harvest := State.setCore_harvest s n _
@[simp] theorem State.updCore_l2tlb : (s.updCore n f).l2tlb = s.l2tlb := State.setCore_l2tlb s n _
@[simp] theorem State.updCore_pkgId : (s.updCore n f).pkgId = s.pkgId := State.setCore_pkgId s n _
end

/-! ## Contexts and their sets -/

/-- The first element that a test finds in a mapped list, where the map does not change what the test sees. -/
theorem find?_map_of_same {α : Type} {p : α → Bool} {f : α → α} (h : ∀ a, p (f a) = p a) (l : List α) :
    (l.map f).find? p = (l.find? p).map f := by
  rw [List.find?_map]
  congr 2
  exact funext h

section
variable {s : State} {k n : Nat} {x : Context} {f : Context → Context}

/-- A context after an update of one. -/
theorem State.ctx?_updCtx (hf : ∀ x, (f x).id = x.id) : (s.updCtx n f).ctx? k = if k = n then (s.ctx? k).map f else s.ctx? k := by
  have found : (s.updCtx n f).ctx? k = (s.ctx? k).map (fun c => if c.id == n then f c else c) :=
    find?_map_of_same (fun c => by split <;> simp [hf]) _
  rw [found]
  cases h : s.ctx? k with
  | none => simp
  | some c =>
    have hc : c.id = k := by simpa using List.find?_some h
    simp only [Option.map_some, hc, beq_iff_eq]
    split <;> rfl

theorem State.ctx?_updCtx_same (hf : ∀ x, (f x).id = x.id) (h : s.ctx? n = some x) : (s.updCtx n f).ctx? n = some (f x) := by
  simp [State.ctx?_updCtx hf, h]

theorem State.ctx?_id (h : s.ctx? n = some x) : x.id = n := by simpa using List.find?_some h

theorem Context.set?_closeSet_same : (x.closeSet n).set? n = none := by
  simp [Context.closeSet, Context.set?]

theorem Context.set?_updSet_same {g : EvictionSet → EvictionSet} (hg : ∀ e, (g e).num = e.num) : (x.updSet n g).set? n = (x.set? n).map g := by
  have found : (x.updSet n g).set? n = (x.set? n).map (fun e => if e.num == n then g e else e) :=
    find?_map_of_same (fun e => by split <;> simp [hg]) _
  rw [found]
  cases h : x.set? n with
  | none => rfl
  | some e =>
    have he : e.num = n := by simpa using List.find?_some h
    simp [he]
end

end Sys2Proof.Machine
end

section
/-!
SUPPORT. What ends a wait at a port, by the state of the wait and of the results that batched atomics leave (R101, R151).
-/
namespace Sys2Proof.Machine

open Sys2Proof

section
variable {s : State} {w : WaitRec} {f : WaitRec → Bool}

theorem State.wake_of_none (h : s.me.wait = none) : s.wake f = s := by
  simp only [State.wake, State.updMe, h, Option.map_none]
  rw [← h]

theorem State.wake_of_true (h : s.me.wait = some w) (hf : f w = true) :
    s.wake f = s.updMe (fun c => { c with wait := some { w with ready := true } }) := by
  simp [State.wake, State.updMe, h, hf]

theorem State.wake_of_false (h : s.me.wait = some w) (hf : f w = false) : s.wake f = s := by
  simp only [State.wake, State.updMe, h, Option.map_some, hf, Bool.false_eq_true, if_false]
  rw [← h]

theorem State.portOpen_of_none (h : s.me.wait = none) : s.portOpen = false := by simp [State.portOpen, h]

theorem State.portExpired_of_none (h : s.me.wait = none) : s.portExpired = none := by simp [State.portExpired, h]

theorem State.portOpen_of_portWrite {n m q : Nat} (h : s.me.wait = some w) (hk : w.kind = .portWrite n) (hr : w.ready = false)
    (ht : s.me.portTarget (n - 24) = some (m, q)) :
    s.portOpen = ((s.core m).portRoom q || !s.partnerOk m || s.retries m s.me.ctx) := by
  simp [State.portOpen, h, hk, hr, ht]

theorem State.portExpired_of_portWrite {n : Nat} (h : s.me.wait = some w) (hk : w.kind = .portWrite n) (hr : w.ready = false) :
    s.portExpired = if s.me.user.portwait.toNat ≠ 0 ∧ w.since + s.me.user.portwait.toNat ≤ s.cycle then some n else none := by
  simp [State.portExpired, h, hk, hr]

theorem State.headResult_of_nil (h : s.me.portResults = []) : s.headResult = none := by simp [State.headResult, h]

/-- No partner can take the head result. -/
theorem State.headResult_of_noPartner {r : BitVec 5} {w : Word} {rest : List (BitVec 5 × Word)} (h : s.me.portResults = (r, w) :: rest)
    (ht : s.me.portTarget (r.toNat - 24) = none ∨ ∃ m q, s.me.portTarget (r.toNat - 24) = some (m, q) ∧ s.partnerOk m = false) :
    s.headResult = some (r, w, none) := by
  obtain ht | ⟨m, q, ht, ho⟩ := ht
  · simp [State.headResult, h, ht]
  · simp [State.headResult, h, ht, ho]

theorem State.headResult_of_partner {r : BitVec 5} {w : Word} {rest : List (BitVec 5 × Word)} {m q : Nat}
    (h : s.me.portResults = (r, w) :: rest) (ht : s.me.portTarget (r.toNat - 24) = some (m, q)) (ho : s.partnerOk m = true) :
    s.headResult = some (r, w, some (m, q)) := by
  simp [State.headResult, h, ht, ho]

section
variable {r : BitVec 5} {v : Word} {m q : Nat}

theorem State.portResultReady_of_partner (h : s.headResult = some (r, v, some (m, q))) :
    s.portResultReady = (!s.me.portRefused && !s.retries m s.me.ctx && (s.core m).portRoom q) := by simp [State.portResultReady, h]

theorem State.resultRetries_of_partner (h : s.headResult = some (r, v, some (m, q))) : s.resultRetries = s.retries m s.me.ctx := by
  simp [State.resultRetries, h]

theorem State.resultExpired_of_partner (h : s.headResult = some (r, v, some (m, q))) :
    s.resultExpired = if s.portResultReady = false ∧ s.me.portRefused = false ∧ s.retries m s.me.ctx = false ∧
      s.me.user.portwait.toNat ≠ 0 ∧ s.me.portSince + s.me.user.portwait.toNat ≤ s.cycle then some r else none := by
  simp [State.resultExpired, h, and_assoc]
end

/-- PORT_WRITE_UNSTALL where no result stands ready: it lets a port write that may go on try again. -/
theorem execPortWriteUnstall_of_wait (h : s.portResultReady = false) :
    exec .portWriteUnstall s = .next (if s.portOpen then s.wake (fun _ => true) else s) := by
  show Host.Outcome.next (if s.portOpen then s.wake (fun _ => true) else if s.portResultReady then s.sendResult else s) = _
  rw [h]
  simp

theorem execPortWriteUnstall_of_ready (hw : s.me.wait = none) (h : s.portResultReady = true) :
    exec .portWriteUnstall s = .next s.sendResult := by
  show Host.Outcome.next (if s.portOpen then s.wake (fun _ => true) else if s.portResultReady then s.sendResult else s) = _
  rw [State.portOpen_of_none hw, h]
  simp

/-- PORT_WRITE_RESEND: the head result's try, or a port write's. -/
theorem execPortWriteResend_eq : exec .portWriteResend s =
    .next (if s.resultTries then s.retryResult else s.wake (fun w => match w.kind with | .portRetry _ => true | _ => false)) := rfl

theorem execPortwaitExpiry_of_write {n : Nat} (h : s.portExpired = some n) : exec .portwaitExpiry s = .next (s.takeTrap 7 (BitVec.ofNat 64 n)) := by
  show Host.Outcome.next _ = _
  simp only [h]

theorem execPortwaitExpiry_of_result {r : BitVec 5} (h : s.portExpired = none) (hr : s.resultExpired = some r) :
    exec .portwaitExpiry s = .next ((s.updMe (fun c => c.dropResult s.cycle)).takeTrap 7 (r.zeroExtend 64)) := by
  show Host.Outcome.next _ = _
  simp only [h, hr]

theorem execPortwaitExpiry_of_none (h : s.portExpired = none) (hr : s.resultExpired = none) : exec .portwaitExpiry s = .next s := by
  show Host.Outcome.next _ = _
  simp only [h, hr]

/-- A core whose batched atomics have left no result has none that is ready, due or expired. -/
theorem State.noResult (h : s.me.portResults = []) (hr : s.me.portRefused = false) : s.resultTries = false := by
  simp [State.resultTries, hr, State.resultRetries, State.headResult_of_nil h]

theorem State.resultExpired_of_nil (h : s.me.portResults = []) : s.resultExpired = none := by
  simp [State.resultExpired, State.headResult_of_nil h]

theorem State.portResultReady_of_nil (h : s.me.portResults = []) : s.portResultReady = false := by
  simp [State.portResultReady, State.headResult_of_nil h]
end

/-! ## A word that arrives -/

/-- The bytes of a value, read back, give it within their width. -/
theorem leVal_leBytes : ∀ n v : Nat, leVal (leBytes n v) = v % 256 ^ n
  | 0, v => by simp [leBytes, leVal, Nat.mod_one]
  | n + 1, v => by
    rw [leBytes, leVal, leVal_leBytes n, BitVec.toNat_ofNat]
    exact (Nat.mod_mul (x := v) (a := 256) (b := 256 ^ n)).symm.trans (congrArg (v % ·) Nat.pow_succ'.symm)

theorem length_leBytes : ∀ n v : Nat, (leBytes n v).length = n
  | 0, _ => rfl
  | n + 1, v => by rw [leBytes, List.length_cons, length_leBytes n]

/-- What is read where bytes of a value were written is the value, within their width. -/
theorem State.peek_writeMem_leBytes {s : State} {k n v : Nat} (h : Memory.wf s.mem = true) (hv : v < 256 ^ n) :
    (s.writeMem k (leBytes n v)).peek k n = v := by
  have back := Memory.readBytes_writeBytes_same (k := k) (bs := leBytes n v) h
  rw [length_leBytes] at back
  rw [State.peek, State.writeMem_mem, back, leVal_leBytes, Nat.mod_eq_of_lt hv]

section
variable {s : State} {q : Nat} {w : Word} {pq : PortQueue}

theorem Core.portRoom_eq {c : Core} (h : c.ports[q]? = some pq) :
    c.portRoom q = (decide (pq.hw.length < 16) || (c.user.portmap.getLsbD q && decide (pq.spillCount < 64))) := by
  simp [Core.portRoom, h]

theorem State.portDeliver_to_queue (h : s.me.ports[q]? = some pq) (hl : pq.hw.length < 16) (hs : pq.spillCount = 0) :
    s.portDeliver s.me.id q w = s.updMe (fun c => { c with ports := c.ports.setIfInBounds q { pq with hw := pq.hw ++ [w] } }) := by
  simp [State.portDeliver, h, hl, hs, State.setCore_me, State.updMe]

theorem State.portDeliver_to_spill (h : s.me.ports[q]? = some pq) (hl : 16 ≤ pq.hw.length) :
    s.portDeliver s.me.id q w =
      (s.updMe (fun c => { c with ports := c.ports.setIfInBounds q { pq with spillCount := pq.spillCount + 1 } })).writeMem
        (localKey s.me.id (s.me.spillBase q + 8 * ((pq.spillHead + pq.spillCount) % 64))) (leBytes 8 w.toNat) := by
  simp [State.portDeliver, h, Nat.not_lt.2 hl, State.setCore_me, State.updMe]

theorem execPortWordArrival_of_room (h : s.me.portRoom q = true) : exec (.portWordArrival q w) s = .next (s.portDeliver s.me.id q w) := by
  show Host.Outcome.next _ = _
  simp [h]

theorem execPortWordArrival_of_full (h : s.me.portRoom q = false) : exec (.portWordArrival q w) s = .next s := by
  show Host.Outcome.next _ = _
  simp [h]
end

/-- The head result is gone. -/
theorem State.dropResult_of_cons {s : State} {x : BitVec 5 × Word} {rest : List (BitVec 5 × Word)} (h : s.me.portResults = x :: rest) :
    s.updMe (fun c => c.dropResult s.cycle) = s.updMe (fun c => { c with portResults := rest, portSince := s.cycle, portRefused := false }) := by
  simp [State.updMe, Core.dropResult, h]

theorem State.sendResult_of_noPartner {s : State} {r : BitVec 5} {v : Word} (h : s.headResult = some (r, v, none)) :
    s.portResultReady = true ∧ s.sendResult = (s.updMe (fun c => c.dropResult s.cycle)).takeTrap 3 (r.zeroExtend 64) := by
  simp [State.portResultReady, State.sendResult, h]

theorem State.sendResult_of_partner {s : State} {r : BitVec 5} {v : Word} {m q : Nat} (h : s.headResult = some (r, v, some (m, q))) :
    s.sendResult = (s.updMe (fun c => c.dropResult s.cycle)).portDeliver m q v := by
  simp [State.sendResult, h]

/-- The head result's try: it is refused while the partner's pair is tagged, and not again after. -/
theorem State.retryResult_of_partner {s : State} {r : BitVec 5} {v : Word} {m q : Nat} (h : s.headResult = some (r, v, some (m, q))) :
    s.retryResult = s.updMe (fun c => { c with portRefused := s.retries m s.me.ctx, portSince := s.cycle }) := by
  simp [State.retryResult, State.resultRetries_of_partner h]

/-- A wait that an event ends is marked ready, and one it does not concern stays as it is. -/
theorem event_wake_eq {s : State} {w : WaitRec} {f : WaitRec → Bool} (h : s.me.wait = some w) :
    event (fun s => s.wake f) s = .next (if f w then s.updMe (fun c => { c with wait := some { w with ready := true } }) else s) := by
  cases hf : f w with
  | true => exact congrArg _ (State.wake_of_true h hf)
  | false => exact congrArg _ (State.wake_of_false h hf)

/-- Settles O48: each event through what it makes of the wait, of the head result, and of the queue. -/
theorem resendsAndPortEventsLetTheInstructionTryAgain : Obligations.ResendsAndPortEventsLetTheInstructionTryAgain := by
  refine ⟨fun s w h => ⟨?_, ?_, ?_, ?_, ?_, ?_, ?_, ?_⟩, fun s r w rest hw hres => ⟨fun ht => ?_, fun m q ht => ⟨fun ho => ?_, ?_, ?_, ?_⟩⟩,
    fun s q w pq hp => ⟨?_, ?_, ?_⟩⟩
  · intro a hk
    exact (event_wake_eq h).trans (by rw [hk]; rfl)
  · intro hn hr n hk
    rw [execPortWriteResend_eq, State.noResult hn hr]
    exact (event_wake_eq h).trans (by rw [hk]; rfl)
  · intro a hk
    exact (event_wake_eq h).trans (by rw [hk]; rfl)
  · intro hk
    refine (event_wake_eq h).trans ?_
    split
    · next hf => exact absurd hf (hk _)
    · rfl
  · intro hn hr hk
    rw [execPortWriteResend_eq, State.noResult hn hr]
    refine (event_wake_eq h).trans ?_
    split
    · next hf => exact absurd hf (hk _)
    · rfl
  · intro hk
    refine (event_wake_eq h).trans ?_
    split
    · next hf => exact absurd hf (hk _)
    · rfl
  · intro n m q hk hr hn ht
    have open_ := State.portOpen_of_portWrite h hk hr ht
    rw [execPortWriteUnstall_of_wait (State.portResultReady_of_nil hn)]
    refine ⟨fun room => ?_, fun room ok no => ?_⟩
    · rw [open_, room, ← State.wake_of_true (f := fun _ => true) h rfl]
      rfl
    · rw [open_, room, ok, no]
      rfl
  · intro n hk hr hn
    have expired := State.portExpired_of_portWrite h hk hr
    refine ⟨fun hl ht => ?_, fun hl => ?_⟩
    · refine execPortwaitExpiry_of_write ?_
      rw [expired, if_pos ⟨fun z => hl (BitVec.eq_of_toNat_eq z), ht⟩]
    · refine execPortwaitExpiry_of_none ?_ (State.resultExpired_of_nil hn)
      rw [expired, if_neg]
      rintro ⟨hz, ht⟩
      obtain hl | hl := hl
      · exact hz (by rw [hl]; rfl)
      · omega
  · obtain ⟨ready, sent⟩ := State.sendResult_of_noPartner (State.headResult_of_noPartner hres (.inl ht))
    rw [execPortWriteUnstall_of_ready hw ready, sent, State.dropResult_of_cons hres]
  · obtain ⟨ready, sent⟩ := State.sendResult_of_noPartner (State.headResult_of_noPartner hres (.inr ⟨m, q, ht, ho⟩))
    rw [execPortWriteUnstall_of_ready hw ready, sent, State.dropResult_of_cons hres]
  · intro ho hr no room
    have head := State.headResult_of_partner hres ht ho
    rw [execPortWriteUnstall_of_ready hw (by simp [State.portResultReady_of_partner head, hr, no, room]), State.sendResult_of_partner head,
      State.dropResult_of_cons hres]
  · intro ho
    have head := State.headResult_of_partner hres ht ho
    refine ⟨fun hr => ⟨?_, ?_, ?_⟩, fun hr => ?_⟩
    · rw [execPortWriteUnstall_of_wait (by simp [State.portResultReady_of_partner head, hr]), State.portOpen_of_none hw]
      rfl
    · exact execPortwaitExpiry_of_none (State.portExpired_of_none hw) (by simp [State.resultExpired_of_partner head, hr])
    · rw [execPortWriteResend_eq, State.wake_of_none hw, State.retryResult_of_partner head]
      simp [State.resultTries, hr]
    · rw [execPortWriteResend_eq, State.wake_of_none hw, State.retryResult_of_partner head]
      simp [State.resultTries, hr, State.resultRetries_of_partner head]
  · intro ho hr no room
    have head := State.headResult_of_partner hres ht ho
    have ready : s.portResultReady = false := by simp [State.portResultReady_of_partner head, room]
    have expired := State.resultExpired_of_partner head
    refine ⟨?_, fun hl hp => ?_, fun hl => ?_⟩
    · rw [execPortWriteUnstall_of_wait ready, State.portOpen_of_none hw]
      rfl
    · rw [execPortwaitExpiry_of_result (State.portExpired_of_none hw) (by rw [expired, if_pos ⟨ready, hr, no, hl, hp⟩]),
        State.dropResult_of_cons hres]
    · refine execPortwaitExpiry_of_none (State.portExpired_of_none hw) ?_
      rw [expired, if_neg]
      rintro ⟨-, -, -, hz, hp⟩
      omega
  · intro hl hc
    obtain ⟨hq, -⟩ := Vector.getElem?_eq_some_iff.1 hp
    refine ⟨_, execPortWordArrival_of_room (by simp [Core.portRoom_eq hp, hl]), ?_⟩
    rw [State.portDeliver_to_queue hp hl hc]
    exact ⟨rfl, Vector.getElem?_setIfInBounds_self_of_lt hq, fun k hk => Vector.getElem?_setIfInBounds_ne (Ne.symm hk)⟩
  · intro hl hm hc wf
    obtain ⟨hq, -⟩ := Vector.getElem?_eq_some_iff.1 hp
    refine ⟨_, execPortWordArrival_of_room (by simp [Core.portRoom_eq hp, hm, hc]), ?_⟩
    rw [State.portDeliver_to_spill hp hl]
    exact ⟨Vector.getElem?_setIfInBounds_self_of_lt hq, State.peek_writeMem_leBytes wf w.isLt⟩
  · intro hl hor
    refine execPortWordArrival_of_full ?_
    obtain hm | hc := hor
    · simp [Core.portRoom_eq hp, hm, Nat.not_lt.2 hl]
    · simp [Core.portRoom_eq hp, Nat.not_lt.2 hl, Nat.not_lt.2 hc]

end Sys2Proof.Machine
end

section
/-!
SUPPORT. What memory reads as by the cells it lists, and the local store of a core moved to another core (R41, R42, R55).
-/
namespace Sys2Proof.Machine

open Sys2Proof

/-! ## Reads by the cells of memory -/

/-- A listed cell is what its address reads as. -/
theorem Memory.read_of_mem {k : Nat} {b : Byte} : ∀ {m : List Host.Cell}, Memory.wf m = true → (k, b) ∈ m → Memory.read k m = b
  | [], _, hm => by cases hm
  | (a, b') :: t, h, hm => by
    rcases List.mem_cons.1 hm with e | hm
    · cases e
      simp [Memory.read]
    · have hlt := Memory.wf_lt h (k, b) hm
      simp only [Memory.read, if_neg (Nat.ne_of_lt hlt), if_neg (Nat.not_lt.2 (Nat.le_of_lt hlt))]
      exact Memory.read_of_mem (Memory.wf_tail h) hm

/-- An address that no cell has reads as an unlisted one. -/
theorem Memory.read_of_not_mem {k : Nat} : ∀ {m : List Host.Cell}, (∀ c ∈ m, c.1 ≠ k) → Memory.read k m = Memory.unlisted k
  | [], _ => rfl
  | (a, b) :: t, h => by
    rw [Memory.read, if_neg (h (a, b) (by simp)), Memory.read_of_not_mem fun c hc => h c (by simp [hc])]
    split <;> rfl

/-- Dropping cells by their address leaves what the kept addresses read as. -/
theorem Memory.read_filter {p : Nat → Bool} {m : List Host.Cell} {k : Nat} (h : Memory.wf m = true) (hp : p k = true) :
    Memory.read k (m.filter (fun c => p c.1)) = Memory.read k m := by
  by_cases hm : ∃ b, (k, b) ∈ m
  · obtain ⟨b, hb⟩ := hm
    rw [Memory.read_of_mem h hb, Memory.read_of_mem (Memory.wf_filter h) (List.mem_filter.2 ⟨hb, hp⟩)]
  · have none : ∀ c ∈ m, c.1 ≠ k := fun c hc e => hm ⟨c.2, by rw [← e]; exact hc⟩
    rw [Memory.read_of_not_mem none, Memory.read_of_not_mem fun c hc => none c (List.mem_filter.1 hc).1]

/-- A range that is zeroed reads as unlisted; no other address is changed. -/
theorem Memory.read_clear_in {m : List Host.Cell} {lo hi k : Nat} (hl : lo ≤ k) (hh : k < hi) :
    Memory.read k (Memory.clear m lo hi) = Memory.unlisted k := by
  refine Memory.read_of_not_mem fun c hc e => ?_
  have := (List.mem_filter.1 hc).2
  simp only [Bool.or_eq_true, decide_eq_true_eq] at this
  omega

theorem Memory.read_clear_out {m : List Host.Cell} {lo hi k : Nat} (h : Memory.wf m = true) (hk : k < lo ∨ hi ≤ k) :
    Memory.read k (Memory.clear m lo hi) = Memory.read k m :=
  Memory.read_filter (p := fun a => a < lo || hi ≤ a) h (by simpa using hk)

/-! ## A local store read out and loaded -/

/-- Cells written one after the other at their offsets in the local store of a core. -/
def writeCells (n : Nat) (cells : List Host.Cell) (m : List Host.Cell) : List Host.Cell :=
  cells.foldl (fun m c => Memory.write (localKey n c.1) c.2 m) m

theorem localKey_eq (n off : Nat) : localKey n off = localKey n 0 + off := by
  rw [localKey, localKey, Nat.add_zero]

theorem localKey_inj {n i j : Nat} : localKey n i = localKey n j ↔ i = j := by
  rw [localKey_eq n i, localKey_eq n j, Nat.add_left_cancel_iff]

section
variable {n k off : Nat} {b : Byte} {cells m : List Host.Cell}

theorem writeCells_wf (h : Memory.wf m = true) : Memory.wf (writeCells n cells m) = true := by
  induction cells generalizing m with
  | nil => exact h
  | cons c cells ih => exact ih (Memory.wf_write h)

theorem read_writeCells_other (h : Memory.wf m = true) (hk : ∀ c ∈ cells, localKey n c.1 ≠ k) :
    Memory.read k (writeCells n cells m) = Memory.read k m := by
  induction cells generalizing m with
  | nil => rfl
  | cons c cells ih =>
    rw [writeCells, List.foldl_cons, ← writeCells, ih (Memory.wf_write h) fun d hd => hk d (by simp [hd]),
      Memory.read_write_other (Ne.symm (hk c (by simp))) h]

theorem read_writeCells_same (h : Memory.wf m = true) (hp : cells.Pairwise (fun c d => c.1 ≠ d.1)) (hc : (off, b) ∈ cells) :
    Memory.read (localKey n off) (writeCells n cells m) = b := by
  induction cells generalizing m with
  | nil => cases hc
  | cons c cells ih =>
    obtain ⟨hd, hp⟩ := List.pairwise_cons.1 hp
    rw [writeCells, List.foldl_cons, ← writeCells]
    rcases List.mem_cons.1 hc with rfl | hc
    · rw [read_writeCells_other (Memory.wf_write h) fun d hm e => hd d hm (localKey_inj.1 e).symm, Memory.read_write_same h]
    · exact ih (Memory.wf_write h) hp hc
end

/-- Loading a store zeroes the core's own and writes the cells into it; memory elsewhere is not touched. -/
theorem State.loadStore_mem (s : State) (n : Nat) (cells : List Host.Cell) :
    (s.loadStore n cells).mem = writeCells n cells (Memory.clear s.mem (localKey n 0) (localKey (n + 1) 0)) := by
  have fold : ∀ (cells : List Host.Cell) (t : State),
      (cells.foldl (fun (s : State) (c : Host.Cell) => { s with mem := Memory.write (localKey n c.1) c.2 s.mem }) t).mem =
        writeCells n cells t.mem := by
    intro cells
    induction cells with
    | nil => exact fun _ => rfl
    | cons c cells ih => exact fun t => ih _
  exact fold cells _

theorem localKey_next (n : Nat) : localKey (n + 1) 0 = localKey n 0 + 2 ^ 18 := by
  rw [localKey, localKey, Nat.add_mul n 1, Nat.one_mul, Nat.add_zero, Nat.add_zero, Nat.add_assoc]

theorem localKey_ge {n off : Nat} : localKey n 0 ≤ localKey n off := by
  rw [localKey_eq n off]
  exact Nat.le_add_right _ _

theorem localKey_lt_next {n off : Nat} (h : off < 2 ^ 18) : localKey n off < localKey (n + 1) 0 := by
  rw [localKey_eq, localKey_next]
  exact Nat.add_lt_add_left h _

/-- Nothing in a local store is the host's. -/
theorem unlisted_localKey (n off : Nat) : Memory.unlisted (localKey n off) = 0 := by
  have above : 3 * 2 ^ 46 ≤ localKey n off := by
    rw [localKey, Nat.add_assoc]
    exact Nat.le_add_right _ _
  have host : isHostKey (localKey n off) = false := by
    rw [isHostKey, decide_eq_false (Nat.not_lt.2 above), Bool.and_false]
  rw [Memory.unlisted, host]
  rfl

/-- The cells of canonical memory have their addresses once. -/
theorem Memory.pairwise_of_wf : ∀ {m : List Host.Cell}, Memory.wf m = true → m.Pairwise (fun c d => c.1 < d.1)
  | [], _ => .nil
  | _ :: _, h => .cons (Memory.wf_lt h) (Memory.pairwise_of_wf (Memory.wf_tail h))

theorem mem_storeCells {s : State} {n off : Nat} {b : Byte} (ho : off < 2 ^ 18) :
    (off, b) ∈ s.storeCells n ↔ (localKey n off, b) ∈ s.mem := by
  have hn := localKey_lt_next (n := n) ho
  simp only [State.storeCells, List.mem_map, List.mem_filter, Bool.and_eq_true, decide_eq_true_eq, Prod.mk.injEq]
  constructor
  · rintro ⟨⟨a, c⟩, ⟨hm, hl, hh⟩, e, rfl⟩
    have : localKey n off = a := by
      rw [localKey_eq]
      omega
    exact this ▸ hm
  · exact fun hm => ⟨_, ⟨hm, localKey_ge, hn⟩, by rw [localKey_eq, Nat.add_sub_cancel_left], rfl⟩

theorem pairwise_storeCells {s : State} (n : Nat) (h : Memory.wf s.mem = true) : (s.storeCells n).Pairwise (fun c d => c.1 ≠ d.1) := by
  refine List.pairwise_map.2 (List.Pairwise.imp_of_mem ?_ ((Memory.pairwise_of_wf h).filter _))
  intro c d hc hd hlt
  have hc := (List.mem_filter.1 hc).2
  have hd := (List.mem_filter.1 hd).2
  simp only [Bool.and_eq_true, decide_eq_true_eq] at hc hd
  omega

/-- A local store read out of one core and loaded into another is byte for byte the same. -/
theorem read_loadStore_storeCells {s t : State} {n m off : Nat} (hs : Memory.wf s.mem = true) (ht : Memory.wf t.mem = true) (ho : off < 2 ^ 18) :
    Memory.read (localKey m off) (t.loadStore m (s.storeCells n)).mem = Memory.read (localKey n off) s.mem := by
  rw [State.loadStore_mem]
  have cleared := Memory.wf_clear (lo := localKey m 0) (hi := localKey (m + 1) 0) ht
  by_cases hm : ∃ b, (localKey n off, b) ∈ s.mem
  · obtain ⟨b, hb⟩ := hm
    rw [read_writeCells_same cleared (pairwise_storeCells n hs) ((mem_storeCells ho).2 hb), Memory.read_of_mem hs hb]
  · have none : ∀ c ∈ s.mem, c.1 ≠ localKey n off := fun c hc e => hm ⟨c.2, by rw [← e]; exact hc⟩
    rw [read_writeCells_other cleared, Memory.read_clear_in localKey_ge (localKey_lt_next ho), Memory.read_of_not_mem none,
      unlisted_localKey, unlisted_localKey]
    intro c hc e
    obtain rfl : c.1 = off := localKey_inj.1 e
    exact hm ⟨c.2, (mem_storeCells ho).1 hc⟩

end Sys2Proof.Machine
end

section
/-!
SUPPORT. A set that is restored, image by image, and a core whose zeroing ends (R41, R42, R55).
-/
namespace Sys2Proof.Machine

open Sys2Proof

/-- One image onto its core: its store, then the core, then what follows its unit. -/
def State.restoreImage (s : State) (moved : List (Nat × Nat)) (im : Image) (n : Nat) : State :=
  let s := s.loadStore n im.store
  let s := s.setCore n ((im.core.restored n moved s.cycle).overflowNotice s.stamp)
  let s := { s with stamp := s.stamp + 1 }
  match im.core.unit with
  | some u =>
    let s := { s with tags := s.tags.filter (fun t => !(t.2.2.1 == u.launch && t.2.2.2 == u.unit)) }
    (s.setPlace u.launch u.unit (.on n)).followUnit u n
  | none => s

/-- A context without a set and the images of it. -/
def Context.withoutSet (x : Context) (set : Nat) : Context := { x.closeSet set with images := x.images.filter (fun i => i.set != set) }

/-- The set of one image is restored. -/
theorem State.restoreDone_one {s : State} {ctx set n : Nat} {x : Context} {e : EvictionSet} {im : Image} (hx : s.ctx? ctx = some x)
    (hs : x.set? set = some e) (he : e.state = .restoring) (hi : x.imagesOf set = [im]) (ht : e.targets = [(im.fromCore, n)]) :
    s.restoreDone ctx set = (s.restoreImage e.targets im n).updCtx ctx (fun x => x.withoutSet set) := by
  have pairs : (x.imagesOf set).filterMap (fun im => (assoc im.fromCore e.targets).map (fun n => (im, n))) = [(im, n)] := by
    simp [hi, ht, assoc]
  simp only [State.restoreDone, hx, hs, he, if_true, pairs]
  rfl

theorem State.loadStore_eq (s : State) (n : Nat) (cells : List Host.Cell) :
    s.loadStore n cells = { s.zeroRange (localKey n 0) (localKey (n + 1) 0) with mem := (s.loadStore n cells).mem } := by
  have fold : ∀ (cells : List Host.Cell) (t : State),
      (cells.foldl (fun (s : State) (c : Host.Cell) => { s with mem := Memory.write (localKey n c.1) c.2 s.mem }) t) =
        { t with mem := (cells.foldl (fun (s : State) (c : Host.Cell) => { s with mem := Memory.write (localKey n c.1) c.2 s.mem }) t).mem } := by
    intro cells
    induction cells with
    | nil => exact fun _ => rfl
    | cons c cells ih => exact fun t => ih _
  exact fold cells _

section
variable {s : State} {moved : List (Nat × Nat)} {im : Image} {n : Nat}

theorem State.restoreImage_core :
    (s.restoreImage moved im n).core n = (im.core.restored n moved s.cycle).overflowNotice s.stamp := by
  have id_ : ((im.core.restored n moved s.cycle).overflowNotice s.stamp).id = n := by
    unfold Core.overflowNotice
    split <;> rfl
  have placed : (s.restoreImage moved im n).core n =
      ((s.loadStore n im.store).setCore n ((im.core.restored n moved s.cycle).overflowNotice s.stamp)).core n := by
    unfold State.restoreImage
    rw [State.loadStore_eq]
    split <;> exact State.core_congr rfl rfl n
  rw [placed, State.core_setCore_same fun _ => id_]

theorem State.restoreImage_mem : (s.restoreImage moved im n).mem = (s.loadStore n im.store).mem := by
  unfold State.restoreImage
  split <;> simp

theorem State.restoreImage_contexts : (s.restoreImage moved im n).contexts = s.contexts := by
  unfold State.restoreImage
  rw [State.loadStore_eq]
  split <;> simp [State.followUnit, State.setPlace, State.updLaunch]

theorem State.restoreImage_tags {u : UnitCfg} (hu : im.core.unit = some u) :
    (s.restoreImage moved im n).tags = s.tags.filter (fun t => !(t.2.2.1 == u.launch && t.2.2.2 == u.unit)) := by
  unfold State.restoreImage
  rw [State.loadStore_eq]
  simp [hu, State.followUnit, State.setPlace, State.updLaunch]
end

/-- Memory outside the core's local store is not touched where the image's cells lie in a local store. -/
theorem read_loadStore_out {s : State} {n a : Nat} {cells : List Host.Cell} (h : Memory.wf s.mem = true)
    (ha : a < localKey n 0 ∨ localKey (n + 1) 0 ≤ a) (hc : ∀ c ∈ cells, c.1 < 2 ^ 18) :
    Memory.read a (s.loadStore n cells).mem = Memory.read a s.mem := by
  rw [State.loadStore_mem, read_writeCells_other (Memory.wf_clear h), Memory.read_clear_out h ha]
  intro c hm e
  have above := localKey_ge (n := n) (off := c.1)
  have below := localKey_lt_next (n := n) (hc c hm)
  omega

/-- Settles O45: what the store is written with, what restoring an image leaves on its core, and what zeroing leaves. -/
theorem restoredCoresResumeWithTheirStores : Obligations.RestoredCoresResumeWithTheirStores := by
  refine ⟨fun s t n m _ _ hs ht off ho => read_loadStore_storeCells hs ht ho, ?_, ?_⟩
  · intro s ctx set n x e im hx hset he hi ht wf
    have found : (s.restoreImage e.targets im n).ctx? ctx = some x := by rw [State.ctx?, State.restoreImage_contexts]; exact hx
    have core : ((s.restoreImage e.targets im n).updCtx ctx (fun x => x.withoutSet set)).core n = _ := State.restoreImage_core
    refine ⟨_, _, congrArg Host.Outcome.next (State.restoreDone_one hx hset he hi ht), ?_, ?_, ?_, ?_, ?_, ?_, ?_, ?_, ?_, ?_, ?_, ?_, ?_,
      State.ctx?_updCtx_same (fun _ => rfl) found, Context.set?_closeSet_same, ?_, ?_, ?_⟩
    iterate 13
      · rw [core]
        unfold Core.overflowNotice
        split <;> rfl
    · intro i hm
      simpa using (List.mem_filter.1 hm).2
    · intro u hu g hg
      rw [State.updCtx_tags, State.restoreImage_tags hu] at hg
      rintro ⟨hl, hv⟩
      simpa [hl, hv] using (List.mem_filter.1 hg).2
    · intro a ha hc
      rw [State.updCtx_mem, State.restoreImage_mem]
      exact read_loadStore_out wf ha hc
  · intro s hz
    have done : exec .bufferZeroingComplete s = .next ((s.zeroRange (localKey s.me.id 0) (localKey (s.me.id + 1) 0)).updCore s.me.id
        (fun c => { c with run := .free, zeroCtx := none })) := by
      show Host.Outcome.next (s.zeroingDone s.me.id) = _
      simp [State.zeroingDone, hz]
    refine ⟨_, done, ?_, ?_, ?_⟩
    · exact congrArg State.me (State.updCore_me (s := s.zeroRange _ _))
    · intro off ho
      rw [State.updCore_mem]
      exact Memory.read_clear_in localKey_ge (localKey_lt_next ho)
    · intro wf a ha
      rw [State.updCore_mem]
      exact Memory.read_clear_out wf ha

end Sys2Proof.Machine
end

section
/-!
SUPPORT. The context a trap enters, calls and breakpoints, and words whose codes no table lists (R52 to R54, R229, R255, R256).
-/
namespace Sys2Proof.Machine

open Sys2Proof Sys2Proof.Claims

/-! ## Traps -/

/-- Registers written one after the other at consecutive numbers: those hold the values given, the others are as they were. -/
theorem getElem?_foldl_setIfInBounds {α : Type} {n : Nat} (f : Nat → α) (v : Vector α n) (from_ j : Nat) : ∀ m : Nat,
    ((List.range m).foldl (fun g i => g.setIfInBounds (from_ + i) (f i)) v)[j]? =
      if from_ ≤ j ∧ j < from_ + m ∧ j < n then some (f (j - from_)) else v[j]?
  | 0 => by
    rw [if_neg (by omega)]
    rfl
  | m + 1 => by
    rw [List.range_succ, List.foldl_append, List.foldl_cons, List.foldl_nil, Vector.getElem?_setIfInBounds,
      getElem?_foldl_setIfInBounds f v from_ j m]
    by_cases hj : from_ + m = j
    · subst hj
      by_cases hn : from_ + m < n
      · rw [if_pos rfl, if_pos hn, if_pos ⟨by omega, by omega, hn⟩, Nat.add_sub_cancel_left]
      · rw [if_pos rfl, if_neg hn, if_neg (by omega), Vector.getElem?_eq_none (by omega)]
    · rw [if_neg hj]
      by_cases h : from_ ≤ j ∧ j < from_ + m ∧ j < n
      · rw [if_pos h, if_pos (by omega)]
      · rw [if_neg h, if_neg (by omega)]

/-- The bank of g16 to g23 and its shadow change places; no other register changes. -/
theorem Core.switchBank_spec (c : Core) :
    (∀ k < 8, c.switchBank.g[16 + k]? = c.shadow[k]? ∧ c.switchBank.shadow[k]? = c.g[16 + k]?) ∧
    (∀ n < 32, (n < 16 ∨ 24 ≤ n) → c.switchBank.g[n]? = c.g[n]?) := by
  have bank (n : Nat) : c.switchBank.g[n]? = if 16 ≤ n ∧ n < 16 + 8 ∧ n < 32 then some (c.shadow[n - 16]?.getD 0) else c.g[n]? :=
    getElem?_foldl_setIfInBounds (fun i => c.shadow[i]?.getD 0) c.g 16 n 8
  have shadow (n : Nat) : c.switchBank.shadow[n]? = if 0 ≤ n ∧ n < 0 + 8 ∧ n < 8 then some (c.g[16 + (n - 0)]?.getD 0) else c.shadow[n]? := by
    rw [← getElem?_foldl_setIfInBounds (fun i => c.g[16 + i]?.getD 0) c.shadow 0 n 8]
    simp [Core.switchBank]
  refine ⟨fun k hk => ⟨?_, ?_⟩, fun n hn ho => ?_⟩
  · rw [bank, if_pos (by omega), Nat.add_sub_cancel_left, Vector.getElem?_eq_getElem hk]
    rfl
  · rw [shadow, if_pos (by omega), Nat.sub_zero, Vector.getElem?_eq_getElem (by omega)]
    rfl
  · rw [bank, if_neg (by omega)]

/-- Nothing but the two banks changes. -/
theorem Core.switchBank_eq (c : Core) : ∃ g sh, c.switchBank = { c with g := g, shadow := sh } := ⟨_, _, rfl⟩

theorem causeWord_sync {cause : Nat} (h : cause < 24) : causeWord false cause = BitVec.ofNat 64 cause := by
  simp [causeWord, Nat.mod_eq_of_lt (Nat.lt_trans h (by decide : 24 < 32))]

theorem State.splitGang_of_not_fused {s : State} (h : s.fused = false) : s.splitGang = s := by
  simp only [State.splitGang, h]
  split <;> rfl

/-- A trap outside a fused gang. -/
theorem State.takeTrap_of_not_fused {s : State} (h : s.fused = false) (cause : Nat) (v : Word) :
    s.takeTrap cause v = { s with me := if s.me.delegates cause then s.me.enterUi false cause v s.me.pc else s.me.enterSup false cause v s.me.pc } := by
  simp only [State.takeTrap, State.takeTrapAt, State.splitGang_of_not_fused h]
  split <;> rfl

theorem trapsEnterTheSupervisorOrTheUserInterruptContext : TrapsEnterTheSupervisorOrTheUserInterruptContext := by
  intro s cause v hf hc
  have trap := State.takeTrap_of_not_fused hf cause v
  have code := causeWord_sync hc
  refine ⟨fun hd => ?_, fun hd => ?_⟩
  · have no : s.me.delegates cause = false := by
      rw [Bool.eq_false_iff]
      simpa [Core.delegates, and_assoc] using hd
    rw [trap, no]
    simp only [Bool.false_eq_true, if_false, Core.enterSup, code]
    rfl
  · have yes : s.me.delegates cause = true := by
      obtain ⟨h1, h2, h3, h4⟩ := hd
      simp [Core.delegates, h1, h2, h3, h4]
    obtain ⟨g, sh, e⟩ := s.me.switchBank_eq
    have spec := s.me.switchBank_spec
    rw [e] at spec
    rw [trap, yes, if_pos rfl, Core.enterUi, e, code]
    exact ⟨g, sh, rfl, spec⟩

/-! ## Calls and breakpoints -/

/-- No call has a number above 12. -/
theorem monitorCall_unknown {s : State} (h : 13 ≤ (s.me.gpr 4).toNat) : monitorCall s = refuseCall s 1 := by
  unfold monitorCall
  dsimp only
  split
  case h_14 => rfl
  all_goals omega

theorem callRegs_unknown {n : Nat} (h : 13 ≤ n) : callRegs n = [] := by
  unfold callRegs
  split
  case h_14 => rfl
  all_goals omega

theorem callsAndBreakpointsTrapAndCount : CallsAndBreakpointsTrapAndCount := by
  intro s
  refine ⟨fun hs => ?_, rfl, fun _ _ => rfl, fun hs hc hp => ?_⟩
  · have body : ecallBody s = .ok ((), s) := by
      simp [ecallBody, hs]
    refine (run_ok (i := .ecall) rfl body).trans ?_
    rw [hs]
    rfl
  · have body : ecallBody s = .ok ((), s) := by
      have clear : s.me.pendingRegs.contains (s.me.bankReg 4) = false := by
        simpa [Core.bankReg] using hp
      simp [ecallBody, hs, callRegs_unknown hc, pendingCheck_ok clear]
    refine (run_ok (i := .ecall) rfl body).trans ?_
    rw [hs, monitorCall_unknown hc]
    rfl

/-! ## Words whose codes no table lists -/

theorem wordOf_encode {i : Instr} {w : IWord} (h : encode i = some w) : wordOf i = w.zeroExtend 64 := by
  rw [wordOf, h]

/-- A reversible instruction that is not well formed, with no transfer of its own in flight. -/
theorem runK_illegal {i : Instr} {body : M KerfRes} {s : State} (hi : i.wellFormed = false) :
    runK i body s = .next (s.takeTrap 0 (wordOf i)) := by
  simp only [runK, hi, Bool.false_eq_true, if_false]
  exact run_illegal hi

/-- Only an instruction whose meaning is a run of its own checks can be ill formed, and then its run traps. -/
theorem exec_illegal {i : Instr} {s : State} (hi : i.wellFormed = false) : exec i s = .next (s.takeTrap 0 (wordOf i)) := by
  unfold exec
  cases i with
  | sext | zext | ldaW | ldaD | stlW | stlD | fence | amoAdd | amoAnd | amoOr | amoXor | amoMin | amoMax | amoMinu | amoMaxu | amoSwap
    | amoCas | amoIncb | amoAddt | amoFadd | amoWaitw | rtake | vsrr | enq | enqm | qstat | qwait | vfsgn | vcvtE2m1F32 | vcvtF32E2m1
    | vcvtE8F32 | vcvtE4m3F32Bs | vcvtF32E4m3Bs | vadd | vsub | vmul | vmulh | vmin | vmax | vminu | vmaxu | vand | vor | vxor | vsll | vsrl
    | vsra | vsadd | vssub | vabsd | vcmpeq | vcmplt | vcmpltu | vbcast | vext | vins | vsldn | vslup | vsel | pset =>
    exact run_illegal hi
  | vredfsum vd va pg ty aux =>
    show execVredfsum vd va pg ty aux s = _
    unfold execVredfsum runI
    exact run_illegal hi
  | rshra | ushra => exact runK_illegal hi
  | _ => cases hi

theorem wordsWithUnlistedCodesTakeTheIllegalTrap : WordsWithUnlistedCodesTakeTheIllegalTrap := by
  intro i w s hw hi _
  rw [exec_illegal hi, wordOf_encode hw]

/-- Settles O12: the trap's two contexts, the calls, and the words that are not well formed. -/
theorem trapsEnterTheContextOfTheirCause : Obligations.TrapsEnterTheContextOfTheirCause :=
  ⟨trapsEnterTheSupervisorOrTheUserInterruptContext, callsAndBreakpointsTrapAndCount, wordsWithUnlistedCodesTakeTheIllegalTrap⟩

end Sys2Proof.Machine
end

section
/-!
SUPPORT. The writes of TLBINV and of UINOTE (R67, R69, R72).
-/
namespace Sys2Proof.Machine

open Sys2Proof Sys2Proof.Claims

/-! ## The two registers -/

section
variable {s : State} {n : Nat} {v : Word} {ra : BitVec 5}

/-- TLBINV and UINOTE are registers of the supervisor. -/
theorem csrForm_write_of_super (hn : n = 0x40D ∨ n = 0x40E) (hs : s.me.super = true) : csrForm .write n s = .ok (0, s) := by
  obtain rfl | rfl := hn <;> simp [csrForm, csrAllowed, State.csrValue, hs]

theorem csrForm_tlbinv_of_user (hs : s.me.super = false) : csrForm .write 0x40D s = .error (.trapWord 1) := by
  have allowed : csrAllowed 0x40D s = .error (.trapWord 1) := by
    simp [csrAllowed, State.csrValue, hs]
  exact M.bind_error allowed

theorem csrWrite_tlbinv (hs : s.me.super = true) : csrWrite .write 0x40D v s = writeTlbinv v s :=
  M.bind_ok (csrForm_write_of_super (.inl rfl) hs)

theorem csrWrite_uinote (hs : s.me.super = true) : csrWrite .write 0x40E v s = writeUinote v s :=
  M.bind_ok (csrForm_write_of_super (.inr rfl) hs)

/-- A write of UINOTE by the supervisor writes its operand. -/
theorem csrWriteBody_uinote (hr : s.me.plainReg ra = true) (hs : s.me.super = true) :
    csrWriteBody .write ra 0x40E s = writeUinote (s.gr ra) s :=
  (M.bind_ok (csrForm_write_of_super (.inr rfl) hs)).trans ((M.bind_ok (readReg_plain hr)).trans (csrWrite_uinote hs))

/-- A write of TLBINV by the supervisor writes its operand with the kind of the instruction. -/
theorem tlbinvBody_super {k : Nat} (hr : s.me.plainReg ra = true) (hs : s.me.super = true) :
    tlbinvBody ra k s = writeTlbinv (putBits (s.gr ra) 61 60 k) s :=
  (M.bind_ok (csrForm_write_of_super (.inl rfl) hs)).trans ((M.bind_ok (readReg_plain hr)).trans (csrWrite_tlbinv hs))

theorem tlbinvBody_user {k : Nat} (hs : s.me.super = false) : tlbinvBody ra k s = .error (.trapWord 1) :=
  M.bind_error (csrForm_tlbinv_of_user hs)
end

/-! ## UINOTE -/

section
variable {s : State} {v : Word}

/-- The bits of a UINOTE operand that must be so: none reserved is set, and STATUS is not 3 (R72). -/
def uinoteLegal (v : Word) : Prop := v.extractLsb' 47 17 = 0 ∧ v.extractLsb' 12 2 = 0 ∧ v.extractLsb' 14 2 ≠ 3

theorem uinoteLegal_iff : uinoteLegal v ↔ ¬ (bitsOf v 63 47 ≠ 0 ∨ bitsOf v 13 12 ≠ 0 ∨ bitsOf v 15 14 = 3) := by
  have zero {n : Nat} (x : BitVec n) : x = 0 ↔ x.toNat = 0 := ⟨fun h => by rw [h]; rfl, fun h => BitVec.eq_of_toNat_eq (by rw [h]; rfl)⟩
  have three (x : BitVec 2) : x = 3 ↔ x.toNat = 3 := ⟨fun h => by rw [h]; rfl, fun h => BitVec.eq_of_toNat_eq (by rw [h]; rfl)⟩
  simp only [uinoteLegal, bitsOf, zero, three, ne_eq, not_or, not_not]

theorem writeUinote_of_illegal (h : ¬ uinoteLegal v) : writeUinote v s = .error (.trapWord 0) := by
  rw [uinoteLegal_iff, not_not] at h
  simp only [writeUinote, M.bind_look, if_pos h]
  rfl

theorem writeUinote_of_full (h : uinoteLegal v) (hf : s.noticeTarget (bitsOf v 11 0) = .full) :
    writeUinote v s = .error (.stall (.uinote (bitsOf v 11 0)) 0) := by
  rw [uinoteLegal_iff] at h
  simp only [writeUinote, M.bind_look, if_neg h, if_pos hf]
  rfl

theorem writeUinote_of_room (h : uinoteLegal v) (hf : s.noticeTarget (bitsOf v 11 0) ≠ .full) :
    writeUinote v s = .ok ((), s.sendNotice (bitsOf v 11 0) (bitsOf v 46 16) (bitsOf v 15 14)) := by
  rw [uinoteLegal_iff] at h
  simp only [writeUinote, M.bind_look, if_neg h, if_neg hf]
  rfl
end

theorem State.sendNotice_of_nobody {s : State} {n page status : Nat} (h : s.noticeTarget n = .nobody) :
    s.sendNotice n page status = { s with stamp := s.stamp + 1 } := by
  have : ({ s with stamp := s.stamp + 1 } : State).noticeTarget n = .nobody := h
  simp only [State.sendNotice, this]

/-- A core that takes a notice: what its copies on the page do, and the notice at the end of its queue. -/
def Core.takeNotice (c : Core) (hit : Nat → Bool) (note : Notice) : Core :=
  { c.noticeCopies hit note.status with notices := c.notices ++ [note] }

theorem State.sendNotice_of_core {s : State} {n page status : Nat} (h : s.noticeTarget n = .core) :
    s.sendNotice n page status = ({ s with stamp := s.stamp + 1 } : State).updCore n
      (fun c => c.takeNotice (({ s with stamp := s.stamp + 1 } : State).inPage c page) { stamp := s.stamp, page := page, status := status }) := by
  have : ({ s with stamp := s.stamp + 1 } : State).noticeTarget n = .core := h
  simp only [State.sendNotice, this]
  rfl

/-- The current core keeps its pc, registers and count of cycles when another core, or it itself, takes a notice. -/
theorem State.me_takeNotice {s : State} {n : Nat} {hit : Core → Nat → Bool} {note : Notice} :
    (s.updCore n (fun c => c.takeNotice (hit c) note)).me.pc = s.me.pc ∧ (s.updCore n (fun c => c.takeNotice (hit c) note)).me.g = s.me.g ∧
      (s.updCore n (fun c => c.takeNotice (hit c) note)).me.id = s.me.id := by
  by_cases hn : n = s.me.id
  · subst hn
    rw [State.updCore_me]
    exact ⟨rfl, rfl, rfl⟩
  · rw [State.me_updCore_other hn]
    exact ⟨rfl, rfl, rfl⟩

/-- Completing changes no core but the current one, and of that one no notice. -/
theorem State.notices_core_retire (s : State) (n : Nat) : (s.retire.core n).notices = (s.core n).notices := by
  have same : s.retire.me.id = s.me.id := rfl
  unfold State.core
  rw [same]
  split <;> rfl

theorem uinoteReachesTheNoticeQueueOfItsTarget : UinoteReachesTheNoticeQueueOfItsTarget := by
  intro ra s hr hs v n legal
  have body : csrWriteBody .write ra 0x40E s = writeUinote v s := csrWriteBody_uinote hr hs
  have sends (hl : uinoteLegal v) (hf : s.noticeTarget (bitsOf v 11 0) ≠ .full) :
      exec (.uinote ra) s = .next (s.sendNotice (bitsOf v 11 0) (bitsOf v 46 16) (bitsOf v 15 14)).retire :=
    runI_ok (i := .csrw ra 0x40E) rfl (body.trans (writeUinote_of_room hl hf))
  refine ⟨fun hl => ?_, fun hl hf => ?_, fun hl hn => ?_, fun hl hc => ?_, fun m w hw hk hf => ?_⟩
  · exact run_trapWord (i := .csrw ra 0x40E) rfl (body.trans (writeUinote_of_illegal hl))
  · exact run_stall (i := .csrw ra 0x40E) rfl (body.trans (writeUinote_of_full hl hf))
  · have hn : s.noticeTarget (bitsOf v 11 0) = .nobody := hn
    rw [sends hl (by rw [hn]; decide), State.sendNotice_of_nobody hn]
  · have hc : s.noticeTarget (bitsOf v 11 0) = .core := hc
    refine ⟨_, sends hl (by rw [hc]; decide), ?_⟩
    rw [State.sendNotice_of_core hc]
    obtain ⟨pc, g, id⟩ := State.me_takeNotice (s := { s with stamp := s.stamp + 1 }) (n := bitsOf v 11 0)
      (hit := fun c => ({ s with stamp := s.stamp + 1 } : State).inPage c (bitsOf v 46 16))
      (note := { stamp := s.stamp, page := bitsOf v 46 16, status := bitsOf v 15 14 })
    refine ⟨congrArg (· + 4) pc, g, State.updCore_mem _ _ _, ?_⟩
    rw [State.notices_core_retire]
    exact congrArg Core.notices (State.core_updCore_same fun _ => rfl)
  · show Host.Outcome.next _ = _
    simp only [hw, hk, if_neg hf]

/-! ## TLBINV -/

section
variable {v : Word} {k : Nat}

/-- The kind of a TLBINV stands in bits 61 and 60 of its operand; the bits around them are as given. -/
theorem toNat_putKind (hk : k < 4) : (putBits v 61 60 k).toNat = v.toNat / 2 ^ 62 * 2 ^ 62 + k * 2 ^ 60 + v.toNat % 2 ^ 60 := by
  have := v.isLt
  have shift : natBits v.toNat 61 60 = v.toNat / 2 ^ 60 % 4 := by
    rw [natBits, Nat.shiftRight_eq_div_pow]
    rfl
  have put : (putBits v 61 60 k).toNat = (v.toNat - v.toNat / 2 ^ 60 % 4 * 2 ^ 60 + k % 4 * 2 ^ 60) % 2 ^ 64 := by
    rw [putBits, shift]
    exact BitVec.toNat_ofNat _ _
  omega

theorem bitsOf_eq {n hi lo : Nat} (x : BitVec n) : bitsOf x hi lo = x.toNat / 2 ^ lo % 2 ^ (hi + 1 - lo) := by
  rw [bitsOf, BitVec.extractLsb'_toNat, Nat.shiftRight_eq_div_pow]

theorem bitsOf_putKind (hk : k < 4) : bitsOf (putBits v 61 60 k) 63 62 = bitsOf v 63 62 ∧ bitsOf (putBits v 61 60 k) 61 60 = k ∧
    bitsOf (putBits v 61 60 k) 59 47 = bitsOf v 59 47 ∧ bitsOf (putBits v 61 60 k) 46 16 = bitsOf v 46 16 ∧
    bitsOf (putBits v 61 60 k) 15 0 = bitsOf v 15 0 := by
  have := v.isLt
  simp only [bitsOf_eq, toNat_putKind hk, Nat.reduceAdd, Nat.reduceSub, Nat.reducePow] at this ⊢
  omega

/-- A TLBINV of a legal scope with no reserved bit set. -/
theorem writeTlbinv_putKind {s : State} (hk : k < 3) (hs : v.extractLsb' 62 2 ≠ 3) (hr : v.extractLsb' 47 13 = 0) (hl : v.extractLsb' 0 16 = 0) :
    writeTlbinv (putBits v 61 60 k) s = .ok ((), s.tlbInvalidate (bitsOf v 63 62) k (bitsOf v 46 16 * 2 ^ 16)) := by
  obtain ⟨scope, kind, high, page, low⟩ := bitsOf_putKind (v := v) (k := k) (by omega)
  have legal : ¬ (bitsOf v 63 62 = 3 ∨ k = 3 ∨ bitsOf v 59 47 ≠ 0 ∨ bitsOf v 15 0 ≠ 0) := by
    rintro (h | h | h | h)
    · exact hs (BitVec.eq_of_toNat_eq h)
    · omega
    · exact h (congrArg BitVec.toNat hr)
    · exact h (congrArg BitVec.toNat hl)
  unfold writeTlbinv
  rw [scope, kind, high, page, low, if_neg legal]
  rfl
end

/-! ## Pages that leave a context -/

section
variable {s : State} {a : Nat}

/-- Ranges zeroed one after the other. -/
theorem State.mem_foldl_zeroRange {c : Host.Cell} (fs : List Frame) : ∀ s : State,
    c ∈ (fs.foldl (fun (t : State) f => t.zeroRange f.key (f.key + f.size)) s).mem ↔
      c ∈ s.mem ∧ ∀ f ∈ fs, ¬ (f.key ≤ c.1 ∧ c.1 < f.key + f.size) := by
  induction fs with
  | nil => simp
  | cons f fs ih =>
    intro s
    have one : c ∈ (s.zeroRange f.key (f.key + f.size)).mem ↔ c ∈ s.mem ∧ ¬ (f.key ≤ c.1 ∧ c.1 < f.key + f.size) := by
      simp only [State.zeroRange, Memory.clear, List.mem_filter, Bool.or_eq_true, decide_eq_true_eq]
      refine and_congr_right fun _ => ?_
      omega
    rw [List.foldl_cons, ih, one]
    simp [and_assoc]

theorem State.read_foldl_zeroRange_in {f : Frame} {fs : List Frame} (hf : f ∈ fs) (hl : f.key ≤ a) (hh : a < f.key + f.size) :
    Memory.read a (fs.foldl (fun (t : State) f => t.zeroRange f.key (f.key + f.size)) s).mem = Memory.unlisted a := by
  refine Memory.read_of_not_mem fun c hc e => ?_
  exact ((State.mem_foldl_zeroRange fs s).1 hc).2 f hf (e ▸ ⟨hl, hh⟩)

theorem State.read_foldl_zeroRange_out {fs : List Frame} (hw : Memory.wf s.mem = true) (h : ∀ f ∈ fs, a < f.key ∨ f.key + f.size ≤ a) :
    Memory.read a (fs.foldl (fun (t : State) f => t.zeroRange f.key (f.key + f.size)) s).mem = Memory.read a s.mem := by
  induction fs generalizing s with
  | nil => rfl
  | cons f fs ih =>
    rw [List.foldl_cons, ih (State.zeroRange_wf hw) fun g hg => h g (by simp [hg])]
    exact Memory.read_clear_out hw (h f (by simp))

/-- What a page leaving its context changes: memory, and which pages are held. -/
theorem State.scrubPages_frame (gone : List Frame) (kept : List (Nat × Nat)) : (s.scrubPages gone kept).me = s.me ∧
    (s.scrubPages gone kept).l2tlb = s.l2tlb ∧ (s.scrubPages gone kept).frames = s.frames := by
  have fold (fs : List Frame) : ∀ t : State, (fs.foldl (fun (t : State) f => t.zeroRange f.key (f.key + f.size)) t).me = t.me ∧
      (fs.foldl (fun (t : State) f => t.zeroRange f.key (f.key + f.size)) t).l2tlb = t.l2tlb ∧
      (fs.foldl (fun (t : State) f => t.zeroRange f.key (f.key + f.size)) t).frames = t.frames := by
    induction fs with
    | nil => exact fun t => ⟨rfl, rfl, rfl⟩
    | cons f fs ih => exact fun t => ih _
  exact fold _ s

/-- The part of a page at 64 KiB number j. -/
def Frame.part (f : Frame) (j : Nat) : Frame :=
  { f with key := f.key + 2 ^ 16 * j, size := 2 ^ 16, va := if f.size = 2 ^ 16 then f.va else f.va / 2 ^ 21 * 2 ^ 21 + 2 ^ 16 * j }

theorem Frame.mem_parts {f g : Frame} : g ∈ f.parts ↔ ∃ j < f.size / 2 ^ 16, f.part j = g := by
  simp only [Frame.parts, List.mem_map, List.mem_range]
  rfl

theorem overlaps_self {k n : Nat} (h : 0 < n) : overlaps k n k n = true := by
  simp [overlaps, h]

/-- The parts of a frame that its context still reaches stay held, the others leave. -/
def State.leavingParts (s : State) (root : Nat) (f : Frame) : List Frame := f.parts.filter (fun g => !s.stillHeld root g)

/-- The frames that a TLBINV cuts. -/
def State.cutFrames (s : State) (root ctx kind va : Nat) : List Frame :=
  s.frames.filter (fun f => f.ctx == ctx && vaCovered kind va f.va && !(s.leavingParts root f).isEmpty)

/-- The frames that stay with it. -/
def State.stayingFrames (s : State) (root ctx kind va : Nat) : List Frame :=
  s.frames.filter (fun f => !(s.cutFrames root ctx kind va).contains f) ++
    (s.cutFrames root ctx kind va).flatMap (fun f => f.parts.filter (s.stillHeld root))

theorem State.unmapped_of_ctx {ctx kind va : Nat} {x : Context} (h : s.ctx? ctx = some x) : s.unmapped ctx kind va =
    ({ s with frames := s.stayingFrames x.ptroot.toNat ctx kind va } : State).scrubPages
      ((s.cutFrames x.ptroot.toNat ctx kind va).flatMap (s.leavingParts x.ptroot.toNat)) [] := by
  simp only [State.unmapped, h]
  rfl

theorem State.mem_cutFrames {root ctx kind va : Nat} {f : Frame} : f ∈ s.cutFrames root ctx kind va ↔
    f ∈ s.frames ∧ f.ctx = ctx ∧ vaCovered kind va f.va = true ∧ s.leavingParts root f ≠ [] := by
  simp [State.cutFrames, List.mem_filter, and_assoc]

/-- What a page that is no longer mapped does to the core, the caches and the memory. -/
structure PagesLeave (s t : State) (ctx kind va : Nat) : Prop where
  me : t.me = s.me
  l2tlb : t.l2tlb = s.l2tlb
  gone : ∀ f ∈ s.frames, f ∉ t.frames → f.ctx = ctx ∧ vaCovered kind va f.va = true ∧ ∀ j < f.size / 2 ^ 16,
    (∀ g ∈ t.frames, overlaps (f.key + 2 ^ 16 * j) (2 ^ 16) g.key g.size = false) →
      ∀ a, f.key + 2 ^ 16 * j ≤ a → a < f.key + 2 ^ 16 * j + 2 ^ 16 → Memory.read a t.mem = Memory.unlisted a
  kept : Memory.wf s.mem = true → ∀ a, (∀ f ∈ s.frames, f.ctx = ctx → a < f.key ∨ f.key + f.size ≤ a) → Memory.read a t.mem = Memory.read a s.mem

theorem State.unmapped_pagesLeave (s : State) (ctx kind va : Nat) : PagesLeave s (s.unmapped ctx kind va) ctx kind va := by
  cases h : s.ctx? ctx with
  | none =>
    have : s.unmapped ctx kind va = s := by simp only [State.unmapped, h]
    rw [this]
    exact ⟨rfl, rfl, fun f hf hn => absurd hf hn, fun _ _ _ => rfl⟩
  | some x =>
    rw [State.unmapped_of_ctx h]
    obtain ⟨me, l2, frames⟩ := State.scrubPages_frame (s := { s with frames := s.stayingFrames x.ptroot.toNat ctx kind va })
      ((s.cutFrames x.ptroot.toNat ctx kind va).flatMap (s.leavingParts x.ptroot.toNat)) []
    refine ⟨me, l2, fun f hf hn => ?_, fun hw a ha => ?_⟩
    · rw [frames] at hn ⊢
      have cut : f ∈ s.cutFrames x.ptroot.toNat ctx kind va := by
        by_contra hc
        exact hn (List.mem_append_left _ (List.mem_filter.2 ⟨hf, by simpa using hc⟩))
      obtain ⟨-, hctx, hva, -⟩ := State.mem_cutFrames.1 cut
      refine ⟨hctx, hva, fun j hj apart a hl hh => ?_⟩
      have part : f.part j ∈ f.parts := Frame.mem_parts.2 ⟨j, hj, rfl⟩
      have leaves : s.stillHeld x.ptroot.toNat (f.part j) = false := by
        by_contra held
        have stays : f.part j ∈ s.stayingFrames x.ptroot.toNat ctx kind va :=
          List.mem_append_right _ (List.mem_flatMap.2 ⟨f, cut, List.mem_filter.2 ⟨part, by simpa using held⟩⟩)
        have := apart _ stays
        rw [show (f.part j).key = f.key + 2 ^ 16 * j from rfl, show (f.part j).size = 2 ^ 16 from rfl, overlaps_self (by decide)] at this
        exact absurd this (by decide)
      refine State.read_foldl_zeroRange_in (f := f.part j) (List.mem_filter.2 ⟨List.mem_flatMap.2 ⟨f, cut, ?_⟩, ?_⟩) hl hh
      · exact List.mem_filter.2 ⟨part, by simp [leaves]⟩
      · simpa [Frame.part] using apart
    · refine State.read_foldl_zeroRange_out hw fun g hg => ?_
      obtain ⟨f, cut, hg⟩ := List.mem_flatMap.1 (List.mem_filter.1 hg).1
      obtain ⟨hf, hctx, -⟩ := State.mem_cutFrames.1 cut
      obtain ⟨j, hj, rfl⟩ := Frame.mem_parts.1 (List.mem_filter.1 hg).1
      have inside : f.key ≤ (f.part j).key ∧ (f.part j).key + (f.part j).size ≤ f.key + f.size := by
        show f.key ≤ f.key + 2 ^ 16 * j ∧ f.key + 2 ^ 16 * j + 2 ^ 16 ≤ f.key + f.size
        omega
      have := ha f hf hctx
      omega
end

/-! ## The caches -/

section
variable {s : State} {kind va : Nat} {ctx : BitVec 16} {e : TlbEntry}

/-- The entries that a TLBINV names are those it covers. -/
theorem inScope_iff (h : kind < 3) : inScope kind va ctx e ↔ tlbCovered kind va ctx e = true := by
  have region : e.page * 2 ^ 16 / 2 ^ 23 = e.page / 2 ^ 7 := by omega
  match kind, h with
  | 0, _ =>
    simp only [inScope, tlbCovered, TlbEntry.covers, Bool.and_eq_true, beq_iff_eq, and_self_left, forall_const]
    cases e.big <;> simp [eq_comm (b := e.page)]
  | 1, _ => simp only [inScope, tlbCovered, region, Bool.and_eq_true, beq_iff_eq, decide_eq_true_eq, forall_const, Nat.one_ne_zero,
      false_imp_iff, true_and]
  | 2, _ => simp [inScope, tlbCovered]

theorem Core.ofNat_ctx (c : Core) : BitVec.ofNat 16 c.ctx = c.sup.ctxid.setWidth 16 := by
  refine BitVec.eq_of_toNat_eq ?_
  simp [Core.ctx, BitVec.toNat_setWidth]

/-- A cache whose covered entries are dropped, where its core is named, has none of them. -/
theorem not_covered_of_mem {b : Bool} {p : TlbEntry → Bool} {l : List TlbEntry} (hb : b = true)
    (h : e ∈ if b then l.filter (fun e => !p e) else l) : p e = false := by
  rw [if_pos hb] at h
  simpa using (List.mem_filter.1 h).2

/-- What TLBINV leaves of the caches, of the pages and of memory (R42, R67, R69). -/
theorem State.tlbInvalidate_spec {scope : Nat} (hs : scope < 3) (hk : kind < 3) :
    ∃ u : State, PagesLeave u (s.tlbInvalidate scope kind va) s.me.ctx kind va ∧ u.frames = s.frames ∧ u.mem = s.mem ∧
      u.me.pc = s.me.pc ∧ u.me.g = s.me.g ∧
      (∀ e ∈ u.me.itlb ++ u.me.dtlb, ¬ inScope kind va (s.me.sup.ctxid.setWidth 16) e) ∧
      (∀ x ∈ u.l2tlb, x.1 = trussOf s.me.id → ¬ inScope kind va (s.me.sup.ctxid.setWidth 16) x.2) := by
  refine ⟨_, State.unmapped_pagesLeave _ _ _ _, rfl, rfl, rfl, rfl, fun e he => ?_, fun x hx ht => ?_⟩
  · rw [inScope_iff hk, ← Core.ofNat_ctx]
    rw [Bool.not_eq_true]
    refine (List.mem_append.1 he).elim (not_covered_of_mem ?_) (not_covered_of_mem ?_) <;> split <;> simp
  · rw [inScope_iff hk, ← Core.ofNat_ctx]
    have kept := (List.mem_filter.1 hx).2
    simp only [ht, beq_self_eq_true, Bool.not_eq_true', Bool.and_eq_false_iff] at kept
    refine Bool.not_eq_true _ ▸ kept.resolve_left fun no => ?_
    split at no <;> cases no
end

/-- The three kinds of TLBINV are one write of its register. -/
theorem exec_tlbinv {ra : BitVec 5} {s : State} : ∀ k : Fin 3,
    exec (match k with | 0 => Instr.tlbinvPage ra | 1 => Instr.tlbinvRegion ra | 2 => Instr.tlbinvContext ra) s =
      runI (.csrw ra 0x40D) (tlbinvBody ra k.val) s
  | 0 => rfl
  | 1 => rfl
  | 2 => rfl

theorem tlbinvLeavesNoCoveredTranslation : TlbinvLeavesNoCoveredTranslation := by
  intro ra s k hr i v ctx va
  have exec_i : exec i s = runI (.csrw ra 0x40D) (tlbinvBody ra k.val) s := exec_tlbinv k
  refine ⟨fun hs => exec_i.trans (run_trapWord rfl (tlbinvBody_user hs)), fun hs hscope hhigh hlow => ?_⟩
  have body := (tlbinvBody_super (k := k.val) hr hs).trans (writeTlbinv_putKind k.isLt hscope hhigh hlow)
  have scope : bitsOf v 63 62 < 3 := by
    have : bitsOf v 63 62 < 4 := (v.extractLsb' 62 2).isLt
    have : bitsOf v 63 62 ≠ 3 := fun e => hscope (BitVec.eq_of_toNat_eq e)
    omega
  obtain ⟨u, leave, frames, mem, pc, g, cores, l2⟩ := State.tlbInvalidate_spec (s := s) (va := va) scope k.isLt
  refine ⟨_, exec_i.trans (runI_ok rfl body), ?_, ?_, ?_, ?_, ?_, ?_⟩
  · rw [State.retire_me, ← pc, ← leave.me]
    rfl
  · exact (congrArg Core.g leave.me).trans g
  · exact frames ▸ leave.gone
  · exact frames ▸ mem ▸ leave.kept
  · exact (congrArg (fun c : Core => c.itlb ++ c.dtlb) leave.me) ▸ cores
  · exact leave.l2tlb ▸ l2

/-- Settles O11: what TLBINV leaves behind, and where UINOTE's notice goes. -/
theorem tlbinvAndUinoteReachWhatTheyName : Obligations.TlbinvAndUinoteReachWhatTheyName :=
  ⟨tlbinvLeavesNoCoveredTranslation, uinoteReachesTheNoticeQueueOfItsTarget⟩

end Sys2Proof.Machine
end

section
/-!
SUPPORT. Which unit stands on which core: what changes neither a core's unit, its run state nor its registers; launches by their key.
-/
namespace Sys2Proof.Machine

open Sys2Proof

/-- The unit of a core, what it was and is zeroed for, its run state, its pre-empt request and its registers. -/
structure Standing where
  id : Nat
  unit : Option UnitCfg
  run : RunState
  lastLaunch : Option LaunchKey
  zeroCtx : Option Nat
  preq : Option (Nat × Nat)
  g : Vector Word 32

/-- How a core stands. -/
def Core.standing (c : Core) : Standing := ⟨c.id, c.unit, c.run, c.lastLaunch, c.zeroCtx, c.preq, c.g⟩

/-- Every core stands in the second state as in the first, and the same context ids are bound. -/
structure Stands (s t : State) : Prop where
  me : t.me.standing = s.me.standing
  core : ∀ n, (t.core n).standing = (s.core n).standing
  ids : t.contexts.map (·.id) = s.contexts.map (·.id)

/-- So it is, and no launch has changed. -/
structure Calm (s t : State) : Prop extends Stands s t where
  parts : t.parts = s.parts

section
variable {s t u : State} {n : Nat}

theorem Stands.refl : Stands s s := ⟨rfl, fun _ => rfl, rfl⟩

theorem Stands.trans (h : Stands s t) (h' : Stands t u) : Stands s u :=
  ⟨h'.me.trans h.me, fun n => (h'.core n).trans (h.core n), h'.ids.trans h.ids⟩

theorem Stands.of_cores (hm : t.me = s.me) (ho : t.others = s.others) (hc : t.contexts.map (·.id) = s.contexts.map (·.id)) : Stands s t :=
  ⟨by rw [hm], fun n => by rw [State.core_congr hm ho], hc⟩

theorem Calm.refl : Calm s s := ⟨.refl, rfl⟩

theorem Calm.trans (h : Calm s t) (h' : Calm t u) : Calm s u := ⟨h.toStands.trans h'.toStands, h'.parts.trans h.parts⟩

theorem Calm.of_cores (hm : t.me = s.me) (ho : t.others = s.others) (hc : t.contexts.map (·.id) = s.contexts.map (·.id)) (hp : t.parts = s.parts) :
    Calm s t := ⟨.of_cores hm ho hc, hp⟩

theorem Calm.updCore {f : Core → Core} (hf : ∀ c, (f c).standing = c.standing) : Calm s (s.updCore n f) := by
  have hid (c : Core) : (f c).id = c.id := congrArg Standing.id (hf c)
  refine ⟨⟨?_, fun k => ?_, by rw [State.updCore_contexts]⟩, State.updCore_parts _ _ _⟩
  · by_cases h : n = s.me.id
    · subst h
      rw [State.updCore_me]
      exact hf _
    · rw [State.me_updCore_other h]
  · by_cases h : k = n
    · subst h
      rw [State.core_updCore_same fun _ => hid _]
      exact hf _
    · rw [State.core_updCore_other (fun _ => hid _) h]

theorem Calm.updMe {f : Core → Core} (hf : ∀ c, (f c).standing = c.standing) : Calm s (s.updMe f) := by
  rw [← State.updCore_me]
  exact .updCore hf

theorem Stands.foldl {α : Type} {f : State → α → State} (hf : ∀ s a, Stands s (f s a)) (l : List α) : Stands s (l.foldl f s) := by
  induction l generalizing s with
  | nil => exact .refl
  | cons a l ih => exact (hf s a).trans ih

theorem Stands.id (h : Stands s t) : t.me.id = s.me.id := congrArg Standing.id h.me
theorem Stands.unit (h : Stands s t) : t.me.unit = s.me.unit := congrArg Standing.unit h.me
theorem Stands.run (h : Stands s t) : t.me.run = s.me.run := congrArg Standing.run h.me
theorem Stands.lastLaunch (h : Stands s t) : t.me.lastLaunch = s.me.lastLaunch := congrArg Standing.lastLaunch h.me
theorem Stands.zeroCtx (h : Stands s t) : t.me.zeroCtx = s.me.zeroCtx := congrArg Standing.zeroCtx h.me
end

/-! ## Launches -/

section
variable {s t : State} {k : LaunchKey} {l : Launch} {f : Launch → Launch}

theorem State.launch?_congr (h : t.parts = s.parts) : t.launch? k = s.launch? k := by simp [State.launch?, State.part?, h]

theorem State.launch?_key (h : s.launch? k = some l) : l.key = k := by
  obtain ⟨p, -, h⟩ := Option.bind_eq_some_iff.1 h
  simpa using List.find?_some h

theorem State.part?_updPart {n m : Nat} {g : Partition → Partition} (hg : ∀ p, (g p).id = p.id) :
    (s.updPart n g).part? m = if m = n then (s.part? m).map g else s.part? m := by
  have found : (s.updPart n g).part? m = (s.part? m).map (fun p => if p.id == n then g p else p) :=
    find?_map_of_same (fun p => by split <;> simp [hg]) _
  rw [found]
  cases h : s.part? m with
  | none => simp
  | some p =>
    have hp : p.id = m := by simpa using List.find?_some h
    simp only [Option.map_some, hp, beq_iff_eq]
    split <;> rfl

theorem State.part?_updPart_same {n : Nat} {g : Partition → Partition} (hg : ∀ p, (g p).id = p.id) :
    (s.updPart n g).part? n = (s.part? n).map g := by rw [State.part?_updPart hg, if_pos rfl]

theorem State.launch?_updLaunch (hf : ∀ l, (f l).key = l.key) {j : LaunchKey} :
    (s.updLaunch k f).launch? j = if j = k then (s.launch? j).map f else s.launch? j := by
  have found (p : Partition) : ({ p with launches := p.launches.map (fun l => if l.key == k then f l else l) } : Partition).launches.find? (fun l => l.key == j) =
      (p.launches.find? (fun l => l.key == j)).map (fun l => if l.key == k then f l else l) :=
    find?_map_of_same (fun l => by split <;> simp [hf]) _
  have value : (p : Partition) → (p.launches.find? (fun l => l.key == j)).map (fun l => if l.key == k then f l else l) =
      if j = k then (p.launches.find? (fun l => l.key == j)).map f else p.launches.find? (fun l => l.key == j) := by
    intro p
    cases h : p.launches.find? (fun l => l.key == j) with
    | none => simp
    | some l =>
      have hl : l.key = j := by simpa using List.find?_some h
      simp only [Option.map_some, hl, beq_iff_eq]
      split <;> rfl
  unfold State.launch? State.updLaunch
  rw [State.part?_updPart (g := fun p => { p with launches := p.launches.map (fun l => if l.key == k then f l else l) }) (fun _ => rfl)]
  cases s.part? j.part with
  | none => simp
  | some p =>
    simp only [Option.map_some, Option.bind_some]
    split
    · rw [Option.bind_some, found, value]
    · next h => rw [if_neg fun e => h (by rw [e]), Option.bind_some]

theorem State.launch?_updLaunch_same (hf : ∀ l, (f l).key = l.key) (h : s.launch? k = some l) : (s.updLaunch k f).launch? k = some (f l) := by
  rw [State.launch?_updLaunch hf, if_pos rfl, h, Option.map_some]
end

/-! ## The end of a launch -/

section
variable {s t : State} {k : LaunchKey} {l : Launch}

theorem Stands.updPart {n : Nat} {f : Partition → Partition} : Stands s (s.updPart n f) := .of_cores rfl rfl rfl

theorem Stands.updLaunch {f : Launch → Launch} : Stands s (s.updLaunch k f) := .of_cores rfl rfl rfl

theorem Calm.updCtx {n : Nat} {f : Context → Context} (hf : ∀ x, (f x).id = x.id) : Calm s (s.updCtx n f) := by
  refine .of_cores rfl rfl ?_ rfl
  simp only [State.updCtx, List.map_map]
  refine List.map_congr_left fun x _ => ?_
  simp only [Function.comp_apply]
  split
  · exact hf x
  · rfl

theorem Calm.writeMem {n : Nat} {bs : List Byte} : Calm s (s.writeMem n bs) := .of_cores rfl rfl rfl rfl

theorem Calm.touchPages {c : Core} : ∀ {f va n : Nat} {s : State}, Calm s (s.touchPages c f va n)
  | 0, _, _, _ => .refl
  | f + 1, va, n, s => by
    have own {e : TlbEntry} : Calm s (s.own c.ctx va e) := by
      unfold State.own
      split
      · exact .refl
      · dsimp only
        split
        · exact .of_cores rfl rfl rfl rfl
        · exact .refl
    unfold State.touchPages
    split
    · exact .refl
    · dsimp only
      split
      · exact own.trans Calm.touchPages
      · exact Calm.touchPages

theorem Calm.touch {c : Core} {va n : Nat} : Calm s (s.touch c va n) := by
  unfold State.touch
  split
  · exact .touchPages
  · exact .refl

/-- A write as a context, done or cut short, has moved no unit. -/
def EngCalm {ε : Type} (s : State) : Except (ε × State) State → Prop
  | .ok t => Calm s t
  | .error (_, t) => Calm s t

theorem EngCalm.mono {ε : Type} {r : Except (ε × State) State} (h : Calm s t) (h' : EngCalm t r) : EngCalm s r := by
  match r, h' with
  | .ok _, h' => exact h.trans h'
  | .error (_, _), h' => exact h.trans h'

theorem EngCalm.ok {ε : Type} {r : Except (ε × State) State} (h : EngCalm s r) (e : r = .ok t) : Calm s t := by
  subst e
  exact h

theorem EngCalm.error {ε : Type} {r : Except (ε × State) State} {x : ε} (h : EngCalm s r) (e : r = .error (x, t)) : Calm s t := by
  subst e
  exact h

theorem Calm.engWrite {c : Core} : ∀ {f va : Nat} {bs : List Byte} {s : State}, EngCalm s (s.engWrite c f va bs)
  | 0, va, bs, s => by
    unfold State.engWrite
    split
    · exact Calm.refl
    · exact Calm.refl
  | f + 1, va, bs, s => by
    unfold State.engWrite
    split
    · exact Calm.refl
    · dsimp only
      split
      · refine EngCalm.mono ?_ Calm.engWrite
        exact (Calm.writeMem.trans (.updCore (f := fun c => { c with l1d := dropLines c.l1d _ _ }) fun _ => rfl)).trans .touch
      · exact Calm.refl

theorem Stands.checkReady : Stands s (s.checkReady k) := by
  unfold State.checkReady
  split
  · split
    · exact .updPart
    · exact .refl
  · exact .refl

theorem Stands.decrement {n : Nat} : Stands s (s.decrement l n) := by
  unfold State.decrement
  dsimp only
  split_ifs
  · exact Stands.updLaunch.trans .checkReady
  · exact Stands.updPart.trans (Stands.updLaunch.trans .checkReady)
  · exact .updLaunch

theorem Core.standing_addEvent (c : Core) (e : EngineEvent) : (c.addEvent e).standing = c.standing := by
  unfold Core.addEvent
  split <;> rfl

theorem Calm.atUnit {unit : Nat} {f : Core → Core} (hf : ∀ c, (f c).standing = c.standing) : Calm s (s.atUnit k unit f) := by
  unfold State.atUnit
  split
  · exact .updCore hf
  · refine .of_cores rfl rfl ?_ rfl
    rw [List.map_map]
    rfl

theorem Calm.launchIrq : Calm s (s.launchIrq l) := by
  unfold State.launchIrq
  split
  · exact .refl
  · have stamped {t : State} : Calm t { t with stamp := s.stamp + 1 } := .of_cores rfl rfl rfl rfl
    dsimp only
    split
    · exact (Calm.atUnit fun c => c.standing_addEvent _).trans stamped
    · split
      · exact (Calm.updCore fun c => c.standing_addEvent _).trans stamped
      · exact stamped

theorem Stands.changePhase {part ctx id : Nat} {f : Counter → Counter} : Stands s (s.changePhase part ctx id f) := by
  unfold State.changePhase
  dsimp only
  split
  · exact Stands.updPart.trans .updPart
  · exact .updPart

theorem Stands.changeGraph {part ctx id : Nat} {f : Counter → Counter} : Stands s (s.changeGraph part ctx id f) := by
  unfold State.changeGraph
  dsimp only
  split
  · exact Stands.updPart.trans .changePhase
  · exact .updPart

theorem Stands.launchDone : Stands s (s.launchDone k) := by
  unfold State.launchDone
  split
  · exact .refl
  · split
    · exact .updLaunch
    · dsimp only
      split
      · exact (((Stands.foldl (fun _ _ => .decrement) _).trans .updLaunch).trans Calm.launchIrq.toStands).trans .changeGraph
      · exact (Stands.updLaunch.trans Calm.launchIrq.toStands).trans .changeGraph

theorem Stands.launchRecordWrite : Stands s (s.launchRecordWrite k) := by
  unfold State.launchRecordWrite
  split
  · exact .refl
  · dsimp only
    split
    · next h => exact (Calm.engWrite.ok h).toStands.trans .launchDone
    · exact .updLaunch
    · exact .updLaunch
    · next h => exact (Calm.engWrite.error h).toStands.trans .launchDone

theorem State.settleLaunch_of_running (h : ∀ l, s.launch? k = some l → l.ended = false) : s.settleLaunch k = s := by
  unfold State.settleLaunch
  split
  · next l hl => simp [h l hl]
  · rfl

/-- Where the last unit of a launch has ended the cores kept for it are zeroed, and no core changes otherwise. -/
theorem State.settleLaunch_of_ended (h : s.launch? k = some l) (he : l.ended = true) :
    Stands (({ s with channels := s.channels.filter (fun c => c.holder != k) } : State).freeKept l) (s.settleLaunch k) := by
  simp only [State.settleLaunch, h, he, if_true]
  exact Stands.updLaunch.trans .launchRecordWrite
end

end Sys2Proof.Machine
end

section
/-!
SUPPORT. The start of a save (R41, R44, R45).
-/
namespace Sys2Proof.Machine

open Sys2Proof

/-- A core that begins to save. -/
def Core.saved (c : Core) (cycle : Nat) : Core :=
  { c with run := .saving, saveFrom := cycle, wait := none, held := false, forced := false, entries := c.entries.map Entry.abandoned }

/-- A save of a core that begins, once its watchdog record is made. -/
def State.startSave (s : State) (n : Nat) (u : UnitCfg) (set : Nat) : State :=
  let t := ((s.withdraw (s.core n)).leaveBanks n).updCore n (fun c => c.saved s.cycle)
  ({ t with tags := t.tags ++ [(n, u.ctx, u.launch, u.unit)] } : State).updCtx u.ctx
    (fun x => x.updSet set (fun e => { e with state := .saving }))

theorem State.me_updCore_same {s : State} {n : Nat} {f : Core → Core} (h : n = s.me.id) : (s.updCore n f).me = f s.me := by
  subst h
  rw [State.updCore_me]
  rfl

section
variable {s : State} {n set k : Nat} {u : UnitCfg} (c : Core)

/-- Withdrawing a core's wait changes the channels and the waiters alone. -/
theorem State.withdraw_eq : ∃ ch, s.withdraw c = { s with
    channels := ch, waiters := if c.unit.isSome then s.waiters.filter (fun w => w.core != c.id) else s.waiters } := by
  cases h : c.unit with
  | none => exact ⟨s.channels, by simp [State.withdraw, h]⟩
  | some u => exact ⟨_, by simp only [State.withdraw, State.withdrawArrival, h]; rfl⟩

@[simp] theorem State.withdraw_me : (s.withdraw c).me = s.me := by obtain ⟨ch, e⟩ := s.withdraw_eq c; rw [e]
@[simp] theorem State.withdraw_others : (s.withdraw c).others = s.others := by obtain ⟨ch, e⟩ := s.withdraw_eq c; rw [e]
@[simp] theorem State.withdraw_cycle : (s.withdraw c).cycle = s.cycle := by obtain ⟨ch, e⟩ := s.withdraw_eq c; rw [e]
@[simp] theorem State.withdraw_contexts : (s.withdraw c).contexts = s.contexts := by obtain ⟨ch, e⟩ := s.withdraw_eq c; rw [e]
@[simp] theorem State.withdraw_tags : (s.withdraw c).tags = s.tags := by obtain ⟨ch, e⟩ := s.withdraw_eq c; rw [e]
@[simp] theorem State.withdraw_parts : (s.withdraw c).parts = s.parts := by obtain ⟨ch, e⟩ := s.withdraw_eq c; rw [e]
@[simp] theorem State.withdraw_banks : (s.withdraw c).banks = s.banks := by obtain ⟨ch, e⟩ := s.withdraw_eq c; rw [e]
@[simp] theorem State.withdraw_core : (s.withdraw c).core k = s.core k := State.core_congr (s.withdraw_me c) (s.withdraw_others c) k
@[simp] theorem State.leaveBanks_core : (s.leaveBanks n).core k = s.core k := rfl

theorem State.beginSave_eq {at' : Nat} (hu : ((s.wdTell n).core n).unit = some u) (hp : ((s.wdTell n).core n).preq = some (at', set)) :
    s.beginSave n = (s.wdTell n).startSave n u set := by
  have cycle : (((s.wdTell n).withdraw ((s.wdTell n).core n)).leaveBanks n).cycle = (s.wdTell n).cycle := State.withdraw_cycle _
  simp only [State.beginSave, hu, hp, cycle]
  rfl

/-- Where no expiry waits to be told of, the save alone begins. -/
theorem State.wdTell_of_none (h : (s.core n).expired = none) : s.wdTell n = s := by
  simp only [State.wdTell, h]

theorem State.beginSave_eq_of_not_expired {at' : Nat} (he : (s.core n).expired = none) (hu : (s.core n).unit = some u)
    (hp : (s.core n).preq = some (at', set)) : s.beginSave n = s.startSave n u set := by
  have told := State.wdTell_of_none he
  rw [State.beginSave_eq (u := u) (set := set) (at' := at') (by rwa [told]) (by rwa [told]), told]

/-- The frame of a save that begins: the core, its tag, its context's set, its waits and its banks. -/
theorem State.startSave_core : (s.startSave n u set).core n = (s.core n).saved s.cycle := by
  have core : ((s.withdraw (s.core n)).leaveBanks n).core n = s.core n := by simp
  rw [← core]
  exact State.core_updCore_same fun _ => rfl

theorem State.startSave_me : (s.startSave s.me.id u set).me = s.me.saved s.cycle := by
  have me : ((s.withdraw (s.core s.me.id)).leaveBanks s.me.id).me = s.me := State.withdraw_me _
  refine (State.me_updCore_same (congrArg Core.id me).symm).trans ?_
  rw [me]

@[simp] theorem State.startSave_tags : (s.startSave n u set).tags = s.tags ++ [(n, u.ctx, u.launch, u.unit)] := by
  have tags : (((s.withdraw (s.core n)).leaveBanks n).updCore n (fun c => c.saved s.cycle)).tags = s.tags := by
    rw [State.updCore_tags]
    exact State.withdraw_tags _
  exact congrArg (· ++ _) tags

@[simp] theorem State.startSave_mem : (s.startSave n u set).mem = s.mem := by
  simp [State.startSave]

@[simp] theorem State.startSave_parts : (s.startSave n u set).parts = s.parts := by
  have parts : (((s.withdraw (s.core n)).leaveBanks n).updCore n (fun c => c.saved s.cycle)).parts = s.parts := by
    rw [State.updCore_parts]
    exact State.withdraw_parts _
  exact parts

theorem State.startSave_ctx? {x : Context} (h : s.ctx? u.ctx = some x) :
    (s.startSave n u set).ctx? u.ctx = some (x.updSet set (fun e => { e with state := .saving })) := by
  refine State.ctx?_updCtx_same (fun _ => rfl) ?_
  rw [← h]
  have contexts : (((s.withdraw (s.core n)).leaveBanks n).updCore n (fun c => c.saved s.cycle)).contexts = s.contexts := by
    rw [State.updCore_contexts]
    exact State.withdraw_contexts _
  exact congrArg (fun l : List Context => l.find? (fun x => x.id == u.ctx)) contexts
end

/-! ## YIELD and IDLE -/

theorem yieldSavesOnRequestAndIdleEndsOnAnEvent : Claims.YieldSavesOnRequestAndIdleEndsOnAnEvent := by
  intro s
  have yields : exec .yield s = .next (yieldFinish s) := by
    show execYield s = _
    exact run_ok rfl rfl
  have idle_ends {t : State} (h : t.me.idleEnds = true) : exec .idle t = .next t.retire :=
    runI_ok (i := .idle) rfl (by simp [idleBody, h])
  refine ⟨fun hp => ?_, fun p u hp hu he => ?_, idle_ends, fun hi hw => ?_, fun hi he hf hg => ?_, fun e he hui => ?_⟩
  · have : s.retire.me.preq = none := hp
    rw [yields, yieldFinish, this]
    rfl
  · have requested : s.retire.me.preq = some p := hp
    have saves : yieldFinish s = s.retire.startSave s.retire.me.id u p.2 := by
      rw [yieldFinish, requested]
      refine State.beginSave_eq_of_not_expired (at' := p.1) ?_ ?_ ?_ <;> rw [State.core_me]
      · exact he
      · exact hu
      · exact requested
    refine ⟨_, yields, ?_⟩
    rw [saves, State.startSave_me, State.startSave_tags, State.startSave_mem]
    exact ⟨rfl, rfl, rfl, rfl, rfl, List.mem_append_right _ (by simp)⟩
  · exact run_stall (i := .idle) rfl (by simp [idleBody, hi, Core.waitReady, hw])
  · have woken : exec .idleWake s = s.endWait execIdle := by
      show execIdleWake s = _
      rw [execIdleWake, hi, he]
      rfl
    rw [woken, State.endWait, hg]
    exact idle_ends (t := { s with me := { s.me with wait := s.me.wait.map (fun w => { w with ready := true }) } }) he
  · have : s.me.events.any (fun e => if s.me.eventToUi e then s.me.eventEnabled e else true) = true :=
      List.any_eq_true.2 ⟨e, he, by simp [hui]⟩
    rw [Core.idleEnds, this, Bool.true_or, Bool.true_or]

/-! ## SPLIT and FUSE -/

section
variable {s : State} {u : UnitCfg}

theorem splitBody_of_fused (h : s.fused = true) :
    splitBody s = .ok ((), s.updMe (fun c => { c with fwd := [], user := { c.user with diverge := true } })) := by
  simp [splitBody, h]

theorem splitBody_of_not_fused (h : s.fused = false) : splitBody s = .ok ((), s) := by
  simp [splitBody, h]

theorem fuseBody_alone (hu : s.me.unit = some u) (h : u.gangSize ≤ 1 ∨ s.me.user.diverge = false) : fuseBody s = .ok (none, s) := by
  have : (decide (u.gangSize ≤ 1) || !s.me.user.diverge) = true := by simpa using h
  simp only [fuseBody, M.bind_look, hu, this, if_true]
  rfl

/-- A member of a diverged gang whose leader has not ended. -/
theorem fuseBody_diverged {l : Core} (hu : s.me.unit = some u) (hg : 1 < u.gangSize) (hd : s.me.user.diverge = true) (hl : s.leader? = some l) :
    fuseBody s = if s.othersAtFuse then .ok (some l.pc, s) else .error (.stall .fuse 0) := by
  have diverged : (decide (u.gangSize ≤ 1) || !s.me.user.diverge) = false := by simp [hg, hd]
  have led : (s.gangPlaces s.me).all (fun x => x.1 % u.gangSize != 0) = false := by
    obtain ⟨x, hx, hf⟩ := List.exists_of_findSome?_eq_some hl
    rw [hu] at hf
    refine List.all_eq_false.2 ⟨x, hx, ?_⟩
    split at hf
    · next v n hv _ =>
      cases hv
      split at hf
      · next h => simp [h]
      · cases hf
    · cases hf
  simp only [fuseBody, M.bind_look, hu, diverged, led, hl, Bool.false_eq_true, if_false]
  split <;> rfl
end

theorem splitAndFuseMoveTheGangBetweenItsModes : Claims.SplitAndFuseMoveTheGangBetweenItsModes := by
  intro s
  refine ⟨fun h => runI_ok (i := .split) rfl (splitBody_of_fused h), fun h => runI_ok (i := .split) rfl (splitBody_of_not_fused h),
    fun u hu h => run_ok (i := .fuse) rfl (fuseBody_alone hu h), fun h => ?_, fun u l hu hg hd ho hl => ?_, fun u hu hg hd ho hl => ?_⟩
  · refine (run_ok (i := .fuse) (body := fuseBody) (fin := fuseFinish s) (a := none) (t := s) rfl ?_).trans rfl
    simp only [fuseBody, M.bind_look, h]
    rfl
  · refine run_ok (i := .fuse) (body := fuseBody) (fin := fuseFinish s) (a := some l.pc) (t := s) rfl ?_
    rw [fuseBody_diverged hu hg hd hl, ho]
    rfl
  · obtain ⟨l, hl⟩ := Option.isSome_iff_exists.1 hl
    refine run_stall (i := .fuse) (body := fuseBody) rfl ?_
    rw [fuseBody_diverged hu hg hd hl, ho]
    rfl

/-! ## EXIT -/

section
variable {s : State} {u : UnitCfg}

theorem exitBody_super (h : s.me.super = true) : exitBody s = .error (.trapWord 0) := by
  simp [exitBody, h]

theorem exitBody_before_arrival (hs : s.me.super = false) (hb : s.me.batch ≠ []) (ha : s.me.batchArrived = false) :
    exitBody s = .error (.trapWord 13) := by
  simp [exitBody, hs, hb, ha]

theorem exitBody_performed (hs : s.me.super = false) (hb : s.me.batch = [] ∨ s.me.batchArrived = true) :
    exitBody s = if s.me.exitReady then .ok ((), s) else .error (.stall .exit 0) := by
  have held : (!s.me.batch.isEmpty && !s.me.batchArrived) = false := by
    obtain hb | hb := hb <;> simp [hb]
  simp only [exitBody, M.bind_meM, hs, held, Bool.false_eq_true, if_false]
  split <;> rfl

/-- The state in which a unit that exits has left its core, before its launch is looked at. -/
def State.leftBy (s : State) (u : UnitCfg) : State :=
  let t := ((s.withdraw s.me).leaveBanks s.me.id).leaveChannels s.me
  let t := match s.me.preq with | some (_, set) => t.updCtx u.ctx (fun x => x.leaveSet set s.me.id) | none => t
  let t := { t with tags := t.tags.filter (fun g => !(g.2.2.1 == u.launch && g.2.2.2 == u.unit)) }
  t.updCore s.me.id (fun c => c.vacate u.launch)

theorem State.exitCore_eq (hu : s.me.unit = some u) (hf : s.fused = false) :
    s.exitCore s.me.id = ((s.leftBy u).setPlace u.launch u.unit .exited).settleLaunch u.launch := by
  have alone : (decide (1 < u.gangSize) && !s.me.user.diverge && u.gangPos == 0) = false := by
    simp only [State.fused, hu] at hf
    rw [hf, Bool.false_and]
  simp only [State.exitCore, State.endUnit, State.core_me, hu, alone, Bool.false_eq_true, if_false, if_true]
  rfl

theorem State.leftBy_me : (s.leftBy u).me = s.me.vacate u.launch := by
  have channels : (((s.withdraw s.me).leaveBanks s.me.id).leaveChannels s.me).me = s.me := by
    unfold State.leaveChannels
    split <;> exact State.withdraw_me _
  unfold State.leftBy
  dsimp only
  cases s.me.preq <;> exact (State.me_updCore_same (by exact (congrArg Core.id channels).symm)).trans (congrArg (fun c : Core => c.vacate u.launch) channels)

theorem State.leftBy_parts : (s.leftBy u).parts = s.parts := by
  have channels : (((s.withdraw s.me).leaveBanks s.me.id).leaveChannels s.me).parts = s.parts := by
    unfold State.leaveChannels
    split <;> exact State.withdraw_parts _
  unfold State.leftBy
  dsimp only
  rw [State.updCore_parts]
  cases s.me.preq <;> exact channels

/-- The current core after an update of some cores by a function that keeps their numbers. -/
theorem State.me_updCores {f : Core → Core} (hf : ∀ c, (f c).id = c.id) (ns : List Nat) : ∀ s : State,
    (s.updCores ns f).me = f^[ns.count s.me.id] s.me := by
  induction ns with
  | nil => exact fun _ => rfl
  | cons n ns ih =>
    intro s
    have rest : (s.updCores (n :: ns) f).me = ((s.updCore n f).updCores ns f).me := rfl
    rw [rest, ih]
    by_cases h : n = s.me.id
    · rw [State.me_updCore_same h, hf, h, List.count_cons_self, Function.iterate_succ_apply]
    · rw [State.me_updCore_other h, List.count_cons_of_ne h]

/-- A core that a launch has kept and leaves, to be zeroed for a context. -/
def Core.zeroKept (c : Core) (ctx : Nat) : Core :=
  { c with run := .zeroing, lastLaunch := none, zeroCtx := some ctx, accum := [], accumBad := [] }

theorem State.freeKept_me {l : Launch} (hr : s.me.run = .free) (hu : s.me.unit = none) (hl : s.me.lastLaunch = some l.key) :
    (s.freeKept l).me = s.me.zeroKept l.ctx := by
  have kept : s.me.id ∈ (s.allCores.filter (fun c => c.run == .free && c.unit.isNone && c.lastLaunch == some l.key)).map (·.id) :=
    List.mem_map.2 ⟨s.me, List.mem_filter.2 ⟨by simp [State.allCores], by simp [hr, hu, hl]⟩, rfl⟩
  obtain ⟨j, hj⟩ := Nat.exists_eq_succ_of_ne_zero (List.count_pos_iff.2 kept).ne'
  refine (State.me_updCores (f := fun c => c.zeroKept l.ctx) (fun _ => rfl) _ s).trans ?_
  rw [hj, Function.iterate_succ_apply]
  exact Function.iterate_fixed rfl _

/-- The launch of a unit that has left its core. -/
theorem State.launch?_setPlace {l : Launch} {k : LaunchKey} {v : Nat} {p : UnitPlace} (h : s.launch? k = some l) :
    (s.setPlace k v p).launch? k = some { l with units := l.units.map (fun x => if x.1 == v then (v, p) else x) } :=
  State.launch?_updLaunch_same (f := fun l => { l with units := l.units.map (fun x => if x.1 == v then (v, p) else x) }) (fun _ => rfl) h

/-- What the end of a unit leaves of the current core (R76, R262). -/
structure UnitEnds (s : State) (u : UnitCfg) (t : State) : Prop where
  id : t.me.id = s.me.id
  unit : t.me.unit = none
  kept : ∀ l, s.launch? u.launch = some l → (∃ q ∈ l.units, q.1 ≠ u.unit ∧ q.2 ≠ .exited ∧ q.2 ≠ .cancelled) →
    t.me.run = .free ∧ t.me.lastLaunch = some u.launch
  last : ∀ l, s.launch? u.launch = some l → l.state = .placed → l.recordDue = none → l.recorded = false →
    (∀ q ∈ l.units, q.1 = u.unit ∨ q.2 = .exited ∨ q.2 = .cancelled) → t.me.run = .zeroing ∧ t.me.zeroCtx = some l.ctx

theorem State.exitCore_unitEnds (hu : s.me.unit = some u) (hf : s.fused = false) : UnitEnds s u (s.exitCore s.me.id) := by
  rw [State.exitCore_eq hu hf]
  have me : ((s.leftBy u).setPlace u.launch u.unit .exited).me = s.me.vacate u.launch := State.leftBy_me
  have launch (l : Launch) (h : s.launch? u.launch = some l) : ((s.leftBy u).setPlace u.launch u.unit .exited).launch? u.launch =
      some { l with units := l.units.map (fun x => if x.1 == u.unit then (u.unit, .exited) else x) } :=
    State.launch?_setPlace ((State.launch?_congr State.leftBy_parts).trans h)
  generalize (s.leftBy u).setPlace u.launch u.unit .exited = t at me launch
  by_cases gone : ∃ l, t.launch? u.launch = some l ∧ l.ended = true
  · obtain ⟨l, hl, he⟩ := gone
    have stands := State.settleLaunch_of_ended hl he
    have zeroed := (State.freeKept_me (s := { t with channels := t.channels.filter (fun c => c.holder != u.launch) }) (l := l)
      (by exact congrArg Core.run me) (by exact congrArg Core.unit me) (by rw [State.launch?_key hl]; exact congrArg Core.lastLaunch me)).trans
      (congrArg (fun c : Core => c.zeroKept l.ctx) me)
    refine ⟨?_, ?_, fun l' hl' ⟨q, hq, hne, hx, hc⟩ => ?_, fun l' hl' _ _ _ _ => ?_⟩
    · rw [stands.id, zeroed]
      rfl
    · rw [stands.unit, zeroed]
      rfl
    · obtain rfl := Option.some.inj ((launch l' hl').symm.trans hl)
      simp only [Launch.ended, Bool.and_eq_true, List.all_map, List.all_eq_true] at he
      have := he.2 q hq
      simp [hne, hx, hc] at this
    · obtain rfl := Option.some.inj ((launch l' hl').symm.trans hl)
      rw [stands.run, stands.zeroCtx, zeroed]
      exact ⟨rfl, rfl⟩
  · have runs (l : Launch) (hl : t.launch? u.launch = some l) : l.ended = false :=
      Bool.eq_false_iff.2 fun he => gone ⟨l, hl, he⟩
    rw [State.settleLaunch_of_running runs]
    refine ⟨by rw [me]; rfl, congrArg Core.unit me, fun l _ _ => ⟨congrArg Core.run me, congrArg Core.lastLaunch me⟩,
      fun l hl hs hd hr hq => ?_⟩
    have no := runs _ (launch l hl)
    have all : (l.units.map (fun x => if x.1 == u.unit then (u.unit, UnitPlace.exited) else x)).all (fun q => q.2 == .exited || q.2 == .cancelled) = true := by
      refine List.all_eq_true.2 fun q hm => ?_
      obtain ⟨x, hx, rfl⟩ := List.mem_map.1 hm
      by_cases hxu : x.1 = u.unit
      · simp [hxu]
      · simpa [hxu] using (hq x hx).resolve_left hxu
    simp only [Launch.ended, Launch.over, hs, hd, hr, all] at no
    exact absurd no (by decide)

theorem exitEndsTheUnitWhenItsWaitsAreOver : Claims.ExitEndsTheUnitWhenItsWaitsAreOver := by
  intro s
  refine ⟨fun hs => ?_, fun hs hb ha => ?_, fun hs hb hr => ?_, fun u hr hu hf => ?_⟩
  · exact run_trapWord (i := .exit) rfl (exitBody_super hs)
  · exact run_trapWord (i := .exit) rfl (exitBody_before_arrival hs hb ha)
  · refine run_stall (i := .exit) (body := exitBody) rfl ?_
    rw [exitBody_performed hs hb, hr]
    rfl
  · obtain ⟨id, unit, kept, last⟩ := State.exitCore_unitEnds hu hf
    refine ⟨fun hs => ⟨_, ?_, id, unit, fun l hl => ⟨kept l hl, last l hl⟩⟩, fun w hw hk => ⟨_, ?_, id, unit, fun l hl => ⟨kept l hl, last l hl⟩⟩⟩
    · have performed : s.me.batch = [] := by
        simp only [Core.exitReady, Bool.and_eq_true, List.isEmpty_iff] at hr
        obtain ⟨⟨⟨batch, -⟩, -⟩, -⟩ := hr
        exact batch
      refine run_ok (i := .exit) (body := exitBody) (a := ()) (t := s) rfl ?_
      rw [exitBody_performed hs (.inl performed), hr]
      rfl
    · have waits : s.me.exiting = true := by simp [Core.exiting, hw, hk, hr]
      show Host.Outcome.next (if s.me.exiting then s.exitCore s.me.id else s) = _
      rw [if_pos waits]
end

/-- Settles O14: YIELD and IDLE, the gang's modes, and the end of a unit. -/
theorem yieldIdleSplitFuseAndExitMoveTheUnit : Obligations.YieldIdleSplitFuseAndExitMoveTheUnit :=
  ⟨yieldSavesOnRequestAndIdleEndsOnAnEvent, splitAndFuseMoveTheGangBetweenItsModes, exitEndsTheUnitWhenItsWaitsAreOver⟩

end Sys2Proof.Machine
end

section
/-!
SUPPORT. A save from its deadline to its image (R41, R44, R45).
-/
namespace Sys2Proof.Machine

open Sys2Proof

section
variable {s : State} {n set : Nat} {u : UnitCfg} {x : Context}

/-- The waits at which a core may be saved (R44, log 24). -/
def Core.mayStop (c : Core) : Prop :=
  match c.wait with
  | none => True
  | some w => (match w.kind with | .retry _ => False | .kerf => False | .arrive _ _ => w.ready = false | _ => True)

theorem Core.atBoundary_iff {c : Core} : c.atBoundary = true ↔ c.mayStop := by
  unfold Core.atBoundary Core.mayStop
  cases c.wait with
  | none => simp
  | some w =>
    cases w with
    | mk kind =>
      cases kind with
      | arrive => exact Bool.not_eq_true' _ ▸ Iff.rfl
      | retry | kerf => exact ⟨fun h => Bool.noConfusion h, False.elim⟩
      | _ => exact ⟨fun _ => trivial, fun _ => rfl⟩

/-- A core is to be saved at its deadline, or at once where the watchdog asks for it. -/
theorem Core.saveDue_iff {c : Core} {cycle at' : Nat} (hp : c.preq = some (at', set)) : c.saveDue cycle = true ↔
    c.run = .running ∧ c.mayStop ∧ (c.forced = true ∨ at' + c.sup.pdeadline.toNat % 2 ^ 20 < cycle) := by
  simp [Core.saveDue, hp, Core.atBoundary_iff, and_assoc]

theorem exec_pdeadlineExpiry : exec .pdeadlineExpiry s = .next (if s.me.saveDue s.cycle then s.beginSave s.me.id else s) := rfl

/-- Where no save is due nothing happens. -/
theorem exec_pdeadlineExpiry_idle (h : ¬ s.me.saveDue s.cycle = true) : exec .pdeadlineExpiry s = .next s := by
  rw [exec_pdeadlineExpiry, if_neg h]

theorem State.waiters_startSave (hu : s.me.unit = some u) : ∀ w ∈ (s.startSave s.me.id u set).waiters, w.core ≠ s.me.id := by
  have waiters : (s.startSave s.me.id u set).waiters = s.waiters.filter (fun w => w.core != s.me.id) := by
    obtain ⟨ch, e⟩ := s.withdraw_eq s.me
    have left : ((s.withdraw s.me).leaveBanks s.me.id).waiters = s.waiters.filter (fun w => w.core != s.me.id) := by
      rw [e, hu]
      rfl
    have := (State.updCore_waiters ((s.withdraw s.me).leaveBanks s.me.id) s.me.id (fun c => c.saved s.cycle)).trans left
    simp only [State.startSave, State.core_me]
    exact this
  intro w hw
  rw [waiters] at hw
  simpa using (List.mem_filter.1 hw).2

theorem State.banks_startSave : ∀ b ∈ (s.startSave n u set).banks, b.user ≠ some n := by
  have banks : (s.startSave n u set).banks = (s.withdraw (s.core n)).banks.map (fun b => if b.user == some n then { b with user := none } else b) :=
    State.updCore_banks _ _ _
  intro b hb
  rw [banks] at hb
  obtain ⟨b, -, rfl⟩ := List.mem_map.1 hb
  split
  · simp
  · next h => simpa using h

theorem State.set?_startSave {e : EvictionSet} (hx : s.ctx? u.ctx = some x) (he : x.set? set = some e) :
    ∃ y, (s.startSave n u set).ctx? u.ctx = some y ∧ y.set? set = some { e with state := .saving } := by
  refine ⟨_, State.startSave_ctx? hx, ?_⟩
  refine (Context.set?_updSet_same (g := fun e => { e with state := .saving }) fun _ => rfl).trans ?_
  rw [he]
  rfl

/-! ## The end of a save -/

/-- The image of a core that has streamed out. -/
def State.imageOf (s : State) (n set : Nat) : Image := { set := set, fromCore := n, core := s.core n, store := s.storeCells n }

/-- A set with one core less, evicted with its last. -/
def EvictionSet.without (e : EvictionSet) (n : Nat) : EvictionSet :=
  { e with cores := e.cores.filter (· != n), state := if (e.cores.filter (· != n)).isEmpty then .evicted else e.state }

/-- A context with an image more. -/
def Context.takeImage (x : Context) (im : Image) : Context :=
  { x.updSet im.set (fun e => e.without im.fromCore) with images := x.images ++ [im] }

theorem State.saveComplete_eq {at' : Nat} (hu : s.me.unit = some u) (hp : s.me.preq = some (at', set)) (hr : s.me.run = .saving) :
    s.saveComplete s.me.id = ((s.updCtx u.ctx (fun x => x.takeImage (s.imageOf s.me.id set))).setPlace u.launch u.unit .saved).updCore s.me.id
      Core.release := by
  simp only [State.saveComplete, State.core_me, hu, hp, hr, beq_self_eq_true, if_true, State.imageOf]
  rfl

theorem Core.release_gpr (c : Core) (k : Nat) : c.release.gpr k = 0 := by
  have zero : c.release.g = Vector.replicate 32 0 := rfl
  unfold Core.gpr
  rw [zero]
  split
  · rfl
  · by_cases h : k < 32
    · rw [Vector.getElem?_eq_getElem h, Vector.getElem_replicate]
      rfl
    · rw [Vector.getElem?_eq_none (by omega)]
      rfl

theorem State.saveComplete_ctx? (hx : s.ctx? u.ctx = some x) (im : Image) :
    (((s.updCtx u.ctx (fun x => x.takeImage im)).setPlace u.launch u.unit .saved).updCore n Core.release).ctx? u.ctx = some (x.takeImage im) := by
  unfold State.ctx?
  rw [State.updCore_contexts]
  exact State.ctx?_updCtx_same (f := fun x => x.takeImage im) (fun _ => rfl) hx

/-- The unit of the image is saved in its launch's table, the others are as they were. -/
theorem mem_setPlace_units {us : List (Nat × UnitPlace)} {v w : Nat} {p q : UnitPlace} (h : (v, p) ∈ us) :
    if v = w then (v, q) ∈ us.map (fun x => if x.1 == w then (w, q) else x) else (v, p) ∈ us.map (fun x => if x.1 == w then (w, q) else x) := by
  split
  · next e =>
    subst e
    exact List.mem_map.2 ⟨_, h, by simp⟩
  · next e => exact List.mem_map.2 ⟨_, h, by simp [e]⟩
end

/-- Settles O44: the start of a save at its boundary, and the image at its end. -/
theorem savesEndInAnImageOfTheCore : Obligations.SavesEndInAnImageOfTheCore := by
  intro s at' n u x e hu hp hx he mayStop
  have due := Core.saveDue_iff (cycle := s.cycle) hp
  have parts_eq : mayStop = s.me.mayStop := rfl
  refine ⟨fun hr hexp hm hd => ?_, fun hd hf => ?_, fun hm => ?_, fun ht => ?_, fun ht hr => ?_⟩
  · have begins : s.beginSave s.me.id = s.startSave s.me.id u n :=
      State.beginSave_eq_of_not_expired (at' := at') (by rwa [State.core_me]) (by rwa [State.core_me]) (by rwa [State.core_me])
    obtain ⟨y, hy, hs⟩ := State.set?_startSave (n := s.me.id) (u := u) hx he
    refine ⟨_, y, _, ?_, State.startSave_me, State.startSave_tags, State.waiters_startSave hu, State.startSave_mem, State.banks_startSave, hy, hs, rfl⟩
    rw [exec_pdeadlineExpiry, if_pos (due.2 ⟨hr, hm, hd.symm⟩), begins]
  · refine exec_pdeadlineExpiry_idle fun h => ?_
    obtain ⟨-, -, hf' | hlt⟩ := due.1 h
    · exact absurd (hf.symm.trans hf') (by decide)
    · omega
  · exact exec_pdeadlineExpiry_idle fun h => hm (due.1 h).2.1
  · have : s.me.runTile.isNone = false := by simpa [Option.isSome_iff_ne_none] using ht
    show Host.Outcome.next (if s.me.runTile.isNone then s.saveComplete s.me.id else s) = _
    rw [this]
    rfl
  · have saves : exec .coreSaveComplete s = .next (s.saveComplete s.me.id) := by
      show Host.Outcome.next (if s.me.runTile.isNone then s.saveComplete s.me.id else s) = _
      rw [ht]
      rfl
    have me : (((s.updCtx u.ctx (fun x => x.takeImage (s.imageOf s.me.id n))).setPlace u.launch u.unit .saved).updCore s.me.id Core.release).me =
        s.me.release := State.me_updCore_same rfl
    rw [saves, State.saveComplete_eq hu hp hr]
    refine ⟨_, x.takeImage (s.imageOf s.me.id n), e.without s.me.id, s.imageOf s.me.id n, rfl, ?_, ?_, ?_, fun k => ?_, State.saveComplete_ctx? hx _, rfl, rfl, rfl,
      State.core_me, rfl, ?_, rfl, ?_, fun l hl => ?_⟩
    · rw [State.updCore_mem]
      rfl
    · rw [me]
      rfl
    · rw [me]
      rfl
    · rw [me, Core.release_gpr]
    · refine (Context.set?_updSet_same (g := fun e => e.without s.me.id) fun _ => rfl).trans ?_
      rw [he]
      rfl
    · simp [EvictionSet.without]
    · refine ⟨_, (State.launch?_congr (State.updCore_parts _ _ _)).trans (State.launch?_setPlace hl), fun v p h => mem_setPlace_units h⟩

end Sys2Proof.Machine
end

section
/-!
SUPPORT. What a destroyed context gives back: pages of DRAM, shared-memory pages, banks, range units and its id (R41, R42, R81).
-/
namespace Sys2Proof.Machine

open Sys2Proof Sys2Proof.Claims

section
variable {s t : State} {ctx : Nat} {x : Context}

/-! ## Pages of DRAM -/

/-- Zeroing ranges changes memory and its error bits alone. -/
theorem State.foldl_zeroRange_eq (fs : List Frame) : ∀ s : State, ∃ m e,
    fs.foldl (fun (t : State) f => t.zeroRange f.key (f.key + f.size)) s = { s with mem := m, eccBad := e } := by
  induction fs with
  | nil => exact fun s => ⟨s.mem, s.eccBad, rfl⟩
  | cons f fs ih =>
    intro s
    obtain ⟨m, e, h⟩ := ih (s.zeroRange f.key (f.key + f.size))
    exact ⟨m, e, h⟩

/-- The pages that a context holds or maps, and those that others do. -/
def State.dramOf (s : State) (ctx : Nat) (x : Context) : List (Nat × Nat) :=
  s.dramPages x.ptroot.toNat ++ (s.frames.filter (fun f => f.ctx == ctx)).map (fun f => (f.key, f.size))

def State.dramOfOthers (s : State) (ctx : Nat) : List (Nat × Nat) :=
  (s.contexts.filter (fun y => y.id != ctx)).flatMap (fun y => s.dramPages y.ptroot.toNat) ++
    (s.frames.filter (fun f => f.ctx != ctx)).map (fun f => (f.key, f.size))

/-- A page that a context maps, as a frame. -/
def pageFrame (ctx : Nat) (a : Nat × Nat) : Frame := { key := a.1, size := a.2, ctx := ctx, va := 0 }

/-- The pages of a destroyed context as frames, part by part. -/
def State.partsOf (s : State) (ctx : Nat) (x : Context) : List Frame :=
  (s.frames.filter (fun f => f.ctx == ctx) ++ (s.dramPages x.ptroot.toNat).map (pageFrame ctx)).flatMap
    Frame.parts

theorem State.mem_partsOf {g : Frame} : g ∈ s.partsOf ctx x ↔ ∃ f : Frame, (f.key, f.size) ∈ s.dramOf ctx x ∧
    (f ∈ s.frames.filter (fun f => f.ctx == ctx) ∨ f ∈ (s.dramPages x.ptroot.toNat).map (pageFrame ctx)) ∧
    ∃ j < f.size / 2 ^ 16, f.part j = g := by
  simp only [State.partsOf, List.mem_flatMap, List.mem_append, Frame.mem_parts, State.dramOf]
  refine exists_congr fun f => ⟨fun ⟨hf, hp⟩ => ⟨?_, hf, hp⟩, fun ⟨_, hf, hp⟩ => ⟨hf, hp⟩⟩
  refine hf.elim (fun h => .inr (List.mem_map.2 ⟨f, h, rfl⟩)) fun h => .inl ?_
  obtain ⟨a, ha, rfl⟩ := List.mem_map.1 h
  exact ha

/-- Every page of the context is among its parts. -/
theorem State.part_mem_partsOf {g : Nat × Nat} {j : Nat} (hg : g ∈ s.dramOf ctx x) (hj : j < g.2 / 2 ^ 16) :
    ∃ f ∈ s.partsOf ctx x, f.key = g.1 + 2 ^ 16 * j ∧ f.size = 2 ^ 16 := by
  rcases List.mem_append.1 hg with h | h
  · have page : pageFrame ctx g ∈ (s.dramPages x.ptroot.toNat).map (pageFrame ctx) := List.mem_map.2 ⟨g, h, rfl⟩
    exact ⟨_, State.mem_partsOf.2 ⟨pageFrame ctx g, hg, .inr page, j, hj, rfl⟩, rfl, rfl⟩
  · obtain ⟨f, hf, rfl⟩ := List.mem_map.1 h
    exact ⟨_, State.mem_partsOf.2 ⟨f, hg, .inl hf, j, hj, rfl⟩, rfl, rfl⟩

theorem State.zeroDram_eq (h : s.ctx? ctx = some x) : s.zeroDram ctx =
    ({ s with frames := s.frames.filter (fun f => f.ctx != ctx) } : State).scrubPages (s.partsOf ctx x)
      ((s.contexts.filter (fun y => y.id != ctx)).flatMap (fun y => s.dramPages y.ptroot.toNat)) := by
  simp only [State.zeroDram, h]
  rfl

/-- What zeroing the pages of a destroyed context changes (R42, R67). -/
structure DramGone (s t : State) (ctx : Nat) (x : Context) : Prop where
  frame : ∃ m e, t = { s with frames := s.frames.filter (fun f => f.ctx != ctx), mem := m, eccBad := e }
  gone : ∀ g ∈ s.dramOf ctx x, ∀ j < g.2 / 2 ^ 16, (∀ k ∈ s.dramOfOthers ctx, overlaps (g.1 + 2 ^ 16 * j) (2 ^ 16) k.1 k.2 = false) →
    ∀ c ∈ t.mem, ¬ (g.1 + 2 ^ 16 * j ≤ c.1 ∧ c.1 < g.1 + 2 ^ 16 * j + 2 ^ 16)
  wf : Memory.wf s.mem = true → Memory.wf t.mem = true
  kept : Memory.wf s.mem = true → ∀ a, (∀ g ∈ s.dramOf ctx x, a < g.1 ∨ g.1 + g.2 ≤ a) → Memory.read a t.mem = Memory.read a s.mem

theorem State.zeroDram_gone (h : s.ctx? ctx = some x) : DramGone s (s.zeroDram ctx) ctx x := by
  rw [State.zeroDram_eq h]
  refine ⟨State.foldl_zeroRange_eq _ _, fun g hg j hj apart c hc hin => ?_, fun hw => State.scrubPages_wf _ _ _ hw, fun hw a ha => ?_⟩
  · obtain ⟨f, hf, key, size⟩ := State.part_mem_partsOf hg hj
    refine ((State.mem_foldl_zeroRange _ _).1 hc).2 f (List.mem_filter.2 ⟨hf, ?_⟩) (by rw [key, size]; exact hin)
    rw [key, size, Bool.not_eq_true', List.any_eq_false]
    exact fun k hk => Bool.eq_false_iff.1 (apart k (List.mem_append.2 (List.mem_append.1 hk).symm))
  · refine State.read_foldl_zeroRange_out hw fun f hf => ?_
    obtain ⟨p, hp, -, j, hj, rfl⟩ := State.mem_partsOf.1 (List.mem_filter.1 hf).1
    have inside : p.key ≤ (p.part j).key ∧ (p.part j).key + (p.part j).size ≤ p.key + p.size := by
      show p.key ≤ p.key + 2 ^ 16 * j ∧ p.key + 2 ^ 16 * j + 2 ^ 16 ≤ p.key + p.size
      omega
    have := ha _ hp
    simp only at this
    omega

/-! ## Pages of shared memory -/

/-- What the release of some pages of shared memory changes (R42, R60). -/
structure PagesGone (s t : State) (qs : List Nat) : Prop where
  frame : ∃ m e, t = { s with mem := m, eccBad := e, pageOwner := s.pageOwner.filter (fun z => !qs.contains z.1) }
  cells : ∀ c ∈ t.mem, c ∈ s.mem ∧ ∀ q ∈ qs, (∃ z ∈ s.pageOwner, z.1 = q) → ¬ inPage q c.1
  wf : Memory.wf s.mem = true → Memory.wf t.mem = true
  kept : Memory.wf s.mem = true → ∀ a, (∀ q ∈ qs, ¬ inPage q a) → Memory.read a t.mem = Memory.read a s.mem

theorem PagesGone.refl : PagesGone s s [] :=
  ⟨⟨s.mem, s.eccBad, by simp⟩, fun c hc => ⟨hc, fun q hq => nomatch hq⟩, id, fun _ _ _ => rfl⟩

theorem PagesGone.trans {u : State} {qs rs : List Nat} (h : PagesGone s t qs) (h' : PagesGone t u rs) : PagesGone s u (qs ++ rs) := by
  obtain ⟨m, e, ht⟩ := h.frame
  have owners : t.pageOwner = s.pageOwner.filter (fun z => !qs.contains z.1) := by rw [ht]
  refine ⟨?_, fun c hc => ?_, fun hw => h'.wf (h.wf hw), fun hw a ha => ?_⟩
  · obtain ⟨m', e', hu⟩ := h'.frame
    refine ⟨m', e', hu.trans ?_⟩
    rw [owners, List.filter_filter, ht]
    simp [Bool.and_comm]
  · obtain ⟨hc, out'⟩ := h'.cells c hc
    obtain ⟨hc, out⟩ := h.cells c hc
    refine ⟨hc, fun q hq held => ?_⟩
    by_cases hqs : q ∈ qs
    · exact out q hqs held
    · obtain ⟨z, hz, rfl⟩ := held
      refine out' z.1 ((List.mem_append.1 hq).resolve_left hqs) ⟨z, ?_, rfl⟩
      rw [owners]
      exact List.mem_filter.2 ⟨hz, by simpa using hqs⟩
  · rw [h'.kept (h.wf hw) a fun q hq => ha q (List.mem_append_right _ hq), h.kept hw a fun q hq => ha q (List.mem_append_left _ hq)]

theorem State.givePage_none (s : State) (q : Nat) : PagesGone s (s.givePage q none) [q] := by
  unfold State.givePage
  dsimp only
  split
  · next h =>
    have unowned : ∀ z ∈ s.pageOwner, z.1 ≠ q := by simpa using h
    have same : s.pageOwner.filter (fun z => !([q] : List Nat).contains z.1) = s.pageOwner :=
      List.filter_eq_self.2 fun z hz => by simpa using unowned z hz
    refine ⟨⟨s.mem, s.eccBad, by rw [same]⟩, fun c hc => ⟨hc, fun p hp ⟨z, hz, e⟩ => ?_⟩, id, fun _ _ _ => rfl⟩
    exact absurd (e.trans (by simpa using hp)) (unowned z hz)
  · have dropped : delAssoc q s.pageOwner = s.pageOwner.filter (fun z => !([q] : List Nat).contains z.1) :=
      List.filter_congr fun z _ => by by_cases hz : z.1 = q <;> simp [hz]
    refine ⟨⟨_, _, congrArg (fun l => ({ State.zeroRange s _ _ with pageOwner := l } : State)) dropped⟩, fun c hc => ?_,
      fun hw => State.zeroRange_wf hw, fun hw a ha => ?_⟩
    · obtain ⟨hc, out⟩ := List.mem_filter.1 hc
      refine ⟨hc, fun p hp _ hin => ?_⟩
      obtain rfl : p = q := by simpa using hp
      obtain ⟨lo, hi⟩ := hin
      simp only [Bool.or_eq_true, decide_eq_true_eq] at out
      omega
    · have out : ¬ Claims.inPage q a := ha q (by simp)
      refine Memory.read_clear_out hw ?_
      unfold Claims.inPage at out
      omega

theorem State.foldl_givePage_none (qs : List Nat) : ∀ s : State, PagesGone s (qs.foldl (fun (s : State) q => s.givePage q none) s) qs := by
  induction qs with
  | nil => exact fun s => .refl
  | cons q qs ih => exact fun s => (State.givePage_none s q).trans (ih _)

/-! ## The context and its id -/

/-- The buffers of a context that go back once its pages have. -/
def State.buffersGone (s : State) (ctx : Nat) : State :=
  ({ s with
    banks := s.banks.map (fun b => if b.owner == some ctx then { b with owner := none, user := none, prices := [] } else b)
    ranges := s.ranges.filter (fun r => r.ctx != ctx) } : State).updCtx ctx (fun x => { x with state := .zeroed })

theorem State.zeroCtx_spec (h : s.ctx? ctx = some x) : ∃ u v, s.zeroCtx ctx = v.buffersGone ctx ∧ DramGone s u ctx x ∧
    PagesGone u v ((s.pageOwner.filter (fun z => z.2 == ctx)).map (·.1)) := by
  have dram := State.zeroDram_gone h
  obtain ⟨m, e, frame⟩ := dram.frame
  have owners : (s.zeroDram ctx).pageOwner = s.pageOwner := by rw [frame]
  refine ⟨_, _, rfl, dram, ?_⟩
  rw [owners]
  exact State.foldl_givePage_none _ _

theorem State.unitsStopped_iff (h : s.ctx? ctx = some x) : s.unitsStopped ctx = true ↔
    x.state = .destroying ∧ x.images = [] ∧ ∀ c ∈ s.allCores, ∀ u, c.unit = some u → u.ctx ≠ ctx := by
  simp only [State.unitsStopped, h, Bool.and_eq_true, beq_iff_eq, List.isEmpty_iff, List.all_eq_true, and_assoc]
  refine and_congr_right fun _ => and_congr_right fun _ => forall₂_congr fun c _ => ?_
  cases c.unit <;> simp

theorem State.ctxZero_iff : s.ctxZero x = true ↔ x.state = .zeroed ∧ ∀ c ∈ s.allCores, c.run = .zeroing → c.zeroCtx ≠ some x.id := by
  simp [State.ctxZero, imp_iff_not_or]

theorem exec_contextUnitsStopped : exec (.contextUnitsStopped ctx) s = .next (if s.unitsStopped ctx then s.zeroCtx ctx else s) := rfl

theorem exec_contextZeroingComplete (h : s.ctx? ctx = some x) :
    exec (.contextZeroingComplete ctx) s = .next (if s.ctxZero x then s.freeCtxId ctx else s) := by
  show Host.Outcome.next _ = _
  simp only [h]

theorem State.ctx?_freeCtxId (k : Nat) : (s.freeCtxId ctx).ctx? k = if k = ctx then none else s.ctx? k := by
  show (s.contexts.filter (fun x => x.id != ctx)).find? (fun x => x.id == k) = _
  rw [List.find?_filter]
  split
  · next e =>
    subst e
    simp
  · next e =>
    refine List.find?_congr fun x _ => ?_
    by_cases hx : x.id = k <;> simp [hx, e]
end

/-- Settles O46: the buffers of a destroyed context, then its id. -/
theorem destroyedContextsGiveEverythingBack : Obligations.DestroyedContextsGiveEverythingBack := by
  intro s ctx x hx
  refine ⟨fun hs hi hu => ?_, fun h => ?_, fun hs hz => ?_, fun h => ?_⟩
  · obtain ⟨u, v, whole, dram, pages⟩ := State.zeroCtx_spec hx
    obtain ⟨m, e, hu'⟩ := dram.frame
    obtain ⟨m', e', hv⟩ := pages.frame
    have owned (q : Nat) (h : (q, ctx) ∈ s.pageOwner) : q ∈ (s.pageOwner.filter (fun z => z.2 == ctx)).map (·.1) :=
      List.mem_map.2 ⟨_, List.mem_filter.2 ⟨h, by simp⟩, rfl⟩
    subst hu'
    have gone_of {a : Nat} (h : ∀ c ∈ v.mem, c.1 ≠ a) : Memory.read a (v.buffersGone ctx).mem = Memory.unlisted a := Memory.read_of_not_mem h
    refine ⟨v.buffersGone ctx, { x with state := .zeroed }, ?_, ?_, rfl, by rw [hv]; rfl, ?_, ?_, ?_, ?_, ⟨?_, ?_, ?_⟩, ?_⟩
    · rw [exec_contextUnitsStopped, if_pos ((State.unitsStopped_iff hx).2 ⟨hs, hi, hu⟩), whole]
    · refine State.ctx?_updCtx_same (f := fun x => { x with state := .zeroed }) (fun _ => rfl) ?_
      rw [hv]
      exact hx
    · rw [hv]
      rintro ⟨q, o⟩ hq rfl
      obtain ⟨hq, out⟩ := List.mem_filter.1 hq
      simp only [Bool.not_eq_true', List.contains_eq_mem, decide_eq_false_iff_not] at out
      exact out (owned q hq)
    · intro b hb
      obtain ⟨b, -, rfl⟩ := List.mem_map.1 hb
      split
      · simp
      · next h => simpa using h
    · intro r hr
      simpa using (List.mem_filter.1 hr).2
    · rintro q ⟨z, hz, rfl⟩ a ha
      exact gone_of fun c hc e => (pages.cells c hc).2 q (owned q hz) ⟨_, hz, rfl⟩ (e ▸ ha)
    · rw [hv]
      intro f hf
      simpa using List.mem_filter.1 hf
    · intro g hg j hj apart a hl hh
      exact gone_of fun c hc h => dram.gone g hg j hj apart c (pages.cells c hc).1 (h ▸ ⟨hl, hh⟩)
    · intro hw a hg hz
      refine (pages.kept (dram.wf hw) a fun q hq => ?_).trans (dram.kept hw a hg)
      obtain ⟨z, hzq, rfl⟩ := List.mem_map.1 hq
      obtain ⟨hzo, hzc⟩ := List.mem_filter.1 hzq
      exact hz z hzo (by simpa using hzc)
    · intro b hb ho
      rw [hv]
      exact List.mem_map.2 ⟨b, hb, by simp [ho]⟩
  · rw [exec_contextUnitsStopped, if_neg fun hz => ?_]
    obtain ⟨hs, hi, -⟩ := (State.unitsStopped_iff hx).1 hz
    exact h.elim (fun h => h hs) fun h => h hi
  · refine ⟨s.freeCtxId ctx, ?_, by rw [State.ctx?_freeCtxId, if_pos rfl], rfl, rfl, fun k hk => by rw [State.ctx?_freeCtxId, if_neg hk],
      fun p hp => ?_⟩
    · rw [exec_contextZeroingComplete hx, if_pos (State.ctxZero_iff.2 ⟨hs, hz⟩)]
    · obtain ⟨p, -, rfl⟩ := List.mem_map.1 hp
      simp [List.mem_filter]
  · rw [exec_contextZeroingComplete hx, if_neg fun hz => ?_]
    obtain ⟨hs, hc⟩ := State.ctxZero_iff.1 hz
    exact h.elim (fun h => h hs) fun h => h hc

end Sys2Proof.Machine
end

section
/-!
SUPPORT. The watchdog's save or hold, its record and the ring of its supervisor (R45, R55).
-/
namespace Sys2Proof.Machine

open Sys2Proof Sys2Proof.Claims

section
variable {s : State} {p : Partition} {u : UnitCfg} {x : Context} {n set : Nat} {parked : Bool}

/-! ## The record of an expiry -/

/-- The partition of a core has no ring and room for a record. -/
structure HoldsRecord (s : State) (core : Nat) (p : Partition) : Prop where
  partOf : s.partOf core = some p
  part : s.part? p.id = some p
  ring : p.wdRing = none
  room : p.wdHeld.length < 64

/-- Without a ring nothing is written. -/
theorem State.wdFlush_of_no_ring {part : Nat} (hp : s.part? part = some p) (hr : p.wdRing = none) : s.wdFlush part = s := by
  simp only [State.wdFlush, hp, hr]

/-- A partition with one record more. -/
def Partition.withRecord (p : Partition) (rec : List Byte) : Partition := { p with wdHeld := p.wdHeld ++ [rec] }

theorem State.wdPost_of_room {core : Nat} {rec : List Byte} (h : HoldsRecord s core p) :
    s.wdPost core rec = s.updPart p.id (fun q => q.withRecord rec) := by
  have held : (s.updPart p.id (fun q => q.withRecord rec)).part? p.id = some (p.withRecord rec) := by
    rw [State.part?_updPart_same (g := fun q => q.withRecord rec) fun _ => rfl, h.part]
    rfl
  simp only [State.wdPost, h.partOf, h.room, if_true]
  exact State.wdFlush_of_no_ring held h.ring

theorem State.wdPost_of_full {core : Nat} {rec : List Byte} (ho : s.partOf core = some p) (hp : s.part? p.id = some p) (hr : p.wdRing = none)
    (hl : 64 ≤ p.wdHeld.length) : s.wdPost core rec = s.updPart p.id (fun p => { p with wdLost := p.wdLost + 1 }) := by
  have full : ¬ p.wdHeld.length < 64 := by omega
  simp only [State.wdPost, ho, full, if_false, State.wdFlush_of_no_ring hp hr, hp]

/-- An expired core that is told of: one that is saved has SCAUSE 16. -/
def Core.told (c : Core) (set : Nat) : Core :=
  if set = 0xFF then { c with expired := none } else { c with expired := none, sup := { c.sup with scause := causeWord true 16 } }

theorem State.wdTell_of_expired (he : s.me.expired = some (set, parked)) (h : HoldsRecord s s.me.id p) :
    s.wdTell s.me.id = (s.updMe (fun c => c.told set)).updPart p.id (fun q => q.withRecord (wdRecord s.me set parked)) := by
  have posts (t : State) (ht : t.parts = s.parts) (rec : List Byte) : t.wdPost s.me.id rec = t.updPart p.id (fun q => q.withRecord rec) := by
    refine State.wdPost_of_room ⟨?_, ?_, h.ring, h.room⟩
    · rw [← h.partOf, State.partOf, ht]
      rfl
    · rw [← h.part, State.part?, ht]
      rfl
  simp only [State.wdTell, State.core_me, he, State.updCore_me]
  exact posts (s.updMe (fun c => c.told set)) rfl _

theorem wdRecord_eq (c : Core) : wdRecord c set parked = wdBytes c parked (decide (set = 0xFF)) set := by
  have one (v : Nat) : leBytes 1 v = [BitVec.ofNat 8 v] := rfl
  simp only [wdRecord, wdBytes, one, List.append_assoc, List.singleton_append, decide_eq_true_eq]
  cases parked <;> by_cases h : set = 0xFF <;> simp [h]

/-! ## The save of an expired core -/

/-- A core that the watchdog asks to be saved. -/
def Core.force (c : Core) : Core := { c with forced := true }

/-- The watchdog asks a core to be saved, at once where it stands at a boundary. -/
theorem State.forceSave_me {at' : Nat} (hr : s.me.run = .running) (hp : s.me.preq = some (at', set)) :
    s.forceSave [s.me.id] = if s.me.atBoundary then (s.updMe Core.force).beginSave s.me.id else s.updMe Core.force := by
  have runs : ([s.me.id].filter (fun n => (s.core n).run == .running)) = [s.me.id] := by simp [hr]
  have asks : s.updCores [s.me.id] Core.force = s.updMe Core.force := State.updCore_me
  have core : (s.updMe Core.force).core s.me.id = s.me.force := State.core_me (s := s.updMe Core.force)
  have due : (s.me.force).saveDue s.cycle = s.me.atBoundary := by
    have boundary : s.me.force.atBoundary = s.me.atBoundary := rfl
    have request : s.me.force.preq = some (at', set) := hp
    have runs : s.me.force.run = .running := hr
    have forced : s.me.force.forced = true := rfl
    simp [Core.saveDue, request, runs, boundary, forced]
  have begins : s.forceSave [s.me.id] = (s.updMe Core.force).beginSaves ([s.me.id].filter (fun n => ((s.updMe Core.force).core n).saveDue s.cycle)) := by
    rw [← asks]
    unfold State.forceSave
    rw [runs]
    rfl
  rw [begins, List.filter_cons, core, due, List.filter_nil]
  cases s.me.atBoundary <;> rfl

/-- A context whose set takes a core in, opened where it is closed. -/
def Context.joined (x : Context) (set n : Nat) : Context :=
  match x.set? set with
  | some _ => x.updSet set (fun e => { e with cores := e.cores ++ [n] })
  | none => { x with sets := x.sets ++ [{ num := set, state := .requested, cores := [n], targets := [] }] }

theorem Context.joined_id : (x.joined set n).id = x.id := by
  unfold Context.joined
  split <;> rfl

theorem Context.set?_joined : ∃ e, (x.joined set n).set? set = some e ∧ n ∈ e.cores ∧
    ((∀ e, x.set? set = some e → e.state = .requested) → e.state = .requested) := by
  unfold Context.joined
  cases h : x.set? set with
  | some e =>
    refine ⟨{ e with cores := e.cores ++ [n] }, ?_, by simp, fun hs => hs e rfl⟩
    refine (Context.set?_updSet_same (g := fun e => { e with cores := e.cores ++ [n] }) fun _ => rfl).trans ?_
    rw [h]
    rfl
  | none =>
    refine ⟨{ num := set, state := .requested, cores := [n], targets := [] }, ?_, by simp, fun _ => rfl⟩
    have none : x.sets.find? (fun e => e.num == set) = none := h
    simp [Context.set?, none]

theorem State.joinSet_one {ctx : Nat} : s.joinSet ctx set [n] =
    (s.updCore n (fun c => { c with preq := some (s.cycle, set) })).updCtx ctx (fun x => x.joined set n) := rfl

/-- The current core as the watchdog asks it to be saved in a set. -/
def Core.asked (c : Core) (cycle set : Nat) : Core :=
  { c with preq := some (cycle, set), forced := true, expired := some (set, c.wdParked) }

/-- A set of a context that is asked to save a core. -/
def Context.asked (x : Context) (set n : Nat) : Context := (x.joined set n).updSet set (fun e => { e with state := .saving })

theorem Context.set?_asked : ∃ e, (x.asked set n).set? set = some e ∧ e.state = .saving := by
  obtain ⟨e, he, -⟩ := Context.set?_joined (x := x) (set := set) (n := n)
  refine ⟨{ e with state := .saving }, ?_, rfl⟩
  refine (Context.set?_updSet_same (g := fun e => { e with state := .saving }) fun _ => rfl).trans ?_
  rw [he]
  rfl

/-- The state in which an expired core is asked to be saved. -/
def State.askedToSave (s : State) (ctx set : Nat) : State :=
  ({ s with me := s.me.asked s.cycle set } : State).updCtx ctx (fun x => x.asked set s.me.id)

theorem HoldsRecord.askedToSave {ctx : Nat} (h : HoldsRecord s s.me.id p) :
    HoldsRecord (s.askedToSave ctx set) (s.askedToSave ctx set).me.id p :=
  have partOf : (s.askedToSave ctx set).partOf s.me.id = s.partOf s.me.id := rfl
  have part : (s.askedToSave ctx set).part? p.id = s.part? p.id := rfl
  ⟨partOf.trans h.partOf, part.trans h.part, h.ring, h.room⟩

theorem State.ctx?_askedToSave {ctx : Nat} (hx : s.ctx? ctx = some x) : (s.askedToSave ctx set).ctx? ctx = some (x.asked set s.me.id) :=
  State.ctx?_updCtx_same (f := fun x => x.asked set s.me.id) (fun _ => Context.joined_id) hx

theorem State.updCtx_updCtx {ctx : Nat} {f g : Context → Context} (hf : ∀ x, (f x).id = x.id) :
    (s.updCtx ctx f).updCtx ctx g = s.updCtx ctx (fun x => g (f x)) := by
  simp only [State.updCtx, List.map_map]
  congr 1
  refine List.map_congr_left fun x _ => ?_
  by_cases h : x.id = ctx <;> simp [h, hf]

theorem State.wdExpire_to_set (hu : s.me.unit = some u) (hg : u.gang = []) (hp : s.me.preq = none) (hx : s.ctx? u.ctx = some x)
    (hr : s.me.run = .running) (hf : x.freeSet = some n) (ht : s.tagCount s.me.id < 8) :
    s.wdExpire = if s.me.atBoundary then (s.askedToSave u.ctx n).beginSave s.me.id else s.askedToSave u.ctx n := by
  have gang : s.gangCores s.me = [s.me.id] := by simp [State.gangCores, hu, hg]
  have free : (s.ctx? u.ctx).bind Context.freeSet = some n := by rw [hx, Option.bind_some, hf]
  have tags : [s.me.id].all (fun n => decide (s.tagCount n < 8)) = true := by simp [ht]
  have joins : ((s.updMe (fun d => { d with expired := some (n, s.me.wdParked) })).joinSet u.ctx n [s.me.id]).updCtx u.ctx
      (fun x => x.updSet n (fun e => { e with state := .saving })) =
      ((s.updMe (fun d => { d with expired := some (n, s.me.wdParked) })).updMe (fun c => { c with preq := some (s.cycle, n) })).updCtx u.ctx
        (fun x => x.asked n s.me.id) := by
    rw [State.joinSet_one, State.updCtx_updCtx fun _ => Context.joined_id]
    exact congrArg (fun t : State => t.updCtx u.ctx (fun x => x.asked n s.me.id)) State.updCore_me
  simp only [State.wdExpire, hu, gang, hp, free, tags, if_true, joins]
  exact State.forceSave_me hr rfl

/-- An expired core that is to be held. -/
def Core.toHold (c : Core) : Core := { c with expired := some (0xFF, c.wdParked) }

theorem State.wdExpire_to_hold (hu : s.me.unit = some u) (hg : u.gang = []) (hp : s.me.preq = none) (hx : s.ctx? u.ctx = some x)
    (h : x.freeSet = none ∨ 8 ≤ s.tagCount s.me.id) :
    s.wdExpire = (s.updMe Core.toHold).hold := by
  have gang : s.gangCores s.me = [s.me.id] := by simp [State.gangCores, hu, hg]
  have free : (s.ctx? u.ctx).bind Context.freeSet = x.freeSet := by rw [hx, Option.bind_some]
  simp only [State.wdExpire, hu, gang, hp, free]
  split
  · next n hn =>
    have tags : ¬ [s.me.id].all (fun n => decide (s.tagCount n < 8)) = true := by
      have := h.resolve_left (by rw [hn]; exact nofun)
      simp only [List.all_cons, List.all_nil, Bool.and_true, decide_eq_true_eq]
      omega
    rw [if_neg tags]
    rfl
  · rfl

/-- The current core once its supervisor is told of its save. -/
def Core.toldOfSave (c : Core) : Core := { c with expired := none, sup := { c.sup with scause := causeWord true 16 } }

/-- The state once the record of the current core's save is made. -/
def State.recordedSave (s : State) (p : Partition) (set : Nat) (parked : Bool) : State :=
  (s.updMe Core.toldOfSave).updPart p.id (fun q => q.withRecord (wdBytes s.me parked false set))

theorem State.beginSave_of_expired {at' j : Nat} (he : s.me.expired = some (set, parked)) (hs : set ≠ 0xFF) (hu : s.me.unit = some u)
    (hp : s.me.preq = some (at', j)) (h : HoldsRecord s s.me.id p) :
    s.beginSave s.me.id = (s.recordedSave p set parked).startSave s.me.id u j := by
  have told : s.wdTell s.me.id = s.recordedSave p set parked := by
    rw [State.wdTell_of_expired he h, wdRecord_eq, decide_eq_false hs]
    simp only [Core.told, if_neg hs]
    rfl
  have core : (s.recordedSave p set parked).core s.me.id = s.me.toldOfSave := State.core_me (s := s.recordedSave p set parked)
  rw [State.beginSave_eq (u := u) (set := j) (at' := at') (by rw [told, core]; exact hu) (by rw [told, core]; exact hp), told]

/-- What the save of an expired core leaves of the core, its record and its set. -/
theorem State.beginSave_of_expired_spec {at' j : Nat} (he : s.me.expired = some (set, parked)) (hs : set ≠ 0xFF) (hu : s.me.unit = some u)
    (hp : s.me.preq = some (at', j)) (h : HoldsRecord s s.me.id p) :
    (s.beginSave s.me.id).me = s.me.toldOfSave.saved s.cycle ∧ (s.beginSave s.me.id).mem = s.mem ∧
      (s.beginSave s.me.id).tags = s.tags ++ [(s.me.id, u.ctx, u.launch, u.unit)] ∧
      (s.beginSave s.me.id).part? p.id = some (p.withRecord (wdBytes s.me parked false set)) ∧
      ∀ x, s.ctx? u.ctx = some x → (s.beginSave s.me.id).ctx? u.ctx = some (x.updSet j (fun e => { e with state := .saving })) := by
  rw [State.beginSave_of_expired he hs hu hp h]
  refine ⟨State.startSave_me (s := s.recordedSave p set parked), State.startSave_mem, State.startSave_tags, ?_, fun x hx => State.startSave_ctx? hx⟩
  have parts : ((s.recordedSave p set parked).startSave s.me.id u j).part? p.id = (s.recordedSave p set parked).part? p.id := by
    rw [State.part?, State.startSave_parts]
    rfl
  rw [parts, State.recordedSave, State.part?_updPart_same (g := fun q => q.withRecord (wdBytes s.me parked false set)) fun _ => rfl]
  exact congrArg (Option.map _) h.part

/-! ## The hold of an expired core -/

/-- A core that is held once its supervisor is told of it. -/
theorem State.hold_of_due (hr : s.me.run = .running) (hh : s.me.held = false) (hb : s.me.atBoundary = true)
    (he : s.me.expired = some (0xFF, parked)) (h : HoldsRecord s s.me.id p) :
    s.hold = ((s.updMe (fun c => { c with expired := none })).updPart p.id (fun q => q.withRecord (wdBytes s.me parked true 0xFF))).updMe
      (fun c => { c with held := true }) := by
  have due : s.me.holdDue = true := by simp [Core.holdDue, hr, hh, hb, he]
  rw [State.hold, due, if_pos rfl, State.wdTell_of_expired he h, wdRecord_eq]
  rfl

theorem State.hold_of_not_due (h : s.me.atBoundary = false ∨ ∀ parked, s.me.expired ≠ some (0xFF, parked)) : s.hold = s := by
  have due : s.me.holdDue = false := by
    rcases h with h | h
    · simp [Core.holdDue, h]
    · unfold Core.holdDue
      cases he : s.me.expired with
      | none => simp
      | some e =>
        have : e.1 ≠ 0xFF := fun e' => h e.2 (he.trans (congrArg some (Prod.ext e' rfl)))
        simp [this]
  rw [State.hold, due]
  rfl

theorem State.watchdogDue_iff : s.watchdogDue = true ↔ wdReached s s.me.wdParked := by
  have reached : wdReached s s.me.wdParked ↔ s.me.run = .running ∧ s.me.unit ≠ none ∧ s.me.held = false ∧ s.me.forced = false ∧ s.me.expired = none ∧
      s.me.wdActive ≠ 0 ∧ s.me.wdActive ≤ s.cycle - s.me.wdBase := by
    unfold wdReached Core.wdActive
    exact and_congr_right fun _ => and_congr_right fun _ => and_congr_right fun _ => and_congr_right fun _ => and_congr_right fun _ => and_iff_right rfl
  rw [reached]
  simp only [State.watchdogDue, Core.wdExpired, Bool.and_eq_true, beq_iff_eq, Bool.not_eq_true', Option.isNone_iff_eq_none,
    decide_eq_true_eq, Option.isSome_iff_ne_none]
  tauto

theorem exec_watchdogExpiry_of_reached (h : wdReached s parked) : exec .watchdogExpiry s = .next s.wdExpire := by
  have own := h
  obtain ⟨-, -, -, -, -, rfl, -⟩ := own
  show Host.Outcome.next (if s.watchdogDue then s.wdExpire else s.hold) = _
  rw [if_pos (State.watchdogDue_iff.2 h)]

theorem exec_watchdogExpiry_of_not_reached (h : ¬ wdReached s s.me.wdParked) : exec .watchdogExpiry s = .next s.hold := by
  show Host.Outcome.next (if s.watchdogDue then s.wdExpire else s.hold) = _
  rw [if_neg fun hd => h (State.watchdogDue_iff.1 hd)]

/-! ## The ring of the supervisor -/

/-- A part whose ring is full is polled and no more. -/
theorem State.wdFlush_of_full {part base m prod : Nat} (hp : s.part? part = some p) (hr : p.wdRing = some (base, m, prod))
    (hf : m ≤ prod - s.peek (base + 8) 8) : s.wdFlush part = s.updPart part (fun p => { p with wdPoll := s.cycle }) := by
  have room : m - min m (prod - s.peek (base + 8) 8) = 0 := by omega
  simp only [State.wdFlush, hp, hr, room, List.take_zero, List.isEmpty_nil, if_true]

/-- The ring's memory with a record at PROD's slot. -/
def State.ringWritten (s : State) (base m prod lost : Nat) (rec : List Byte) : State :=
  ((s.writeMem (base + 64 + 16 * (prod % m)) rec).writeMem base (leBytes 8 (prod + 1))).writeMem (base + 16) (leBytes 8 lost)

/-- A partition whose oldest record is in the ring. -/
def Partition.ringMoved (p : Partition) (base m prod : Nat) : Partition := { p with wdHeld := p.wdHeld.drop 1, wdRing := some (base, m, prod) }

/-- A supervisor's core that is told of the ring's PROD. -/
def Core.toldOfRing (c : Core) (stamp prod : Nat) : Core :=
  { c with wdNotice := some ((match c.wdNotice with | some x => x.1 | none => stamp), BitVec.ofNat 64 prod) }

/-- The state in which a record has gone to the ring, before the supervisor is told. -/
def State.ringFilled (s : State) (p : Partition) (part base m prod : Nat) (rec : List Byte) : State :=
  ((s.updPart part (fun p => { p with wdPoll := s.cycle })).ringWritten base m prod p.wdLost rec).updPart part (fun p => p.ringMoved base m (prod + 1))

/-- The supervisor's core is told of the ring. -/
def State.tellRing (s : State) (core prod : Nat) : State :=
  { s.updCore core (fun c => c.toldOfRing s.stamp prod) with stamp := s.stamp + 1 }

/-- One free slot takes the oldest record. -/
theorem State.wdFlush_of_slot {part base m prod : Nat} {rec : List Byte} {rest : List (List Byte)} (hp : s.part? part = some p)
    (hr : p.wdRing = some (base, m, prod)) (hh : p.wdHeld = rec :: rest) (hm : m - min m (prod - s.peek (base + 8) 8) = 1) :
    s.wdFlush part = (s.ringFilled p part base m prod rec).tellRing p.supCore (prod + 1) := by
  simp only [State.wdFlush, hp, hr, hm, hh, List.take_succ_cons, List.take_zero, List.isEmpty_cons, Bool.false_eq_true, if_false,
    List.zipIdx_cons, List.zipIdx_nil, List.foldl_cons, List.foldl_nil, List.length_singleton, Nat.add_zero]
  generalize hv : s.ringFilled p part base m prod rec = v
  have filled := hv
  unfold State.ringFilled State.ringWritten Partition.ringMoved at filled
  rw [filled]
  rfl

/-- The ring's memory: PROD is one more, CONS is as it was, and the record stands at PROD's slot. -/
theorem State.ringWritten_mem {base m prod lost : Nat} {rec : List Byte} (hw : Memory.wf s.mem = true) (hl : rec.length = 16) :
    (s.ringWritten base m prod lost rec).peek base 8 = (prod + 1) % 2 ^ 64 ∧ (s.ringWritten base m prod lost rec).peek (base + 8) 8 = s.peek (base + 8) 8 ∧
      Memory.readBytes (s.ringWritten base m prod lost rec).mem (base + 64 + 16 * (prod % m)) 16 = rec := by
  have w1 := Memory.wf_writeBytes (k := base + 64 + 16 * (prod % m)) (bs := rec) hw
  have w2 := Memory.wf_writeBytes (k := base) (bs := leBytes 8 (prod + 1)) w1
  have mem : (s.ringWritten base m prod lost rec).mem = Memory.writeBytes (Memory.writeBytes (Memory.writeBytes s.mem (base + 64 + 16 * (prod % m)) rec)
    base (leBytes 8 (prod + 1))) (base + 16) (leBytes 8 lost) := by
    simp only [State.ringWritten, State.writeMem_mem]
  have last {j n : Nat} (h : j + n ≤ base + 16 ∨ base + 24 ≤ j) : Memory.readBytes (s.ringWritten base m prod lost rec).mem j n =
      Memory.readBytes (Memory.writeBytes (Memory.writeBytes s.mem (base + 64 + 16 * (prod % m)) rec) base (leBytes 8 (prod + 1))) j n := by
    rw [mem, Memory.readBytes_writeBytes_other w2 (by rw [length_leBytes]; omega)]
  refine ⟨?_, ?_, ?_⟩
  · rw [State.peek, last (by omega)]
    have back := Memory.readBytes_writeBytes_same (k := base) (bs := leBytes 8 (prod + 1)) w1
    rw [length_leBytes] at back
    rw [back, leVal_leBytes, show 256 ^ 8 = 2 ^ 64 by decide]
  · rw [State.peek, last (by omega), Memory.readBytes_writeBytes_other w1 (by rw [length_leBytes]; omega),
      Memory.readBytes_writeBytes_other hw (by omega)]
    rfl
  · rw [last (by omega), Memory.readBytes_writeBytes_other w1 (by rw [length_leBytes]; omega), ← hl, Memory.readBytes_writeBytes_same hw]
end

section
variable {s : State} {p : Partition} {part base m prod n : Nat} {rec : List Byte}

theorem State.part?_congr {t : State} (h : t.parts = s.parts) : t.part? part = s.part? part := by
  rw [State.part?, h]
  rfl

theorem State.parts_writeMem {k : Nat} {bs : List Byte} : (s.writeMem k bs).parts = s.parts := rfl

theorem State.ringWritten_parts {lost : Nat} : (s.ringWritten base m prod lost rec).parts = s.parts := by
  simp only [State.ringWritten, State.parts_writeMem]

theorem State.mem_tellRing : (s.tellRing n prod).mem = s.mem := State.updCore_mem _ _ _

theorem State.parts_tellRing : (s.tellRing n prod).parts = s.parts := State.updCore_parts _ _ _

theorem State.wdNotice_tellRing : ∃ w, ((s.tellRing n prod).core n).wdNotice = some w ∧ w.2 = BitVec.ofNat 64 prod := by
  have core : (s.tellRing n prod).core n = (s.core n).toldOfRing s.stamp prod :=
    (State.core_congr (s := s.updCore n (fun c => c.toldOfRing s.stamp prod)) rfl rfl n).trans (State.core_updCore_same fun _ => rfl)
  exact ⟨_, congrArg Core.wdNotice core, rfl⟩

/-- A partition that is polled and whose oldest record is in the ring. -/
def Partition.ringTaken (p : Partition) (cycle base m prod : Nat) : Partition := ({ p with wdPoll := cycle } : Partition).ringMoved base m prod

theorem State.part?_tellRing {core : Nat} (hp : s.part? part = some p) :
    ((s.ringFilled p part base m prod rec).tellRing core (prod + 1)).part? part = some (p.ringTaken s.cycle base m (prod + 1)) := by
  rw [State.part?_congr State.parts_tellRing, State.ringFilled, State.part?_updPart_same (g := fun p => p.ringMoved base m (prod + 1)) fun _ => rfl,
    State.part?_congr State.ringWritten_parts, State.part?_updPart_same (g := fun p => { p with wdPoll := s.cycle }) fun _ => rfl, hp]
  rfl

theorem State.tellRing_mem {core : Nat} (hw : Memory.wf s.mem = true) (hl : rec.length = 16) :
    let t := (s.ringFilled p part base m prod rec).tellRing core (prod + 1)
    t.peek base 8 = (prod + 1) % 2 ^ 64 ∧ t.peek (base + 8) 8 = s.peek (base + 8) 8 ∧ Memory.readBytes t.mem (base + 64 + 16 * (prod % m)) 16 = rec := by
  have filled : (s.ringFilled p part base m prod rec).mem =
      ((s.updPart part (fun p => { p with wdPoll := s.cycle })).ringWritten base m prod p.wdLost rec).mem :=
    State.updPart_mem _ _ _
  have written := State.ringWritten_mem (s := s.updPart part (fun p => { p with wdPoll := s.cycle })) (base := base) (m := m) (prod := prod)
    (lost := p.wdLost) hw hl
  simp only [State.peek] at written ⊢
  rw [State.mem_tellRing, filled]
  exact written
end

/-- The watchdog saves an expired core that finds a set, or asks it to be saved. -/
theorem watchdogExpiry_saves {s : State} {p : Partition} {u : UnitCfg} {x : Context} {parked : Bool} {n : Nat} (hu : s.me.unit = some u) (hg : u.gang = [])
    (hp : s.me.preq = none) (hx : s.ctx? u.ctx = some x) (h : HoldsRecord s s.me.id p) (hr : wdReached s parked) (hf : x.freeSet = some n)
    (ht : s.tagCount s.me.id < 8) :
    ∃ t q y e, exec .watchdogExpiry s = .next t ∧ t.me.preq = some (s.cycle, n) ∧ t.mem = s.mem ∧ t.me.pc = s.me.pc ∧
      t.ctx? u.ctx = some y ∧ y.set? n = some e ∧ e.state = .saving ∧ t.part? p.id = some q ∧
      (s.me.atBoundary = true → t.me.run = .saving ∧ t.tags = s.tags ++ [(s.me.id, u.ctx, u.launch, u.unit)] ∧
        t.me.sup = { s.me.sup with scause := 0x8000000000000010 } ∧ q.wdHeld = p.wdHeld ++ [wdBytes s.me parked false n]) ∧
      (s.me.atBoundary = false → t.me = { s.me with preq := some (s.cycle, n), forced := true, expired := some (n, parked) } ∧
        t.tags = s.tags ∧ q = p) := by
  have exec_eq := exec_watchdogExpiry_of_reached hr
  obtain ⟨hrun, -, -, -, -, rfl, -⟩ := hr
  have expire := State.wdExpire_to_set hu hg hp hx hrun hf ht
  have below : n < 64 := by simpa using List.mem_of_find?_eq_some hf
  obtain ⟨e, he, hs⟩ := Context.set?_asked (x := x) (set := n) (n := s.me.id)
  have asked := State.ctx?_askedToSave (set := n) hx
  cases hb : s.me.atBoundary with
  | true =>
    have own : (s.askedToSave u.ctx n).me.id = s.me.id := rfl
    have spec := State.beginSave_of_expired_spec (s := s.askedToSave u.ctx n) (p := p) (set := n) (parked := s.me.wdParked) (u := u)
      (at' := s.cycle) (j := n) rfl (by omega) hu rfl h.askedToSave
    rw [own] at spec
    obtain ⟨me, mem, tags, part, ctx⟩ := spec
    rw [expire, hb, if_pos rfl] at exec_eq
    refine ⟨_, _, _, { e with state := .saving }, exec_eq, ?_, mem, ?_, ctx _ asked, ?_, rfl, part, fun _ => ⟨?_, tags, ?_, rfl⟩, fun h => absurd h (by decide)⟩
    · exact congrArg Core.preq me
    · rw [me]
      rfl
    · refine (Context.set?_updSet_same (g := fun e => { e with state := .saving }) fun _ => rfl).trans ?_
      rw [he]
      rfl
    · exact congrArg Core.run me
    · exact congrArg Core.sup me
  | false =>
    rw [expire, hb] at exec_eq
    exact ⟨_, p, _, e, exec_eq, rfl, rfl, rfl, asked, he, hs, h.part, fun h => absurd h (by decide), fun _ => ⟨rfl, rfl, rfl⟩⟩

/-- The watchdog holds an expired core that finds no set or no tag, or marks it to be held. -/
theorem watchdogExpiry_holds {s : State} {p : Partition} {u : UnitCfg} {x : Context} {parked : Bool} (hu : s.me.unit = some u) (hg : u.gang = [])
    (hp : s.me.preq = none) (hx : s.ctx? u.ctx = some x) (h : HoldsRecord s s.me.id p) (hr : wdReached s parked)
    (hf : x.freeSet = none ∨ 8 ≤ s.tagCount s.me.id) :
    ∃ t q, exec .watchdogExpiry s = .next t ∧ t.mem = s.mem ∧ t.tags = s.tags ∧ t.part? p.id = some q ∧
      (s.me.atBoundary = true → t.me = { s.me with held := true } ∧ q.wdHeld = p.wdHeld ++ [wdBytes s.me parked true 0xFF]) ∧
      (s.me.atBoundary = false → t.me = { s.me with expired := some (0xFF, parked) } ∧ q = p) := by
  have exec_eq := exec_watchdogExpiry_of_reached hr
  obtain ⟨hrun, -, hheld, -, hexp, rfl, -⟩ := hr
  have expire := State.wdExpire_to_hold hu hg hp hx hf
  rw [expire] at exec_eq
  cases hb : s.me.atBoundary with
  | true =>
    rw [State.hold_of_due (s := s.updMe Core.toHold) (p := p) (parked := s.me.wdParked) hrun hheld hb rfl ⟨h.partOf, h.part, h.ring, h.room⟩] at exec_eq
    refine ⟨_, p.withRecord (wdBytes s.me s.me.wdParked true 0xFF), exec_eq, rfl, rfl, ?_, fun _ => ⟨?_, rfl⟩, fun h => absurd h (by decide)⟩
    · exact (State.part?_updPart_same (g := fun q => q.withRecord _) fun _ => rfl).trans (congrArg (Option.map _) h.part)
    · rw [← hexp]
      rfl
  | false =>
    rw [State.hold_of_not_due (s := s.updMe Core.toHold) (.inl hb)] at exec_eq
    exact ⟨_, p, exec_eq, rfl, rfl, h.part, fun h => absurd h (by decide), fun _ => ⟨rfl, rfl⟩⟩

/-- Settles O47: the save, the hold, the record and the ring. -/
theorem watchdogExpirySavesOrHoldsAndTells : Obligations.WatchdogExpirySavesOrHoldsAndTells := by
  refine ⟨fun s p u x parked hu hg hp hx ho hpart hring hroom hr => ⟨fun n hf ht => watchdogExpiry_saves hu hg hp hx ⟨ho, hpart, hring, hroom⟩ hr hf ht,
      fun hf => watchdogExpiry_holds hu hg hp hx ⟨ho, hpart, hring, hroom⟩ hr hf⟩,
    fun s p u x n at' parked hu hrun hx ho hpart hring hroom hb => ⟨fun hp hn hf he => ?_, fun hh he => ?_⟩,
    fun s p core rec ho hpart hring hfull => ?_, fun s hr he => ?_, fun s part base n prod p rec rest hp hid hr hh hl hw => ⟨fun hn hc => ?_, fun hc => ?_⟩⟩
  · have due : s.me.saveDue s.cycle = true := (Core.saveDue_iff hp).2 ⟨hrun, Core.atBoundary_iff.1 hb, .inl hf⟩
    obtain ⟨me, mem, -, part, -⟩ := State.beginSave_of_expired_spec (p := p) he hn hu hp ⟨ho, hpart, hring, hroom⟩
    refine ⟨_, _, ?_, congrArg Core.run me, congrArg Core.expired me, mem, congrArg Core.sup me, by rw [me]; rfl, part, rfl⟩
    rw [exec_pdeadlineExpiry, if_pos due]
  · have not_reached : ¬ wdReached s s.me.wdParked := fun ⟨_, _, _, _, fresh, _⟩ => by simp [fresh] at he
    refine ⟨_, p.withRecord (wdBytes s.me parked true 0xFF), exec_watchdogExpiry_of_not_reached not_reached, ?_⟩
    rw [State.hold_of_due (p := p) hrun hh hb he ⟨ho, hpart, hring, hroom⟩]
    exact ⟨rfl, rfl, (State.part?_updPart_same (g := fun q => q.withRecord _) fun _ => rfl).trans (congrArg (Option.map _) hpart), rfl⟩
  · rw [State.wdPost_of_full ho hpart hring hfull]
    exact ⟨_, (State.part?_updPart_same (g := fun p => { p with wdLost := p.wdLost + 1 }) fun _ => rfl).trans (congrArg (Option.map _) hpart), rfl, rfl, rfl, rfl⟩
  · rw [exec_watchdogExpiry_of_not_reached (hr _), State.hold_of_not_due (.inr he)]
  · have slot : n - min n (prod - s.peek (base + 8) 8) = 1 := by omega
    obtain ⟨hprod, hcons, hrec⟩ := State.tellRing_mem (s := s) (p := p) (part := part) (base := base) (m := n) (prod := prod) hw hl
    obtain ⟨w, hw, hw2⟩ := State.wdNotice_tellRing (s := s.ringFilled p part base n prod rec) (n := p.supCore) (prod := prod + 1)
    exact ⟨_, p.ringTaken s.cycle base n (prod + 1), w, congrArg Host.Outcome.next (State.wdFlush_of_slot hp hr hh slot), State.part?_tellRing hp,
      congrArg (List.drop 1) hh, rfl, hprod, hcons, hrec, hw, hw2⟩
  · refine ⟨_, _, congrArg Host.Outcome.next (State.wdFlush_of_full hp hr hc), rfl,
      (State.part?_updPart_same (g := fun p => { p with wdPoll := s.cycle }) fun _ => rfl).trans (congrArg (Option.map _) hp), rfl, rfl⟩

end Sys2Proof.Machine
end

section
/-!
SUPPORT. What the reports of an engine's entries, the end of a plan and the end of a unit leave of the cores (R76, R111, R114, R169).
-/
namespace Sys2Proof.Machine

open Sys2Proof

section
variable {s t : State} {n q : Nat} {e : Entry} {k : LaunchKey}

/-! ## Reports of an entry -/

theorem Calm.raise {kind cause : Nat} {tag : BitVec 16} {rem : Nat} : Calm s (s.raise n kind cause q tag rem) :=
  (Calm.updCore fun c => c.standing_addEvent _).trans (.of_cores rfl rfl rfl rfl)

theorem Calm.drawFor : Calm s (s.drawFor e) := by
  unfold State.drawFor
  split
  · exact .refl
  · exact .of_cores rfl rfl rfl rfl

theorem Calm.raiseFault {cause : Nat} : Calm s (s.raiseFault q cause e) := Calm.raise.trans .drawFor

theorem Calm.landCounted : Calm s (s.landCounted e n) := by
  unfold State.landCounted
  split
  · exact .of_cores rfl rfl rfl rfl
  · exact .refl

theorem Calm.updHead {f : Entry → Entry} : Calm s (s.updMe (fun c => c.updHead q f)) := .updMe fun _ => rfl

theorem Calm.entryWaits {st : EState} {addr : Word} {kind cause : Nat} : Calm s (s.entryWaits q e st addr kind cause) := by
  unfold State.entryWaits
  dsimp only
  split
  · exact .updHead
  · exact (Calm.updHead.trans .raise).trans .drawFor

theorem Calm.reportFault : Calm s (s.reportFault q e) := by
  unfold State.reportFault
  split
  · exact Calm.raiseFault.trans .updHead
  · exact .refl

theorem Calm.reportRecord : Calm s (s.reportRecord q e) := by
  unfold State.reportRecord
  dsimp only
  split
  · exact .refl
  · split
    · split
      · next h =>
        have wrote := Calm.engWrite.ok h
        split
        · exact (wrote.trans .drawFor).trans .updHead
        · exact wrote.trans .updHead
      · exact .entryWaits
      · exact .updHead
      · next h => exact (Calm.engWrite.error h).trans .updHead
      · next h => exact Calm.engWrite.error h
    · exact .updHead

/-- An entry that has been reported leaves its queue, with its landing, its tag and its faults kept, and its interrupt raised. -/
def State.reported (s : State) (q : Nat) (e : Entry) : State :=
  let late := if q = 65 ∧ (e.status = 0 ∨ e.status = 17) then e.pos else 0
  let failed := e.status = 3 ∨ e.status = 4
  let s := (s.landCounted e late).updMe (fun c => c.dropHead q)
  let s := if e.status = 4 then s.updMe (fun c => { c with staleTags := c.staleTags ++ [(q, e.head.tag)] }) else s
  let s := if failed ∧ q < 64 then
      s.updMe (fun c => c.keepFaultWords { qid := q, src := e.srcAddr, dst := e.dstAddr, addr := e.faultAddr }) else s
  if e.head.irq then s.raise s.me.id 2 0 q e.head.tag 0 else s

theorem Calm.ite {b : Prop} [Decidable b] {u : State} (h : Calm s t) (h' : Calm s u) : Calm s (if b then t else u) := by
  split
  · exact h
  · exact h'

theorem Calm.reported : Calm s (s.reported q e) := by
  have left {late : Nat} {t : State} : Calm t ((t.landCounted e late).updMe (fun c => c.dropHead q)) := Calm.landCounted.trans (.updMe fun _ => rfl)
  have stale {t : State} : Calm t (t.updMe (fun c => { c with staleTags := c.staleTags ++ [(q, e.head.tag)] })) := .updMe fun _ => rfl
  have faults {w : FaultWords} {t : State} : Calm t (t.updMe (fun c => c.keepFaultWords w)) := .updMe fun _ => rfl
  exact ((left.trans (.ite stale .refl)).trans (.ite faults .refl)).trans (.ite .raise .refl)

/-- The last step of a report: the fault of a record that could not be written, and the entry that leaves its queue. -/
theorem Calm.reportEnd : Calm s (s.reportEnd q e) := by
  have told {c : Nat} {t : State} : Calm t ((t.raiseFault q c e).updMe (fun c => c.updHead q (fun e => { e with lost := none }))) :=
    Calm.raiseFault.trans .updHead
  unfold State.reportEnd
  split
  · exact .refl
  · cases e.lost with
    | none => exact .ite .refl .reported
    | some c => exact .ite told (told.trans .reported)

theorem Calm.withHead {f : State → Entry → State} (hf : ∀ s e, Calm s (f s e)) : Calm s (s.withHead q f) := by
  unfold State.withHead
  split
  · exact hf _ _
  · exact .refl

theorem Calm.reportHead : Calm s (s.reportHead q) :=
  have faults {t : State} : Calm t (t.withHead q (fun s e => s.reportFault q e)) := .withHead fun _ _ => .reportFault
  have records {t : State} : Calm t (t.withHead q (fun s e => s.reportRecord q e)) := .withHead fun _ _ => .reportRecord
  have ends {t : State} : Calm t (t.withHead q (fun s e => s.reportEnd q e)) := .withHead fun _ _ => .reportEnd
  (faults.trans records).trans ends

/-! ## Acting as another core -/

/-- Every core stands under its own number. -/
def Numbered (s : State) : Prop := ∀ n, (s.core n).id = n

theorem Stands.numbered (h : Stands s t) (hn : Numbered s) : Numbered t :=
  fun n => (congrArg Standing.id (h.core n) : (t.core n).id = (s.core n).id).trans (hn n)

theorem State.switchTo_core (hn : Numbered s) (j : Nat) : (s.switchTo n).core j = s.core j := by
  unfold State.switchTo
  by_cases h : n = s.me.id
  · rw [if_pos h]
  · rw [if_neg h]
    have own : (s.core n).id = n := hn n
    by_cases hj : n = j
    · subst hj
      exact if_pos own.symm
    · refine (if_neg (by rw [own]; exact Ne.symm hj)).trans ?_
      by_cases hm : j = s.me.id
      · subst hm
        rw [assoc_setAssoc_same, State.core_me]
        rfl
      · rw [assoc_setAssoc_other hm, delAssoc, assoc_filter_ne (Ne.symm hj), State.core, if_neg hm]

theorem State.switchTo_me : (s.switchTo n).me = s.core n := by
  unfold State.switchTo
  split
  · next h => rw [h, State.core_me]
  · rfl

/-- What an engine does as another core leaves every core as it stands. -/
theorem Calm.asCore {f : State → State} (hn : Numbered s) (hf : ∀ t, Calm t (f t)) : Calm s (s.asCore n f) := by
  have there {t : State} {m : Nat} : (t.switchTo m).contexts = t.contexts ∧ (t.switchTo m).parts = t.parts := by
    unfold State.switchTo
    split <;> exact ⟨rfl, rfl⟩
  have acts := hf (s.switchTo n)
  have numbered : Numbered (s.switchTo n) := fun j => by rw [State.switchTo_core hn]; exact hn j
  have numbered' := acts.toStands.numbered numbered
  have cores (j : Nat) : ((s.asCore n f).core j).standing = (s.core j).standing := by
    rw [State.asCore, State.switchTo_core numbered', acts.core, State.switchTo_core hn]
  refine ⟨⟨?_, cores, ?_⟩, ?_⟩
  · rw [State.asCore, State.switchTo_me, acts.core, State.switchTo_core hn, State.core_me]
  · rw [State.asCore, there.1, acts.ids, there.1]
  · rw [State.asCore, there.2, acts.parts, there.2]

theorem Calm.foldl {α : Type} {f : State → α → State} (hf : ∀ s a, Calm s (f s a)) (l : List α) : Calm s (l.foldl f s) := by
  induction l generalizing s with
  | nil => exact .refl
  | cons a l ih => exact (hf s a).trans ih

theorem Calm.completeEntries (hn : Numbered s) : Calm s (s.completeEntries n) := by
  refine Calm.asCore hn fun t => Calm.foldl (fun t q => ?_) _
  split
  · split
    · exact .reportHead
    · exact .refl
  · exact .refl

/-! ## Plans that end with a context -/

theorem Calm.memberEvent {m : PlanMember} {cause : Nat} : Calm s (s.memberEvent m cause) := by
  unfold State.memberEvent
  dsimp only
  split
  · exact (Calm.atUnit fun c => c.standing_addEvent _).trans (.of_cores rfl rfl rfl rfl)
  · exact .raise

theorem Calm.recordAtMember {m : PlanMember} {inst : Nat} {grank : Word} {failed : Bool} (h : s.recordAtMember m inst grank failed = .ok t) : Calm s t := by
  have reports {u : State} {causes : List Nat}
      (hu : (if u.memberRoom m causes.length then .ok (causes.foldl (fun (s : State) c => s.memberEvent m c) u) else .error false : Except Bool State) = .ok t) :
      Calm u t := by
    split at hu
    · exact Except.ok.inj hu ▸ Calm.foldl (fun _ _ => .memberEvent) _
    · cases hu
  unfold State.recordAtMember at h
  dsimp only at h
  split at h
  · next hw => exact (Calm.engWrite.ok hw).trans (reports h)
  · next hw => exact (Calm.engWrite.error hw).trans (reports h)
  · cases h

theorem Calm.failInstance {p : Plan} {m : PlanMember} {inst : Nat} {grank : Word} : Calm s (s.failInstance p m inst grank) := by
  unfold State.failInstance
  split
  · exact .refl
  · split
    · next h =>
      obtain ⟨u, hu, rfl⟩ : ∃ u, s.recordAtMember m inst grank true = .ok u ∧ { u with coll := u.coll.instOver p.common.group inst m.rank } = _ := by
        cases hr : s.recordAtMember m inst grank true with
        | ok u => exact ⟨u, rfl, by simpa [State.endAtMember, hr, Except.map] using h⟩
        | error e => simp [State.endAtMember, hr, Except.map] at h
      exact (Calm.recordAtMember hu).trans (.of_cores rfl rfl rfl rfl)
    · exact .of_cores rfl rfl rfl rfl

theorem Calm.killPlan {p : Plan} {unticketed : Bool} : Calm s (s.killPlan p unticketed) := by
  have fails {b : Bool} {t : State} {m : PlanMember} {inst : Nat} {grank : Word} : Calm t (if b then t else t.failInstance p m inst grank) := by
    split
    · exact .refl
    · exact .failInstance
  unfold State.killPlan
  dsimp only
  split
  · exact (Calm.foldl (fun _ _ => .foldl (fun _ _ => fails) _) _).trans (.of_cores rfl rfl rfl rfl)
  · exact (Calm.foldl (fun _ _ => .foldl (fun _ _ => fails) _) _).trans (.of_cores rfl rfl rfl rfl)

theorem Calm.freePlans {ctx : Nat} : Calm s (s.freePlans ctx) := by
  have tells {t : State} {g : Nat} {m : OutMsg} : Calm t (t.sendFor g m) := .of_cores rfl rfl rfl rfl
  unfold State.freePlans
  refine Calm.trans ?_ (Calm.foldl (fun _ _ => Calm.killPlan.trans (.foldl (fun _ _ => tells) _)) _)
  exact .of_cores rfl rfl rfl rfl
end

end Sys2Proof.Machine
end

section
/-!
SUPPORT. A context's launches cancelled: no unit of them stays on a core (R41, R76).
-/
namespace Sys2Proof.Machine

open Sys2Proof

/-- No core takes up a unit, every core keeps its number, and the same context ids are bound. -/
structure Stops (s t : State) : Prop where
  numbered : Numbered t
  free : ∀ n, (s.core n).unit = none → (t.core n).unit = none
  ids : t.contexts.map (·.id) = s.contexts.map (·.id)

section
variable {s t u : State} {n : Nat} {k : LaunchKey} {l : Launch}

theorem Stops.trans (h : Stops s t) (h' : Stops t u) : Stops s u := ⟨h'.numbered, fun n hn => h'.free n (h.free n hn), h'.ids.trans h.ids⟩

theorem Stands.stops (h : Stands s t) (hn : Numbered s) : Stops s t :=
  ⟨h.numbered hn, fun n hu => (congrArg Standing.unit (h.core n)).trans hu, h.ids⟩

theorem Stops.of_cores (hn : Numbered s) (hm : t.me = s.me) (ho : t.others = s.others) (hc : t.contexts.map (·.id) = s.contexts.map (·.id)) : Stops s t :=
  (Stands.of_cores hm ho hc).stops hn

theorem Stops.updCore {f : Core → Core} (hn : Numbered s) (hf : ∀ c, (f c).id = c.id) (hu : ∀ c, c.unit = none → (f c).unit = none) :
    Stops s (s.updCore n f) := by
  refine ⟨fun j => ?_, fun j hj => ?_, by rw [State.updCore_contexts]⟩
  · by_cases h : j = n
    · subst h
      rw [State.core_updCore_same fun _ => hf _, hf, hn]
    · rw [State.core_updCore_other (fun _ => hf _) h, hn]
  · by_cases h : j = n
    · subst h
      rw [State.core_updCore_same fun _ => hf _]
      exact hu _ hj
    · rwa [State.core_updCore_other (fun _ => hf _) h]

theorem Stops.foldl {α : Type} {f : State → α → State} (hf : ∀ s a, Numbered s → Stops s (f s a)) (l : List α) (hn : Numbered s) :
    Stops s (l.foldl f s) := by
  induction l generalizing s with
  | nil => exact Stands.refl.stops hn
  | cons a l ih => exact (hf s a hn).trans (ih (hf s a hn).numbered)

theorem Stops.updCores {f : Core → Core} (hn : Numbered s) (hf : ∀ c, (f c).id = c.id) (hu : ∀ c, c.unit = none → (f c).unit = none)
    (ns : List Nat) : Stops s (s.updCores ns f) := Stops.foldl (fun _ _ hn => .updCore hn hf hu) ns hn

/-! ## The end of a unit -/

theorem assoc_map {α : Type} (f : α → α) (k : Nat) (l : List (Nat × α)) : assoc k (l.map (fun x => (x.1, f x.2))) = (assoc k l).map f := by
  induction l with
  | nil => rfl
  | cons x l ih =>
    rw [List.map_cons, assoc, assoc, ih]
    split <;> rfl

theorem Calm.mapUnits {f : Core → Core} (hf : ∀ c, (f c).standing = c.standing) : Calm s (s.mapUnits f) := by
  have hid : (f s.me).id = s.me.id := congrArg Standing.id (hf s.me)
  refine ⟨⟨hf _, fun j => ?_, ?_⟩, rfl⟩
  · show (if j = (f s.me).id then f s.me else (assoc j (s.others.map (fun x => (x.1, f x.2)))).getD (Core.fresh j)).standing = (s.core j).standing
    rw [hid, assoc_map, State.core]
    split
    · exact hf _
    · cases assoc j s.others with
      | none => rfl
      | some c => exact hf c
  · show (s.contexts.map _).map _ = _
    rw [List.map_map]
    rfl

theorem Calm.forward {v : UnitCfg} {f : Forwarded} : Calm s (s.forward v f) := by
  refine Calm.mapUnits fun c => ?_
  split
  · split <;> rfl
  · rfl

theorem Calm.withdraw {c : Core} : Calm s (s.withdraw c) := by
  obtain ⟨ch, e⟩ := s.withdraw_eq c
  rw [e]
  exact .of_cores rfl rfl rfl rfl

theorem Calm.leaveBanks : Calm s (s.leaveBanks n) := .of_cores rfl rfl rfl rfl

theorem Calm.leaveChannels {c : Core} : Calm s (s.leaveChannels c) := by
  unfold State.leaveChannels
  split
  · exact .refl
  · exact .of_cores rfl rfl rfl rfl

theorem Stands.setPlace {v : Nat} {p : UnitPlace} : Stands s (s.setPlace k v p) := .updLaunch

theorem Stops.settleLaunch (hn : Numbered s) : Stops s (s.settleLaunch k) := by
  by_cases h : ∃ l, s.launch? k = some l ∧ l.ended = true
  · obtain ⟨l, hl, he⟩ := h
    have channels : Stops s { s with channels := s.channels.filter (fun c => c.holder != k) } := .of_cores hn rfl rfl rfl
    have kept := channels.trans (Stops.updCores (f := fun c => c.zeroKept l.ctx) channels.numbered (fun _ => rfl) (fun _ h => h)
      (((State.allCores { s with channels := s.channels.filter (fun c => c.holder != k) }).filter
        (fun c => c.run == .free && c.unit.isNone && c.lastLaunch == some l.key)).map (·.id)))
    exact kept.trans ((State.settleLaunch_of_ended hl he).stops kept.numbered)
  · rw [State.settleLaunch_of_running fun l hl => Bool.eq_false_iff.2 fun he => h ⟨l, hl, he⟩]
    exact Stands.refl.stops hn

/-- The tags of a unit go. -/
def State.untag (s : State) (k : LaunchKey) (unit : Nat) : State :=
  { s with tags := s.tags.filter (fun g => !(g.2.2.1 == k && g.2.2.2 == unit)) }

theorem Calm.untag {unit : Nat} : Calm s (s.untag k unit) := .of_cores rfl rfl rfl rfl

/-- A unit that is about to leave its core: its waits, banks and channels, its set and its tags are given up. -/
def State.unitLeaving (s : State) (n : Nat) (u : UnitCfg) : State :=
  let c := s.core n
  let t := ((s.withdraw c).leaveBanks n).leaveChannels c
  let t := match c.preq with | some (_, set) => t.updCtx u.ctx (fun x => x.leaveSet set n) | none => t
  t.untag u.launch u.unit

/-- Its core once it has left. -/
def Core.left (c : Core) (k : LaunchKey) (exited : Bool) : Core := if exited then c.vacate k else c.release

theorem Core.left_id {c : Core} {exited : Bool} : (c.left k exited).id = c.id := by
  unfold Core.left
  split <;> rfl

theorem Core.left_unit {c : Core} {exited : Bool} : (c.left k exited).unit = none := by
  unfold Core.left
  split <;> rfl

theorem State.endUnit_eq {v : UnitCfg} {exited : Bool} (hu : (s.core n).unit = some v) :
    s.endUnit n exited = ((((if exited then s else s.completeEntries n).unitLeaving n v).updCore n (fun c => c.left v.launch exited)).setPlace
      v.launch v.unit (if exited then .exited else .cancelled)).settleLaunch v.launch := by
  simp only [State.endUnit, hu]
  rfl

theorem Calm.unitLeaving {v : UnitCfg} : Calm s (s.unitLeaving n v) := by
  have leaves : Calm s (((s.withdraw (s.core n)).leaveBanks n).leaveChannels (s.core n)) := (Calm.withdraw.trans .leaveBanks).trans .leaveChannels
  unfold State.unitLeaving
  dsimp only
  split
  · next set _ => exact (leaves.trans (Calm.updCtx (f := fun x => x.leaveSet set n) fun _ => rfl)).trans .untag
  · exact leaves.trans .untag

theorem Stops.endUnit {exited : Bool} (hn : Numbered s) : Stops s (s.endUnit n exited) ∧ ((s.endUnit n exited).core n).unit = none := by
  cases hu : (s.core n).unit with
  | none =>
    have ends : s.endUnit n exited = s.updCore n (fun c => { c with run := .free, wait := none }) := by simp only [State.endUnit, hu]
    have stops : Stops s (s.endUnit n exited) := by
      rw [ends]
      exact .updCore hn (fun _ => rfl) fun _ h => h
    exact ⟨stops, stops.free n hu⟩
  | some v =>
    rw [State.endUnit_eq hu]
    have entries : Calm s (if exited then s else s.completeEntries n) := by
      split
      · exact .refl
      · exact .completeEntries hn
    have before := (entries.trans (.unitLeaving (n := n) (v := v))).toStands.stops hn
    generalize (if exited then s else s.completeEntries n).unitLeaving n v = t at before ⊢
    have gone : Stops t (t.updCore n (fun c => c.left v.launch exited)) := .updCore before.numbered (fun _ => Core.left_id) fun _ _ => Core.left_unit
    have none : ((t.updCore n (fun c => c.left v.launch exited)).core n).unit = none := by
      rw [State.core_updCore_same fun _ => Core.left_id]
      exact Core.left_unit
    have placed := Stands.setPlace (k := v.launch) (v := v.unit) (p := if exited then .exited else .cancelled) |>.stops gone.numbered
    have settled := Stops.settleLaunch (k := v.launch) placed.numbered
    exact ⟨((before.trans gone).trans placed).trans settled, (placed.trans settled).free n none⟩

theorem Stops.exitCore (hn : Numbered s) : Stops s (s.exitCore n) ∧ ((s.exitCore n).core n).unit = none := by
  have forwards : ∃ t, Calm s t ∧ s.exitCore n = t.endUnit n true := by
    unfold State.exitCore
    dsimp only
    split
    · split
      · exact ⟨_, .forward, rfl⟩
      · exact ⟨_, .refl, rfl⟩
    · exact ⟨_, .refl, rfl⟩
  obtain ⟨t, calm, e⟩ := forwards
  have before := calm.toStands.stops hn
  rw [e]
  exact ⟨before.trans (Stops.endUnit before.numbered).1, (Stops.endUnit before.numbered).2⟩

/-! ## Launches and contexts -/

theorem Stops.dropImage {ctx unit : Nat} (hn : Numbered s) : Stops s (s.dropImage k ctx unit) := by
  have untagged {t : State} (ht : Numbered t) : Stops t ((t.untag k unit).setPlace k unit .cancelled) :=
    (Calm.untag.toStands.trans .setPlace).stops ht
  have closes {t : State} {f : Context → Context} (ht : Numbered t) (hf : ∀ x, (f x).id = x.id) : Stops t (t.updCtx ctx f) :=
    (Calm.updCtx hf).toStands.stops ht
  have aims {t : State} (ht : Numbered t) (target : Option Nat) : Stops t (match target with
      | some n => t.updCore n (fun c => { c with run := .zeroing, zeroCtx := some ctx })
      | none => t) := by
    cases target with
    | none => exact Stands.refl.stops ht
    | some n => exact .updCore ht (fun _ => rfl) fun _ h => h
  unfold State.dropImage
  dsimp only
  cases (s.ctx? ctx).bind (fun x => x.images.find? _) with
  | none => exact untagged hn
  | some im =>
    have channels : Stops s (s.leaveChannels im.core) := Calm.leaveChannels.toStands.stops hn
    have aimed := channels.trans (aims channels.numbered
      (((s.leaveChannels im.core).ctx? ctx).bind (fun x => x.set? im.set) |>.bind (fun (e : EvictionSet) => assoc im.fromCore e.targets)))
    have closed := aimed.trans (closes (f := fun x => ({ x with images := x.images.filter (fun i => !(match i.core.unit with
      | some u => u.launch == k && u.unit == unit | none => false)) }.updSet im.set (fun e =>
        { e with targets := delAssoc im.fromCore e.targets })).leaveSet im.set im.fromCore) aimed.numbered fun _ => rfl)
    exact closed.trans (untagged closed.numbered)

/-- A unit that is stopped leaves its core. -/
theorem Stops.stopUnit {x : Nat × UnitPlace} (hn : Numbered s) : Stops s (s.stopUnit l x) ∧ ∀ n, x.2 = .on n → ((s.stopUnit l x).core n).unit = none := by
  obtain ⟨v, p⟩ := x
  cases p with
  | on m =>
    refine ⟨?_, ?_⟩
    · unfold State.stopUnit
      dsimp only
      split
      · exact (Stops.exitCore hn).1
      · exact (Stops.endUnit hn).1
    · rintro n ⟨⟩
      unfold State.stopUnit
      dsimp only
      split
      · exact (Stops.exitCore hn).2
      · exact (Stops.endUnit hn).2
  | saved => exact ⟨(Stops.dropImage hn).trans (.settleLaunch (Stops.dropImage hn).numbered), fun n h => nomatch h⟩
  | unplaced =>
    have placed : Stops s (s.setPlace l.key v .cancelled) := Stands.setPlace.stops hn
    exact ⟨placed.trans (.settleLaunch placed.numbered), fun n h => nomatch h⟩
  | exited => exact ⟨Stands.refl.stops hn, fun n h => nomatch h⟩
  | cancelled => exact ⟨Stands.refl.stops hn, fun n h => nomatch h⟩

theorem Stops.stopUnits (us : List (Nat × UnitPlace)) : ∀ {s : State}, Numbered s →
    Stops s (s.stopUnits l us) ∧ ∀ v n, (v, UnitPlace.on n) ∈ us → ((s.stopUnits l us).core n).unit = none := by
  induction us with
  | nil => exact fun hn => ⟨Stands.refl.stops hn, fun v n h => nomatch h⟩
  | cons x us ih =>
    intro s hn
    obtain ⟨first, gone⟩ := Stops.stopUnit (l := l) (x := x) hn
    obtain ⟨rest, all⟩ := ih first.numbered
    refine ⟨first.trans rest, fun v n h => ?_⟩
    rcases List.mem_cons.1 h with rfl | h
    · exact rest.free n (gone n rfl)
    · exact all v n h

theorem Launch.mem_running {x : Nat × UnitPlace} : x ∈ l.running ↔ x ∈ l.units ∧ x.2 ≠ .exited ∧ x.2 ≠ .cancelled := by
  simp [Launch.running, List.mem_filter]

theorem Stops.cancelLaunch (hn : Numbered s) : Stops s (s.cancelLaunch l) ∧ ((l.state = .placing ∨ l.state = .placed) →
    ∀ v n, (v, UnitPlace.on n) ∈ l.units → ((s.cancelLaunch l).core n).unit = none) := by
  have marked : Stops s (if l.over then s else s.updLaunch l.key (fun l => { l with status := 1 })) := by
    split
    · exact Stands.refl.stops hn
    · exact Stands.updLaunch.stops hn
  obtain ⟨stops, gone⟩ := Stops.stopUnits (l := l) l.running marked.numbered
  have settles : Stops s (((if l.over then s else s.updLaunch l.key (fun l => { l with status := 1 })).updLaunch l.key
      (fun l => { l with state := .placed })).settleLaunch l.key) := by
    have placed := marked.trans (Stands.updLaunch (k := l.key) (f := fun l => { l with state := .placed }) |>.stops marked.numbered)
    exact placed.trans (.settleLaunch placed.numbered)
  unfold State.cancelLaunch
  dsimp only
  cases l.state with
  | placing => exact ⟨marked.trans stops, fun _ v n h => gone v n (Launch.mem_running.2 ⟨h, nofun, nofun⟩)⟩
  | placed => exact ⟨marked.trans stops, fun _ v n h => gone v n (Launch.mem_running.2 ⟨h, nofun, nofun⟩)⟩
  | blocked => exact ⟨settles, fun h => by simp at h⟩
  | ready => exact ⟨settles, fun h => by simp at h⟩
  | early => exact ⟨marked, fun h => by simp at h⟩
  | complete => exact ⟨marked, fun h => by simp at h⟩

theorem Stops.cancelLaunches (ls : List Launch) : ∀ {s : State}, Numbered s → Stops s (ls.foldl (fun (s : State) l => s.cancelLaunch l) s) ∧
    ∀ l ∈ ls, (l.state = .placing ∨ l.state = .placed) → ∀ v n, (v, UnitPlace.on n) ∈ l.units →
      ((ls.foldl (fun (s : State) l => s.cancelLaunch l) s).core n).unit = none := by
  induction ls with
  | nil => exact fun hn => ⟨Stands.refl.stops hn, fun l h => nomatch h⟩
  | cons l ls ih =>
    intro s hn
    obtain ⟨first, gone⟩ := Stops.cancelLaunch (l := l) hn
    obtain ⟨rest, all⟩ := ih first.numbered
    refine ⟨first.trans rest, fun l' hl hs v n hu => ?_⟩
    rcases List.mem_cons.1 hl with rfl | hl
    · exact rest.free n (gone hs v n hu)
    · exact all l' hl hs v n hu
end

end Sys2Proof.Machine
end

section
/-!
SUPPORT. The outcome of a launch that is cancelled, and a context that is destroyed (R41, R76, R84).
-/
namespace Sys2Proof.Machine

open Sys2Proof

/-! ## The outcome of a launch -/

/-- A launch's status and where its units are. -/
def State.outcome (s : State) (k : LaunchKey) : Option (Nat × List (Nat × UnitPlace)) := (s.launch? k).map (fun l => (l.status, l.units))

section
variable {s t : State} {k j : LaunchKey} {l : Launch} {n ctx : Nat}

theorem Calm.outcome (h : Calm s t) : t.outcome k = s.outcome k := by
  rw [State.outcome, State.launch?_congr h.parts, State.outcome]

theorem State.outcome_updLaunch {f : Launch → Launch} (hk : ∀ l, (f l).key = l.key) (hf : ∀ l, (f l).status = l.status ∧ (f l).units = l.units) :
    (s.updLaunch j f).outcome k = s.outcome k := by
  rw [State.outcome, State.launch?_updLaunch hk, State.outcome]
  split
  · rw [Option.map_map]
    congr 1
    funext l
    exact Prod.ext (hf l).1 (hf l).2
  · rfl

/-- An update of a partition that keeps its id and its launches. -/
theorem State.launch?_updPart {g : Partition → Partition} (hi : ∀ p, (g p).id = p.id) (hg : ∀ p, (g p).launches = p.launches) :
    (s.updPart n g).launch? k = s.launch? k := by
  unfold State.launch?
  rw [State.part?_updPart hi]
  split
  · cases s.part? k.part with
    | none => rfl
    | some p => simp only [Option.map_some, Option.bind_some, hg]
  · rfl

theorem State.launch?_changeJob {part id : Nat} {f : Counter → Counter} : (s.changeJob part ctx id f).launch? k = s.launch? k :=
  State.launch?_updPart (g := fun p => { p with jobs := updCounter p.jobs ctx id f }) (fun _ => rfl) fun _ => rfl

theorem State.launch?_changePhase {part id : Nat} {f : Counter → Counter} : (s.changePhase part ctx id f).launch? k = s.launch? k := by
  have phases : (s.updPart part (fun p => { p with phases := updCounter p.phases ctx id f })).launch? k = s.launch? k :=
    State.launch?_updPart (fun _ => rfl) fun _ => rfl
  unfold State.changePhase
  dsimp only
  split
  · exact State.launch?_changeJob.trans phases
  · exact phases

theorem State.launch?_changeGraph {part id : Nat} {f : Counter → Counter} : (s.changeGraph part ctx id f).launch? k = s.launch? k := by
  have graphs : (s.updPart part (fun p => { p with graphs := updCounter p.graphs ctx id f })).launch? k = s.launch? k :=
    State.launch?_updPart (fun _ => rfl) fun _ => rfl
  unfold State.changeGraph
  dsimp only
  split
  · exact State.launch?_changePhase.trans graphs
  · exact graphs

/-- The record of a launch that did not succeed, written or lost, leaves its outcome. -/
theorem State.outcome_launchDone (h : ∀ l, s.launch? k = some l → l.status ≠ 0) : (s.launchDone k).outcome k = s.outcome k := by
  unfold State.launchDone
  split
  · rfl
  · next l hl =>
    split
    · exact State.outcome_updLaunch (fun _ => rfl) fun _ => ⟨rfl, rfl⟩
    · rw [if_neg (h l hl)]
      refine (congrArg (Option.map _) State.launch?_changeGraph).trans ?_
      exact Calm.launchIrq.outcome.trans (State.outcome_updLaunch (fun _ => rfl) fun _ => ⟨rfl, rfl⟩)

theorem State.outcome_launchRecordWrite (h : ∀ l, s.launch? k = some l → l.status ≠ 0) : (s.launchRecordWrite k).outcome k = s.outcome k := by
  have done {t : State} (calm : Calm s t) : (t.launchDone k).outcome k = s.outcome k :=
    (State.outcome_launchDone fun l hl => h l ((State.launch?_congr calm.parts).symm.trans hl)).trans calm.outcome
  unfold State.launchRecordWrite
  split
  · rfl
  · dsimp only
    split
    · next hw => exact done (Calm.engWrite.ok hw)
    · exact State.outcome_updLaunch (fun _ => rfl) fun _ => ⟨rfl, rfl⟩
    · exact State.outcome_updLaunch (fun _ => rfl) fun _ => ⟨rfl, rfl⟩
    · next hw => exact done (Calm.engWrite.error hw)

theorem State.updCores_parts {f : Core → Core} (ns : List Nat) : ∀ s : State, (s.updCores ns f).parts = s.parts := by
  induction ns with
  | nil => exact fun _ => rfl
  | cons n ns ih => exact fun s => (ih (s.updCore n f)).trans (State.updCore_parts _ _ _)

/-- A cancelled launch keeps status 1 when its last unit has ended. -/
theorem State.outcome_settleLaunch (hl : s.launch? k = some l) (he : l.ended = true) (hs : l.status = 1) :
    (s.settleLaunch k).outcome k = some (1, l.units) := by
  have ends : s.settleLaunch k = (((({ s with channels := s.channels.filter (fun c => c.holder != k) } : State).freeKept l).updLaunch k
      (fun l => { l with status := l.endStatus (s.widerCancelled l) })).launchRecordWrite k) := by
    simp only [State.settleLaunch, hl, he, if_true]
  have kept : (({ s with channels := s.channels.filter (fun c => c.holder != k) } : State).freeKept l).launch? k = some l :=
    (State.launch?_congr (State.updCores_parts _ _)).trans hl
  have status : l.endStatus (s.widerCancelled l) = 1 := by simp [Launch.endStatus, hs]
  have marked := State.launch?_updLaunch_same (f := fun l => { l with status := l.endStatus (s.widerCancelled l) }) (fun _ => rfl) kept
  rw [ends, State.outcome_launchRecordWrite, State.outcome, marked]
  · simp [status]
  · intro l' hl'
    rw [marked] at hl'
    obtain rfl := Option.some.inj hl'
    simp [status]

/-! ## Cores that are zeroed for a context -/

/-- A core that is being zeroed for a context, its registers zero. -/
structure ZeroedFor (ctx : Nat) (c : Core) : Prop where
  run : c.run = .zeroing
  zeroCtx : c.zeroCtx = some ctx
  g : c.g = Vector.replicate 32 0

theorem ZeroedFor.gpr {c : Core} (h : ZeroedFor ctx c) (k : Nat) : c.gpr k = 0 := by
  have same : c.gpr k = c.release.gpr k := by
    unfold Core.gpr
    rw [h.g]
    rfl
  rw [same, Core.release_gpr]

theorem Stands.zeroedFor (h : Stands s t) (hz : ZeroedFor ctx (s.core n)) : ZeroedFor ctx (t.core n) := by
  have same := h.core n
  have run : (t.core n).run = (s.core n).run := congrArg Standing.run same
  have zero : (t.core n).zeroCtx = (s.core n).zeroCtx := congrArg Standing.zeroCtx same
  have g : (t.core n).g = (s.core n).g := congrArg Standing.g same
  exact ⟨run.trans hz.run, zero.trans hz.zeroCtx, g.trans hz.g⟩

theorem ZeroedFor.updCores {f : Core → Core} (hf : ∀ c, (f c).id = c.id) (hz : ∀ c, ZeroedFor ctx c → ZeroedFor ctx (f c)) (ns : List Nat) :
    ∀ {s : State}, ZeroedFor ctx (s.core n) → ZeroedFor ctx ((s.updCores ns f).core n) := by
  induction ns with
  | nil => exact fun h => h
  | cons m ns ih =>
    intro s h
    refine ih (s := s.updCore m f) ?_
    by_cases hm : n = m
    · subst hm
      rw [State.core_updCore_same fun _ => hf _]
      exact hz _ h
    · rwa [State.core_updCore_other (fun _ => hf _) hm]

/-- The cores that an ended launch has kept are zeroed for its context, and one zeroed for it stays so. -/
theorem ZeroedFor.settleLaunch (hl : s.launch? k = some l) (he : l.ended = true) (hz : ZeroedFor l.ctx (s.core n)) :
    ZeroedFor l.ctx ((s.settleLaunch k).core n) := by
  refine (State.settleLaunch_of_ended hl he).zeroedFor ?_
  exact ZeroedFor.updCores (s := { s with channels := s.channels.filter (fun c => c.holder != k) }) (f := fun c => c.zeroKept l.ctx) (fun _ => rfl)
    (fun c h => ⟨rfl, rfl, h.g⟩) _ hz

/-! ## A launch with one unit on a core -/

/-- A cancelled launch of one unit. -/
def Launch.cancelledOne (l : Launch) (v : Nat) : Launch := { l with status := 1, units := [(v, .cancelled)] }

/-- Cancelling a launch of one unit that runs on a core. -/
theorem State.cancelLaunch_one {v : Nat} {u : UnitCfg} (hn : Numbered s) (hl : s.launch? l.key = some l) (hp : l.state = .placed)
    (hd : l.recordDue = none) (hr : l.recorded = false) (hs : l.units = [(v, .on n)]) (hu : (s.core n).unit = some u) (hk : u.launch = l.key)
    (hv : u.unit = v) (hc : u.ctx = l.ctx) (hx : (s.core n).exiting = false) :
    ZeroedFor l.ctx ((s.cancelLaunch l).core n) ∧ (s.cancelLaunch l).outcome l.key = some (1, [(v, .cancelled)]) := by
  have going : l.over = false := by simp [Launch.over, hp, hd, hr]
  have runs : l.running = [(v, .on n)] := by simp [Launch.running, hs]
  let m := s.updLaunch l.key (fun l => { l with status := 1 })
  have marked : m.launch? l.key = some { l with status := 1 } := State.launch?_updLaunch_same (f := fun l => { l with status := 1 }) (fun _ => rfl) hl
  have core : m.core n = s.core n := rfl
  have entries : Calm m (m.completeEntries n) := .completeEntries (Stands.updLaunch.numbered hn)
  have calm : Calm m ((m.completeEntries n).unitLeaving n u) := entries.trans .unitLeaving
  have ends : s.cancelLaunch l = ((((m.completeEntries n).unitLeaving n u).updCore n (fun c => c.left l.key false)).setPlace l.key v .cancelled).settleLaunch l.key := by
    have stops : s.cancelLaunch l = m.endUnit n false := by
      simp only [State.cancelLaunch, going, hp, runs]
      show State.stopUnit m l (v, .on n) = _
      simp only [State.stopUnit, core, hx]
      rfl
    rw [stops, State.endUnit_eq (s := m) (v := u) hu, hk, hv]
    rfl
  have unit : (((m.completeEntries n).unitLeaving n u).core n).unit = some u := (congrArg Standing.unit (calm.core n)).trans hu
  have launch : (((m.completeEntries n).unitLeaving n u).updCore n (fun c => c.left l.key false)).launch? l.key = some { l with status := 1 } :=
    (State.launch?_congr ((State.updCore_parts _ _ _).trans calm.parts)).trans marked
  have placed : ((((m.completeEntries n).unitLeaving n u).updCore n (fun c => c.left l.key false)).setPlace l.key v .cancelled).launch? l.key =
      some (l.cancelledOne v) := (State.launch?_setPlace launch).trans (by simp [hs, Launch.cancelledOne])
  have zeroed : ZeroedFor l.ctx (((((m.completeEntries n).unitLeaving n u).updCore n (fun c => c.left l.key false)).setPlace l.key v .cancelled).core n) := by
    have left : (((m.completeEntries n).unitLeaving n u).updCore n (fun c => c.left l.key false)).core n =
        (((m.completeEntries n).unitLeaving n u).core n).release := State.core_updCore_same fun _ => Core.left_id
    refine Stands.setPlace.zeroedFor ?_
    rw [left]
    exact ⟨rfl, (congrArg (Option.map UnitCfg.ctx) unit).trans (congrArg some hc), rfl⟩
  have ended : (l.cancelledOne v).ended = true := by
    have going : (l.cancelledOne v).over = false := going
    have placed : (l.cancelledOne v).state = .placed := hp
    rw [Launch.ended, going, placed]
    rfl
  rw [ends]
  exact ⟨ZeroedFor.settleLaunch (l := l.cancelledOne v) placed ended zeroed, State.outcome_settleLaunch placed ended rfl⟩

/-! ## A context that is destroyed -/

/-- A core that is zeroed for a context, whatever it was kept for. -/
def Core.zeroAim (c : Core) (ctx : Nat) : Core := { c with run := .zeroing, zeroCtx := some ctx }

/-- A core that a launch of a destroyed context has kept. -/
def Core.zeroLeft (c : Core) (ctx : Nat) : Core := { c with run := .zeroing, lastLaunch := none, zeroCtx := some ctx }

/-- The launches of a context that are to be cancelled. -/
def State.launchesOf (s : State) (x : Context) : List Launch :=
  ((s.part? x.part).map (fun p => p.launches.filter (fun l => l.ctx == x.id && l.state != .complete && l.state != .early))).getD []

/-- The cancellations of a context that is destroyed. -/
def State.cancelled (s : State) (x : Context) : State := (s.launchesOf x).foldl (fun (s : State) l => s.cancelLaunch l) (s.freePlans x.id)

theorem State.destroyCtx_eq (x : Context) : ∃ aims left, s.destroyCtx x =
    { ((((s.cancelled x).updCores aims (fun c => c.zeroAim x.id)).updCores left (fun c => c.zeroLeft x.id)).updCtx x.id
        (fun x => { x with state := .destroying, sets := [], images := [] })) with
      tags := (((s.cancelled x).updCores aims (fun c => c.zeroAim x.id)).updCores left (fun c => c.zeroLeft x.id)).tags.filter (fun y => y.2.1 != x.id) } :=
  ⟨_, _, rfl⟩

theorem State.mem_launchesOf {x : Context} {p : Partition} (hp : s.part? x.part = some p) :
    l ∈ s.launchesOf x ↔ l ∈ p.launches ∧ l.ctx = x.id ∧ l.state ≠ .complete ∧ l.state ≠ .early := by
  simp [State.launchesOf, hp, List.mem_filter, and_assoc]

theorem State.ctx?_isSome_iff {i : Nat} : (s.ctx? i).isSome = true ↔ i ∈ s.contexts.map (·.id) := by
  simp [State.ctx?, List.find?_isSome]

/-- Cores that are updated go on without a unit. -/
theorem Stops.destroyed {x : Context} {aims left : List Nat} (hn : Numbered s) :
    Stops s ((s.updCores aims (fun c => c.zeroAim x.id)).updCores left (fun c => c.zeroLeft x.id)) := by
  have first : Stops s (s.updCores aims (fun c => c.zeroAim x.id)) :=
    .updCores (f := fun c => c.zeroAim x.id) hn (fun _ => rfl) (fun _ h => h) _
  exact first.trans (.updCores (f := fun c => c.zeroLeft x.id) first.numbered (fun _ => rfl) (fun _ h => h) _)

/-- No unit of a destroyed context's launches is on a core, its sets and images are gone, and its tags (R41, R49). -/
theorem State.destroyCtx_spec {x : Context} {p : Partition} (hn : Numbered s) (hx : s.ctx? x.id = some x) (hp : s.part? x.part = some p) :
    ∃ y, (s.destroyCtx x).ctx? x.id = some y ∧ y.state = .destroying ∧ y.sets = [] ∧ y.images = [] ∧ (∀ g ∈ (s.destroyCtx x).tags, g.2.1 ≠ x.id) ∧
      ∀ l ∈ p.launches, l.ctx = x.id → (l.state = .placing ∨ l.state = .placed) → ∀ v n, (v, UnitPlace.on n) ∈ l.units →
        ((s.destroyCtx x).core n).unit = none := by
  obtain ⟨aims, left, e⟩ := s.destroyCtx_eq x
  have plans := (Calm.freePlans (s := s) (ctx := x.id)).toStands.stops hn
  obtain ⟨cancels, gone⟩ := Stops.cancelLaunches (s.launchesOf x) plans.numbered
  have zeroes : Stops (s.cancelled x) _ := Stops.destroyed (x := x) (aims := aims) (left := left) cancels.numbered
  have bound : ((((s.cancelled x).updCores aims (fun c => c.zeroAim x.id)).updCores left (fun c => c.zeroLeft x.id)).ctx? x.id).isSome = true := by
    rw [State.ctx?_isSome_iff, zeroes.ids, State.cancelled, cancels.ids, plans.ids, ← State.ctx?_isSome_iff, hx]
    rfl
  obtain ⟨y, hy⟩ := Option.isSome_iff_exists.1 bound
  rw [e]
  refine ⟨{ y with state := .destroying, sets := [], images := [] }, ?_, rfl, rfl, rfl, fun g hg => ?_, fun l hl hc hs v n hu => ?_⟩
  · exact State.ctx?_updCtx_same (f := fun x => { x with state := .destroying, sets := [], images := [] }) (fun _ => rfl) hy
  · simpa using (List.mem_filter.1 hg).2
  · refine zeroes.free n (gone l ((State.mem_launchesOf hp).2 ⟨hl, hc, ?_, ?_⟩) hs v n hu) <;> rcases hs with hs | hs <;> simp [hs]

/-- Without plans only the collectives' lists change. -/
theorem State.freePlans_of_none (h : s.coll.plans = []) : ∃ c, s.freePlans ctx = { s with coll := c } := by
  simp only [State.freePlans, h, List.filter_nil, List.foldl_nil]
  exact ⟨_, rfl⟩

/-- The one running unit of a destroyed context is cancelled and its core zeroed. -/
theorem State.destroyCtx_one {x : Context} {p : Partition} {v : Nat} {u : UnitCfg} (hn : Numbered s) (hp : s.part? x.part = some p)
    (hplans : s.coll.plans = []) (hone : p.launches.filter (fun k => k.ctx == x.id) = [l]) (hl : s.launch? l.key = some l) (hs : l.state = .placed)
    (hd : l.recordDue = none) (hr : l.recorded = false) (hus : l.units = [(v, .on n)]) (hu : (s.core n).unit = some u) (hk : u.launch = l.key)
    (hv : u.unit = v) (hc : u.ctx = x.id) (hx : (s.core n).exiting = false) :
    ZeroedFor x.id ((s.destroyCtx x).core n) ∧ (s.destroyCtx x).outcome l.key = some (1, [(v, .cancelled)]) := by
  have own : l.ctx = x.id := by
    have : l ∈ p.launches.filter (fun k => k.ctx == x.id) := by rw [hone]; simp
    simpa using (List.mem_filter.1 this).2
  have one : s.launchesOf x = [l] := by
    have split : (fun l : Launch => l.ctx == x.id && l.state != .complete && l.state != .early) =
        fun l => (l.state != .complete && l.state != .early) && l.ctx == x.id := by
      funext l
      rw [Bool.and_assoc, Bool.and_comm]
    rw [State.launchesOf, hp, Option.map_some, Option.getD_some, split, ← List.filter_filter, hone]
    simp [hs]
  obtain ⟨c, plans⟩ := State.freePlans_of_none (ctx := x.id) hplans
  obtain ⟨aims, left, e⟩ := s.destroyCtx_eq x
  have cancelled : s.cancelled x = ({ s with coll := c } : State).cancelLaunch l := by
    rw [State.cancelled, one, plans]
    rfl
  obtain ⟨zeroed, outcome⟩ := State.cancelLaunch_one (s := { s with coll := c }) (u := u) hn hl hs hd hr hus hu hk hv (hc.trans own.symm) hx
  rw [own] at zeroed
  rw [e, cancelled]
  refine ⟨?_, ?_⟩
  · exact ZeroedFor.updCores (f := fun c => c.zeroLeft x.id) (fun _ => rfl) (fun c h => ⟨rfl, rfl, h.g⟩) _
      (ZeroedFor.updCores (f := fun c => c.zeroAim x.id) (fun _ => rfl) (fun c h => ⟨rfl, rfl, h.g⟩) _ zeroed)
  · rw [← outcome]
    exact congrArg (Option.map _) (State.launch?_congr ((State.updCores_parts _ _).trans (State.updCores_parts _ _)))
end

end Sys2Proof.Machine
end

section
/-!
SUPPORT. The monitor calls that move contexts and their sets (R41, R43, R45, R49, R95, R383).
-/
namespace Sys2Proof.Machine

open Sys2Proof Sys2Proof.Claims

section
variable {s t : State} {p : Partition} {n : Nat} {ctx set core : Word} {x : Context} {c : Core} {u : UnitCfg}

/-! ## The answer of a call -/

theorem State.inPart_eq (h : callerPart s p) (f : Partition → MonRes) : s.inPart f = f p := by
  simp only [State.inPart, h.1]

theorem reply_gpr4 (t : State) : (reply t 0).me.gpr 4 = 0 := Core.gpr_setGpr_same (by decide) (by decide)

theorem reply_core_other {k : Nat} (h : n ≠ t.me.id) : (reply t k).core n = t.core n := by
  rw [reply, ← State.updCore_me]
  exact State.core_updCore_other (fun _ => Core.setGpr_id _ _ _) h

/-- What a core holds but for its registers is not touched by a call's answer. -/
theorem core_reply {α : Type} {k : Nat} {f : Core → α} (hf : ∀ c m w, f (c.setGpr m w) = f c) : f ((reply t k).core n) = f (t.core n) := by
  by_cases h : n = t.me.id
  · subst h
    have own : (reply t k).core t.me.id = t.me.setGpr 4 (BitVec.ofNat 64 k) := by
      rw [reply, ← State.updCore_me, State.core_updCore_same fun _ => Core.setGpr_id _ _ _, State.core_me]
    rw [own, hf, State.core_me]
  · rw [reply_core_other h]

theorem State.partCtx_named (h : namesCtx s p ctx x) : s.partCtx p ctx = .ok x := by
  obtain ⟨hlt, hx, hp⟩ := h
  simp only [State.partCtx, Nat.not_le.2 hlt, if_false, hx, hp, if_true]

/-! ## CTXNEW -/

theorem State.freeCtx_none (h : ∀ k < 65535, s.ctx? k ≠ none) : s.freeCtx = none := by
  refine List.find?_eq_none.2 fun k hk => ?_
  obtain ⟨i, -, rfl⟩ := List.mem_map.1 hk
  simpa using h _ (Nat.mod_lt _ (by decide))

/-- Where an id is free, one is found. -/
theorem State.freeCtx_some (h : ∃ k < 65535, s.ctx? k = none) : ∃ id, s.freeCtx = some id ∧ id < 65535 ∧ s.ctx? id = none := by
  obtain ⟨k, hk, hn⟩ := h
  have listed : k ∈ (List.range 65535).map (fun i => (Config.freeChoice s.fresh + i) % 65535) := by
    refine List.mem_map.2 ⟨(k + 65535 - Config.freeChoice s.fresh % 65535) % 65535, List.mem_range.2 (Nat.mod_lt _ (by decide)), ?_⟩
    omega
  cases hf : s.freeCtx with
  | none => exact absurd (List.find?_eq_none.1 hf k listed) (by simp [hn])
  | some id =>
    obtain ⟨i, -, hi⟩ := List.mem_map.1 (List.mem_of_find?_eq_some hf)
    exact ⟨id, rfl, hi ▸ Nat.mod_lt _ (by decide), by simpa using List.find?_some hf⟩

/-- The context that CTXNEW binds. -/
def newContext (p : Partition) (root : Word) (id : Nat) : Context :=
  { id := id, part := p.id, state := .loading, ptroot := root &&& 0x3FFFFFFF8000, sets := [], images := [], peers := [] }

theorem State.ctx?_append {l : List Context} {y : Context} (hl : t.contexts = l ++ [y]) (k : Nat) :
    t.ctx? k = (l.find? (fun x => x.id == k)).or (if y.id = k then some y else none) := by
  rw [State.ctx?, hl, List.find?_append]
  congr 1
  by_cases h : y.id = k <;> simp [h]

theorem ctxnew_binds {root : Word} (h : callerPart s p) (hf : ∃ k < 65535, s.ctx? k = none) :
    ∃ t id, exec (.ctxnew root) s = .next t ∧ id < 65535 ∧ s.ctx? id = none ∧ t.me.gpr 4 = 0 ∧ t.me.gpr 5 = BitVec.ofNat 64 id ∧ t.mem = s.mem ∧
      t.ctx? id = some (newContext p root id) ∧ ∀ k, k ≠ id → t.ctx? k = s.ctx? k := by
  obtain ⟨id, hid, hlt, hn⟩ := State.freeCtx_some hf
  let u : State := { s.draw with contexts := s.contexts ++ [newContext p root id] }
  have call : monCtxnew root s = (0, some (BitVec.ofNat 64 id), u) := by
    rw [monCtxnew, State.inPart_eq h]
    simp only [hid]
    rfl
  have at_ (k : Nat) : (answer (0, some (BitVec.ofNat 64 id), u)).ctx? k = (s.ctx? k).or (if id = k then some (newContext p root id) else none) :=
    State.ctx?_append (l := s.contexts) (y := newContext p root id) rfl k
  refine ⟨answer (0, some (BitVec.ofNat 64 id), u), id, congrArg (fun r => Host.Outcome.next (answer r)) call, hlt, hn, ?_, ?_, rfl, ?_, fun k hk => ?_⟩
  · exact (Core.gpr_setGpr_other (by decide)).trans (Core.gpr_setGpr_same (by decide) (by decide))
  · exact Core.gpr_setGpr_same (by decide) (by decide)
  · rw [at_, hn, if_pos rfl]
    rfl
  · rw [at_, if_neg (Ne.symm hk), Option.or_none]

theorem ctxnew_full {root : Word} (h : callerPart s p) (hf : ∀ k < 65535, s.ctx? k ≠ none) : exec (.ctxnew root) s = .next (reply s 4) := by
  have call : monCtxnew root s = refuseCall s 4 := by
    rw [monCtxnew, State.inPart_eq h, State.freeCtx_none hf]
  exact congrArg (fun r => Host.Outcome.next (answer r)) call

/-! ## CTXFREE and CTXSTATE -/

theorem monCtxfree_named (h : callerPart s p) (hx : namesCtx s p ctx x) (hs : x.state = .loading ∨ x.state = .resident) :
    monCtxfree ctx s = (0, none, s.destroyCtx x) := by
  obtain ⟨hlt, hx, hp⟩ := hx
  rw [monCtxfree, State.inPart_eq h]
  simp only [Nat.not_le.2 hlt, if_false, hx, hp, ne_eq, not_true_eq_false, hs, if_true]

theorem ctxfree_destroys (h : callerPart s p) (hx : namesCtx s p ctx x) (hs : x.state = .loading ∨ x.state = .resident) (hn : Numbered s) :
    ∃ t y, exec (.ctxfree ctx) s = .next t ∧ t.me.gpr 4 = 0 ∧ t.ctx? ctx.toNat = some y ∧ y.state = .destroying ∧ y.sets = [] ∧
      y.images = [] ∧ (∀ g ∈ t.tags, g.2.1 ≠ ctx.toNat) ∧
      ∀ l ∈ p.launches, l.ctx = ctx.toNat → (l.state = .placing ∨ l.state = .placed) → ∀ v n, (v, UnitPlace.on n) ∈ l.units → (t.core n).unit = none := by
  have call := monCtxfree_named h hx hs
  obtain ⟨-, hx, hp⟩ := hx
  have id := State.ctx?_id hx
  obtain ⟨y, hy, state, sets, images, tags, units⟩ := State.destroyCtx_spec hn (id ▸ hx) (hp ▸ h.2)
  rw [id] at hy tags units
  generalize s.destroyCtx x = d at call hy tags units
  refine ⟨reply d 0, y, congrArg (fun r => Host.Outcome.next (answer r)) call, reply_gpr4 _, hy, state, sets, images, tags,
    fun l hl hc hs v n hu => ?_⟩
  exact (core_reply (f := Core.unit) Core.setGpr_unit).trans (units l hl hc hs v n hu)

theorem ctxfree_unknown (h : callerPart s p) (hlt : ctx.toNat < 2 ^ 16) (hx : s.ctx? ctx.toNat = none) : exec (.ctxfree ctx) s = .next (reply s 5) := by
  have call : monCtxfree ctx s = refuseCall s 5 := by
    rw [monCtxfree, State.inPart_eq h]
    simp only [Nat.not_le.2 hlt, if_false, hx]
  exact congrArg (fun r => Host.Outcome.next (answer r)) call

/-- The answer of a call leaves a core whose registers are zero so. -/
theorem gpr_reply {k : Nat} (h : ∀ j, (t.core n).gpr j = 0) : ((reply t 0).core n).gpr k = 0 := by
  by_cases hn : n = t.me.id
  · subst hn
    have own : (reply t 0).core t.me.id = t.me.setGpr 4 0 := by
      rw [reply, ← State.updCore_me, State.core_updCore_same fun _ => Core.setGpr_id _ _ _, State.core_me]
      rfl
    rw [own]
    by_cases hk : k = 4
    · rw [hk, Core.gpr_setGpr_same (by decide) (by decide)]
    · rw [Core.gpr_setGpr_other hk, ← h k, State.core_me]
  · rw [reply_core_other hn, h]

theorem ctxfree_zeroes {l : Launch} {v : Nat} (h : callerPart s p) (hx : namesCtx s p ctx x) (hs : x.state = .loading ∨ x.state = .resident) (hn : Numbered s)
    (hplans : s.coll.plans = []) (hone : p.launches.filter (fun k => k.ctx == ctx.toNat) = [l]) (hl : s.launch? l.key = some l)
    (hp : l.state = .placed) (hd : l.recordDue = none) (hr : l.recorded = false) (hus : l.units = [(v, .on n)]) (hu : (s.core n).unit = some u)
    (hk : u.launch = l.key) (hv : u.unit = v) (hc : u.ctx = ctx.toNat) (hex : (s.core n).exiting = false) :
    ∃ t l', exec (.ctxfree ctx) s = .next t ∧ (t.core n).run = .zeroing ∧ (t.core n).zeroCtx = some ctx.toNat ∧ (∀ k, (t.core n).gpr k = 0) ∧
      t.launch? l.key = some l' ∧ l'.status = 1 ∧ l'.units = [(v, .cancelled)] := by
  have call := monCtxfree_named h hx hs
  obtain ⟨-, hx, hpart⟩ := hx
  have id := State.ctx?_id hx
  obtain ⟨zeroed, outcome⟩ := State.destroyCtx_one (x := x) (u := u) hn (hpart ▸ h.2) hplans (by rw [id]; exact hone) hl hp hd hr hus hu hk hv (hc.trans id.symm) hex
  rw [id] at zeroed
  generalize s.destroyCtx x = d at call zeroed outcome
  obtain ⟨l', hl', ho⟩ := Option.map_eq_some_iff.1 outcome
  refine ⟨reply d 0, l', congrArg (fun r => Host.Outcome.next (answer r)) call, ?_, ?_, fun k => gpr_reply zeroed.gpr, hl', congrArg Prod.fst ho, congrArg Prod.snd ho⟩
  · rw [core_reply (f := Core.run) Core.setGpr_run, zeroed.run]
  · rw [core_reply (f := Core.zeroCtx) Core.setGpr_zeroCtx, zeroed.zeroCtx]

theorem State.monWrite_ok {va : Word} {bs : List Byte} (h : s.engStore s.me.id va.toNat bs = .ok t) : s.monWrite va bs = (0, none, t) := by
  simp only [State.monWrite, h]

theorem ctxstate_named {addr : Word} (h : callerPart s p) (hx : namesCtx s p ctx x) (ht : s.engStore s.me.id addr.toNat (stateRecord (some x)) = .ok t) :
    exec (.ctxstate ctx addr) s = .next (reply t 0) := by
  obtain ⟨hlt, hx, hp⟩ := hx
  have call : monCtxstate ctx addr s = (0, none, t) := by
    rw [monCtxstate, State.inPart_eq h]
    simp only [Nat.not_le.2 hlt, if_false, hx, hp, if_true]
    exact State.monWrite_ok ht
  exact congrArg (fun r => Host.Outcome.next (answer r)) call

theorem ctxstate_unknown {addr : Word} (h : callerPart s p) (hlt : ctx.toNat < 2 ^ 16) (hx : s.ctx? ctx.toNat = none)
    (ht : s.engStore s.me.id addr.toNat (stateRecord none) = .ok t) : exec (.ctxstate ctx addr) s = .next (reply t 0) := by
  have call : monCtxstate ctx addr s = (0, none, t) := by
    rw [monCtxstate, State.inPart_eq h]
    simp only [Nat.not_le.2 hlt, if_false, hx]
    exact State.monWrite_ok ht
  exact congrArg (fun r => Host.Outcome.next (answer r)) call
end

/-! ## What the watchdog tells leaves unchanged -/

/-- Every core stands, and neither a tag nor a context changes. -/
structure Tells (s t : State) : Prop extends Stands s t where
  tags : t.tags = s.tags
  contexts : t.contexts = s.contexts

section
variable {s t u : State} {n : Nat}

theorem Tells.refl : Tells s s := ⟨.refl, rfl, rfl⟩

theorem Tells.trans (h : Tells s t) (h' : Tells t u) : Tells s u := ⟨h.toStands.trans h'.toStands, h'.tags.trans h.tags, h'.contexts.trans h.contexts⟩

theorem Tells.updCore {f : Core → Core} (hf : ∀ c, (f c).standing = c.standing) : Tells s (s.updCore n f) :=
  ⟨(Calm.updCore hf).toStands, State.updCore_tags _ _ _, State.updCore_contexts _ _ _⟩

theorem Tells.updPart {f : Partition → Partition} : Tells s (s.updPart n f) := ⟨.updPart, rfl, rfl⟩

theorem Tells.writeMem {bs : List Byte} : Tells s (s.writeMem n bs) := ⟨Calm.writeMem.toStands, rfl, rfl⟩

theorem Tells.foldl {α : Type} {f : State → α → State} (hf : ∀ s a, Tells s (f s a)) (l : List α) : Tells s (l.foldl f s) := by
  induction l generalizing s with
  | nil => exact .refl
  | cons a l ih => exact (hf s a).trans ih

theorem Tells.wdFlush : Tells s (s.wdFlush n) := by
  have stamped {k : Nat} {t : State} : Tells t { t with stamp := k } := ⟨.of_cores rfl rfl rfl, rfl, rfl⟩
  unfold State.wdFlush
  split
  · exact .refl
  · split
    · exact .refl
    · dsimp only
      split
      · exact .updPart
      · refine Tells.trans ?_ stamped
        refine Tells.trans ?_ (.updCore fun _ => rfl)
        refine Tells.trans ?_ .updPart
        exact ((Tells.updPart.trans (.foldl (fun _ _ => .writeMem) _)).trans .writeMem).trans .writeMem

theorem Tells.wdPost {rec : List Byte} : Tells s (s.wdPost n rec) := by
  unfold State.wdPost
  split
  · exact .refl
  · split
    · exact Tells.updPart.trans .wdFlush
    · dsimp only
      split
      · split
        · exact Tells.wdFlush.trans (Tells.updPart.trans .wdFlush)
        · exact Tells.wdFlush.trans .updPart
      · exact .wdFlush

theorem Tells.wdTell : Tells s (s.wdTell n) := by
  unfold State.wdTell
  dsimp only
  split
  · exact .refl
  · refine (Tells.updCore fun c => ?_).trans .wdPost
    split <;> rfl
end

/-! ## PREEMPT -/

section
variable {s t : State} {p : Partition} {n : Nat} {ctx set core : Word} {x : Context} {c : Core} {u : UnitCfg}

/-- The start of a save of a core that is asked for it. -/
theorem State.beginSave_spec {at' j : Nat} (hu : (s.core n).unit = some u) (hp : (s.core n).preq = some (at', j)) :
    ((s.beginSave n).core n).preq = some (at', j) ∧ ((s.beginSave n).core n).run = .saving ∧
      (s.beginSave n).tags = s.tags ++ [(n, u.ctx, u.launch, u.unit)] ∧ ((s.core n).expired = none → (s.beginSave n).mem = s.mem) ∧
      ∀ x, s.ctx? u.ctx = some x → (s.beginSave n).ctx? u.ctx = some (x.updSet j (fun e => { e with state := .saving })) := by
  have tells := Tells.wdTell (s := s) (n := n)
  have unit : ((s.wdTell n).core n).unit = some u := (congrArg Standing.unit (tells.core n)).trans hu
  have preq : ((s.wdTell n).core n).preq = some (at', j) := (congrArg Standing.preq (tells.core n)).trans hp
  have quiet (h : (s.core n).expired = none) : (s.wdTell n).mem = s.mem := by rw [State.wdTell_of_none h]
  rw [State.beginSave_eq unit preq]
  generalize s.wdTell n = t at *
  refine ⟨?_, ?_, ?_, fun h => State.startSave_mem.trans (quiet h), fun x hx => State.startSave_ctx? ?_⟩
  · rw [State.startSave_core]
    exact preq
  · rw [State.startSave_core]
    rfl
  · rw [State.startSave_tags, tells.tags]
  · rw [← hx]
    exact congrArg (fun l : List Context => l.find? (fun x => x.id == u.ctx)) tells.contexts

/-- A core that is asked to be saved. -/
def Core.request (c : Core) (cycle set : Nat) : Core := { c with preq := some (cycle, set) }

/-- The state in which a core is asked to be saved in a set. -/
def State.requested (s : State) (n ctx set : Nat) : State := (s.updCore n (fun c => c.request s.cycle set)).updCtx ctx (fun x => x.joined set n)

theorem State.requested_core {ctx set : Nat} : (s.requested n ctx set).core n = (s.core n).request s.cycle set :=
  (State.core_congr rfl rfl n).trans (State.core_updCore_same (s := s) fun _ => rfl)

theorem State.requested_ctx? {ctx set : Nat} (hx : s.ctx? ctx = some x) : (s.requested n ctx set).ctx? ctx = some (x.joined set n) := by
  refine State.ctx?_updCtx_same (fun _ => Context.joined_id) ?_
  rw [← hx]
  exact congrArg (fun l : List Context => l.find? (fun x => x.id == ctx)) (State.updCore_contexts _ _ _)

/-- What PREEMPT is given: a running unit on a core of the caller's partition that is a gang by itself. -/
structure PreemptArgs (s : State) (p : Partition) (core set : Word) (u : UnitCfg) (x : Context) : Prop where
  caller : callerPart s p
  coreLt : core.toNat < 4096
  setLt : set.toNat < 64
  truss : core.toNat / 64 ∈ p.trusses
  id : (s.core core.toNat).id = core.toNat
  unit : (s.core core.toNat).unit = some u
  alone : u.gang = []
  run : (s.core core.toNat).run = .running
  bound : s.ctx? u.ctx = some x

theorem PreemptArgs.gang (h : PreemptArgs s p core set u x) : s.gangCores (s.core core.toNat) = [core.toNat] := by
  simp [State.gangCores, h.unit, h.alone, h.id]

theorem not_out_of_range (hc : core.toNat < 4096) (hs : set.toNat < 64) : ¬ (4096 ≤ core.toNat ∨ 64 ≤ set.toNat) := by omega

theorem truss_contains (h : core.toNat / 64 ∈ p.trusses) : p.trusses.contains (trussOf core.toNat) = true := by
  simpa [trussOf] using h

theorem monPreemptSet_joins (h : PreemptArgs s p core set u x) (hp : (s.core core.toNat).preq = none) (ht : s.tagCount core.toNat < 8)
    (hs : x.state = .resident) (hj : ∀ e, x.set? set.toNat = some e → e.state = .requested) :
    monPreemptSet core set s = (0, none, if (s.core core.toNat).parked then (s.requested core.toNat u.ctx set.toNat).beginSave core.toNat
      else s.requested core.toNat u.ctx set.toNat) := by
  have ok : [core.toNat].all (fun n => ((s.core n).run == .running) && (s.core n).preq.isNone && decide (s.tagCount n < 8)) = true := by
    simp [h.run, hp, ht]
  have joins : x.mayJoin set.toNat = true := by
    unfold Context.mayJoin
    split
    · rfl
    · next e he => simp [hj e he]
  have may : ¬ ((!true) = true ∨ x.state ≠ .resident ∨ (!x.mayJoin set.toNat) = true) := by simp [hs, joins]
  have parked : ((s.requested core.toNat u.ctx set.toNat).core core.toNat).parked = (s.core core.toNat).parked := by
    rw [State.requested_core]
    rfl
  have saves : (s.requested core.toNat u.ctx set.toNat).beginSaves
      ([core.toNat].filter (fun n => ((s.requested core.toNat u.ctx set.toNat).core n).parked)) =
      if (s.core core.toNat).parked then (s.requested core.toNat u.ctx set.toNat).beginSave core.toNat else s.requested core.toNat u.ctx set.toNat := by
    rw [List.filter_cons, parked, List.filter_nil]
    cases (s.core core.toNat).parked <;> rfl
  rw [monPreemptSet, State.inPart_eq h.caller, if_neg (not_out_of_range h.coreLt h.setLt)]
  simp only [truss_contains h.truss, h.unit, h.gang, h.bound, ok]
  rw [← saves]
  exact if_neg may

theorem preemptSet_asks (h : PreemptArgs s p core set u x) (hp : (s.core core.toNat).preq = none) (ht : s.tagCount core.toNat < 8)
    (hs : x.state = .resident) (hj : ∀ e, x.set? set.toNat = some e → e.state = .requested) :
    ∃ t y e, exec (.preemptSet core set) s = .next t ∧ ((s.core core.toNat).expired = none → t.mem = s.mem) ∧ t.me.gpr 4 = 0 ∧
      (t.core core.toNat).preq = some (s.cycle, set.toNat) ∧ t.ctx? u.ctx = some y ∧ y.set? set.toNat = some e ∧ core.toNat ∈ e.cores ∧
      ((s.core core.toNat).parked = false → (t.core core.toNat).run = .running ∧ t.tags = s.tags ∧ e.state = .requested) ∧
      ((s.core core.toNat).parked = true → (t.core core.toNat).run = .saving ∧ t.tags = s.tags ++ [(core.toNat, u.ctx, u.launch, u.unit)] ∧ e.state = .saving) := by
  have call := monPreemptSet_joins h hp ht hs hj
  have asked := State.requested_core (s := s) (n := core.toNat) (ctx := u.ctx) (set := set.toNat)
  have ctx := State.requested_ctx? (n := core.toNat) (set := set.toNat) h.bound
  have mem : (s.requested core.toNat u.ctx set.toNat).mem = s.mem := State.updCore_mem _ _ _
  have tags : (s.requested core.toNat u.ctx set.toNat).tags = s.tags := State.updCore_tags _ _ _
  obtain ⟨e, he, hin, hreq⟩ := Context.set?_joined (x := x) (set := set.toNat) (n := core.toNat)
  generalize s.requested core.toNat u.ctx set.toNat = d at call asked ctx mem tags
  have answers : exec (.preemptSet core set) s = .next (answer (0, none, if (s.core core.toNat).parked then d.beginSave core.toNat else d)) :=
    congrArg (fun r => Host.Outcome.next (answer r)) call
  cases hk : (s.core core.toNat).parked with
  | false =>
    rw [hk] at answers
    refine ⟨reply d 0, _, e, answers, fun _ => mem, reply_gpr4 _, ?_, ctx, he, hin, fun _ => ⟨?_, tags, hreq hj⟩, fun h => absurd h (by decide)⟩
    · rw [core_reply (f := Core.preq) Core.setGpr_preq, asked]
      rfl
    · rw [core_reply (f := Core.run) Core.setGpr_run, asked]
      exact h.run
  | true =>
    rw [hk] at answers
    obtain ⟨preq, run, tags', mem', ctx'⟩ := State.beginSave_spec (s := d) (n := core.toNat) (u := u) (at' := s.cycle) (j := set.toNat)
      (by rw [asked]; exact h.unit) (by rw [asked]; rfl)
    generalize d.beginSave core.toNat = b at answers preq run tags' mem' ctx'
    refine ⟨reply b 0, _, { e with state := .saving }, answers, fun hx => ?_, reply_gpr4 _, ?_, ctx' _ ctx, ?_, hin, fun h => absurd h (by decide),
      fun _ => ⟨?_, ?_, rfl⟩⟩
    · exact (mem' (by rw [asked]; exact hx)).trans mem
    · rw [core_reply (f := Core.preq) Core.setGpr_preq, preq]
    · refine (Context.set?_updSet_same (g := fun e => { e with state := .saving }) fun _ => rfl).trans ?_
      rw [he]
      rfl
    · rw [core_reply (f := Core.run) Core.setGpr_run, run]
    · exact tags'.trans (congrArg (· ++ _) tags)

theorem preemptSet_refused (h : PreemptArgs s p core set u x) (hp : (s.core core.toNat).preq ≠ none) : exec (.preemptSet core set) s = .next (reply s 5) := by
  have no : [core.toNat].all (fun n => ((s.core n).run == .running) && (s.core n).preq.isNone && decide (s.tagCount n < 8)) = false := by
    have : (s.core core.toNat).preq.isNone = false := by simpa [Option.isSome_iff_ne_none] using hp
    simp [this]
  have call : monPreemptSet core set s = refuseCall s 5 := by
    rw [monPreemptSet, State.inPart_eq h.caller, if_neg (not_out_of_range h.coreLt h.setLt)]
    simp only [truss_contains h.truss, h.unit, h.gang, h.bound, no]
    rfl
  exact congrArg (fun r => Host.Outcome.next (answer r)) call

/-- A core that the watchdog no longer holds. -/
def Core.unhold (c : Core) (cycle : Nat) : Core := { c with held := false, wdBase := cycle }

theorem preemptClear_resumes (h : PreemptArgs s p core set u x) (hp : (s.core core.toNat).preq = none) (hh : (s.core core.toNat).held = true)
    (hm : core.toNat ≠ s.me.id) : ∃ t, exec (.preemptClear core set) s = .next t ∧ granted s t ∧
      t.core core.toNat = (s.core core.toNat).unhold s.cycle ∧ t.mem = s.mem := by
  have call : monPreemptClear core set s = (0, none, s.updCore core.toNat (fun c => c.unhold s.cycle)) := by
    rw [monPreemptClear, State.inPart_eq h.caller, if_neg (not_out_of_range h.coreLt h.setLt)]
    simp only [truss_contains h.truss, h.unit, hp, hh]
    rfl
  have me := State.me_updCore_other (s := s) (f := fun c => c.unhold s.cycle) hm
  have cleared := State.core_updCore_same (s := s) (n := core.toNat) (f := fun c => c.unhold s.cycle) fun _ => rfl
  have mem := State.updCore_mem s core.toNat (fun c => c.unhold s.cycle)
  generalize s.updCore core.toNat (fun c => c.unhold s.cycle) = d at call me cleared mem
  refine ⟨reply d 0, congrArg (fun r => Host.Outcome.next (answer r)) call, congrArg (fun c : Core => c.setGpr 4 (BitVec.ofNat 64 0)) me, ?_, mem⟩
  rw [reply_core_other (by rwa [me]), cleared]

/-- A core that leaves its set. -/
def Core.unask (c : Core) (cycle : Nat) : Core :=
  { c with preq := none, forced := false, expired := none, wdBase := if c.expired.isSome then cycle else c.wdBase }

theorem preemptClear_leaves {at' : Nat} (h : PreemptArgs s p core set u x) (hp : (s.core core.toNat).preq = some (at', set.toNat)) :
    ∃ t, exec (.preemptClear core set) s = .next t ∧ (t.core core.toNat).preq = none ∧ (t.core core.toNat).run = .running ∧ t.mem = s.mem ∧
      t.me.gpr 4 = 0 := by
  let d := (s.updCore core.toNat (fun c => c.unask s.cycle)).updCtx u.ctx (fun x => x.leaveSet set.toNat core.toNat)
  have call : monPreemptClear core set s = (0, none, d) := by
    have runs : ¬ (set.toNat ≠ set.toNat ∨ [core.toNat].any (fun n => (s.core n).run != .running) = true) := by simp [h.run]
    rw [monPreemptClear, State.inPart_eq h.caller, if_neg (not_out_of_range h.coreLt h.setLt)]
    simp only [truss_contains h.truss, h.unit, h.gang, hp]
    exact if_neg runs
  have cleared : d.core core.toNat = (s.core core.toNat).unask s.cycle :=
    (State.core_congr rfl rfl _).trans (State.core_updCore_same (s := s) (f := fun c => c.unask s.cycle) fun _ => rfl)
  have mem : d.mem = s.mem := State.updCore_mem _ _ _
  clear_value d
  refine ⟨reply d 0, congrArg (fun r => Host.Outcome.next (answer r)) call, ?_, ?_, mem, reply_gpr4 _⟩
  · rw [core_reply (f := Core.preq) Core.setGpr_preq, cleared]
    rfl
  · rw [core_reply (f := Core.run) Core.setGpr_run, cleared]
    exact h.run

/-- A gang of which a member is saving cannot leave its set whole (log 24). -/
theorem preemptClear_refused {at' : Nat} (hcaller : callerPart s p) (hc : core.toNat < 4096) (hs : set.toNat < 64) (ht : core.toNat / 64 ∈ p.trusses)
    (hu : (s.core core.toNat).unit ≠ none) (hn : n ∈ s.gangCores (s.core core.toNat)) (hr : (s.core n).run ≠ .running)
    (hp : (s.core core.toNat).preq = some (at', set.toNat)) : exec (.preemptClear core set) s = .next (reply s 5) := by
  obtain ⟨u, hu⟩ := Option.ne_none_iff_exists'.1 hu
  have call : monPreemptClear core set s = refuseCall s 5 := by
    have saves : set.toNat ≠ set.toNat ∨ (s.gangCores (s.core core.toNat)).any (fun n => (s.core n).run != .running) = true :=
      .inr (List.any_eq_true.2 ⟨n, hn, by simpa using hr⟩)
    rw [monPreemptClear, State.inPart_eq hcaller, if_neg (not_out_of_range hc hs)]
    simp only [truss_contains ht, hu, hp]
    exact if_pos saves
  exact congrArg (fun r => Host.Outcome.next (answer r)) call
end

/-! ## RESTORE -/

theorem dedup_of_nodup : ∀ {l : List Nat}, l.Nodup → dedup l = l
  | [], _ => rfl
  | a :: l, h => by
    obtain ⟨ha, hl⟩ := List.nodup_cons.1 h
    rw [dedup, dedup_of_nodup hl, List.filter_eq_self.2 fun b hb => ?_]
    have : b ≠ a := fun e => ha (e ▸ hb)
    simpa using this

section
variable {s : State} {p : Partition} {ctx set list : Word} {x : Context} {e : EvictionSet} {bs : List Byte}

theorem restore_unknown (h : callerPart s p) (hlt : ctx.toNat < 2 ^ 16) (hs : set.toNat < 64) (hx : s.ctx? ctx.toNat = none) :
    exec (.restore ctx set list) s = .next (reply s 5) := by
  have unknown : s.partCtx p ctx = .error 3 := by simp only [State.partCtx, Nat.not_le.2 hlt, if_false, hx]
  have call : monRestore ctx set list s = refuseCall s 5 := by
    rw [monRestore, State.inPart_eq h, if_neg (Nat.not_le.2 hs)]
    simp only [unknown, hlt, and_self, if_true]
  exact congrArg (fun r => Host.Outcome.next (answer r)) call

theorem restore_not_evicted (h : callerPart s p) (hx : namesCtx s p ctx x) (hs : set.toNat < 64) (he : x.set? set.toNat = some e)
    (hne : e.state ≠ .evicted) : exec (.restore ctx set list) s = .next (reply s 5) := by
  have call : monRestore ctx set list s = refuseCall s 5 := by
    rw [monRestore, State.inPart_eq h, if_neg (Nat.not_le.2 hs)]
    simp only [State.partCtx_named hx, he]
    exact if_pos hne
  exact congrArg (fun r => Host.Outcome.next (answer r)) call

/-- The cores that a list names for some images. -/
def namedCores (bs : List Byte) (n : Nat) : List Nat := (List.range n).map (fun i => blk4 bs (4 + 4 * i))

/-- What RESTORE is given: an evicted set, and a list of as many different cores of the caller's partition. -/
structure RestoreArgs (s : State) (p : Partition) (ctx set list : Word) (x : Context) (e : EvictionSet) (bs : List Byte) : Prop where
  caller : callerPart s p
  names : namesCtx s p ctx x
  setLt : set.toNat < 64
  found : x.set? set.toNat = some e
  evicted : e.state = .evicted
  read : s.engLoad s.me list.toNat (4 + 4 * (x.imagesOf set.toNat).length) = .ok bs
  count : blk4 bs 0 = (x.imagesOf set.toNat).length
  nodup : (namedCores bs (x.imagesOf set.toNat).length).Nodup
  cores : ∀ n ∈ namedCores bs (x.imagesOf set.toNat).length, n < 4096 ∧ n / 64 ∈ p.trusses ∧ s.coreEnabled n = true

/-- The images of the set with the cores they come onto. -/
def Context.aims (x : Context) (set : Nat) (bs : List Byte) : List (Image × Nat) := (x.imagesOf set).zip (namedCores bs (x.imagesOf set).length)

/-- A set that is being restored. -/
def EvictionSet.restoring (e : EvictionSet) (aims : List (Nat × Nat)) : EvictionSet := { e with state := .restoring, targets := aims }

/-- The state in which a set comes back onto its cores. -/
def State.restoring (s : State) (x : Context) (set : Nat) (bs : List Byte) : State :=
  (s.updCores (namedCores bs (x.imagesOf set).length) (fun c => { c with run := .restoring })).updCtx x.id
    (fun y => y.updSet set (fun e => e.restoring (((x.imagesOf set).map (·.fromCore)).zip (namedCores bs (x.imagesOf set).length))))

/-- The checks of RESTORE up to those of the cores' stores. -/
theorem monRestore_eq (h : RestoreArgs s p ctx set list x e bs) : monRestore ctx set list s =
    if (namedCores bs (x.imagesOf set.toNat).length).any (fun n => (s.core n).unzeroed) = true ∨ (!s.accFits (x.aims set.toNat bs)) = true then refuseCall s 4
    else if (namedCores bs (x.imagesOf set.toNat).length).any (fun n => (s.core n).run != .free || (s.core n).unit.isSome) then refuseCall s 5
    else if !gangsKept (x.aims set.toNat bs) then refuseCall s 5
    else (0, none, s.restoring x set.toNat bs) := by
  have low : (namedCores bs (x.imagesOf set.toNat).length).any (fun n => decide (4096 ≤ n)) = false :=
    List.any_eq_false.2 fun n hn => by simpa using (h.cores n hn).1
  have own : (namedCores bs (x.imagesOf set.toNat).length).any (fun n => !p.trusses.contains (trussOf n) || !s.coreEnabled n) = false :=
    List.any_eq_false.2 fun n hn => by
      obtain ⟨-, ht, he⟩ := h.cores n hn
      simpa [trussOf, he] using ht
  have evicted : ¬ e.state ≠ .evicted := by simp [h.evicted]
  have count : ¬ blk4 bs 0 ≠ (x.imagesOf set.toNat).length := by simp [h.count]
  have distinct : ¬ (dedup (namedCores bs (x.imagesOf set.toNat).length)).length ≠ (namedCores bs (x.imagesOf set.toNat).length).length := by
    rw [dedup_of_nodup h.nodup]
    simp
  rw [monRestore, State.inPart_eq h.caller, if_neg (Nat.not_le.2 h.setLt)]
  simp only [State.partCtx_named h.names, h.found, if_neg evicted, h.read, if_neg count]
  unfold namedCores at low own distinct
  rw [low, own, if_neg distinct]
  rfl

theorem restore_unzeroed (h : RestoreArgs s p ctx set list x e bs) (hz : ∃ n ∈ namedCores bs (x.imagesOf set.toNat).length,
      (s.core n).run = .zeroing ∨ ((s.core n).run = .free ∧ (s.core n).lastLaunch ≠ none)) :
    exec (.restore ctx set list) s = .next (reply s 4) := by
  have call : monRestore ctx set list s = refuseCall s 4 := by
    obtain ⟨n, hn, hz⟩ := hz
    have unzeroed : (s.core n).unzeroed = true := by
      rcases hz with hz | ⟨hr, hl⟩
      · simp [Core.unzeroed, hz]
      · simp [Core.unzeroed, hr, Option.isSome_iff_ne_none, hl]
    rw [monRestore_eq h, if_pos (.inl (List.any_eq_true.2 ⟨n, hn, unzeroed⟩))]
  exact congrArg (fun r => Host.Outcome.next (answer r)) call

/-- A core among those that a run state is given. -/
theorem State.run_updCores {r : RunState} (ns : List Nat) : ∀ {s : State} {n : Nat}, (n ∈ ns ∨ (s.core n).run = r) →
    ((s.updCores ns (fun c => { c with run := r })).core n).run = r := by
  induction ns with
  | nil => exact fun h => h.resolve_left List.not_mem_nil
  | cons m ns ih =>
    intro s n h
    refine ih (s := s.updCore m (fun c => { c with run := r })) ?_
    by_cases hm : n = m
    · subst hm
      exact .inr (congrArg Core.run (State.core_updCore_same fun _ => rfl))
    · rw [State.core_updCore_other (fun _ => rfl) hm]
      exact h.imp_left fun h => (List.mem_cons.1 h).resolve_left hm

theorem State.contexts_updCores {f : Core → Core} (ns : List Nat) : ∀ s : State, (s.updCores ns f).contexts = s.contexts ∧ (s.updCores ns f).mem = s.mem := by
  induction ns with
  | nil => exact fun _ => ⟨rfl, rfl⟩
  | cons n ns ih =>
    intro s
    obtain ⟨hc, hm⟩ := ih (s.updCore n f)
    exact ⟨hc.trans (State.updCore_contexts _ _ _), hm.trans (State.updCore_mem _ _ _)⟩

theorem restore_restores (h : RestoreArgs s p ctx set list x e bs)
    (hfree : ∀ n ∈ namedCores bs (x.imagesOf set.toNat).length, (s.core n).run = .free ∧ (s.core n).unit = none ∧ (s.core n).lastLaunch = none)
    (hfits : s.accFits (x.aims set.toNat bs) = true) (hgangs : gangsKept (x.aims set.toNat bs) = true)
    (hme : s.me.id ∉ namedCores bs (x.imagesOf set.toNat).length) :
    ∃ t y e', exec (.restore ctx set list) s = .next t ∧ granted s t ∧ t.mem = s.mem ∧
      (∀ n ∈ namedCores bs (x.imagesOf set.toNat).length, (t.core n).run = .restoring) ∧
      t.ctx? ctx.toNat = some y ∧ y.set? set.toNat = some e' ∧ e'.state = .restoring ∧
      e'.targets = ((x.imagesOf set.toNat).map (·.fromCore)).zip (namedCores bs (x.imagesOf set.toNat).length) := by
  have call : monRestore ctx set list s = (0, none, s.restoring x set.toNat bs) := by
    have zeroed : ¬ ((namedCores bs (x.imagesOf set.toNat).length).any (fun n => (s.core n).unzeroed) = true ∨ (!s.accFits (x.aims set.toNat bs)) = true) := by
      rintro (hu | hu)
      · obtain ⟨n, hn, hu⟩ := List.any_eq_true.1 hu
        obtain ⟨hr, -, hl⟩ := hfree n hn
        simp [Core.unzeroed, hr, hl] at hu
      · simp [hfits] at hu
    have free : (namedCores bs (x.imagesOf set.toNat).length).any (fun n => (s.core n).run != .free || (s.core n).unit.isSome) = false :=
      List.any_eq_false.2 fun n hn => by
        obtain ⟨hr, hu, -⟩ := hfree n hn
        simp [hr, hu]
    rw [monRestore_eq h, if_neg zeroed, free, hgangs]
    rfl
  obtain ⟨-, hx, -⟩ := h.names
  have id := State.ctx?_id hx
  have cores := State.contexts_updCores (f := fun c => { c with run := .restoring }) (namedCores bs (x.imagesOf set.toNat).length) s
  have bound : (s.updCores (namedCores bs (x.imagesOf set.toNat).length) (fun c => { c with run := .restoring })).ctx? x.id = some x := by
    rw [State.ctx?, cores.1, id]
    exact hx
  have ctx : (s.restoring x set.toNat bs).ctx? x.id = some (x.updSet set.toNat (fun e => e.restoring
      (((x.imagesOf set.toNat).map (·.fromCore)).zip (namedCores bs (x.imagesOf set.toNat).length)))) :=
    State.ctx?_updCtx_same (fun _ => rfl) bound
  have found := Context.set?_updSet_same (x := x) (n := set.toNat) (g := fun e => e.restoring
    (((x.imagesOf set.toNat).map (·.fromCore)).zip (namedCores bs (x.imagesOf set.toNat).length))) fun _ => rfl
  have me : (s.restoring x set.toNat bs).me = s.me :=
    (State.me_updCores (f := fun c => { c with run := .restoring }) (fun _ => rfl) _ s).trans (by rw [List.count_eq_zero_of_not_mem hme]; rfl)
  have mem : (s.restoring x set.toNat bs).mem = s.mem := cores.2
  have runs (n : Nat) (hn : n ∈ namedCores bs (x.imagesOf set.toNat).length) : ((s.restoring x set.toNat bs).core n).run = .restoring :=
    State.run_updCores _ (.inl hn)
  generalize s.restoring x set.toNat bs = d at call ctx me mem runs
  rw [h.found] at found
  rw [id] at ctx
  refine ⟨reply d 0, _, _, congrArg (fun r => Host.Outcome.next (answer r)) call, congrArg (fun c : Core => c.setGpr 4 (BitVec.ofNat 64 0)) me, mem,
    fun n hn => ?_, ctx, found, rfl, rfl⟩
  rw [core_reply (f := Core.run) Core.setGpr_run, runs n hn]
end

/-- Settles O43: the calls one by one. -/
theorem contextCallsMoveContextsAndSets : Obligations.ContextCallsMoveContextsAndSets := by
  intro s p h
  refine ⟨fun root hf => ctxnew_binds h hf, fun root hf => ctxnew_full h hf, fun ctx x hx hs hn => ⟨ctxfree_destroys h hx hs hn, ?_⟩,
    fun ctx hlt hx => ctxfree_unknown h hlt hx, fun ctx addr x t hx ht => ?_, fun ctx addr t hlt hx ht => ctxstate_unknown h hlt hx ht, ?_,
    fun core set n at' hc hs ht hu hn hr hp => preemptClear_refused h hc hs ht hu hn hr hp,
    fun ctx set list hlt hs hx => restore_unknown h hlt hs hx, fun ctx set list x e bs hx hs he => ⟨fun hne => restore_not_evicted h hx hs he hne, ?_⟩⟩
  · intro l v n u hplans hone hl hstate hd hr hus hm hu hk hv hc hex
    exact ctxfree_zeroes h hx hs hn hplans hone hl hstate hd hr hus hu hk hv hc hex
  · refine ctxstate_named h hx (.trans (congrArg _ ?_) ht)
    refine congrArg₂ (· ++ ·) ?_ (List.map_congr_left fun n _ => ?_)
    · cases x.state <;> rfl
    · cases x.set? n with
      | none => rfl
      | some e =>
        dsimp only
        cases e.state <;> rfl
  · intro core set c u x hc hs ht hcore hid hu hg hr hx
    subst hcore
    have args : PreemptArgs s p core set u x := ⟨h, hc, hs, ht, hid, hu, hg, hr, hx⟩
    exact ⟨fun hp htags hstate hj => preemptSet_asks args hp htags hstate hj, fun hp => preemptSet_refused args hp,
      fun hp hh hm => preemptClear_resumes args hp hh hm, fun at' hp => preemptClear_leaves args hp⟩
  · intro ims cores hstate hread hcount hnodup hcores
    have args : RestoreArgs s p ctx set list x e bs := ⟨h, hx, hs, he, hstate, hread, hcount, hnodup, hcores⟩
    exact ⟨fun hz => restore_unzeroed args hz, fun hfree hfits hgangs hme => restore_restores args hfree hfits hgangs hme⟩

end Sys2Proof.Machine
end

section
/-!
SUPPORT. What a step of a running core does at a boundary (R57, R129, R229, R232; log 1).
-/
namespace Sys2Proof.Machine

open Sys2Proof

section
variable {s u : State} {k : Nat} {w : IWord}

/-! ## The fetch -/

theorem fetchM_misaligned (h : s.me.pc.toNat % 4 ≠ 0) : fetchM s = .error (.trap 2 s.me.pc) := by
  simp only [fetchM, M.bind_look, if_pos h, M.trap_apply]

/-- A word that no cached copy stands for is fetched from memory, and its line is cached. -/
theorem fetchM_uncached (aligned : s.me.pc.toNat % 4 = 0) (window : windowOf s.me.pc.toNat = .paged)
    (place : xlatM s.me.pc.toNat .fetch s = .ok (k, u)) (sound : u.eccError k 4 = false) (uncached : cachedBytes u.me.l1i k 4 = none) :
    fetchM s = .ok (BitVec.ofNat 32 (leVal (Memory.readBytes u.mem k 4)),
      u.updMe (fun c => { c with l1i := readLine u.mem c.l1i k (Memory.readBytes u.mem k 4) })) := by
  have only : dedup [Memory.readBytes u.mem k 4] = [Memory.readBytes u.mem k 4] := rfl
  simp only [fetchM, M.bind_look, aligned, window, ne_eq, not_true_eq_false, if_false]
  rw [M.bind_ok place]
  simp only [M.bind_look, sound, uncached, only, List.length_singleton, Nat.lt_irrefl, Bool.false_eq_true, if_false, pick]
  rfl

/-! ## The turn of a core -/

/-- A core has its turn in this step: nothing is agreed or due before it (log 1). -/
structure CoreTurn (s : State) : Prop where
  agenda : s.agenda = []
  frozen : s.frozen = false
  halted : s.boot.halted = none
  booted : 7 ≤ s.boot.stage
  turn : s.engineTurn = false

theorem State.takeAgenda_nil (h : s.agenda = []) : s.takeAgenda = none := by
  unfold State.takeAgenda
  rw [h]
  cases s.frozen <;> rfl

theorem step_of_coreTurn (h : CoreTurn s) : step s = thenDo State.afterTurn (coreStep s) := by
  simp only [step, State.takeAgenda_nil h.agenda, h.frozen, h.halted, h.turn, Nat.not_lt.2 h.booted, Bool.false_eq_true, if_false]

/-- The core is at a boundary of its own instruction stream. -/
structure AtBoundary (s : State) : Prop where
  runs : s.canRun = true
  quiet : s.asyncDue = false
  leads : s.isFollower = false

theorem coreStep_fetched {v : State} (h : AtBoundary s) (fetched : fetchM s = .ok (w, v)) :
    coreStep s = thenDo (State.afterLeader w s.me.pc s.me.user.diverge) (runWord w v) := by
  simp only [coreStep, h.runs, h.quiet, h.leads, fetched, Bool.not_true, Bool.false_eq_true, if_false]

theorem coreStep_fetch_trap {c : Nat} {v : Word} (h : AtBoundary s) (fetched : fetchM s = .error (.trap c v)) :
    coreStep s = .next (s.takeTrap (BitVec.ofNat 5 c).toNat v) := by
  simp only [coreStep, h.runs, h.quiet, h.leads, fetched, Bool.not_true, Bool.false_eq_true, if_false]
  rfl

/-- Outside a gang of more than one core nothing is forwarded (R92). -/
theorem State.afterLeader_single {pc : Word} {split : Bool} (h : ∀ g, s.me.unit = some g → g.gangSize ≤ 1) :
    s.afterLeader w pc split = s := by
  unfold State.afterLeader
  split
  · next g hg => exact if_pos (.inl (h g hg))
  · rfl

/-- The step of a core that has fetched a word: what the word does, what the leader of a gang forwards, and one cycle. -/
theorem step_fetched {v t : State} (turn : CoreTurn s) (boundary : AtBoundary s) (fetched : fetchM s = .ok (w, v))
    (ran : runWord w v = .next t) : step s = .next (t.afterLeader w s.me.pc s.me.user.diverge).afterTurn := by
  rw [step_of_coreTurn turn, coreStep_fetched boundary fetched, ran]
  rfl

end

/-! ## Words -/

theorem runWord_decoded {s : State} {w : IWord} {i : Instr} (h : decode w = .ok i) : runWord w s = exec i s := by
  simp only [runWord, h]

theorem runWord_undecoded {s : State} {w : IWord} {e : DecodeError} (h : decode w = .error e) :
    runWord w s = exec (.illegalInstruction 0 (w.zeroExtend 64)) s := by
  simp only [runWord, h]
  rfl

/-! ## The agenda -/

@[simp] theorem State.switchTo_own (s : State) : s.switchTo s.me.id = s := if_pos rfl

/-- An agreed step of the current core is its instruction. -/
theorem onCore_own {s t : State} {f : State → Host.Outcome State Fault Refusal} (h : f s = .next t) (own : t.me.id = s.me.id) :
    onCore s.me.id f s = .next t := by
  simp only [onCore, State.switchTo_own, h]
  rw [← own, State.switchTo_own]

/-- Settles O57: the fetch, what the word it gives does, and the first entry of the agenda. -/
theorem stepRunsTheDecodedInstruction : Obligations.StepRunsTheDecodedInstruction := by
  refine ⟨fun s agenda frozen halted booted engines runs quiet leads => ?_, fun s c i rest agenda frozen own => ?_, fun s agenda frozen => ?_⟩
  · have turn : CoreTurn s := ⟨agenda, frozen, halted, booted, engines⟩
    have boundary : AtBoundary s := ⟨runs, quiet, leads⟩
    refine ⟨fun k u w aligned window place sound uncached hw => ?_, fun misaligned => ?_⟩
    · have fetched := fetchM_uncached aligned window place sound uncached
      rw [← hw] at fetched
      refine ⟨fun i hi => ?_, fun e he => ?_⟩
      · obtain ⟨t, ran, -⟩ := exec_goes i (u.updMe fun c => { c with l1i := readLine u.mem c.l1i k (Memory.readBytes u.mem k 4) })
        have stepped := step_fetched turn boundary fetched ((runWord_decoded hi).trans ran)
        refine ⟨t, ran, stepped, fun single => ?_⟩
        rw [stepped, State.afterLeader_single single]
        rfl
      · exact ⟨_, rfl, step_fetched turn boundary fetched (runWord_undecoded he)⟩
    · rw [step_of_coreTurn turn, coreStep_fetch_trap boundary (fetchM_misaligned misaligned)]
      rfl
  · subst own
    obtain ⟨t, ran, -⟩ := exec_goes i { s with agenda := rest }
    have taken : s.takeAgenda = some ((s.me.id, i), { s with agenda := rest }) := by
      simp only [State.takeAgenda, frozen, agenda, Bool.false_eq_true, if_false]
    refine ⟨t, ran, fun same => ?_⟩
    simp only [step, taken]
    exact onCore_own (s := { s with agenda := rest }) ran same
  · simp only [step, State.takeAgenda_nil agenda, frozen, if_true]

end Sys2Proof.Machine
end

section
/-!
SUPPORT. Triggers (R57, R61, R167), and how postings become tickets (R169, R170; log 25).
-/
namespace Sys2Proof.Machine

open Sys2Proof Sys2Proof.Claims

section
variable {s t u : State} {p : Plan} {m : PlanMember} {x : Posting} {handle : Nat} {va arg : Word}

/-! ## Triggers -/

/-- What a trigger of a member's handle needs (R61, R167). -/
def TriggerGood (s : State) (handle : Nat) (p : Plan) (m : PlanMember) (arg : Word) : Prop :=
  s.me.freeing handle = false ∧ arg.toNat % 8 = 0 ∧ m.outstanding.length < p.common.inst ∧
    s.argOk s.me m.loc.src (srcBytes p.common) arg = true ∧ s.argOk s.me m.loc.dst (dstBytes p.common) arg = true

/-- The next instance of a member, with its argument. -/
def PlanMember.trigger (m : PlanMember) (k : Nat) (arg : Word) : PlanMember :=
  { m with triggered := k + 1, outstanding := m.outstanding ++ [(k, arg)] }

/-- A trigger is checked whole before anything of it happens. -/
theorem triggerM_named (h : s.memberOf s.me handle = some (p, m)) :
    (¬ TriggerGood s handle p m arg → triggerM handle va arg s = .error (.trap 3 va)) ∧
    (TriggerGood s handle p m arg → triggerM handle va arg s = .ok ((),
      { s with coll := s.coll.updMember p.common.group m.rank (fun n => n.trigger m.triggered arg) }.enterPosting
        { group := p.common.group, inst := m.triggered, rank := m.rank })) := by
  have check : (!s.me.freeing handle && decide (arg.toNat % 8 = 0) && decide (m.outstanding.length < p.common.inst) &&
      s.argOk s.me m.loc.src (srcBytes p.common) arg && s.argOk s.me m.loc.dst (dstBytes p.common) arg) = true ↔ TriggerGood s handle p m arg := by
    simp [TriggerGood, and_assoc]
  simp only [triggerM, M.bind_look, h]
  refine ⟨fun bad => ?_, fun good => ?_⟩
  · rw [Bool.eq_false_iff.2 (mt check.1 bad)]
    rfl
  · rw [check.2 good]
    rfl

theorem triggerM_unnamed (h : s.memberOf s.me handle = none) : triggerM handle va arg s = .error (.trap 3 va) := by
  simp only [triggerM, M.bind_look, h, M.trap_apply]

/-- The member a handle names is one of its plan's, and the plan is one of this hub's. -/
theorem State.memberOf_mem {c : Core} (h : s.memberOf c handle = some (p, m)) : p ∈ s.coll.plans ∧ m ∈ p.members := by
  obtain ⟨q, hq, named⟩ := List.exists_of_findSome?_eq_some h
  obtain ⟨n, found, e⟩ := Option.map_eq_some_iff.1 named
  cases e
  refine ⟨hq, ?_⟩
  simp only [Plan.memberFor] at found
  split at found
  · cases found
  · split at found
    · next own =>
      split at found
      · cases found
      · cases found
        exact (List.mem_filter.1 (List.mem_of_find?_eq_some own)).1
    · exact (List.mem_filter.1 (List.mem_of_find?_eq_some found)).1

/-- A member of a plan is changed where it stands. -/
theorem Collective.updMember_mem {c : Collective} {f : PlanMember → PlanMember} (hp : p ∈ c.plans) (hm : m ∈ p.members) :
    ∃ q ∈ (c.updMember p.common.group m.rank f).plans, q.common = p.common ∧ f m ∈ q.members :=
  ⟨_, List.mem_map.2 ⟨p, hp, if_pos (beq_self_eq_true _)⟩, rfl, List.mem_map.2 ⟨m, hm, if_pos (beq_self_eq_true _)⟩⟩

section
variable {rs ra : BitVec 5} {off : BitVec 13}

/-- SD to the trigger window (R61). -/
theorem storeDBody_trigger (hs : s.me.plainReg rs = true) (ha : s.me.plainReg ra = true)
    (window : windowOf (effAddr (s.gr ra) off).toNat = .trigger handle) :
    storeDBody rs ra off s = if (effAddr (s.gr ra) off).toNat % 8 ≠ 0 then .error (.trap 2 (effAddr (s.gr ra) off))
      else triggerM handle (effAddr (s.gr ra) off) (s.gr rs) s := by
  simp only [storeDBody]
  rw [M.bind_ok (readReg_plain ha), M.bind_ok (readReg_plain hs), window]
  dsimp only
  split <;> rfl

theorem exec_sd : exec (.sd rs ra off) s = runI (.sd rs ra off) (storeDBody rs ra off) s := rfl

end

theorem triggersPostTheNextInstance : TriggersPostTheNextInstance := by
  intro s handle va arg
  refine ⟨triggerM_unnamed, fun p m h => ?_, fun rs ra off hs ha hva window harg => ?_⟩
  · obtain ⟨refused, posted⟩ := triggerM_named (va := va) (arg := arg) h
    refine ⟨refused, fun good => ⟨_, posted good, rfl, rfl, ?_, rfl, rfl⟩⟩
    obtain ⟨hp, hm⟩ := State.memberOf_mem h
    obtain ⟨q, hq, common, member⟩ := Collective.updMember_mem (f := fun n => n.trigger m.triggered arg) hp hm
    exact ⟨q, hq, _, member, common, rfl, rfl, rfl⟩
  · subst hva harg
    rw [exec_sd]
    have body := storeDBody_trigger (off := off) hs ha window
    refine ⟨fun odd => run_trap rfl ?_, fun even trapped => run_trap rfl ?_, fun even t triggered => runI_ok rfl ?_⟩
    · exact body.trans (if_pos odd)
    · exact (body.trans (if_neg (not_not.2 even))).trans trapped
    · exact (body.trans (if_neg (not_not.2 even))).trans triggered

/-! ## What tells the hubs and joins the stream -/

/-- With a stream and an outbox of its own. -/
def State.withNews (s : State) (stream : List Ticket) (outbox : List OutItem) : State :=
  { s with coll := { s.coll with stream := stream }, outbox := outbox }

/-- Nothing changes but that tickets join the stream and messages the outbox. -/
structure Announces (s t : State) : Prop where
  frame : t = s.withNews t.coll.stream t.outbox
  stream : s.coll.stream ⊆ t.coll.stream
  outbox : s.outbox ⊆ t.outbox

theorem Announces.refl : Announces s s := ⟨rfl, List.Subset.refl _, List.Subset.refl _⟩

/-- What the stream and the outbox have no part in stays. -/
theorem Announces.keeps {α : Type} (h : Announces s t) (f : State → α) (hf : ∀ stream outbox, f (s.withNews stream outbox) = f s) : f t = f s :=
  (congrArg f h.frame).trans (hf _ _)

theorem Announces.trans (h : Announces s t) (k : Announces t u) : Announces s u where
  frame := k.frame.trans (h.keeps (State.withNews · u.coll.stream u.outbox) fun _ _ => rfl)
  stream := List.Subset.trans h.stream k.stream
  outbox := List.Subset.trans h.outbox k.outbox

theorem Announces.sendFor {group : Nat} {msg : OutMsg} : Announces s (s.sendFor group msg) :=
  ⟨rfl, List.Subset.refl _, List.subset_append_left _ _⟩

theorem State.sendFor_mem_outbox (group : Nat) (msg : OutMsg) : ⟨s.groupPart group, msg⟩ ∈ (s.sendFor group msg).outbox :=
  List.mem_append_right _ (List.mem_singleton_self _)

theorem Announces.foldl {α : Type} {f : State → α → State} (hf : ∀ s a, Announces s (f s a)) (l : List α) : Announces s (l.foldl f s) := by
  induction l generalizing s with
  | nil => exact .refl
  | cons a l ih => exact (hf s a).trans ih

/-- What one element of a list tells is told when the whole list has been gone through. -/
theorem Announces.foldl_at {α : Type} {f : State → α → State} (hf : ∀ s a, Announces s (f s a)) {l : List α} {a : α} (ha : a ∈ l) :
    ∃ u, Announces s u ∧ Announces (f u a) (l.foldl f s) := by
  induction l generalizing s with
  | nil => cases ha
  | cons b l ih =>
    cases ha with
    | head => exact ⟨s, .refl, .foldl hf l⟩
    | tail _ ha =>
      obtain ⟨u, before, after⟩ := ih (s := f s b) ha
      exact ⟨u, (hf s b).trans before, after⟩

/-! ## Tickets -/

theorem Collective.domainOf_own (c : Collective) (own : Nat) : c.domainOf own own = c.domain := if_pos rfl

/-- A ticket goes to one package of the domain: here it joins the stream (R170). -/
def State.ticketTo (tk : Ticket) (s : State) (k : Nat) : State :=
  if k = s.pkgId then { s with coll := { s.coll with stream := s.coll.stream ++ [tk] } } else s.sendFor tk.group (.ticket k tk)

theorem State.appendTicket_eq (tk : Ticket) :
    s.appendTicket tk = (tk.pkgs.filter (fun k => s.coll.domainOf s.pkgId k == s.coll.domain)).foldl (State.ticketTo tk) s := rfl

theorem Announces.ticketTo (tk : Ticket) (s : State) (k : Nat) : Announces s (s.ticketTo tk k) := by
  unfold State.ticketTo
  split
  · exact ⟨rfl, List.subset_append_left _ _, List.Subset.refl _⟩
  · exact .sendFor

theorem Announces.appendTicket (tk : Ticket) (s : State) : Announces s (s.appendTicket tk) := .foldl (.ticketTo tk) _

/-- A ticket reaches every package it names in the domain of the coordinator that appends it. -/
theorem State.appendTicket_reaches {tk : Ticket} {k : Nat} (hk : k ∈ tk.pkgs) (near : s.coll.domainOf s.pkgId k = s.coll.domain) :
    (k = s.pkgId → tk ∈ (s.appendTicket tk).coll.stream) ∧
    (k ≠ s.pkgId → ⟨s.groupPart tk.group, .ticket k tk⟩ ∈ (s.appendTicket tk).outbox) := by
  obtain ⟨u, before, after⟩ := Announces.foldl_at (s := s) (Announces.ticketTo tk) (List.mem_filter.2 ⟨hk, beq_iff_eq.2 near⟩ :
    k ∈ tk.pkgs.filter (fun k => s.coll.domainOf s.pkgId k == s.coll.domain))
  have own : u.pkgId = s.pkgId := before.keeps State.pkgId fun _ _ => rfl
  have part : u.groupPart tk.group = s.groupPart tk.group := before.keeps (State.groupPart · tk.group) fun _ _ => rfl
  refine ⟨fun here => after.stream ?_, fun there => after.outbox ?_⟩
  · rw [State.ticketTo, if_pos (here.trans own.symm)]
    exact List.mem_append_right _ (List.mem_singleton_self _)
  · rw [State.ticketTo, if_neg (fun e => there (e.trans own)), ← part]
    exact State.sendFor_mem_outbox _ _

/-- A ticket for this package alone. -/
theorem State.appendTicket_alone {tk : Ticket} (h : tk.pkgs = [s.pkgId]) :
    s.appendTicket tk = { s with coll := { s.coll with stream := s.coll.stream ++ [tk] } } := by
  have near : [s.pkgId].filter (fun k => s.coll.domainOf s.pkgId k == s.coll.domain) = [s.pkgId] := by simp [Collective.domainOf_own]
  rw [State.appendTicket_eq, h, near]
  exact if_pos rfl

/-! ## The ticket of an instance -/

theorem mem_dedup {α : Type} [BEq α] [LawfulBEq α] {a : α} {l : List α} : a ∈ dedup l ↔ a ∈ l := by
  induction l with
  | nil => rfl
  | cons b l ih =>
    by_cases h : a = b
    · simp [dedup, h]
    · simp [dedup, h, ih]

/-- The packages of a plan's members. -/
def Plan.pkgs (p : Plan) : List Nat := dedup (p.memberList.map (·.1))

/-- The ticket of a domain: its own count (R170). -/
def State.ownTicket (s : State) (p : Plan) (inst : Nat) : Ticket := ⟨p.common.group, inst, BitVec.ofNat 64 (s.coll.domainCount + 1), p.pkgs⟩

/-- The ticket of the root: bit 63, and the root's count (R170). -/
def State.rootTicket (s : State) (p : Plan) (inst : Nat) : Ticket :=
  ⟨p.common.group, inst, 0x8000000000000000 ||| BitVec.ofNat 64 (s.coll.rootCount + 1), p.pkgs⟩

/-- A root ticket goes to the coordinator of one domain: here it is appended (R170). -/
def State.rootTicketTo (tk : Ticket) (s : State) (d : Nat) : State :=
  if s.domainCoord d tk.pkgs = s.pkgId then s.appendTicket tk else s.sendFor tk.group (.rootTicket (s.domainCoord d tk.pkgs) tk)

theorem State.rootTicketTo_here {tk : Ticket} {d : Nat} (h : s.domainCoord d tk.pkgs = s.pkgId) : s.rootTicketTo tk d = s.appendTicket tk :=
  if_pos h

theorem State.rootTicketTo_there {tk : Ticket} {d : Nat} (h : s.domainCoord d tk.pkgs ≠ s.pkgId) :
    s.rootTicketTo tk d = s.sendFor tk.group (.rootTicket (s.domainCoord d tk.pkgs) tk) := if_neg h

theorem Announces.rootTicketTo (tk : Ticket) (s : State) (d : Nat) : Announces s (s.rootTicketTo tk d) := by
  unfold State.rootTicketTo
  split
  · exact .appendTicket tk s
  · exact .sendFor

/-- The domain coordinator counts a ticket (R170). -/
def State.countOwn (s : State) : State := { s with coll := { s.coll with domainCount := s.coll.domainCount + 1 } }

/-- The root counts a ticket (R170). -/
def State.countRoot (s : State) : State := { s with coll := { s.coll with rootCount := s.coll.rootCount + 1 } }

theorem State.issueTicket_domain {inst : Nat} (h : ∀ k ∈ p.pkgs, s.coll.domainOf s.pkgId k = s.coll.domain) :
    s.issueTicket p inst = s.countOwn.appendTicket (s.ownTicket p inst) := by
  refine if_pos (List.all_eq_true.2 fun d hd => ?_)
  obtain ⟨k, hk, rfl⟩ := List.mem_map.1 (mem_dedup.1 hd)
  exact beq_iff_eq.2 (h k hk)

theorem State.issueTicket_root {inst : Nat} (h : ∃ k ∈ p.pkgs, s.coll.domainOf s.pkgId k ≠ s.coll.domain) :
    s.issueTicket p inst =
      (dedup (p.pkgs.map (s.coll.domainOf s.pkgId))).foldl (State.rootTicketTo (s.rootTicket p inst)) s.countRoot := by
  obtain ⟨k, hk, far⟩ := h
  refine if_neg fun near => far ?_
  have all := List.all_eq_true.1 near (s.coll.domainOf s.pkgId k) (mem_dedup.2 (List.mem_map_of_mem hk))
  exact beq_iff_eq.1 all

/-- What the ticket of an instance leaves, its messages carried as the plan's partition's. -/
structure Ticketed (s t : State) (p : Plan) (inst : Nat) (way : Option Nat) : Prop where
  domain : (∀ k ∈ p.pkgs, s.coll.domainOf s.pkgId k = s.coll.domain) →
    t.coll.domainCount = s.coll.domainCount + 1 ∧ t.coll.rootCount = s.coll.rootCount ∧
    (s.pkgId ∈ p.pkgs → s.ownTicket p inst ∈ t.coll.stream) ∧ ∀ k ∈ p.pkgs, k ≠ s.pkgId → ⟨way, .ticket k (s.ownTicket p inst)⟩ ∈ t.outbox
  root : (∃ k ∈ p.pkgs, s.coll.domainOf s.pkgId k ≠ s.coll.domain) →
    t.coll.rootCount = s.coll.rootCount + 1 ∧ t.coll.domainCount = s.coll.domainCount ∧
    ∀ k ∈ p.pkgs, let hub := s.domainCoord (s.coll.domainOf s.pkgId k) p.pkgs
      (hub ≠ s.pkgId → ⟨way, .rootTicket hub (s.rootTicket p inst)⟩ ∈ t.outbox) ∧
      (hub = s.pkgId → s.pkgId ∈ p.pkgs → s.rootTicket p inst ∈ t.coll.stream)

theorem State.issueTicket_ticketed (s : State) (p : Plan) (inst : Nat) :
    Ticketed s (s.issueTicket p inst) p inst (s.groupPart p.common.group) where
  domain := fun near => by
    rw [State.issueTicket_domain near]
    have told := Announces.appendTicket (s.ownTicket p inst) s.countOwn
    have reaches (k : Nat) (hk : k ∈ p.pkgs) := State.appendTicket_reaches (s := s.countOwn) (tk := s.ownTicket p inst) hk (near k hk)
    exact ⟨told.keeps (·.coll.domainCount) fun _ _ => rfl, told.keeps (·.coll.rootCount) fun _ _ => rfl, fun own => (reaches _ own).1 rfl,
      fun k hk => (reaches k hk).2⟩
  root := fun far => by
    rw [State.issueTicket_root far]
    have told := Announces.foldl (s := s.countRoot) (Announces.rootTicketTo (s.rootTicket p inst)) (dedup (p.pkgs.map (s.coll.domainOf s.pkgId)))
    refine ⟨told.keeps (·.coll.rootCount) fun _ _ => rfl, told.keeps (·.coll.domainCount) fun _ _ => rfl, fun k hk => ?_⟩
    obtain ⟨u, before, after⟩ := Announces.foldl_at (s := s.countRoot) (Announces.rootTicketTo (s.rootTicket p inst))
      (mem_dedup.2 (List.mem_map_of_mem (f := s.coll.domainOf s.pkgId) hk))
    have own : u.pkgId = s.pkgId := before.keeps State.pkgId fun _ _ => rfl
    have hub : u.domainCoord (s.coll.domainOf s.pkgId k) p.pkgs = s.domainCoord (s.coll.domainOf s.pkgId k) p.pkgs :=
      before.keeps (State.domainCoord · _ _) fun _ _ => rfl
    have part : u.groupPart p.common.group = s.groupPart p.common.group := before.keeps (State.groupPart · _) fun _ _ => rfl
    refine ⟨fun there => after.outbox ?_, fun here named => after.stream ?_⟩
    · rw [State.rootTicketTo_there (tk := s.rootTicket p inst) (fun e => there (hub.symm.trans (e.trans own))), ← part, ← hub]
      exact State.sendFor_mem_outbox _ _
    · rw [State.rootTicketTo_here (tk := s.rootTicket p inst) (hub.trans (here.trans own.symm))]
      exact (State.appendTicket_reaches (own ▸ named) (Collective.domainOf_own _ _)).1 rfl

/-- A ticket changes only the count, the stream and the outbox. -/
theorem State.issueTicket_keeps {α : Type} (f : State → α) (own : f s.countOwn = f s) (root : f s.countRoot = f s)
    (news : ∀ t stream outbox, f (t.withNews stream outbox) = f t) (p : Plan) (inst : Nat) : f (s.issueTicket p inst) = f s := by
  by_cases h : ∀ k ∈ p.pkgs, s.coll.domainOf s.pkgId k = s.coll.domain
  · rw [State.issueTicket_domain h]
    exact ((Announces.appendTicket _ _).keeps f (news _)).trans own
  · rw [State.issueTicket_root (by simpa using h)]
    exact ((Announces.foldl (Announces.rootTicketTo _) _).keeps f (news _)).trans root

theorem State.issueTicket_outbox (p : Plan) (inst : Nat) : s.outbox ⊆ (s.issueTicket p inst).outbox := by
  by_cases h : ∀ k ∈ p.pkgs, s.coll.domainOf s.pkgId k = s.coll.domain
  · rw [State.issueTicket_domain h]
    exact (Announces.appendTicket (s.ownTicket p inst) s.countOwn).outbox
  · rw [State.issueTicket_root (by simpa using h)]
    exact (Announces.foldl (s := s.countRoot) (Announces.rootTicketTo _) _).outbox

/-! ## The coordinator's table -/

/-- The ranks whose postings of an instance stand in the coordinator's table (R169). -/
def State.ranksOf (s : State) (x : Posting) : List Nat :=
  match s.coll.coordTable.find? (fun e => e.1 == x.group && e.2.1 == x.inst) with | some e => e.2.2 | none => []

/-- The table without an instance, or with its ranks anew. -/
def State.tabled (s : State) (x : Posting) (entry : List (Nat × Nat × List Nat)) : State :=
  { s with coll := { s.coll with coordTable := s.coll.coordTable.filter (fun e => !(e.1 == x.group && e.2.1 == x.inst)) ++ entry } }

theorem State.tabled_find (x : Posting) (entry : List (Nat × Nat × List Nat)) :
    (s.tabled x entry).coll.coordTable.find? (fun e => e.1 == x.group && e.2.1 == x.inst) =
      entry.find? (fun e => e.1 == x.group && e.2.1 == x.inst) := by
  have gone : (s.coll.coordTable.filter (fun e => !(e.1 == x.group && e.2.1 == x.inst))).find? (fun e => e.1 == x.group && e.2.1 == x.inst) =
      none := List.find?_eq_none.2 fun e he => by simpa only [Bool.not_eq_true', Bool.not_eq_true] using (List.mem_filter.1 he).2
  rw [State.tabled, List.find?_append, gone, Option.none_or]

/-- The ranks of an instance stand in the table until they are all there, and then bring its ticket (R169). -/
def State.acceptRanks (s : State) (p : Plan) (x : Posting) (ranks : List Nat) : State :=
  let full := decide (p.common.nmem ≤ ranks.length)
  let t := s.tabled x (if full then [] else [(x.group, x.inst, ranks)])
  if full then t.issueTicket p x.inst else t

theorem State.acceptPosting_new (fresh : x.rank ∉ s.ranksOf x) : s.acceptPosting p x = s.acceptRanks p x (s.ranksOf x ++ [x.rank]) := by
  have ranks : (if (s.ranksOf x).contains x.rank then s.ranksOf x else s.ranksOf x ++ [x.rank]) = s.ranksOf x ++ [x.rank] :=
    if_neg (by simpa using fresh)
  exact congrArg (s.acceptRanks p x) ranks

theorem State.acceptRanks_waits {ranks : List Nat} (h : ranks.length < p.common.nmem) :
    s.acceptRanks p x ranks = s.tabled x [(x.group, x.inst, ranks)] := by
  simp [State.acceptRanks, Nat.not_le.2 h]

theorem State.acceptRanks_full {ranks : List Nat} (h : p.common.nmem ≤ ranks.length) :
    s.acceptRanks p x ranks = (s.tabled x []).issueTicket p x.inst := by
  simp [State.acceptRanks, h]

/-- What a coordinator leaves that takes a posting it has not had (R169, R170). -/
structure Accepted (s t : State) (p : Plan) (x : Posting) : Prop where
  mem : t.mem = s.mem
  locals : t.coll.localPostings = s.coll.localPostings
  outbox : s.outbox ⊆ t.outbox
  waits : (s.ranksOf x).length + 1 < p.common.nmem → t.coll.stream = s.coll.stream ∧
    t.coll.coordTable.find? (fun e => e.1 == x.group && e.2.1 == x.inst) = some (x.group, x.inst, s.ranksOf x ++ [x.rank])
  gone : p.common.nmem ≤ (s.ranksOf x).length + 1 → t.coll.coordTable.find? (fun e => e.1 == x.group && e.2.1 == x.inst) = none
  ticketed : p.common.nmem ≤ (s.ranksOf x).length + 1 → Ticketed s t p x.inst (s.groupPart p.common.group)

theorem State.acceptPosting_accepted (fresh : x.rank ∉ s.ranksOf x) : Accepted s (s.acceptPosting p x) p x := by
  have length : (s.ranksOf x ++ [x.rank]).length = (s.ranksOf x).length + 1 := List.length_append
  rw [State.acceptPosting_new fresh]
  by_cases h : p.common.nmem ≤ (s.ranksOf x).length + 1
  · rw [State.acceptRanks_full (h.trans_eq length.symm)]
    have ticketed := State.issueTicket_ticketed (s.tabled x []) p x.inst
    refine ⟨State.issueTicket_mem _ _ _, ?_, State.issueTicket_outbox (s := s.tabled x []) _ _, fun hw => absurd h (Nat.not_le.2 hw), fun _ => ?_,
      fun _ => ⟨ticketed.domain, ticketed.root⟩⟩
    · exact State.issueTicket_keeps (·.coll.localPostings) rfl rfl (fun _ _ _ => rfl) p x.inst
    · rw [State.issueTicket_keeps (s := s.tabled x []) (·.coll.coordTable) rfl rfl (fun _ _ _ => rfl) p x.inst]
      exact State.tabled_find x []
  · rw [State.acceptRanks_waits (length.trans_lt (Nat.not_le.1 h))]
    refine ⟨rfl, rfl, List.Subset.refl _, fun _ => ⟨rfl, (State.tabled_find x _).trans ?_⟩, fun hw => absurd hw h, fun hw => absurd hw h⟩
    simp

/-! ## The arrival of a posting -/

/-- The package a posting comes from. -/
def State.sender (s : State) (p : Plan) (x : Posting) : Nat := match p.memberList[x.rank]? with | some m => m.1 | none => s.pkgId

/-- A posting of a live plan that has not been freed while it was refused (R169, R177). -/
structure Arrives (s : State) (p : Plan) (x : Posting) : Prop where
  plan : s.coll.plans.find? (fun p => p.common.group == x.group && p.live) = some p
  held : s.refusedAndFreed p x = false

theorem Arrives.group (h : Arrives s p x) : p.common.group = x.group := by
  have found := List.find?_some h.plan
  simp only [Bool.and_eq_true, beq_iff_eq] at found
  exact found.1

theorem Arrives.behind (h : Arrives s p x) (own : s.sender p x = s.pkgId) (first : s.firstPosting x = false) : s.postingArrive x = s := by
  simp only [State.postingArrive, h.plan]
  exact if_pos ⟨own, first⟩

/-- A posting that does not stand behind another is refused or accepted by the role of the hub. -/
theorem Arrives.answered (h : Arrives s p x) (first : s.sender p x = s.pkgId → s.firstPosting x = true) :
    s.postingArrive x = if s.coordinates p.memberList = false then s.answerPosting (s.sender p x) x 1
      else (s.answerPosting (s.sender p x) x 0).acceptPosting p x := by
  have stands : ¬ (s.sender p x = s.pkgId ∧ s.firstPosting x = false) := fun ⟨own, behind⟩ => by
    rw [first own] at behind
    cases behind
  simp only [State.postingArrive, h.plan, h.held]
  refine (if_neg stands).trans ?_
  cases s.coordinates p.memberList <;> rfl

theorem Arrives.refused (h : Arrives s p x) (first : s.sender p x = s.pkgId → s.firstPosting x = true)
    (role : s.coordinates p.memberList = false) : s.postingArrive x = s.answerPosting (s.sender p x) x 1 :=
  (h.answered first).trans (if_pos role)

theorem State.answerPosting_own (code : Nat) : s.answerPosting s.pkgId x code = s.postingReply x code := if_pos rfl

theorem State.answerPosting_far {pkg : Nat} (h : pkg ≠ s.pkgId) (code : Nat) :
    s.answerPosting pkg x code = s.sendFor x.group (.postingAnswer pkg x code) := if_neg h

/-- With local postings and an outbox of its own. -/
def State.answering (s : State) (postings : List LocalPosting) (outbox : List OutItem) : State :=
  { s with coll := { s.coll with localPostings := postings }, outbox := outbox }

/-- A posting that the coordinator accepts: the hub it came from is answered first. -/
theorem Arrives.accepted (h : Arrives s p x) (first : s.sender p x = s.pkgId → s.firstPosting x = true)
    (role : s.coordinates p.memberList = true) : ∃ postings outbox,
      s.postingArrive x = (s.answering postings outbox).acceptPosting p x ∧
      (s.sender p x = s.pkgId → postings = removeFirst (fun l => l.posting == x) s.coll.localPostings) ∧
      (s.sender p x ≠ s.pkgId → postings = s.coll.localPostings ∧ ⟨s.groupPart x.group, .postingAnswer (s.sender p x) x 0⟩ ∈ outbox) := by
  have arrives : s.postingArrive x = (s.answerPosting (s.sender p x) x 0).acceptPosting p x := (h.answered first).trans (if_neg (by simp [role]))
  by_cases own : s.sender p x = s.pkgId
  · rw [own, State.answerPosting_own] at arrives
    exact ⟨_, _, arrives, fun _ => rfl, fun far => absurd own far⟩
  · rw [State.answerPosting_far own] at arrives
    exact ⟨_, _, arrives, fun e => absurd e own, fun _ => ⟨rfl, State.sendFor_mem_outbox _ _⟩⟩

/-! ## The resend of a refused posting -/

/-- A refused posting of the local hub, whose plan is still there (R169, R177). -/
structure Refused (s : State) (hub : Nat) (l : LocalPosting) (q : Plan) : Prop where
  first : s.coll.localPostings.find? (fun l => s.postingHub l.posting == hub) = some l
  refused : l.refusedAt.isSome = true
  plan : s.planOf l.posting.group = some q
  held : s.refusedAndFreed q l.posting = false

theorem Refused.hub {hub : Nat} {l : LocalPosting} {q : Plan} (h : Refused s hub l q) : s.postingHub l.posting = hub :=
  beq_iff_eq.1 (List.find?_some (p := fun l : LocalPosting => s.postingHub l.posting == hub) h.first)

theorem Refused.resend {hub : Nat} {l : LocalPosting} {q : Plan} (h : Refused s hub l q) : s.postingResend hub = s.sendPosting l.posting := by
  have refused : l.refusedAt.isNone = false := by simpa using h.refused
  simp only [State.postingResend, h.first, refused, h.plan, h.held]
  rfl

theorem State.sendPosting_here (h : s.postingHub x = s.pkgId) : s.sendPosting x = s.postingArrive x := if_pos h

theorem State.sendPosting_there (h : s.postingHub x ≠ s.pkgId) : s.sendPosting x =
    (s.updPosting x (fun l => { l with sent := true, refusedAt := none })).sendFor x.group (.posting (s.postingHub x) x) := if_neg h

/-! ## The move of a role -/

/-- A plan joins the records with its round, and no round is lost. -/
theorem Collective.takePlan_rounds (c : Collective) (r : RolePlan) :
    (∃ q ∈ (c.takePlan r).plans, q.round = r.round) ∧ ∀ q ∈ c.plans, ∃ q' ∈ (c.takePlan r).plans, q'.round = q.round := by
  unfold Collective.takePlan
  split
  · next known =>
    obtain ⟨q, hq, same⟩ := List.any_eq_true.1 known
    have kept (q : Plan) (hq : q ∈ c.plans) : ∃ q' ∈ c.plans.map (fun (p : Plan) =>
        if p.round == r.round then { p with freedRanks := dedup (p.freedRanks ++ r.freedRanks) } else p), q'.round = q.round := by
      refine ⟨_, List.mem_map_of_mem hq, ?_⟩
      split <;> rfl
    obtain ⟨q', hq', round⟩ := kept q hq
    exact ⟨⟨q', hq', round.trans (beq_iff_eq.1 same)⟩, kept⟩
  · exact ⟨⟨_, List.mem_append_right _ (List.mem_singleton_self _), rfl⟩, fun q hq => ⟨q, List.mem_append_left _ hq, rfl⟩⟩

/-- Taking a plan changes the plans alone. -/
theorem Collective.takePlan_frame (c : Collective) (r : RolePlan) : c.takePlan r = { c with plans := (c.takePlan r).plans } := by
  unfold Collective.takePlan
  split <;> rfl

theorem Collective.takePlans_frame (plans : List RolePlan) (c : Collective) :
    ∃ taken, plans.foldl Collective.takePlan c = { c with plans := taken } := by
  induction plans generalizing c with
  | nil => exact ⟨_, rfl⟩
  | cons r plans ih =>
    obtain ⟨taken, h⟩ := ih (c.takePlan r)
    exact ⟨taken, h.trans (congrArg (fun d : Collective => { d with plans := taken }) (c.takePlan_frame r))⟩

theorem Collective.takePlans_rounds (plans : List RolePlan) (c : Collective) :
    (∀ r ∈ plans, ∃ q ∈ (plans.foldl Collective.takePlan c).plans, q.round = r.round) ∧
    ∀ q ∈ c.plans, ∃ q' ∈ (plans.foldl Collective.takePlan c).plans, q'.round = q.round := by
  induction plans generalizing c with
  | nil => exact ⟨fun _ h => absurd h List.not_mem_nil, fun q hq => ⟨q, hq, rfl⟩⟩
  | cons r plans ih =>
    obtain ⟨taken, kept⟩ := ih (c.takePlan r)
    obtain ⟨⟨q, hq, round⟩, stay⟩ := c.takePlan_rounds r
    refine ⟨fun r' hr' => ?_, fun q hq => ?_⟩
    · cases hr' with
      | head =>
        obtain ⟨q', hq', e⟩ := kept q hq
        exact ⟨q', hq', e.trans round⟩
      | tail _ hr' => exact taken r' hr'
    · obtain ⟨q', hq', e⟩ := stay q hq
      obtain ⟨q'', hq'', e'⟩ := kept q' hq'
      exact ⟨q'', hq'', e'.trans e⟩

/-- What a hub holds when it takes a role over, without what an earlier time in the role has left. -/
def State.beforeRole (s : State) (root : Bool) (n : Nat) (plans : List RolePlan) : Collective :=
  { s.coll with plans := s.coll.plans.filter fun p =>
      !(p.members.isEmpty && s.ofRoot p.memberList == root && decide (0 < n) && !plans.any (fun r => r.round == p.round)) }

/-- Without open rounds, a role brings its plans, its table and its count. -/
theorem State.takeRole_noRounds (s : State) (root : Bool) (n : Nat) (plans : List RolePlan) (table : List (Nat × Nat × List Nat)) :
    let c := plans.foldl Collective.takePlan (s.beforeRole root n plans)
    s.takeRole root n plans table [] = { s with coll := { c with
      coordTable := c.coordTable ++ table
      rootCount := if root then max c.rootCount n else c.rootCount
      domainCount := if root then c.domainCount else max c.domainCount n
      rounds := c.rounds.filter (fun _ => true) ++ [] } } := rfl

theorem State.takeRole_takes (s : State) (root : Bool) (n : Nat) (plans : List RolePlan) (table : List (Nat × Nat × List Nat)) :
    let t := s.takeRole root n plans table []
    t.mem = s.mem ∧ t.me = s.me ∧ (if root then t.coll.rootCount = max s.coll.rootCount n else t.coll.domainCount = max s.coll.domainCount n) ∧
    t.coll.coordTable = s.coll.coordTable ++ table ∧ ∀ r ∈ plans, ∃ q ∈ t.coll.plans, q.round = r.round := by
  obtain ⟨taken, frame⟩ := Collective.takePlans_frame plans (s.beforeRole root n plans)
  obtain ⟨rounds, -⟩ := Collective.takePlans_rounds plans (s.beforeRole root n plans)
  rw [State.takeRole_noRounds]
  rw [frame] at rounds ⊢
  refine ⟨rfl, rfl, ?_, rfl, rounds⟩
  cases root <;> rfl

/-- The hub holds a role, of the root or of its domain. -/
def State.holdsRole (s : State) (root : Bool) : Bool := if root then s.coll.isRoot else s.coll.isDomain

/-- A role is with a hub, this one or another. -/
def State.withRole (s : State) (root : Bool) (hub : Nat) (mine : Bool) : State :=
  if root then { s with coll := { s.coll with rootHub := hub, isRoot := mine } }
  else { s with coll := { s.coll with domainHub := hub, isDomain := mine } }

theorem exec_coordinatorRoleMove {root : Bool} {d hub : Nat} (h : root = true ∨ d = s.coll.domain) :
    exec (.coordinatorRoleMove root d hub) s = .next
      ((if s.holdsRole root && !(hub == s.pkgId) then s.giveRole root hub else s).withRole root hub (hub == s.pkgId)) := by
  cases root with
  | true => rfl
  | false =>
    cases h with
    | inl h => cases h
    | inr h => exact congrArg Host.Outcome.next (if_pos h)

/-- A hub that keeps the role, or does not hold it, hands nothing over. -/
theorem exec_coordinatorRoleMove_kept {root : Bool} {d hub : Nat} (h : root = true ∨ d = s.coll.domain)
    (kept : s.holdsRole root = false ∨ hub = s.pkgId) :
    exec (.coordinatorRoleMove root d hub) s = .next (s.withRole root hub (hub == s.pkgId)) := by
  have stays : (s.holdsRole root && !(hub == s.pkgId)) = false := by
    obtain no | same := kept
    · rw [no, Bool.false_and]
    · rw [beq_iff_eq.2 same, Bool.not_true, Bool.and_false]
  rw [exec_coordinatorRoleMove h, stays]
  rfl

theorem exec_coordinatorRoleMove_given {root : Bool} {d hub : Nat} (h : root = true ∨ d = s.coll.domain) (holds : s.holdsRole root = true)
    (other : hub ≠ s.pkgId) : exec (.coordinatorRoleMove root d hub) s = .next ((s.giveRole root hub).withRole root hub false) := by
  rw [exec_coordinatorRoleMove h, holds, beq_eq_false_iff_ne.2 other]
  rfl

theorem postingsBecomeTicketsInStreamOrder : PostingsBecomeTicketsInStreamOrder := by
  intro s x p tk
  refine ⟨fun plan held => ?_, fun l hub q first refused plan held => ?_, fun alone => ?_, ⟨_, rfl, State.appendTicket_mem s tk, fun k hk near => ?_⟩,
    fun hub d free => ?_, fun hub free => ?_, fun root hub holds other => ?_, fun root n plans table => ?_, fun hub d far => ?_⟩
  · have arrives : Arrives s p x := ⟨plan, held⟩
    refine ⟨fun own behind => congrArg Host.Outcome.next (arrives.behind own behind), fun own first role => ?_, fun far role => ?_,
      fun first role fresh => ?_⟩
    · refine congrArg Host.Outcome.next ((arrives.refused (fun _ => first) role).trans ?_)
      exact (congrArg (s.answerPosting · x 1) own).trans (State.answerPosting_own 1)
    · exact congrArg Host.Outcome.next ((arrives.refused (fun own => absurd own far) role).trans (State.answerPosting_far far 1))
    · obtain ⟨postings, outbox, accepts, own, far⟩ := arrives.accepted first role
      have acc := State.acceptPosting_accepted (s := s.answering postings outbox) (p := p) (x := x) fresh
      have ticketed (full : p.common.nmem ≤ (s.ranksOf x).length + 1) := acc.ticketed full
      rw [arrives.group] at ticketed
      refine ⟨_, congrArg Host.Outcome.next accepts, acc.mem, fun e => acc.locals.trans (own e),
        fun e => ⟨acc.locals.trans (far e).1, acc.outbox (far e).2⟩, acc.waits, fun full => ⟨acc.gone full, ?_, ?_⟩⟩
      · exact (ticketed full).domain
      · exact (ticketed full).root
  · have again : Refused s hub l q := ⟨first, refused, plan, held⟩
    refine ⟨fun here => congrArg Host.Outcome.next ?_, fun there => congrArg Host.Outcome.next ?_⟩
    · exact again.resend.trans (State.sendPosting_here (again.hub.trans here))
    · refine again.resend.trans ((State.sendPosting_there (again.hub.trans_ne there)).trans ?_)
      rw [again.hub]
      rfl
  · exact congrArg Host.Outcome.next (State.appendTicket_alone alone)
  · exact State.appendTicket_reaches hk near
  · exact exec_coordinatorRoleMove_kept (.inl rfl) free
  · exact exec_coordinatorRoleMove_kept (.inr rfl) free
  · refine ⟨_, exec_coordinatorRoleMove_given (.inr rfl) holds other, ?_⟩
    cases root with
    | true => exact ⟨rfl, rfl, rfl, rfl, rfl, ⟨rfl, rfl⟩, rfl, rfl⟩
    | false => exact ⟨rfl, rfl, rfl, rfl, rfl, ⟨rfl, rfl⟩, rfl, rfl⟩
  · exact State.takeRole_takes s root n plans table
  · exact congrArg Host.Outcome.next (if_neg far)

end

/-- Settles O35: the trigger's checks, and the way of a posting to its ticket. -/
theorem triggersAndPostingsBecomeTickets : Obligations.TriggersAndPostingsBecomeTickets :=
  ⟨triggersPostTheNextInstance, postingsBecomeTicketsInStreamOrder⟩

end Sys2Proof.Machine
end

section
/-!
SUPPORT. The head entry of a queue, and what an engine's accesses leave unchanged of the state (R88, R108, R114, R133).
-/
namespace Sys2Proof.Machine

open Sys2Proof

/-! ## The head entry of a queue -/

/-- The first element that a test finds after the first that it finds has been replaced. -/
theorem find?_replaceFirst {α : Type} {p : α → Bool} {f : α → α} (hf : ∀ a, p a = true → p (f a) = true) (l : List α) :
    (replaceFirst p f l).find? p = (l.find? p).map f := by
  unfold replaceFirst
  induction l with
  | nil => rfl
  | cons a l ih =>
    rw [List.findIdx_cons, List.find?_cons]
    cases h : p a with
    | true => simp [h, hf]
    | false => simpa [h] using ih

section
variable {c : Core} {q : Nat} {e : Entry} {f : Entry → Entry}

theorem Core.headEntry_qid (h : c.headEntry q = some e) : e.qid = q := by simpa using List.find?_some h

theorem Core.headEntry_congr {c' : Core} (h : c'.entries = c.entries) : c'.headEntry q = c.headEntry q := congrArg (List.find? _) h

theorem Core.headEntry_updHead (h : c.headEntry q = some e) (hf : ∀ x, x.qid = q → (f x).qid = q) :
    (c.updHead q f).headEntry q = some (f e) := by
  refine (find?_replaceFirst (fun x hx => ?_) c.entries).trans (congrArg (Option.map f) h)
  rw [beq_iff_eq] at hx ⊢
  exact hf x hx

theorem State.headEntry_putHead {s : State} (h : s.me.headEntry q = some e) {e' : Entry} (he : e'.qid = q) :
    (s.putHead q e').me.headEntry q = some e' := Core.headEntry_updHead (f := fun _ => e') h fun _ _ => he

theorem State.headEntry_finishHead {s : State} (h : s.me.headEntry q = some e) (status count : Nat) :
    (s.finishHead q status count).me.headEntry q = some (e.finish status count) :=
  Core.headEntry_updHead (f := fun e => e.finish status count) h fun _ hx => hx
end

/-! ## What an engine's accesses change -/

/-- The state with other pages reached (R42, R67). -/
def State.reaching (s : State) (l : List Frame) : State := { s with frames := l }

/-- The pages that a context has reached are all that touching some changes. -/
theorem State.touchPages_eq (c : Core) : ∀ (f va n : Nat) (s : State), ∃ l, s.touchPages c f va n = s.reaching l
  | 0, _, _, s => ⟨s.frames, rfl⟩
  | f + 1, va, n, s => by
    have owns (e : TlbEntry) : ∃ l, s.own c.ctx va e = s.reaching l := by
      unfold State.own
      split
      · exact ⟨s.frames, rfl⟩
      · dsimp only
        split
        · exact ⟨_, rfl⟩
        · exact ⟨s.frames, rfl⟩
    unfold State.touchPages
    split
    · exact ⟨s.frames, rfl⟩
    · dsimp only
      split
      · next e _ =>
        obtain ⟨l, hl⟩ := owns e
        obtain ⟨l', hl'⟩ := State.touchPages_eq c f (va + min n (65536 - va % 65536)) (n - min n (65536 - va % 65536)) (s.own c.ctx va e)
        exact ⟨l', by rw [hl', hl]; rfl⟩
      · exact State.touchPages_eq c f _ _ s

theorem State.touch_eq (s : State) (c : Core) (va n : Nat) : ∃ l, s.touch c va n = s.reaching l := by
  unfold State.touch
  split
  · exact State.touchPages_eq c _ va n s
  · exact ⟨s.frames, rfl⟩

@[simp] theorem State.touch_me (s : State) (c : Core) (va n : Nat) : (s.touch c va n).me = s.me := by
  obtain ⟨l, h⟩ := s.touch_eq c va n
  rw [h]
  rfl

@[simp] theorem State.seen_me (s : State) (va n : Nat) : (s.seen va n).me = s.me := s.touch_me _ va n

/-- An engine's write under a context changes memory, what memory's bytes wake and mend, the pages reached and L1 copies:
every other part of the state is as it was. -/
structure EngWrote (s t : State) : Prop where
  rest : ∃ m e w f l o, t = { s with mem := m, eccBad := e, waiters := w, frames := f, me := { s.me with l1d := l }, others := o }

section
variable {s t u : State} {c : Core}

theorem EngWrote.refl : EngWrote s s := ⟨s.mem, s.eccBad, s.waiters, s.frames, s.me.l1d, s.others, rfl⟩

theorem EngWrote.trans (h : EngWrote s t) (h' : EngWrote t u) : EngWrote s u := by
  obtain ⟨m, e, w, f, l, o, rfl⟩ := h
  obtain ⟨m, e, w, f, l, o, rfl⟩ := h'
  exact ⟨m, e, w, f, l, o, rfl⟩

theorem EngWrote.dropL1 (n k m : Nat) : EngWrote s (s.updCore n (fun c => { c with l1d := dropLines c.l1d k m })) := by
  by_cases h : n = s.me.id
  · subst h
    rw [State.updCore_me]
    exact ⟨s.mem, s.eccBad, s.waiters, s.frames, _, s.others, rfl⟩
  · rw [State.updCore, State.setCore, if_neg h]
    exact ⟨s.mem, s.eccBad, s.waiters, s.frames, s.me.l1d, _, rfl⟩

theorem EngWrote.engWrite : ∀ {f va : Nat} {bs : List Byte} {s : State}, s.engWrite c f va bs = .ok t → EngWrote s t
  | 0, va, bs, s, h => by
    unfold State.engWrite at h
    split at h
    · exact Except.ok.inj h ▸ .refl
    · cases h
  | f + 1, va, bs, s, h => by
    unfold State.engWrite at h
    split at h
    · exact Except.ok.inj h ▸ .refl
    · dsimp only at h
      split at h
      · next k _ =>
        have wrote : EngWrote s (s.writeMem k (bs.take (chunkLen va bs.length))) := ⟨_, _, _, s.frames, s.me.l1d, s.others, rfl⟩
        have touched {u : State} {a n : Nat} : EngWrote u (u.touch c a n) := by
          obtain ⟨l, hl⟩ := u.touch_eq c a n
          exact ⟨u.mem, u.eccBad, u.waiters, l, u.me.l1d, u.others, hl⟩
        exact ((wrote.trans (.dropL1 _ _ _)).trans touched).trans (EngWrote.engWrite h)
      · cases h

theorem EngWrote.engStoreAs {va : Nat} {bs : List Byte} (h : s.engStoreAs c va bs = .ok t) : EngWrote s t := EngWrote.engWrite h

theorem EngWrote.entries (h : EngWrote s t) : t.me.entries = s.me.entries := by
  obtain ⟨m, e, w, f, l, o, rfl⟩ := h
  rfl

theorem EngWrote.headEntry {q : Nat} (h : EngWrote s t) : t.me.headEntry q = s.me.headEntry q := Core.headEntry_congr h.entries
end

@[simp] theorem State.landFor_me (s : State) (e : Entry) (dst n : Nat) : (s.landFor e dst n).me = s.me := by
  unfold State.landFor State.landCounted
  split
  · split
    · rfl
    · rfl
  · rfl

end Sys2Proof.Machine
end

section
/-!
SUPPORT. One service of the copy engine, and the packet that each command moves in it (R88, R105, R182, R203, R341 to R346).
-/
namespace Sys2Proof.Machine

open Sys2Proof Sys2Proof.Claims

section
variable {s t u : State} {q : Nat} {e : Entry}

/-! ## One service -/

/-- The engine's service of a channel whose next piece is done, and which does not read on. -/
theorem exec_copyEngineService (next : s.nextChannel = some q) (hq : q < 63) (head : s.me.headEntry q = some e)
    (serves : (turnAfter s q).serveEntry q e = .ok t) (rests : t.me.readsOn q = false) : exec .copyEngineService s = .next t := by
  have piece : (turnAfter s q).servePiece q = t := by
    simp only [State.servePiece, show (turnAfter s q).me.headEntry q = some e from head, serves]
  have channel : (turnAfter s q).serveChannel q = t := by
    simp only [State.serveChannel, piece, rests, Bool.false_eq_true, if_false]
  have service : exec .copyEngineService s = .next (if q = 63 then (turnAfter s q).kerfService else (turnAfter s q).serveChannel q) := by
    show Host.Outcome.next _ = _
    simp only [next]
    rfl
  rw [service, if_neg (Nat.ne_of_lt hq), channel]

/-- A job holds no block of a command that would read on from it (R338). -/
def NoBlock (cmd : Cmd) (job : Job) : Prop := readsTwice cmd = false ∨ ∀ bs, job ≠ .blocks bs

theorem Core.readsOn_of_noBlock {c : Core} (head : c.headEntry q = some e) (h : NoBlock e.cmd e.job) : c.readsOn q = false := by
  simp only [Core.readsOn, head]
  split
  · next bs hb =>
    obtain once | none := h
    · rw [once, Bool.and_false]
    · exact absurd hb (none bs)
  · rfl

/-- An entry goes on with a job that leaves its length and holds no block that names more. -/
structure GoesOnWith (e : Entry) (job : Job) : Prop where
  total : ({ e with job := job } : Entry).total = e.total
  noBlock : NoBlock e.cmd job

/-- A piece of work is a packet of n bytes, and their state after it is u but for the entry's own progress. -/
def Moves (r : Served State) (u : State) (q : Nat) (e : Entry) (n : Nat) : Prop :=
  ∃ job at' rows src dst, r = .ok (u.afterMove q { e with job := job } at' n rows src dst) ∧ GoesOnWith e job

/-- A packet of n bytes is the last of its entry, and the entry ends with it (R108, R346). -/
def endsWith (e : Entry) (n : Nat) : Bool := decide (e.total ≤ e.pos + n) && (match e.cmd with | .copyg _ => false | _ => true)

section
variable (e : Entry) (n rows src dst : Nat)

/-- What a packet changes of its entry. -/
theorem movedOn_eq : ∃ st status count, movedOn e n rows src dst = { e with
    state := st, status := status, count := count, kick := false, since := 0, pos := e.pos + n, moved := e.moved + rows
    srcAddr := BitVec.ofNat 64 src, dstAddr := BitVec.ofNat 64 dst } := by
  cases last : endsWith e n with
  | true => exact ⟨_, _, _, if_pos last⟩
  | false => exact ⟨_, _, _, if_neg (Bool.eq_false_iff.1 last)⟩

@[simp] theorem movedOn_cmd : (movedOn e n rows src dst).cmd = e.cmd := by obtain ⟨_, _, _, h⟩ := movedOn_eq e n rows src dst; rw [h]
@[simp] theorem movedOn_head : (movedOn e n rows src dst).head = e.head := by obtain ⟨_, _, _, h⟩ := movedOn_eq e n rows src dst; rw [h]
@[simp] theorem movedOn_pos : (movedOn e n rows src dst).pos = e.pos + n := by obtain ⟨_, _, _, h⟩ := movedOn_eq e n rows src dst; rw [h]
@[simp] theorem movedOn_job : (movedOn e n rows src dst).job = e.job := by obtain ⟨_, _, _, h⟩ := movedOn_eq e n rows src dst; rw [h]
@[simp] theorem movedOn_qid : (movedOn e n rows src dst).qid = e.qid := by obtain ⟨_, _, _, h⟩ := movedOn_eq e n rows src dst; rw [h]
end

theorem movedOn_ended {n rows src dst : Nat} (hc : ∀ c, e.cmd ≠ .copyg c) (h : e.total ≤ e.pos + n) :
    (movedOn e n rows src dst).state = .finishing ∧ (movedOn e n rows src dst).status = 0 := by
  have last : endsWith e n = true := by
    rw [endsWith, decide_eq_true h, Bool.true_and]
    split
    · next c hc' => exact absurd hc' (hc c)
    · rfl
  have ends : movedOn e n rows src dst = _ := if_pos last
  rw [ends]
  exact ⟨rfl, rfl⟩

theorem movedOn_active {n rows src dst : Nat} (h : e.pos + n < e.total) : (movedOn e n rows src dst).state = .active := by
  have goes : ¬ endsWith e n = true := by
    rw [endsWith, decide_eq_false (Nat.not_le.2 h), Bool.false_and]
    exact Bool.false_ne_true
  have on : movedOn e n rows src dst = _ := if_neg goes
  rw [on]

/-- A packet that has moved its n bytes leaves the head entry n bytes further, and the entry does not read on. -/
theorem State.afterMove_advanced {job : Job} {at' n rows src dst : Nat} (head : u.me.headEntry q = some e) (keeps : GoesOnWith e job) :
    advanced (u.afterMove q { e with job := job } at' n rows src dst) q e n ∧
    (u.afterMove q { e with job := job } at' n rows src dst).me.readsOn q = false := by
  have found : (u.afterMove q { e with job := job } at' n rows src dst).me.headEntry q = some (movedOn { e with job := job } n rows src dst) := by
    refine State.headEntry_putHead (e := e) ?_ ((movedOn_qid _ _ _ _ _).trans (Core.headEntry_qid (e := e) head))
    rw [State.landFor_me, head]
  refine ⟨⟨_, found, movedOn_cmd _ _ _ _ _, movedOn_head _ _ _ _ _, movedOn_pos _ _ _ _ _, fun hc h => ?_, fun h => ?_⟩, ?_⟩
  · exact movedOn_ended hc (by rwa [keeps.total])
  · exact movedOn_active (by rwa [keeps.total])
  · refine Core.readsOn_of_noBlock found ?_
    rw [movedOn_cmd, movedOn_job]
    exact keeps.noBlock

/-- A service that moves one packet: what it leaves of memory, of the core beside its queues, and of the entry. -/
theorem exec_service_moves {n : Nat} (next : s.nextChannel = some q) (hq : q < 63) (head : s.me.headEntry q = some e)
    (same : u.me.entries = s.me.entries) (moves : Moves ((turnAfter s q).serveEntry q e) u q e n) :
    ∃ t, exec .copyEngineService s = .next t ∧ t.mem = u.mem ∧ advanced t q e n ∧ ∃ es, t.me = { u.me with entries := es } := by
  obtain ⟨job, at', rows, src, dst, serves, keeps⟩ := moves
  obtain ⟨moved, rests⟩ := State.afterMove_advanced (at' := at') (n := n) (rows := rows) (src := src) (dst := dst)
    ((Core.headEntry_congr same).trans head) keeps
  refine ⟨_, exec_copyEngineService next hq head serves rests, State.afterMove_mem _ _ _ _ _ _ _ _, moved, ?_⟩
  rw [State.afterMove, State.putHead, State.updMe_me, State.landFor_me]
  exact ⟨_, rfl⟩

/-! ## The packet of a command that reads and writes -/

section
variable {a b n : Nat} {bs : List Byte}

theorem State.eget_ok (load : s.engLoad s.me a n = .ok bs) : s.eget a n = .ok bs := by simp only [State.eget, load]

theorem State.eput_ok (store : s.engStore s.me.id b bs = .ok u) : s.eput b bs = .ok u := by simp only [State.eput, store]

theorem State.emove_ok (load : s.engLoad s.me a n = .ok bs) (store : (s.seen a n).engStore s.me.id b bs = .ok u) : s.emove a b n = .ok u := by
  rw [State.emove, State.eget_ok load]
  exact State.eput_ok (by rw [State.seen_me]; exact store)
end

section
variable {src dst : Nat}

theorem State.serveRange_moves (once : NoBlock e.cmd e.job) {n : Nat}
    (len : packetLen e.remaining (src + e.pos) (dst + e.pos) = n) (move : s.emove (src + e.pos) (dst + e.pos) n = .ok u) :
    Moves (s.serveRange q e src dst) u q e n := by
  subst len
  rw [State.serveRange, move]
  exact ⟨e.job, _, _, _, _, rfl, rfl, once⟩

theorem State.serveRow_moves {rowb : Nat} {after : Job} (keeps : GoesOnWith e after) (once : NoBlock e.cmd e.job)
    (move : s.emove (src + e.pos % rowb) (dst + e.pos % rowb) (packetLen (rowb - e.pos % rowb) (src + e.pos % rowb) (dst + e.pos % rowb)) = .ok u) :
    Moves (s.serveRow q e src dst rowb after) u q e (packetLen (rowb - e.pos % rowb) (src + e.pos % rowb) (dst + e.pos % rowb)) := by
  rw [State.serveRow, move]
  refine ⟨_, _, _, _, _, rfl, ?_⟩
  split
  · exact keeps
  · exact ⟨rfl, once⟩

theorem State.serveNd_moves {d : NdDesc} (once : NoBlock e.cmd e.job) {a b : Nat}
    (ha : d.srcRow (e.pos / (d.e0 * d.e1)) (e.pos / d.e0 % d.e1) + e.pos % d.e0 = a)
    (hb : d.dstRow (e.pos / (d.e0 * d.e1)) (e.pos / d.e0 % d.e1) + e.pos % d.e0 = b)
    (move : s.emove a b (packetLen (d.e0 - e.pos % d.e0) a b) = .ok u) :
    Moves (s.serveNd q e d) u q e (packetLen (d.e0 - e.pos % d.e0) a b) := by
  subst ha hb
  simp only [State.serveNd, move]
  exact ⟨e.job, _, _, _, _, rfl, rfl, once⟩

theorem State.serveJig_moves {es : List JigEntry} {await : Option (Nat × Nat)} {start : Option Nat} {cur : Nat} {x : JigEntry} {off a b : Nat}
    (hx : es[cur]? = some x) (keeps : ∀ cur issued, GoesOnWith e (.jig es await start cur issued))
    (ho : e.pos - sumNat ((es.take cur).map (·.bytes)) = off) (ha : 9 * 2 ^ 44 + x.soff + off = a)
    (hb : 8 * 2 ^ 44 + x.target * 2 ^ 20 + x.doff + off = b) (same : GoesOnWith e e.job)
    (move : s.emove a b (packetLen (x.bytes - off) a b) = .ok u) :
    Moves (s.serveJig q e es await start cur) u q e (packetLen (x.bytes - off) a b) := by
  subst ho ha hb
  simp only [State.serveJig, hx, move]
  refine ⟨_, _, _, _, _, rfl, ?_⟩
  split
  · exact keeps _ _
  · exact same

/-- A packet of the loop of a command goes from its source to its destination, as long as one piece, one page on each side and
64 bytes allow. -/
theorem State.serveEntry_span {a b lim : Nat} (span : spanOf e = some (a, b, lim)) (move : s.emove a b (packetLen lim a b) = .ok u) :
    Moves (s.serveEntry q e) u q e (packetLen lim a b) := by
  unfold spanOf at span
  split at span
  case h_1 c hc =>
    have once : NoBlock e.cmd e.job := .inl (by rw [hc]; rfl)
    have remaining : e.remaining = c.len.toNat - e.pos := by simp only [Entry.remaining, Entry.total, hc]
    cases far : c.rp with
    | true => simp [far] at span
    | false =>
      simp only [far, Bool.false_eq_true, if_false] at span
      cases span
      simp only [State.serveEntry, hc, far, Bool.false_eq_true, if_false]
      exact State.serveRange_moves once (by rw [remaining]) move
  case h_2 c d hc hj =>
    have once : NoBlock e.cmd e.job := .inl (by rw [hc]; rfl)
    cases span
    simp only [State.serveEntry, hc, hj]
    exact State.serveNd_moves once rfl rfl move
  case h_3 c p i hc hj =>
    have once : NoBlock e.cmd e.job := .inl (by rw [hc]; rfl)
    cases span
    simp only [State.serveEntry, hc, hj, State.serveGathr]
    exact State.serveRow_moves ⟨by simp only [Entry.total, hc, hj], .inr fun _ => nofun⟩ once move
  case h_4 c p next r hc hj =>
    cases span
    simp only [State.serveEntry, hc, hj, State.serveScatr]
    exact State.serveRow_moves ⟨by simp only [Entry.total, hc, hj], .inr fun _ => nofun⟩ (.inr fun _ => by simp [hj]) move
  case h_5 c src dst g w hc hj =>
    have remaining : e.remaining = c.len.toNat - e.pos := by simp only [Entry.remaining, Entry.total, hc]
    split at span
    · next more =>
      cases span
      have left : 0 < e.remaining := by omega
      simp only [State.serveEntry, hc, hj, State.serveGen, left, if_true]
      exact State.serveRange_moves (.inr fun _ => by simp [hj]) (by rw [remaining]) move
    · cases span
  case h_6 c es await start cur hc hj =>
    split at span
    · next x hx =>
      cases span
      simp only [State.serveEntry, hc, hj]
      exact State.serveJig_moves hx (fun _ _ => ⟨by simp only [Entry.total, hc, hj], .inr fun _ => nofun⟩) rfl rfl rfl
        ⟨rfl, .inr fun _ => by simp [hj]⟩ move
    · cases span
  case h_7 => cases span
end

/-! ## FILL, the feeds and DRAIN -/

/-- Byte k of a value's bytes. -/
theorem getElem?_leBytes : ∀ {n k : Nat} (v : Nat), k < n → (leBytes n v)[k]? = some (BitVec.ofNat 8 (v / 256 ^ k))
  | n + 1, 0, v, _ => by simp [leBytes]
  | n + 1, k + 1, v, h => by
    rw [leBytes, List.getElem?_cons_succ, getElem?_leBytes _ (Nat.lt_of_succ_lt_succ h), Nat.div_div_eq_div_mul, Nat.pow_succ']

theorem fill_byte (pat : Word) (a : Nat) : nth 0 (leBytes 8 pat.toNat) (a % 8) = pat.extractLsb' (8 * (a % 8)) 8 := by
  rw [nth, getElem?_leBytes _ (Nat.mod_lt a (by decide)), Option.getD_some]
  refine BitVec.eq_of_toNat_eq ?_
  rw [BitVec.toNat_ofNat, BitVec.extractLsb'_toNat, Nat.shiftRight_eq_div_pow, Nat.pow_mul]

theorem State.serveFill_moves {c : FillCmd} {n b : Nat} (hc : e.cmd = .fill c) (hb : c.dst.toNat + e.pos = b)
    (hn : packetLen (c.len.toNat - e.pos) 0 b = n)
    (store : s.engStore s.me.id b ((List.range n).map (fun i => c.pat.extractLsb' (8 * ((b + i) % 8)) 8)) = .ok u) :
    Moves (s.serveEntry q e) u q e n := by
  have remaining : e.remaining = c.len.toNat - e.pos := by simp only [Entry.remaining, Entry.total, hc]
  subst hb hn
  simp only [State.serveEntry, hc, State.serveFill, fill_byte, remaining, State.eput_ok store]
  exact ⟨e.job, _, _, _, _, rfl, rfl, .inl (by rw [hc]; rfl)⟩

/-- The FIFO of a feed (R181). -/
def Core.feedFifo (c : Core) (isB : Bool) : Fifo := if isB then c.fifoB else c.fifoA

/-- The core's FIFO has taken the bytes that were read at a. -/
def State.fed (s : State) (isB : Bool) (a n : Nat) (bs : List Byte) : State :=
  let g : Fifo := { s.me.feedFifo isB with bytes := (s.me.feedFifo isB).bytes ++ bs }
  (s.seen a n).updMe (fun c => if isB then { c with fifoB := g } else { c with fifoA := g })

theorem State.fed_entries {isB : Bool} {a n : Nat} {bs : List Byte} : (s.fed isB a n bs).me.entries = s.me.entries := by
  rw [State.fed, State.updMe_me, State.seen_me]
  split <;> rfl

theorem State.serveFeed_moves {isB : Bool} {src a n : Nat} {bs : List Byte} (once : NoBlock e.cmd e.job)
    (ha : src + e.pos = a) (hn : packetLen (min e.remaining (s.me.feedFifo isB).room) a 0 = n) (load : s.engLoad s.me a n = .ok bs) :
    Moves (s.serveFeed q e isB src) (s.fed isB a n bs) q e n := by
  subst ha hn
  have serves : s.serveFeed q e isB src =
      (s.eget (src + e.pos) (packetLen (min e.remaining (s.me.feedFifo isB).room) (src + e.pos) 0) >>= fun bs =>
        .ok ((s.fed isB (src + e.pos) _ bs).afterMove q e _ _ _ _ _)) := rfl
  rw [serves, State.eget_ok load]
  exact ⟨e.job, _, _, _, _, rfl, rfl, once⟩

/-- DRAIN's packet is whole words, none of them in error. -/
theorem State.serveDrain_moves {c : DrainCmd} {b n : Nat} (hc : e.cmd = .drain c) (good : s.me.accumBad = [])
    (hb : c.dst.toNat + e.pos / (4 * c.words.toNat) * c.dpitch.toNat + e.pos % (4 * c.words.toNat) = b)
    (hn : packetLen (4 * c.words.toNat - e.pos % (4 * c.words.toNat)) 0 b = n) (some_ : 4 ≤ n) (whole : n % 4 = 0)
    (store : s.engStore s.me.id b ((List.range (n / 4)).flatMap (fun i => leBytes 4 (s.me.accWord
      (c.abase.toNat + e.pos / (4 * c.words.toNat) * c.apitch.toNat + e.pos % (4 * c.words.toNat) / 4 + i)).toNat)) = .ok u) :
    Moves (s.serveEntry q e) u q e n := by
  have words : (fun w => !s.me.accumBad.contains w) = fun _ => true := by
    funext w
    rw [good]
    rfl
  have all (l : List Nat) : l.takeWhile (fun _ => true) = l := List.takeWhile_eq_self_iff.2 fun _ _ => rfl
  have count : 4 * (n / 4) = n := by omega
  have filled : ((List.range (n / 4)).map (fun i => c.abase.toNat + e.pos / (4 * c.words.toNat) * c.apitch.toNat + e.pos % (4 * c.words.toNat) / 4 + i)).isEmpty = false := by
    rw [List.isEmpty_eq_false_iff_exists_mem]
    exact ⟨_, List.mem_map.2 ⟨0, List.mem_range.2 (by omega), rfl⟩⟩
  subst hb
  simp only [State.serveEntry, hc, State.serveDrain, words, all, hn, filled, List.length_map, List.length_range, count, List.flatMap_map,
    State.eput_ok store, Bool.false_eq_true, if_false]
  exact ⟨e.job, _, _, _, _, rfl, rfl, .inl (by rw [hc]; rfl)⟩

/-! ## COPY to another package -/

/-- The number that a copy to another package goes by: its own, or the next one. -/
def State.remoteId (s : State) (e : Entry) : Nat := match e.job with | .remote id _ => id | _ => s.stamp

/-- An entry whose packet is on its way to another package. -/
def Entry.onItsWay (e : Entry) (id a b n : Nat) : Entry :=
  { e with state := .active, kick := false, since := 0, srcAddr := BitVec.ofNat 64 a, dstAddr := BitVec.ofNat 64 b, job := .remote id n }

theorem State.serveRemote_sends {c : CopyCmd} {a b n : Nat} {bs : List Byte} (hc : e.cmd = .copy c) (more : e.pos < c.len.toNat)
    (ha : c.src.toNat + e.pos = a) (hb : c.dst.toNat + e.pos = b) (hn : packetLen (c.len.toNat - e.pos) a b = n)
    (load : s.engLoad s.me a n = .ok bs) :
    ∃ stamp l, s.serveRemote q e c = .ok ((({ s.reaching l with stamp := stamp } : State).send ((s.partOf s.me.id).map (·.id))
      (.copyWrite c.pkg.toNat ((s.peerOf s.me.ctx c.pkg.toNat).getD 0) (s.remoteId e) b bs)).putHead q (e.onItsWay (s.remoteId e) a b n)) := by
  have remaining : e.remaining = c.len.toNat - e.pos := by simp only [Entry.remaining, Entry.total, hc]
  have left : ¬ e.remaining = 0 := by omega
  subst ha hb
  rw [← remaining] at hn
  subst hn
  obtain ⟨l, touched⟩ := s.touch_eq s.me (c.src.toNat + e.pos) (packetLen e.remaining (c.src.toNat + e.pos) (c.dst.toNat + e.pos))
  simp only [State.serveRemote, left, if_false, State.eget_ok load, State.remoteId, State.seen, touched]
  cases e.job <;> exact ⟨_, l, rfl⟩
end

/-- Settles O29: the packet of each command, and what it leaves of memory, of the FIFOs, of the outbox and of its entry. -/
theorem theCopyEngineMovesOnePacketOfItsCommand : Obligations.TheCopyEngineMovesOnePacketOfItsCommand := by
  intro s q e next hq head s'
  refine ⟨?_, ?_, ?_, ?_, ?_⟩
  · intro a b lim bs u span n load store
    have same : u.me.entries = s.me.entries := (EngWrote.engStoreAs store).entries.trans (by rw [State.seen_me]; rfl)
    obtain ⟨t, ht, mem, moved, -⟩ := exec_service_moves next hq head same (State.serveEntry_span span (State.emove_ok load store))
    exact ⟨t, ht, mem, moved⟩
  · intro c u hc b n store
    obtain ⟨t, ht, mem, moved, -⟩ := exec_service_moves next hq head (EngWrote.engStoreAs store).entries (State.serveFill_moves hc rfl rfl store)
    exact ⟨t, ht, mem, moved⟩
  · intro c bs hc f a n load
    have feeds : ∃ isB, (turnAfter s q).serveEntry q e = (turnAfter s q).serveFeed q e isB c.src.toNat ∧ f = s.me.feedFifo isB ∧
        (isB = false ↔ e.cmd = .feeda c) := by
      obtain hc | hc := hc
      · exact ⟨false, by simp only [State.serveEntry, hc], if_pos hc, iff_of_true rfl hc⟩
      · exact ⟨true, by simp only [State.serveEntry, hc], if_neg (by simp [hc]), by simp [hc]⟩
    obtain ⟨isB, serves, fifo, which⟩ := feeds
    have total : e.remaining = c.len.toNat - e.pos := by obtain hc | hc := hc <;> simp only [Entry.remaining, Entry.total, hc]
    have once : NoBlock e.cmd e.job := .inl (by obtain hc | hc := hc <;> (rw [hc]; rfl))
    have moves : Moves ((turnAfter s q).serveEntry q e) (s'.fed isB a n bs) q e n := by
      rw [serves]
      refine State.serveFeed_moves once rfl ?_ load
      rw [total, ← show f = s'.me.feedFifo isB from fifo]
      rfl
    have same : (s'.fed isB a n bs).me.entries = s.me.entries := State.fed_entries (s := s')
    obtain ⟨t, ht, mem, moved, es, me⟩ := exec_service_moves next hq head same moves
    refine ⟨t, ht, mem.trans (State.seen_mem _ _ _), moved, ?_⟩
    rw [me, State.fed, State.updMe_me, State.seen_me]
    cases isB with
    | false =>
      rw [if_pos (which.1 rfl)]
      exact ⟨rfl, rfl⟩
    | true =>
      rw [if_neg fun h => Bool.noConfusion (which.2 h)]
      exact ⟨rfl, rfl⟩
  · intro c u hc good row b n some_ whole store
    obtain ⟨t, ht, mem, moved, -⟩ := exec_service_moves next hq head (EngWrote.engStoreAs store).entries
      (State.serveDrain_moves hc good rfl rfl some_ whole store)
    exact ⟨t, ht, mem, moved⟩
  · intro c bs hc far a b n id more load
    obtain ⟨stamp, l, sends⟩ := State.serveRemote_sends (s := s') (q := q) hc more rfl rfl rfl load
    have serves : s'.serveEntry q e = s'.serveRemote q e c := by simp only [State.serveEntry, hc, far, if_true]
    have found := State.headEntry_putHead (s := ({ s'.reaching l with stamp := stamp } : State).send ((s'.partOf s'.me.id).map (·.id))
      (.copyWrite c.pkg.toNat ((s'.peerOf s'.me.ctx c.pkg.toNat).getD 0) (s'.remoteId e) b bs)) head
      (e' := e.onItsWay (s'.remoteId e) a b n) (Core.headEntry_qid (e := e) head)
    exact ⟨_, exec_copyEngineService next hq head (serves.trans sends) (Core.readsOn_of_noBlock found (.inl (by rw [Entry.onItsWay, hc]; rfl))), rfl, found, rfl⟩

end Sys2Proof.Machine
end

section
/-!
SUPPORT. An entry that its engine takes up, and what the pages that a context has reached leave open (R42, R108).
-/
namespace Sys2Proof.Machine

open Sys2Proof Sys2Proof.Claims

section
variable {s t : State} {q : Nat} {h : CmdHead} {cmd : Cmd} {e : Entry}

theorem State.takeHead_of_waits (w : waitsAt s q h cmd e) (f : Entry → State → State) :
    s.takeHead q h cmd f = f { e with state := .active } (takenUp s q) := by
  obtain ⟨found, accepted, hh, hc, -⟩ := w
  simp only [State.takeHead, found]
  exact if_pos ⟨accepted, hh, hc⟩

theorem State.headEntry_takenUp (w : waitsAt s q h cmd e) : (takenUp s q).me.headEntry q = some { e with state := .active } := by
  obtain ⟨found, -⟩ := w
  exact Core.headEntry_updHead (f := fun e => { e with state := .active }) found fun _ hx => hx

theorem State.endedAt_finishHead (found : s.me.headEntry q = some e) (status count : Nat) : endedAt (s.finishHead q status count) q status count :=
  ⟨_, State.headEntry_finishHead found status count, rfl, rfl, rfl⟩
end

/-! ## The pages reached -/

section
variable {s t : State} {l : List Frame}

theorem State.updCore_reaching (n : Nat) (f : Core → Core) (l : List Frame) :
    (s.reaching l).updCore n f = (s.updCore n f).reaching l := by
  by_cases h : n = s.me.id
  · subst h
    rw [State.updCore_me]
    exact State.updCore_me (s := s.reaching l) (f := f)
  · have h' : ¬ n = (s.reaching l).me.id := h
    rw [State.updCore, State.setCore, if_neg h', State.updCore, State.setCore, if_neg h]
    rfl

theorem State.touch_reaching (c : Core) (va n : Nat) (l : List Frame) :
    ∃ l', (s.reaching l).touch c va n = (s.touch c va n).reaching l' := by
  obtain ⟨a, ha⟩ := s.touch_eq c va n
  obtain ⟨b, hb⟩ := (s.reaching l).touch_eq c va n
  exact ⟨b, by rw [hb, ha]; rfl⟩

/-- Which pages have been reached decides nothing of an engine's write. -/
theorem State.engWrite_reaching {c : Core} : ∀ {f va : Nat} {bs : List Byte} {s : State} (l : List Frame), s.engWrite c f va bs = .ok t →
    ∃ l', (s.reaching l).engWrite c f va bs = .ok (t.reaching l')
  | 0, va, bs, s, l, h => by
    unfold State.engWrite at h ⊢
    split at h
    · next hb =>
      cases h
      exact ⟨l, if_pos hb⟩
    · cases h
  | f + 1, va, bs, s, l, h => by
    unfold State.engWrite at h ⊢
    by_cases hb : bs.isEmpty = true
    · rw [if_pos hb] at h ⊢
      cases h
      exact ⟨l, rfl⟩
    · rw [if_neg hb] at h ⊢
      dsimp only at h ⊢
      have place : (s.reaching l).engPlace c va (chunkLen va bs.length) .store = s.engPlace c va (chunkLen va bs.length) .store := rfl
      rw [place]
      cases hp : s.engPlace c va (chunkLen va bs.length) .store with
      | ok k =>
        rw [hp] at h
        dsimp only at h ⊢
        have wrote : (s.reaching l).writeMem k (bs.take (chunkLen va bs.length)) =
          (s.writeMem k (bs.take (chunkLen va bs.length))).reaching l := rfl
        obtain ⟨l', touched⟩ := State.touch_reaching c va (chunkLen va bs.length) l
          (s := (s.writeMem k (bs.take (chunkLen va bs.length))).updCore c.id (fun c => { c with l1d := dropLines c.l1d k (chunkLen va bs.length) }))
        rw [wrote, State.updCore_reaching, touched]
        exact State.engWrite_reaching l' h
      | _ =>
        rw [hp] at h
        cases h

theorem State.engStoreAs_reaching {c : Core} {va : Nat} {bs : List Byte} (l : List Frame) (h : s.engStoreAs c va bs = .ok t) :
    ∃ l', (s.reaching l).engStoreAs c va bs = .ok (t.reaching l') := State.engWrite_reaching l h

/-- A touch after another has changed the pages reached alone. -/
theorem State.touch_touch (c d : Core) (va n vb m : Nat) : ∃ l, (s.touch c va n).touch d vb m = s.reaching l := by
  obtain ⟨a, ha⟩ := s.touch_eq c va n
  rw [ha]
  obtain ⟨b, hb⟩ := (s.reaching a).touch_eq d vb m
  exact ⟨b, hb⟩
end

end Sys2Proof.Machine
end

section
/-!
SUPPORT. Launch entries: one put into its table, one whose count lets it become ready, aging, and the placer's head (R82, R85).
-/
namespace Sys2Proof.Machine

open Sys2Proof Sys2Proof.Claims

section
variable {s : State} {k : LaunchKey} {l : Launch} {p : Partition}

/-! ## Entering a table and becoming ready -/

theorem Partition.find?_putLaunch (p : Partition) (h : l.key = k) :
    (p.putLaunch l).launches.find? (fun x => x.key == k) =
      some { l with kept := l.kept ++ (p.launches.filter (fun x => x.key == l.key)).flatMap (·.kept) } := by
  subst h
  unfold Partition.putLaunch
  rw [List.find?_append, List.find?_eq_none.2, Option.none_or]
  · exact List.find?_cons_of_pos (beq_self_eq_true l.key)
  · intro x hx
    obtain ⟨-, other⟩ := List.mem_filter.1 hx
    simpa using other

/-- What a blocked launch is once its count has been looked at in a cycle, as the n-th to become ready (R82, R85). -/
def Launch.counted (l : Launch) (cycle n : Nat) : Launch :=
  if l.depCount ≤ 0 then { l with state := .ready, readyAt := cycle, readySeq := n } else l

theorem State.launch?_checkReady (found : s.launch? k = some l) (blocked : l.state = .blocked) :
    ∃ n, (s.checkReady k).launch? k = some (l.counted s.cycle n) := by
  obtain ⟨p, hp, hl⟩ := Option.bind_eq_some_iff.1 found
  unfold State.checkReady Launch.counted
  rw [found]
  dsimp only
  by_cases hc : l.depCount ≤ 0
  · refine ⟨p.readyNext, ?_⟩
    rw [if_pos ⟨blocked, hc⟩, if_pos hc, State.launch?, State.part?_updPart_same, hp]
    · refine (find?_map_of_same (fun x => ?_) _).trans ?_
      · split <;> rfl
      · rw [hl, Option.map_some, if_pos (beq_iff_eq.2 (State.launch?_key found))]
    · exact fun _ => rfl
  · exact ⟨0, by rw [if_neg fun h => hc h.2, if_neg hc, found]⟩

@[simp] theorem State.checkReady_me (s : State) (k : LaunchKey) : (s.checkReady k).me = s.me := by
  unfold State.checkReady
  split
  · split <;> rfl
  · rfl

@[simp] theorem State.checkReady_channels (s : State) (k : LaunchKey) : (s.checkReady k).channels = s.channels := by
  unfold State.checkReady
  split
  · split <;> rfl
  · rfl

/-- Firmware writes a blocked launch's count (R82). -/
theorem dependenceCountWrite_counts (found : s.launch? k = some l) (blocked : l.state = .blocked) (n : Nat) :
    ∃ t seq, exec (.dependenceCountWrite k.part ⟨k.ctx, k.graph⟩ k.index n) s = .next t ∧
      t.launch? k = some (Launch.counted { l with depCount := n } s.cycle seq) ∧ t.mem = s.mem ∧ t.me = s.me := by
  let wrote : State := s.updLaunch k (fun l => if l.state = .blocked then { l with depCount := (n : Int) } else l)
  have now : wrote.launch? k = some { l with depCount := n } :=
    (State.launch?_updLaunch_same (fun l => by split <;> rfl) found).trans (by rw [if_pos blocked])
  obtain ⟨seq, ready⟩ := State.launch?_checkReady now blocked
  exact ⟨wrote.checkReady k, seq, rfl, ready, State.checkReady_mem wrote k, State.checkReady_me wrote k⟩

/-! ## Aging -/

/-- A launch that has been ready for 2^20 cycles is aged (R85). -/
def Launch.ages (l : Launch) (cycle : Nat) : Launch :=
  if l.state == .ready && decide (2 ^ 20 ≤ cycle - l.readyAt) then { l with aged := true } else l

theorem Launch.ages_key (l : Launch) (cycle : Nat) : (l.ages cycle).key = l.key := by
  unfold Launch.ages
  split <;> rfl

theorem State.launch?_aged (s : State) (part : Nat) (k : LaunchKey) :
    (s.updPart part (fun p => { p with launches := p.launches.map (·.ages s.cycle) })).launch? k =
      if k.part = part then (s.launch? k).map (·.ages s.cycle) else s.launch? k := by
  unfold State.launch?
  rw [State.part?_updPart]
  · split
    · cases s.part? k.part with
      | none => rfl
      | some p => exact find?_map_of_same (fun x => by rw [Launch.ages_key]) p.launches
    · rfl
  · exact fun _ => rfl

theorem launchAging_ages (s : State) (part : Nat) : ∃ t, exec (.launchAging part) s = .next t ∧ t.mem = s.mem ∧ t.me = s.me ∧
    ∀ k, t.launch? k = (s.launch? k).map (fun l =>
      if k.part = part ∧ l.state = .ready ∧ 2 ^ 20 ≤ s.cycle - l.readyAt then { l with aged := true } else l) := by
  refine ⟨_, rfl, rfl, rfl, fun k => (State.launch?_aged s part k).trans ?_⟩
  by_cases hk : k.part = part
  · simp only [hk, if_true, true_and, Launch.ages, Bool.and_eq_true, beq_iff_eq, decide_eq_true_eq]
  · simp [hk]

/-! ## The placer's head -/

/-- The order of the ready queues: the effective priority, then who became ready first (R85). -/
def Launch.rank (l : Launch) : Nat ×ₗ Natᵒᵈ := toLex (if l.aged then 15 else l.prio, OrderDual.toDual l.readySeq)

theorem Launch.rank_le_iff {x y : Launch} : x.rank ≤ y.rank ↔
    (if x.aged then 15 else x.prio) < (if y.aged then 15 else y.prio) ∨
      (if x.aged then 15 else x.prio) = (if y.aged then 15 else y.prio) ∧ y.readySeq ≤ x.readySeq := Prod.Lex.toLex_le_toLex

theorem Launch.rank_lt_iff {x y : Launch} : x.rank < y.rank ↔
    (if x.aged then 15 else x.prio) < (if y.aged then 15 else y.prio) ∨
      (if x.aged then 15 else x.prio) = (if y.aged then 15 else y.prio) ∧ y.readySeq < x.readySeq := Prod.Lex.toLex_lt_toLex

theorem Launch.waits_iff {l : Launch} : l.waits = true ↔ l.state = .ready ∨ l.state = .placing := by
  rw [Launch.waits, Bool.or_eq_true, beq_iff_eq, beq_iff_eq]

/-- With no launch to serve at once and no head, the placer takes the first of the waiting launches of the highest rank. -/
theorem Partition.headLaunch_of_no_head (creates : ∀ x ∈ p.launches, x.state = .ready → x.created ≠ []) (headless : p.head = none) :
    p.headLaunch = (p.launches.filter Launch.waits).argmax Launch.rank := by
  have served : p.launches.find? (fun l => l.state == .ready && l.created.isEmpty) = none := by
    simpa using creates
  unfold Partition.headLaunch List.argmax
  rw [served, headless]
  dsimp only [Option.bind_none]
  congr 1
  funext m x
  cases m with
  | none => rfl
  | some y => exact (if_congr Launch.rank_lt_iff rfl rfl).symm

theorem Partition.headLaunch_served (found : p.headLaunch = some l) (empty : ∃ x ∈ p.launches, x.state = .ready ∧ x.created = []) :
    l ∈ p.launches ∧ l.state = .ready ∧ l.created = [] := by
  obtain ⟨x, hx, ready, none⟩ := empty
  unfold Partition.headLaunch at found
  split at found
  · next y hy =>
    cases found
    have served := List.find?_some hy
    simp only [Bool.and_eq_true, beq_iff_eq, List.isEmpty_iff] at served
    exact ⟨List.mem_of_find?_eq_some hy, served⟩
  · next no =>
    have := List.find?_eq_none.1 no x hx
    simp [ready, none] at this

theorem Partition.headLaunch_of_head (creates : ∀ x ∈ p.launches, x.state = .ready → x.created ≠ []) (head : p.head = some k)
    (found : p.launches.find? (fun x => x.key == k) = some l) (waits : l.waits = true) : p.headLaunch = some l := by
  have served : p.launches.find? (fun l => l.state == .ready && l.created.isEmpty) = none := by
    simpa using creates
  have held : p.launches.find? (fun x => x.key == k && x.waits) = some l := by
    obtain ⟨key, before, after, split, others⟩ := List.find?_eq_some_iff_append.1 found
    refine List.find?_eq_some_iff_append.2 ⟨by rw [key, waits]; rfl, before, after, split, fun x hx => ?_⟩
    have := others x hx
    simp_all
  unfold Partition.headLaunch
  rw [served, head, Option.bind_some, held]

theorem Partition.headLaunch_oldest (ready : ∀ x ∈ p.launches, x.state ≠ .placing ∧ (x.state = .ready → x.created ≠ []))
    (headless : p.head = none) (found : p.headLaunch = some l) :
    l ∈ p.launches ∧ l.state = .ready ∧ ∀ x ∈ p.launches, x.state = .ready → x.rank ≤ l.rank := by
  rw [Partition.headLaunch_of_no_head (fun x hx => (ready x hx).2) headless] at found
  obtain ⟨mem, waits⟩ := List.mem_filter.1 (List.argmax_mem found)
  refine ⟨mem, (Launch.waits_iff.1 waits).resolve_right (ready l mem).1, fun x hx xr => ?_⟩
  exact List.le_of_mem_argmax (List.mem_filter.2 ⟨hx, Launch.waits_iff.2 (.inl xr)⟩) found

end

theorem launchesBecomeReadyAndAge : LaunchesBecomeReadyAndAge := by
  refine ⟨fun s k l n found blocked _ => ?_, launchAging_ages, fun p l => Partition.headLaunch_served,
    fun p l k creates head found waits => Partition.headLaunch_of_head creates head found (Launch.waits_iff.2 waits),
    fun p l ready headless found => ?_⟩
  · obtain ⟨t, seq, runs, ready, mem, me⟩ := dependenceCountWrite_counts found blocked n
    refine ⟨t, _, runs, ready, ?_⟩
    by_cases hn : n = 0
    · simp [Launch.counted, hn, mem, me]
    · simp [Launch.counted, hn, mem, me, blocked]
  · obtain ⟨mem, state, oldest⟩ := Partition.headLaunch_oldest ready headless found
    refine ⟨mem, state, fun x hx xr => ?_⟩
    have le := Launch.rank_le_iff.1 (oldest x hx xr)
    dsimp only
    exact ⟨by omega, by omega⟩

end Sys2Proof.Machine
end

section
/-!
SUPPORT. LAUNCH: the checks that a packet passes, the launch that it enters, and the record of its rejection (R74, R75, R352).
-/
namespace Sys2Proof.Machine

open Sys2Proof Sys2Proof.Claims

/-! ## The packet's checks -/

section
variable {s : State} {c : Core} {p : Partition} {key : LaunchKey} {k : Packet} {header : Option KernelHeader} {recs : Option (List Byte)}

/-- A packet without a fault keeps its limits and finds its channels. -/
theorem State.packetLimits_of_packetFault (sound : s.packetFault c p key k header recs = none) :
    ∃ hd, header = some hd ∧ packetLimits k hd ∧ k.barriers ≤ (s.freeChannels p).length := by
  unfold State.packetFault at sound
  dsimp only at sound
  split at sound
  · cases sound
  · next passed =>
    have checks := List.find?_eq_none.1 passed
    simp only [List.cons_append, List.nil_append, List.forall_mem_cons, Bool.not_eq_true', Bool.not_eq_false] at checks
    obtain ⟨head, units, gang, flags, priv, shared, acc, kerf, weight, prio, barriers, ports, pad, -, -, -, crec, -, -⟩ := checks
    obtain ⟨hd, rfl⟩ := Option.isSome_iff_exists.1 head
    simp only [Option.getD_some, Bool.and_eq_true, Bool.or_eq_true, decide_eq_true_eq, beq_iff_eq, Bool.not_eq_true', within, or_assoc,
      and_assoc] at units gang flags priv shared acc kerf weight prio barriers ports pad crec
    obtain ⟨least, most, whole, canon⟩ := units
    obtain ⟨size, required, single⟩ := gang
    obtain ⟨bits, notBoth, det⟩ := flags
    obtain ⟨privMax, spill⟩ := priv
    obtain ⟨barMax, eight, free⟩ := barriers
    have ragged (r : k.ragged = true) : k.gang = 1 ∧ k.persistent = false :=
      ⟨single.resolve_left (by simp [r]), by simpa [r] using notBoth⟩
    have detReq (r : hd.detReq = true) : k.det = true := det.resolve_right (by simp [r])
    have units (d : k.det = true) : k.units = hd.canon := (canon.resolve_left (by simp [d])).1
    exact ⟨hd, rfl, ⟨⟨least, most, whole⟩, size, required, bits, ragged, detReq, units, privMax, spill, shared.1, shared.2, acc.1, acc.2.1,
      acc.2.2.1, acc.2.2.2, kerf.1, kerf.2, weight.1, weight.2, prio, barMax, eight, ports.1, ports.2, pad, crec.1⟩, free⟩
end

/-! ## The launch that a packet enters -/

/-- What a launch takes over from its packet and the kernel's header (R74, R82, R352). -/
structure FromPacket (s : State) (p : Partition) (ctx : Nat) (h : CmdHead) (k : Packet) (hd : KernelHeader) (l : Launch) : Prop where
  context : l.ctx = ctx
  startPc : l.startPc = BitVec.ofNat 64 (k.entry + hd.hlen)
  unitCount : l.unitCount = k.units
  gangSize : l.gangSize = k.gang
  prio : l.prio = k.prio
  det : l.det = k.det
  persistent : l.persistent = k.persistent
  crec : l.crec = BitVec.ofNat 64 k.crec
  tag : l.tag = h.tag
  units : l.units = []
  channels : l.channels = (s.freeChannels p).take k.barriers
  count : s.launch? ⟨p.id, ctx, k.graph, k.index⟩ = none → (∀ x ∈ p.launches, k.index ∉ x.kept) → l.depCount = k.deps

section
variable {s : State} {c : Core} {p : Partition} {h : CmdHead} {cmd : LaunchCmd} {k : Packet} {hd : KernelHeader} {recs : List TileRec}
  {l : Launch} {ctx : Nat}

theorem sumNat_map_eq_zero {α : Type} {f : α → Nat} {l : List α} (h : ∀ x ∈ l, f x = 0) : sumNat (l.map f) = 0 := by
  rw [List.map_congr_left h, List.map_const', sumNat]
  induction l.length with
  | zero => rfl
  | succ n ih => simpa [List.replicate_succ] using ih

/-- Becoming ready leaves what came from the packet. -/
theorem FromPacket.counted (packet : FromPacket s p ctx h k hd l) (cycle n : Nat) : FromPacket s p ctx h k hd (l.counted cycle n) := by
  unfold Launch.counted
  split
  · exact { packet with }
  · exact packet

theorem Launch.counted_state (blocked : l.state = .blocked) (cycle n : Nat) :
    (l.counted cycle n).state = if (l.counted cycle n).depCount ≤ 0 then .ready else .blocked := by
  unfold Launch.counted
  by_cases hc : l.depCount ≤ 0
  · simp only [if_pos hc]
  · simp only [if_neg hc, blocked]

/-- Accepting a packet puts its launch, still blocked, into the table with its channels; then the launch's count is looked at. -/
theorem State.acceptPacket_enters (found : s.part? p.id = some p) :
    ∃ (w : State) (l : Launch), s.acceptPacket p c h cmd k hd recs = w.checkReady ⟨p.id, c.ctx, k.graph, k.index⟩ ∧
      w.launch? ⟨p.id, c.ctx, k.graph, k.index⟩ = some l ∧ l.state = .blocked ∧ FromPacket s p c.ctx h k hd l ∧
      w.channels = s.channels ++ ((s.freeChannels p).take k.barriers).map (fun n => newChannel n ⟨p.id, c.ctx, k.graph, k.index⟩ c.ctx) ∧
      w.me.entries = s.me.entries := by
  refine ⟨_, _, rfl, (State.launch?_congr (s := s.updPart p.id _) rfl).trans (Option.bind_eq_some_iff.2
    ⟨_, (State.part?_updPart_same ?_).trans (congrArg (Option.map _) found), Partition.find?_putLaunch _ rfl⟩), rfl, ?_, rfl, ?_⟩
  · exact fun _ => rfl
  · exact {
      context := rfl, startPc := rfl, unitCount := rfl, gangSize := rfl, prio := rfl, det := rfl, persistent := rfl, crec := rfl, tag := rfl
      units := rfl, channels := rfl
      count := fun fresh kept => by
        dsimp only [Launch.empty]
        rw [fresh, sumNat_map_eq_zero]
        · simp
        · intro x hx
          have away : x.kept.filter (· == k.index) = [] := by
            simpa using fun i hi (eq : i = k.index) => kept x hx (eq ▸ hi)
          rw [away]
          exact ite_self _ }
  · exact (apply_ite Core.entries _ _ _).trans (ite_self _)

/-- The launch of a packet is in its table, blocked or ready by its count, and the entry of LAUNCH ends. -/
theorem State.acceptPacket_admits {e : Entry} (found : s.part? p.id = some p) (head : s.me.headEntry 67 = some e) :
    ∃ l, endedAt ((s.acceptPacket p c h cmd k hd recs).finishHead 67 0 1) 67 0 1 ∧
      ((s.acceptPacket p c h cmd k hd recs).finishHead 67 0 1).launch? ⟨p.id, c.ctx, k.graph, k.index⟩ = some l ∧
      (l.state = if l.depCount ≤ 0 then .ready else .blocked) ∧ FromPacket s p c.ctx h k hd l ∧
      ∀ n ∈ l.channels, ∃ ch ∈ ((s.acceptPacket p c h cmd k hd recs).finishHead 67 0 1).channels,
        ch.num = n ∧ ch.holder = ⟨p.id, c.ctx, k.graph, k.index⟩ := by
  obtain ⟨w, l, enters, there, blocked, packet, channels, entries⟩ :=
    State.acceptPacket_enters (c := c) (h := h) (cmd := cmd) (k := k) (hd := hd) (recs := recs) found
  obtain ⟨n, ready⟩ := State.launch?_checkReady there blocked
  rw [enters]
  have entry : (w.checkReady ⟨p.id, c.ctx, k.graph, k.index⟩).me.headEntry 67 = some e := by
    rw [State.checkReady_me, Core.headEntry_congr entries, head]
  have packet := packet.counted w.cycle n
  refine ⟨l.counted w.cycle n, State.endedAt_finishHead entry 0 1, ready, Launch.counted_state blocked _ _, packet, fun m hm => ?_⟩
  rw [packet.channels] at hm
  refine ⟨newChannel m ⟨p.id, c.ctx, k.graph, k.index⟩ c.ctx, ?_, rfl, rfl⟩
  show _ ∈ (w.checkReady ⟨p.id, c.ctx, k.graph, k.index⟩).channels
  rw [State.checkReady_channels, channels]
  exact List.mem_append_right _ (List.mem_map_of_mem hm)
end

/-! ## The graph of a rejected packet -/

/-- A phase's counter lies in its partition's tables; the pages reached do not matter to it. -/
theorem State.changePhase_reaching (s : State) (l : List Frame) (part ctx id : Nat) (f : Counter → Counter) :
    (s.reaching l).changePhase part ctx id f = ({ s with parts := (s.changePhase part ctx id f).parts } : State).reaching l := by
  unfold State.changePhase
  rw [show (s.reaching l).part? part = s.part? part from rfl]
  cases (s.part? part).bind (fun p => Machine.completes p.phases ctx id f) <;> rfl

theorem State.changeGraph_reaching (s : State) (l : List Frame) (part ctx id : Nat) (f : Counter → Counter) :
    (s.reaching l).changeGraph part ctx id f = ({ s with parts := (s.changeGraph part ctx id f).parts } : State).reaching l := by
  unfold State.changeGraph
  rw [show (s.reaching l).part? part = s.part? part from rfl]
  cases (s.part? part).bind (fun p => Machine.completes p.graphs ctx id f) with
  | none => rfl
  | some c => exact State.changePhase_reaching (s.updPart part (fun p => { p with graphs := updCounter p.graphs ctx id f })) l _ _ _ _

/-- A rejection changes nothing but its graph, in its partition's tables. -/
theorem State.rejectInGraph_reaching (s : State) (l : List Frame) (p : Partition) (ctx : Nat) (k : Packet) :
    (s.reaching l).rejectInGraph p ctx k = ({ s with parts := (s.rejectInGraph p ctx k).parts } : State).reaching l := by
  unfold State.rejectInGraph
  split
  · exact State.changeGraph_reaching s l _ _ _ _
  · split
    · exact State.changeGraph_reaching (s.updPart p.id (fun p => p.ensureGraph ctx k)) l _ _ _ _
    · rfl

theorem State.rejectInGraph_eq (s : State) (p : Partition) (ctx : Nat) (k : Packet) :
    s.rejectInGraph p ctx k = { s with parts := (s.rejectInGraph p ctx k).parts } := State.rejectInGraph_reaching s s.frames p ctx k

/-! ## LAUNCH at the launch unit -/

section
variable {s : State} {p : Partition} {h : CmdHead} {cmd : LaunchCmd} {e : Entry} {bs head splits : List Byte}

/-- A packet whose tiles are all alike is judged once it and its header have been read. -/
theorem State.takeLaunch_judges (job : (s.me.headEntry 67).map (·.job) = some .none) (loads : s.engLoad s.me cmd.pkt.toNat 64 = .ok bs)
    (alike : (packetOf s.me.id bs).ragged = false) :
    ∃ l, s.takeLaunch h cmd = (s.reaching l).judgeLaunch h cmd bs (s.headerBytes s.me (packetOf s.me.id bs).entry).1
      (s.headerBytes s.me (packetOf s.me.id bs).entry).2 [] := by
  unfold State.takeLaunch
  rw [job]
  dsimp only
  rw [loads]
  dsimp only
  obtain ⟨a, read⟩ := State.touch_touch (s := s) s.me s.me cmd.pkt.toNat 64 (packetOf s.me.id bs).entry
    (s.headerBytes s.me (packetOf s.me.id bs).entry).1.length
  have tiles : (s.reaching a).tileBytes (packetOf s.me.id bs) = .ok [] := if_neg fun r => by
    rw [alike] at r
    exact Bool.false_ne_true r.1
  obtain ⟨b, touched⟩ := (s.reaching a).touch_eq s.me (packetOf s.me.id bs).tail 0
  refine ⟨b, ?_⟩
  rw [read, State.checkLaunch, show (s.reaching a).me = s.me from rfl, tiles]
  dsimp only [List.length_nil]
  rw [touched]
  rfl

/-- A packet without a fault is accepted. -/
theorem State.judgeLaunch_accepts {hd : KernelHeader} (of : s.partOf s.me.id = some p)
    (writable : s.engPlace s.me (packetOf s.me.id bs).crec 32 .store ≠ .retry) (header : headerIn head splits = some hd)
    (sound : s.packetFault s.me p ⟨p.id, s.me.ctx, (packetOf s.me.id bs).graph, (packetOf s.me.id bs).index⟩ (packetOf s.me.id bs) (some hd) none = none) :
    ∃ recs, s.judgeLaunch h cmd bs head splits [] = (s.acceptPacket p s.me h cmd (packetOf s.me.id bs) hd recs).finishHead 67 0 1 := by
  unfold State.judgeLaunch
  dsimp only
  rw [of]
  dsimp only
  rw [if_neg writable, header]
  simp only [List.isEmpty_nil, if_true, sound]
  exact ⟨_, rfl⟩

/-- A packet with a fault is rejected. -/
theorem State.judgeLaunch_rejects {f : Nat × Nat} (of : s.partOf s.me.id = some p)
    (writable : s.engPlace s.me (packetOf s.me.id bs).crec 32 .store ≠ .retry)
    (faulty : s.packetFault s.me p ⟨p.id, s.me.ctx, (packetOf s.me.id bs).graph, (packetOf s.me.id bs).index⟩ (packetOf s.me.id bs)
      (headerIn head splits) none = some f) :
    s.judgeLaunch h cmd bs head splits [] =
      ((s.rejectInGraph p s.me.ctx (packetOf s.me.id bs)).updMe (fun c => c.updHead 67 (fun e =>
        { e with job := .rejected (packetOf s.me.id bs).crec f.1 f.2 }))).rejectRecord (packetOf s.me.id bs).crec f.1 f.2 := by
  unfold State.judgeLaunch
  dsimp only
  rw [of]
  dsimp only
  rw [if_neg writable]
  simp only [List.isEmpty_nil, if_true, faulty]

theorem exec_launch (w : waitsAt s 67 h (.launch cmd) e) : exec (.launch h cmd) s = .next ((takenUp s 67).takeLaunch h cmd) :=
  congrArg Host.Outcome.next (State.takeHead_of_waits w _)

/-- What a rejection leaves: its record is written as it would have been before the pages of the packet were reached. -/
theorem State.rejectRecord_writes {w v : State} {l : List Frame} {crec off index : Nat} (head : w.me.headEntry 67 = some e)
    (writes : w.engStoreAs (w.hubAgent w.me.ctx w.me.id) crec (launchRecord 2 off index 0 0 w.cycle) = .ok v) :
    ((w.reaching l).rejectRecord crec off index).mem = v.mem ∧ endedAt ((w.reaching l).rejectRecord crec off index) 67 0 0 := by
  obtain ⟨l', stored⟩ := State.engStoreAs_reaching l writes
  have ends : (w.reaching l).rejectRecord crec off index = (v.reaching l').finishHead 67 0 0 := by
    unfold State.rejectRecord
    rw [show (w.reaching l).engStoreAs ((w.reaching l).hubAgent (w.reaching l).me.ctx (w.reaching l).me.id) crec
      (launchRecord 2 off index 0 0 (w.reaching l).cycle) = .ok (v.reaching l') from stored]
  rw [ends]
  exact ⟨rfl, State.endedAt_finishHead ((EngWrote.engStoreAs writes).headEntry.trans head) 0 0⟩
end

theorem launchPacketsAreAcceptedOrRejected : LaunchPacketsAreAcceptedOrRejected := by
  refine ⟨fun _ _ _ _ _ _ _ => State.packetLimits_of_packetFault, fun s h cmd e p bs w => ?_⟩
  intro u k key x loads of found alike writable
  have job : (u.me.headEntry 67).map (·.job) = some .none := by
    obtain ⟨-, -, -, -, job⟩ := id w
    rw [State.headEntry_takenUp w, Option.map_some, job]
  obtain ⟨l, judges⟩ := State.takeLaunch_judges (h := h) job loads alike
  have runs := (exec_launch w).trans (congrArg Host.Outcome.next judges)
  refine ⟨fun hd header sound => ?_, fun f faulty => ?_⟩
  · obtain ⟨recs, accepts⟩ := State.judgeLaunch_accepts (s := u.reaching l) (h := h) (cmd := cmd) of writable header sound
    obtain ⟨-, -, -, free⟩ := State.packetLimits_of_packetFault sound
    obtain ⟨t, ended⟩ : ∃ t, t = ((u.reaching l).acceptPacket p u.me h cmd k hd recs).finishHead 67 0 1 := ⟨_, rfl⟩
    obtain ⟨entry, ends, there, state, packet, taken⟩ := State.acceptPacket_admits (s := u.reaching l) (c := u.me) (h := h) (cmd := cmd) (k := k)
      (hd := hd) (recs := recs) found (State.headEntry_takenUp w)
    have mem : t.mem = s.mem := by
      rw [ended]
      exact State.acceptPacket_mem _ _ _ _ _ _ _ _
    have runs := runs.trans (congrArg Host.Outcome.next (accepts.trans ended.symm))
    rw [← ended] at ends there taken
    obtain ⟨context, startPc, unitCount, gangSize, prio, det, persistent, crec, tag, units, channels, count⟩ := packet
    refine ⟨t, entry, runs, ends, mem, there, context, startPc, unitCount, gangSize, prio, det, persistent, crec, tag, units, state, count, ?_, taken⟩
    rw [channels, List.length_take]
    exact min_eq_left free
  · intro rejected v writes
    have rejects := State.judgeLaunch_rejects (s := u.reaching l) (h := h) (cmd := cmd) of writable faulty
    rw [State.rejectInGraph_reaching] at rejects
    have same : rejected = ({ u with parts := (u.rejectInGraph p s.me.ctx k).parts } : State).updMe (fun c =>
        c.updHead 67 (fun e => { e with job := .rejected k.crec f.1 f.2 })) :=
      congrArg (State.updMe · _) (u.rejectInGraph_eq p s.me.ctx k)
    clear_value rejected
    subst same
    have named := Core.headEntry_updHead (f := fun e => { e with job := .rejected k.crec f.1 f.2 }) (State.headEntry_takenUp w) fun _ hx => hx
    obtain ⟨mem, ends⟩ := State.rejectRecord_writes (l := l) named writes
    exact ⟨_, runs.trans (congrArg Host.Outcome.next rejects), ends, mem⟩

/-- Settles O38, by what LAUNCH leaves of an accepted and of a rejected packet and by the order of the ready queues. -/
theorem launchesEnterTheTableAndBecomeReady : Obligations.LaunchesEnterTheTableAndBecomeReady :=
  ⟨launchPacketsAreAcceptedOrRejected, launchesBecomeReadyAndAge⟩

end Sys2Proof.Machine
end

section
/-!
SUPPORT. Two states that refute: memory whose keys stand out of order, and a table of cores whose entry for core 1 is
numbered 0. The statements ask for neither that order nor that numbering.
-/
namespace Sys2Proof.Machine

open Sys2Proof Sys2Proof.Claims

/-! ## A partition of one truss with one launch -/

def loneKey : LaunchKey := ⟨1, 1, 0, 0⟩

/-- A launch of two units, ready, with none placed. -/
def twoUnits : Launch := { Launch.empty loneKey with state := .ready, unitCount := 2 }

/-- Partition 1: truss 0, one launch, nothing else. -/
def partitionOf (l : Launch) : Partition where
  id := 1
  trusses := [0]
  pages := []
  banks := []
  channels := []
  groups := []
  lpddr := []
  stacked := []
  ports := []
  sliceLen := 0
  sliceClamped := false
  versioned := Vector.replicate 16 (0, 0)
  measurement := 0
  supCore := 0
  supBooted := false
  launches := [l]
  head := none
  graphs := []
  phases := []
  jobs := []
  readyNext := 0
  wdRing := none
  wdHeld := []
  wdPoll := 0
  wdLost := 0
  mailbox := []

/-! ## Placing over memory out of order -/

/-- Core 0 served the launch before. Its first byte of memory, 1, stands behind a greater key, so that it reads as zero
until the store of core 1 has been zeroed. -/
def unordered : State := { State.reset with
  me := { Core.fresh 0 with lastLaunch := some loneKey }
  parts := [partitionOf twoUnits]
  mem := [(localKey 1 0, 1), (localKey 0 0, 1)] }

theorem unordered_placement : unordered.placement (partitionOf twoUnits) twoUnits =
    some ([(0, .unplaced), (1, .unplaced)], 2, [0, 1], [0, 1]) := by decide +kernel

theorem unordered_reads_zero : Memory.read (localKey 0 0) unordered.mem = 0 := by decide +kernel

theorem unordered_placed_reads_one : Memory.read (localKey 0 0) (unordered.place 1).mem = 1 := by decide +kernel

/-- Refutes O39: nothing asks that memory's keys stand in order. On a memory out of order, zeroing the store of a core that
passes to the launch changes what the store of another core reads, whose bytes are to be kept. -/
theorem not_placingStartsUnitsOnTheirCores : ¬ Obligations.PlacingStartsUnitsOnTheirCores := by
  intro holds
  obtain ⟨t, runs, placed⟩ := holds unordered 1 (partitionOf twoUnits) twoUnits _ _ _ _ (by decide +kernel) (by decide +kernel) rfl
    (by decide +kernel) unordered_placement (by decide) rfl (by decide) (by decide) (by decide) (by decide) (by decide)
  obtain rfl : unordered.place 1 = t := Host.Outcome.next.inj runs
  obtain ⟨-, -, -, -, -, -, -, -, kept, -⟩ := placed 0 0 (by decide)
  obtain ⟨-, same⟩ := kept rfl
  have bytes := same (localKey 0 0) ⟨le_rfl, by decide⟩
  rw [unordered_reads_zero, unordered_placed_reads_one] at bytes
  exact absurd bytes (by decide)

/-! ## Cancelling with a core under another's number -/

/-- CANCEL of launch 0 of graph 0 (R353). -/
def cancelsLaunch : CancelCmd := { level := 1, key := 0, index := 0 }

def plainHead : CmdHead := { irq := false, bar := false, wantsRecord := false, chan := 0, tag := 0, crec := 0 }

/-- Core 0 runs a unit of another launch and issues the CANCEL. The entry of core 1 is numbered 0 and had served the
launch to be cancelled, so that freeing the cores of the launch stops core 0. -/
def misnumbered : State := { State.reset with
  me := { Core.fresh 0 with
    run := .running
    unit := some { Launch.unitCfg twoUnits 0 [] with launch := ⟨1, 1, 5, 0⟩ }
    sup := { SupRegs.reset with ctxid := 1 }
    entries := [{ newEntry 4 0 plainHead (.cancel cancelsLaunch) with state := .accepted }] }
  others := [(1, { Core.fresh 0 with lastLaunch := some loneKey })]
  parts := [partitionOf { Launch.empty loneKey with state := .blocked }] }

theorem misnumbered_waits : waitsAt misnumbered 67 plainHead (.cancel cancelsLaunch)
    { newEntry 4 0 plainHead (.cancel cancelsLaunch) with state := .accepted } := ⟨rfl, rfl, rfl, rfl, rfl⟩

/-- The state after the step. -/
def misnumberedCancelled : State :=
  (misnumbered.takeHead 67 plainHead (.cancel cancelsLaunch) (fun _ s => s.takeCancel cancelsLaunch)).endCancel plainHead cancelsLaunch

theorem misnumberedCancelled_active : (misnumberedCancelled.me.headEntry 67).map (·.state) = some .active := by decide +kernel

/-- Refutes O40: nothing asks that the cores stand under their own numbers. Cancelling a launch that has not begun frees the
core that is numbered 0; that stops the unit of the issuing core, for which the entry then waits, where it is to end. -/
theorem not_workCommandsAndRangeUnitsFollowTheirRules : ¬ Obligations.WorkCommandsAndRangeUnitsFollowTheirRules := by
  rintro ⟨-, -, -, cancels, -⟩
  obtain ⟨-, -, -, launch⟩ := cancels misnumbered plainHead cancelsLaunch _ misnumbered_waits
  obtain ⟨t, l', runs, ⟨e, found, ended, -⟩, -⟩ := launch (partitionOf { Launch.empty loneKey with state := .blocked })
    { Launch.empty loneKey with state := .blocked } rfl (by decide +kernel) (by decide +kernel) (by decide +kernel) rfl (by decide +kernel)
    (.inl rfl) rfl (by decide +kernel)
  obtain rfl : misnumberedCancelled = t := Host.Outcome.next.inj runs
  have active := misnumberedCancelled_active
  rw [found, Option.map_some, ended] at active
  cases active

end Sys2Proof.Machine
end

section
/-!
SUPPORT. Reading and writing a register as an operand, in each of its forms: a port, the destination of a held atomic, an
ordinary register (O2).
-/
namespace Sys2Proof.Machine

open Sys2Proof Sys2Proof.Claims

theorem leVal_lt : ∀ bs : List Byte, leVal bs < 256 ^ bs.length
  | [] => Nat.one_pos
  | b :: bs => by
    rw [leVal, List.length_cons, Nat.pow_succ]
    have tail := leVal_lt bs
    have head := b.isLt
    omega

theorem State.peek_lt (s : State) (k n : Nat) : s.peek k n < 256 ^ n := by
  simpa [State.peek] using leVal_lt (Memory.readBytes s.mem k n)

/-! ## The head of a receive queue -/

/-- The state with other receive queues of the current core. -/
def State.withPorts (s : State) (p : Vector PortQueue 8) : State := { s with me := { s.me with ports := p } }

/-- The queue of port j without its head word: the hardware queue is filled up from the head of the spill area (R100). -/
def State.queueRest (s : State) (j : Nat) (pq : PortQueue) (rest : List Word) : PortQueue :=
  if pq.spillCount = 0 then { pq with hw := rest }
  else { hw := rest ++ [BitVec.ofNat 64 (s.peek (localKey s.me.id (s.me.spillBase j + 8 * pq.spillHead)) 8)]
         spillHead := (pq.spillHead + 1) % 64, spillCount := pq.spillCount - 1 }

section
variable {s t : State} {j : Nat} {pq : PortQueue} {w : Word} {rest : List Word}

theorem State.queueRest_of_noSpill (h : pq.spillCount = 0) : s.queueRest j pq rest = { pq with hw := rest } := if_pos h

theorem State.queueRest_of_spill (h : 0 < pq.spillCount) : s.queueRest j pq rest =
    { hw := rest ++ [BitVec.ofNat 64 (s.peek (localKey s.me.id (s.me.spillBase j + 8 * pq.spillHead)) 8)]
      spillHead := (pq.spillHead + 1) % 64, spillCount := pq.spillCount - 1 } := if_neg (Nat.ne_of_gt h)

theorem State.portTake_of_empty (h : s.me.ports[j]? = some pq) (hw : pq.hw = []) : s.portTake j = none := by
  simp [State.portTake, h, hw]

theorem State.portTake_of_head (h : s.me.ports[j]? = some pq) (hw : pq.hw = w :: rest) : s.portTake j =
    some (w, s.withPorts (s.me.ports.setIfInBounds j (s.queueRest j pq rest))) := by
  simp [State.portTake, h, hw, State.queueRest, State.withPorts]

/-- Taking a word changes no queue but its own, and nothing else. -/
theorem State.portTake_leaves (h : s.portTake j = some (w, t)) :
    ∃ p, t = s.withPorts p ∧ ∀ k, k ≠ j → p[k]? = s.me.ports[k]? := by
  match hq : s.me.ports[j]? with
  | none => simp [State.portTake, hq] at h
  | some pq =>
    match hw : pq.hw with
    | [] => simp [State.portTake_of_empty hq hw] at h
    | v :: rest =>
      rw [State.portTake_of_head hq hw] at h
      cases h
      exact ⟨_, rfl, fun k hk => Vector.getElem?_setIfInBounds_ne hk.symm⟩
end

/-! ## Reading a register -/

/-- Port register n has a partner to read from: an outer channel, or a neighbour whose core is (R102). -/
def State.hasSource (s : State) (n : Nat) : Prop := 28 ≤ n ∨ ∃ m, neighbour s.me.id (n - 24) = some m ∧ s.partnerOk m = true

section
variable {s t : State} {r : BitVec 5} {n : Nat} {w : Word}

theorem portRead_of_noSource (h : ¬ s.hasSource n) : portRead n s = .error (.trap 3 (BitVec.ofNat 64 n)) := by
  obtain ⟨low, none⟩ := not_or.1 h
  simp only [portRead, M.bind_look, if_pos (Nat.lt_of_not_le low)]
  match hm : neighbour s.me.id (n - 24) with
  | .none => rfl
  | some m =>
    have off : ¬ s.partnerOk m = true := fun ok => none ⟨m, hm, ok⟩
    simp only [if_neg off]
    rfl

/-- With a partner the read waits on an empty queue and takes the word of another. -/
theorem portRead_of_source (h : s.hasSource n) :
    portRead n s = (s.portTake (n - 24)).elim (.error (.stall (.portRead n) 0)) .ok := by
  by_cases low : n < 28
  · obtain ⟨m, hm, ok⟩ := h.resolve_left (Nat.not_le_of_lt low)
    cases e : s.portTake (n - 24) <;> simp only [portRead, M.bind_look, if_pos low, hm, ok, e] <;> rfl
  · cases e : s.portTake (n - 24) <;> simp only [portRead, M.bind_look, if_neg low, e] <;> rfl

theorem readReg_port (h : s.me.isPort r.toNat = true) : readReg r s = portRead r.toNat s := by
  simp only [readReg, M.bind_meM, if_pos h]

theorem writeReg_port (h : s.me.isPort r.toNat = true) : writeReg r w s = portWrite r.toNat w s := by
  simp only [writeReg, M.bind_meM, if_pos h]

/-- A register that is no port is read and written as it is stored, once the check for a held atomic has passed. -/
theorem readReg_stored (h : s.me.isPort r.toNat = false) :
    readReg r s = (do pendingCheck r.toNat; pure (s.me.gpr r.toNat) : M Word) s := by
  simp only [readReg, M.bind_meM, h, Bool.false_eq_true, if_false]

theorem writeReg_stored (h : s.me.isPort r.toNat = false) :
    writeReg r w s = (do pendingCheck r.toNat; changeMe (fun c => c.setGpr r.toNat w) : M Unit) s := by
  simp only [writeReg, M.bind_meM, h, Bool.false_eq_true, if_false]

theorem Core.isPort_range {c : Core} (h : c.isPort n = true) : 24 ≤ n ∧ n < 32 := by
  simp only [Core.isPort, Bool.and_eq_true, decide_eq_true_eq] at h
  exact h.1

/-- The reads of a port register (R96, R99, R100, R102). -/
theorem portRegisterReadsTakeTheHeadWord : PortRegisterReadsTakeTheHeadWord := by
  intro s r port
  have range := Core.isPort_range port
  rw [readReg_port port, ← BitVec.ofNat_toNat]
  refine ⟨portRead_of_noSource, fun source q hq => ?_⟩
  rw [portRead_of_source source]
  refine ⟨fun hw => by rw [State.portTake_of_empty hq hw]; rfl, fun w rest hw => ?_⟩
  rw [State.portTake_of_head hq hw]
  refine ⟨_, rfl, fun k hk => Vector.getElem?_setIfInBounds_ne hk.symm, fun none => ?_, fun some => ?_⟩
  · rw [Vector.getElem?_setIfInBounds_self_of_lt (by omega), State.queueRest_of_noSpill none]
  · rw [Vector.getElem?_setIfInBounds_self_of_lt (by omega), State.queueRest_of_spill some]
    exact ⟨_, rfl, Nat.mod_eq_of_lt (State.peek_lt s _ 8)⟩

/-! ## Writing a port register -/

theorem portPartner_of_noTarget (h : s.me.portTarget (n - 24) = none) :
    portPartner n s = .error (.trap 3 (BitVec.ofNat 64 n)) := by
  simp only [portPartner, M.bind_look, h]
  rfl

section
variable {m q : Nat} (target : s.me.portTarget (n - 24) = some (m, q))
include target

theorem portPartner_of_noPartner (ok : s.partnerOk m = false) : portPartner n s = .error (.trap 3 (BitVec.ofNat 64 n)) := by
  simp only [portPartner, M.bind_look, target, ok]
  rfl

theorem portPartner_of_partner (ok : s.partnerOk m = true) : portPartner n s = .ok ((m, q), s) := by
  simp only [portPartner, M.bind_look, target, ok]
  rfl

theorem portWrite_of_partner (ok : s.partnerOk m = true) : portWrite n w s =
    if s.retries m s.me.ctx then .error (.stall (.portRetry n) 0)
    else if (s.core m).portRoom q then .ok ((), s.portDeliver m q w)
    else .error (.stall (.portWrite n) 0) := by
  rw [portWrite, M.bind_ok (portPartner_of_partner target ok)]
  simp only [M.bind_look]
  cases s.retries m s.me.ctx <;> cases (s.core m).portRoom q <;> rfl

theorem portWrite_of_retry (ok : s.partnerOk m = true) (retry : s.retries m s.me.ctx = true) :
    portWrite n w s = .error (.stall (.portRetry n) 0) := by
  rw [portWrite_of_partner target ok, if_pos retry]

theorem portWrite_of_full (ok : s.partnerOk m = true) (retry : s.retries m s.me.ctx = false) (full : (s.core m).portRoom q = false) :
    portWrite n w s = .error (.stall (.portWrite n) 0) := by
  simp [portWrite_of_partner target ok, retry, full]

theorem portWrite_of_room (ok : s.partnerOk m = true) (retry : s.retries m s.me.ctx = false) (room : (s.core m).portRoom q = true) :
    portWrite n w s = .ok ((), s.portDeliver m q w) := by
  simp [portWrite_of_partner target ok, retry, room]
end

section
variable {m q : Nat} {pq : PortQueue} (queue : (s.core m).ports[q]? = some pq)
include queue

theorem State.portDeliver_of_queued (room : pq.hw.length < 16) (none : pq.spillCount = 0) : s.portDeliver m q w =
    s.setCore m { s.core m with ports := (s.core m).ports.setIfInBounds q { pq with hw := pq.hw ++ [w] } } := by
  simp [State.portDeliver, queue, room, none]

theorem State.portDeliver_of_spilled (spills : ¬ (pq.hw.length < 16 ∧ pq.spillCount = 0)) : s.portDeliver m q w =
    (s.setCore m { s.core m with ports := (s.core m).ports.setIfInBounds q { pq with spillCount := pq.spillCount + 1 } }).writeMem
      (localKey m ((s.core m).spillBase q + 8 * ((pq.spillHead + pq.spillCount) % 64))) (leBytes 8 w.toNat) := by
  simp only [State.portDeliver, queue, if_neg spills]
end

/-- The writes of a port register (R96, R99 to R102). -/
theorem portRegisterWritesSendOneWord : PortRegisterWritesSendOneWord := by
  intro s r w port
  rw [writeReg_port port, ← BitVec.ofNat_toNat]
  refine ⟨fun none => M.bind_error (portPartner_of_noTarget none), fun n q target =>
    ⟨fun ok => M.bind_error (portPartner_of_noPartner target ok), portWrite_of_retry target, portWrite_of_full target,
      fun ok retry room => ⟨_, portWrite_of_room target ok retry room, fun pq queue short none => ?_⟩⟩⟩
  rw [State.portDeliver_of_queued queue short none]
  exact ⟨State.setCore_mem .., rfl⟩

/-! ## Registers that a held atomic writes -/

theorem pendingCheck_of_held (held : s.me.pendingRegs.contains (s.me.bankReg n) = true) :
    pendingCheck n s = .error (if s.me.batchArrived then .stall (.pendingReg n) 0 else .trapWord 13) := by
  simp only [pendingCheck, M.bind_meM, held, if_true]
  split <;> rfl

/-- The uses of a register that a held atomic writes (R151). -/
theorem pendingRegistersTrapBeforeArrivalAndWaitAfter : PendingRegistersTrapBeforeArrivalAndWaitAfter := by
  intro s r w port held
  rw [readReg_stored port, writeReg_stored port, M.bind_error (pendingCheck_of_held held), M.bind_error (pendingCheck_of_held held)]
  exact ⟨fun before => by simp [before], fun after => by simp [after]⟩
end

/-! ## The hard-wired registers -/

theorem Core.pr_setPr_same {c : Core} {n : Nat} {x : Word} (h0 : n ≠ 0) (h : n < 8) : (c.setPr n x).pr n = x := by
  simp [Core.pr, Core.setPr, h0, h]

theorem Core.pr_setPr_other {c : Core} {m n : Nat} {x : Word} (h : m ≠ n) : (c.setPr n x).pr m = c.pr m := by
  by_cases hn : n = 0
  · simp [Core.setPr, hn]
  · by_cases hm : m = 0
    · simp [Core.pr, hm]
    · simp only [Core.pr, Core.setPr, hn, hm, if_false]
      rw [Vector.getElem?_setIfInBounds_ne h.symm]

/-- g0 and p0, and the registers that are stored (R217). -/
theorem hardwiredRegistersReadConstantsAndDiscardWrites : HardwiredRegistersReadConstantsAndDiscardWrites := fun c w =>
  ⟨c.gpr_zero, c.setGpr_zero w, c.pr_zero, c.setPr_zero w,
    fun _ h0 h => ⟨Core.gpr_setGpr_same (Nat.ne_of_gt h0) h, fun _ => Core.gpr_setGpr_other⟩,
    fun _ h0 h => ⟨Core.pr_setPr_same (Nat.ne_of_gt h0) h, fun _ => Core.pr_setPr_other⟩⟩

/-- Settles O2: ports read and written, held destinations, g0 and p0. -/
theorem portPendingAndHardwiredRegistersFollowTheirRules : Obligations.PortPendingAndHardwiredRegistersFollowTheirRules :=
  ⟨portRegisterReadsTakeTheHeadWord, portRegisterWritesSendOneWord, pendingRegistersTrapBeforeArrivalAndWaitAfter,
    hardwiredRegistersReadConstantsAndDiscardWrites⟩

end Sys2Proof.Machine
end

section
/-!
SUPPORT. What a register instruction leaves of the machine: its reads take words from the ports they name, its write changes
the destination or sends one word (O3).
-/
namespace Sys2Proof.Machine

open Sys2Proof Sys2Proof.Claims

/-! ## What reads leave -/

/-- Of the whole machine at most the receive queues of the ports among registers rs differ. -/
def readsOnly (rs : List (BitVec 5)) (s u : State) : Prop :=
  ∃ p, u = s.withPorts p ∧ ∀ q, (∀ r ∈ rs, q + 24 ≠ r.toNat) → p[q]? = s.me.ports[q]?

theorem readsOnly.refl (s : State) : readsOnly [] s s := ⟨s.me.ports, rfl, fun _ _ => rfl⟩

section
variable {s t u v : State} {r rd : BitVec 5} {rs : List (BitVec 5)} {w : Word} {n : Nat}

theorem readsOnly.cons (first : readsOnly [r] s u) (rest : readsOnly rs u v) : readsOnly (r :: rs) s v := by
  obtain ⟨p, rfl, same⟩ := first
  obtain ⟨p', rfl, same'⟩ := rest
  refine ⟨p', rfl, fun q hq => ?_⟩
  obtain ⟨hr, hrs⟩ := List.forall_mem_cons.1 hq
  exact (same' q hrs).trans (same q (by simpa using hr))

theorem readsOnly.isPort (h : readsOnly rs s u) : u.me.isPort n = s.me.isPort n := by
  obtain ⟨p, rfl, -⟩ := h
  rfl

theorem readsOnly.portTarget (h : readsOnly rs s u) : u.me.portTarget n = s.me.portTarget n := by
  obtain ⟨p, rfl, -⟩ := h
  rfl

theorem portRead_leaves (h : portRead n s = .ok (w, u)) :
    ∃ p, u = s.withPorts p ∧ ∀ k, k ≠ n - 24 → p[k]? = s.me.ports[k]? := by
  by_cases source : s.hasSource n
  · rw [portRead_of_source source] at h
    match e : s.portTake (n - 24) with
    | none => rw [e] at h; cases h
    | some (w', u') => rw [e] at h; cases h; exact State.portTake_leaves e
  · rw [portRead_of_noSource source] at h
    cases h

/-- The check for a held atomic changes nothing. -/
theorem pendingCheck_leaves (h : pendingCheck n s = .ok ((), u)) : u = s := by
  cases held : s.me.pendingRegs.contains (s.me.bankReg n) with
  | true => rw [pendingCheck_of_held held] at h; cases h
  | false => rw [pendingCheck_ok held] at h; cases h; rfl

theorem readReg_leaves (h : readReg r s = .ok (w, u)) : readsOnly [r] s u := by
  cases port : s.me.isPort r.toNat with
  | true =>
    rw [readReg_port port] at h
    obtain ⟨p, rfl, same⟩ := portRead_leaves h
    have range := Core.isPort_range port
    exact ⟨p, rfl, fun q hq => same q (by have := hq r (by simp); omega)⟩
  | false =>
    rw [readReg_stored port] at h
    obtain ⟨_, v, check, stored⟩ := M.bind_ok_iff.1 h
    obtain rfl := pendingCheck_leaves check
    cases stored
    exact ⟨_, rfl, fun _ _ => rfl⟩

/-! ## What the write does -/

/-- A write goes on only to the register as it is stored, or to the target of its port. -/
theorem writeReg_cases (h : writeReg rd w u = .ok ((), t)) :
    (u.me.isPort rd.toNat = false ∧ t = u.updMe (fun c => c.setGpr rd.toNat w)) ∨
    (u.me.isPort rd.toNat = true ∧ ∃ m q, u.me.portTarget (rd.toNat - 24) = some (m, q) ∧ t = u.portDeliver m q w) := by
  cases port : u.me.isPort rd.toNat with
  | false =>
    rw [writeReg_stored port] at h
    obtain ⟨_, v, check, stored⟩ := M.bind_ok_iff.1 h
    obtain rfl := pendingCheck_leaves check
    cases stored
    exact .inl ⟨rfl, rfl⟩
  | true =>
    rw [writeReg_port port] at h
    match target : u.me.portTarget (rd.toNat - 24) with
    | none => rw [portWrite, M.bind_error (portPartner_of_noTarget target)] at h; cases h
    | some (m, q) =>
      cases ok : u.partnerOk m with
      | false => rw [portWrite, M.bind_error (portPartner_of_noPartner target ok)] at h; cases h
      | true =>
        rw [portWrite_of_partner target ok] at h
        split at h
        · cases h
        · split at h
          · cases h; exact .inr ⟨rfl, m, q, rfl, rfl⟩
          · cases h

/-! ## A word that is delivered -/

section
variable {m q a : Nat}

/-- Of the cores at most receive queue q of core m differs. -/
def onlyQueue (m q : Nat) (u t : State) : Prop :=
  (∃ p, t.me = { u.me with ports := p }) ∧ (∀ n, n ≠ m → t.core n = u.core n) ∧
  ∀ k, k ≠ q → (t.core m).ports[k]? = (u.core m).ports[k]?

theorem onlyQueue.of_setCore {p : Vector PortQueue 8} (same : ∀ k, k ≠ q → p[k]? = (u.core m).ports[k]?)
    (hm : t.me = (u.setCore m { u.core m with ports := p }).me)
    (ho : t.others = (u.setCore m { u.core m with ports := p }).others) : onlyQueue m q u t := by
  have number : m = u.me.id → ({ u.core m with ports := p } : Core).id = m := by rintro rfl; simp
  refine ⟨?_, fun n hn => by rw [State.core_congr hm ho, State.core_setCore_other number hn], ?_⟩
  · by_cases own : m = u.me.id
    · subst own
      exact ⟨p, by rw [hm, State.setCore_me, State.core_me]⟩
    · exact ⟨u.me.ports, by rw [hm, State.me_setCore_other own]⟩
  · rw [State.core_congr hm ho, State.core_setCore_same number]
    exact same

theorem State.portDeliver_onlyQueue (u : State) (m q : Nat) (w : Word) : onlyQueue m q u (u.portDeliver m q w) := by
  match queue : (u.core m).ports[q]? with
  | none =>
    have stays : u.portDeliver m q w = u := by simp [State.portDeliver, queue]
    rw [stays]
    exact ⟨⟨u.me.ports, rfl⟩, fun _ _ => rfl, fun _ _ => rfl⟩
  | some pq =>
    by_cases fits : pq.hw.length < 16 ∧ pq.spillCount = 0
    · rw [State.portDeliver_of_queued queue fits.1 fits.2]
      exact .of_setCore (fun k hk => Vector.getElem?_setIfInBounds_ne hk.symm) rfl rfl
    · rw [State.portDeliver_of_spilled queue fits]
      exact .of_setCore (fun k hk => Vector.getElem?_setIfInBounds_ne hk.symm) rfl rfl

@[simp] theorem State.setCore_eccBad (c : Core) : (s.setCore n c).eccBad = s.eccBad := by unfold State.setCore; split <;> rfl

section
variable {pq : PortQueue} (queue : (u.core m).ports[q]? = some pq)
include queue

theorem State.portDeliver_queued_leaves (room : pq.hw.length < 16) (none : pq.spillCount = 0) :
    (u.portDeliver m q w).mem = u.mem ∧ (u.portDeliver m q w).eccBad = u.eccBad ∧ (u.portDeliver m q w).waiters = u.waiters := by
  simp [State.portDeliver_of_queued queue room none]

/-- A word goes at most to its doubleword of the spill area. -/
theorem State.read_portDeliver (wf : Memory.wf u.mem = true)
    (out : a < localKey m ((u.core m).spillBase q + 8 * ((pq.spillHead + pq.spillCount) % 64)) ∨
      localKey m ((u.core m).spillBase q + 8 * ((pq.spillHead + pq.spillCount) % 64)) + 8 ≤ a) :
    Memory.read a (u.portDeliver m q w).mem = Memory.read a u.mem := by
  by_cases fits : pq.hw.length < 16 ∧ pq.spillCount = 0
  · rw [(State.portDeliver_queued_leaves queue fits.1 fits.2).1]
  · rw [State.portDeliver_of_spilled queue fits, State.writeMem_mem, State.setCore_mem,
      Memory.read_writeBytes_other wf (by rwa [length_leBytes])]
end
end

/-! ## What the whole instruction leaves -/

theorem State.core_withPorts_other {p : Vector PortQueue 8} (h : n ≠ s.me.id) : (s.withPorts p).core n = s.core n := by
  simp [State.core, State.withPorts, h]

theorem State.core_retire_other (h : n ≠ s.me.id) : s.retire.core n = s.core n := by
  simp [State.core, State.retire, Core.count, h]

theorem State.core_retire_ports (n : Nat) : (s.retire.core n).ports = (s.core n).ports := by
  by_cases h : n = s.me.id
  · subst h
    have own : s.retire.core s.me.id = s.retire.me := State.core_me (s := s.retire)
    rw [own, State.core_me]
    rfl
  · rw [State.core_retire_other h]

/-- A core that completes having changed general registers and receive queues alone. -/
def Core.completed (c : Core) (g : Vector Word 32) (p : Vector PortQueue 8) : Core :=
  { c with g := g, ports := p, pc := c.pc + 4, wait := none, user := { c.user with instret := c.user.instret + 1 } }

theorem Core.eq_completed {c d : Core} {g : Vector Word 32} {p : Vector PortQueue 8} (h : d = c.completed g p) :
    d = c.completed d.g d.ports := by
  subst h
  rfl

theorem regFrame_of_completed {g : Vector Word 32} {p : Vector PortQueue 8} (me : t.me = s.me.completed g p)
    (regs : ∀ n, n ≠ rd.toNat → t.me.gpr n = s.me.gpr n) (mem : s.me.isPort rd.toNat = false → t.mem = s.mem) : regFrame rd s t := by
  refine ⟨regs, ?_, ?_, ?_, ?_, ?_, ?_, ?_, ?_, ?_, ?_, fun port a => by rw [mem port]⟩ <;> rw [me] <;> rfl

theorem Core.setGpr_eq (c : Core) (n : Nat) (w : Word) : c.setGpr n w = { c with g := (c.setGpr n w).g } := by
  unfold Core.setGpr
  split <;> rfl

/-- Reads, then a write of a register as it is stored. -/
theorem frame_of_stored (reads : readsOnly rs s u) (port : s.me.isPort rd.toNat = false) :
    regFrame rd s (u.updMe (fun c => c.setGpr rd.toNat w)).retire ∧
    onlyRegisters rd rs s (u.updMe (fun c => c.setGpr rd.toNat w)).retire := by
  obtain ⟨p, rfl, same⟩ := reads
  have me : ((s.withPorts p).updMe (fun c => c.setGpr rd.toNat w)).retire.me =
      s.me.completed ((s.withPorts p).me.setGpr rd.toNat w).g p := by
    rw [State.retire_me, State.updMe_me, Core.setGpr_eq]
    rfl
  have regs : ∀ n, n ≠ rd.toNat → ((s.withPorts p).updMe (fun c => c.setGpr rd.toNat w)).retire.me.gpr n = s.me.gpr n :=
    fun _ other => Core.gpr_setGpr_other (c := (s.withPorts p).me) other
  refine ⟨regFrame_of_completed me regs fun _ => rfl, regs, fun _ => ⟨?_, ?_⟩, by simp [port]⟩
  · rw [me]
    exact same
  · exact congrArg (fun c => { s with me := c }) (Core.eq_completed me)

/-- Reads, then a word sent to a port's target. -/
theorem frame_of_sent {m q : Nat} (reads : readsOnly rs s u) (port : s.me.isPort rd.toNat = true)
    (target : s.me.portTarget (rd.toNat - 24) = some (m, q)) :
    regFrame rd s (u.portDeliver m q w).retire ∧ onlyRegisters rd rs s (u.portDeliver m q w).retire := by
  obtain ⟨p, rfl, same⟩ := reads
  obtain ⟨⟨p', me⟩, cores, queues⟩ := (s.withPorts p).portDeliver_onlyQueue m q w
  have completed : ((s.withPorts p).portDeliver m q w).retire.me = s.me.completed s.me.g p' := by
    rw [State.retire_me, me]
    rfl
  have regs : ∀ n, n ≠ rd.toNat → ((s.withPorts p).portDeliver m q w).retire.me.gpr n = s.me.gpr n := fun n _ => by
    rw [completed]
    rfl
  have number : ((s.withPorts p).portDeliver m q w).me.id = s.me.id := by rw [me]; rfl
  refine ⟨regFrame_of_completed completed regs (by simp [port]), regs, by simp [port], fun _ =>
    ⟨p, m, q, w, same, target, rfl, number, fun n own away => ?_, fun n k other => ?_,
      fun pq queue => ⟨State.portDeliver_queued_leaves queue, fun wf a => State.read_portDeliver queue wf⟩⟩⟩
  · rw [State.core_retire_other (by rwa [number]), cores n away, State.core_withPorts_other own]
  · rw [State.core_retire_ports]
    by_cases h : n = m
    · subst h
      exact queues k (other.resolve_left (not_not_intro rfl))
    · rw [cores n h]
      rfl

theorem frame_of_writeReg (reads : readsOnly rs s u) (write : writeReg rd w u = .ok ((), t)) :
    regFrame rd s t.retire ∧ onlyRegisters rd rs s t.retire := by
  obtain ⟨port, rfl⟩ | ⟨port, m, q, target, rfl⟩ := writeReg_cases write
  · exact frame_of_stored reads (reads.isPort ▸ port)
  · exact frame_of_sent reads (reads.isPort ▸ port) (reads.portTarget ▸ target)
end

/-! ## The instructions -/

/-- A body that reads registers rs, then writes rd. -/
def M.ReadsThenWrites (rs : List (BitVec 5)) (rd : BitVec 5) (body : M Unit) : Prop :=
  ∀ s t, body s = .ok ((), t) → ∃ u w, readsOnly rs s u ∧ writeReg rd w u = .ok ((), t)

theorem M.ReadsThenWrites.write {rd : BitVec 5} {w : Word} : M.ReadsThenWrites [] rd (writeReg rd w) := fun s _ h =>
  ⟨s, w, readsOnly.refl s, h⟩

theorem M.ReadsThenWrites.read {r rd : BitVec 5} {rs : List (BitVec 5)} {f : Word → M Unit}
    (rest : ∀ a, M.ReadsThenWrites rs rd (f a)) : M.ReadsThenWrites (r :: rs) rd (readReg r >>= f) := fun s t h => by
  obtain ⟨a, v, first, h⟩ := M.bind_ok_iff.1 h
  obtain ⟨u, w, reads, write⟩ := rest a v t h
  exact ⟨u, w, (readReg_leaves first).cons reads, write⟩

/-- An instruction that reads registers rs, writes rd, and goes on at pc + 4. -/
def isRegisterInstr (i : Instr) (rs : List (BitVec 5)) (rd : BitVec 5) : Prop :=
  ∃ body, M.ReadsThenWrites rs rd body ∧ ∀ s, exec i s = runI i body s

theorem isRegisterInstr.frame {i : Instr} {rs : List (BitVec 5)} {rd : BitVec 5} {s t : State} (h : isRegisterInstr i rs rd)
    (runs : exec i s = .next t) :
    (∃ c v, t = s.takeTrap c v) ∨ (∃ w r, t = s.park w r) ∨ (regFrame rd s t ∧ onlyRegisters rd rs s t) := by
  obtain ⟨body, shape, meaning⟩ := h
  rw [meaning] at runs
  obtain ⟨-, a, u, ends, rfl⟩ | trap | wait := run_cases runs
  · obtain ⟨v, w, reads, write⟩ := shape s u ends
    exact .inr (.inr (frame_of_writeReg reads write))
  · exact .inl trap
  · exact .inr (.inl wait)

section
variable {i : Instr} (rd ra rb : BitVec 5)

theorem isRegisterInstr.alu {f : Word → Word → Word} (h : ∀ s, exec i s = runI i (aluBody rd ra rb f) s) :
    isRegisterInstr i [ra, rb] rd := ⟨_, .read fun _ => .read fun _ => .write, h⟩

theorem isRegisterInstr.unary {f : Word → Word} (h : ∀ s, exec i s = runI i (unaryBody rd ra f) s) :
    isRegisterInstr i [ra] rd := ⟨_, .read fun _ => .write, h⟩

theorem isRegisterInstr_of_aluTable : ∀ e ∈ aluTable, isRegisterInstr (e.1 rd ra rb) [ra, rb] rd := by
  simp only [aluTable, List.forall_mem_cons, List.not_mem_nil, false_implies, implies_true, and_true]
  and_intros
  all_goals exact .alu rd ra rb fun _ => rfl

theorem isRegisterInstr_of_unaryTable (k : BitVec 16) : ∀ e ∈ unaryTable, isRegisterInstr (e.1 rd ra k) [ra] rd := by
  simp only [unaryTable, List.forall_mem_cons, List.not_mem_nil, false_implies, implies_true, and_true]
  and_intros
  all_goals exact .unary rd ra fun _ => rfl

theorem isRegisterInstr_sel : isRegisterInstr (.sel rd ra rb) [ra, rb, rd] rd :=
  ⟨_, .read fun _ => .read fun _ => .read fun _ => .write, fun _ => rfl⟩

theorem isRegisterInstr_lui (k : BitVec 16) : isRegisterInstr (.lui rd k) [] rd := ⟨_, .write, fun _ => rfl⟩

theorem isRegisterInstr_insh (h : BitVec 2) (k : BitVec 16) : isRegisterInstr (.insh rd h k) [rd] rd :=
  ⟨_, .read fun _ => .write, fun _ => rfl⟩
end

/-- Settles O3: each instruction reads registers and writes one, and what the reads and the write leave is its frame. -/
theorem registerInstructionsKeepTheirFrame : Obligations.RegisterInstructionsKeepTheirFrame := by
  intro rd ra rb h k i rs s t form
  apply isRegisterInstr.frame
  obtain ⟨e, he, rfl, rfl⟩ | ⟨e, he, rfl, rfl⟩ | ⟨rfl, rfl⟩ | ⟨rfl, rfl⟩ | ⟨rfl, rfl⟩ := form
  · exact isRegisterInstr_of_aluTable rd ra rb e he
  · exact isRegisterInstr_of_unaryTable rd ra k e he
  · exact isRegisterInstr_sel rd ra rb
  · exact isRegisterInstr_lui rd k
  · exact isRegisterInstr_insh rd h k

end Sys2Proof.Machine
end

section
/-!
SUPPORT. The fields of a tile command word, read back one by one (R230, R231, R336 to R356).
-/
namespace Sys2Proof

open Sys2Proof.Machine

/-! ## Fields of a word -/

section
variable {n p q i : Nat}

/-- A field's bits stand at its position, and no other bit of it is set. -/
theorem getLsbD_fieldAt (x : BitVec n) : (fieldAt q x).getLsbD i = (decide (i < 256) && decide (q ≤ i) && x.getLsbD (i - q)) := by
  rw [fieldAt, BitVec.getLsbD_shiftLeft, BitVec.getLsbD_setWidth]
  by_cases hi : i < 256
  · by_cases hq : q ≤ i
    · simp [hi, hq, show i - q < 256 by omega]
    · simp [hi, hq, Nat.lt_of_not_le hq]
  · simp [hi]

theorem extractLsb'_fieldAt_same (x : BitVec n) (h : p + n ≤ 256) : (fieldAt p x).extractLsb' p n = x := by
  refine BitVec.eq_of_getLsbD_eq fun j hj => ?_
  rw [BitVec.getLsbD_extractLsb', getLsbD_fieldAt, Nat.add_sub_cancel_left]
  simp [hj, show p + j < 256 by omega]

theorem getLsbD_fieldAt_apart (x : BitVec n) (h : i < q ∨ q + n ≤ i) : (fieldAt q x).getLsbD i = false := by
  rw [getLsbD_fieldAt]
  obtain below | above := h
  · simp [Nat.not_le.2 below]
  · simp [BitVec.getLsbD_of_ge x (i - q) (by omega)]

theorem extractLsb'_fieldAt_apart {k : Nat} (x : BitVec n) (h : p + k ≤ q ∨ q + n ≤ p) : (fieldAt q x).extractLsb' p k = 0#k := by
  refine BitVec.eq_of_getLsbD_eq fun j hj => ?_
  rw [BitVec.getLsbD_extractLsb', getLsbD_fieldAt_apart x (by omega), Bool.and_false, BitVec.getLsbD_zero]

theorem getLsbD_bitAt_same {b : Bool} (h : i < 256) : (bitAt i b).getLsbD i = b := by
  rw [bitAt, getLsbD_fieldAt, Nat.sub_self]
  simp [h]

theorem getLsbD_bitAt_apart {b : Bool} (h : i < q ∨ q + 1 ≤ i) : (bitAt q b).getLsbD i = false := getLsbD_fieldAt_apart _ h

theorem extractLsb'_bitAt_apart {k : Nat} {b : Bool} (h : p + k ≤ q ∨ q + 1 ≤ p) : (bitAt q b).extractLsb' p k = 0#k :=
  extractLsb'_fieldAt_apart _ h
end

/-! ## The three parts of a command's word -/

/-- No field of a command's own lies among the common fields of w0. -/
theorem Cmd.extractLsb'_word_low (c : Cmd) : c.word.extractLsb' 0 32 = 0#32 := by
  cases c <;> simp (disch := decide) only [Cmd.word, MmaCmd.word, PriceCmd.word, BitVec.extractLsb'_or, extractLsb'_fieldAt_apart,
    extractLsb'_bitAt_apart, BitVec.or_zero]

/-- No field of a command's own lies in the words of CREC. -/
theorem Cmd.extractLsb'_word_high (c : Cmd) : c.word.extractLsb' 192 64 = 0#64 := by
  cases c <;> simp (disch := decide) only [Cmd.word, MmaCmd.word, PriceCmd.word, BitVec.extractLsb'_or, extractLsb'_fieldAt_apart,
    extractLsb'_bitAt_apart, BitVec.or_zero]

/-- A bit that is clear in a part of a word is clear in the word. -/
theorem getLsbD_of_extractLsb'_zero {w : TcwWord} {p n i : Nat} (h : w.extractLsb' p n = 0#n) (lo : p ≤ i) (hi : i < p + n) :
    w.getLsbD i = false := by
  have bit := congrArg (fun x => x.getLsbD (i - p)) h
  rw [BitVec.getLsbD_extractLsb', Nat.add_sub_cancel' lo] at bit
  simpa [show i - p < n by omega] using bit

theorem Cmd.getLsbD_word (c : Cmd) {i : Nat} (h : i < 32 ∨ 192 ≤ i) : c.word.getLsbD i = false := by
  obtain low | high := h
  · exact getLsbD_of_extractLsb'_zero c.extractLsb'_word_low (Nat.zero_le i) (by omega)
  · by_cases hi : i < 256
    · exact getLsbD_of_extractLsb'_zero c.extractLsb'_word_high high hi
    · exact BitVec.getLsbD_of_ge _ _ (by omega)

theorem Cmd.extractLsb'_word (c : Cmd) {p n : Nat} (h : p + n ≤ 32 ∨ 192 ≤ p) : c.word.extractLsb' p n = 0#n := by
  refine BitVec.eq_of_getLsbD_eq fun j hj => ?_
  rw [BitVec.getLsbD_extractLsb', c.getLsbD_word (by omega), Bool.and_false, BitVec.getLsbD_zero]

section
variable (h : CmdHead) (c : Cmd) {p n i : Nat}

/-- Between w0 and CREC a command's word is its own fields. -/
theorem extractLsb'_encodeTcw (lo : 32 ≤ p) (hi : p + n ≤ 192) : (encodeTcw h c).extractLsb' p n = c.word.extractLsb' p n := by
  have after {m q : Nat} (x : BitVec m) (hq : q + m ≤ 32) : (fieldAt q x).extractLsb' p n = 0#n := extractLsb'_fieldAt_apart x (by omega)
  have afterBit {q : Nat} (b : Bool) (hq : q + 1 ≤ 32) : (bitAt q b).extractLsb' p n = 0#n := extractLsb'_bitAt_apart (by omega)
  have before : (fieldAt 192 h.crec).extractLsb' p n = 0#n := extractLsb'_fieldAt_apart _ (by omega)
  simp (disch := decide) only [encodeTcw, BitVec.extractLsb'_or, after, afterBit, before, BitVec.zero_or, BitVec.or_zero]

theorem getLsbD_encodeTcw (lo : 32 ≤ i) (hi : i < 192) : (encodeTcw h c).getLsbD i = c.word.getLsbD i := by
  have bit := congrArg (fun x => x.getLsbD 0) (extractLsb'_encodeTcw h c (n := 1) lo hi)
  simpa [BitVec.getLsbD_extractLsb'] using bit

theorem extractLsb'_encodeTcw_code : (encodeTcw h c).extractLsb' 24 8 = c.code := by
  simp (disch := decide) only [encodeTcw, BitVec.extractLsb'_or, extractLsb'_fieldAt_same, extractLsb'_fieldAt_apart,
    extractLsb'_bitAt_apart, Cmd.extractLsb'_word, BitVec.zero_or, BitVec.or_zero]

theorem headOf_encodeTcw : headOf (encodeTcw h c) = h := by
  simp (disch := decide) only [headOf, encodeTcw, BitVec.extractLsb'_or, BitVec.getLsbD_or, extractLsb'_fieldAt_same,
    extractLsb'_fieldAt_apart, extractLsb'_bitAt_apart, getLsbD_fieldAt_apart, getLsbD_bitAt_same, getLsbD_bitAt_apart,
    Cmd.extractLsb'_word, Cmd.getLsbD_word, BitVec.zero_or, BitVec.or_zero, Bool.false_or, Bool.or_false]

/-- A command's code names its layout, and each of its fields is read back from its place. -/
theorem cmdOf_encodeTcw : cmdOf (encodeTcw h c) = some c := by
  rw [cmdOf, extractLsb'_encodeTcw_code]
  cases c <;> simp (disch := decide) only [Cmd.code, BitVec.reduceToNat, mmaOf, priceOf, extractLsb'_encodeTcw, getLsbD_encodeTcw,
    Cmd.word, MmaCmd.word, PriceCmd.word, BitVec.extractLsb'_or, BitVec.getLsbD_or, extractLsb'_fieldAt_same,
    extractLsb'_fieldAt_apart, extractLsb'_bitAt_apart, getLsbD_fieldAt_apart, getLsbD_bitAt_same, getLsbD_bitAt_apart,
    BitVec.zero_or, BitVec.or_zero, Bool.false_or, Bool.or_false]
end

/-- Settles O55: the code, the common fields and each command's own fields are read back from their places; a word that is
accepted is its command's by the decoder's own comparison. -/
theorem commandWordsRoundTrip : Obligations.CommandWordsRoundTrip := by
  refine ⟨fun field h c ok => ?_, fun field w h c decodes => ?_⟩
  · simp only [decodeTcw, cmdOf_encodeTcw, headOf_encodeTcw, ok, and_self, if_true]
  · unfold decodeTcw at decodes
    split at decodes
    · cases decodes
    · dsimp only at decodes
      split at decodes
      · next accepted =>
        cases decodes
        exact accepted
      · cases decodes

end Sys2Proof
end

section
/-!
SUPPORT. A queue's head entry under a change of the queues, and the report of an entry that ends (R107, R108, R111, R113).
-/
namespace Sys2Proof.Machine

open Sys2Proof Sys2Proof.Claims

/-! ## The first element that a test finds -/

section
variable {α : Type} {p r : α → Bool} {f g : α → α} {a : α} {l : List α}

theorem find?_replaceFirst_other (hf : ∀ a, p a = true → r a = false ∧ r (f a) = false) (l : List α) :
    (replaceFirst p f l).find? r = l.find? r := by
  unfold replaceFirst
  induction l with
  | nil => rfl
  | cons a l ih =>
    rw [List.findIdx_cons]
    cases h : p a with
    | true => simp [hf a h]
    | false =>
      rw [cond_false, List.modify_succ_cons, List.find?_cons, List.find?_cons, ih]

theorem removeFirst_replaceFirst (hf : ∀ a, p a = true → p (f a) = true) (l : List α) :
    removeFirst p (replaceFirst p f l) = removeFirst p l := by
  unfold replaceFirst removeFirst
  induction l with
  | nil => rfl
  | cons a l ih =>
    rw [List.findIdx_cons]
    cases h : p a with
    | true => simp [h, hf a h]
    | false => simp [h, ih]

/-- What a change makes of the first element that a test finds is all that tells it from another. -/
theorem replaceFirst_congr (h : ∀ a, l.find? p = some a → f a = g a) : replaceFirst p f l = replaceFirst p g l := by
  unfold replaceFirst
  induction l with
  | nil => rfl
  | cons a l ih =>
    rw [List.findIdx_cons]
    rw [List.find?_cons] at h
    cases hp : p a with
    | true => simp [h a (by rw [hp])]
    | false =>
      rw [hp] at h
      simp [ih h]

theorem replaceFirst_id (l : List α) : replaceFirst p id l = l := List.modify_id _ _

/-- A test that one element of a list alone passes finds it. -/
theorem find?_eq_some_of_unique (mem : a ∈ l) (passes : p a = true) (only : ∀ b ∈ l, p b = true → b = a) : l.find? p = some a := by
  obtain ⟨b, hb⟩ := Option.isSome_iff_exists.1 (List.find?_isSome.2 ⟨a, mem, passes⟩)
  rw [hb, only b (List.mem_of_find?_eq_some hb) (List.find?_some hb)]
end

section
variable {c : Core} {s t u : State} {q j : Nat} {e e' : Entry} {f g : Entry → Entry}

/-! ## The head entry of a queue -/

theorem Core.headEntry_updHead_other (hj : j ≠ q) (hf : ∀ x, x.qid = q → (f x).qid = q) : (c.updHead q f).headEntry j = c.headEntry j := by
  refine find?_replaceFirst_other (fun x hx => ?_) c.entries
  rw [beq_iff_eq] at hx
  simp only [beq_eq_false_iff_ne, hf x hx, hx]
  exact ⟨hj.symm, hj.symm⟩

theorem Core.updHead_congr (h : ∀ x, c.headEntry q = some x → f x = g x) : c.updHead q f = c.updHead q g :=
  congrArg (fun es => { c with entries := es }) (replaceFirst_congr h)

theorem Core.dropHead_updHead (hf : ∀ x, x.qid = q → (f x).qid = q) : (c.updHead q f).dropHead q = c.dropHead q := by
  refine congrArg (fun es => { c with entries := es }) (removeFirst_replaceFirst (fun x hx => ?_) c.entries)
  rw [beq_iff_eq] at hx ⊢
  exact hf x hx

theorem Core.headEntry_map (hf : ∀ x, (f x).qid = x.qid) (c : Core) (q : Nat) :
    ({ c with entries := c.entries.map f } : Core).headEntry q = (c.headEntry q).map f := by
  have same : (fun e : Entry => e.qid == q) ∘ f = fun e => e.qid == q := funext fun x => congrArg (· == q) (hf x)
  rw [Core.headEntry, List.find?_map, same]
  rfl

/-- The head entry put in its own place changes nothing. -/
theorem State.putHead_self (head : s.me.headEntry q = some e) : s.putHead q e = s := by
  have same : s.me.updHead q (fun _ => e) = s.me.updHead q id :=
    Core.updHead_congr fun x hx => (Option.some.inj (head.symm.trans hx) : e = x)
  have keeps : s.me.updHead q id = s.me := congrArg (fun es => { s.me with entries := es }) (replaceFirst_id s.me.entries)
  rw [State.putHead, State.updMe, same, keeps]

theorem State.dropHead_putHead (he : e.qid = q) : (s.putHead q e).updMe (fun c => c.dropHead q) = s.updMe (fun c => c.dropHead q) :=
  congrArg (fun c => { s with me := c }) (Core.dropHead_updHead (f := fun _ => e) fun _ _ => he)

/-! ## Events -/

theorem State.raise_me (s : State) (kind cause q : Nat) (tag : BitVec 16) (rem : Nat) : (s.raise s.me.id kind cause q tag rem).me =
    s.me.addEvent { stamp := s.stamp, remaining := rem, kind := kind, cause := cause, qid := q, tag := tag } := by
  simp only [State.raise, State.updCore_me]
  rfl

theorem Core.addEvent_of_room (room : c.eventRoom = true) (ev : EngineEvent) : c.addEvent ev = { c with events := c.events ++ [ev] } := if_pos room

theorem Core.addEvent_entries (c : Core) (ev : EngineEvent) : (c.addEvent ev).entries = c.entries := by
  unfold Core.addEvent
  split <;> rfl

/-! ## The report of an entry that has met nothing -/

/-- The head entry of a queue has ended as its command should: no fault, no mismatch, no lost record and no bytes to land are
left to report. -/
structure EndsWell (c : Core) (q : Nat) (e : Entry) : Prop where
  head : c.headEntry q = some e
  finishing : e.state = .finishing
  agrees : e.mismatch = false
  kept : e.lost = none
  unfaulted : e.status ≠ 3
  unmatched : e.status ≠ 4
  landed : e.head.bar = false ∨ q ≠ 65

theorem EndsWell.faults (h : EndsWell c q e) : e.faults = false := by
  obtain ⟨-, -, agrees, -, unfaulted, unmatched, -⟩ := h
  simp [Entry.faults, agrees, unfaulted, unmatched]

theorem EndsWell.reports (h : EndsWell c q e) : e.reports = e.head.irq := by
  simp [Entry.reports, h.faults, h.kept]

theorem Core.canReport_of_finishing (head : c.headEntry q = some e) (finishing : e.state = .finishing) :
    c.canReport q = (!e.reports || c.eventRoom) := by
  simp [Core.canReport, head, finishing]

theorem State.withHead_of_head {f : State → Entry → State} (head : s.me.headEntry q = some e) : s.withHead q f = f s e := by
  simp only [State.withHead, head]

/-- An entry whose record is done has its record behind it. -/
def Entry.recorded (e : Entry) : Entry := { e with recordDone := true }

/-- What the report of a record that was written, or that is not wanted, makes of the head entry. -/
theorem State.putHead_recorded (h : EndsWell s.me q e) (found : u.me.headEntry q = some e) :
    u.updMe (fun c => c.updHead q (fun e => { e with state := .finishing, recordDone := true, lost := none })) = u.putHead q e.recorded := by
  obtain ⟨-, finishing, -, kept, -⟩ := h
  refine congrArg (fun c => { u with me := c }) (Core.updHead_congr fun x hx => ?_)
  obtain rfl : e = x := Option.some.inj (found.symm.trans hx)
  rw [Entry.recorded, ← finishing, ← kept]

theorem State.reportRecord_unwanted (h : EndsWell s.me q e) (unwanted : e.head.wantsRecord = false) :
    s.reportRecord q e = s.putHead q e.recorded := by
  unfold State.reportRecord
  split
  · next done =>
    have same : e.recorded = e := by rw [Entry.recorded, ← done]
    rw [same, State.putHead_self h.head]
  · simp only [unwanted, Bool.false_eq_true, if_false]
    exact State.putHead_recorded h h.head

theorem State.reportRecord_written (h : EndsWell s.me q e) (wanted : e.head.wantsRecord = true) (due : e.recordDone = false)
    (store : s.engStore s.me.id e.head.crec.toNat (recordBytes e.status q 0 e.head.tag e.count s.cycle 0) = .ok u) :
    s.reportRecord q e = u.putHead q e.recorded := by
  have wrote : EngWrote s u := .engStoreAs store
  simp only [State.reportRecord, due, wanted, h.unfaulted, h.unmatched, store, or_self, Bool.false_eq_true, if_true, if_false]
  exact State.putHead_recorded h (wrote.headEntry.trans h.head)

/-- The end of the report of an entry that has met nothing and whose record is done. -/
theorem State.reportEnd_recorded (h : EndsWell s.me q e) (done : e.recordDone = true) (room : e.head.irq = true → s.me.eventRoom = true) :
    s.reportEnd q e = if e.head.irq then (s.updMe (fun c => c.dropHead q)).raise s.me.id 2 0 q e.head.tag 0 else s.updMe (fun c => c.dropHead q) := by
  obtain ⟨-, -, -, kept, unfaulted, unmatched, landed⟩ := h
  have lands : s.landCounted e (if q = 65 ∧ (e.status = 0 ∨ e.status = 17) then e.pos else 0) = s := by
    refine if_neg fun hl => ?_
    obtain ⟨bound, some_⟩ := hl
    obtain unbound | other := landed
    · exact Bool.false_ne_true (unbound.symm.trans bound)
    · rw [if_neg fun hq => other hq.1] at some_
      exact Nat.lt_irrefl 0 some_
  have waits : (e.head.irq && !s.me.eventRoom) = false := by
    cases irq : e.head.irq with
    | false => rfl
    | true => rw [room irq]; rfl
  simp only [State.reportEnd, done, kept, waits, lands, unfaulted, unmatched, Option.isSome_none, Bool.not_true, Bool.false_and,
    Bool.or_self, or_self, false_and, Bool.false_eq_true, if_false]
  rfl

/-- The whole report: the record where one is due, and the entry leaves its queue, with its event where it asked for one. -/
theorem State.reportHead_of_endsWell (h : EndsWell s.me q e) (records : s.reportRecord q e = u.putHead q e.recorded)
    (found : u.me.headEntry q = some e) (room : e.head.irq = true → u.me.eventRoom = true) :
    s.reportHead q = if e.head.irq then (u.updMe (fun c => c.dropHead q)).raise u.me.id 2 0 q e.head.tag 0 else u.updMe (fun c => c.dropHead q) := by
  have qid : e.recorded.qid = q := Core.headEntry_qid (e := e) h.head
  have found' : (u.putHead q e.recorded).me.headEntry q = some e.recorded := State.headEntry_putHead found qid
  have h' : EndsWell (u.putHead q e.recorded).me q e.recorded := { h with head := found' }
  have told : s.reportFault q e = s := if_neg (by simp [h.faults])
  have ends := State.reportEnd_recorded h' rfl room
  rw [State.dropHead_putHead qid] at ends
  simp only [State.reportHead, State.withHead_of_head h.head, told, records, State.withHead_of_head found', ends]
  rfl

theorem exec_entryComplete (h : EndsWell s.me q e) (records : s.reportRecord q e = u.putHead q e.recorded)
    (found : u.me.headEntry q = some e) (room : e.head.irq = true → s.me.eventRoom = true ∧ u.me.eventRoom = true) :
    exec (.entryComplete q) s = .next (if e.head.irq then (u.updMe (fun c => c.dropHead q)).raise u.me.id 2 0 q e.head.tag 0
      else u.updMe (fun c => c.dropHead q)) := by
  have reports : s.me.canReport q = true := by
    rw [Core.canReport_of_finishing h.head h.finishing, h.reports]
    cases irq : e.head.irq with
    | false => rfl
    | true =>
      obtain ⟨here, -⟩ := room irq
      rw [here]
      rfl
  show Host.Outcome.next (if s.me.canReport q = true then s.reportHead q else s) = _
  rw [if_pos reports, State.reportHead_of_endsWell h records found fun irq => (room irq).2]
end

end Sys2Proof.Machine
end

section
/-!
PROOFS. QFENCE and its release, the delivery of an engine event, and the queue events (O27).
-/
namespace Sys2Proof.Machine

open Sys2Proof Sys2Proof.Claims

section
variable {c : Core} {s t : State} {q j : Nat} {e x : Entry} {h : CmdHead} {f g : QfenceCmd} {tag : BitVec 16}

/-! ## The copies of a QFENCE that are held -/

theorem sameSet_iff : sameSet f g = true ↔ f.qset = g.qset ∧ f.cset = g.cset := by simp [sameSet]

/-- A queue holds a copy of a QFENCE with a tag exactly when its head entry is one. -/
theorem Core.mem_fencesHeld : (q, f) ∈ c.fencesHeld tag ↔
    q < 68 ∧ ∃ e, c.headEntry q = some e ∧ e.cmd = .qfence f ∧ e.state = .fenced ∧ e.head.tag = tag := by
  rw [Core.fencesHeld, List.mem_filterMap]
  constructor
  · rintro ⟨k, hk, holds⟩
    split at holds
    · next e head =>
      split at holds
      · next g hc =>
        split at holds
        · next held =>
          cases holds
          exact ⟨List.mem_range.1 hk, e, head, hc, by simpa using held⟩
        · cases holds
      · cases holds
    · cases holds
  · rintro ⟨hq, e, head, hc, fenced, ht⟩
    exact ⟨q, List.mem_range.2 hq, by simp [head, hc, fenced, ht]⟩

/-- The copies held with a tag differ exactly when two of them do. -/
theorem Core.fenceMismatch_iff : c.fenceMismatch tag = true ↔
    ∃ x ∈ c.fencesHeld tag, ∃ y ∈ c.fencesHeld tag, sameSet x.2 y.2 = false := by
  unfold Core.fenceMismatch
  cases c.fencesHeld tag with
  | nil => simp
  | cons z rest =>
    constructor
    · intro some_
      obtain ⟨y, hy, differ⟩ := List.any_eq_true.1 some_
      exact ⟨z, List.mem_cons_self, y, List.mem_cons_of_mem z hy, by simpa using differ⟩
    · rintro ⟨x, hx, y, hy, differ⟩
      by_contra none_
      have same : ∀ y ∈ z :: rest, sameSet z.2 y.2 = true := by
        intro y hy
        obtain rfl | hy := List.mem_cons.1 hy
        · exact sameSet_iff.2 ⟨rfl, rfl⟩
        · by_contra other
          exact none_ (List.any_eq_true.2 ⟨y, hy, by simpa using other⟩)
      obtain ⟨xq, xc⟩ := sameSet_iff.1 (same x hx)
      obtain ⟨yq, yc⟩ := sameSet_iff.1 (same y hy)
      exact Bool.false_ne_true (differ.symm.trans (sameSet_iff.2 ⟨xq.symm.trans yq, xc.symm.trans yc⟩))

/-! ## QFENCE at its head -/

/-- The head entry of a queue holds it as a QFENCE does (R109, R115). -/
def State.holdFence (s : State) (q : Nat) : State := s.updMe (fun c =>
  { c.updHead q (fun x => { x with state := .fenced }) with faultWords := c.faultWords.filter (fun w => w.qid != q) })

theorem State.holdFence_head (head : s.me.headEntry q = some e) : (s.holdFence q).me.headEntry q = some { e with state := .fenced } :=
  Core.headEntry_updHead (f := fun x => { x with state := .fenced }) head fun _ hx => hx

theorem State.holdFence_head_other (hj : j ≠ q) : (s.holdFence q).me.headEntry j = s.me.headEntry j :=
  Core.headEntry_updHead_other (f := fun x => { x with state := .fenced }) hj fun _ hx => hx

/-- Of the queues, q alone has the accepted QFENCE h f at its head. -/
structure FenceAt (s : State) (q : Nat) (h : CmdHead) (f : QfenceCmd) (e : Entry) : Prop where
  bound : q < 68
  head : s.me.headEntry q = some e
  accepted : e.state = .accepted
  common : e.head = h
  command : e.cmd = .qfence f
  agrees : e.mismatch = false
  only : ∀ j < 68, j ≠ q → ∀ x, s.me.headEntry j = some x → x.head ≠ h

theorem State.takeFence_of_fenceAt (a : FenceAt s q h f e) :
    s.takeFence h f = if (s.holdFence q).me.fenceMismatch h.tag then (s.holdFence q).breakFences h.tag else s.holdFence q := by
  obtain ⟨bound, head, accepted, common, command, agrees, only⟩ := a
  have same : s.me.updHead q (fun e => if e.mismatch then e.finish 2 0 else { e with state := .fenced }) =
      s.me.updHead q (fun x => { x with state := .fenced }) := Core.updHead_congr fun x hx => by
    obtain rfl : e = x := Option.some.inj (head.symm.trans hx)
    rw [if_neg (by simp [agrees])]
  have holds : s.updMe (fun c => { c.updHead q (fun e => if e.mismatch then e.finish 2 0 else { e with state := .fenced }) with
      faultWords := c.faultWords.filter (fun w => w.qid != q) }) = s.holdFence q := by
    simp only [State.holdFence, State.updMe, same]
  unfold State.takeFence
  dsimp only
  split
  · next none_ => exact absurd (by simp [head, accepted, common, command]) (List.find?_eq_none.1 none_ q (List.mem_range.2 bound))
  · next k found =>
    obtain rfl : k = q := by
      by_contra other
      have passes := List.find?_some found
      split at passes
      · next x hx =>
        simp only [Bool.and_eq_true, beq_iff_eq] at passes
        exact only k (List.mem_range.1 (List.mem_of_find?_eq_some found)) other x hx passes.1.2
      · cases passes
    rw [holds]

/-- No other queue is held: the QFENCE waits, held, for the others of its set. -/
theorem State.holdFence_agrees (a : FenceAt s q h f e) (none_ : ∀ j < 68, ∀ x, s.me.headEntry j = some x → x.state ≠ .fenced) :
    (s.holdFence q).me.fenceMismatch h.tag = false := by
  have alone : ∀ x ∈ (s.holdFence q).me.fencesHeld h.tag, x.2 = f := by
    rintro ⟨j, g⟩ held
    obtain ⟨hj, x, head, hc, fenced, -⟩ := Core.mem_fencesHeld.1 held
    by_cases same : j = q
    · subst same
      rw [State.holdFence_head a.head] at head
      cases head
      exact (Cmd.qfence.inj (a.command.symm.trans hc)).symm
    · rw [State.holdFence_head_other same] at head
      exact absurd fenced (none_ j hj x head)
  rw [Bool.eq_false_iff, ne_eq, Core.fenceMismatch_iff]
  rintro ⟨x, hx, y, hy, differ⟩
  rw [alone x hx, alone y hy] at differ
  exact Bool.false_ne_true (differ.symm.trans (sameSet_iff.2 ⟨rfl, rfl⟩))

/-- Another queue is held with the same tag for another set. -/
theorem State.holdFence_differs (a : FenceAt s q h f e) (hj : j < 68) (head : s.me.headEntry j = some x) (fenced : x.state = .fenced)
    (command : x.cmd = .qfence g) (ht : x.head.tag = h.tag) (differ : g.qset ≠ f.qset ∨ g.cset ≠ f.cset) (other : j ≠ q) :
    (s.holdFence q).me.fenceMismatch h.tag = true := by
  refine Core.fenceMismatch_iff.2 ⟨(j, g), Core.mem_fencesHeld.2 ⟨hj, x, (State.holdFence_head_other other).trans head, command, fenced, ht⟩,
    (q, f), Core.mem_fencesHeld.2 ⟨a.bound, _, State.holdFence_head a.head, a.command, rfl, by rw [a.common]⟩, ?_⟩
  rw [Bool.eq_false_iff, ne_eq, sameSet_iff, not_and_or]
  exact differ

/-! ## A mismatch -/

/-- What a mismatch of a tag makes of an entry (R115). -/
def Entry.broken (tag : BitVec 16) (e : Entry) : Entry :=
  if isFence e.cmd && e.head.tag == tag && e.state != .finishing then
    let e : Entry := { e with mismatch := true }
    if e.state = .fenced then e.finish 2 0 else e
  else e

theorem State.breakFences_eq (s : State) (tag : BitVec 16) :
    s.breakFences tag = s.updMe (fun c => { c with entries := c.entries.map (Entry.broken tag) }) := rfl

/-- A mismatch changes an entry's progress alone, and no copy with its tag stays held: it has ended, or ends once it is reached. -/
theorem Entry.broken_spec (tag : BitVec 16) (e : Entry) :
    (e.broken tag).qid = e.qid ∧ (e.broken tag).cmd = e.cmd ∧ (e.broken tag).head = e.head ∧
    (isFence e.cmd = true → e.head.tag = tag →
      (e.broken tag).state ≠ .fenced ∧ ((e.broken tag).mismatch = true ∨ (e.broken tag).state = .finishing)) := by
  unfold Entry.broken
  split
  · dsimp only
    split
    · exact ⟨rfl, rfl, rfl, fun _ _ => ⟨nofun, .inl rfl⟩⟩
    · next free => exact ⟨rfl, rfl, rfl, fun _ _ => ⟨free, .inl rfl⟩⟩
  · next untouched =>
    refine ⟨rfl, rfl, rfl, fun isIt ht => ?_⟩
    have finishing : e.state = .finishing := by simpa [isIt, ht] using untouched
    exact ⟨by rw [finishing]; nofun, .inr finishing⟩

theorem Entry.broken_of_fenced (isIt : isFence e.cmd = true) (fenced : e.state = .fenced) (ht : e.head.tag = tag) :
    e.broken tag = ({ e with mismatch := true } : Entry).finish 2 0 := by
  simp [Entry.broken, isIt, fenced, ht]

theorem State.breakFences_head (head : s.me.headEntry q = some e) (command : e.cmd = .qfence f) (fenced : e.state = .fenced)
    (ht : e.head.tag = tag) : ∃ y, (s.breakFences tag).me.headEntry q = some y ∧ y.state = .finishing ∧ y.status = 2 ∧ y.mismatch = true := by
  have isIt : isFence e.cmd = true := by rw [command]; rfl
  refine ⟨({ e with mismatch := true } : Entry).finish 2 0, ?_, rfl, rfl, rfl⟩
  rw [State.breakFences_eq, State.updMe_me, Core.headEntry_map fun x => (x.broken_spec tag).1, head, Option.map_some,
    Entry.broken_of_fenced isIt fenced ht]

theorem State.breakFences_entries : ∀ y ∈ (s.breakFences tag).me.entries, isFence y.cmd = true → y.head.tag = tag →
    y.state ≠ .fenced ∧ (y.mismatch = true ∨ y.state = .finishing) := by
  intro y hy isIt ht
  rw [State.breakFences_eq] at hy
  obtain ⟨x, -, rfl⟩ := List.mem_map.1 hy
  obtain ⟨-, command, common, ends⟩ := x.broken_spec tag
  rw [command] at isIt
  rw [common] at ht
  exact ends isIt ht

/-! ## The release -/

theorem State.headEntry_finishHead_other {status count : Nat} (hj : j ≠ q) : (s.finishHead q status count).me.headEntry j = s.me.headEntry j :=
  Core.headEntry_updHead_other (f := fun e => e.finish status count) hj fun _ hx => hx

/-- Ending the heads of several queues leaves a head that has ended so as it is. -/
theorem State.headEntry_finishHeads_ended (l : List (Nat × QfenceCmd)) (head : s.me.headEntry q = some (e.finish 0 0)) :
    (l.foldl (fun s x => s.finishHead x.1 0 0) s).me.headEntry q = some (e.finish 0 0) := by
  induction l generalizing s with
  | nil => exact head
  | cons x l ih =>
    rw [List.foldl_cons]
    refine ih ?_
    by_cases same : x.1 = q
    · rw [same]
      exact State.headEntry_finishHead head 0 0
    · exact (State.headEntry_finishHead_other (Ne.symm same)).trans head

theorem State.headEntry_finishHeads {l : List (Nat × QfenceCmd)} (head : s.me.headEntry q = some e) (mem : (q, f) ∈ l) :
    (l.foldl (fun s x => s.finishHead x.1 0 0) s).me.headEntry q = some (e.finish 0 0) := by
  induction l generalizing s with
  | nil => cases mem
  | cons x l ih =>
    rw [List.foldl_cons]
    by_cases same : x.1 = q
    · rw [same]
      exact State.headEntry_finishHeads_ended l (State.headEntry_finishHead head 0 0)
    · refine ih ((State.headEntry_finishHead_other (Ne.symm same)).trans head) ?_
      obtain rfl | later := List.mem_cons.1 mem
      · exact absurd rfl same
      · exact later

/-! ## The head of an issue queue -/

/-- The exchange stretches of the core once an entry has been accepted: an XSCHED opens one, on the open episode of its channel
(R103, R108). -/
def State.exchangeAfter (s : State) (e : Entry) : List (Nat × Nat) :=
  match e.cmd with
  | .xsched _ => s.me.exchange ++ [(e.head.chan.toNat, ((s.channel? e.head.chan.toNat).map (·.epoch)).getD 0)]
  | _ => s.me.exchange

theorem State.exchangeAfter_xsched {c : XschedCmd} {x : Channel} (hc : e.cmd = .xsched c) (hx : s.channel? e.head.chan.toNat = some x) :
    s.exchangeAfter e = s.me.exchange ++ [(e.head.chan.toNat, x.epoch)] := by
  simp only [State.exchangeAfter, hc, hx, Option.map_some, Option.getD_some]

theorem State.exchangeAfter_other (hc : ∀ c, e.cmd ≠ .xsched c) : s.exchangeAfter e = s.me.exchange := by
  unfold State.exchangeAfter
  split
  · next c hc' => exact absurd hc' (hc c)
  · rfl

/-- An issue queue passes its head to an engine with room (R107). -/
theorem State.acceptEntry_of_room {field : Nat} (head : s.me.issueHead field = some e) (room : s.me.heldAt e.qid < qidCap e.qid) :
    s.acceptEntry field = s.updMe (fun c => { c with
      entries := replaceFirst (fun e => e.field == field && e.state == .issued) (fun e => { e with state := .accepted }) c.entries
      exchange := s.exchangeAfter e }) := by
  have accepts : s.me.canAccept field = true := by simp [Core.canAccept, head, room]
  simp only [State.acceptEntry, accepts, head, if_true, State.exchangeAfter, State.updMe]
  cases e.cmd with
  | xsched c => cases s.channel? e.head.chan.toNat <;> rfl
  | _ => rfl

/-! ## The delivery of an engine event -/

theorem State.withdrawArrival_eq (s : State) (c : Core) : ∃ l, s.withdrawArrival c = { s with channels := l } := by
  unfold State.withdrawArrival
  split
  · exact ⟨s.channels, rfl⟩
  · exact ⟨_, rfl⟩

/-- Outside a fused gang an engine event enters its context on its core (R54, R113). -/
theorem State.deliver_engine {ev : EngineEvent} (alone : s.fused = false) (next : s.me.delivery = some (.engine ev)) :
    s.deliver.mem = s.mem ∧
    s.deliver.me =
      (let c : Core := { s.me with events := s.me.events.filter (fun x => x.stamp != ev.stamp) }
       if s.me.eventToUi ev then c.enterUi true 14 ev.value c.pc else c.enterSup true 14 ev.value c.pc) := by
  obtain ⟨l, withdrawn⟩ := s.withdrawArrival_eq s.me
  have whole : ({ s with channels := l } : State).splitGang = { s with channels := l } := State.splitGang_of_not_fused alone
  unfold State.deliver
  rw [next]
  dsimp only
  rw [withdrawn, whole]
  exact ⟨rfl, rfl⟩
end

/-- Settles O27: what passes a head on, the report of an entry that ended well, the fences that are held, broken and released,
and the context an event enters. -/
theorem queueEventsMoveEntriesAndEvents : Obligations.QueueEventsMoveEntriesAndEvents := by
  intro s
  refine ⟨?_, ?_, ?_, ?_, ?_, ?_, ?_, ?_, ?_⟩
  · intro field e head room
    have accepts := State.acceptEntry_of_room head room
    refine ⟨s.acceptEntry field, rfl, ?_⟩
    rw [accepts]
    exact ⟨rfl, rfl, rfl, fun c x hc hx => State.exchangeAfter_xsched hc hx, State.exchangeAfter_other⟩
  · intro q e head finishing unwanted irq agrees kept unfaulted unmatched landed
    have ends : EndsWell s.me q e := ⟨head, finishing, agrees, kept, unfaulted, unmatched, landed⟩
    rw [exec_entryComplete ends (State.reportRecord_unwanted ends unwanted) head (by simp [irq]), irq]
    rfl
  · intro q e head finishing unwanted irq agrees kept unfaulted unmatched landed few noneHeld
    have ends : EndsWell s.me q e := ⟨head, finishing, agrees, kept, unfaulted, unmatched, landed⟩
    have room : s.me.eventRoom = true := by simp [Core.eventRoom, few, noneHeld]
    have left := exec_entryComplete ends (State.reportRecord_unwanted ends unwanted) head fun _ => ⟨room, room⟩
    rw [if_pos irq] at left
    have me := (s.updMe (fun c => c.dropHead q)).raise_me 2 0 q e.head.tag 0
    rw [Core.addEvent_of_room (c := (s.updMe (fun c => c.dropHead q)).me) room] at me
    exact ⟨_, left, congrArg Core.entries me, congrArg Core.events me⟩
  · intro q e u head finishing wanted irq agrees kept due unfaulted unmatched landed store
    have ends : EndsWell s.me q e := ⟨head, finishing, agrees, kept, unfaulted, unmatched, landed⟩
    have wrote : EngWrote s u := .engStoreAs store
    rw [exec_entryComplete ends (State.reportRecord_written ends wanted due store) (wrote.headEntry.trans head) (by simp [irq]), irq]
    rfl
  · intro q e head finishing irq full
    have waits : s.me.canReport q = false := by
      rw [Core.canReport_of_finishing head finishing]
      have noRoom : s.me.eventRoom = false := by
        obtain many | held := full
        · simp [Core.eventRoom, Nat.not_lt.2 many]
        · simp [Core.eventRoom, held]
      simp [Entry.reports, irq, noRoom]
    show Host.Outcome.next (if s.me.canReport q = true then s.reportHead q else s) = _
    rw [waits]
    rfl
  · intro ev rest held few
    refine congrArg (fun c => Host.Outcome.next { s with me := c }) ?_
    dsimp only
    rw [held]
    exact if_pos few
  · intro q h f e bound head accepted common command agrees only
    have a : FenceAt s q h f e := ⟨bound, head, accepted, common, command, agrees, only⟩
    have takes : exec (.qfence h f) s = .next (s.takeFence h f) := rfl
    rw [takes, State.takeFence_of_fenceAt a]
    refine ⟨fun none_ => ?_, fun j hj x g headJ fenced commandJ ht differ => ?_⟩
    · rw [State.holdFence_agrees a none_]
      rfl
    · have other : j ≠ q := by
        rintro rfl
        rw [head] at headJ
        cases headJ
        rw [accepted] at fenced
        cases fenced
      rw [if_pos (State.holdFence_differs a hj headJ fenced commandJ ht differ other)]
      refine ⟨_, rfl, State.breakFences_mem _ _, ?_, State.breakFences_entries⟩
      intro k hk
      obtain rfl | hk := List.mem_cons.1 hk
      · exact State.breakFences_head (State.holdFence_head head) command rfl (by rw [common])
      · rw [List.mem_singleton.1 hk]
        exact State.breakFences_head ((State.holdFence_head_other other).trans headJ) commandJ fenced ht
  · intro tag ready
    have releases : exec (.qfenceRelease tag) s = .next (s.endFences tag) := by
      show Host.Outcome.next (if s.me.fenceReady tag = true then s.endFences tag else s) = _
      rw [if_pos ready]
    refine ⟨_, releases, State.endFences_mem _ _, fun q hq e f head command fenced ht => ?_⟩
    exact State.headEntry_finishHeads head (Core.mem_fencesHeld.2 ⟨hq, e, head, command, fenced, ht⟩)
  · intro ev alone next
    obtain ⟨mem, me⟩ := State.deliver_engine alone next
    obtain ⟨g, sh, bank⟩ := Core.switchBank_eq { s.me with events := s.me.events.filter (fun x => x.stamp != ev.stamp) }
    refine ⟨s.deliver, rfl, mem, ?_⟩
    cases ui : s.me.eventToUi ev with
    | false =>
      simp only [ui, Bool.false_eq_true, if_false] at me
      rw [me]
      exact ⟨rfl, rfl, fun _ => ⟨rfl, rfl, rfl, rfl, rfl, rfl, rfl, rfl⟩, nofun⟩
    | true =>
      simp only [ui, if_true, Core.enterUi, bank] at me
      rw [me]
      exact ⟨rfl, rfl, nofun, fun _ => ⟨rfl, rfl, rfl, rfl, rfl, rfl⟩⟩

end Sys2Proof.Machine
end

section
/-!
SUPPORT. A copy-class command at its head: its checks, and the block that it reads there (R108, R118, R338, R340).
-/
namespace Sys2Proof.Machine

open Sys2Proof Sys2Proof.Claims

section
variable {s t u : State} {q va src dst : Nat} {h : CmdHead} {cmd : Cmd} {i : Instr} {e e' : Entry} {ok : Bool} {job : Job}

/-! ## One service of a channel -/

theorem State.servePiece_of_ok (head : s.me.headEntry q = some e) (serves : s.serveEntry q e = .ok t) : s.servePiece q = t := by
  simp only [State.servePiece, head, serves]

theorem State.serveChannel_once (piece : s.servePiece q = t) (rests : t.me.readsOn q = false) : s.serveChannel q = t := by
  simp only [State.serveChannel, piece, rests, Bool.false_eq_true, if_false]

theorem State.serveChannel_twice (piece : s.servePiece q = t) (reads : t.me.readsOn q = true) : s.serveChannel q = t.servePiece q := by
  simp only [State.serveChannel, piece, reads, if_true]

theorem Core.readsOn_iff {c : Core} (head : c.headEntry q = some e) :
    c.readsOn q = true ↔ (∃ bs, e.job = .blocks bs) ∧ e.state = .active ∧ readsTwice e.cmd = true := by
  simp only [Core.readsOn, head]
  cases e.job <;> simp

/-! ## A head entry that its engine has begun on -/

/-- The head entry of a queue is e's command as far as e had come, and its engine has begun on it. -/
def BegunAt (t : State) (q : Nat) (e : Entry) : Prop :=
  ∃ e', t.me.headEntry q = some e' ∧ e'.cmd = e.cmd ∧ e'.head = e.head ∧ e'.pos = e.pos ∧ e'.state ≠ .accepted

theorem BegunAt.of_same (b : BegunAt t q e') (hc : e'.cmd = e.cmd) (hh : e'.head = e.head) (hp : e'.pos = e.pos) : BegunAt t q e := by
  obtain ⟨x, found, xc, xh, xp, begun⟩ := b
  exact ⟨x, found, xc.trans hc, xh.trans hh, xp.trans hp, begun⟩

/-- An entry at work on what its block gives. -/
def Entry.working (e : Entry) (job : Job) (src dst : Nat) : Entry :=
  { e with state := .active, kick := false, since := 0, job := job, srcAddr := BitVec.ofNat 64 src, dstAddr := BitVec.ofNat 64 dst }

/-- An entry that has its block, at work or ended with status 2. -/
def Entry.judged (e : Entry) (ok : Bool) (job : Job) (src dst : Nat) : Entry :=
  if ok then e.working job src dst else (e.working job src dst).finish 2 0

theorem State.withJob_eq (s : State) (q : Nat) (e : Entry) (ok : Bool) (job : Job) (src dst : Nat) :
    s.withJob q e ok job src dst = s.putHead q (e.judged ok job src dst) := rfl

theorem State.withJob_head (found : s.me.headEntry q = some e') (qid : e.qid = q) :
    (s.withJob q e ok job src dst).me.headEntry q = some (e.judged ok job src dst) := by
  rw [State.withJob_eq]
  refine State.headEntry_putHead found ?_
  cases ok <;> exact qid

theorem BegunAt.withJob (found : s.me.headEntry q = some e') (qid : e.qid = q) : BegunAt (s.withJob q e ok job src dst) q e := by
  refine ⟨_, State.withJob_head found qid, ?_⟩
  cases ok with
  | true => exact ⟨rfl, rfl, rfl, nofun⟩
  | false => exact ⟨rfl, rfl, rfl, nofun⟩

/-- A head entry that begins to wait (R108, R388). -/
def State.waiting (s : State) (e : Entry) (st : EState) (addr : Word) : Entry :=
  { e with
    state := st
    since := if st = .pending ∧ e.state = .pending then e.since + 4096 else s.cycle
    faultAddr := addr
    kick := false }

theorem State.entryWaits_eq (s : State) (q : Nat) (e : Entry) (st : EState) (addr : Word) (kind cause : Nat) :
    s.entryWaits q e st addr kind cause = if e.state = st then s.putHead q (s.waiting e st addr)
      else ((s.putHead q (s.waiting e st addr)).raise s.me.id kind cause q e.head.tag (e.remAt s.fresh)).drawFor e := rfl

theorem State.drawFor_me (s : State) (e : Entry) : (s.drawFor e).me = s.me := by
  unfold State.drawFor
  split <;> rfl

theorem State.entryWaits_begun {st : EState} {addr : Word} {kind cause : Nat} (found : s.me.headEntry q = some e) (waits : st ≠ .accepted) :
    BegunAt (s.entryWaits q e st addr kind cause) q e := by
  have put : (s.putHead q (s.waiting e st addr)).me.headEntry q = some (s.waiting e st addr) :=
    State.headEntry_putHead found (Core.headEntry_qid (e := e) found)
  refine ⟨s.waiting e st addr, ?_, rfl, rfl, rfl, waits⟩
  rw [State.entryWaits_eq]
  split
  · exact put
  · have raised := (s.putHead q (s.waiting e st addr)).raise_me kind cause q e.head.tag (e.remAt s.fresh)
    rw [State.drawFor_me]
    exact (Core.headEntry_congr ((congrArg Core.entries raised).trans (Core.addEvent_entries _ _))).trans put

/-- Whatever an access of a copy channel met, its entry stays at the head as far as it had come. -/
theorem State.engineMet_begun {r : EngRes} (found : s.me.headEntry q = some e) (active : e.state = .active) (hq : q < 64) :
    BegunAt (s.engineMet q r va) q e := by
  have waits {st : EState} {kind cause : Nat} (h : st ≠ .accepted) : BegunAt (s.entryWaits q e st (BitVec.ofNat 64 va) kind cause) q e :=
    State.entryWaits_begun found h
  have failed {cause : Nat} : BegunAt (s.updMe (fun c => c.updHead q (fun e => e.fail cause (BitVec.ofNat 64 va)))) q e :=
    ⟨_, Core.headEntry_updHead (f := fun e => e.fail cause (BitVec.ofNat 64 va)) found fun _ hx => hx, rfl, rfl, rfl, nofun⟩
  unfold State.engineMet
  rw [found]
  cases r with
  | ok k => exact ⟨e, found, rfl, rfl, rfl, by rw [active]; nofun⟩
  | retry => exact waits nofun
  | migrating =>
    simp only [hq, if_true]
    exact waits nofun
  | fault cause =>
    simp only [hq, true_and]
    split
    · exact waits nofun
    · exact failed

/-! ## Reading the block -/

/-- What holds of the state that a piece of work leaves, where nothing has stopped it. -/
def Served.Leaves (P : State → Prop) (r : Served State) : Prop := ∀ t, r = .ok t → P t

section
variable {α : Type} {P : State → Prop} {x : Served α} {f : α → Served State} {r r' : Served State}

theorem Served.Leaves.pure (h : P t) : Served.Leaves P (Pure.pure t) := fun _ ht => Except.ok.inj ht ▸ h

theorem Served.Leaves.bind (h : ∀ a, Served.Leaves P (f a)) : Served.Leaves P (x >>= f) := by
  cases x with
  | ok a => exact h a
  | error r => exact fun t (ht : (Except.error r : Served State) = .ok t) => by cases ht

theorem Served.Leaves.map {g : α → State} (h : ∀ a, P (g a)) : Served.Leaves P (x.map g) := by
  cases x with
  | ok a => exact .pure (h a)
  | error r => exact fun t (ht : (Except.error r : Served State) = .ok t) => by cases ht

theorem Served.Leaves.ite {b : Prop} [Decidable b] (h : Served.Leaves P r) (h' : Served.Leaves P r') : Served.Leaves P (if b then r else r') := by
  split
  · exact h
  · exact h'
end

/-- A command that reads a block has not yet taken its work from it. -/
structure Unread (e : Entry) : Prop where
  active : e.state = .active
  reads : readsBlock e.cmd = true
  job : e.job = .none ∨ ∃ bs, e.job = .blocks bs

/-- Memory is as it was and the head entry has been begun on. -/
def Begins (s : State) (q : Nat) (e : Entry) (t : State) : Prop := t.mem = s.mem ∧ BegunAt t q e

theorem Begins.withJob (found : s.me.headEntry q = some e) (same : t.me = s.me) (mem : t.mem = s.mem) :
    Begins s q e (t.withJob q e ok job src dst) :=
  ⟨(State.withJob_mem _ _ _ _ _ _ _).trans mem, .withJob (by rw [same]; exact found) (Core.headEntry_qid found)⟩

theorem Begins.keepBlock {bs : List Byte} (found : s.me.headEntry q = some e) : Begins s q e (s.keepBlock q e va bs) :=
  .withJob found (State.seen_me _ _ _) (State.seen_mem _ _ _)

theorem State.prepareJig_begins {c : XschedCmd} (found : s.me.headEntry q = some e) : Begins s q e (s.prepareJig q e c) := by
  have bad : Begins s q e (s.putHead q (e.fail 14 (c.jig.zeroExtend 64))) :=
    ⟨rfl, e.fail 14 (c.jig.zeroExtend 64), State.headEntry_putHead found (Core.headEntry_qid (e := e) found), rfl, rfl, rfl, nofun⟩
  unfold State.prepareJig
  dsimp only
  split
  · exact bad
  · split
    · exact bad
    · split
      · exact bad
      · split
        · exact bad
        · exact .withJob found rfl rfl

theorem State.prepareGen_begins {c : CopygCmd} {bs : List Byte} (found : s.me.headEntry q = some e) :
    Served.Leaves (Begins s q e) (s.prepareGen q e c bs) := by
  refine .ite (.bind fun g => ?_) (.pure (.withJob found rfl rfl))
  have read {src dst : Nat} {job : Job} : Begins s q e ((s.seen (blk8 bs 16) 8).withJob q e true job src dst) :=
    .withJob found (State.seen_me _ _ _) (State.seen_mem _ _ _)
  refine .ite (.pure read) (.pure ?_)
  obtain ⟨mem, x, hx, hc, hh, hp, -⟩ := read
  exact ⟨mem, _, State.headEntry_finishHead hx 4 0, hc, hh, hp, nofun⟩

/-- A piece of work on a block that has not been taken up: what there is to read is read, and nothing else is done. -/
theorem State.serveEntry_begins (found : s.me.headEntry q = some e) (unread : Unread e) : Served.Leaves (Begins s q e) (s.serveEntry q e) := by
  have seen {va n : Nat} {ok : Bool} {job : Job} {src dst : Nat} : Begins s q e ((s.seen va n).withJob q e ok job src dst) :=
    .withJob found (State.seen_me _ _ _) (State.seen_mem _ _ _)
  obtain ⟨-, reads, job⟩ := unread
  have keeps {va : Nat} {x : Served (List Byte)} : Served.Leaves (Begins s q e) (x.map (s.keepBlock q e va)) := .map fun _ => .keepBlock found
  have scatr {c : ScatrCmd} {bs : List Byte} : Served.Leaves (Begins s q e) (s.prepareScatr q e c bs) :=
    .ite (.bind fun _ => .pure seen) (.pure (.withJob found rfl rfl))
  cases hc : e.cmd with
  | copynd c =>
    have serves : s.serveEntry q e = s.prepareNd q e c := by
      obtain hj | ⟨bs, hj⟩ := job <;> simp only [State.serveEntry, hc, hj]
    rw [serves]
    exact .bind fun _ => .pure seen
  | gathr c =>
    have serves : s.serveEntry q e = s.prepareGathr q e c := by
      obtain hj | ⟨bs, hj⟩ := job <;> simp only [State.serveEntry, hc, hj]
    rw [serves]
    exact .bind fun _ => .pure seen
  | scatr c =>
    obtain hj | ⟨_ | ⟨bs, rest⟩, hj⟩ := job
    · simp only [State.serveEntry, hc, hj]
      exact keeps
    · simp only [State.serveEntry, hc, hj]
      exact keeps
    · simp only [State.serveEntry, hc, hj]
      exact scatr
  | copyg c =>
    obtain hj | ⟨_ | ⟨bs, rest⟩, hj⟩ := job
    · simp only [State.serveEntry, hc, hj]
      exact keeps
    · simp only [State.serveEntry, hc, hj]
      exact keeps
    · simp only [State.serveEntry, hc, hj]
      exact State.prepareGen_begins found
  | xsched c =>
    have serves : s.serveEntry q e = pure (s.prepareJig q e c) := by
      obtain hj | ⟨bs, hj⟩ := job <;> simp only [State.serveEntry, hc, hj]
    rw [serves]
    exact .pure (State.prepareJig_begins found)
  | _ => simp [hc, readsBlock] at reads

theorem State.servePiece_begins (found : s.me.headEntry q = some e) (unread : Unread e) (hq : q < 64) : Begins s q e (s.servePiece q) := by
  unfold State.servePiece
  rw [found]
  dsimp only
  split
  · next t serves => exact State.serveEntry_begins found unread t serves
  · exact ⟨State.engineMet_mem _ _ _ _, State.engineMet_begun found unread.active hq⟩

/-- A command that reads a block is begun on at its head, whatever its block holds and whatever the reading met. -/
theorem State.serveChannel_begins (found : s.me.headEntry q = some e) (unread : Unread e) (hq : q < 64) : Begins s q e (s.serveChannel q) := by
  obtain ⟨mem, x, hx, hc, hh, hp, begun⟩ := State.servePiece_begins found unread hq
  cases reads : (s.servePiece q).me.readsOn q with
  | false =>
    rw [State.serveChannel_once rfl reads]
    exact ⟨mem, x, hx, hc, hh, hp, begun⟩
  | true =>
    obtain ⟨block, active, -⟩ := (Core.readsOn_iff hx).1 reads
    obtain ⟨mem', b⟩ := State.servePiece_begins hx ⟨active, by rw [hc]; exact unread.reads, .inr block⟩ hq
    rw [State.serveChannel_twice rfl reads]
    exact ⟨mem'.trans mem, b.of_same hc hh hp⟩

/-! ## Taking up -/

theorem exec_copyInstr (form : copyInstr h cmd i q) (s : State) : exec i s = .next (s.takeHead q h cmd (State.beginCopy q)) := by
  obtain ⟨c, rfl, rfl, rfl⟩ | ⟨c, rfl, rfl, rfl⟩ | ⟨c, rfl, rfl, rfl⟩ | ⟨c, rfl, rfl, rfl⟩ | ⟨c, rfl, rfl, rfl⟩ | ⟨c, rfl, rfl, rfl⟩ |
    ⟨c, rfl, rfl, rfl⟩ | ⟨c, rfl, rfl, rfl⟩ | ⟨c, rfl, rfl, rfl⟩ | ⟨c, rfl, rfl, rfl⟩ := form
  all_goals rfl

/-- A copy-class command names one of the 64 channels. -/
theorem copyInstr_channel (form : copyInstr h cmd i q) : q < 64 := by
  obtain ⟨c, -, -, rfl⟩ | ⟨c, -, -, rfl⟩ | ⟨c, -, -, rfl⟩ | ⟨c, -, -, rfl⟩ | ⟨c, -, -, rfl⟩ | ⟨c, -, -, rfl⟩ |
    ⟨c, -, -, rfl⟩ | ⟨c, -, -, rfl⟩ | ⟨c, -, -, rfl⟩ | ⟨c, -, -, rfl⟩ := form
  all_goals exact c.qch.isLt

/-- The checks at the head see the state as it was before the command was taken up. -/
theorem takenUp_copyHeadOk (s : State) (q : Nat) (cmd : Cmd) : (takenUp s q).copyHeadOk cmd = s.copyHeadOk cmd := rfl

section
variable (form : copyInstr h cmd i q) (w : waitsAt s q h cmd e)
include form w

theorem exec_copyInstr_waiting : exec i s = .next (State.beginCopy q { e with state := .active } (takenUp s q)) := by
  rw [exec_copyInstr form, State.takeHead_of_waits w]

theorem exec_copyInstr_refused (bad : (s.me.bindOk h && s.copyHeadOk cmd) = false) : exec i s = .next ((takenUp s q).finishHead q 2 0) := by
  rw [exec_copyInstr_waiting form w]
  obtain ⟨-, -, rfl, rfl, -⟩ := w
  have fails : (!s.me.bindOk e.head || !s.copyHeadOk e.cmd) = true := by rw [← Bool.not_and, bad]; rfl
  exact congrArg Host.Outcome.next (if_pos fails)

theorem exec_copyInstr_passed (good : (s.me.bindOk h && s.copyHeadOk cmd) = true) : exec i s = .next
    (if cmdEmpty cmd then (takenUp s q).finishHead q 0 0 else if readsBlock cmd then (takenUp s q).serveChannel q else takenUp s q) := by
  rw [exec_copyInstr_waiting form w]
  obtain ⟨-, -, rfl, rfl, -⟩ := w
  have passes : ¬ (!s.me.bindOk e.head || !s.copyHeadOk e.cmd) = true := by rw [← Bool.not_and, good]; exact Bool.false_ne_true
  refine congrArg Host.Outcome.next ((if_neg passes).trans ?_)
  refine ite_congr rfl (fun _ => rfl) fun _ => ?_
  cases e.cmd <;> simp [readsBlock]
end
end

theorem copyCommandsAreCheckedAndTakenUpAtTheirHead : CopyCommandsAreCheckedAndTakenUpAtTheirHead := by
  intro s h cmd i q e form w good
  have found := State.headEntry_takenUp w
  refine ⟨fun bad => ?_, fun passed empty => ?_, fun passed some_ => ?_⟩
  · exact ⟨_, exec_copyInstr_refused form w bad, State.endedAt_finishHead found 2 0, rfl⟩
  · refine ⟨_, exec_copyInstr_passed form w passed, ?_⟩
    rw [if_pos empty]
    exact ⟨State.endedAt_finishHead found 0 0, rfl⟩
  · have runs := exec_copyInstr_passed form w passed
    rw [some_, if_neg Bool.false_ne_true] at runs
    obtain ⟨-, -, common, command, none_⟩ := w
    cases reads : readsBlock cmd with
    | false =>
      rw [reads, if_neg Bool.false_ne_true] at runs
      exact ⟨_, _, runs, found, command, common, rfl, nofun, fun _ => rfl, rfl⟩
    | true =>
      rw [reads, if_pos rfl] at runs
      obtain ⟨mem, x, hx, hc, hh, hp, begun⟩ := State.serveChannel_begins found ⟨rfl, by rw [command]; exact reads, .inl none_⟩ (copyInstr_channel form)
      exact ⟨_, x, runs, hx, hc.trans command, hh.trans common, hp, begun, nofun, mem⟩

end Sys2Proof.Machine
end

section
/-!
SUPPORT. What a block gives its command: a descriptor, rows, offsets, a generation word, a jig (R203, R338, R342, R343, R346, R347).
-/
namespace Sys2Proof.Machine

open Sys2Proof Sys2Proof.Claims

section
variable {s t r v : State} {q va src dst : Nat} {h : CmdHead} {cmd : Cmd} {i : Instr} {e : Entry} {ok : Bool} {job : Job} {bs : List Byte}

/-- A command with a block that passes its head checks is served once when it is taken up. -/
theorem exec_copyInstr_reads (form : copyInstr h cmd i q) (w : waitsAt s q h cmd e) (held : s.me.bindOk h = true) (checked : s.copyHeadOk cmd = true)
    (some_ : cmdEmpty cmd = false) (reads : readsBlock cmd = true) : exec i s = .next ((takenUp s q).serveChannel q) := by
  rw [exec_copyInstr_passed form w (by rw [held, checked]; rfl), some_, if_neg Bool.false_ne_true, if_pos reads]

theorem beq_zero_of_toNat_pos {n : Nat} {x : BitVec n} (h : 0 < x.toNat) : (x == 0) = false := by
  rw [beq_eq_false_iff_ne]
  rintro rfl
  simp at h

/-! ## The head entry after the block -/

theorem goesOn_of_judged (mem : t.mem = s.mem) (head : t.me.headEntry q = some (e.judged ok job src dst)) : goesOn s t q e ok job src dst := by
  refine ⟨mem, ?_, ?_⟩
  · rintro rfl
    exact head
  · rintro rfl
    exact ⟨_, head, rfl, rfl, rfl⟩

/-- An entry that is judged by a block does not read on. -/
theorem State.withJob_rests (found : s.me.headEntry q = some e) (rests : ∀ bs, job ≠ .blocks bs) :
    (s.withJob q e ok job src dst).me.readsOn q = false := by
  refine Core.readsOn_of_noBlock (State.withJob_head found (Core.headEntry_qid found)) (.inr ?_)
  cases ok <;> exact rests

/-- The service of a command whose block is all that it reads. -/
theorem serveChannel_goesOn (found : r.me.headEntry q = some e) (serves : r.serveEntry q e = .ok (v.withJob q e ok job src dst))
    (same : v.me = r.me) (mem : v.mem = s.mem) (rests : ∀ bs, job ≠ .blocks bs) : goesOn s (r.serveChannel q) q e ok job src dst := by
  have found' : v.me.headEntry q = some e := by rw [same]; exact found
  rw [State.serveChannel_once (State.servePiece_of_ok found serves) (State.withJob_rests found' rests)]
  exact goesOn_of_judged mem (State.withJob_head found' (Core.headEntry_qid found'))

/-- An entry that keeps the block it has read. -/
def Entry.keeping (e : Entry) (bs : List Byte) : Entry := e.working (.blocks [bs]) e.srcAddr.toNat e.dstAddr.toNat

theorem State.keepBlock_head (found : s.me.headEntry q = some e) (va : Nat) (bs : List Byte) :
    (s.keepBlock q e va bs).me.headEntry q = some (e.keeping bs) :=
  State.withJob_head (ok := true) (by rw [State.seen_me]; exact found) (Core.headEntry_qid found)

/-- The service of a command whose block names more to read: with the block kept, it goes on at once (R338). -/
theorem serveChannel_readsOn (found : r.me.headEntry q = some e) (serves : r.serveEntry q e = .ok (r.keepBlock q e va bs))
    (twice : readsTwice e.cmd = true) (more : (r.keepBlock q e va bs).serveEntry q (e.keeping bs) = .ok t) : r.serveChannel q = t := by
  have kept := State.keepBlock_head found va bs
  rw [State.serveChannel_twice (State.servePiece_of_ok found serves) ((Core.readsOn_iff kept).2 ⟨⟨_, rfl⟩, rfl, twice⟩)]
  exact State.servePiece_of_ok kept more

/-! ## The piece of work that a block is -/

theorem State.serveEntry_copynd {c : CopyndCmd} (hc : e.cmd = .copynd c) (hj : e.job = .none) : s.serveEntry q e = s.prepareNd q e c := by
  simp only [State.serveEntry, hc, hj]

theorem State.serveEntry_gathr {c : GathrCmd} (hc : e.cmd = .gathr c) (hj : e.job = .none) : s.serveEntry q e = s.prepareGathr q e c := by
  simp only [State.serveEntry, hc, hj]

theorem State.serveEntry_xsched {c : XschedCmd} (hc : e.cmd = .xsched c) (hj : e.job = .none) : s.serveEntry q e = .ok (s.prepareJig q e c) := by
  simp only [State.serveEntry, hc, hj]
  rfl

theorem State.serveEntry_scatr {c : ScatrCmd} (hc : e.cmd = .scatr c) (hj : e.job = .none) (load : s.engLoad s.me c.parm.toNat 64 = .ok bs) :
    s.serveEntry q e = .ok (s.keepBlock q e c.parm.toNat bs) := by
  simp only [State.serveEntry, hc, hj, State.eget_ok load]
  rfl

theorem State.serveEntry_scatr_keeping {c : ScatrCmd} (hc : e.cmd = .scatr c) : s.serveEntry q (e.keeping bs) = s.prepareScatr q (e.keeping bs) c bs := by
  simp only [State.serveEntry, Entry.keeping, Entry.working, hc]

theorem State.serveEntry_copyg {c : CopygCmd} (hc : e.cmd = .copyg c) (hj : e.job = .none) (load : s.engLoad s.me c.parm.toNat 32 = .ok bs) :
    s.serveEntry q e = .ok (s.keepBlock q e c.parm.toNat bs) := by
  simp only [State.serveEntry, hc, hj, State.eget_ok load]
  rfl

theorem State.serveEntry_copyg_keeping {c : CopygCmd} (hc : e.cmd = .copyg c) : s.serveEntry q (e.keeping bs) = s.prepareGen q (e.keeping bs) c bs := by
  simp only [State.serveEntry, Entry.keeping, Entry.working, hc]

theorem State.prepareNd_ok {c : CopyndCmd} (load : s.engLoad s.me c.desc.toNat 64 = .ok bs) : s.prepareNd q e c =
    .ok ((s.seen c.desc.toNat 64).withJob q e (blkZero bs 28 4 && (ndOf bs).ok) (.nd (ndOf bs)) (ndOf bs).src (ndOf bs).dst) := by
  rw [State.prepareNd, State.eget_ok load]
  rfl

/-- GATHR's block (R343). -/
def gathrParm (bs : List Byte) : RowParm :=
  { idx := blk8 bs 0, offs := 0, src := blk8 bs 8, dst := blk8 bs 16, imap := 0, rowb := blk4 bs 24, nsrc := blk4 bs 28 }

theorem State.prepareGathr_ok {c : GathrCmd} {p : RowParm} (hp : gathrParm bs = p) (load : s.engLoad s.me c.parm.toNat 32 = .ok bs) :
    s.prepareGathr q e c = .ok ((s.seen c.parm.toNat 32).withJob q e (decide (p.idx % 4 = 0) && rowbOk p.rowb &&
      rangesOk [(p.idx, 4 * c.n.toNat), (p.src, p.nsrc * p.rowb)] [(p.dst, c.n.toNat * p.rowb)]) (.rows p none) p.src p.dst) := by
  subst hp
  rw [State.prepareGathr, State.eget_ok load]
  rfl

/-- What SCATR reads (R203): the experts, the offsets, the rows. -/
def scatrIns (c : ScatrCmd) (p : RowParm) : List (Nat × Nat) :=
  [(p.idx, 2 * c.ntok.toNat), (p.offs, 4 * (c.ne.toNat + 1)), (p.src, c.ntok.toNat * p.rowb)]

/-- SCATR's own copy of the offsets (R203). -/
def scatrNext (c : ScatrCmd) (os : List Byte) : List Nat := (List.range (c.ne.toNat + 1)).map (fun i => blk4 os (4 * i))

/-- What SCATR writes: the rows that the last offset counts and, where one is given, the index map (R203). -/
def scatrOuts (c : ScatrCmd) (p : RowParm) (os : List Byte) : List (Nat × Nat) :=
  let rows := nth 0 (scatrNext c os) c.ne.toNat
  (p.dst, rows * p.rowb) :: (if p.imap = 0 then [] else [(p.imap, 4 * rows)])

theorem State.prepareScatr_ok {c : ScatrCmd} {p : RowParm} {os : List Byte} (hp : scatrParm bs = p) (idx : p.idx % 2 = 0) (offs : p.offs % 4 = 0)
    (imap : p.imap % 4 = 0) (rowb : rowbOk p.rowb = true) (zero : blkZero bs 44 20 = true)
    (clear : ∀ x ∈ scatrIns c p, triggerHit x.1 x.2 = false) (load : s.engLoad s.me p.offs (4 * (c.ne.toNat + 1)) = .ok os) :
    s.prepareScatr q e c bs = .ok ((s.seen p.offs os.length).withJob q e (rangesOk (scatrIns c p) (scatrOuts c p os) && outsApart (scatrOuts c p os))
      (.scatter p (scatrNext c os) none) p.src p.dst) := by
  subst hp
  have untriggered : (!(scatrIns c (scatrParm bs)).any (fun r => triggerHit r.1 r.2)) = true := by
    rw [Bool.not_eq_true', List.any_eq_false]
    exact fun x hx => by rw [clear x hx]; exact Bool.false_ne_true
  refine (if_pos ⟨idx, offs, imap, rowb, zero, untriggered⟩).trans ?_
  show (s.eget (scatrParm bs).offs (4 * (c.ne.toNat + 1)) >>= _) = _
  rw [State.eget_ok load]
  rfl

/-- The state of a COPYG that has read its generation word (R346). -/
def State.generation (s : State) (q : Nat) (e : Entry) (bs : List Byte) : State :=
  (s.seen (blk8 bs 16) 8).withJob q e true (.gen (blk8 bs 0) (blk8 bs 8) (blk8 bs 16) (BitVec.ofNat 64 (blk8 bs 24))) (blk8 bs 0) (blk8 bs 8)

theorem State.generation_goesOn (found : t.me.headEntry q = some e) (mem : t.mem = s.mem) : goesOn s (t.generation q e bs) q e true
    (.gen (blk8 bs 0) (blk8 bs 8) (blk8 bs 16) (BitVec.ofNat 64 (blk8 bs 24))) (blk8 bs 0) (blk8 bs 8) :=
  goesOn_of_judged (((State.withJob_mem _ _ _ _ _ _ _).trans (State.seen_mem _ _ _)).trans mem)
    (State.withJob_head (by rw [State.seen_me]; exact found) (Core.headEntry_qid found))

theorem State.prepareGen_ok {c : CopygCmd} {g : List Byte} (aligned : blk8 bs 16 % 8 = 0)
    (ranges : rangesOk [(blk8 bs 0, c.len.toNat), (blk8 bs 16, 8)] [(blk8 bs 8, c.len.toNat)] = true)
    (load : s.engLoad s.me (blk8 bs 16) 8 = .ok g) : s.prepareGen q e c bs =
      .ok (if leVal g = blk8 bs 24 then s.generation q e bs else (s.generation q e bs).finishHead q 4 0) := by
  refine (if_pos ⟨aligned, ranges⟩).trans ?_
  rw [State.eget_ok load]
  exact (apply_ite Except.ok _ _ _).symm

/-! ## The jig (R104, R105, R347) -/

/-- The header of a jig is within its limits: 1 to 4,096 entries, no reserved bit, a start channel that the launch holds. -/
def jigHeaderOk (c : Core) (hd : List Byte) : Bool :=
  let n := blk2 hd 0
  let st := blk2 hd 2 % 256
  decide (1 ≤ n ∧ n ≤ 4096 ∧ st / 32 % 4 = 0) && blkZero hd 3 13 && (decide (st < 128) || c.holds (st % 32))

/-- The model's refusal of a header, by its fields. -/
theorem jigHeaderOk_iff {c : Core} {hd : List Byte} : jigHeaderOk c hd = false ↔
    (blk2 hd 0 < 1 ∨ 4096 < blk2 hd 0 ∨ blk2 hd 2 % 256 / 32 % 4 ≠ 0 ∨ (!blkZero hd 3 13) = true ∨
      (128 ≤ blk2 hd 2 % 256 ∧ (!c.holds (blk2 hd 2 % 256 % 32)) = true)) := by
  simp only [jigHeaderOk, Bool.and_eq_false_iff, Bool.or_eq_false_iff, decide_eq_false_iff_not, Bool.not_eq_true', not_lt, not_and_or, not_le, or_assoc, ne_eq]

section
variable {c : XschedCmd} {hd : List Byte} (header : s.engLoad s.me c.jig.toNat 16 = .ok hd)
  (load : s.engLoad s.me (c.jig.toNat + 16) (16 * blk2 hd 0) = .ok bs)
include header load

theorem State.prepareJig_good (good : jigHeaderOk s.me hd = true) (entries : jigOk 0 ((List.range (blk2 hd 0)).map (jigEntry bs)) = true) :
    s.prepareJig q e c =
      (let st := blk2 hd 2 % 256
       let await := if st < 128 then none else (s.channel? (st % 32)).map (fun x => (st % 32, x.epoch))
       s.withJob q e true (.jig ((List.range (blk2 hd 0)).map (jigEntry bs)) await (if await.isNone then some s.cycle else none) 0 false)
         (c.jig.toNat / 2 ^ 18 * 2 ^ 18) 0) := by
  have passes := fun refused => Bool.false_ne_true ((jigHeaderOk_iff.2 refused).symm.trans good)
  unfold State.prepareJig
  simp only [header, load]
  rw [if_neg passes, if_neg (by rw [entries]; exact Bool.false_ne_true)]

/-- A jig without a start channel starts at once (R105). -/
theorem State.prepareJig_early (good : jigHeaderOk s.me hd = true) (entries : jigOk 0 ((List.range (blk2 hd 0)).map (jigEntry bs)) = true)
    (early : blk2 hd 2 % 256 < 128) : s.prepareJig q e c = s.withJob q e true
      (.jig ((List.range (blk2 hd 0)).map (jigEntry bs)) none (some s.cycle) 0 false) (c.jig.toNat / 2 ^ 18 * 2 ^ 18) 0 := by
  rw [State.prepareJig_good header load good entries]
  simp only [early, if_true, Option.isNone_none]

/-- A jig with a start channel awaits the end of that channel's open episode (R105). -/
theorem State.prepareJig_late {x : Channel} (good : jigHeaderOk s.me hd = true) (entries : jigOk 0 ((List.range (blk2 hd 0)).map (jigEntry bs)) = true)
    (late : 128 ≤ blk2 hd 2 % 256) (hx : s.channel? (blk2 hd 2 % 256 % 32) = some x) : s.prepareJig q e c = s.withJob q e true
      (.jig ((List.range (blk2 hd 0)).map (jigEntry bs)) (some (blk2 hd 2 % 256 % 32, x.epoch)) none 0 false) (c.jig.toNat / 2 ^ 18 * 2 ^ 18) 0 := by
  rw [State.prepareJig_good header load good entries]
  simp only [Nat.not_lt.2 late, hx, if_false, Option.map_some, Option.isNone_some, Bool.false_eq_true]

theorem State.prepareJig_bad (bad : jigHeaderOk s.me hd = false ∨ jigOk 0 ((List.range (blk2 hd 0)).map (jigEntry bs)) = false) :
    s.prepareJig q e c = s.putHead q (e.fail 14 (c.jig.zeroExtend 64)) := by
  unfold State.prepareJig
  simp only [header, load]
  split
  · rfl
  · next passes =>
    obtain refused | entries := bad
    · exact absurd (jigHeaderOk_iff.1 refused) passes
    · rw [if_pos (by rw [entries]; rfl)]
end
end

theorem blocksGiveTheirCommandsTheirWork : BlocksGiveTheirCommandsTheirWork := by
  intro s h e bs held
  refine ⟨?_, ?_, ?_, ?_, ?_⟩
  · intro c q r w checked load
    have runs := exec_copyInstr_reads (i := .copynd h c) (.inr (.inl ⟨c, rfl, rfl, rfl⟩)) w held checked rfl rfl
    have found := State.headEntry_takenUp w
    obtain ⟨-, -, -, hc, hj⟩ := w
    have goes := serveChannel_goesOn (s := s) found ((State.serveEntry_copynd hc hj).trans (State.prepareNd_ok load))
      (State.seen_me _ _ _) (State.seen_mem _ _ _) nofun
    exact ⟨_, runs, goes⟩
  · intro c q r n p w checked some_ load
    have runs := exec_copyInstr_reads (i := .gathr h c) (.inr (.inr (.inl ⟨c, rfl, rfl, rfl⟩))) w held checked (beq_zero_of_toNat_pos some_) rfl
    have found := State.headEntry_takenUp w
    obtain ⟨-, -, -, hc, hj⟩ := w
    have goes := serveChannel_goesOn (s := s) found ((State.serveEntry_gathr hc hj).trans (State.prepareGathr_ok rfl load))
      (State.seen_me _ _ _) (State.seen_mem _ _ _) nofun
    exact ⟨_, runs, goes⟩
  · intro c os q r k n p tab next rows outs w checked load idx offs imap rowb zero clear more
    have runs := exec_copyInstr_reads (i := .scatr h c) (.inr (.inr (.inr (.inl ⟨c, rfl, rfl, rfl⟩)))) w held checked rfl rfl
    have found := State.headEntry_takenUp w
    obtain ⟨-, -, -, hc, hj⟩ := w
    have kept := State.keepBlock_head found c.parm.toNat bs
    have ends := serveChannel_readsOn found (State.serveEntry_scatr hc hj load) (by rw [hc]; rfl)
      ((State.serveEntry_scatr_keeping hc).trans (State.prepareScatr_ok rfl idx offs imap rowb zero clear more))
    refine ⟨_, runs.trans (congrArg _ ends), goesOn_of_judged ?_ (State.withJob_head (by rw [State.seen_me]; exact kept) (Core.headEntry_qid kept))⟩
    rw [State.withJob_mem, State.seen_mem, State.keepBlock_mem]
    rfl
  · intro c g q r k w checked some_ load aligned ranges more
    have form : copyInstr h (.copyg c) (.copyg h c) q := .inr (.inr (.inr (.inr (.inr (.inr (.inr (.inr (.inl ⟨c, rfl, rfl, rfl⟩))))))))
    have runs := exec_copyInstr_reads form w held checked (beq_zero_of_toNat_pos some_) rfl
    have found := State.headEntry_takenUp w
    obtain ⟨-, -, -, hc, hj⟩ := w
    have kept := State.keepBlock_head found c.parm.toNat bs
    have ends := serveChannel_readsOn found (State.serveEntry_copyg hc hj load) (by rw [hc]; rfl)
      ((State.serveEntry_copyg_keeping hc).trans (State.prepareGen_ok aligned ranges more))
    have goes := State.generation_goesOn (bs := bs) kept (State.keepBlock_mem _ _ _ _ _)
    have ⟨mem, active, _⟩ := goes
    refine ⟨_, runs.trans (congrArg _ ends), fun stale => ?_, fun fresh => ?_⟩
    · rw [if_neg stale]
      exact ⟨mem, State.endedAt_finishHead (active rfl) 4 0⟩
    · rw [if_pos fresh]
      exact goes
  · intro c hd q r n st es good w checked header load
    have form : copyInstr h (.xsched c) (.xsched h c) q := .inr (.inr (.inr (.inr (.inr (.inr (.inr (.inr (.inr ⟨c, rfl, rfl, rfl⟩))))))))
    have runs := exec_copyInstr_reads form w held checked rfl rfl
    have found := State.headEntry_takenUp w
    have qid := Core.headEntry_qid found
    obtain ⟨-, -, -, hc, hj⟩ := w
    have ends : r.serveChannel q = r.prepareJig q { e with state := .active } c := by
      refine State.serveChannel_once (State.servePiece_of_ok found (State.serveEntry_xsched hc hj)) ?_
      obtain ⟨-, x, hx, command, -⟩ := State.prepareJig_begins (c := c) found
      exact Core.readsOn_of_noBlock hx (.inl (by rw [command, hc]; rfl))
    have runs := runs.trans (congrArg _ ends)
    refine ⟨_, runs, State.prepareJig_mem _ _ _ _, fun header_ entries early => ?_, fun header_ entries late x hx => ?_, fun bad => ?_⟩
    · rw [State.prepareJig_early header load header_ entries early]
      have head := State.withJob_head (ok := true) (job := .jig es none (some s.cycle) 0 false) (src := c.jig.toNat / 2 ^ 18 * 2 ^ 18) (dst := 0)
        found qid
      exact goesOn_of_judged rfl head
    · rw [State.prepareJig_late header load header_ entries late hx]
      have head := State.withJob_head (ok := true) (job := .jig es (some (st % 32, x.epoch)) none 0 false)
        (src := c.jig.toNat / 2 ^ 18 * 2 ^ 18) (dst := 0) found qid
      exact goesOn_of_judged rfl head
    · rw [State.prepareJig_bad header load bad]
      exact ⟨_, State.headEntry_putHead found qid, rfl, rfl, rfl⟩

end Sys2Proof.Machine
end

section
/-!
PROOFS. A copy that another package answers, the channels that go on when their event comes, and the copy commands (O28).
-/
namespace Sys2Proof.Machine

open Sys2Proof Sys2Proof.Claims

section
variable {s t u : State} {q id out n rows src dst : Nat} {e : Entry} {job : Job}

/-! ## An entry after its packet, in full -/

/-- An entry n bytes further. -/
def Entry.further (e : Entry) (n rows src dst : Nat) : Entry :=
  { e with state := .active, kick := false, since := 0, pos := e.pos + n, moved := e.moved + rows
           srcAddr := BitVec.ofNat 64 src, dstAddr := BitVec.ofNat 64 dst }

theorem movedOn_of_more (more : e.pos + n < e.total) : movedOn e n rows src dst = e.further n rows src dst := by
  have goes : ¬ endsWith e n = true := by
    rw [endsWith, decide_eq_false (Nat.not_le.2 more), Bool.false_and]
    exact Bool.false_ne_true
  exact if_neg goes

theorem movedOn_of_last (hc : ∀ c, e.cmd ≠ .copyg c) (last : e.total ≤ e.pos + n) :
    movedOn e n rows src dst = (e.further n rows src dst).finish 0 (e.moved + rows) := by
  have ends : endsWith e n = true := by
    rw [endsWith, decide_eq_true last, Bool.true_and]
    split
    · next c hc' => exact absurd hc' (hc c)
    · rfl
  exact if_pos ends

/-! ## The answer of another package (R110, R341) -/

section
variable (hj : e.job = .remote id out) (goes : e.state ≠ .finishing)
include hj

theorem Entry.answered_none {fault : Option (Nat × Nat)} (none_ : out = 0) : e.answered id n fault = e := by
  simp only [Entry.answered, hj, none_, true_or, or_true, if_true]

include goes

theorem Entry.answered_fault {f : Nat × Nat} (some_ : out ≠ 0) :
    e.answered id n (some f) = { e with job := .remote id 0 }.fail f.1 (BitVec.ofNat 64 f.2) := by
  simp only [Entry.answered, hj, ne_eq, not_true_eq_false, some_, goes, or_false, if_false]

theorem Entry.answered_moved (some_ : out ≠ 0) : e.answered id n none =
    movedOn { e with job := .remote id 0 } n n (e.srcAddr.toNat + n) (e.dstAddr.toNat + n) := by
  simp only [Entry.answered, hj, ne_eq, not_true_eq_false, some_, goes, or_false, if_false]
end

theorem Entry.answered_qid (e : Entry) (id n : Nat) (fault : Option (Nat × Nat)) : (e.answered id n fault).qid = e.qid := by
  unfold Entry.answered
  split
  · split
    · rfl
    · split
      · rfl
      · exact movedOn_qid _ _ _ _ _
  · rfl

theorem State.copyAnswer_head {fault : Option (Nat × Nat)} (found : s.me.headEntry q = some e) :
    (s.copyAnswer id n fault).me.headEntry q = some (e.answered id n fault) := by
  have mapped : (s.copyAnswer id n fault).me = { s.me with entries := s.me.entries.map (fun e => e.answered id n fault) } := rfl
  rw [mapped, Core.headEntry_map fun x => x.answered_qid id n fault, found]
  rfl
end

theorem answersOfAnotherPackageMoveItsCopy : AnswersOfAnotherPackageMoveItsCopy := by
  intro s q id out n e c found hc hj goes
  have total : ({ e with job := .remote id 0 } : Entry).total = c.len.toNat := by simp only [Entry.total, hc]
  refine ⟨fun fault none_ => ?_, fun cause addr some_ => ?_, fun some_ more => ?_, fun some_ last => ?_⟩
  · rw [State.copyAnswer_head found, Entry.answered_none hj none_]
  · refine ⟨_, State.copyAnswer_head found, Entry.answered_fault hj goes some_, ?_⟩
    rw [Entry.answered_fault hj goes some_]
    simp only [Entry.remaining, Entry.total, Entry.fail, hc]
  · rw [State.copyAnswer_head found, Entry.answered_moved hj goes some_, movedOn_of_more (by rw [total]; exact more)]
    rfl
  · rw [endedAt, State.copyAnswer_head found, Entry.answered_moved hj goes some_,
      movedOn_of_last (by rw [hc]; nofun) (by rw [total]; exact last)]
    exact ⟨_, rfl, rfl, rfl, rfl⟩

/-! ## The channels that wait -/

section
variable {s u : State} {q n : Nat} {e : Entry}

/-- A service that moves one packet, whatever it was due by. -/
theorem State.serveChannel_moves (head : s.me.headEntry q = some e) (same : u.me.entries = s.me.entries) (moves : Moves (s.serveEntry q e) u q e n) :
    (s.serveChannel q).mem = u.mem ∧ advanced (s.serveChannel q) q e n ∧ ∃ es, (s.serveChannel q).me = { u.me with entries := es } := by
  obtain ⟨job, at', rows, src, dst, serves, keeps⟩ := moves
  obtain ⟨moved, rests⟩ := State.afterMove_advanced (at' := at') (n := n) (rows := rows) (src := src) (dst := dst)
    ((Core.headEntry_congr same).trans head) keeps
  rw [State.serveChannel_once (State.servePiece_of_ok head serves) rests]
  refine ⟨State.afterMove_mem _ _ _ _ _ _ _ _, moved, ?_⟩
  rw [State.afterMove, State.putHead, State.updMe_me, State.landFor_me]
  exact ⟨_, rfl⟩

theorem exec_suspendedRetranslate (due : s.retranslateDue q = true) : exec (.suspendedRetranslate q) s = .next (s.serveChannel q) :=
  congrArg Host.Outcome.next (if_pos due)

theorem exec_engineResend (head : s.me.headEntry q = some e) (hq : q < 64) (due : s.resendDue q = true) (piece : e.recordPending = false) :
    exec (.engineResend q) s = .next (s.serveChannel q) := by
  have resends : s.resend q = s.serveChannel q := by
    simp only [State.resend, head, piece, hq, Bool.false_eq_true, if_false, if_true]
  exact congrArg Host.Outcome.next ((if_pos due).trans resends)

theorem exec_feedSpaceReleased {c : FeedCmd} (head : s.me.headEntry q = some e) (hc : e.cmd = .feeda c) (ready : s.me.canServe q = true) :
    exec (.feedSpaceReleased q) s = .next (s.serveChannel q) := by
  refine congrArg Host.Outcome.next ?_
  simp only [head, hc, ready, if_true]

theorem exec_jigEntryIssue (due : s.jigDue q = true) : exec (.jigEntryIssue q) s = .next (s.jigStep q) := congrArg Host.Outcome.next (if_pos due)
end

theorem waitingChannelsGoOnWhenTheirEventComes : WaitingChannelsGoOnWhenTheirEventComes := by
  intro s q e head hq
  refine ⟨?_, ?_, ?_, ?_⟩
  · intro c es await t0 cur hc active hj come
    have due : s.jigDue q = true := by
      simp only [State.jigDue, head, active, hj, beq_self_eq_true, Bool.true_and]
      split
      · next x hx => exact decide_eq_true (come x hx)
      · rfl
    have step : s.jigStep q = s.putHead q { e with job := .jig es await (some t0) cur true } := by simp only [State.jigStep, head, hj]
    rw [exec_jigEntryIssue due, step]
    rfl
  · intro c es ch ep x hc active hj hx ended well
    have due : s.jigDue q = true := by simp [State.jigDue, head, active, hj, hx, ended]
    have step : s.jigStep q = s.putHead q { e with job := .jig es (some (ch, ep)) (some s.cycle) 0 false } := by
      simp only [State.jigStep, head, hj, hx, well, Bool.false_eq_true, if_false]
    rw [exec_jigEntryIssue due, step]
    rfl
  · intro a b lim bs u span n load store
    have same : u.me.entries = s.me.entries := (EngWrote.engStoreAs store).entries.trans (by rw [State.seen_me])
    obtain ⟨mem, moved, -⟩ := State.serveChannel_moves head same (State.serveEntry_span span (State.emove_ok load store))
    exact ⟨fun due => ⟨_, exec_suspendedRetranslate due, mem, moved⟩, fun due piece => ⟨_, exec_engineResend head hq due piece, mem, moved⟩⟩
  · intro c bs hc ready a n load
    have total : e.remaining = c.len.toNat - e.pos := by simp only [Entry.remaining, Entry.total, hc]
    have moves : Moves (s.serveEntry q e) (s.fed false a n bs) q e n := by
      have serves : s.serveEntry q e = s.serveFeed q e false c.src.toNat := by simp only [State.serveEntry, hc]
      rw [serves]
      exact State.serveFeed_moves (.inl (by rw [hc]; rfl)) rfl (by rw [total]; rfl) load
    obtain ⟨mem, moved, es, me⟩ := State.serveChannel_moves head State.fed_entries moves
    refine ⟨_, exec_feedSpaceReleased head hc ready, mem.trans (State.seen_mem _ _ _), moved, ?_⟩
    rw [me, State.fed, State.updMe_me, State.seen_me]
    rfl

/-- Settles O28: the checks at the head, what each block gives, the answers of another package, and the events that a waiting
channel goes on at. -/
theorem copyCommandsAreTakenUpAndGoOn : Obligations.CopyCommandsAreTakenUpAndGoOn :=
  ⟨copyCommandsAreCheckedAndTakenUpAtTheirHead, blocksGiveTheirCommandsTheirWork, answersOfAnotherPackageMoveItsCopy,
    waitingChannelsGoOnWhenTheirEventComes⟩

end Sys2Proof.Machine
end

section
/-!
SUPPORT. What WAITW and the atomics that are not batched leave (R126, R269, R271): the place an access finds, an acquire,
the destination, and what becomes of the waiters (O8).
-/
namespace Sys2Proof.Machine

open Sys2Proof Sys2Proof.Claims

/-! ## The place of an access -/

/-- Finding the place of an access changes the cached translations, the pages the context is known to hold and the counter
of free values: every other part of the state is as it was. -/
structure Translated (s u : State) : Prop where
  rest : ∃ i d fr l2 fm, u = { s with me := { s.me with itlb := i, dtlb := d }, fresh := fr, l2tlb := l2, frames := fm }

section
variable {α : Type} {s t u : State} {a : α}

theorem Translated.refl : Translated s s := ⟨_, _, _, _, _, rfl⟩

theorem Translated.trans (h : Translated s t) (h' : Translated t u) : Translated s u := by
  obtain ⟨_, _, _, _, _, rfl⟩ := h
  obtain ⟨_, _, _, _, _, rfl⟩ := h'
  exact ⟨_, _, _, _, _, rfl⟩

theorem Translated.draw : Translated s s.draw := ⟨_, _, _, _, _, rfl⟩

theorem Translated.itlb {f : Core → List TlbEntry} : Translated s (s.updMe (fun c => { c with itlb := f c })) := ⟨_, _, _, _, _, rfl⟩

theorem Translated.dtlb {f : Core → List TlbEntry} : Translated s (s.updMe (fun c => { c with dtlb := f c })) := ⟨_, _, _, _, _, rfl⟩

theorem Translated.cacheL2 (n : Nat) (e : TlbEntry) : Translated s (s.cacheL2 n e) := by
  unfold State.cacheL2
  dsimp only
  split
  · exact .refl
  · exact ⟨_, _, _, _, _, rfl⟩

theorem Translated.own (ctx va : Nat) (e : TlbEntry) : Translated s (s.own ctx va e) := by
  unfold State.own
  split
  · exact .refl
  · dsimp only
    split
    · exact ⟨_, _, _, _, _, rfl⟩
    · exact .refl

theorem Translated.mem (h : Translated s u) : u.mem = s.mem := by obtain ⟨_, _, _, _, _, rfl⟩ := h; rfl

theorem Translated.plainReg {r : BitVec 5} (h : Translated s u) : u.me.plainReg r = s.me.plainReg r := by
  obtain ⟨_, _, _, _, _, rfl⟩ := h; rfl

theorem Translated.batches {op : Nat} {r : BitVec 5} (h : Translated s u) : u.me.batches op r = s.me.batches op r := by
  obtain ⟨_, _, _, _, _, rfl⟩ := h; rfl

/-- A body that, where it goes on, has done no more than find a place. -/
def M.Finds (x : M α) : Prop := ∀ s a u, x s = .ok (a, u) → Translated s u

theorem M.Finds.pure (a : α) : M.Finds (Pure.pure a : M α) := fun _ _ _ h => by cases h; exact .refl

theorem M.Finds.trap {c : Nat} {v : Word} : M.Finds (Machine.trap c v : M α) := fun _ _ _ h => by cases h

theorem M.Finds.trapWord {c : Nat} : M.Finds (Machine.trapWord c : M α) := fun _ _ _ h => by cases h

theorem M.Finds.stall {k : WaitKind} {r : BitVec 5} : M.Finds (Machine.stall k r : M α) := fun _ _ _ h => by cases h

theorem M.Finds.change {f : State → State} (hf : ∀ s, Translated s (f s)) : M.Finds (Machine.change f) := fun s _ _ h => by
  cases h; exact hf s

theorem M.Finds.look : M.Finds Machine.look := fun _ _ _ h => by cases h; exact .refl

theorem M.Finds.bind {β : Type} {x : M α} {f : α → M β} (hx : M.Finds x) (hf : ∀ a, M.Finds (f a)) : M.Finds (x >>= f) := fun _ _ _ h => by
  obtain ⟨a, v, first, rest⟩ := M.bind_ok_iff.1 h
  exact (hx _ _ _ first).trans (hf a _ _ _ rest)

theorem M.Finds.ite {c : Prop} [Decidable c] {x y : M α} (hx : M.Finds x) (hy : M.Finds y) : M.Finds (if c then x else y) := by
  split
  · exact hx
  · exact hy

theorem xlatM_finds (va : Nat) (acc : Acc) : M.Finds (xlatM va acc) := by
  have remembers {e : TlbEntry} {k : Nat} : M.Finds (change (fun s => (s.cacheL2 s.me.id e).own s.me.ctx va e) >>= fun _ => Pure.pure k) :=
    .bind (.change fun _ => (Translated.cacheL2 _ _).trans (.own _ _ _)) fun _ => .pure k
  refine .bind .look fun s => .ite (.bind (.change fun _ => .draw) fun _ => ?_) ?_
  all_goals
    split
    · exact .trap
    · exact .stall
    · split
      · exact .ite (.bind (.change fun _ => .itlb) fun _ => remembers) (.bind (.change fun _ => .dtlb) fun _ => remembers)
      · exact .pure _

theorem place_finds (va : Word) (n : Nat) (acc : Acc) (det : Bool) : M.Finds (place va n acc det) := by
  refine .bind .look fun s => .ite .trap (.ite .trap (.ite .trap (.ite .trapWord ?_)))
  split
  · exact .bind (xlatM_finds _ _) fun _ => .pure _
  · split
    · exact .trap
    · exact .stall
    · exact .pure _
  · exact .pure _
  · exact .ite (.pure _) .trap
  · exact .trap

theorem amoPlace_finds (va : Word) (n op : Nat) (rd : BitVec 5) : M.Finds (amoPlace va n op rd) :=
  .bind .look fun _ => .ite .trap (.ite .trap (.ite .trapWord (place_finds _ _ _ _)))
end

/-! ## An acquire and the destination -/

/-- A core after an acquire at a scope: a scope wider than CORE leaves no line in the L1 data cache (R140). -/
def Core.acquired (scope : Nat) (c : Core) : Core := { c with l1d := if scope = 0 then c.l1d else [] }

/-- A core after an acquire and the write of a general register. -/
def Core.acquiredG (scope : Nat) (rd : BitVec 5) (w : Word) (c : Core) : Core := (c.acquired scope).withG rd w

section
variable {β : Type} {s t : State} {k : Nat} {rd : BitVec 5} {w : Word}

theorem acquireM_apply : acquireM k s = .ok ((), s.updMe (Core.acquired k)) := by
  unfold acquireM
  split
  · next h => subst h; rfl
  · next h =>
    have empties : Core.acquired k = fun c => { c with l1d := [] } := funext fun c => by rw [Core.acquired, if_neg h]
    rw [empties]
    rfl

/-- An optional change before what follows it. -/
theorem M.maybe_change {c : Prop} [Decidable c] {f : State → State} {g : Unit → M β} :
    (if c then (change f >>= g) else g ()) s = g () (if c then f s else s) := by
  split <;> rfl

/-- An acquire that an order may ask for. -/
theorem M.maybe_acquire {c : Prop} [Decidable c] {g : Unit → M β} :
    (if c then (acquireM k >>= g) else g ()) s = g () (s.updMe (Core.acquired (if c then k else 0))) := by
  split
  · exact M.bind_ok acquireM_apply
  · rfl

/-- A destination that may be g0, which discards what is written. -/
theorem writeReg_unless_zero (h : s.me.plainReg rd = true) :
    (if rd ≠ 0 then writeReg rd w else pure ()) s = .ok ((), s.updMe (fun c => c.withG rd w)) := by
  split
  · exact writeReg_plain h
  · next z =>
    obtain rfl := not_ne_iff.1 z
    rfl

theorem M.maybe_writeReg (h : s.me.plainReg rd = true) {g : Unit → M β} :
    (if rd ≠ 0 then (writeReg rd w >>= g) else g ()) s = g () (s.updMe (fun c => c.withG rd w)) := by
  split
  · exact M.bind_ok (writeReg_plain h)
  · next z =>
    obtain rfl := not_ne_iff.1 z
    rfl

/-- An instruction that completes having acquired and written its destination; of memory nothing has changed. -/
structure Answers (scope : Nat) (rd : BitVec 5) (w : Word) (s t : State) : Prop where
  me : t.me = { (s.me.acquiredG scope rd w).count with pc := s.me.pc + 4, wait := none }
  mem : t.mem = s.mem

theorem Answers.of_written {u : State} (me : u.me = { s.me with wait := u.me.wait }) (mem : u.mem = s.mem) :
    Answers k rd w s (u.updMe (Core.acquiredG k rd w)).retire := by
  refine ⟨?_, mem⟩
  rw [State.retire_me, State.updMe_me, me]
  simp only [Core.acquiredG, Core.withG, Core.setGpr]
  split <;> rfl

theorem Core.gpr_setGpr_dest {c : Core} : (c.setGpr rd.toNat w).gpr rd.toNat = if rd = 0 then 0 else w := by
  split
  · next h => subst h; rfl
  · next h => exact Core.gpr_setGpr_same (fun z => h (BitVec.eq_of_toNat_eq z)) rd.isLt

variable (h : Answers k rd w s t)
include h

theorem Answers.pc : t.me.pc = s.me.pc + 4 := by rw [h.me]

theorem Answers.wait : t.me.wait = none := by rw [h.me]

theorem Answers.gr : t.gr rd = if rd = 0 then 0 else w := by
  rw [State.gr, h.me]
  exact Core.gpr_setGpr_dest (c := s.me.acquired k)

theorem Answers.gr_of_ne_zero (hr : rd ≠ 0) : t.gr rd = w := by rw [h.gr, if_neg hr]

theorem Answers.l1d (hk : k ≠ 0) : t.me.l1d = [] := by
  rw [h.me]
  exact (Core.setGpr_l1d _ _ _).trans (if_neg hk)

theorem Answers.regFrame : regFrame rd s t := by
  have others (n : Nat) (hn : n ≠ rd.toNat) : t.me.gpr n = s.me.gpr n := by
    rw [h.me]
    exact Core.gpr_setGpr_other (c := s.me.acquired k) hn
  have me : t.me = { s.me.completed (s.me.acquiredG k rd w).g s.me.ports with l1d := (s.me.acquired k).l1d } := by
    rw [h.me, Core.acquiredG, Core.withG, Core.setGpr_eq]
    rfl
  refine ⟨others, ?_, ?_, ?_, ?_, ?_, ?_, ?_, ?_, ?_, ?_, fun _ a => by rw [h.mem]⟩ <;> rw [me] <;> rfl
end

/-! ## The atomics that are not batched (R269) -/

theorem sintN_mod (n x : Nat) : sintN n (x % 2 ^ n) = sintN n x := by
  rw [sintN, sintN, show BitVec.ofNat n (x % 2 ^ n) = BitVec.ofNat n x from BitVec.eq_of_toNat_eq (by simp)]

/-- The crossing of a threshold by an addition (R126). -/
theorem addtCrosses_iff {n old x : Nat} {th : Word} : addtCrosses n old ((old + x % 2 ^ (8 * n)) % 2 ^ (8 * n)) th = true ↔
    (sintN (8 * n) old < sintN (8 * n) th.toNat ∧ sintN (8 * n) th.toNat ≤ sintN (8 * n) (old + x)) ∨
    (sintN (8 * n) th.toNat < sintN (8 * n) old ∧ sintN (8 * n) (old + x) ≤ sintN (8 * n) th.toNat) := by
  simp only [addtCrosses, Nat.add_mod_mod, sintN_mod, Bool.or_eq_true, Bool.and_eq_true, decide_eq_true_eq]

/-- Every waiter of a word is woken (R126). -/
theorem State.woken_of_mem_wakeAll {s : State} {k : Nat} {w : Waiter} (h : w ∈ (s.wakeAll k).waiters) (hk : w.key = k) : w.woken = true := by
  obtain ⟨v, -, rfl⟩ := List.mem_map.1 h
  split
  · rfl
  · next other =>
    rw [if_neg other] at hk
    exact absurd (beq_iff_eq.2 hk) other

/-- What an atomic that is not batched does at its place, before its acquire and its destination: the core's own cached
lines go, the new value is written, and the waiters of the word may be woken. -/
def State.atomicAt (u : State) (p : Place) (n : Nat) (r : Nat × Bool × Word) (wakes : Prop) [Decidable wakes] : State :=
  let dropped := if p.paged then u.updMe (fun c => { c with l1d := dropLines c.l1d p.key n }) else u
  let wrote := if r.2.1 then dropped.writeMem p.key (leBytes n r.1) else dropped
  if wakes then wrote.wakeAll p.key else wrote

section
variable {s u : State} {op : Nat} {rd ra rb : BitVec 5} {size : BitVec 1} {order : BitVec 2} {scope : BitVec 3} {p : Place}

theorem State.atomicAt_plainReg {n : Nat} {r : Nat × Bool × Word} {wakes : Prop} [Decidable wakes] :
    (u.atomicAt p n r wakes).me.plainReg rd = u.me.plainReg rd := by
  unfold State.atomicAt
  dsimp only
  split_ifs <;> rfl

theorem State.woken_of_mem_atomicAt {n : Nat} {r : Nat × Bool × Word} {wakes : Prop} [Decidable wakes] {w : Waiter} (h : wakes)
    (hw : w ∈ (u.atomicAt p n r wakes).waiters) (hk : w.key = p.key) : w.woken = true := by
  rw [State.atomicAt, if_pos h] at hw
  exact State.woken_of_mem_wakeAll hw hk

/-- Operations above 7 are never batched (R150). -/
theorem Core.batches_of_gt {c : Core} (h : 7 < op) : c.batches op rd = false := by
  rw [Core.batches, decide_eq_false (Nat.not_le_of_lt h), Bool.and_false, Bool.false_and]

/-- An atomic that is not batched, on registers in their ordinary form and at a place whose checks pass, is performed there. -/
theorem amoBody_performed (hd : s.me.plainReg rd = true) (ha : s.me.plainReg ra = true) (hb : s.me.plainReg rb = true)
    (single : s.me.batches op rd = false) (found : amoPlace (s.gr ra) (if size = 0 then 4 else 8) op rd s = .ok (p, u))
    (sound : u.eccError p.key (if size = 0 then 4 else 8) = false) :
    let n := if size = 0 then 4 else 8
    let e := if op = 9 ∨ op = 11 then s.gr rd else 0
    let old := u.peek p.key n
    let r := amoFun op n old (s.gr rb) e
    amoBody op rd ra rb size order scope s = .ok ((), (u.atomicAt p n r (op = 11 ∧ addtCrosses n old r.1 e)).updMe
      (Core.acquiredG (if order.getLsbD 0 then scope.toNat else 0) rd r.2.2)) := by
  intro n e old r
  have translated := amoPlace_finds _ _ _ _ _ _ _ found
  have plain {r' : Nat × Bool × Word} {wakes : Prop} [Decidable wakes] {k : Nat} :
      ((u.atomicAt p n r' wakes).updMe (Core.acquired k)).me.plainReg rd = true :=
    State.atomicAt_plainReg.trans (translated.plainReg.trans hd)
  have operand {β : Type} {f : Word → M β} : (if op = 9 ∨ op = 11 then readReg rd >>= f else pure 0 >>= f) s = f e s := by
    by_cases h : op = 9 ∨ op = 11
    · rw [if_pos h, M.bind_ok (readReg_plain hd)]
      simp only [e, if_pos h]
    · rw [if_neg h]
      simp only [e, if_neg h]
      rfl
  rw [amoBody, M.bind_ok (readReg_plain ha), M.bind_ok (readReg_plain hb)]
  refine operand.trans ?_
  refine (M.bind_ok found).trans ((M.bind_look _ _).trans ?_)
  rw [if_neg (by rw [sound]; exact Bool.false_ne_true), if_neg (by simp [translated.batches, single])]
  refine M.maybe_change.trans (M.maybe_change.trans (M.maybe_change.trans (M.maybe_acquire.trans ?_)))
  exact writeReg_unless_zero plain
end

theorem addtThatCrossesWakesEveryWaiterOfItsWord : AddtThatCrossesWakesEveryWaiterOfItsWord := by
  intro rd ra rb size order scope s u t p n old new th hs hd ha hb found sound crosses ends w hw hk
  have same : u.peek p.key n = s.peek p.key n := by rw [State.peek, (amoPlace_finds _ _ _ _ _ _ _ found).mem, State.peek]
  have performed := amoBody_performed (order := order) (scope := scope) hd ha hb (Core.batches_of_gt (by decide)) found sound
  have runs : exec (.amoAddt rd ra rb size order scope) s = .next _ := runI_ok (i := .amoAddt rd ra rb size order scope) (decide_eq_true hs) performed
  have hit : addtCrosses n (u.peek p.key n) ((u.peek p.key n + (s.gr rb).toNat % 2 ^ (8 * n)) % 2 ^ (8 * n)) (s.gr rd) = true := by
    rw [same]
    exact addtCrosses_iff.2 crosses
  cases ends.symm.trans runs
  exact State.woken_of_mem_atomicAt ⟨rfl, hit⟩ hw hk

/-! ## WAITW (R126) -/

/-- The waiter that a WAITW of the current core registers on n bytes at a location. -/
def State.newWaiter (s : State) (key n : Nat) (target : Word) : Waiter where
  core := s.me.id
  pc := s.me.pc
  level := s.me.level
  key := key
  size := n
  target := target
  woken := false

/-- What a WAITW whose checks pass comes to: the status it returns, or the waiter it waits with. -/
def State.waitwComesTo (s : State) (key n : Nat) (target : Word) : Word ⊕ Waiter :=
  match s.waiterOf key with
  | some v => if v.woken then .inl 1 else if s.me.waitReady then .inl 3 else .inr v
  | none =>
    if waiterMet s.mem (s.newWaiter key n target) then .inl 0
    else if 64 ≤ s.bankWaiters key then .inl 2
    else .inr (s.newWaiter key n target)

/-- A WAITW that returns: its slot is free, then the acquire and the status. -/
def State.waitwReturned (s : State) (scope : Nat) (rd : BitVec 5) (st : Word) : State :=
  s.dropWaiter.updMe (Core.acquiredG scope rd st)

section
variable {s : State} {rd ra rb : BitVec 5} {size : BitVec 1} {order : BitVec 2} {scope : BitVec 3} {p : Place}
variable (hd : s.me.plainReg rd = true) (ha : s.me.plainReg ra = true) (hb : s.me.plainReg rb = true)
variable (found : amoPlace (s.gr ra) (if size = 0 then 4 else 8) 13 rd s = .ok (p, s))
variable (sound : s.eccError p.key (if size = 0 then 4 else 8) = false)
include hd ha hb found sound

/-- WAITW's body does what WAITW comes to. -/
theorem waitwBody_comesTo : waitwBody rd ra rb size order scope s =
    (s.waitwComesTo p.key (if size = 0 then 4 else 8) (s.gr rb)).elim
      (fun st => .ok (none, s.waitwReturned (if order.getLsbD 0 then scope.toNat else 0) rd st)) (fun w => .ok (some w, s)) := by
  have returns (st : Word) : (do
      change State.dropWaiter
      if order.getLsbD 0 then acquireM scope.toNat
      if rd ≠ 0 then writeReg rd st
      pure none : M (Option Waiter)) s = .ok (none, s.waitwReturned (if order.getLsbD 0 then scope.toNat else 0) rd st) :=
    (M.bind_change _ _ _).trans (M.maybe_acquire.trans (M.maybe_writeReg (s := s.dropWaiter.updMe (Core.acquired _)) hd))
  rw [waitwBody, M.bind_ok (readReg_plain ha), M.bind_ok (readReg_plain hb), M.bind_ok found, M.bind_look,
    if_neg (by rw [sound]; exact Bool.false_ne_true)]
  unfold State.waitwComesTo
  cases s.waiterOf p.key with
  | some v =>
    dsimp only
    by_cases woken : v.woken = true
    · rw [if_pos woken, if_pos woken]
      exact returns 1
    · rw [if_neg woken, if_neg woken]
      by_cases ready : s.me.waitReady = true
      · rw [if_pos ready, if_pos ready]
        exact returns 3
      · rw [if_neg ready, if_neg ready]
        rfl
  | none =>
    dsimp only
    by_cases met : waiterMet s.mem (s.newWaiter p.key (if size = 0 then 4 else 8) (s.gr rb)) = true
    · rw [if_pos met]
      exact (congrFun (if_pos met) s).trans (returns 0)
    · rw [if_neg met]
      refine (congrFun (if_neg met) s).trans ?_
      by_cases full : 64 ≤ s.bankWaiters p.key
      · rw [if_pos full, if_pos full]
        exact returns 2
      · rw [if_neg full, if_neg full]
        rfl

variable (hs : scope.toNat ≤ 5)
include hs

/-- A WAITW that comes to a status completes with it, its slot free. -/
theorem exec_waitw_returns {st : Word} (comes : s.waitwComesTo p.key (if size = 0 then 4 else 8) (s.gr rb) = .inl st) :
    ∃ t, exec (.amoWaitw rd ra rb size order scope) s = .next t ∧ t.gr rd = (if rd = 0 then 0 else st) ∧ t.me.pc = s.me.pc + 4 ∧
      t.mem = s.mem ∧ regFrame rd s t ∧ t.waiters = s.waiters.filter (fun x => !x.isOf s.me) ∧
      (order.getLsbD 0 = true → 0 < scope.toNat → t.me.l1d = []) := by
  have body := waitwBody_comesTo (order := order) (scope := scope) hd ha hb found sound
  rw [comes] at body
  have answers : Answers (if order.getLsbD 0 then scope.toNat else 0) rd st s
    (s.waitwReturned (if order.getLsbD 0 then scope.toNat else 0) rd st).retire := .of_written rfl rfl
  refine ⟨_, run_ok (i := .amoWaitw rd ra rb size order scope) (decide_eq_true hs) body, answers.gr, answers.pc, answers.mem,
    answers.regFrame, rfl, fun asks wide => answers.l1d ?_⟩
  rw [if_pos asks]
  exact Nat.ne_of_gt wide

/-- A WAITW that comes to a waiter parks with it; one that is not registered yet is. -/
theorem exec_waitw_waits {w : Waiter} (comes : s.waitwComesTo p.key (if size = 0 then 4 else 8) (s.gr rb) = .inr w) :
    exec (.amoWaitw rd ra rb size order scope) s =
      .next ((if (s.waiterOf w.key).isSome then s else s.addWaiter w).park (.word w.key ra rb size order scope) rd) := by
  have body := waitwBody_comesTo (order := order) (scope := scope) hd ha hb found sound
  rw [comes] at body
  exact run_ok (i := .amoWaitw rd ra rb size order scope) (decide_eq_true hs) body

end

theorem State.waiterOf_key {s : State} {k : Nat} {v : Waiter} (h : s.waiterOf k = some v) : v.key = k := by
  have found := List.find?_some h
  rw [Bool.and_eq_true, beq_iff_eq] at found
  exact found.2

theorem waitwReturnsItsStatus : WaitwReturnsItsStatus := by
  intro rd ra rb size order scope s p n w i met waits returns hs hd ha hb found sound
  have status {st : Word} (comes : s.waitwComesTo p.key n (s.gr rb) = .inl st) : returns st := exec_waitw_returns hd ha hb found sound hs comes
  have parks {v : Waiter} (comes : s.waitwComesTo p.key n (s.gr rb) = .inr v) := exec_waitw_waits (order := order) hd ha hb found sound hs comes
  have isMet : waiterMet s.mem (s.newWaiter p.key n (s.gr rb)) = true ↔ met := decide_eq_true_iff
  refine ⟨fun new hm => ?_, fun new hm full => ?_, fun new hm room => ?_,
    fun v hv => ⟨fun woken => ?_, fun asleep late => ?_, fun asleep early => ?_⟩⟩
  · exact status (by simp only [State.waitwComesTo, new, if_pos (isMet.2 hm)])
  · exact status (by simp only [State.waitwComesTo, new, if_neg (mt isMet.1 hm), if_pos full])
  · have comes : s.waitwComesTo p.key n (s.gr rb) = .inr w := by
      simp only [State.waitwComesTo, new, if_neg (mt isMet.1 hm), if_neg (Nat.not_le_of_lt room)]
      rfl
    have := parks comes
    rw [show s.waiterOf w.key = none from new] at this
    exact this
  · exact status (by simp only [State.waitwComesTo, hv, woken, if_true])
  · exact status (by simp only [State.waitwComesTo, hv, asleep, late, Bool.false_eq_true, if_false, if_true])
  · have comes : s.waitwComesTo p.key n (s.gr rb) = .inr v := by
      simp only [State.waitwComesTo, hv, asleep, early, Bool.false_eq_true, if_false]
    have := parks comes
    rw [State.waiterOf_key hv, hv] at this
    exact this

/-- Settles O8: what WAITW comes to, and the waiters after an ADDT that crosses. -/
theorem waitwWaitsAndAddtWakes : Obligations.WaitwWaitsAndAddtWakes := ⟨waitwReturnsItsStatus, addtThatCrossesWakesEveryWaiterOfItsWord⟩

end Sys2Proof.Machine
end

section
/-!
SUPPORT. The barrier channels by number, the status word, and the instructions that mark, wait, test and expect
(R118, R121, R123 to R125).
-/
namespace Sys2Proof.Machine

open Sys2Proof Sys2Proof.Claims

/-! ## Channels by number -/

section
variable {s t : State} {n : Nat} {x : Channel} {f : Channel → Channel}

theorem State.channel?_congr (h : t.channels = s.channels) : t.channel? n = s.channel? n := by rw [State.channel?, h, State.channel?]

theorem State.channel?_num (h : s.channel? n = some x) : x.num = n := by simpa using List.find?_some h

/-- Only the number of the channel that is changed must be kept. -/
theorem State.channel?_updChannel (hf : ∀ c, c.num = n → (f c).num = n) (h : s.channel? n = some x) :
    (s.updChannel n f).channel? n = some (f x) := by
  have keeps (c : Channel) : ((if c.num == n then f c else c).num == n) = (c.num == n) := by
    by_cases hc : c.num = n
    · simp [hc, hf c hc]
    · simp [hc]
  have found : (s.updChannel n f).channel? n = (s.channel? n).map (fun c => if c.num == n then f c else c) := find?_map_of_same keeps _
  rw [found, h, Option.map_some, if_pos (by simp [State.channel?_num h])]
end

section
variable (c : Channel) (cycle : Nat)

@[simp] theorem Channel.inCycle_num : (c.inCycle cycle).num = c.num := by unfold Channel.inCycle; split <;> rfl
@[simp] theorem Channel.inCycle_holder : (c.inCycle cycle).holder = c.holder := by unfold Channel.inCycle; split <;> rfl
@[simp] theorem Channel.inCycle_epoch : (c.inCycle cycle).epoch = c.epoch := by unfold Channel.inCycle; split <;> rfl
@[simp] theorem Channel.inCycle_count : (c.inCycle cycle).count = c.count := by unfold Channel.inCycle; split <;> rfl
@[simp] theorem Channel.inCycle_nextCount : (c.inCycle cycle).nextCount = c.nextCount := by unfold Channel.inCycle; split <;> rfl
@[simp] theorem Channel.inCycle_marks : (c.inCycle cycle).marks = c.marks := by unfold Channel.inCycle; split <;> rfl
@[simp] theorem Channel.inCycle_stalled : (c.inCycle cycle).stalled = c.stalled := by unfold Channel.inCycle; split <;> rfl
@[simp] theorem Channel.inCycle_gathered : (c.inCycle cycle).gathered = c.gathered := by unfold Channel.inCycle; split <;> rfl
@[simp] theorem Channel.inCycle_phase : (c.inCycle cycle).phase = c.phase := by unfold Channel.inCycle; split <;> rfl
@[simp] theorem Channel.inCycle_failedEpochs : (c.inCycle cycle).failedEpochs = c.failedEpochs := by
  unfold Channel.inCycle; split <;> rfl
theorem Channel.inCycle_recentMarks : (c.inCycle cycle).recentMarks = if c.recentAt = cycle then c.recentMarks else [] := by
  unfold Channel.inCycle; split <;> rfl
theorem Channel.inCycle_recentBytes : (c.inCycle cycle).recentBytes = if c.recentAt = cycle then c.recentBytes else 0 := by
  unfold Channel.inCycle; split <;> rfl
end

/-! ## The status word (R124) -/

section
variable {x : Channel} {e : Nat} {timeout : Bool}

theorem getElem_bitWord (b : Bool) (i : Nat) (h : i < 64) : (bitWord b)[i] = (b && decide (i = 0)) := by
  cases b <;> simp [bitWord, BitVec.getElem_one]

/-- The bits of EPOCH end at 31. -/
theorem getElem_ofNat_epoch {m i : Nat} (h : i < 64) (hi : 32 ≤ i) : (BitVec.ofNat 64 (m % 4294967296))[i] = false := by
  rw [show 4294967296 = 2 ^ 32 from rfl, ← BitVec.getLsbD_eq_getElem h, BitVec.getLsbD_ofNat, Nat.testBit_mod_two_pow,
    decide_eq_false (Nat.not_lt_of_le hi), Bool.false_and, Bool.and_false]

theorem barrierStatus_done : (barrierStatus x e timeout).getLsbD 63 = decide (e < x.epoch) := by
  simp [barrierStatus, getElem_bitWord, getElem_ofNat_epoch]

theorem barrierStatus_failed : (barrierStatus x e timeout).getLsbD 62 = (decide (e < x.epoch) && x.failedEpochs.contains e) := by
  simp [barrierStatus, getElem_bitWord, getElem_ofNat_epoch]

theorem barrierStatus_timeout : (barrierStatus x e timeout).getLsbD 61 = timeout := by
  simp [barrierStatus, getElem_bitWord, getElem_ofNat_epoch]

theorem barrierStatus_epoch : ((barrierStatus x e timeout).extractLsb' 0 32).toNat = e % 2 ^ 32 := by
  have low : (barrierStatus x e timeout).extractLsb' 0 32 = BitVec.ofNat 32 e := by
    refine BitVec.eq_of_getLsbD_eq fun i hi => ?_
    have shifted (b : Bool) {k : Nat} (hk : 32 ≤ k) : (bitWord b <<< k).getLsbD i = false := by
      rw [BitVec.getLsbD_shiftLeft, decide_eq_true (Nat.lt_of_lt_of_le hi hk)]
      simp
    rw [BitVec.getLsbD_extractLsb', Nat.zero_add, barrierStatus, BitVec.getLsbD_or, BitVec.getLsbD_or, BitVec.getLsbD_or,
      shifted _ (by decide), shifted _ (by decide), shifted _ (by decide), BitVec.getLsbD_ofNat, BitVec.getLsbD_ofNat, Nat.testBit_mod_two_pow]
    simp [hi, Nat.lt_trans hi (show 32 < 64 by decide)]
  rw [low, BitVec.toNat_ofNat]
end

/-! ## The check of the channel (R118, R123) -/

section
variable {s : State} {ch rd ra : BitVec 5} {x : Channel} {member : Bool}

theorem exec_arrive : exec (.arrive ch) s = arriveRun (.arrive ch) ch false s := rfl
theorem exec_arriveG : exec (.arriveG ch) s = arriveRun (.arriveG ch) ch true s := rfl
theorem exec_wait : exec (.wait rd ch) s = run (.wait rd ch) (waitBody rd ch) (waitFinish ch) s := rfl
theorem exec_btest : exec (.btest rd ch) s = runI (.btest rd ch) (btestBody rd ch) s := rfl
theorem exec_expect : exec (.expect ra ch) s = runI (.expect ra ch) (expectBody ra ch) s := rfl
theorem exec_bcancel : exec (.bcancel ch) s = runI (.bcancel ch) (bcancelBody ch) s := rfl

theorem channelCheck_unheld (h : s.me.holds ch.toNat = false) : channelCheck ch member s = .error (.trap 3 (ch.setWidth 64)) := by
  rw [channelCheck, M.bind_look, if_pos (by simp [h]), BitVec.ofNat_toNat]
  rfl

theorem channelCheck_held (held : s.me.holds ch.toNat = true) (mine : s.me.member ch.toNat = true) (found : s.channel? ch.toNat = some x) :
    channelCheck ch member s = .ok (x, s) := by
  rw [channelCheck, M.bind_look, if_neg (by simp [held, mine]), found]
  rfl

/-- A barrier instruction on a channel that the launch does not hold is cause 3 with the channel. -/
theorem exec_barrier_unheld (h : s.me.holds ch.toNat = false) :
    ∀ i ∈ [Instr.arrive ch, .arriveG ch, .wait rd ch, .btest rd ch, .bcancel ch], exec i s = .next (s.takeTrap 3 (ch.setWidth 64)) := by
  have stops {α : Type} {i : Instr} {member : Bool} {f : Channel → M α} {fin : α → State → State} (hi : i.wellFormed = true) :
      run i (channelCheck ch member >>= f) fin s = .next (s.takeTrap 3 (ch.setWidth 64)) :=
    run_trap hi (M.bind_error (channelCheck_unheld h))
  simp only [List.forall_mem_cons, List.not_mem_nil, false_implies, implies_true, and_true]
  exact ⟨exec_arrive.trans (stops rfl), exec_arriveG.trans (stops rfl), exec_wait.trans (stops rfl), exec_btest.trans (stops rfl),
    exec_bcancel.trans (stops rfl)⟩
end

/-! ## WAIT and BTEST (R124, R125) -/

theorem Answers.of_wait {s t : State} {k : Nat} {rd : BitVec 5} {w : Word} {r : Option WaitRec}
    (h : Answers k rd w (s.updMe (fun c => { c with wait := r })) t) : Answers k rd w s t := by
  refine ⟨h.me.trans ?_, h.mem⟩
  simp only [State.updMe_me, Core.acquiredG, Core.withG, Core.setGpr]
  split <;> rfl

section
variable {s : State} {ch rd : BitVec 5} {x : Channel}
variable (held : s.me.holds ch.toNat = true) (mine : s.me.member ch.toNat = true) (found : s.channel? ch.toNat = some x)
include held mine found

theorem waitBody_over (plain : s.me.plainReg rd = true) (ended : s.me.awaitedOn x < x.epoch) : waitBody rd ch s =
    .ok (x.failedEpochs.contains (s.me.awaitedOn x) && s.me.user.bmask.getLsbD 32,
      s.updMe (Core.acquiredG 4 rd (barrierStatus x (s.me.awaitedOn x) false))) := by
  rw [waitBody, M.bind_ok (channelCheck_held held mine found), M.bind_meM]
  rw [if_pos ended, M.bind_ok acquireM_apply]
  exact M.bind_ok (writeReg_plain (s := s.updMe (Core.acquired 4)) plain)

theorem waitBody_timeout (plain : s.me.plainReg rd = true) (going : ¬ s.me.awaitedOn x < x.epoch) (ready : s.me.waitReady = true) :
    waitBody rd ch s = .ok (false, s.updMe (Core.acquiredG 0 rd (barrierStatus x (s.me.awaitedOn x) true))) := by
  rw [waitBody, M.bind_ok (channelCheck_held held mine found), M.bind_meM]
  rw [if_neg going, if_pos ready]
  exact M.bind_ok (writeReg_plain plain)

theorem waitBody_waits (going : ¬ s.me.awaitedOn x < x.epoch) (early : s.me.waitReady = false) :
    waitBody rd ch s = .error (.stall (.barrier ch.toNat (s.me.awaitedOn x)) rd) := by
  rw [waitBody, M.bind_ok (channelCheck_held held mine found), M.bind_meM]
  rw [if_neg going, early]
  rfl

/-- A WAIT whose episode is over completes with its acquire, without a trap while FTRAP is clear. -/
theorem exec_wait_over (plain : s.me.plainReg rd = true) (ended : s.me.awaitedOn x < x.epoch) (noTrap : s.me.user.bmask.getLsbD 32 = false) :
    ∃ t, exec (.wait rd ch) s = .next t ∧ Answers 4 rd (barrierStatus x (s.me.awaitedOn x) false) s t := by
  refine ⟨_, exec_wait.trans (run_ok rfl (waitBody_over held mine found plain ended)), ?_⟩
  rw [noTrap, Bool.and_false]
  exact .of_written rfl rfl

theorem exec_wait_timeout (plain : s.me.plainReg rd = true) (going : ¬ s.me.awaitedOn x < x.epoch) (ready : s.me.waitReady = true) :
    ∃ t, exec (.wait rd ch) s = .next t ∧ Answers 0 rd (barrierStatus x (s.me.awaitedOn x) true) s t :=
  ⟨_, exec_wait.trans (run_ok rfl (waitBody_timeout held mine found plain going ready)), .of_written rfl rfl⟩

theorem exec_wait_waits (going : ¬ s.me.awaitedOn x < x.epoch) (early : s.me.waitReady = false) :
    exec (.wait rd ch) s = .next (s.park (.barrier ch.toNat (s.me.awaitedOn x)) rd) :=
  exec_wait.trans (run_stall rfl (waitBody_waits held mine found going early))

theorem exec_btest_answers (plain : s.me.plainReg rd = true) : ∃ t, exec (.btest rd ch) s = .next t ∧
    Answers (if s.me.awaitedOn x < x.epoch then 4 else 0) rd (barrierStatus x (s.me.awaitedOn x) false) s t := by
  have body : btestBody rd ch s = .ok ((), s.updMe (Core.acquiredG (if s.me.awaitedOn x < x.epoch then 4 else 0) rd
      (barrierStatus x (s.me.awaitedOn x) false))) := by
    rw [btestBody, M.bind_ok (channelCheck_held held mine found), M.bind_meM]
    exact M.maybe_acquire.trans (writeReg_plain (s := s.updMe (Core.acquired _)) plain)
  exact ⟨_, exec_btest.trans (runI_ok rfl body), .of_written rfl rfl⟩
end

/-! ## EXPECT (R121, R124) -/

section
variable {s : State} {ch ra : BitVec 5} {x : Channel}
variable (held : s.me.holds ch.toNat = true) (mine : s.me.member ch.toNat = true) (found : s.channel? ch.toNat = some x)
variable (plain : s.me.plainReg ra = true) (small : (s.gr ra).toNat < 2 ^ 39)
include held mine found plain small

theorem exec_expect_unmarked (new : s.me.unitNum ∉ x.marks) : exec (.expect ra ch) s = .next (s.updChannel ch.toNat (fun x =>
    { x with count := x.count + (s.gr ra).toNat, failing := x.failing || countOut (x.count + (s.gr ra).toNat) })).retire := by
  refine exec_expect.trans (runI_ok rfl ?_)
  rw [expectBody, M.bind_ok (readReg_plain plain), M.bind_ok (channelCheck_held held mine found), M.bind_meM,
    if_neg (Nat.not_le_of_lt small), if_neg (by simpa using new)]
  rfl

theorem exec_expect_marked (old : s.me.unitNum ∈ x.marks) : exec (.expect ra ch) s = .next (s.updChannel ch.toNat (fun x =>
    { x with nextCount := x.nextCount + (s.gr ra).toNat })).retire := by
  refine exec_expect.trans (runI_ok rfl ?_)
  rw [expectBody, M.bind_ok (readReg_plain plain), M.bind_ok (channelCheck_held held mine found), M.bind_meM,
    if_neg (Nat.not_le_of_lt small), if_pos (by simpa using old)]
  rfl
end

/-! ## ARRIVE and ARRIVE.G (R121) -/

/-- A channel that a core's unit has marked, with its event counters where it gathers. -/
def Channel.markedBy (c : Core) (gather : Bool) (y : Channel) : Channel :=
  { y with marks := y.marks ++ [c.unitNum], gathered := if gather then y.gathered ++ [c.gathered] else y.gathered }

/-- A channel that a unit has marked in this cycle. -/
def Channel.markedNow (u cycle : Nat) (y : Channel) : Channel :=
  { y.inCycle cycle with recentMarks := (y.inCycle cycle).recentMarks ++ [u] }

/-- A channel on which a unit's second arrival stalls. -/
def Channel.stalling (u : Nat) (x : Channel) : Channel :=
  { x with stalled := if x.stalled.contains u then x.stalled else x.stalled ++ [u] }

/-- The state after a first arrival. -/
def State.arrived (s : State) (ch : Nat) (gather : Bool) : State :=
  (s.markIn s.me.id ch gather).updChannel ch (Channel.markedNow s.me.unitNum s.cycle)

section
variable {s : State} {x : Channel} {gather : Bool} {n : Nat}

theorem State.markIn_me (found : s.channel? n = some x) : s.markIn s.me.id n gather =
    (s.updChannel n (Channel.markedBy s.me gather)).updMe (fun c => { c with
      awaited := setAssoc n x.epoch c.awaited, batchArrived := c.batchArrived || (c.batchChannel == some n) }) := by
  simp only [State.markIn, found, State.core_me]
  exact State.updCore_me (s := s.updChannel n (Channel.markedBy s.me gather))

theorem State.arrived_channel? (found : s.channel? n = some x) :
    (s.arrived n gather).channel? n = some ((x.markedBy s.me gather).markedNow s.me.unitNum s.cycle) := by
  refine State.channel?_updChannel (fun c h => (c.inCycle_num _).trans h) ?_
  rw [State.markIn_me found]
  exact State.channel?_updChannel (s := s) (fun _ h => h) found

/-- A first arrival leaves the core's registers and memory as they are. -/
theorem State.arrived_leaves (found : s.channel? n = some x) :
    (s.arrived n gather).me.pc = s.me.pc ∧ (s.arrived n gather).me.g = s.me.g ∧ (s.arrived n gather).mem = s.mem := by
  rw [State.arrived, State.markIn_me found]
  exact ⟨rfl, rfl, rfl⟩
end

section
variable {s : State} {ch : BitVec 5} {x : Channel} {gather : Bool} {i : Instr}
variable (held : s.me.holds ch.toNat = true) (mine : s.me.member ch.toNat = true) (found : s.channel? ch.toNat = some x)
variable (early : s.me.waitReady = false) (hi : i.wellFormed = true)
include held mine found early hi

theorem arriveRun_first (new : s.me.unitNum ∉ x.marks) : arriveRun i ch gather s = .next (s.arrived ch.toNat gather).retire := by
  refine run_ok (a := false) hi ?_
  rw [arriveBody, M.bind_ok (channelCheck_held held mine found), M.bind_meM, early, if_neg Bool.false_ne_true, if_neg (by simpa using new)]
  rfl

theorem arriveRun_second (old : s.me.unitNum ∈ x.marks) :
    arriveRun i ch gather s = .next ((s.updChannel ch.toNat (Channel.stalling s.me.unitNum)).park (.arrive ch.toNat gather) 0) := by
  refine run_ok (a := true) (t := s) hi ?_
  rw [arriveBody, M.bind_ok (channelCheck_held held mine found), M.bind_meM, early, if_neg Bool.false_ne_true, if_pos (by simpa using old)]
  rfl
end

/-- The record of a wait is of the kind that is waited for. -/
theorem nextWait_kind (s : State) (k : WaitKind) (rd : BitVec 5) : (nextWait s k rd).kind = k := by
  unfold nextWait
  dsimp only
  split
  · split
    · next h => exact h
    · rfl
  · rfl

end Sys2Proof.Machine
end

section
/-!
SUPPORT. The completion of an episode that holds no batched atomic and on which no arrival stalls, and BCANCEL
(R121, R122, R124).
-/
namespace Sys2Proof.Machine

open Sys2Proof Sys2Proof.Claims

/-! ## What the completion of an episode leaves -/

/-- The current core's registers and pc, memory, the launches and the cycle are as they were. -/
structure Steady (s t : State) : Prop where
  pc : t.me.pc = s.me.pc
  g : t.me.g = s.me.g
  mem : t.mem = s.mem
  parts : t.parts = s.parts
  cycle : t.cycle = s.cycle

/-- So are they, and no channel has changed. -/
structure Quiet (s t : State) : Prop extends Steady s t where
  channels : t.channels = s.channels

section
variable {s t u : State} {f : Core → Core}

theorem Steady.trans (h : Steady s t) (h' : Steady t u) : Steady s u :=
  ⟨h'.pc.trans h.pc, h'.g.trans h.g, h'.mem.trans h.mem, h'.parts.trans h.parts, h'.cycle.trans h.cycle⟩

theorem Steady.updChannel {n : Nat} {f : Channel → Channel} : Steady s (s.updChannel n f) := ⟨rfl, rfl, rfl, rfl, rfl⟩

theorem Quiet.refl : Quiet s s := ⟨⟨rfl, rfl, rfl, rfl, rfl⟩, rfl⟩

theorem Quiet.trans (h : Quiet s t) (h' : Quiet t u) : Quiet s u := ⟨h.toSteady.trans h'.toSteady, h'.channels.trans h.channels⟩

theorem Quiet.foldl {α : Type} {f : State → α → State} (hf : ∀ s a, Quiet s (f s a)) (l : List α) : Quiet s (l.foldl f s) := by
  induction l generalizing s with
  | nil => exact .refl
  | cons a l ih => exact (hf s a).trans ih

/-- A change of cores that keeps the pc and the registers of each. -/
def KeepsRegs (f : Core → Core) : Prop := ∀ c, (f c).pc = c.pc ∧ (f c).g = c.g

theorem Quiet.updCore {n : Nat} (hf : KeepsRegs f) : Quiet s (s.updCore n f) := by
  obtain ⟨pc, g⟩ : (s.updCore n f).me.pc = s.me.pc ∧ (s.updCore n f).me.g = s.me.g := by
    by_cases h : n = s.me.id
    · rw [State.me_updCore_same h]
      exact hf s.me
    · rw [State.me_updCore_other h]
      exact ⟨rfl, rfl⟩
  exact ⟨⟨pc, g, State.updCore_mem _ _ _, State.updCore_parts _ _ _, State.updCore_cycle _ _ _⟩, State.updCore_channels _ _ _⟩

theorem Quiet.mapUnits (hf : KeepsRegs f) : Quiet s (s.mapUnits f) := ⟨⟨(hf s.me).1, (hf s.me).2, rfl, rfl, rfl⟩, rfl⟩

theorem Quiet.atUnit {k : LaunchKey} {unit : Nat} (hf : KeepsRegs f) : Quiet s (s.atUnit k unit f) := by
  unfold State.atUnit
  split
  · exact .updCore hf
  · exact ⟨⟨rfl, rfl, rfl, rfl, rfl⟩, rfl⟩

theorem State.isBatchChannel_congr {x y : Channel} (hp : t.parts = s.parts) (hh : y.holder = x.holder) (hn : y.num = x.num) :
    t.isBatchChannel y = s.isBatchChannel x := by
  simp only [State.isBatchChannel, State.launch?_congr hp, hh, hn]
end

/-! ## The end of an episode (R121) -/

/-- A channel whose open episode, as it stood, has completed: the next one is open, with the count it was given. -/
def Channel.next (ch : Channel) (failed : Bool) (x : Channel) : Channel :=
  { x with
    epoch := ch.epoch + 1, count := ch.nextCount, nextCount := 0, marks := [], stalled := [], gathered := [],
    phase := !ch.phase, failed := failed,
    failedEpochs := if failed then ch.epoch :: ch.failedEpochs else ch.failedEpochs,
    failing := countOut ch.nextCount, gatherDue := none, recentMarks := [], recentBytes := 0 }

section
variable {s : State} {ch : Channel} {failed : Bool}

theorem State.batchPerform_of_plain (plain : s.isBatchChannel ch = false) : s.batchPerform ch failed = s := by
  rw [State.batchPerform, plain]
  rfl

theorem State.finishEpisode_eq (plain : s.isBatchChannel ch = false) (free : ch.stalled = []) :
    ∃ u, Quiet s u ∧ s.finishEpisode ch failed = u.updChannel ch.num (ch.next failed) := by
  refine ⟨(ch.marks.foldl (fun t u => t.atUnit ch.holder u (fun c => c.progress s.cycle)) s).mapUnits
    (fun c => { c with exchange := c.exchange.filter (fun x => x.1 != ch.num) }), ?_, ?_⟩
  · refine (Quiet.foldl (fun _ _ => .atUnit ?_) _).trans (.mapUnits ?_)
    · exact fun _ => ⟨rfl, rfl⟩
    · exact fun _ => ⟨rfl, rfl⟩
  · simp only [State.finishEpisode, State.batchPerform_of_plain plain, free, List.foldl_nil]
    split <;> rfl

/-- The end of an episode opens the next one on its channel, and is steady. -/
theorem State.finishEpisode_opens {x : Channel} (plain : s.isBatchChannel ch = false) (free : ch.stalled = []) (found : s.channel? ch.num = some x) :
    Steady s (s.finishEpisode ch failed) ∧ (s.finishEpisode ch failed).channel? ch.num = some (ch.next failed x) := by
  obtain ⟨u, quiet, e⟩ := State.finishEpisode_eq (failed := failed) plain free
  rw [e]
  exact ⟨quiet.toSteady.trans .updChannel, State.channel?_updChannel (fun _ h => h) ((State.channel?_congr quiet.channels).trans found)⟩

/-- An episode whose conditions hold and that gathers nothing completes with success. -/
theorem State.episodeComplete_ready (found : s.channel? ch.num = some ch) (good : ch.failing = false) (ready : s.episodeReady ch = true)
    (gathers : ch.gathered = []) : s.episodeComplete ch.num = s.finishEpisode ch false := by
  have wrote : s.gatherWrite ch = .ok s := by simp only [State.gatherWrite, gathers, sortBy, List.foldr_nil]
  simp only [State.episodeComplete, found, good, ready, wrote, Bool.false_eq_true, if_false, if_true]
end

/-! ## BCANCEL (R121, R122) -/

/-- A channel that a BCANCEL of this cycle fails: what arrived or landed in the cycle is told apart. -/
def Channel.cancelled (x : Channel) (cycle : Nat) : Channel := { x.inCycle cycle with failing := true, cancelAt := some cycle }

/-- The same without what arrived or landed in the cycle. -/
def Channel.beforeCycle (x : Channel) (cycle : Nat) : Channel :=
  let y := x.cancelled cycle
  { y with
    marks := y.marks.filter (fun u => !(x.inCycle cycle).recentMarks.contains u)
    gathered := y.gathered.filter (fun g => !(x.inCycle cycle).recentMarks.contains g.unit)
    nextCount := y.nextCount - (x.inCycle cycle).recentBytes }

section
variable {s : State} {x : Channel}

/-- What arrived in the cycle of a BCANCEL is marked in the episode that is open after it. -/
theorem State.markAfter_adds {n : Nat} {us : List Nat} {gs : List Gathered} (found : s.channel? n = some x) :
    Steady s (s.markAfter n us gs) ∧
      (s.markAfter n us gs).channel? n = some { x with marks := x.marks ++ us, gathered := x.gathered ++ gs } := by
  simp only [State.markAfter, found]
  have quiet := Quiet.foldl (s := s.updChannel n (fun y => { y with marks := y.marks ++ us, gathered := y.gathered ++ gs }))
    (f := fun s u => s.atUnit x.holder u (fun c => { c with awaited := setAssoc n x.epoch c.awaited }))
    (fun _ _ => .atUnit fun _ => ⟨rfl, rfl⟩) us
  exact ⟨Steady.updChannel.trans quiet.toSteady, (State.channel?_congr quiet.channels).trans (State.channel?_updChannel (fun _ h => h) found)⟩

theorem State.mustFail_of_plain {ch : Channel} (plain : s.isBatchChannel ch = false) (failing : ch.failing = true) : s.mustFail ch = true := by
  rw [State.mustFail, State.evictionHolds, failing, plain]
  rfl

theorem Channel.beforeCycle_num (x : Channel) (cycle : Nat) : (x.beforeCycle cycle).num = x.num := x.inCycle_num cycle

theorem Channel.beforeCycle_holder (x : Channel) (cycle : Nat) : (x.beforeCycle cycle).holder = x.holder := x.inCycle_holder cycle

theorem State.failEpisode_eq (plain : s.isBatchChannel x = false) : ∃ gs, s.failEpisode x =
    ((s.updChannel x.num (fun _ => x.cancelled s.cycle)).finishEpisode (x.beforeCycle s.cycle) true).markAfter x.num
      (x.inCycle s.cycle).recentMarks gs := by
  have must : (s.updChannel x.num (fun _ => x.cancelled s.cycle)).mustFail (x.cancelled s.cycle) = true :=
    State.mustFail_of_plain ((State.isBatchChannel_congr rfl (x.inCycle_holder _) (x.inCycle_num _)).trans plain) rfl
  exact ⟨_, if_pos must⟩

/-- A BCANCEL of an episode ends it as failed; what arrived or landed in its cycle is in the next one. -/
theorem State.failEpisode_opens (plain : s.isBatchChannel x = false) (free : x.stalled = []) (found : s.channel? x.num = some x) :
    Steady s (s.failEpisode x) ∧ ∃ y, (s.failEpisode x).channel? x.num = some y ∧ y.epoch = x.epoch + 1 ∧ y.failed = true ∧
      y.phase = !x.phase ∧ y.marks = (x.inCycle s.cycle).recentMarks ∧ y.count = x.nextCount - (x.inCycle s.cycle).recentBytes ∧
      y.failedEpochs = x.epoch :: x.failedEpochs := by
  obtain ⟨gs, e⟩ := State.failEpisode_eq plain
  have num := x.beforeCycle_num s.cycle
  have failing : (s.updChannel x.num (fun _ => x.cancelled s.cycle)).channel? (x.beforeCycle s.cycle).num = some (x.cancelled s.cycle) := by
    rw [num]
    exact State.channel?_updChannel (f := fun _ => x.cancelled s.cycle) (fun _ _ => num) found
  have still : (s.updChannel x.num (fun _ => x.cancelled s.cycle)).isBatchChannel (x.beforeCycle s.cycle) = false :=
    (State.isBatchChannel_congr rfl (x.beforeCycle_holder _) num).trans plain
  obtain ⟨ends, opens⟩ := State.finishEpisode_opens (failed := true) still ((x.inCycle_stalled _).trans free) failing
  rw [num] at opens
  obtain ⟨marks, after⟩ := State.markAfter_adds (us := (x.inCycle s.cycle).recentMarks) (gs := gs) opens
  rw [e]
  refine ⟨(Steady.updChannel.trans ends).trans marks, _, after, ?_, rfl, ?_, List.nil_append _, ?_, ?_⟩
  · exact congrArg (· + 1) (x.inCycle_epoch _)
  · exact congrArg not (x.inCycle_phase _)
  · exact congrArg (· - _) (x.inCycle_nextCount _)
  · exact congrArg₂ List.cons (x.inCycle_epoch _) (x.inCycle_failedEpochs _)

/-- The conditions of the open episode held before this cycle: nothing has arrived or landed in it (R122). -/
def State.endsFirst (s : State) (x : Channel) : Prop := s.episodeReady x = true ∧ x.gatherDue = none ∧ x.failing = false ∧
  (x.inCycle s.cycle).recentMarks = [] ∧ (x.inCycle s.cycle).recentBytes = 0

/-- A second BCANCEL of the same cycle changes nothing (R122). -/
theorem State.bcancel_again (again : x.cancelAt = some s.cycle) : s.bcancel x = s := if_pos again

section
variable (first : x.cancelAt ≠ some s.cycle)
include first

theorem State.bcancel_open (going : ¬ s.endsFirst x) : s.bcancel x = s.failEpisode x := by
  refine (if_neg first).trans (if_neg fun h => going ?_)
  simp only [Bool.and_eq_true, Bool.not_eq_true', List.isEmpty_iff, beq_iff_eq, Option.isNone_iff_eq_none] at h
  obtain ⟨⟨⟨⟨marks, bytes⟩, ready⟩, due⟩, good⟩ := h
  exact ⟨ready, due, good, marks, bytes⟩

/-- An episode whose conditions held before completes first, and the next one is failed. -/
theorem State.bcancel_done (done : s.endsFirst x) (gathers : x.gathered = []) (found : s.channel? x.num = some x) (plain : s.isBatchChannel x = false)
    (free : x.stalled = []) : s.bcancel x = (s.finishEpisode x false).failEpisode (x.next false x) := by
  obtain ⟨ready, due, good, marks, bytes⟩ := done
  have completes := State.episodeComplete_ready found good ready gathers
  have opens := (State.finishEpisode_opens (failed := false) plain free found).2
  refine (if_neg first).trans ((if_pos ?_).trans ?_)
  · simp [ready, due, good, marks, bytes]
  · dsimp only
    rw [completes, opens]
end

/-- A BCANCEL of an episode whose conditions did not hold before. -/
theorem State.bcancel_fails (plain : s.isBatchChannel x = false) (free : x.stalled = []) (found : s.channel? x.num = some x)
    (first : x.cancelAt ≠ some s.cycle) (going : ¬ s.endsFirst x) :
    Steady s (s.bcancel x) ∧ ∃ y, (s.bcancel x).channel? x.num = some y ∧ y.epoch = x.epoch + 1 ∧ y.failed = true ∧ y.phase = !x.phase ∧
      y.marks = (x.inCycle s.cycle).recentMarks ∧ y.count = x.nextCount - (x.inCycle s.cycle).recentBytes := by
  rw [State.bcancel_open first going]
  obtain ⟨steady, y, hy, epoch, failed, phase, marks, count, -⟩ := State.failEpisode_opens plain free found
  exact ⟨steady, y, hy, epoch, failed, phase, marks, count⟩

/-- A BCANCEL of an episode whose conditions held before. -/
theorem State.bcancel_fails_next (plain : s.isBatchChannel x = false) (free : x.stalled = []) (found : s.channel? x.num = some x)
    (first : x.cancelAt ≠ some s.cycle) (done : s.endsFirst x) (gathers : x.gathered = []) :
    Steady s (s.bcancel x) ∧ ∃ y, (s.bcancel x).channel? x.num = some y ∧ y.epoch = x.epoch + 2 ∧ y.failed = true ∧ y.phase = x.phase ∧
      y.marks = [] ∧ y.count = 0 ∧ y.failedEpochs = (x.epoch + 1) :: x.failedEpochs := by
  rw [State.bcancel_done first done gathers found plain free]
  obtain ⟨ends, opens⟩ := State.finishEpisode_opens (failed := false) plain free found
  obtain ⟨steady, y, hy, epoch, failed, phase, marks, count, epochs⟩ :=
    State.failEpisode_opens (x := x.next false x) ((State.isBatchChannel_congr ends.parts rfl rfl).trans plain) rfl opens
  have noMarks : ((x.next false x).inCycle (s.finishEpisode x false).cycle).recentMarks = [] := by
    rw [Channel.inCycle_recentMarks]
    exact ite_self _
  have noBytes : ((x.next false x).inCycle (s.finishEpisode x false).cycle).recentBytes = 0 := by
    rw [Channel.inCycle_recentBytes]
    exact ite_self _
  refine ⟨ends.trans steady, y, hy, epoch, failed, phase.trans (Bool.not_not _), marks.trans noMarks, ?_, epochs⟩
  rw [count, noBytes]
  rfl
end

theorem exec_bcancel_held {s : State} {x : Channel} {ch : BitVec 5} (held : s.me.holds ch.toNat = true) (mine : s.me.member ch.toNat = true)
    (found : s.channel? ch.toNat = some x) : exec (.bcancel ch) s = .next (s.bcancel x).retire :=
  exec_bcancel.trans (runI_ok rfl (M.bind_ok (channelCheck_held held mine found)))

end Sys2Proof.Machine
end

section
/-!
SUPPORT. Bound bytes, the end of WAITTO, and the statements on barrier channels (O15).
-/
namespace Sys2Proof.Machine

open Sys2Proof Sys2Proof.Claims

/-! ## Bound bytes (R121, R122) -/

section
variable {s : State} {n : Nat} {x : Channel}

/-- Bound bytes count down the open episode, or the next one once the conditions of the open one hold. -/
theorem State.landBytes_counts (found : s.channel? n = some x) (bytes : Nat) : ∃ y, (s.landBytes n bytes).channel? n = some y ∧
    (s.episodeReady x = false ∨ x.gatherDue ≠ none → y.count = x.count - bytes ∧ y.nextCount = x.nextCount) ∧
    (s.episodeReady x = true → x.gatherDue = none → y.count = x.count ∧ y.nextCount = x.nextCount - bytes) ∧
    y.epoch = x.epoch ∧ y.marks = x.marks := by
  refine ⟨_, State.channel?_updChannel (fun c h => ?_) found, ?_⟩
  · dsimp only
    split
    · exact h
    · exact (c.inCycle_num _).trans h
  · by_cases ends : (s.episodeReady x && x.gatherDue.isNone) = true
    · rw [if_pos ends]
      rw [Bool.and_eq_true, Option.isNone_iff_eq_none] at ends
      obtain ⟨ready, due⟩ := ends
      exact ⟨fun h => by simp [ready, due] at h, fun _ _ => ⟨rfl, rfl⟩, rfl, rfl⟩
    · rw [if_neg ends]
      rw [Bool.and_eq_true, Option.isNone_iff_eq_none] at ends
      exact ⟨fun _ => ⟨rfl, x.inCycle_nextCount _⟩, fun ready due => absurd ⟨ready, due⟩ ends, x.inCycle_epoch _, x.inCycle_marks _⟩
end

/-! ## The end of WAITTO (R124, R126) -/

/-- The current core's wait is over. -/
def State.waitEnded (s : State) (w : WaitRec) : State := s.updMe (fun c => { c with wait := some { w with ready := true } })

section
variable {s : State} {w : WaitRec} (hw : s.me.wait = some w) (due : s.me.waittoDue s.cycle = true) (alone : s.fused = false)
include hw alone

theorem State.endWait_alone (perform : State → Host.Outcome State Fault Refusal) : s.endWait perform = perform (s.waitEnded w) := by
  rw [State.endWait, alone, hw]
  rfl

include due

theorem exec_waittoExpiry_barrier {n e : Nat} (hk : w.kind = .barrier n e) :
    exec .waittoExpiry s = exec (.wait w.rd (BitVec.ofNat 5 n)) (s.waitEnded w) := by
  obtain ⟨kind, since, count, limit, rd, ready, awaits⟩ := w
  cases hk
  refine Eq.trans ?_ (State.endWait_alone hw alone (execWait rd (BitVec.ofNat 5 n)))
  show execWaittoExpiry s = _
  rw [execWaittoExpiry, hw]
  exact if_pos due

theorem exec_waittoExpiry_word {k : Nat} {ra rb : BitVec 5} {size : BitVec 1} {order : BitVec 2} {scope : BitVec 3}
    (hk : w.kind = .word k ra rb size order scope) :
    exec .waittoExpiry s = exec (.amoWaitw w.rd ra rb size order scope) (s.waitEnded w) := by
  obtain ⟨kind, since, count, limit, rd, ready, awaits⟩ := w
  cases hk
  refine Eq.trans ?_ (State.endWait_alone hw alone (execAmoWaitw rd ra rb size order scope))
  show execWaittoExpiry s = _
  rw [execWaittoExpiry, hw]
  exact if_pos due
end

/-- A wait that is over awaits the episode it has awaited. -/
theorem State.awaitedOn_waitEnded {s : State} {w : WaitRec} {x : Channel} (hw : s.me.wait = some w) :
    (s.waitEnded w).me.awaitedOn x = s.me.awaitedOn x := by
  simp only [Core.awaitedOn, hw]
  rfl

/-! ## The statements -/

theorem barrierInstructionsActOnTheOpenEpisode : BarrierInstructionsActOnTheOpenEpisode := by
  intro ch rd ra s x
  refine ⟨exec_barrier_unheld, fun held mine found num => ⟨fun idle new => ?_, fun idle old => ?_, fun plain ended noTrap => ?_,
    fun idle going => ?_, fun plain => ?_, fun plain small new => ?_, fun plain small old => ?_, ?_, fun again => ?_⟩⟩
  · have early : s.me.waitReady = false := by rw [Core.waitReady, idle]
    refine ⟨?_, ?_⟩
    · obtain ⟨pc, g, mem⟩ := State.arrived_leaves (gather := false) found
      exact ⟨_, _, exec_arrive.trans (arriveRun_first held mine found early rfl new), State.arrived_channel? found, Channel.inCycle_marks _ _,
        Channel.inCycle_gathered _ _, Channel.inCycle_epoch _ _, congrArg (· + 4) pc, g, mem⟩
    · obtain ⟨pc, g, mem⟩ := State.arrived_leaves (gather := true) found
      exact ⟨_, _, exec_arriveG.trans (arriveRun_first held mine found early rfl new), State.arrived_channel? found, Channel.inCycle_marks _ _,
        Channel.inCycle_gathered _ _, congrArg (· + 4) pc, g, mem⟩
  · have early : s.me.waitReady = false := by rw [Core.waitReady, idle]
    refine ⟨_, exec_arrive.trans (arriveRun_second held mine found early rfl old), ?_, rfl, rfl, rfl⟩
    exact congrArg some (nextWait_kind _ _ _)
  · obtain ⟨t, runs, answers⟩ := exec_wait_over held mine found plain ended noTrap
    refine ⟨t, runs, answers.pc, fun hr => ?_, answers.regFrame, answers.mem⟩
    rw [answers.gr_of_ne_zero hr, barrierStatus_done, barrierStatus_failed, barrierStatus_timeout, barrierStatus_epoch, decide_eq_true ended]
    exact ⟨rfl, rfl, rfl, rfl⟩
  · exact exec_wait_waits held mine found going (by rw [Core.waitReady, idle])
  · obtain ⟨t, runs, answers⟩ := exec_btest_answers held mine found plain
    exact ⟨t, runs, answers.pc, fun hr => by rw [answers.gr_of_ne_zero hr, barrierStatus_done], answers.regFrame, answers.mem⟩
  · exact ⟨_, _, exec_expect_unmarked held mine found plain small new, State.channel?_updChannel (fun _ h => h) found, rfl, rfl, rfl, rfl, rfl⟩
  · exact ⟨_, _, exec_expect_marked held mine found plain small old, State.channel?_updChannel (fun _ h => h) found, rfl, rfl, rfl, rfl, rfl⟩
  · intro late bytes done free plain first
    have runs := exec_bcancel_held held mine found
    have own : s.channel? x.num = some x := by rw [num]; exact found
    have hlate : (x.inCycle s.cycle).recentMarks = late := x.inCycle_recentMarks _
    have hbytes : (x.inCycle s.cycle).recentBytes = bytes := x.inCycle_recentBytes _
    have same : s.endsFirst x ↔ done := by rw [State.endsFirst, hlate, hbytes]
    rw [← num]
    refine ⟨fun going => ?_, fun ends gathers => ?_⟩
    · obtain ⟨steady, y, hy, epoch, failed, phase, marks, count⟩ := State.bcancel_fails plain free own first (mt same.1 going)
      exact ⟨_, y, runs, hy, epoch, failed, phase, marks.trans hlate, by rw [count, hbytes], congrArg (· + 4) steady.pc, steady.g, steady.mem⟩
    · obtain ⟨steady, y, hy, epoch, failed, phase, marks, count, epochs⟩ := State.bcancel_fails_next plain free own first (same.2 ends) gathers
      refine ⟨_, y, runs, hy, epoch, failed, ?_, fun new => ?_, phase, marks, count, congrArg (· + 4) steady.pc, steady.g, steady.mem⟩
      · rw [epochs]
        exact List.mem_cons_self
      · rw [epochs, List.mem_cons, not_or]
        exact ⟨Nat.ne_of_lt (Nat.lt_succ_self _), new⟩
  · rw [exec_bcancel_held held mine found, State.bcancel_again again]

theorem episodesCountBytesCompleteAndTimeOut : EpisodesCountBytesCompleteAndTimeOut := by
  intro n s x found num
  refine ⟨fun bytes => ?_, fun good ready gathers plain free => ?_, fun e w hw hk due plain alone hn held mine => ?_,
    fun k ra rb size order scope w hw hk due alone => exec_waittoExpiry_word hw due alone hk⟩
  · obtain ⟨y, hy, going, ended, epoch, marks⟩ := State.landBytes_counts found bytes
    exact ⟨_, y, rfl, hy, going, ended, epoch, marks, rfl, State.landBytes_mem _ _ _⟩
  · subst num
    obtain ⟨steady, opens⟩ := State.finishEpisode_opens (failed := false) plain free found
    exact ⟨_, _, congrArg Host.Outcome.next (State.episodeComplete_ready found good ready gathers), opens, rfl, rfl, rfl, rfl, rfl, rfl,
      steady.mem⟩
  · obtain ⟨ch, rfl⟩ : ∃ ch : BitVec 5, ch.toNat = n := ⟨BitVec.ofNat 5 n, (BitVec.toNat_ofNat n 5).trans (Nat.mod_eq_of_lt hn)⟩
    have runs := exec_waittoExpiry_barrier hw due alone hk
    rw [BitVec.ofNat_toNat, BitVec.setWidth_eq] at runs
    have awaited := State.awaitedOn_waitEnded (x := x) hw
    refine ⟨fun going => ?_, fun ended noTrap => ?_⟩
    · obtain ⟨t, ends, answers⟩ := exec_wait_timeout (s := s.waitEnded w) held mine found plain
        (by rw [awaited]; exact Nat.not_lt_of_le going) rfl
      have answers := answers.of_wait
      refine ⟨t, runs.trans ends, answers.pc, answers.wait, fun hr => ?_, answers.regFrame, answers.mem⟩
      rw [answers.gr_of_ne_zero hr, barrierStatus_timeout, barrierStatus_done, awaited, decide_eq_false (Nat.not_lt_of_le going)]
      exact ⟨rfl, rfl⟩
    · obtain ⟨t, ends, answers⟩ := exec_wait_over (s := s.waitEnded w) held mine found plain (by rw [awaited]; exact ended) noTrap
      have answers := answers.of_wait
      refine ⟨t, runs.trans ends, answers.pc, answers.wait, answers.l1d (by decide), fun hr => ?_, answers.regFrame, answers.mem⟩
      rw [answers.gr_of_ne_zero hr, barrierStatus_timeout, barrierStatus_done, awaited, decide_eq_true ended]
      exact ⟨rfl, rfl⟩

/-- Settles O15: each instruction on its channel, and the channel's own events. -/
theorem barriersCountMarksAndBytesIntoEpisodes : Obligations.BarriersCountMarksAndBytesIntoEpisodes :=
  ⟨barrierInstructionsActOnTheOpenEpisode, episodesCountBytesCompleteAndTimeOut⟩

end Sys2Proof.Machine
end
